-- ==== Sys2Proof/Word.lean ====
section
/-! DEFINITION. The word types of the Lubiuth processor (00 R5, 01 R20-R21) and nothing more. -/

namespace Sys2Proof

/-- A byte of any memory (00 R5). -/
abbrev Byte := BitVec 8

/-- A 32-bit lane, literal, instruction or trigger word. -/
abbrev Word := BitVec 32

/-- A 64-bit register, packet or resource-table word. -/
abbrev Dword := BitVec 64

/-- The 512-bit payload of a token as its 16 lanes of 4 bytes, lane 0 first (01 R21). -/
abbrev Lanes := Vector Word 16

/-- The payload that holds zero throughout. -/
def Lanes.zero : Lanes := Vector.replicate 16 0

end Sys2Proof
end

