-- ==== Sys2Proof/Config.lean ====
section
/-! DEFINITION. What the spec leaves to an outside algorithm or does not fix: free values, each an opaque constant with no body,
so that a claim is true whatever it is; and the figures of the part (00 R1). -/

namespace Sys2Proof.Config

/-- A fresh free value, applied to the counter State.freeCtr (log 22). -/
opaque freeValue : Nat → BitVec 64

/-- 03 R101: the device physical address of a weight-store granule, by die and 64-byte granule, which is its tweak; no map of the manual gives
it (log 6). -/
opaque wsAddress : (die : Nat) → (granule : Nat) → Nat

/-- 16 R483: the two 256-bit keys that AES key unwrap (RFC 3394) gives for the wrapped data under the session, or none when
the unwrap fails (log 15). -/
opaque unwrapKey : (session : Nat) → (wrapped : Vector Dword 9) → Option (Vector Dword 8)

/-- 16 R477 step 1: the device key derived into key slot 0 (log 15). -/
opaque deviceKey : Vector Dword 8

/-- 16 R481: whether the RSA-4096 RSASSA-PSS signature over SHA-512 of a firmware image verifies under the public keys of two digests (log 16). -/
opaque rsaVerifies : (image : Nat) → (vendor owner : BitVec 512) → Bool

/-- 16 R481: whether the ML-DSA-87 signature of a firmware image verifies (log 16). -/
opaque mldsaVerifies : (image : Nat) → (vendor owner : BitVec 512) → Bool

/-- 16 R482: whether the content of a FINISH request completes the key exchange of a session, which DMTF SPDM fixes (log 17). -/
opaque spdmFinishes : (session : Nat) → (proof : Nat) → Bool

/-- 16 R482: the content of an SPDM response that DMTF SPDM, and not this manual, fixes; by request code and arguments (log 17). -/
opaque spdmContent : (request : Nat) → (args : List Nat) → Nat

/-- 00 R1: HBM of the package in bytes, 576 GiB. -/
def hbmBytes : Nat := 576 * 2 ^ 30

/-- 16 R478: first byte of the firmware carve-out, the top 16 GiB of HBM. -/
def carveBase : Nat := 0x8C_0000_0000

/-- 11 R356: tiles of one die's weight store. -/
def wsTiles : Nat := 196608

/-- 05 R178: scratchpad units of 64 bytes that one page owns. -/
def pageUnits : Nat := 49152

/-- 03 R97, 07 R255, 12 R393: the wait in fc after which XLT_TIMEOUT, SCL_EXHAUSTED and JN_ISB_DEADLOCK are raised. -/
def longWait : Nat := 1048576

end Sys2Proof.Config
end

