-- ==== Sys2Proof/Machine/Token.lean ====
section
/-! DEFINITION. The token and the register payload (01 R20-R25, 08 R275) as plain data. -/

namespace Sys2Proof.Machine

/-- The format tags of 01 R22. -/
inductive Fmt where
  | i32 | f32 | b16 | h16 | e4 | e5 | i8 | c4
  deriving DecidableEq, Repr

/-- The body of a token, which is also what a data register holds (08 R275): payload, FMT, VLEN, BIND, BGEN. -/
structure Reg where
  lanes : Lanes
  fmt : Fmt
  vlen : Fin 16
  bind : BitVec 11
  bgen : BitVec 5
  deriving DecidableEq, Repr

/-- The zero token of 02 R58: FMT I32, VLEN 15, zero payload and header. -/
def Reg.zero : Reg := ⟨Lanes.zero, .i32, 15, 0, 0⟩

/-- A token (01 R20). The reserved header bits are zero in every token (01 R25) and have no place here. -/
structure Token where
  body : Reg
  ctx : BitVec 6
  iter : BitVec 12
  eos : Bool
  kill : Bool
  spec : Bool
  deriving DecidableEq, Repr

/-- A token on a link or in a pass register with its two sideband bits (08 R278). -/
structure LinkTok where
  tok : Token
  par : Bool
  ical : Bool
  deriving DecidableEq, Repr

end Sys2Proof.Machine
end

