-- ==== Sys2Proof/Machine/Numeric.lean ====
section
/-! DEFINITION. Number formats, exact reals, rounding and the element packing of 07 R242-R253, and the exact functions that 09 R328-R333
round once. -/

namespace Sys2Proof.Machine

/-! ### Formats and packing (01 R22, 07 R242) -/

def Fmt.code : Fmt → Nat
  | .i32 => 0 | .f32 => 1 | .b16 => 2 | .h16 => 3 | .e4 => 4 | .e5 => 5 | .i8 => 6 | .c4 => 7

def Fmt.ofCode : Nat → Fmt
  | 0 => .i32 | 1 => .f32 | 2 => .b16 | 3 => .h16 | 4 => .e4 | 5 => .e5 | 6 => .i8 | _ => .c4

/-- Bits of one element (09 R317 ebits). -/
def Fmt.width : Fmt → Nat
  | .i32 => 32 | .f32 => 32 | .b16 => 16 | .h16 => 16 | .e4 => 8 | .e5 => 8 | .i8 => 8 | .c4 => 4

/-- Elements of a full token (09 R317 elems). -/
def Fmt.elems (f : Fmt) : Nat := 512 / f.width

/-- FMT 4 to 7 (01 R23). -/
def Fmt.scaled : Fmt → Bool
  | .e4 => true | .e5 => true | .i8 => true | .c4 => true | _ => false

/-- The set F of 02 R66. -/
def Fmt.floating : Fmt → Bool
  | .f32 => true | .b16 => true | .h16 => true | _ => false

/-- Sixteen lanes from a function, lane 0 first. -/
def Lanes.ofFn (f : Nat → Word) : Lanes :=
  #v[f 0, f 1, f 2, f 3, f 4, f 5, f 6, f 7, f 8, f 9, f 10, f 11, f 12, f 13, f 14, f 15]

/-- Lane `i`; a lane past 15 reads zero. -/
def Lanes.lane (l : Lanes) (i : Nat) : Word := if h : i < 16 then l[i] else 0

def Reg.lane (r : Reg) (i : Nat) : Word := Lanes.lane r.lanes i

/-- Byte `n` of a payload (01 R21). -/
def Lanes.byte (l : Lanes) (n : Nat) : Byte := .ofNat 8 ((Lanes.lane l (n / 4)).toNat / 2 ^ (8 * (n % 4)))

/-- Element `j` of `w` bits (07 R242). -/
def Lanes.elem (l : Lanes) (w j : Nat) : Nat := (Lanes.lane l (j * w / 32)).toNat / 2 ^ (j * w % 32) % 2 ^ w

/-- The number whose `w`-bit digits are the list, the first lowest. -/
def packDigits (w : Nat) : List Nat → Nat
  | [] => 0
  | x :: xs => x % 2 ^ w + 2 ^ w * packDigits w xs

/-- A payload from its elements of `w` bits; elements that the list does not reach are zero. -/
def Lanes.ofElems (w : Nat) (xs : List Nat) : Lanes :=
  Lanes.ofFn fun i => .ofNat 32 (packDigits w ((xs.drop (i * (32 / w))).take (32 / w)))

/-- How many elements of a width are valid under a VLEN (09 R317 valid_elem). -/
def validCount (f : Fmt) (v : Nat) : Nat := 32 * (v + 1) / f.width

/-- The valid elements of a payload read in format `f` under VLEN `v`, in ascending order. -/
def validElems (f : Fmt) (l : Lanes) (v : Nat) : List Nat := (List.range (validCount f v)).map fun j => Lanes.elem l f.width j

/-- A VLEN from a number (01 R25). -/
def vlenOf (n : Nat) : Fin 16 := Fin.ofNat 16 n

/-- A token body of FMT `f`, VLEN `v` and no binding whose first elements are the list (01 R21, 01 R23). -/
def mkReg (f : Fmt) (v : Nat) (xs : List Nat) : Reg := ⟨Lanes.ofElems f.width xs, f, vlenOf v, 0, 0⟩

/-- An I32 body of 16 equal lanes (01 R19, 02 R60). -/
def splat (f : Fmt) (w : Word) : Reg := ⟨Lanes.ofFn fun _ => w, f, 15, 0, 0⟩

/-- Zero every byte past the valid length (01 R21). -/
def Reg.trim (r : Reg) : Reg := { r with lanes := Lanes.ofFn fun i => if i ≤ r.vlen.val then r.lane i else 0 }

/-! ### Exact values -/

/-- A value that a function forms before it is rounded. `fin s m e st` is `m * 2^e` with sign `s` when `st` is false, and lies strictly
between `m * 2^e` and `(m + 1) * 2^e` in magnitude when it is true. -/
inductive Exact where
  | nan
  | inf (neg : Bool)
  | fin (neg : Bool) (m : Nat) (e : Int) (st : Bool)
  deriving DecidableEq, Repr

/-- Number of bits of a natural number. -/
def bitLen (n : Nat) : Nat := if n = 0 then 0 else Nat.log2 n + 1

/-- `m * 2^e` cut to an integer, for a nonnegative or negative exponent. -/
def scaleNat (m : Nat) (e : Int) : Nat := if 0 ≤ e then m * 2 ^ e.toNat else m / 2 ^ (-e).toNat

/-- A floating format (07 R243): exponent bits, fraction bits, bias, whether it has infinities, its largest finite encoding. -/
structure FloatFmt where
  ebits : Nat
  fbits : Nat
  bias : Nat
  ieee : Bool
  deriving DecidableEq, Repr

def Fmt.float : Fmt → FloatFmt
  | .f32 => ⟨8, 23, 127, true⟩
  | .b16 => ⟨8, 7, 127, true⟩
  | .h16 => ⟨5, 10, 15, true⟩
  | .e4 => ⟨4, 3, 7, false⟩
  | _ => ⟨5, 2, 15, true⟩

/-- The exponent of the lowest fraction bit of subnormals. -/
def FloatFmt.qmin (g : FloatFmt) : Int := 1 - (g.bias : Int) - (g.fbits : Int)

def FloatFmt.expMax (g : FloatFmt) : Nat := 2 ^ g.ebits - 1

/-- The magnitude encoding of the largest finite value. E4 keeps its top exponent but for fraction 111 (07 R243). -/
def FloatFmt.maxEnc (g : FloatFmt) : Nat :=
  if g.ieee then g.expMax * 2 ^ g.fbits - 1 else g.expMax * 2 ^ g.fbits + 2 ^ g.fbits - 2

/-- The magnitude encoding of infinity, for a format that has one. -/
def FloatFmt.infEnc (g : FloatFmt) : Nat := g.expMax * 2 ^ g.fbits

/-- The canonical quiet NaN (07 R244). -/
def FloatFmt.nanEnc (g : FloatFmt) : Nat :=
  if g.ieee then g.expMax * 2 ^ g.fbits + 2 ^ (g.fbits - 1) else g.expMax * 2 ^ g.fbits + 2 ^ g.fbits - 1

def FloatFmt.signBit (g : FloatFmt) : Nat := 2 ^ (g.ebits + g.fbits)

def signed (g : FloatFmt) (neg : Bool) (mag : Nat) : Nat := if neg then g.signBit + mag else mag

/-- The value that a floating encoding stands for (07 R243). -/
def decodeFloat (g : FloatFmt) (x : Nat) : Exact :=
  let neg := x / g.signBit % 2 == 1
  let mag := x % g.signBit
  let ex := mag / 2 ^ g.fbits
  let fr := mag % 2 ^ g.fbits
  if g.ieee = true ∧ ex = g.expMax then (if fr = 0 then .inf neg else .nan)
  else if g.ieee = false ∧ mag = g.nanEnc then .nan
  else if ex = 0 then .fin neg fr g.qmin false
  else .fin neg (2 ^ g.fbits + fr) (g.qmin + (ex : Int) - 1) false

/-- Two's complement of `w` bits. -/
def toInt (w x : Nat) : Int := if x % 2 ^ w < 2 ^ (w - 1) then ((x % 2 ^ w : Nat) : Int) else ((x % 2 ^ w : Nat) : Int) - (2 ^ w : Nat)

def ofInt (w : Nat) (x : Int) : Nat := (x % (2 ^ w : Nat)).toNat

def exactInt (x : Int) : Exact := .fin (decide (x < 0)) x.natAbs 0 false

/-- The value of an element in format `f` (09 R317 val); a C4 code alone has no value. -/
def valueOf (f : Fmt) (x : Nat) : Exact :=
  match f with
  | .i32 => exactInt (toInt 32 x)
  | .i8 => exactInt (toInt 8 x)
  | .c4 => exactInt x
  | g => decodeFloat g.float x

/-! ### Rounding (07 R248-R252) -/

/-- A magnitude cut to a grid of spacing 2^q: the lower neighbour in units of 2^q, whether the magnitude lies strictly above it, how
twice the distance compares with the spacing, and R249's q32. -/
structure Cut where
  a : Nat
  inexact : Bool
  half : Ordering
  q32 : Nat
  deriving DecidableEq, Repr

def cutAt (m : Nat) (e q : Int) (st : Bool) : Cut :=
  let sh := (q - e).toNat
  if q ≤ e then ⟨m * 2 ^ (e - q).toNat, st, .lt, 0⟩
  else
    let r := m % 2 ^ sh
    let half := if 2 * r < 2 ^ sh then Ordering.lt else if 2 * r = 2 ^ sh then (if st then .gt else .eq) else .gt
    ⟨m / 2 ^ sh, st || decide (r ≠ 0), half, r * 2 ^ 32 / 2 ^ sh⟩

/-- R248: whether the upper neighbour is taken. `r` is the LFSR's new state. -/
def takeUpper (srnd : Nat) (neg : Bool) (r : Nat) (c : Cut) : Bool :=
  c.inexact &&
    match srnd with
    | 0 => c.half == .gt || (c.half == .eq && c.a % 2 == 1)
    | 1 => false
    | 2 => !neg
    | 3 => neg
    | _ => decide (r ≤ c.q32)

def Cut.round (c : Cut) (srnd : Nat) (neg : Bool) (r : Nat) : Nat := if takeUpper srnd neg r c then c.a + 1 else c.a

/-- The encoding of `mag * 2^q` as a magnitude of unbounded exponent. -/
def encMag (g : FloatFmt) (mag : Nat) (q : Int) : Nat :=
  if mag < 2 ^ g.fbits then mag
  else (q - g.qmin).toNat * 2 ^ g.fbits + mag

/-- R251: the result of an overflow. -/
def overflowEnc (g : FloatFmt) (srnd : Nat) (ssat neg : Bool) : Nat :=
  if g.ieee = false ∨ ssat = true ∨ srnd = 1 ∨ (srnd = 2 ∧ neg = true) ∨ (srnd = 3 ∧ neg = false) then g.maxEnc else g.infEnc

/-- R248-R252 for a floating target. -/
def roundFloat (g : FloatFmt) (srnd : Nat) (ssat : Bool) (r : Nat) : Exact → Nat
  | .nan => g.nanEnc
  | .inf neg => signed g neg (if g.ieee then g.infEnc else g.maxEnc)
  | .fin neg m e st =>
    let q := max g.qmin (e + (bitLen m : Int) - 1 - (g.fbits : Int))
    let mag := (cutAt m e q st).round srnd neg r
    let enc := encMag g mag q
    signed g neg (if g.maxEnc < enc then overflowEnc g srnd ssat neg else enc)

/-- R248-R252 for a two's complement target of `w` bits. -/
def roundInt (w : Nat) (srnd : Nat) (r : Nat) : Exact → Nat
  | .nan => 0
  | .inf neg => if neg then 2 ^ (w - 1) else 2 ^ (w - 1) - 1
  | .fin neg m e st =>
    let mag := (cutAt m e 0 st).round srnd neg r
    if neg then ofInt w (-(min mag (2 ^ (w - 1)) : Nat)) else min mag (2 ^ (w - 1) - 1)

/-- R248-R252: round_to. C4 has no grid of its own (R265 chooses its codes). -/
def roundTo (f : Fmt) (srnd : Nat) (ssat : Bool) (r : Nat) (x : Exact) : Nat :=
  match f with
  | .i32 => roundInt 32 srnd r x
  | .i8 => roundInt 8 srnd r x
  | .c4 => 0
  | g => roundFloat g.float srnd ssat r x

/-! ### The LFSR (07 R249) -/

def lfsrStep (s : Word) : Word :=
  let d : Word := .ofNat 32 (s.toNat * 2)
  if s.toNat / 2 ^ 31 = 1 then d ^^^ 0x00400007 else d

/-- Round one element: SRND 4 steps the LFSR first (R249). -/
def roundStep (f : Fmt) (srnd : Nat) (ssat : Bool) (l : Word) (x : Exact) : Nat × Word :=
  if srnd = 4 then (roundTo f srnd ssat (lfsrStep l).toNat x, lfsrStep l) else (roundTo f srnd ssat 0 x, l)

/-- Round a list in order, threading the LFSR. -/
def roundList (f : Fmt) (srnd : Nat) (ssat : Bool) : List Exact → Word → List Nat × Word
  | [], l => ([], l)
  | x :: xs, l =>
    let p := roundStep f srnd ssat l x
    let r := roundList f srnd ssat xs p.2
    (p.1 :: r.1, r.2)

/-! ### Exact arithmetic (09 R328, R329) -/

def Exact.isNan : Exact → Bool
  | .nan => true | _ => false

def Exact.isInf : Exact → Bool
  | .inf _ => true | _ => false

def Exact.isZero : Exact → Bool
  | .fin _ m _ st => m == 0 && !st | _ => false

def Exact.neg : Exact → Exact
  | .nan => .nan
  | .inf s => .inf (!s)
  | .fin s m e st => .fin (!s) m e st

def Exact.abs : Exact → Exact
  | .nan => .nan
  | .inf _ => .inf false
  | .fin _ m e st => .fin false m e st

def Exact.sign : Exact → Bool
  | .nan => false
  | .inf s => s
  | .fin s _ _ _ => s

/-- Exponent scaling by 2^k. -/
def Exact.scale (k : Int) : Exact → Exact
  | .fin s m e st => .fin s m (e + k) st
  | x => x

/-- The signed integer that `m * 2^e` is in units of 2^q, for q ≤ e. -/
def inUnits (s : Bool) (m : Nat) (e q : Int) : Int := if s then -((m * 2 ^ (e - q).toNat : Nat) : Int) else ((m * 2 ^ (e - q).toNat : Nat) : Int)

/-- R329: the sum of two exact values. `down` is SRND 3, under which an exact zero from a sum is -0. -/
def Exact.add (down : Bool) : Exact → Exact → Exact
  | .nan, _ => .nan
  | _, .nan => .nan
  | .inf s, .inf t => if s = t then .inf s else .nan
  | .inf s, _ => .inf s
  | _, .inf t => .inf t
  | .fin s m e _, .fin t n k _ =>
    let q := min e k
    let z := inUnits s m e q + inUnits t n k q
    if z = 0 then .fin (if m = 0 ∧ n = 0 ∧ s = t then s else down) 0 q false
    else .fin (decide (z < 0)) z.natAbs q false

/-- R329: the product of two exact values. -/
def Exact.mul : Exact → Exact → Exact
  | .nan, _ => .nan
  | _, .nan => .nan
  | .inf s, .inf t => .inf (s != t)
  | .inf s, .fin t n _ _ => if n = 0 then .nan else .inf (s != t)
  | .fin s m _ _, .inf t => if m = 0 then .nan else .inf (s != t)
  | .fin s m e _, .fin t n k _ => .fin (s != t) (m * n) (e + k) false

/-- Comparison of two values that are not NaN: less, equal or greater. -/
def Exact.cmp : Exact → Exact → Ordering
  | .inf s, .inf t => if s = t then .eq else if s then .lt else .gt
  | .inf s, _ => if s then .lt else .gt
  | _, .inf t => if t then .gt else .lt
  | .fin s m e _, .fin t n k _ =>
    let q := min e k
    compare (inUnits s m e q) (inUnits t n k q)
  | _, _ => .eq

/-- 09 R330: pick, on encodings of format `f`. -/
def pickElem (f : Fmt) (less : Bool) (a b : Nat) : Nat :=
  let x := valueOf f a
  let y := valueOf f b
  if x.isNan then (if y.isNan then f.float.nanEnc else b)
  else if y.isNan then a
  else
    match x.cmp y with
    | .eq => if x.sign = y.sign then a else if less = x.sign then a else b
    | .lt => if less then a else b
    | .gt => if less then b else a

/-! ### Special functions (09 R332, R333) -/

/-- Fixed-point fraction bits of the special functions. -/
def fxBits : Nat := 400

/-- Low bits that a result of the fixed-point evaluation gives up to its error bound. -/
def fxGuard : Nat := 40

/-- Integer square root by one bit at a time, from bit `k` down. -/
def isqrtAux (n : Nat) : Nat → Nat → Nat
  | 0, r => if (r + 1) * (r + 1) ≤ n then r + 1 else r
  | k + 1, r => isqrtAux n k (if (r + 2 ^ (k + 1)) * (r + 2 ^ (k + 1)) ≤ n then r + 2 ^ (k + 1) else r)

def isqrt (n : Nat) : Nat := isqrtAux n (bitLen n / 2 + 1) 0

/-- 1 / (m * 2^e), m not 0. -/
def recipFin (neg : Bool) (m : Nat) (e : Int) : Exact :=
  let k := bitLen m + 80
  .fin neg (2 ^ k / m) (-e - (k : Int)) (decide (2 ^ k % m ≠ 0))

/-- The square root of m * 2^e. -/
def sqrtFin (m : Nat) (e : Int) : Exact :=
  let s : Nat := 160 + (if e % 2 = 0 then 0 else 1)
  let r := isqrt (m * 2 ^ s)
  .fin false r ((e - (s : Int)) / 2) (decide (r * r ≠ m * 2 ^ s))

/-- 1 / sqrt(m * 2^e), m not 0. -/
def rsqrtFin (m : Nat) (e : Int) : Exact :=
  let m' := if e % 2 = 0 then m else 2 * m
  let e' := if e % 2 = 0 then e else e - 1
  let k := bitLen m' + 80
  let r := isqrt (2 ^ (2 * k) / m')
  .fin false r (-(e' / 2) - (k : Int)) (decide (r * r * m' ≠ 2 ^ (2 * k)))

/-- The sum of 1/(j * 3^j) over odd j from `j` on, in fixed point: `p` is 1/3^j. -/
def atanhThird : Nat → Nat → Nat → Nat
  | 0, _, _ => 0
  | n + 1, j, p => p / j + atanhThird n (j + 2) (p / 9)

/-- ln 2 = 2 atanh(1/3) in fixed point. -/
def fxLn2 : Nat := 2 * atanhThird 140 1 (2 ^ fxBits / 3)

/-- The Taylor sum of e^y from the term `t` = y^k / k! on. -/
def expTail (y : Nat) : Nat → Nat → Nat → Nat
  | 0, _, _ => 0
  | n + 1, k, t => t + expTail y n (k + 1) (t * y / 2 ^ fxBits / (k + 1))

/-- e^y in fixed point, for 0 ≤ y < 1. -/
def fxExp (y : Nat) : Nat := expTail y 90 0 (2 ^ fxBits)

/-- 2^f in fixed point for a fraction f in fixed point, 0 ≤ f < 1. -/
def fxExp2 (f : Nat) : Nat := fxExp (f * fxLn2 / 2 ^ fxBits)

/-- Odd powers of z over their index, from z^j on: `p` is z^j. -/
def atanhTail (z2 : Nat) : Nat → Nat → Nat → Nat
  | 0, _, _ => 0
  | n + 1, j, p => p / j + atanhTail z2 n (j + 2) (p * z2 / 2 ^ fxBits)

/-- log2 x in fixed point for 1 ≤ x < 2 in fixed point: ln x = 2 atanh((x-1)/(x+1)). -/
def fxLog2 (x : Nat) : Nat :=
  let z := (x - 2 ^ fxBits) * 2 ^ fxBits / (x + 2 ^ fxBits)
  2 * atanhTail (z * z / 2 ^ fxBits) 140 1 z * 2 ^ fxBits / fxLn2

/-- A positive irrational result from its fixed-point value times 2^n: the low guard bits are dropped, the rest stands strictly below it.
An evaluation whose guard bits cannot tell which way the result lies takes the lower neighbour (log 20). -/
def fxResult (neg : Bool) (v : Nat) (n : Int) : Exact :=
  .fin neg ((v + 2 ^ (fxGuard / 2)) / 2 ^ fxGuard) (n - (fxBits : Int) + (fxGuard : Int)) true

/-- The floor of m * 2^e / ln 2 as an integer part and a fixed-point fraction, for a magnitude. -/
def fxDivLn2 (m : Nat) (e : Int) : Nat × Nat :=
  let y := scaleNat m (e + 2 * (fxBits : Int)) / fxLn2
  (y / 2 ^ fxBits, y % 2 ^ fxBits)

/-- e^-x for x = m * 2^e > 0: as 2^-n times a fixed-point value in (1/2, 1]. -/
def fxExpNeg (m : Nat) (e : Int) : Nat × Nat :=
  let p := fxDivLn2 m e
  (p.1 + 1, fxExp2 (2 ^ fxBits - p.2))

/-- 09 R333 RCP. -/
def rcpExact : Exact → Exact
  | .nan => .nan
  | .inf s => .fin s 0 0 false
  | .fin s m e _ => if m = 0 then .inf s else recipFin s m e

/-- 09 R333 SQRT. -/
def sqrtExact : Exact → Exact
  | .nan => .nan
  | .inf s => if s then .nan else .inf false
  | .fin s m e _ => if m = 0 then .fin s 0 e false else if s then .nan else sqrtFin m e

/-- 09 R333 RSQ. -/
def rsqExact : Exact → Exact
  | .nan => .nan
  | .inf s => if s then .nan else .fin false 0 0 false
  | .fin s m e _ => if m = 0 then .inf s else if s then .nan else rsqrtFin m e

/-- 2^a for a finite a: exact for an integer, and beyond the range of every format a value that rounds as 2^a does. -/
def exp2Fin (s : Bool) (m : Nat) (e : Int) : Exact :=
  if m = 0 then .fin false 1 0 false
  else if 2000 < scaleNat m e then (if s then .fin false 0 (-1500) true else .fin false 1 2000 false)
  else if 0 ≤ e then .fin false 1 (inUnits s m e 0) false
  else
    let u : Nat := 2 ^ (-e).toNat
    let n : Int := if s then -((m / u : Nat) : Int) - 1 else ((m / u : Nat) : Int)
    let fr := if s then (u - m % u) % u else m % u
    if m % u = 0 then .fin false 1 (if s then -((m / u : Nat) : Int) else ((m / u : Nat) : Int)) false
    else fxResult false (fxExp2 (fr * 2 ^ fxBits / u)) n

/-- 09 R333 EXP2. -/
def exp2Exact : Exact → Exact
  | .nan => .nan
  | .inf s => if s then .fin false 0 0 false else .inf false
  | .fin s m e _ => exp2Fin s m e

/-- log2 of m * 2^e, m not 0. -/
def log2Fin (m : Nat) (e : Int) : Exact :=
  let l := bitLen m - 1
  let n := e + (l : Int)
  if m = 2 ^ l then exactInt n
  else
    let g := fxLog2 (m * 2 ^ (fxBits - l))
    if 0 ≤ n then fxResult false (n.toNat * 2 ^ fxBits + g) 0
    else fxResult true ((-n - 1).toNat * 2 ^ fxBits + (2 ^ fxBits - g)) 0

/-- 09 R333 LOG2. -/
def log2Exact : Exact → Exact
  | .nan => .nan
  | .inf s => if s then .nan else .inf false
  | .fin s m e _ => if m = 0 then .inf true else if s then .nan else log2Fin m e

/-- tanh of a nonzero finite value: (1 - u) / (1 + u) with u = e^-2x; next to x itself when x is tiny and next to 1 when it is large. -/
def tanhFin (s : Bool) (m : Nat) (e : Int) : Exact :=
  if e + (bitLen m : Int) ≤ -70 then .fin s (m * 2 ^ 100 - 1) (e - 100) true
  else if 100 ≤ scaleNat m e then .fin s (2 ^ 200 - 1) (-200) true
  else
    let p := fxExpNeg m (e + 1)
    let u := p.2 / 2 ^ p.1
    fxResult s ((2 ^ fxBits - u) * 2 ^ fxBits / (2 ^ fxBits + u)) 0

/-- 09 R333 TANH. -/
def tanhExact : Exact → Exact
  | .nan => .nan
  | .inf s => .fin s 1 0 false
  | .fin s m e _ => if m = 0 then .fin s 0 e false else tanhFin s m e

/-- 1 / (1 + e^-a) for a nonzero finite a: u = e^-|a|, then 1/(1+u), or u/(1+u) for a negative a. -/
def sigmFin (s : Bool) (m : Nat) (e : Int) : Exact :=
  if 150 ≤ scaleNat m e ∧ s = false then .fin false (2 ^ 200 - 1) (-200) true
  else if 1200 ≤ scaleNat m e then .fin false 0 (-1500) true
  else
    let p := fxExpNeg m e
    let u := p.2 / 2 ^ p.1
    if s then fxResult false (p.2 * 2 ^ fxBits / (2 ^ fxBits + u)) (-(p.1 : Int))
    else fxResult false (2 ^ fxBits * 2 ^ fxBits / (2 ^ fxBits + u)) 0

/-- 09 R333 SIGM. -/
def sigmExact : Exact → Exact
  | .nan => .nan
  | .inf s => if s then .fin false 0 0 false else .fin false 1 0 false
  | .fin s m e _ => if m = 0 then .fin false 1 (-1) false else sigmFin s m e

/-! ### The reduction tree (07 R253) -/

/-- One level of the tree at stride `w`: `xs` holds the elements of index 0, w, 2w, ... -/
def reduceLevel (op : Nat → Nat → Word → Nat × Word) : List Nat → Word → List Nat × Word
  | [], l => ([], l)
  | [x], l => ([x], l)
  | x :: y :: xs, l =>
    let p := op x y l
    let r := reduceLevel op xs p.2
    (p.1 :: r.1, r.2)

/-- The tree over the present elements, `n` levels. An absent element stands only after every present one, so a node with one absent
input passes the other through. -/
def treeReduce (op : Nat → Nat → Word → Nat × Word) : Nat → List Nat → Word → List Nat × Word
  | 0, xs, l => (xs, l)
  | n + 1, xs, l =>
    let r := reduceLevel op xs l
    treeReduce op n r.1 r.2

end Sys2Proof.Machine
end

