-- ==== Sys2Proof/Machine/Vector.lean ====
section
/-! DEFINITION. What each V-page instruction computes from its operands (09 R317-R341, 07 R264): pure functions of the operand
bodies, the operating format, the modifiers and the LFSR, each giving a result body and the LFSR's new state. -/

namespace Sys2Proof.Machine

/-- The operands of one firing after its sources are read (09 R314). -/
structure OpIn where
  a : Reg
  b : Reg
  acc : Reg
  f : Fmt
  srnd : Nat
  ssat : Bool
  lfsr : Word
  deriving DecidableEq, Repr

/-- A result body and the LFSR after the firing. -/
abbrev OpOut := Reg × Word

/-- 09 R316: the VLEN of element operands A and B. -/
def OpIn.vlen2 (x : OpIn) : Nat := min x.a.vlen.val x.b.vlen.val

/-- 09 R316: the VLEN of A, B and the accumulator. -/
def OpIn.vlen3 (x : OpIn) : Nat := min x.vlen2 x.acc.vlen.val

def OpIn.elems (x : OpIn) (r : Reg) (v : Nat) : List Nat := validElems x.f r.lanes v

/-- 09 R317 elementwise over A. -/
def elem1 (g : Nat → Nat) (x : OpIn) : OpOut := (mkReg x.f x.a.vlen.val ((x.elems x.a x.a.vlen.val).map g), x.lfsr)

/-- 09 R317 elementwise over A and B. -/
def elem2 (g : Nat → Nat → Nat) (x : OpIn) : OpOut :=
  (mkReg x.f x.vlen2 (List.zipWith g (x.elems x.a x.vlen2) (x.elems x.b x.vlen2)), x.lfsr)

/-- 09 R317 elementwise over A, B and the accumulator. -/
def elem3 (g : Nat → Nat → Nat → Nat) (x : OpIn) : OpOut :=
  (mkReg x.f x.vlen3
    (List.zipWith (fun p c => g p.1 p.2 c) (List.zip (x.elems x.a x.vlen3) (x.elems x.b x.vlen3)) (x.elems x.acc x.vlen3)), x.lfsr)

/-- Elementwise results given as exact values, each rounded once by frnd, under SSAT 0, in ascending order (09 R316, R317, R328). -/
def frnd (x : OpIn) (v : Nat) (xs : List Exact) : OpOut :=
  let r := roundList x.f x.srnd false xs x.lfsr
  (mkReg x.f v r.1, r.2)

/-! ### Moves (09 R318-R322) -/

/-- R318: A whole, under FMT f. -/
def opMove (x : OpIn) : OpOut := ({ x.a with fmt := x.f }, x.lfsr)

/-- R321 SEL. -/
def opSel (x : OpIn) : OpOut :=
  ({ x.a with fmt := x.f, lanes := Lanes.ofFn fun i => if x.b.lane i = 0 then 0 else x.a.lane i }, x.lfsr)

/-- R321 SETVL. -/
def opSetvl (x : OpIn) : OpOut := (Reg.trim { x.a with fmt := x.f, vlen := vlenOf ((x.b.lane 0).toNat % 16) }, x.lfsr)

/-- The lane index that lane `i` of B names. -/
def laneSel (b : Reg) (i : Nat) : Nat := (b.lane i).toNat % 16

/-- A lane of A; one above A's VLEN reads as zero. -/
def laneUpTo (a : Reg) (k : Nat) : Word := if k ≤ a.vlen.val then a.lane k else 0

/-- R322 BCAST. -/
def opBcast (x : OpIn) : OpOut := (splat x.f (laneUpTo x.a (laneSel x.b 0)), x.lfsr)

/-! ### Integer arithmetic (09 R323, R324) -/

/-- R317 ires. -/
def ires (ssat : Bool) (z : Int) : Nat := if ssat then ofInt 32 (min (max z (-2 ^ 31)) (2 ^ 31 - 1)) else ofInt 32 z

/-- The signed value of an I32 element. -/
def sval (e : Nat) : Int := toInt 32 e

def opAdd (x : OpIn) : OpOut := elem2 (fun a b => ires x.ssat (sval a + sval b)) x
def opSub (x : OpIn) : OpOut := elem2 (fun a b => ires x.ssat (sval a - sval b)) x
def opMul (x : OpIn) : OpOut := elem2 (fun a b => ires x.ssat (sval a * sval b)) x
def opMulh (x : OpIn) : OpOut := elem2 (fun a b => ofInt 32 (sval a * sval b / 2 ^ 32)) x
def opMad (x : OpIn) : OpOut := elem3 (fun a b c => ires x.ssat (sval a * sval b + sval c)) x
def opNeg (x : OpIn) : OpOut := elem1 (fun a => ires x.ssat (-sval a)) x
def opAbs (x : OpIn) : OpOut := elem1 (fun a => ires x.ssat (sval a).natAbs) x
def opMin (x : OpIn) : OpOut := elem2 (fun a b => ofInt 32 (min (sval a) (sval b))) x
def opMax (x : OpIn) : OpOut := elem2 (fun a b => ofInt 32 (max (sval a) (sval b))) x

/-! ### Logic, shifts and bit counts (09 R325) -/

/-- Lane by lane over A and raw B, VLEN the lesser, FMT A's. -/
def lane2 (g : Word → Word → Word) (x : OpIn) : OpOut :=
  (Reg.trim ⟨Lanes.ofFn fun i => g (x.a.lane i) (x.b.lane i), x.f, vlenOf x.vlen2, 0, 0⟩, x.lfsr)

/-- Lane by lane over A. -/
def lane1 (g : Word → Word) (x : OpIn) : OpOut :=
  (Reg.trim ⟨Lanes.ofFn fun i => g (x.a.lane i), x.f, x.a.vlen, 0, 0⟩, x.lfsr)

/-- The shift count of R325. -/
def shCount (b : Word) : Nat := b.toNat % 32

/-- 1 bits among the low `n` bits. -/
def popCount : Nat → Nat → Nat
  | 0, _ => 0
  | n + 1, x => x % 2 + popCount n (x / 2)

def opAnd (x : OpIn) : OpOut := lane2 (fun a b => a &&& b) x
def opOr (x : OpIn) : OpOut := lane2 (fun a b => a ||| b) x
def opXor (x : OpIn) : OpOut := lane2 (fun a b => a ^^^ b) x
def opAndn (x : OpIn) : OpOut := lane2 (fun a b => a &&& ~~~b) x
def opNot (x : OpIn) : OpOut := lane1 (fun a => ~~~a) x
def opShl (x : OpIn) : OpOut := lane2 (fun a b => .ofNat 32 (a.toNat * 2 ^ shCount b)) x
def opShr (x : OpIn) : OpOut := lane2 (fun a b => .ofNat 32 (a.toNat / 2 ^ shCount b)) x
def opSar (x : OpIn) : OpOut := lane2 (fun a b => .ofNat 32 (ofInt 32 (sval a.toNat / 2 ^ shCount b))) x
def opPopc (x : OpIn) : OpOut := lane1 (fun a => .ofNat 32 (popCount 32 a.toNat)) x
def opClz (x : OpIn) : OpOut := lane1 (fun a => .ofNat 32 (32 - bitLen a.toNat)) x

/-! ### Compares (09 R326, R327) -/

/-- All ones or zero of an element's width. -/
def maskElem (f : Fmt) (p : Bool) : Nat := if p then 2 ^ f.width - 1 else 0

/-- A compare: masks of f's width under FMT I32. -/
def cmp2 (p : Nat → Nat → Bool) (x : OpIn) : OpOut :=
  let r := elem2 (fun a b => maskElem x.f (p a b)) x
  ({ r.1 with fmt := .i32 }, r.2)

/-- An IEEE or signed relation, given for the outcomes less, equal and greater; `un` is its value when an operand is NaN. -/
def rel (f : Fmt) (lt eq gt un : Bool) (a b : Nat) : Bool :=
  let x := valueOf f a
  let y := valueOf f b
  if x.isNan || y.isNan then un
  else
    match x.cmp y with
    | .lt => lt
    | .eq => eq
    | .gt => gt

def opCmpeq (x : OpIn) : OpOut := cmp2 (rel x.f false true false false) x
def opCmpne (x : OpIn) : OpOut := cmp2 (rel x.f true false true true) x
def opCmplt (x : OpIn) : OpOut := cmp2 (rel x.f true false false false) x
def opCmple (x : OpIn) : OpOut := cmp2 (rel x.f true true false false) x
def opCmpltu (x : OpIn) : OpOut := cmp2 (fun a b => decide (a < b)) x

/-- R327: an I32 element with a 1 bit; a floating element other than ±0. -/
def nonzeroElem (f : Fmt) (e : Nat) : Bool := if f = .i32 then decide (e ≠ 0) else decide (e % f.float.signBit ≠ 0)

def testResult (p : Bool) (x : OpIn) : OpOut := (mkReg .i32 0 [p.toNat], x.lfsr)

def opAnynz (x : OpIn) : OpOut := testResult ((x.elems x.a x.a.vlen.val).any (nonzeroElem x.f)) x
def opAllnz (x : OpIn) : OpOut := testResult ((x.elems x.a x.a.vlen.val).all (nonzeroElem x.f)) x

/-! ### Floating point (09 R328-R331) -/

/-- SRND 3, under which an exact zero sum is -0 (R329). -/
def OpIn.down (x : OpIn) : Bool := x.srnd == 3

def OpIn.vals (x : OpIn) (r : Reg) (v : Nat) : List Exact := (x.elems r v).map (valueOf x.f)

/-- Elementwise over A and B, each exact result rounded once. -/
def float2 (g : Exact → Exact → Exact) (x : OpIn) : OpOut :=
  frnd x x.vlen2 (List.zipWith g (x.vals x.a x.vlen2) (x.vals x.b x.vlen2))

/-- Elementwise over A, B and the accumulator. -/
def float3 (g : Exact → Exact → Exact → Exact) (x : OpIn) : OpOut :=
  frnd x x.vlen3
    (List.zipWith (fun p c => g p.1 p.2 c) (List.zip (x.vals x.a x.vlen3) (x.vals x.b x.vlen3)) (x.vals x.acc x.vlen3))

/-- Elementwise over A. -/
def float1 (g : Exact → Exact) (x : OpIn) : OpOut := frnd x x.a.vlen.val ((x.vals x.a x.a.vlen.val).map g)

def opFadd (x : OpIn) : OpOut := float2 (fun a b => a.add x.down b) x
def opFsub (x : OpIn) : OpOut := float2 (fun a b => a.add x.down b.neg) x
def opFmul (x : OpIn) : OpOut := float2 Exact.mul x
def opFma (x : OpIn) : OpOut := float3 (fun a b c => (a.mul b).add x.down c) x
def opFnma (x : OpIn) : OpOut := float3 (fun a b c => c.add x.down (a.mul b).neg) x
def opFmin (x : OpIn) : OpOut := elem2 (pickElem x.f true) x
def opFmax (x : OpIn) : OpOut := elem2 (pickElem x.f false) x

/-- R331: a NaN gives the canonical NaN, anything else has its sign set by `g`. -/
def signElem (f : Fmt) (g : Nat → Nat) (e : Nat) : Nat := if (valueOf f e).isNan then f.float.nanEnc else g e

def opFabs (x : OpIn) : OpOut := elem1 (signElem x.f (fun e => e % x.f.float.signBit)) x
def opFneg (x : OpIn) : OpOut :=
  elem1 (signElem x.f (fun e => if e < x.f.float.signBit then e + x.f.float.signBit else e - x.f.float.signBit)) x

/-! ### Special functions (09 R332, R333) -/

def opRcp (x : OpIn) : OpOut := float1 rcpExact x
def opRsq (x : OpIn) : OpOut := float1 rsqExact x
def opSqrt (x : OpIn) : OpOut := float1 sqrtExact x
def opExp2 (x : OpIn) : OpOut := float1 exp2Exact x
def opLog2 (x : OpIn) : OpOut := float1 log2Exact x
def opTanh (x : OpIn) : OpOut := float1 tanhExact x
def opSigm (x : OpIn) : OpOut := float1 sigmExact x

/-! ### Reductions (09 R334) -/

/-- Element 0 of the tree over the valid elements, FMT f, VLEN 0. -/
def reduce (op : Nat → Nat → Word → Nat × Word) (leaf : Nat → Nat) (x : OpIn) : OpOut :=
  let r := treeReduce op 5 ((x.elems x.a x.a.vlen.val).map leaf) x.lfsr
  (mkReg x.f 0 r.1, r.2)

/-- The node of RSUM: an addition rounded in f, or a wrapping one for I32. -/
def sumNode (x : OpIn) (a b : Nat) (l : Word) : Nat × Word :=
  if x.f = .i32 then (ofInt 32 (sval a + sval b), l)
  else roundStep x.f x.srnd false l ((valueOf x.f a).add x.down (valueOf x.f b))

/-- The node of RMAX (less = false) and RMIN (less = true). -/
def pickNode (f : Fmt) (less : Bool) (a b : Nat) (l : Word) : Nat × Word :=
  if f = .i32 then (ofInt 32 (if less then min (sval a) (sval b) else max (sval a) (sval b)), l)
  else (pickElem f less a b, l)

/-- A single element has no node, yet every NaN written is canonical (R316). -/
def canonElem (f : Fmt) (e : Nat) : Nat := if f.floating && (valueOf f e).isNan then f.float.nanEnc else e

def opRsum (x : OpIn) : OpOut := reduce (sumNode x) (canonElem x.f) x
def opRmax (x : OpIn) : OpOut := reduce (pickNode x.f false) (canonElem x.f) x
def opRmin (x : OpIn) : OpOut := reduce (pickNode x.f true) (canonElem x.f) x
def opRamax (x : OpIn) : OpOut := reduce (pickNode x.f false) (fun e => signElem x.f (fun m => m % x.f.float.signBit) e) x

/-! ### Lane moves (09 R335, R336) -/

def opShuf (x : OpIn) : OpOut :=
  (Reg.trim ⟨Lanes.ofFn fun i => laneUpTo x.a (laneSel x.b i), x.f, x.b.vlen, 0, 0⟩, x.lfsr)

def opRot (x : OpIn) : OpOut :=
  (Reg.trim ⟨Lanes.ofFn fun i => laneUpTo x.a ((i + laneSel x.b 0) % 16), x.f, x.a.vlen, 0, 0⟩, x.lfsr)

def opExtr (x : OpIn) : OpOut := (mkReg x.f 0 [] |> fun r => { r with lanes := Lanes.ofFn fun i => if i = 0 then laneUpTo x.a (laneSel x.b 0) else 0 }, x.lfsr)

def opIns (x : OpIn) : OpOut :=
  let k := laneSel x.b 0
  (⟨Lanes.ofFn fun i => if i = k then x.a.lane 0 else x.acc.lane i, x.f, vlenOf (max x.acc.vlen.val k), 0, 0⟩, x.lfsr)

/-! ### Conversion among I32, F32, B16, H16 (07 R264) -/

/-- The VLEN that holds `n` elements of `w` bits. -/
def vlenFor (w n : Nat) : Nat := (n * w + 31) / 32 - 1

/-- R264: the same width, narrowing, or widening of the first sixteen. The source format is A's own. -/
def opCvt (x : OpIn) : OpOut :=
  let src := validElems x.a.fmt x.a.lanes x.a.vlen.val
  let used := if x.f.width = 32 then src.take 16 else src
  let r := roundList x.f x.srnd x.ssat (used.map (valueOf x.a.fmt)) x.lfsr
  (mkReg x.f (vlenFor x.f.width used.length) r.1, r.2)

/-! ### The LFSR (09 R341) -/

/-- R341, R250: a written zero becomes 0x8000_0000. -/
def seedLfsr (w : Word) : Word := if w = 0 then 0x80000000 else w

/-- `n` successive states of the LFSR. -/
def lfsrRun : Nat → Word → List Nat × Word
  | 0, l => ([], l)
  | n + 1, l =>
    let r := lfsrRun n (lfsrStep l)
    ((lfsrStep l).toNat :: r.1, r.2)

def opRand (x : OpIn) : OpOut := (mkReg .i32 15 (lfsrRun 16 x.lfsr).1, (lfsrRun 16 x.lfsr).2)

end Sys2Proof.Machine
end

