-- ==== Sys2Proof/Machine/Quant.lean ====
section
/-! DEFINITION. Block scales as pure functions (07 R245-R247, R262, R265-R269): what QNT, DQNT, the binding arithmetic and SRENORM
compute from operands, scale bytes and a codebook. -/

namespace Sys2Proof.Machine

/-- Elements that one scale serves (07 R246). -/
def blkElems : Nat → Nat
  | 0 => 4 | 1 => 16 | _ => 32

/-- Scale bytes in use (07 R246). -/
def bytesInUse (f : Fmt) (blk : Nat) : Nat := (if f = .c4 then 128 else 64) / blkElems blk

/-- 07 R245 scaled_value of one element under its scale byte; a C4 code names an entry of the codebook. -/
def scaledValue (f : Fmt) (cb : List Nat) (scale e : Nat) : Exact :=
  if scale = 255 then .nan
  else (if f = .c4 then decodeFloat Fmt.b16.float (cb.getD e 0) else valueOf f e).scale ((scale : Int) - 127)

/-- floor(log2 |x|) of a nonzero finite value. -/
def floorLog2 : Exact → Int
  | .fin _ m e _ => e + (bitLen m : Int) - 1
  | _ => 0

/-- The larger magnitude of two finite values; NaN and infinities do not count (07 R265 bm). -/
def largerFin (x y : Exact) : Exact :=
  match y with
  | .fin _ m e _ => if (x.abs.cmp (.fin false m e false)) == .lt then .fin false m e false else x
  | _ => x

/-- The largest finite magnitude of a list, or 0. -/
def maxFin (xs : List Exact) : Exact := xs.foldl largerFin (.fin false 0 0 false)

/-- 07 R265 emax. -/
def qntEmax (f : Fmt) (cb : List Nat) : Int :=
  match f with
  | .e4 => 8
  | .e5 => 15
  | .i8 => 6
  | _ =>
    let m := maxFin (cb.map (decodeFloat Fmt.b16.float))
    if m.isZero then 0 else floorLog2 m

def clampScale (z : Int) : Nat := (min (max z 0) 254).toNat

/-- 07 R265: the scale of a block. -/
def qntScale (f : Fmt) (cb : List Nat) (xs : List Exact) : Nat :=
  let bm := maxFin xs
  if (f = .i8 ∨ f = .c4) ∧ xs.any Exact.isNan = true then 255
  else if bm.isZero then 127
  else clampScale (floorLog2 bm - qntEmax f cb + 127)

/-- |x - y| of two finite values. -/
def distFin (x y : Exact) : Exact := (x.add false y.neg).abs

/-- The first index of a list whose entry satisfies `p`. -/
def firstIdx (p : Exact → Bool) (xs : List Exact) : Option Nat := xs.findIdx? p

/-- The index of the best finite entry under `better`, the lowest on a tie. -/
def bestFin (better : Exact → Exact → Bool) : List Exact → Nat → Option (Nat × Exact) → Option (Nat × Exact)
  | [], _, acc => acc
  | x :: xs, i, acc =>
    match x, acc with
    | .fin s m e st, none => bestFin better xs (i + 1) (some (i, .fin s m e st))
    | .fin s m e st, some (j, y) => bestFin better xs (i + 1) (if better (.fin s m e st) y then some (i, .fin s m e st) else some (j, y))
    | _, _ => bestFin better xs (i + 1) acc

/-- 07 R265 c4_code. -/
def c4Code (cb : List Nat) (y : Exact) : Nat :=
  let xs := cb.map (decodeFloat Fmt.b16.float)
  let sameInf := firstIdx (fun x => decide (x = .inf y.sign)) xs
  let otherInf := firstIdx Exact.isInf xs
  match y with
  | .inf s =>
    match sameInf with
    | some i => i
    | none =>
      match bestFin (fun a b => a.cmp b == (if s then .lt else .gt)) xs 0 none with
      | some p => p.1
      | none => otherInf.getD 0
  | _ =>
    match bestFin (fun a b => (distFin a y).cmp (distFin b y) == .lt) xs 0 none with
    | some p => p.1
    | none => sameInf.getD (otherInf.getD 0)

/-- The elements of one block of a QNT result. Every element steps the LFSR in its place under SRND 4 (07 R249). -/
def qntBlock (f : Fmt) (cb : List Nat) (srnd : Nat) (ssat : Bool) (scale : Nat) : List Exact → Word → List Nat × Word
  | [], l => ([], l)
  | x :: xs, l =>
    let y := x.scale (127 - (scale : Int))
    let p : Nat × Word :=
      if scale = 255 then (0, (roundStep f srnd ssat l (.fin false 0 0 false)).2)
      else if f = .c4 then (c4Code cb y, l)
      else roundStep f srnd ssat l y
    let r := qntBlock f cb srnd ssat scale xs p.2
    (p.1 :: r.1, r.2)

/-- The blocks in order: elements, scale bytes and the LFSR. `n` counts the scale bytes in use. -/
def qntBlocks (f : Fmt) (cb : List Nat) (srnd : Nat) (ssat : Bool) (blk : Nat) : Nat → List Exact → Word → List Nat × List Nat × Word
  | 0, _, l => ([], [], l)
  | n + 1, xs, l =>
    let xb := xs.take (blkElems blk)
    let s := qntScale f cb xb
    let p := qntBlock f cb srnd ssat s xb l
    let r := qntBlocks f cb srnd ssat blk n (xs.drop (blkElems blk)) p.2
    (p.1 ++ r.1, s :: r.2.1, r.2.2)

/-- 07 R265: QNT of A under block mode `blk` and codebook `cb`: the result body less its binding, the in-use scale bytes, the LFSR. -/
def opQnt (blk : Nat) (cb : List Nat) (x : OpIn) : Reg × List Nat × Word :=
  let xs := (validElems x.a.fmt x.a.lanes x.a.vlen.val).map (valueOf x.a.fmt)
  let r := qntBlocks x.f cb x.srnd x.ssat blk (bytesInUse x.f blk) xs x.lfsr
  (mkReg x.f (vlenFor x.f.width xs.length) r.1, r.2.1, r.2.2)

/-- 07 R266: parts that a token takes. -/
def dqntParts (f : Fmt) (a : Reg) : Nat := (validCount a.fmt a.vlen.val + f.elems - 1) / f.elems

/-- 07 R266: part `k` of DQNT under the scale bytes, block mode and codebook of A's binding. -/
def opDqnt (k blk : Nat) (scales cb : List Nat) (x : OpIn) : OpOut :=
  let c := x.f.elems
  let es := ((validElems x.a.fmt x.a.lanes x.a.vlen.val).drop (k * c)).take c
  let vs := es.zipIdx.map fun p => scaledValue x.a.fmt cb (scales.getD ((k * c + p.2) / blkElems blk) 0) p.1
  let r := roundList x.f x.srnd false vs x.lfsr
  (mkReg x.f (vlenFor x.f.width vs.length) r.1, r.2)

/-- The forms of R267 and R268. -/
inductive BindOp where
  | sbind | spow2 | sadde | smax | sprod
  deriving DecidableEq, Repr

/-- Whether B is a block-scaled operand whose binding is read (07 R267). -/
def BindOp.readsB : BindOp → Bool
  | .sbind => false | .spow2 => false | _ => true

/-- 07 R267: the new scale byte `i`. -/
def bindByte (op : BindOp) (b : Reg) (sa sb : List Nat) (i : Nat) : Nat :=
  let x := sa.getD i 0
  let y := sb.getD (if op = .sprod then 0 else i) 0
  match op with
  | .sbind => (Lanes.byte b.lanes i).toNat
  | .spow2 => if x = 255 then 255 else clampScale ((x : Int) + toInt 32 (b.lane 0).toNat)
  | .smax => if x = 255 ∨ y = 255 then 255 else max x y
  | _ => if x = 255 ∨ y = 255 then 255 else clampScale ((x : Int) + (y : Int) - 127)

/-- 07 R268: d, from a = m * 2^e with m of `l` bits, so that 1 ≤ m / 2^(l-1) < 2; the LFSR steps under SRND 4. -/
def srenormD (srnd : Nat) (m : Nat) (e : Int) (l : Word) : Int × Word :=
  let k := bitLen m - 1
  let top : Int := e + (k : Int)
  let one := decide (m = 2 ^ k)
  match srnd with
  | 0 => (if m * m < 2 * 2 ^ (2 * k) then top else top + 1, l)
  | 1 => (if 0 ≤ top ∨ one = true then top else top + 1, l)
  | 2 => (if one then top else top + 1, l)
  | 3 => (top, l)
  | _ => (if (lfsrStep l).toNat ≤ (m - 2 ^ k) * 2 ^ 32 / 2 ^ k then top + 1 else top, lfsrStep l)

/-- 07 R268: the new scale bytes of SRENORM. Lane 0 of B is read as binary32. Under SRND 4 the LFSR steps for a positive finite a. -/
def srenormBytes (srnd : Nat) (b : Reg) (sa : List Nat) (l : Word) : List Nat × Word :=
  match decodeFloat Fmt.f32.float (b.lane 0).toNat with
  | .nan => (sa.map fun _ => 255, l)
  | .inf _ => (sa.map fun _ => 0, l)
  | .fin _ m e _ =>
    if m = 0 then (sa, l)
    else
      let d := srenormD srnd m e l
      (sa.map fun s => if s = 255 then 255 else clampScale ((s : Int) - d.1), d.2)

/-- 07 R262 amax_update over source elements of a floating format; AMAX holds F32 magnitude bits, kept as the exact value it encodes. -/
def amaxStep (f : Fmt) (st : Word × Bool) (e : Nat) : Word × Bool :=
  match valueOf f e with
  | .nan => (st.1, true)
  | v => if (decodeFloat Fmt.f32.float st.1.toNat).cmp v.abs == .lt then (.ofNat 32 (roundFloat Fmt.f32.float 0 false 0 v.abs), st.2) else st

/-- AMAX and its sticky flag after every valid element of A. -/
def amaxUpdate (a : Reg) (st : Word × Bool) : Word × Bool := (validElems a.fmt a.lanes a.vlen.val).foldl (amaxStep a.fmt) st

end Sys2Proof.Machine
end

