-- ==== Sys2Proof/Syntax.lean ====
section
/-! DEFINITION. The steps of the machine as syntax: one constructor of Instr per row of spec/opcode_table.json, and the records
their arguments are made of. -/

namespace Sys2Proof

/-- A ring of a die (01 R14). -/
structure RingAt where
  die : Fin 4
  ring : Fin 4
  deriving DecidableEq, Repr

/-- A presented stripe of a ring (01 R14). -/
structure StripeAt where
  ring : RingAt
  stripe : Fin 32
  deriving DecidableEq, Repr

/-- An element slot of a stripe (01 R17). -/
structure ElemAt where
  at_ : StripeAt
  slot : Fin 16
  deriving DecidableEq, Repr

/-- A channel of an element: an input channel or an output channel, as its user says. -/
structure ChanAt where
  el : ElemAt
  chan : Fin 8
  deriving DecidableEq, Repr

/-- Where a token that moves one hop stands: the staging of an output channel, or a pass register (01 R18, 02 R49). -/
inductive Hop where
  | out (c : ChanAt)
  | pass (s : StripeAt) (n : Fin 16)
  deriving DecidableEq, Repr

/-- Parameter words P0 to P3 of an active message or relay packet (02 R72, 04 R147). -/
structure Params where
  p0 : Word
  p1 : Word
  p2 : Word
  p3 : Word
  deriving DecidableEq, Repr

/-- The header of a packet less its TYPE and VER (04 R143). -/
structure PktHead where
  seq : BitVec 16
  cmpl : Bool
  barrier : Bool
  rscope : BitVec 3
  feat : BitVec 11
  deriving DecidableEq, Repr

/-- The body of a LAUNCH packet (04 R145). -/
structure LaunchBody where
  iridx : BitVec 16
  ioff : BitVec 48
  aridx : BitVec 16
  aoff : BitVec 48
  graph : Word
  dep0 : BitVec 16
  dep1 : BitVec 16
  dep2 : BitVec 16
  dep3 : BitVec 16
  depv : BitVec 4
  early : BitVec 4
  prio : BitVec 8
  deriving DecidableEq, Repr

/-- The body of a QNEW packet (04 R148). -/
structure QnewBody where
  qid : BitVec 20
  pasid : BitVec 20
  kernel : Bool
  rsize : BitVec 4
  csize : BitVec 4
  rbase : Dword
  cbase : Dword
  seq0 : BitVec 16
  cseq0 : BitVec 16
  deriving DecidableEq, Repr

/-- What the host answers to an ATS translation request (03 R97, R98, R130). `size` is 0 for 4 KiB, 1 for 2 MiB, 2 for 1 GiB. -/
inductive XltAnswer where
  | present (hpage : BitVec 52) (size : Fin 3) (read write noPref : Bool)
  | absent
  | badPasid
  | error
  deriving DecidableEq, Repr

/-- Where an uncorrectable error is detected (the *_UNCORRECTABLE rows of 03 R129, 05 R221, 07 R273, 08 R311, 11 R378, 12 R408,
13 R439, 14 R458, 15 R474), and the plane whose state or access it is. A stream error without a slot is that of a port of the element's region. -/
inductive ErrSite where
  | memoryRead (e : ElemAt) (ical : Bool) (islot : Fin 16) (dpa : Dword)
  | element (e : ElemAt) (ical : Bool) (shared : Bool)
  | scale (e : ElemAt) (ical : Bool) (islot : Fin 16) (index : BitVec 11)
  | matrix (e : ElemAt) (ical : Bool) (desc : Option (Fin 4)) (wsAddr : Word)
  | junction (e : ElemAt) (ical : Bool) (monitor : Bool) (index : BitVec 9)
  | stream (e : ElemAt) (ical : Bool) (islot : Option (Fin 16)) (unit : Word)
  | sparse (e : ElemAt) (ical : Bool) (islot : Fin 16) (unit : Dword)
  | plane (s : StripeAt) (ical : Bool)
  | cache (r : RingAt) (ctx : BitVec 6) (index : BitVec 11)
  | link (die : Fin 4) (ep : Fin 2) (flit : BitVec 12) (ring : Fin 4) (ctx : BitVec 6)
  deriving DecidableEq, Repr

/-- The interleave that software programs into the HDM decoder (16 R478): the number of ways, and the code of the granularity. -/
structure Interleave where
  ways : BitVec 4
  gran : BitVec 4
  deriving DecidableEq, Repr

/-- A CXL.mem access of the host (16 R478): up to 8 bytes of `data` from host physical address `addr`. -/
structure HostAcc where
  write : Bool
  addr : Dword
  len : Fin 9
  data : Dword
  deriving DecidableEq, Repr

/-- A firmware image as its trust checks see it (16 R481): its contents, its security version, and the SHA-512 digests of the vendor and owner public keys
under which it is signed. -/
structure FwImage where
  image : Nat
  version : Word
  mingen : BitVec 16
  maxgen : BitVec 16
  vendorKey : BitVec 512
  ownerKey : BitVec 512
  deriving DecidableEq, Repr

/-- The sensors of 16 R485. -/
inductive Sensor where
  | junction (die : Fin 4)
  | hbm (stack : Fin 12)
  | coolantIn
  | coolantOut
  | power
  | eccCor (die : Fin 4)
  deriving DecidableEq, Repr

/-- Who writes a register (00 R8): the host through BAR 0, or a hart through its address map (04 R133). -/
inductive RegWriter where
  | host
  | hart (die : Fin 4) (hart : Fin 64)
  deriving DecidableEq, Repr

/-- The atomic acts of the RISC-V A extension (04 R132; log 12). -/
inductive AmoOp where
  | lr | sc | swap | add | xor | and | or | min | max | minu | maxu
  deriving DecidableEq, Repr

/-- An access of a hart in its address map (04 R133, R134): 2^`size` bytes at `addr`; a load writes x[rd], zero- or sign-extended, and so does
an atomic act, of a word or a doubleword. -/
inductive FAccess where
  | load (rd : BitVec 5) (addr : Dword) (size : Fin 4) (signed : Bool)
  | store (addr : Dword) (size : Fin 4) (data : Dword)
  | amo (op : AmoOp) (rd : BitVec 5) (addr : Dword) (double : Bool) (data : Dword)
  | fence
  deriving DecidableEq, Repr

/-- One step of the machine: a row of spec/opcode_table.json. -/
inductive Instr where
  -- The V page (02 R66): sources a, b and destinations d, e are the 5-bit selects of R57, t the tag action, q the peek bit.
  | mov (a : BitVec 5) (d : BitVec 5) (t : BitVec 4) (q : Bool)  -- MOV, R318
  | mov2 (a : BitVec 5) (d : BitVec 5) (e : BitVec 5) (t : BitVec 4) (q : Bool)  -- MOV2, R319
  | movp (a : BitVec 5) (b : BitVec 5) (d : BitVec 5) (e : BitVec 5) (t : BitVec 4) (q : Bool)  -- MOVP, R320
  | sel (a : BitVec 5) (b : BitVec 5) (d : BitVec 5) (t : BitVec 4) (q : Bool)  -- SEL, R321
  | setvl (a : BitVec 5) (b : BitVec 5) (d : BitVec 5) (t : BitVec 4) (q : Bool)  -- SETVL, R321
  | bcast (a : BitVec 5) (b : BitVec 5) (d : BitVec 5) (t : BitVec 4) (q : Bool)  -- BCAST, R322
  | add (a : BitVec 5) (b : BitVec 5) (d : BitVec 5) (t : BitVec 4) (q : Bool)  -- ADD, R323
  | sub (a : BitVec 5) (b : BitVec 5) (d : BitVec 5) (t : BitVec 4) (q : Bool)  -- SUB, R323
  | mul (a : BitVec 5) (b : BitVec 5) (d : BitVec 5) (t : BitVec 4) (q : Bool)  -- MUL, R323
  | mulh (a : BitVec 5) (b : BitVec 5) (d : BitVec 5) (t : BitVec 4) (q : Bool)  -- MULH, R324
  | mad (a : BitVec 5) (b : BitVec 5) (d : BitVec 5) (t : BitVec 4) (q : Bool)  -- MAD, R323
  | neg (a : BitVec 5) (d : BitVec 5) (t : BitVec 4) (q : Bool)  -- NEG, R324
  | abs (a : BitVec 5) (d : BitVec 5) (t : BitVec 4) (q : Bool)  -- ABS, R324
  | min (a : BitVec 5) (b : BitVec 5) (d : BitVec 5) (t : BitVec 4) (q : Bool)  -- MIN, R323
  | max (a : BitVec 5) (b : BitVec 5) (d : BitVec 5) (t : BitVec 4) (q : Bool)  -- MAX, R323
  | andV (a : BitVec 5) (b : BitVec 5) (d : BitVec 5) (t : BitVec 4) (q : Bool)  -- AND, R325
  | orV (a : BitVec 5) (b : BitVec 5) (d : BitVec 5) (t : BitVec 4) (q : Bool)  -- OR, R325
  | xorV (a : BitVec 5) (b : BitVec 5) (d : BitVec 5) (t : BitVec 4) (q : Bool)  -- XOR, R325
  | andn (a : BitVec 5) (b : BitVec 5) (d : BitVec 5) (t : BitVec 4) (q : Bool)  -- ANDN, R325
  | notV (a : BitVec 5) (d : BitVec 5) (t : BitVec 4) (q : Bool)  -- NOT, R325
  | shl (a : BitVec 5) (b : BitVec 5) (d : BitVec 5) (t : BitVec 4) (q : Bool)  -- SHL, R325
  | shr (a : BitVec 5) (b : BitVec 5) (d : BitVec 5) (t : BitVec 4) (q : Bool)  -- SHR, R325
  | sar (a : BitVec 5) (b : BitVec 5) (d : BitVec 5) (t : BitVec 4) (q : Bool)  -- SAR, R325
  | popc (a : BitVec 5) (d : BitVec 5) (t : BitVec 4) (q : Bool)  -- POPC, R325
  | clz (a : BitVec 5) (d : BitVec 5) (t : BitVec 4) (q : Bool)  -- CLZ, R325
  | cmpeq (a : BitVec 5) (b : BitVec 5) (d : BitVec 5) (t : BitVec 4) (q : Bool)  -- CMPEQ, R326
  | cmpne (a : BitVec 5) (b : BitVec 5) (d : BitVec 5) (t : BitVec 4) (q : Bool)  -- CMPNE, R326
  | cmplt (a : BitVec 5) (b : BitVec 5) (d : BitVec 5) (t : BitVec 4) (q : Bool)  -- CMPLT, R326
  | cmple (a : BitVec 5) (b : BitVec 5) (d : BitVec 5) (t : BitVec 4) (q : Bool)  -- CMPLE, R326
  | cmpltu (a : BitVec 5) (b : BitVec 5) (d : BitVec 5) (t : BitVec 4) (q : Bool)  -- CMPLTU, R326
  | anynz (a : BitVec 5) (d : BitVec 5) (t : BitVec 4) (q : Bool)  -- ANYNZ, R327
  | allnz (a : BitVec 5) (d : BitVec 5) (t : BitVec 4) (q : Bool)  -- ALLNZ, R327
  | fadd (a : BitVec 5) (b : BitVec 5) (d : BitVec 5) (t : BitVec 4) (q : Bool)  -- FADD, R328
  | fsub (a : BitVec 5) (b : BitVec 5) (d : BitVec 5) (t : BitVec 4) (q : Bool)  -- FSUB, R328
  | fmul (a : BitVec 5) (b : BitVec 5) (d : BitVec 5) (t : BitVec 4) (q : Bool)  -- FMUL, R328
  | fma (a : BitVec 5) (b : BitVec 5) (d : BitVec 5) (t : BitVec 4) (q : Bool)  -- FMA, R328
  | fnma (a : BitVec 5) (b : BitVec 5) (d : BitVec 5) (t : BitVec 4) (q : Bool)  -- FNMA, R328
  | fmin (a : BitVec 5) (b : BitVec 5) (d : BitVec 5) (t : BitVec 4) (q : Bool)  -- FMIN, R330
  | fmax (a : BitVec 5) (b : BitVec 5) (d : BitVec 5) (t : BitVec 4) (q : Bool)  -- FMAX, R330
  | fabs (a : BitVec 5) (d : BitVec 5) (t : BitVec 4) (q : Bool)  -- FABS, R331
  | fneg (a : BitVec 5) (d : BitVec 5) (t : BitVec 4) (q : Bool)  -- FNEG, R331
  | rcp (a : BitVec 5) (d : BitVec 5) (t : BitVec 4) (q : Bool)  -- RCP, R332
  | rsq (a : BitVec 5) (d : BitVec 5) (t : BitVec 4) (q : Bool)  -- RSQ, R332
  | sqrt (a : BitVec 5) (d : BitVec 5) (t : BitVec 4) (q : Bool)  -- SQRT, R332
  | exp2 (a : BitVec 5) (d : BitVec 5) (t : BitVec 4) (q : Bool)  -- EXP2, R332
  | log2 (a : BitVec 5) (d : BitVec 5) (t : BitVec 4) (q : Bool)  -- LOG2, R332
  | tanh (a : BitVec 5) (d : BitVec 5) (t : BitVec 4) (q : Bool)  -- TANH, R332
  | sigm (a : BitVec 5) (d : BitVec 5) (t : BitVec 4) (q : Bool)  -- SIGM, R332
  | rsum (a : BitVec 5) (d : BitVec 5) (t : BitVec 4) (q : Bool)  -- RSUM, R334
  | rmax (a : BitVec 5) (d : BitVec 5) (t : BitVec 4) (q : Bool)  -- RMAX, R334
  | rmin (a : BitVec 5) (d : BitVec 5) (t : BitVec 4) (q : Bool)  -- RMIN, R334
  | ramax (a : BitVec 5) (d : BitVec 5) (t : BitVec 4) (q : Bool)  -- RAMAX, R334
  | shuf (a : BitVec 5) (b : BitVec 5) (d : BitVec 5) (t : BitVec 4) (q : Bool)  -- SHUF, R335
  | rot (a : BitVec 5) (b : BitVec 5) (d : BitVec 5) (t : BitVec 4) (q : Bool)  -- ROT, R335
  | extr (a : BitVec 5) (b : BitVec 5) (d : BitVec 5) (t : BitVec 4) (q : Bool)  -- EXTR, R335
  | ins (a : BitVec 5) (b : BitVec 5) (d : BitVec 5) (t : BitVec 4) (q : Bool)  -- INS, R336
  | cvt (a : BitVec 5) (d : BitVec 5) (t : BitVec 4) (q : Bool)  -- CVT, R264
  | qnt (a : BitVec 5) (d : BitVec 5) (t : BitVec 4) (q : Bool)  -- QNT, R265
  | dqnt (a : BitVec 5) (d : BitVec 5) (t : BitVec 4) (q : Bool)  -- DQNT, R266
  | sbind (a : BitVec 5) (b : BitVec 5) (d : BitVec 5) (t : BitVec 4) (q : Bool)  -- SBIND, R267
  | srel (a : BitVec 5) (t : BitVec 4) (q : Bool)  -- SREL, R269
  | spow2 (a : BitVec 5) (b : BitVec 5) (d : BitVec 5) (t : BitVec 4) (q : Bool)  -- SPOW2, R267
  | sadde (a : BitVec 5) (b : BitVec 5) (d : BitVec 5) (t : BitVec 4) (q : Bool)  -- SADDE, R267
  | smax (a : BitVec 5) (b : BitVec 5) (d : BitVec 5) (t : BitVec 4) (q : Bool)  -- SMAX, R267
  | sprod (a : BitVec 5) (b : BitVec 5) (d : BitVec 5) (t : BitVec 4) (q : Bool)  -- SPROD, R267
  | srenorm (a : BitVec 5) (b : BitVec 5) (d : BitVec 5) (t : BitVec 4) (q : Bool)  -- SRENORM, R268
  | sldcb (a : BitVec 5) (b : BitVec 5) (t : BitVec 4) (q : Bool)  -- SLDCB, R269
  | amaxrd (d : BitVec 5) (t : BitVec 4)  -- AMAXRD, R270
  | amaxclr (t : BitVec 4)  -- AMAXCLR, R270
  | exit (a : BitVec 5) (d : BitVec 5) (t : BitVec 4) (q : Bool)  -- EXIT, R338
  | drop (a : BitVec 5) (b : BitVec 5) (t : BitVec 4) (q : Bool)  -- DROP, R339
  | trap (a : BitVec 5) (t : BitVec 4) (q : Bool)  -- TRAP, R340
  | seed (a : BitVec 5) (t : BitVec 4) (q : Bool)  -- SEED, R341
  | rand (d : BitVec 5) (t : BitVec 4)  -- RAND, R341
  -- The J page (02 R67); m is the descriptor select or message base of R68.
  | ld (a : BitVec 5) (d : BitVec 5) (m : BitVec 2) (t : BitVec 4) (q : Bool)  -- LD, R389
  | st (a : BitVec 5) (b : BitVec 5) (d : BitVec 5) (m : BitVec 2) (t : BitVec 4) (q : Bool)  -- ST, R389
  | ldv (a : BitVec 5) (b : BitVec 5) (d : BitVec 5) (m : BitVec 2) (t : BitVec 4) (q : Bool)  -- LDV, R389
  | stv (a : BitVec 5) (b : BitVec 5) (d : BitVec 5) (m : BitVec 2) (t : BitVec 4) (q : Bool)  -- STV, R389
  | recl (a : BitVec 5) (b : BitVec 5) (d : BitVec 5) (m : BitVec 2) (t : BitVec 4) (q : Bool)  -- RECL, R389
  | gath (a : BitVec 5) (d : BitVec 5) (m : BitVec 2) (t : BitVec 4) (q : Bool)  -- GATH, R389
  | scat (a : BitVec 5) (b : BitVec 5) (d : BitVec 5) (m : BitVec 2) (t : BitVec 4) (q : Bool)  -- SCAT, R389
  | pref (a : BitVec 5) (m : BitVec 2) (t : BitVec 4) (q : Bool)  -- PREF, R389
  | fence (d : BitVec 5) (m : BitVec 2) (t : BitVec 4)  -- FENCE, R391
  | fencex (d : BitVec 5) (m : BitVec 2) (t : BitVec 4)  -- FENCEX, R391
  | waita (a : BitVec 5) (b : BitVec 5) (d : BitVec 3) (m : BitVec 2) (t : BitVec 4) (q : Bool)  -- WAITA, R397
  | waitc (a : BitVec 5) (d : BitVec 5) (m : BitVec 2) (t : BitVec 4) (q : Bool)  -- WAITC, R399
  | launch (a : BitVec 5) (d : BitVec 5) (m : BitVec 2) (t : BitVec 4) (q : Bool)  -- LAUNCH, R401
  | signal (a : BitVec 5) (b : BitVec 5) (d : BitVec 5) (m : BitVec 2) (t : BitVec 4) (q : Bool)  -- SIGNAL, R389
  | tkt (a : BitVec 3) (d : BitVec 5) (t : BitVec 4) (q : Bool)  -- TKT, R403
  | grant (a : BitVec 5) (d : BitVec 5) (t : BitVec 4) (q : Bool)  -- GRANT, R403
  | reply (a : BitVec 5) (d : BitVec 3) (t : BitVec 4) (q : Bool)  -- REPLY, R403
  | send (a : BitVec 5) (d : BitVec 5) (m : BitVec 2) (t : BitVec 4) (q : Bool)  -- SEND, R401
  | sendn (a : BitVec 5) (m : BitVec 2) (t : BitVec 4) (q : Bool)  -- SENDN, R401
  | jMov (a : BitVec 5) (d : BitVec 5) (t : BitVec 4) (q : Bool)  -- J_MOV, R404
  | jMov2 (a : BitVec 5) (d : BitVec 5) (e : BitVec 5) (t : BitVec 4) (q : Bool)  -- J_MOV2, R404
  | jAdd (a : BitVec 5) (b : BitVec 5) (d : BitVec 5) (t : BitVec 4) (q : Bool)  -- J_ADD, R404
  | jSub (a : BitVec 5) (b : BitVec 5) (d : BitVec 5) (t : BitVec 4) (q : Bool)  -- J_SUB, R404
  | jAnd (a : BitVec 5) (b : BitVec 5) (d : BitVec 5) (t : BitVec 4) (q : Bool)  -- J_AND, R404
  | jShl (a : BitVec 5) (b : BitVec 5) (d : BitVec 5) (t : BitVec 4) (q : Bool)  -- J_SHL, R404
  | jCmpeq (a : BitVec 5) (b : BitVec 5) (d : BitVec 5) (t : BitVec 4) (q : Bool)  -- J_CMPEQ, R404
  | jCmplt (a : BitVec 5) (b : BitVec 5) (d : BitVec 5) (t : BitVec 4) (q : Bool)  -- J_CMPLT, R404
  | jExit (a : BitVec 5) (d : BitVec 5) (t : BitVec 4) (q : Bool)  -- J_EXIT, R404
  | jDrop (a : BitVec 5) (b : BitVec 5) (t : BitVec 4) (q : Bool)  -- J_DROP, R404
  | jTrap (a : BitVec 5) (t : BitVec 4) (q : Bool)  -- J_TRAP, R404
  -- The front-end custom instructions (02 R79).
  | fwait (rd : BitVec 5)  -- FWAIT, R161
  | flatch (rd : BitVec 5) (rs1 : BitVec 5)  -- FLATCH, R162
  | fpost (rs1 : BitVec 5) (rs2 : BitVec 5)  -- FPOST, R164
  | fqmap (rs1 : BitVec 5) (rs2 : BitVec 5)  -- FQMAP, R165
  | fqdemap (rd : BitVec 5) (rs1 : BitVec 5)  -- FQDEMAP, R166
  | fseqchk (rd : BitVec 5) (rs1 : BitVec 5) (rs2 : BitVec 5)  -- FSEQCHK, R163
  | flaunch (rd : BitVec 5) (rs1 : BitVec 5)  -- FLAUNCH, R167
  | fvigil (rd : BitVec 5) (rs1 : BitVec 5)  -- FVIGIL, R168
  -- Kick pages and front-end packets (04 R139-R149).
  | feKick (q : BitVec 20) (single : Bool) (w : Dword)  -- FE_KICK, R139
  | feCack (q : BitVec 20) (single : Bool) (w : Dword)  -- FE_CACK, R140
  | pktNop (h : PktHead)  -- PKT_NOP, R144
  | pktLaunch (h : PktHead) (b : LaunchBody)  -- PKT_LAUNCH, R145
  | pktWait (h : PktHead) (addr value : Dword) (op : BitVec 3)  -- PKT_WAIT, R146
  | pktSignal (h : PktHead) (addr value : Dword) (op : BitVec 3)  -- PKT_SIGNAL, R146
  | pktCancel (h : PktHead) (level : BitVec 3) (lseq : BitVec 16) (id : Word)  -- PKT_CANCEL, R146
  | pktCount (h : PktHead) (level : BitVec 3) (lseq : BitVec 16) (id : Word)  -- PKT_COUNT, R146
  | phase (h : PktHead) (tinst : BitVec 8) (p : Params)  -- PHASE, R147
  | evict (h : PktHead) (tinst : BitVec 8) (p : Params)  -- EVICT, R147
  | restore (h : PktHead) (tinst : BitVec 8) (p : Params)  -- RESTORE, R147
  | compact (h : PktHead) (tinst : BitVec 8) (p : Params)  -- COMPACT, R147
  | almanac (h : PktHead) (tinst : BitVec 8) (p : Params)  -- ALMANAC, R147
  | almread (h : PktHead) (tinst : BitVec 8) (p : Params)  -- ALMREAD, R147
  | wswrite (h : PktHead) (tinst : BitVec 8) (p : Params)  -- WSWRITE, R147
  | reswrite (h : PktHead) (tinst : BitVec 8) (p : Params)  -- RESWRITE, R147
  | prefetch (h : PktHead) (tinst : BitVec 8) (p : Params)  -- PREFETCH, R147
  | eqwait (h : PktHead) (tinst : BitVec 8) (p : Params)  -- EQWAIT, R147
  | status (h : PktHead) (tinst : BitVec 8) (p : Params)  -- STATUS, R147
  | ctxnew (h : PktHead) (pasid : BitVec 20) (rtcnt : BitVec 16) (rtbase sabase sasize : Dword)  -- CTXNEW, R148
  | ctxfree (h : PktHead) (pasid : BitVec 20)  -- CTXFREE, R148
  | qnew (h : PktHead) (b : QnewBody)  -- QNEW, R148
  | qfree (h : PktHead) (qid : BitVec 20)  -- QFREE, R148
  -- Events of the front end.
  | watchMet (die : Fin 4) (hart : Fin 64)  -- WATCH_MET, R158
  | vigilExpiry (die : Fin 4) (hart : Fin 64)  -- VIGIL_EXPIRY, R168
  -- Controller messages (05 R218).
  | plaunch (p : Params)  -- PLAUNCH, R218
  | pcancel (p : Params)  -- PCANCEL, R204
  | pcount (p : Params)  -- PCOUNT, R218
  | pphase (p : Params)  -- PPHASE, R205
  | pevict (p : Params)  -- PEVICT, R211
  | prestore (p : Params)  -- PRESTORE, R213
  | pcompact (p : Params)  -- PCOMPACT, R214
  | palmw (p : Params)  -- PALMW, R218
  | palmr (p : Params)  -- PALMR, R218
  | pwsw (p : Params)  -- PWSW, R206
  | prsw (p : Params)  -- PRSW, R95
  | ppref (p : Params)  -- PPREF, R218
  | peqwait (p : Params)  -- PEQWAIT, R218
  | pstat (p : Params)  -- PSTAT, R218
  -- Events of the dispatcher and the procession controllers.
  | ingressListCheck (die : Fin 4) (entry : BitVec 12)  -- INGRESS_LIST_CHECK, R421
  | ingressFirstToken (die : Fin 4) (entry : BitVec 12)  -- INGRESS_FIRST_TOKEN, R426
  | configFetch (r : RingAt) (entry : BitVec 12) (stage : BitVec 16)  -- CONFIG_FETCH, R187
  | configLoad (s : StripeAt)  -- CONFIG_LOAD, R187
  | stateSave (s : StripeAt)  -- STATE_SAVE, R194
  | stateRestore (s : StripeAt)  -- STATE_RESTORE, R194
  | cohortEntry (r : RingAt) (entry : BitVec 12)  -- COHORT_ENTRY, R184
  | equinox (r : RingAt) (page : Fin 8)  -- EQUINOX, R197
  | phaseBoundary (die : Fin 4) (pasid : BitVec 20)  -- PHASE_BOUNDARY, R205
  | launchComplete (die : Fin 4) (entry : BitVec 12)  -- LAUNCH_COMPLETE, R32
  | cancelComplete (die : Fin 4) (entry : BitVec 12)  -- CANCEL_COMPLETE, R204
  -- Events of the elements.
  | tokenArrival (h : Hop) (ical : Bool)  -- TOKEN_ARRIVAL, R279
  | steerDelivery (e : ElemAt)  -- STEER_DELIVERY, R279
  | killAbsorb (c : ChanAt) (ical : Bool)  -- KILL_ABSORB, R280
  | matchStep (c : ChanAt) (ical : Bool)  -- MATCH_STEP, R282
  | iterKillSweep (die : Fin 4) (entry iter : BitVec 12)  -- ITER_KILL_SWEEP, R298
  | windowAdvance (die : Fin 4) (entry : BitVec 12)  -- WINDOW_ADVANCE, R296
  | storePark (e : ElemAt) (ical : Bool)  -- STORE_PARK, R394
  | parkedStoreIssue (e : ElemAt) (ical : Bool)  -- PARKED_STORE_ISSUE, R395
  | quantumCommit (die : Fin 4) (entry : BitVec 12)  -- QUANTUM_COMMIT, R122
  | jnIsbDeadlock (e : ElemAt) (ical : Bool)  -- JN_ISB_DEADLOCK, R393
  -- Translation, memory interface, messages and error correction.
  | translationComplete (die : Fin 4) (pasid : BitVec 20) (vpage : BitVec 52) (ans : XltAnswer)  -- TRANSLATION_COMPLETE, R98
  | priResponse (die : Fin 4) (pasid : BitVec 20) (vpage : BitVec 52) (ok : Bool)  -- PRI_RESPONSE, R98
  | atsInvalidation (die : Fin 4) (pasid : BitVec 20) (vpage : BitVec 52)  -- ATS_INVALIDATION, R99
  | memoryReply (r : RingAt) (op : Nat)  -- MEMORY_REPLY, R385
  | ldvVersionMet (r : RingAt) (op : Nat)  -- LDV_VERSION_MET, R115
  | watchCheck (r : RingAt) (n : Fin 512)  -- WATCH_CHECK, R397
  | messageAccept (e : ElemAt)  -- MESSAGE_ACCEPT, R400
  | uncorrectableError (site : ErrSite)  -- UNCORRECTABLE_ERROR, R44
  | patrolScrub (bad : Option Dword)  -- PATROL_SCRUB, R484
  -- Matrix element: events, then its messages (11 R373).
  | slabLoad (e : ElemAt) (ical : Bool)  -- SLAB_LOAD, R359
  | slabPiece (e : ElemAt) (ical : Bool)  -- SLAB_PIECE, R360
  | mxRowPick (e : ElemAt) (ical : Bool)  -- MX_ROW_PICK, R362
  | mxRowCommit (e : ElemAt) (ical : Bool)  -- MX_ROW_COMMIT, R363
  | mxRowDrain (e : ElemAt) (ical : Bool)  -- MX_ROW_DRAIN, R366
  | mxKillAbsorb (e : ElemAt) (ical : Bool)  -- MX_KILL_ABSORB, R368
  | mxcfg (p : Params)  -- MXCFG, R373
  | mxtile (p : Params)  -- MXTILE, R373
  | mxkcnt (p : Params)  -- MXKCNT, R373
  | mxdrain (p : Params)  -- MXDRAIN, R374
  | mxclracc (p : Params)  -- MXCLRACC, R373
  | mxcb (p : Params)  -- MXCB, R373
  | mxamax (p : Params)  -- MXAMAX, R373
  | mxrdacc (p : Params)  -- MXRDACC, R374
  | mxfill (p : Params)  -- MXFILL, R373
  | mxfmt (p : Params)  -- MXFMT, R373
  | mxrnd (p : Params)  -- MXRND, R373
  | mxstat (p : Params)  -- MXSTAT, R373
  -- Stream engine: messages (13 R427), then events.
  | sopen (p : Params)  -- SOPEN, R428
  | sclose (p : Params)  -- SCLOSE, R428
  | srdh (p : Params)  -- SRDH, R428
  | swrh (p : Params)  -- SWRH, R428
  | scopy (p : Params)  -- SCOPY, R430
  | sstride (p : Params)  -- SSTRIDE, R429
  | sgath (p : Params)  -- SGATH, R431
  | sscat (p : Params)  -- SSCAT, R431
  | sldbs (p : Params)  -- SLDBS, R428
  | ssync (p : Params)  -- SSYNC, R417
  | ssyncw (p : Params)  -- SSYNCW, R416
  | singress (p : Params)  -- SINGRESS, R423
  | sstat (p : Params)  -- SSTAT, R433
  | sabort (p : Params)  -- SABORT, R432
  | ssyncMet (r : RingAt) (n : Nat)  -- SSYNC_MET, R417
  | streamTransferDone (r : RingAt) (n : Nat)  -- STREAM_TRANSFER_DONE, R427
  | portDeliver (r : RingAt) (port : Fin 64)  -- PORT_DELIVER, R425
  -- Sparse-update engine: messages (14 R444), then events.
  | uadd (p : Params)  -- UADD, R445
  | ufadd (p : Params)  -- UFADD, R445
  | umax (p : Params)  -- UMAX, R445
  | umin (p : Params)  -- UMIN, R445
  | uor (p : Params)  -- UOR, R445
  | uand (p : Params)  -- UAND, R445
  | uxchg (p : Params)  -- UXCHG, R445
  | ucas (p : Params)  -- UCAS, R445
  | uorder (p : Params)  -- UORDER, R451
  | uflush (p : Params)  -- UFLUSH, R452
  -- Chain links.
  | allocGrantRemote (die : Fin 4) (entry : BitVec 12)  -- ALLOC_GRANT_REMOTE, R469
  -- Device services.
  | keyLoad (die : Fin 4) (slot : BitVec 12)  -- KEY_LOAD, R483
  | keyRetire (die : Fin 4) (slot : BitVec 12)  -- KEY_RETIRE, R483
  | hdmCommit (base size : Dword) (ways : Interleave)  -- HDM_COMMIT, R478
  | hostHbmAccess (a : HostAcc)  -- HOST_HBM_ACCESS, R478
  | islandRetention (r : RingAt) (page : Fin 8)  -- ISLAND_RETENTION, R479
  | thermalThrottle (die : Fin 4) (tj : BitVec 16)  -- THERMAL_THROTTLE, R480
  | pldmFirmwareUpdate (img : FwImage)  -- PLDM_FIRMWARE_UPDATE, R481
  | spdmGetCertificate (slot : Fin 8)  -- SPDM_GET_CERTIFICATE, R482
  | spdmChallenge (nonce : Nat)  -- SPDM_CHALLENGE, R482
  | spdmGetMeasurements (index : BitVec 8)  -- SPDM_GET_MEASUREMENTS, R482
  | spdmKeyExchange (exchange : Nat)  -- SPDM_KEY_EXCHANGE, R482
  | spdmFinish (proof : Nat)  -- SPDM_FINISH, R482
  | pldmSensorRead (n : Sensor)  -- PLDM_SENSOR_READ, R485
  | registerWrite (who : RegWriter) (addr value : Dword)  -- REGISTER_WRITE, R8
  | pathFAccess (die : Fin 4) (hart : Fin 64) (a : FAccess)  -- PATH_F_ACCESS, R134
  | illegalInstruction (w : Word)  -- ILLEGAL_INSTRUCTION, R78
  -- Events whose place (a ring, a die, a link endpoint) is the focus of the state (log 1).
  | faultBufferEnter  -- FAULT_BUFFER_ENTER, R152
  | firmwareRestartReset  -- FIRMWARE_RESTART_RESET, R171
  | dieWake  -- DIE_WAKE, R479
  | dispatchBind  -- DISPATCH_BIND, R200
  | stripeSwap  -- STRIPE_SWAP, R189
  | procStrayToken  -- PROC_STRAY_TOKEN, R190
  | procMissingExit  -- PROC_MISSING_EXIT, R190
  | almanacUpdate  -- ALMANAC_UPDATE, R208
  | intercalarySwitch  -- INTERCALARY_SWITCH, R306
  | intercalaryReturn  -- INTERCALARY_RETURN, R308
  | sclExhausted  -- SCL_EXHAUSTED, R255
  | xltTimeout  -- XLT_TIMEOUT, R130
  | waveLink  -- WAVE_LINK, R110
  | memWave  -- MEM_WAVE, R112
  | eccCorrected  -- ECC_CORRECTED, R484
  | updateExpand  -- UPDATE_EXPAND, R447
  | windowIssue  -- WINDOW_ISSUE, R449
  | flitReceive  -- FLIT_RECEIVE, R463
  | linkRetrain  -- LINK_RETRAIN, R465
  | retrainComplete  -- RETRAIN_COMPLETE, R465
  | retrainHold  -- RETRAIN_HOLD, R466
  | lnkRetrainFail  -- LNK_RETRAIN_FAIL, R466
  | coldReset  -- COLD_RESET, R477
  | bootgo  -- BOOTGO, R477
  | fwrestart  -- FWRESTART, R481
  | gate  -- GATE, R479
  | devThermal  -- DEV_THERMAL, R480
  | spdmGetVersion  -- SPDM_GET_VERSION, R482
  | spdmGetCapabilities  -- SPDM_GET_CAPABILITIES, R482
  | spdmNegotiateAlgorithms  -- SPDM_NEGOTIATE_ALGORITHMS, R482
  | spdmGetDigests  -- SPDM_GET_DIGESTS, R482
  | sparseUpdatePerformed  -- SPARSE_UPDATE_PERFORMED, R454
  deriving DecidableEq, Repr

end Sys2Proof
end

