-- ==== Sys2Proof/Machine/State.lean ====
section
/-! DEFINITION. The state of the package as plain data (INVENTORY.md, '## State'): elements, stripes, rings, dies and the package. -/

namespace Sys2Proof.Machine

/-- Why the machine stops. No step of the manual stops the machine: every fault of the device is a next state in which a fault record is
written (01 R40). The type has no constructor. -/
inductive Fault where
  deriving DecidableEq, Repr

/-- Why a step has no meaning here. -/
inductive Refusal where
  /-- An arm of exec without its meaning. Safe: the machine stops where the hardware goes on. -/
  | notModelled (mnemonic : String)
  deriving DecidableEq, Repr

/-- A sparse table keyed by number, ascending in key, with the entries not listed at a default. -/
abbrev Tab (α : Type) := List (Nat × α)

/-- Two 256-bit XTS keys (16 R483). -/
abbrev Key := Vector Dword 8

/-! ### Elements -/

/-- An entry of the ticket queue (12 R383): the request, its arc and its ticket. -/
structure Ticket where
  tok : Token
  arc : Fin 8
  num : BitVec 16
  deriving DecidableEq, Repr

/-- An open grant (12 R383). -/
structure Grant where
  arc : Fin 8
  ctx : BitVec 6
  iter : BitVec 12
  deriving DecidableEq, Repr

/-- A configuration-context descriptor of an M-element (02 R56), TILEBASE as placed. -/
structure Desc where
  valid : Bool
  ctxv : BitVec 6
  afmt : BitVec 3
  bfmt : BitVec 3
  comp : BitVec 2
  kcount : BitVec 12
  drfmt : Bool
  round : BitVec 3
  tilebase : Word
  tilecnt : BitVec 16
  cbook : BitVec 6
  blk : BitVec 2
  deriving DecidableEq, Repr

def Desc.zero : Desc := ⟨false, 0, 0, 0, 0, 0, false, 0, 0, 0, 0, 0⟩

/-- The part of a plane that an M-element adds (11 R352). -/
structure MPlane where
  descs : Vector Desc 4
  wbase : BitVec 18
  wcount : BitVec 18
  fill : Option (BitVec 6 × Vector Word 4)
  damax : Vector (Word × Bool) 4
  deriving DecidableEq, Repr

def MPlane.zero : MPlane := ⟨Vector.replicate 4 Desc.zero, 0, 0, none, Vector.replicate 4 (0, false)⟩

/-- What a firing or a drained row of a speculative iteration gives to AMAX, held until the iteration is confirmed (08 R299): the iteration, the
descriptor whose drain AMAX it is for or none, the magnitude and the NaN flag. `clear` marks an AMAXCLR, and `fixed` a value of an iteration that is not
speculative, held behind one. -/
structure AmaxHeld where
  ctx : BitVec 6
  iter : BitVec 12
  desc : Option (Fin 4)
  amax : Word
  nan : Bool
  clear : Bool
  fixed : Bool
  deriving DecidableEq, Repr

/-- One configuration plane of an element (08 R275, 11 R352, 12 R383). -/
structure Plane where
  iw : Vector Word 16
  tw : Vector Word 16
  k : Vector Word 8
  hdr : BitVec 256
  d : Vector Reg 8
  p : Vector Bool 8
  amax : Word
  amaxNan : Bool
  amaxHeld : List AmaxHeld
  lfsr : Word
  age : Vector (BitVec 8) 16
  beat : Vector (BitVec 4) 16
  part : Vector (BitVec 3) 16
  exits : Tab Nat
  tickets : List Ticket
  grants : List Grant
  tcount : BitVec 16
  m : MPlane
  deriving DecidableEq, Repr

/-- The empty plane (02 R52) with the swap-in state of 08 R277 and the LFSR of 07 R250. -/
def Plane.empty (lfsr : Word) : Plane :=
  { iw := Vector.replicate 16 0, tw := Vector.replicate 16 0, k := Vector.replicate 8 0, hdr := 0, d := Vector.replicate 8 Reg.zero,
    p := Vector.replicate 8 false, amax := 0, amaxNan := false, amaxHeld := [], lfsr := lfsr, age := Vector.replicate 16 0, beat := Vector.replicate 16 0,
    part := Vector.replicate 16 0, exits := [], tickets := [], grants := [], tcount := 0, m := MPlane.zero }

/-- A half of a pair in the matching store (08 R282). -/
structure Half where
  ical : Bool
  chan : Fin 8
  other : Fin 8
  ctx : BitVec 6
  iter : BitVec 12
  tok : Token
  deriving DecidableEq, Repr

/-- A matched pair on a ready list (08 R282). -/
structure Pair where
  ical : Bool
  cha : Fin 8
  chb : Fin 8
  a : Token
  b : Token
  deriving DecidableEq, Repr

/-- A steered token on its way to a channel of its target (08 R279 case 4). -/
structure Steered where
  ical : Bool
  chan : Fin 8
  tok : Token
  deriving DecidableEq, Repr

/-- A result that a request will deliver: the operation, the plane, and the destination select whose credit or register it holds
(12 R385). -/
structure Pend where
  op : Nat
  ical : Bool
  dst : BitVec 5
  ctx : BitVec 6
  iter : BitVec 12
  deriving DecidableEq, Repr

/-- A path-E operation (12 R387, R391, R396). -/
inductive MemKind where
  | ld | st | ldv | stv | recl | gath | scat | pref | signal | fence | fencex | waita | waitc
  deriving DecidableEq, Repr

/-- A memory operation issued at a commit (12 R385): who issued it, its operands, its descriptor words, and its result's place and tags.
`num` is its iteration's number in order of allocation (03 R122), `seq` its place in linking order (03 R110). `held` marks a write held under
deterministic mode (12 R393), `ready` an LDV whose version is met (03 R115, R116). `stalled` is fc + 1 of the fc in which it began to stall its
element (03 R110, R123), or 0. -/
structure MemOp where
  id : Nat
  kind : MemKind
  elem : Nat
  ical : Bool
  islot : Fin 16
  launch : Nat
  ctx : BitVec 6
  iter : BitVec 12
  a : Reg
  b : Reg
  w0 : Word
  w1 : Word
  f : Fmt
  dst : BitVec 5
  rctx : BitVec 6
  riter : BitVec 12
  eos : Bool
  spec : Bool
  rkill : Bool
  num : Nat
  seq : Nat
  held : Bool
  ready : Bool
  stalled : Nat
  /-- the watch of a WAITA has been installed (12 R397) -/
  watched : Bool
  deriving DecidableEq, Repr

/-- An entry of the iteration store buffer (12 R392): a held write, or a parked store with its operands and the tokens that it claimed, by channel. -/
inductive IsbEntry where
  | held (op : MemOp)
  | parked (ical : Bool) (islot : Fin 16) (a b : Token) (heads : List (Fin 8 × Token))
  deriving DecidableEq, Repr

/-- Who sent an active message: a firing of a J-element, or a relay packet (04 R147). -/
inductive Sender where
  | elem (e : Nat) (ical : Bool) (islot : Fin 16) (launch : Nat) (ctx : BitVec 6) (iter : BitVec 12)
  | relay (qid : BitVec 20) (seq : BitVec 16)
  deriving DecidableEq, Repr

/-- Where a reply goes (02 R71): the target element and channel, or none. -/
abbrev ReplyTo := Option (Nat × Fin 8)

/-- An active message after its substitutions (12 R400). -/
structure Msg where
  id : Nat
  hdr : Word
  p : Params
  pasid : BitVec 20
  ctx : BitVec 6
  sender : Sender
  reply : ReplyTo
  /-- the result that acceptance delivers to dA: operation number, or none for SENDN -/
  sent : Option (Nat × Token)
  /-- for LAUNCH, the operations linked up to the tail that it marks (12 R401) -/
  ops : List Nat
  deriving DecidableEq, Repr

def Msg.none : Msg := ⟨0, 0, ⟨0, 0, 0, 0⟩, 0, 0, .relay 0 0, Option.none, Option.none, []⟩

/-- An accumulator row that is open (11 R352); a row not listed is closed and holds +0. -/
structure AccRow where
  ctx : BitVec 6
  iter : BitVec 12
  desc : Fin 4
  count : Nat
  /-- the A row that completed it carried EOS (11 R366) -/
  eos : Bool
  acc : Vector Word 64
  deriving DecidableEq, Repr

/-- A slab in a weight buffer, or on its way there (11 R357, R359): the bytes read so far. -/
structure Slab where
  desc : Fin 4
  kstep : Nat
  size : Nat
  got : Nat
  bytes : List Byte
  /-- the codebook as it stood when the slab entered the buffer (07 R269, 11 R358) -/
  cb : List (BitVec 16)
  /-- fc + 1 of the last fc counted as a wait on a refresh window (11 R377) -/
  waitAt : Nat
  deriving DecidableEq, Repr

/-- A row in the array between pick and commit (11 R363). -/
structure ArrRow where
  tok : Token
  row : Nat
  desc : Fin 4
  kstep : Nat
  /-- the fc of its pick -/
  picked : Nat
  deriving DecidableEq, Repr

/-- A completed row awaiting output credit (11 R366): the token numbers still to enter staging. -/
structure Drain where
  ctx : BitVec 6
  iter : BitVec 12
  desc : Fin 4
  eos : Bool
  spec : Bool
  kill : Bool
  acc : Vector Word 64
  left : List Nat
  deriving DecidableEq, Repr

/-- What the main planes, or the intercalary plane, of an M-element share (11 R352). -/
structure MPart where
  rows : Tab AccRow
  slabs : List Slab
  loading : List Slab
  array : List ArrRow
  drains : List Drain
  deriving DecidableEq, Repr

def MPart.empty : MPart := ⟨[], [], [], [], []⟩

/-- An element slot (08 R275, 11 R352, 12 R383). The `I` fields are the intercalary lane of a queue (08 R278). -/
structure Elem where
  active : Plane
  shadow : Plane
  ical : Plane
  inq : Vector (List Token) 8
  inqI : Vector (List Token) 8
  halves : List Half
  ready : List Pair
  out : Vector (List LinkTok) 8
  steer : List Steered
  pend : List Pend
  /-- requests issued and not yet answered, by plane (05 R188 D4) -/
  owed : Nat
  owedI : Nat
  isb : List IsbEntry
  port : List Msg
  msgq : List Msg
  msgqI : List Msg
  main : MPart
  part : MPart
  /-- fc + 1 of the last pick or parking (08 R285, 12 R394: one of an fc) -/
  lastPick : Nat
  /-- fc + 1 of the last message taken by an M-element (11 R372: one of an fc) -/
  lastMsg : Nat
  /-- fc + 1 of the last count of throttled slots, of a stalled store, and of a row's wait for the almanac or for a slab: each counts once in an
  fc (08 R310, 11 R377, 12 R407) -/
  counted : Vector Nat 4
  deriving DecidableEq, Repr

/-- An element that holds nothing. -/
def Elem.empty (lfsr : Word) : Elem :=
  { active := Plane.empty lfsr, shadow := Plane.empty lfsr, ical := Plane.empty lfsr, inq := Vector.replicate 8 [],
    inqI := Vector.replicate 8 [], halves := [], ready := [], out := Vector.replicate 8 [], steer := [], pend := [], owed := 0, owedI := 0, isb := [], port := [],
    msgq := [], msgqI := [], main := MPart.empty, part := MPart.empty, lastPick := 0, lastMsg := 0, counted := Vector.replicate 4 0 }

/-! ### Stripes -/

/-- A scale entry (07 R254). -/
structure SclEntry where
  bound : Bool
  ctx : BitVec 6
  gen : BitVec 5
  refcnt : BitVec 12
  fmt : Fmt
  blk : BitVec 2
  cbook : BitVec 6
  oiter : BitVec 12
  olaunch : BitVec 12
  scale : List Byte
  deriving DecidableEq, Repr

def SclEntry.zero : SclEntry := ⟨false, 0, 0, 0, .i32, 0, 0, 0, 0, []⟩

/-- The configuration that a plane of a stripe holds (05 R181, 02 R46, R49). -/
structure Cfg where
  launch : Nat
  stage : BitVec 16
  ctx : BitVec 6
  pasid : BitVec 20
  present : BitVec 16
  stateful : BitVec 16
  spwbase : Word
  spwsize : Word
  routes : List (BitVec 12)
  /-- RELGEN, first page and window base of the cached image that it was loaded from (05 R187) -/
  relgen : BitVec 16
  page : Nat
  wsbase : Nat
  deriving DecidableEq, Repr

/-- A save record of a stage (05 R193, R194): the elements of one stripe as saved, with its pass registers and the scale entries that are
referred to. It stands at `block` of its job's save area, in 64 KiB blocks. -/
structure SaveRec where
  launch : Nat
  cfg : Option Cfg
  seg : Nat
  stage : BitVec 16
  block : Nat
  blocks : Nat
  elems : Tab Elem
  pass : Vector (List LinkTok) 16
  scales : Tab SclEntry
  eosSeen : List Nat
  swaps : Nat
  par : Bool
  deriving DecidableEq, Repr

/-- A presented stripe (01 R14, R18; 08 R278). -/
structure Stripe where
  active : Option Cfg
  shadow : Option Cfg
  ical : Option Cfg
  /-- the shadow plane holds the next configuration, which may be the empty one (05 R187, D5) -/
  shadowReady : Bool
  /-- the wavefront parities of the active and of the intercalary plane (08 R278) -/
  par : Bool
  parI : Bool
  pass : Vector (List LinkTok) 16
  /-- routed channels (8 x slot + channel) and pass registers (128 + n) that EOS has reached since swap-in (05 R188 D1) -/
  eosSeen : List Nat
  /-- the same of the intercalary plane -/
  eosSeenI : List Nat
  /-- swaps made since its region was placed (05 R189) -/
  swaps : Nat
  /-- the outgoing stateful elements are saved (05 R188 D5) -/
  saved : Bool
  /-- the restored record that enters with the shadow plane (05 R194) -/
  restored : Option SaveRec
  deriving DecidableEq, Repr

def Stripe.empty : Stripe :=
  ⟨none, none, none, false, false, false, Vector.replicate 16 [], [], [], 0, false, none⟩

/-! ### Rings -/

/-- Whose allocation of a scale entry waits: that of an instruction slot, of an ingress port, or of a link token to a target (as in RxTok). -/
inductive SclUser where
  | slot (i : Fin 16)
  | port (n : Nat)
  | link (target : Nat)
  deriving DecidableEq, Repr

/-- The slot of an allocation that a firing makes. -/
def SclUser.slot? : SclUser → Option (Fin 16)
  | .slot i => some i
  | _ => none

/-- An allocation that waits (07 R255): its context, launch and iteration, the fc it began to wait, and the element whose firing waits, or that an
ingress port or a link feeds. -/
structure SclWait where
  ctx : BitVec 6
  launch : Nat
  iter : BitVec 12
  since : Nat
  elem : Nat
  ical : Bool
  who : SclUser
  deriving DecidableEq, Repr

/-- The scale engine of a ring (07 R247, R254, R255, R272). The free list is the entries never allocated, from `fresh` up, then `freed`. -/
structure Scl where
  entries : Tab SclEntry
  fresh : Nat
  freed : List Nat
  books : Tab (BitVec 6 × List (BitVec 16))
  ctxmax : BitVec 12
  allocs : Dword
  leaked : Dword
  waits : List SclWait
  deriving DecidableEq, Repr

/-- A wave chain (03 R109, R110): the tail's wave word and the WSEQ values already linked. -/
structure Chain where
  launch : Nat
  ctx : BitVec 6
  iter : BitVec 12
  tail : Option Word
  seqs : List Nat
  deriving DecidableEq, Repr

/-- A parked watch (12 R397). `tok` is its wake token. -/
structure Watch where
  op : MemOp
  tok : Token
  v0 : Nat
  deriving DecidableEq, Repr

/-- A slot of a stream FIFO: its 16-bit slot tag once written (13 R418, R419). -/
abbrev FifoSlot := Option (BitVec 16)

/-- A stream FIFO (13 R418, R438). `slots` are the reserved slots not yet delivered, oldest first; `base` is a scratchpad byte. -/
structure Fifo where
  launch : Nat
  ctx : BitVec 6
  scaled : Bool
  closed : Bool
  u : BitVec 12
  size : Nat
  base : Nat
  slots : List FifoSlot
  delivered : Nat
  deriving DecidableEq, Repr

/-- An entry of an ingress list that is not an end entry (13 R422). -/
structure IngEntry where
  scaled : Bool
  fmt : Fmt
  vlen : Fin 16
  sridx : BitVec 16
  soff : Word
  count : Word
  pitch : Word
  scridx : BitVec 16
  blk : BitVec 2
  cbook : BitVec 6
  scoff : Word
  u : BitVec 12
  deriving DecidableEq, Repr

/-- An ingress port (13 R420-R425). `num` is its number within the launch; `entries` are the entries still to read, `pos` the token of
the first of them that comes next. -/
structure Port where
  launch : Nat
  num : Nat
  ended : Bool
  fifo : Option (Fin 64)
  next : Nat
  entries : List IngEntry
  pos : Nat
  gm1 : Nat
  slot : Fin 16
  chan : Fin 8
  lastIter : BitVec 12
  /-- cohorts of the launch in which this port has put its end mark or its cohort end -/
  marked : Nat
  deriving DecidableEq, Repr

/-- A resource entry (03 R92). -/
structure Res where
  base : Nat
  extent : Nat
  keyidx : Nat
  space : Nat
  fmt : Nat
  layout : Nat
  vers : Bool
  scope : Nat
  rights : Nat
  pref : Bool
  relgen : Nat
  valid : Bool
  rsvd : Nat
  deriving DecidableEq, Repr

/-- One end of a transfer: its entry as it stood at acceptance (03 R95), and for SPACE 1 the scratchpad byte of its byte 0. -/
structure SEnd where
  res : Res
  base : Nat
  deriving DecidableEq, Repr

/-- An accepted stream message (13 R413, R435): its ends, the slots it has reserved in a FIFO (the FIFO, the number of the first slot, how many) and that
FIFO's first byte and size, its stride tables, its index list once that is read, the bytes it has moved, and its reply once it is due: status and
lanes 0 and 1. -/
structure Transfer where
  msg : Msg
  src : Option SEnd
  dst : Option SEnd
  idx : Option SEnd
  fifo : Option (Fin 64 × Nat × Nat)
  buf : Nat × Nat
  srcTab : List (Nat × Int)
  dstTab : List (Nat × Int)
  ixs : Option (List Nat)
  moved : Nat
  ready : Option (Nat × Nat × Nat)
  deriving DecidableEq, Repr

/-- A pending element value of the window (14 R445): the new bits and expected bits, or an exact sum. -/
inductive WinVal where
  | bits (v : Nat)
  | exact (z : Int)
  | cas (expected new : Nat)
  deriving DecidableEq, Repr

/-- An address token (14 R447): its granule, its values by byte of the granule, and the pages whose translations gave the granule. -/
structure AddrTok where
  place : Nat
  gran : Nat
  vals : Tab WinVal
  pages : List (BitVec 20 × Nat)
  deriving DecidableEq, Repr

/-- An accepted sparse-update message (14 R443-R447): its destination, its value rows and its index list as their entries stood at acceptance,
the mode of its launch then, the next index to expand, the tokens that the window has not taken yet, the tokens not yet performed, the status of one
that is refused, and what its reply will carry. -/
structure SparseMsg where
  msg : Msg
  dst : Option SEnd
  src : Option SEnd
  idx : Option SEnd
  ord : Bool
  nextIdx : Nat
  toks : List AddrTok
  expanded : Bool
  outstanding : Nat
  refused : Option Nat
  bad : Nat
  noKey : Bool
  lane0 : Nat
  lane1 : Nat
  deriving DecidableEq, Repr

/-- The key of a window entry (14 R447): MOP, FMT, SAT and RND. -/
structure WinKey where
  mop : Nat
  fmt : Fmt
  sat : Bool
  rnd : Nat
  deriving DecidableEq, Repr

/-- An entry of the reordering window (14 R448). `addr` is a granule of HBM (`place` 0) or of host memory (1), or a scratchpad unit (2);
`vals` are by byte of the granule, `owners` are the messages of its tokens, and `pages` are the pages whose translations gave its granule (03 R99).
An intercalary launch has entries of its own (14 R456). -/
structure WinEntry where
  addr : Nat
  place : Nat
  key : WinKey
  ctx : BitVec 6
  ical : Bool
  keyidx : BitVec 12
  vals : Tab WinVal
  open_ : Bool
  imm : Bool
  absorbed : Nat
  owners : List Nat
  pages : List (BitVec 20 × Nat)
  deriving DecidableEq, Repr

/-- What a region waits for (05 R197): who asked, with what. `force` marks an eviction that does not wait for an equinox. -/
inductive EqReq where
  | pphase
  | peqwait (m : Msg)
  | pevict (m : Msg) (force : Bool)
  | pcompact (m : Msg)
  deriving DecidableEq, Repr

/-- A reply token that waits for its target: no credit, no admission or a frozen victim (12 R405). `sender` is the sending element, and `cls` the class of
the engine that replies. -/
structure HeldReply where
  target : Nat
  chan : Fin 8
  ical : Bool
  tok : Token
  sender : Nat
  cls : Nat
  deriving DecidableEq, Repr

/-- A result held for a frozen victim (03 R128): the element, the operation and the token. -/
structure HeldResult where
  elem : Nat
  ical : Bool
  op : Nat
  tok : Token
  deriving DecidableEq, Repr

/-- A region (05 R176). -/
structure Region where
  page : Fin 8
  pages : Nat
  pasid : BitVec 20
  ctx : BitVec 6
  /-- the launch it runs and the one bound behind it, by number of die x 4,096 + entry -/
  launches : List Nat
  reqs : List EqReq
  /-- the configurations of its waves: swap `n` of stripe `i` takes round `r` of the launch in entry `n`, or the empty image (05 R183, R189) -/
  plan : List (Option Nat × Nat)
  /-- cohorts admitted of the launch in region stripe 0 -/
  cohorts : Nat
  /-- swaps that the last stripe of the segment before has reported (15 R468) -/
  predSwaps : Nat
  /-- fc + 1 of the last swap-in of stage 0, and whether its cohort has been admitted (05 R184) -/
  stage0At : Nat
  cohortOpen : Bool
  /-- the present equinox has been counted (05 R196) -/
  counted : Bool
  /-- the ring's schedule as it stood when a forced eviction took the region's stripes out of it (05 R211) -/
  aside : List (Fin 32)
  deriving DecidableEq, Repr

/-- A stripe image in the configuration cache (05 R187): its key and its 768 words. -/
structure CacheLine where
  pasid : BitVec 20
  iridx : BitVec 16
  relgen : BitVec 16
  ioff : BitVec 48
  stage : BitVec 16
  page : Nat
  wsbase : Nat
  words : List Word
  deriving DecidableEq, Repr

/-- An almanac slot that is VALID (05 R207). -/
structure AlmSlot where
  shared : Bool
  pasid : BitVec 20
  deriving DecidableEq, Repr

/-- A ring hold taken on a fault (01 R39): the context, and whether the record still waits to enter the fault buffer. -/
structure FHold where
  ctx : BitVec 6
  /-- 0: a terminated context; otherwise a page request, by its virtual page plus one -/
  page : Nat
  deriving DecidableEq, Repr

/-- A ring with its engines. -/
structure Ring where
  skip0 : Option (Fin 34)
  skip1 : Option (Fin 34)
  holdfc : Dword
  icalValid : Bool
  icalPasid : BitVec 20
  eqcnt : Dword
  ctxs : Tab (BitVec 20)
  regions : List Region
  owners : Tab (BitVec 20)
  schedule : List (Fin 32)
  lastSwap : Nat
  /-- the stripe at the head of the schedule that has been found due and not drained (01 R37) -/
  late : Option (Fin 32)
  fholds : List FHold
  linkHold : Bool
  throttle : Bool
  /-- stopped by DEV_THERMAL (16 R480) -/
  stopped : Bool
  /-- fc for which each page has been free, up to 65,000 (16 R479) -/
  freeFor : Vector Nat 8
  occupied : Bool
  /-- the intercalary launch bound on the ring, and the stripes its images have reached -/
  icalLaunch : Option Nat
  icalLoaded : Nat
  cache : List CacheLine
  almanac : Tab AlmSlot
  palmw : List (Msg × Dword × Option AlmSlot)
  spad : List Host.Cell
  scl : Scl
  elSquashed : Dword
  elAgeforced : Dword
  elThrottle : Dword
  elKilldrop : Dword
  elSteered : Dword
  mxRows : Dword
  mxAlmwait : Dword
  mxWbwait : Dword
  mxRefwait : Dword
  monmax : BitVec 10
  jnWakes : Dword
  jnSpurious : Dword
  jnParked : Dword
  jnIsbstall : Dword
  chains : List Chain
  arriving : List MemOp
  waveBuf : List MemOp
  linked : List MemOp
  watches : List Watch
  heldReplies : List HeldReply
  heldResults : List HeldResult
  strmRd : Dword
  strmWr : Dword
  strmWait : Dword
  fifos : Tab Fifo
  ports : Tab Port
  strides : Tab (Nat × List (Nat × Int))
  transfers : List Transfer
  streamIn : List Msg
  sparse : List SparseMsg
  sparseIn : List Msg
  window : List WinEntry
  sueUpdates : Dword
  sueMerged : Dword
  sueRmw : Dword
  sueBadidx : Dword
  ordered : List Nat
  procIn : List Msg
  deriving DecidableEq, Repr

/-! ### Dies -/

/-- Why a hart issues nothing (04 R132, R161, R164, R166, R167, R134). -/
inductive HBlock where
  | running
  | fwait (rd : BitVec 5)
  | fpost (addr : Dword) (cseq : BitVec 16)
  | pathF (a : FAccess)
  | fqdemap (rd : BitVec 5) (h : Fin 64)
  | flaunch (rd : BitVec 5) (addr : Dword)
  deriving DecidableEq, Repr

/-- A front-end hart and its window (04 R132, R157); its machine-mode registers are those of the RISC-V specifications (log 12). -/
structure Hart where
  x : Vector Dword 32
  pc : Dword
  mtvec : Dword
  mepc : Dword
  mcause : Dword
  mtval : Dword
  mstatus : Dword
  mscratch : Dword
  mie : Dword
  mcycle : Dword
  minstret : Dword
  /-- bits 0 and 2 of mcountinhibit: mcycle, and minstret, stand still -/
  haltCycle : Bool
  haltInstret : Bool
  /-- the reservation that LR registers: an 8-byte granule of local SRAM -/
  resv : Option Nat
  /-- bytes of the base instruction whose access path F performs; 0 when none does -/
  ilen : BitVec 3
  /-- a program of its own runs on the hart: else the manual's firmware does (log 26) -/
  own : Bool
  mapped : Bool
  pasid : BitVec 20
  qid : BitVec 20
  rbase : BitVec 58
  rsize : BitVec 4
  cbase : BitVec 58
  csize : BitVec 4
  waddr : BitVec 61
  wval : Dword
  arm : Bool
  met : Bool
  /-- the armed watch's word has been found to satisfy OP (04 R158) -/
  watchHit : Bool
  wop : BitVec 2
  vigilArmed : Bool
  vigilExpired : Bool
  remain : Word
  block : HBlock
  deriving DecidableEq, Repr

def Hart.reset : Hart :=
  { x := Vector.replicate 32 0, pc := 0, mtvec := 0, mepc := 0, mcause := 0, mtval := 0, mstatus := 0,
    mscratch := 0, mie := 0, mcycle := 0, minstret := 0, haltCycle := false, haltInstret := false, resv := none, ilen := 0, own := false,
    mapped := false, pasid := 0, qid := 0, rbase := 0, rsize := 0, cbase := 0, csize := 0, waddr := 0, wval := 0, arm := false, met := false, watchHit := false,
    wop := 0, vigilArmed := false, vigilExpired := false, remain := 0, block := .running }

/-- An entry of the wake latch (04 R141). -/
structure Latch where
  valid : Bool
  stop : Bool
  badkick : Bool
  mapped : Bool
  attn : Bool
  rsize : BitVec 4
  csize : BitVec 4
  lseq : BitVec 16
  taken : BitVec 16
  cpost : BitVec 16
  cack : BitVec 16
  deriving DecidableEq, Repr

def Latch.zero : Latch := ⟨false, false, false, false, false, 0, 0, 0, 0, 0, 0⟩

/-- A packet taken and not yet complete (04 R144, R154). -/
structure OpenPkt where
  seq : BitVec 16
  type : BitVec 8
  cmpl : Bool
  deriving DecidableEq, Repr

/-- The unmet WAIT of a queue (04 R146); `found` is the value that met OP, read while no hart held the queue (04 R170). -/
structure QWait where
  addr : Dword
  value : Dword
  op : BitVec 3
  seq : BitVec 16
  cmpl : Bool
  found : Option Dword
  deriving DecidableEq, Repr

/-- What the front end keeps of a queue (04 R148, R152-R154). `outbox` are records formed and waiting for room in the completion ring. -/
structure Queue where
  pasid : BitVec 20
  kernel : Bool
  rbase : Dword
  cbase : Dword
  wait : Option QWait
  opens : List OpenPkt
  /-- the LAUNCH packets taken, each with whether it was refused or cancelled (04 R145) -/
  past : Tab Bool
  outbox : List (Vector Dword 8)
  deriving DecidableEq, Repr

/-- A fault record (01 R40). -/
structure FRec where
  time : Dword
  aux : Dword
  seq : Word
  ctx : BitVec 6
  disp : BitVec 2
  pasid : BitVec 20
  vstage : BitVec 16
  iter : BitVec 12
  iterValid : Bool
  ctxValid : Bool
  plane : BitVec 2
  code : BitVec 8
  engine : BitVec 4
  die : BitVec 2
  ring : BitVec 2
  pstripe : BitVec 6
  elem : BitVec 4
  islot : BitVec 4
  locValid : Bool
  slotValid : Bool
  deriving DecidableEq, Repr

def FRec.zero : FRec := ⟨0, 0, 0, 0, 0, 0, 0, 0, false, false, 0, 0, 0, 0, 0, 0, 0, 0, false, false⟩

/-- A fault-buffer entry (04 R152): its record, the queue it goes to (none for a device fault), the PSEQ, and its two deliveries. -/
structure FbEntry where
  rec_ : FRec
  queue : Option (BitVec 20 × BitVec 16)
  toJob : Bool
  toLog : Bool
  deriving DecidableEq, Repr

/-- The states of a dependence-table entry (05 R198). -/
inductive LState where
  | free | wait | held | ready | bound | running | evicted | done
  deriving DecidableEq, Repr

/-- The marks of one iteration value (08 R294). -/
structure IterMark where
  retired : Bool
  killed : Bool
  spec : Bool
  deriving DecidableEq, Repr

/-- An iteration allocator (08 R294). `marks` lists the values whose marks are not all clear; `num` is the number of allocations made,
from which quanta follow (03 R122). -/
structure Alloc where
  base : BitVec 12
  span : Nat
  marks : Tab IterMark
  num : Nat
  quanta : Nat
  deriving DecidableEq, Repr

/-- At launch start base is 0 and iteration 0 is allocated (08 R294). -/
def Alloc.start : Alloc := ⟨0, 1, [], 1, 0⟩

/-- A placed segment of a launch (15 R467): its die, ring and first page, its CTX there, and its allocator (08 R294, 15 R469). `grants`
are the grants of segment 0 that have returned to it. A launch that is not chained has one. -/
structure Seg where
  die : Fin 4
  ring : Fin 4
  page : Fin 8
  ctx : BitVec 6
  alloc : Alloc
  grants : Nat
  deriving DecidableEq, Repr

/-- A predecessor named by a LAUNCH (04 R145): its entry, its number, and EARLY. -/
structure Dep where
  entry : Nat
  serial : Nat
  early : Bool
  deriving DecidableEq, Repr

/-- What a checked stage image of a launch says about its neighbours: the input channels (8 x slot + channel) and pass registers (128 + n) of the
next stage that its routes feed, whether it is stateful, its PRESENT bits, the pass registers that routes of its own elements name (02 R51), and its
wave words (03 R108). -/
structure StageNote where
  feeds : List Nat
  stateful : Bool
  present : BitVec 16
  ownPass : List Nat
  waves : List Word
  deriving DecidableEq, Repr

/-- A launch in the dependence table (05 R198, R199; 06 R230; 08 R294). -/
structure Launch where
  state : LState
  serial : Nat
  pasid : BitVec 20
  /-- the queue and packet that submitted it or its nearest such ancestor (04 R152) -/
  qid : BitVec 20
  pseq : BitVec 16
  device : Bool
  parent : Option Nat
  graph : Word
  phase : Nat
  prio : BitVec 8
  rscope : BitVec 3
  deps : List Dep
  /-- operations of the parent that must have been performed (03 R125) -/
  parentOps : List Nat
  iridx : BitVec 16
  ioff : BitVec 48
  args : Lanes
  pages : Nat
  stages : Nat
  window : Nat
  dwell : Nat
  det : Bool
  quantum : Nat
  nstate : Nat
  nativegen : BitVec 16
  nseg : Nat
  /-- the ingress list once checked (13 R421): per port its entries, target and G - 1 -/
  ingress : Option (List (List IngEntry × Fin 16 × Fin 8 × Nat))
  segs : List Seg
  ical : Bool
  woken : Bool
  /-- the index-to-iteration map of its ports (13 R424) -/
  idxMap : Tab (BitVec 12)
  triggered : Bool
  cancelled : Bool
  faulted : Bool
  ended : Bool
  reported : Bool
  status : BitVec 16
  /-- messages and memory operations issued and not yet answered (05 R188 D4) -/
  owed : Nat
  order : Nat
  /-- the stage images that have been checked (06 R232) -/
  notes : Tab StageNote
  /-- fc + 1 of the last grant of an allocation, and the grants of that fc (08 R295) -/
  grantAt : Nat
  granted : Nat
  /-- the save-area blocks reserved for a stage: the first and their number (05 R195) -/
  saveAt : Tab (Nat × Nat)
  /-- the PRESTORE that restored it, until it runs (05 R218) -/
  restoring : List Msg
  deriving DecidableEq, Repr

/-- A launch report not yet delivered to a hart (04 R161). -/
structure Report where
  qid : BitVec 20
  launch : BitVec 24
  status : BitVec 16
  pseq : BitVec 16
  deriving DecidableEq, Repr

/-- A weight window (05 R220). -/
structure WsWin where
  valid : Bool
  pasid : BitVec 20
  base : BitVec 18
  count : BitVec 18
  deriving DecidableEq, Repr

def WsWin.zero : WsWin := ⟨false, 0, 0, 0⟩

/-- A phase of a job on a die (05 R205): its number and the PPHASE messages pending, oldest first. -/
structure Phase where
  num : Nat
  pend : List Msg
  deriving DecidableEq, Repr

/-- A PWSW waiting for a boundary (05 R206). -/
structure WsWrite where
  msg : Msg
  job : BitVec 20
  tile : Nat
  count : Nat
  keyidx : BitVec 12
  res : Res
  off : Nat
  deriving DecidableEq, Repr

/-- A cached translation (03 R97). `size` 0: 4 KiB, 1: 2 MiB, 2: 1 GiB; `vpage` and `hpage` are numbers of 4 KiB pages. -/
structure Xlt where
  pasid : BitVec 20
  vpage : Nat
  hpage : Nat
  size : Fin 3
  read : Bool
  write : Bool
  /-- the page's attributes mark it non-prefetchable (03 R100) -/
  noPref : Bool
  deriving DecidableEq, Repr

/-- Who waits for a walk (03 R97, R98): a ring, or a hart (path F), with the queue that its record goes to and the record's place. `ops` are the
memory operations that wait so, by number, and none for anything else. -/
structure Waiter where
  ring : Option (Fin 4)
  hart : Option (Fin 64)
  queue : Option (BitVec 20 × BitVec 16)
  site : FRec
  ops : List (Option Nat)
  deriving DecidableEq, Repr

/-- A walk (03 R97, R98): an ATS request, or a PRI request after it. One on which nobody waits was made for a prefetch (03 R100). -/
structure Walk where
  pasid : BitVec 20
  vpage : Nat
  write : Bool
  pri : Bool
  /-- the fc in which it took its walker -/
  since : Nat
  waiters : List Waiter
  deriving DecidableEq, Repr

/-- What travels in a slot of a flit (15 R463), with the launch and the segment it goes to. The target of a token is 8 x element slot +
channel, or 128 + pass register. -/
inductive Slot where
  | token (launch seg : Nat) (target : Nat) (t : LinkTok) (scale : Option SclEntry)
  | alloc (launch seg : Nat) (v : BitVec 12) (spec : Bool)
  | retire (launch seg : Nat) (v : BitVec 12)
  | kill (launch seg : Nat) (v : BitVec 12)
  | baseReport (launch seg : Nat) (of : Nat) (base : BitVec 12)
  | swapReport (launch seg : Nat) (swaps : Nat)
  | count (launch seg : Nat) (n : Nat)
  deriving DecidableEq, Repr

/-- A token in a receive buffer (15 R464): its target as in Slot, and the scale record that came with it (15 R470). -/
structure RxTok where
  target : Nat
  tok : LinkTok
  scale : Option SclEntry
  deriving DecidableEq, Repr

/-- An evicted segment of a launch (05 R211, R213; 03 R128; 13 R436): its region as it stood, its scratchpad share from byte 0, the records of
its stripes, its ports, FIFOs, stride tables, chains, withdrawn operations and watches, and the codebooks that its job gave up. -/
structure Evicted where
  launch : Nat
  seg : Nat
  segment : Seg
  /-- the launches bound to the region, with their segments there and their states -/
  bound : List (Nat × Seg × LState)
  replies : List HeldReply
  region : Region
  full : Bool
  spad : List Host.Cell
  recs : List SaveRec
  ports : List Port
  fifos : Tab Fifo
  strides : Tab (Nat × List (Nat × Int))
  chains : List Chain
  arriving : List MemOp
  linked : List MemOp
  watches : List Watch
  /-- the launches in ordered mode on the sparse-update engine of the ring (14 R456) -/
  ordered : List Nat
  /-- the scale entries that operations, watches and held replies refer to -/
  scales : Tab SclEntry
  /-- the tokens on their way into the segment over a link (15 R471) -/
  rx : List RxTok
  books : Tab (List (BitVec 16))
  block : Nat
  blocks : Nat
  deriving DecidableEq, Repr

/-- A flit (15 R463). -/
structure Flit where
  seq : BitVec 12
  slots : List Slot
  deriving DecidableEq, Repr

/-- A link endpoint (15 R463-R466, R473). -/
structure Link where
  up : Bool
  retrain : Bool
  external : Bool
  failed : Bool
  txseq : BitVec 12
  rxseq : BitVec 12
  retrains : Dword
  replayed : Dword
  holdfc : Dword
  /-- slots that wait to be sent: the link is not trained, it retrains, or its retry buffer is full -/
  queue : List Slot
  retry : List Flit
  wire : List Flit
  /-- per chained region served, by 4 x launch + segment: the receive buffer and the sender's free count -/
  rx : Tab (List RxTok)
  free : Tab Nat
  since : Nat
  deriving DecidableEq, Repr

/-- A power island (16 R476, R479). -/
structure Island where
  forceon : Bool
  state : BitVec 2
  deriving DecidableEq, Repr

/-- A die. -/
structure Die where
  harts : Vector Hart 64
  sram : List Host.Cell
  feVigil : Word
  feRunq : BitVec 20
  feKickerr : Word
  feFloglost : Word
  feRestart : Bool
  feFwup : Bool
  latch : Tab Latch
  attn : List Nat
  queues : Tab Queue
  reports : List Report
  fbuf : Tab FbEntry
  faultWait : List FbEntry
  faultSeq : Word
  restarted : List Nat
  /-- the runnable unmapped queues that the firmware serves, by local index, in the order in which they became runnable (04 R169) -/
  runq : List Nat
  launches : Tab Launch
  order : Nat
  /-- fc + 1 of the last binding or refusal (05 R200) -/
  lastBind : Nat
  wswin : Tab WsWin
  phases : Tab Phase
  pwsw : List WsWrite
  graphs : List (Nat × Nat)
  xlts : List Xlt
  /-- in order of arrival: the first 128 hold the walkers -/
  walks : List Walk
  /-- pages whose prefetch met a translation fault (03 R100), or whose fault ended a job: PASID and page -/
  quietFails : List (BitVec 20 × Nat)
  /-- ATS invalidations not yet answered, with the translations that they removed and that updates in the window still use (03 R99) -/
  invals : List (BitVec 20 × Nat × List Xlt)
  ws : List Host.Cell
  wsKey : Tab (BitVec 12)
  /-- the key that enciphered each tile (03 R101) -/
  wsEnc : Tab (Option Key)
  mxWsread : Dword
  evicted : List Evicted
  saves : List SaveRec
  links : Vector Link 2
  devMaxgen : BitVec 16
  devMingen : BitVec 16
  devGenSet : Bool
  bootRbase : BitVec 58
  bootRsize : BitVec 4
  bootCbase : BitVec 58
  bootCsize : BitVec 4
  keySlot : BitVec 12
  keyErr : Bool
  keyData : Vector Dword 9
  ecccor : Dword
  tj : BitVec 16
  hot : Nat
  islands : Tab Island
  gated : Bool
  waking : Bool
  deriving DecidableEq, Repr

/-! ### The package -/

/-- A PRSW waiting for its equinoxes (03 R95). `left` are the regions (ring, first page) still to pass one. -/
structure Prsw where
  msg : Msg
  pasid : BitVec 20
  entry : BitVec 16
  words : Vector Dword 8
  old : Vector Dword 8
  left : List (Nat × Nat)
  deriving DecidableEq, Repr

/-- A job's context (04 R148). -/
structure Job where
  rtbase : Dword
  rtcnt : BitVec 16
  sabase : Dword
  sasize : Dword
  prsws : List Prsw
  terminated : Bool
  deriving DecidableEq, Repr

/-- What moves next: the model's own field (log 1). -/
inductive Cue where
  /-- the picker of an element (08 R285) on its active or intercalary plane -/
  | pick (e : ElemAt) (ical : Bool)
  /-- a hart issues the instruction at its pc -/
  | hart (die : Fin 4) (h : Fin 64)
  /-- the firmware of a queue's home die takes its next packet -/
  | packet (qid : BitVec 20)
  /-- an engine takes the head of its message queue: class 4 or 5 on a ring, 6 on a ring -/
  | message (r : RingAt) (cls : Fin 16)
  /-- an M-element takes the head of its message queue -/
  | mxMessage (e : ElemAt) (ical : Bool)
  /-- an event of the engines, at a ring, a die and a link endpoint -/
  | event (r : RingAt) (ep : Fin 2) (i : Instr)
  /-- an fc passes -/
  | tick
  /-- the host stores bytes to its own memory (04 R175) -/
  | hostStore (addr : Dword) (bytes : List Byte)
  /-- a flit arrives at an external chain port from another package (15 R463) -/
  | chainIn (die : Fin 4) (ep : Fin 2) (f : Flit)
  deriving DecidableEq, Repr

/-- For whom exec acts: the model's own field (log 1). -/
structure Focus where
  ring : RingAt
  elem : ElemAt
  ical : Bool
  islot : Fin 16
  hart : Fin 64
  ep : Fin 2
  queue : BitVec 20
  msg : Msg
  deriving DecidableEq, Repr

/-- The signature and hash algorithms of the attestation: TPM_ALG_RSASSA_4096 and TPM_ALG_SHA_512 (16 R482). -/
inductive SpdmAsym where
  | rsassa4096
  deriving DecidableEq, Repr

inductive SpdmHash where
  | sha512
  deriving DecidableEq, Repr

/-- The SPDM requester state (16 R482, R483): its stage, the algorithms negotiated, and its sessions. -/
structure Spdm where
  stage : Nat
  algs : Option (SpdmAsym × SpdmHash)
  session : Option Nat
  finished : Option Nat
  deriving DecidableEq, Repr

/-- The package. -/
structure State where
  fc : Nat
  agenda : List Cue
  focus : Focus
  freeCtr : Nat
  opCtr : Nat
  dies : Vector Die 4
  rings : Vector Ring 16
  stripes : Tab Stripe
  elems : Tab Elem
  hbm : List Host.Cell
  hbmKey : Tab (Option Key)
  /-- granules that a patrol scrub has found uncorrectable, by device physical address (16 R484) -/
  badGrans : List Nat
  versions : Tab (BitVec 16)
  hostMem : List Host.Cell
  keys : Tab Key
  /-- key commands not yet carried out, oldest first: die, OP and SLOT (16 R483) -/
  keyCmds : List (Fin 4 × BitVec 2 × BitVec 12)
  hdmBase : Dword
  hdmSize : Dword
  hdmWays : BitVec 4
  hdmGran : BitVec 4
  hdmOn : Bool
  hdmErr : Bool
  jobs : Tab Job
  fwRunning : Option FwImage
  fwStaged : Option FwImage
  ownerPq : Bool
  antiRollback : Word
  /-- the fused SHA-512 digests of the vendor key, and of the owner key once it is fused (16 R481) -/
  vendorDigest : BitVec 512
  ownerDigest : Option (BitVec 512)
  recovery : Bool
  spdm : Spdm
  /-- what the host or the board controller last read from the device -/
  hostView : Dword
  deriving DecidableEq, Repr

/-! ### Reset -/

def Scl.reset : Scl :=
  { entries := [], fresh := 0, freed := [], books := [], ctxmax := 2048, allocs := 0, leaked := 0, waits := [] }

def Ring.reset : Ring :=
  { skip0 := none, skip1 := none, holdfc := 0, icalValid := false, icalPasid := 0, eqcnt := 0, ctxs := [], regions := [],
    owners := [], schedule := [], lastSwap := 0, late := none, fholds := [], linkHold := false, throttle := false, stopped := false, freeFor := Vector.replicate 8 0, occupied := false,
    icalLaunch := none, icalLoaded := 0, cache := [], almanac := [], palmw := [], spad := [], scl := Scl.reset,
    elSquashed := 0, elAgeforced := 0, elThrottle := 0, elKilldrop := 0, elSteered := 0, mxRows := 0, mxAlmwait := 0, mxWbwait := 0,
    mxRefwait := 0, monmax := 512, jnWakes := 0, jnSpurious := 0, jnParked := 0, jnIsbstall := 0, chains := [], arriving := [],
    waveBuf := [], linked := [], watches := [], heldReplies := [], heldResults := [], strmRd := 0, strmWr := 0, strmWait := 0, fifos := [], ports := [],
    strides := [], transfers := [], streamIn := [], sparse := [], sparseIn := [], window := [], sueUpdates := 0, sueMerged := 0,
    sueRmw := 0, sueBadidx := 0, ordered := [], procIn := [] }

def Link.reset (external : Bool) : Link :=
  { up := false, retrain := false, external := external, failed := false, txseq := 0, rxseq := 0, retrains := 0, replayed := 0,
    holdfc := 0, queue := [], retry := [], wire := [], rx := [], free := [], since := 0 }

def Die.reset (first last : Bool) : Die :=
  { harts := Vector.replicate 64 Hart.reset, sram := [], feVigil := 65000, feRunq := 0, feKickerr := 0, feFloglost := 0,
    feRestart := false, feFwup := false, latch := [], attn := [], queues := [], reports := [], fbuf := [], faultWait := [], faultSeq := 0, runq := [],
    restarted := [], launches := [], order := 0, lastBind := 0, wswin := [], phases := [], pwsw := [], graphs := [], xlts := [], walks := [], quietFails := [], invals := [],
    ws := [], wsKey := [], wsEnc := [], mxWsread := 0, evicted := [], saves := [], links := #v[Link.reset first, Link.reset last], devMaxgen := 0,
    devMingen := 0, devGenSet := false, bootRbase := 0, bootRsize := 0, bootCbase := 0, bootCsize := 0,
    keySlot := 0, keyErr := false, keyData := Vector.replicate 9 0, ecccor := 0, tj := 0, hot := 0, islands := [],
    gated := false, waking := false }

def Focus.reset : Focus := ⟨⟨0, 0⟩, ⟨⟨⟨0, 0⟩, 0⟩, 0⟩, false, 0, 0, 0, 0, Msg.none⟩

/-- The package right after a cold reset (16 R477 steps 1 to 3): slot 0 holds the device key, memories list nothing, and every field is at
its reset value; values that the manual does not give are those of logs 7, 8 and 9. -/
def State.reset : State :=
  { fc := 0, agenda := [], focus := Focus.reset, freeCtr := 0, opCtr := 0,
    dies := #v[Die.reset true false, Die.reset false false, Die.reset false false, Die.reset false true],
    rings := Vector.replicate 16 Ring.reset, stripes := [], elems := [], hbm := [], hbmKey := [], badGrans := [], versions := [], hostMem := [],
    keys := [(0, Config.deviceKey)], keyCmds := [], hdmBase := 0, hdmSize := 0, hdmWays := 0, hdmGran := 0, hdmOn := false, hdmErr := false, jobs := [],
    fwRunning := none, fwStaged := none, ownerPq := false, antiRollback := 0, vendorDigest := 0, ownerDigest := none, recovery := false, spdm := ⟨0, none, none, none⟩,
    hostView := 0 }

end Sys2Proof.Machine
end

