-- ==== Sys2Proof/Machine/Ops.lean ====
section
/-! DEFINITION. The named operations over the state: tables, bytes of memory, places, launches and their allocators, taking a fault
(01 R39-R43) and the trap of a hart (04 R132). -/

namespace Sys2Proof

/-! ### Places (01 R14-R19) -/

def RingAt.num (r : RingAt) : Nat := r.die.val * 4 + r.ring.val
def RingAt.ix (r : RingAt) : Fin 16 := ⟨r.die.val * 4 + r.ring.val, by omega⟩
def StripeAt.key (s : StripeAt) : Nat := s.ring.num * 32 + s.stripe.val
def ElemAt.key (e : ElemAt) : Nat := e.at_.key * 16 + e.slot.val
def ElemAt.ring (e : ElemAt) : RingAt := e.at_.ring

def RingAt.ofNum (n : Nat) : RingAt := ⟨Fin.ofNat 4 (n / 4), Fin.ofNat 4 n⟩
def StripeAt.ofKey (n : Nat) : StripeAt := ⟨RingAt.ofNum (n / 32), Fin.ofNat 32 n⟩
def ElemAt.ofKey (n : Nat) : ElemAt := ⟨StripeAt.ofKey (n / 16), Fin.ofNat 16 n⟩

/-- Where element slot `n` of the same stripe stands. -/
def ElemAt.mate (e : ElemAt) (n : Nat) : ElemAt := ⟨e.at_, Fin.ofNat 16 n⟩

namespace Machine

/-- The three outcomes of a step. -/
abbrev Result := Host.Outcome State Fault Refusal

/-! ### Tables -/

/-- The entry of a table, if listed. -/
def tabFind {α : Type} (k : Nat) : Tab α → Option α
  | [] => none
  | (j, x) :: r => if j = k then some x else tabFind k r

/-- The entry of a table, or a default. -/
def tabGet {α : Type} (d : α) (k : Nat) (t : Tab α) : α := (tabFind k t).getD d

/-- Write an entry, keeping the keys ascending. -/
def tabPut {α : Type} (k : Nat) (x : α) : Tab α → Tab α
  | [] => [(k, x)]
  | (j, y) :: r => if k < j then (k, x) :: (j, y) :: r else if j = k then (k, x) :: r else (j, y) :: tabPut k x r

def tabDel {α : Type} (k : Nat) (t : Tab α) : Tab α := t.filter fun p => p.1 ≠ k

/-- Change an entry that may not be listed. -/
def tabMod {α : Type} (d : α) (k : Nat) (f : α → α) (t : Tab α) : Tab α := tabPut k (f (tabGet d k t)) t

def tabMap {α : Type} (f : Nat → α → α) (t : Tab α) : Tab α := t.map fun p => (p.1, f p.1 p.2)

/-- The lowest number below `n` that satisfies `p`. -/
def lowest (p : Nat → Bool) (n : Nat) : Option Nat := (List.range n).find? p

/-- A list in the order of `le`, equals as they stood. -/
def insertBy {α : Type} (le : α → α → Bool) (x : α) : List α → List α
  | [] => [x]
  | y :: ys => if le x y then x :: y :: ys else y :: insertBy le x ys
def sortBy {α : Type} (le : α → α → Bool) (l : List α) : List α := l.foldr (insertBy le) []

/-! ### Bytes of memory -/

/-- A byte; an unlisted address reads as 0 (logs 6 and 8). -/
def cellGet (a : Nat) : List Host.Cell → Byte
  | [] => 0
  | (j, x) :: r => if j = a then x else cellGet a r

/-- Store a byte, keeping the canonical form: addresses strictly rising, no entry 0. -/
def cellPut (a : Nat) (b : Byte) : List Host.Cell → List Host.Cell
  | [] => if b = 0 then [] else [(a, b)]
  | (j, x) :: r =>
    if a < j then (if b = 0 then (j, x) :: r else (a, b) :: (j, x) :: r)
    else if j = a then (if b = 0 then r else (a, b) :: r)
    else (j, x) :: cellPut a b r

/-- The canonical form above an address. -/
def cellsAbove (lo : Nat) : List Host.Cell → Bool
  | [] => true
  | (j, x) :: r => decide (lo ≤ j) && decide (x ≠ 0) && cellsAbove (j + 1) r

/-- The canonical form of a memory. -/
def Memory.wf (m : List Host.Cell) : Bool := cellsAbove 0 m

def readBytes (a : Nat) : Nat → List Host.Cell → List Byte
  | 0, _ => []
  | n + 1, m => cellGet a m :: readBytes (a + 1) n m

def writeBytes (a : Nat) : List Byte → List Host.Cell → List Host.Cell
  | [], m => m
  | b :: bs, m => writeBytes (a + 1) bs (cellPut a b m)

/-- The number whose little-endian bytes are the list (00 R5). -/
def bytesNat : List Byte → Nat
  | [] => 0
  | b :: bs => b.toNat + 256 * bytesNat bs

/-- The `n` little-endian bytes of a number. -/
def natBytes : Nat → Nat → List Byte
  | 0, _ => []
  | n + 1, x => .ofNat 8 x :: natBytes n (x / 256)

/-- Words from little-endian bytes, four at a time. -/
def bytesWords : Nat → List Byte → List Word
  | 0, _ => []
  | n + 1, bs => .ofNat 32 (bytesNat (bs.take 4)) :: bytesWords n (bs.drop 4)

/-- A field of bits of a number (00 R13). -/
def bits (x hi lo : Nat) : Nat := x / 2 ^ lo % 2 ^ (hi + 1 - lo)

def bit (x i : Nat) : Bool := x / 2 ^ i % 2 == 1

/-! ### Places (01 R14-R19) -/

/-- The physical stripe of a presented one: the (n+1)-th that is not skipped (01 R14). -/
def physAux (skip0 skip1 : Option (Fin 34)) : Nat → Nat → Nat → Nat
  | 0, _, p => p
  | fuel + 1, n, p =>
    if skip0 = some (Fin.ofNat 34 p) ∨ skip1 = some (Fin.ofNat 34 p) then physAux skip0 skip1 fuel n (p + 1)
    else match n with
      | 0 => p
      | n + 1 => physAux skip0 skip1 fuel n (p + 1)

def Ring.phys (r : Ring) (n : Nat) : Nat := physAux r.skip0 r.skip1 34 n 0

def State.ring (s : State) (r : RingAt) : Ring := s.rings[r.ix]
def State.setRing (s : State) (r : RingAt) (x : Ring) : State := { s with rings := s.rings.set r.ix x }
def State.onRing (s : State) (r : RingAt) (f : Ring → Ring) : State := s.setRing r (f (s.ring r))

def State.die (s : State) (d : Fin 4) : Die := s.dies[d]
def State.setDie (s : State) (d : Fin 4) (x : Die) : State := { s with dies := s.dies.set d x }
def State.onDie (s : State) (d : Fin 4) (f : Die → Die) : State := s.setDie d (f (s.die d))

def State.stripe (s : State) (p : StripeAt) : Stripe := tabGet Stripe.empty p.key s.stripes
def State.setStripe (s : State) (p : StripeAt) (x : Stripe) : State := { s with stripes := tabPut p.key x s.stripes }
def State.onStripe (s : State) (p : StripeAt) (f : Stripe → Stripe) : State := s.setStripe p (f (s.stripe p))

/-- An element; one never touched is as at reset (INVENTORY, '## State'). -/
def State.elemDefault (e : ElemAt) : Elem := Elem.empty (.ofNat 32 (0x80000000 + e.slot.val))
def State.elem (s : State) (e : ElemAt) : Elem := tabGet (elemDefault e) e.key s.elems
def State.setElem (s : State) (e : ElemAt) (x : Elem) : State := { s with elems := tabPut e.key x s.elems }
def State.onElem (s : State) (e : ElemAt) (f : Elem → Elem) : State := s.setElem e (f (s.elem e))

/-- The elements of a ring that the state lists. -/
def State.ringElems (s : State) (r : RingAt) : List ElemAt :=
  (s.elems.map fun p => ElemAt.ofKey p.1).filter fun e => decide (e.at_.ring = r)

def State.onElems (s : State) (es : List ElemAt) (f : ElemAt → Elem → Elem) : State :=
  es.foldl (fun s e => s.setElem e (f e (s.elem e))) s

def State.onRings (s : State) (rs : List RingAt) (f : RingAt → Ring → Ring) : State := rs.foldl (fun s r => s.setRing r (f r (s.ring r))) s

/-- Every ring of the package, and those of a die. -/
def allRings : List RingAt := (List.range 16).map RingAt.ofNum
def dieRings (d : Fin 4) : List RingAt := (List.range 4).map fun n => ⟨d, Fin.ofNat 4 n⟩

/-! ### Element planes -/

def Elem.plane (e : Elem) (ical : Bool) : Plane := if ical then e.ical else e.active
def Elem.setPlane (e : Elem) (ical : Bool) (p : Plane) : Elem := if ical then { e with ical := p } else { e with active := p }
def Elem.queues (e : Elem) (ical : Bool) : Vector (List Token) 8 := if ical then e.inqI else e.inq
def Elem.queue (e : Elem) (ical : Bool) (c : Fin 8) : List Token := (e.queues ical)[c]
def Elem.setQueue (e : Elem) (ical : Bool) (c : Fin 8) (q : List Token) : Elem :=
  if ical then { e with inqI := e.inqI.set c q } else { e with inq := e.inq.set c q }
def Elem.mpart (e : Elem) (ical : Bool) : MPart := if ical then e.part else e.main
def Elem.setMpart (e : Elem) (ical : Bool) (p : MPart) : Elem := if ical then { e with part := p } else { e with main := p }

/-- The configuration of a plane. -/
def Stripe.cfg (s : Stripe) (ical : Bool) : Option Cfg := if ical then s.ical else s.active

/-- The wavefront parity of a plane (08 R278). -/
def Stripe.parity (s : Stripe) (ical : Bool) : Bool := if ical then s.parI else s.par

/-! ### The element header (02 R54) and the trigger word (02 R61) -/

abbrev Hdr := BitVec 256

def Hdr.fld (h : Hdr) (hi lo : Nat) : Nat := bits h.toNat hi lo
def Hdr.kind (h : Hdr) : Nat := Hdr.fld h 255 252
def Hdr.stateful (h : Hdr) : Bool := bit h.toNat 251
def Hdr.exits (h : Hdr) : Nat := Hdr.fld h 250 239
def Hdr.stmask (h : Hdr) : Nat := Hdr.fld h 238 231
def Hdr.agemask (h : Hdr) (s : Nat) : Bool := bit h.toNat (215 + s)
def Hdr.steerv (h : Hdr) : Bool := bit h.toNat 214
def Hdr.steer (h : Hdr) : Nat := Hdr.fld h 213 210
def Hdr.acceptByte (h : Hdr) (c : Nat) : Nat := Hdr.fld h (146 + 8 * c + 7) (146 + 8 * c)
def Hdr.accepts (h : Hdr) (c : Nat) (f : Fmt) : Bool := bit h.toNat (146 + 8 * c + f.code)
def Hdr.sfmt (h : Hdr) (s : Nat) : Nat := Hdr.fld h (82 + 4 * s + 3) (82 + 4 * s)
def Hdr.srnd (h : Hdr) (s : Nat) : Nat := Hdr.fld h (34 + 3 * s + 2) (34 + 3 * s)
def Hdr.ssat (h : Hdr) (s : Nat) : Bool := bit h.toNat (18 + s)

/-- A trigger word by its fields. -/
structure Trig where
  valid : Bool
  age : Bool
  pmask : Nat
  pval : Nat
  cha : Fin 8
  chb : Fin 8
  mode : Nat
  depth : Nat
  gate : Nat
  deriving DecidableEq, Repr

def trigOf (w : Word) : Trig :=
  let x := w.toNat
  { valid := bit x 31, age := bit x 30, pmask := bits x 29 22, pval := bits x 21 14, cha := Fin.ofNat 8 (bits x 13 11),
    chb := Fin.ofNat 8 (bits x 10 8), mode := bits x 7 6, depth := bits x 5 2, gate := bits x 1 0 }

def Plane.trig (p : Plane) (s : Fin 16) : Trig := trigOf p.tw[s]

/-- Effective AGE (02 R55). -/
def Plane.ageOn (p : Plane) (s : Fin 16) : Bool := (p.trig s).age || Hdr.agemask p.hdr s.val

/-- Count an event of an element on its ring, once in an fc (08 R310, 11 R377, 12 R407). -/
def State.countOnce (s : State) (e : ElemAt) (k : Fin 4) (f : Ring → Ring) : State :=
  if (s.elem e).counted[k] = s.fc + 1 then s
  else (s.onElem e fun x => { x with counted := x.counted.set k (s.fc + 1) }).onRing e.at_.ring f

/-! ### Launches and allocators (05 R198, 08 R294-R296, 15 R467-R469) -/

def launchKey (d : Fin 4) (entry : Nat) : Nat := d.val * 4096 + entry % 4096

def Launch.zero : Launch :=
  { state := .free, serial := 0, pasid := 0, qid := 0, pseq := 0, device := false, parent := none, graph := 0, phase := 0, prio := 0,
    rscope := 0, deps := [], parentOps := [], iridx := 0, ioff := 0, args := Lanes.zero, pages := 0, stages := 0, window := 1, dwell := 0,
    det := false, quantum := 1, nstate := 0, nativegen := 0, nseg := 1, ingress := none, segs := [], ical := false, woken := false,
    idxMap := [], triggered := false, cancelled := false, faulted := false, ended := false, reported := false,
    status := 0, owed := 0, order := 0, notes := [], grantAt := 0, granted := 0, saveAt := [], restoring := [] }

def State.launch (s : State) (l : Nat) : Launch := tabGet Launch.zero (l % 4096) (s.die (Fin.ofNat 4 (l / 4096))).launches
def State.setLaunch (s : State) (l : Nat) (x : Launch) : State :=
  s.onDie (Fin.ofNat 4 (l / 4096)) fun d => { d with launches := tabPut (l % 4096) x d.launches }
def State.onLaunch (s : State) (l : Nat) (f : Launch → Launch) : State := s.setLaunch l (f (s.launch l))

/-- The launch number of 05 R198. -/
def launchNumber (l : Nat) (x : Launch) : Nat := l / 4096 * 2 ^ 22 + x.serial % 1024 * 2 ^ 12 + l % 4096

/-- The entry that a number names, when its serial agrees: its last launch, which may have completed. -/
def State.findEntry (s : State) (n : Nat) : Option Nat :=
  let l := bits n 23 22 * 4096 + bits n 11 0
  if (tabFind (l % 4096) (s.die (Fin.ofNat 4 (l / 4096))).launches).any fun x => x.serial % 1024 == bits n 21 12 then some l else none

/-- The launch that a number names, while its entry is not FREE. -/
def State.findLaunch (s : State) (n : Nat) : Option Nat := (s.findEntry n).filter fun l => decide ((s.launch l).state ≠ .free)

/-- Every launch entry of the package. -/
def State.allLaunches (s : State) : List (Nat × Launch) :=
  (List.range 4).flatMap fun d => (s.die (Fin.ofNat 4 d)).launches.map fun p => (d * 4096 + p.1, p.2)

def Alloc.zero : Alloc := ⟨0, 0, [], 0, 0⟩

/-- 01 R27 iter_dist. -/
def iterDist (a b : BitVec 12) : Nat := (a - b).toNat

def Alloc.live (a : Alloc) (v : BitVec 12) : Bool := decide (iterDist v a.base < a.span)

/-- 08 R297: the ITER is not an allocated value. -/
def Alloc.alias_ (a : Alloc) (v : BitVec 12) : Bool := decide (a.span ≤ iterDist v a.base)

def Alloc.mark (a : Alloc) (v : BitVec 12) : IterMark := tabGet ⟨false, false, false⟩ v.toNat a.marks
def Alloc.setMark (a : Alloc) (v : BitVec 12) (m : IterMark) : Alloc :=
  { a with marks := if m = ⟨false, false, false⟩ then tabDel v.toNat a.marks else tabPut v.toNat m a.marks }

def Alloc.isSpec (a : Alloc) (v : BitVec 12) : Bool := a.live v && (a.mark v).spec
def Alloc.isKilled (a : Alloc) (v : BitVec 12) : Bool := a.live v && (a.mark v).killed
def Alloc.gone (m : IterMark) : Bool := m.retired || m.killed

/-- The value that the next allocation takes (08 R294). -/
def Alloc.next (a : Alloc) : BitVec 12 := a.base + .ofNat 12 a.span

def Alloc.allocate (a : Alloc) (spec : Bool) : Alloc :=
  setMark { a with span := a.span + 1, num := a.num + 1 } a.next ⟨false, false, spec⟩

/-- 08 R292: a retire on an iteration already retired or killed, and one on a value that is not allocated, changes no state. -/
def Alloc.retire (a : Alloc) (v : BitVec 12) : Alloc :=
  if a.live v && !gone (a.mark v) then a.setMark v { a.mark v with retired := true } else a

def Alloc.kill (a : Alloc) (v : BitVec 12) : Alloc :=
  if a.live v && !gone (a.mark v) then a.setMark v { a.mark v with killed := true } else a

def Alloc.confirm (a : Alloc) (v : BitVec 12) : Alloc := if a.live v then a.setMark v { a.mark v with spec := false } else a

/-- The allocated values in order of allocation. -/
def Alloc.values (a : Alloc) : List (BitVec 12) := (List.range a.span).map fun i => a.base + .ofNat 12 i

/-- 08 R292 confirm: an iteration allocated before `v` is still speculative. -/
def Alloc.specBefore (a : Alloc) (v : BitVec 12) : Bool :=
  (a.values.take (iterDist v a.base)).any fun w => (a.mark w).spec && !(a.mark w).killed

/-- 08 R292 squash.ahead: the speculative iterations allocated after `v`. -/
def Alloc.specAfter (a : Alloc) (v : BitVec 12) : List (BitVec 12) :=
  (a.values.drop (iterDist v a.base + 1)).filter fun w => (a.mark w).spec && !gone (a.mark w)

/-- The number of an iteration in order of allocation (03 R122). -/
def Alloc.number (a : Alloc) (v : BitVec 12) : Nat := a.num - a.span + iterDist v a.base

/-- The segment of a launch on a die (15 R467). -/
def Launch.seg (l : Launch) (d : Fin 4) : Option Seg := l.segs.find? fun g => decide (g.die = d)

def Launch.onSeg (l : Launch) (d : Fin 4) (f : Seg → Seg) : Launch :=
  { l with segs := l.segs.map fun g => if g.die = d then f g else g }

/-- The allocator of a launch's segment on a die. -/
def Launch.alloc (l : Launch) (d : Fin 4) : Alloc := ((l.seg d).map Seg.alloc).getD Alloc.zero

/-- Segment 0's allocator gives the values (15 R469). -/
def Launch.alloc0 (l : Launch) : Alloc := ((l.segs.head?).map Seg.alloc).getD Alloc.zero

def Launch.onAllocs (l : Launch) (f : Alloc → Alloc) : Launch := { l with segs := l.segs.map fun g => { g with alloc := f g.alloc } }

/-- A value that an allocation record names is allocated from then on (15 R469). -/
def Alloc.note (a : Alloc) (v : BitVec 12) (spec : Bool) : Alloc :=
  let n := max a.span (iterDist v a.base + 1)
  Alloc.setMark { a with span := n, num := a.num + (n - a.span) } v { a.mark v with spec := spec }

/-- A link takes a new flit: it is trained, and its retry buffer of 512 flits has room (15 R463, R465). -/
def Link.ready (l : Link) : Bool := l.up && !l.retrain && decide (l.retry.length < 512)

/-- Send the slots that wait, each in a flit with the next number, which goes into the retry buffer and on the wire (15 R463). -/
def Link.flush : Nat → Link → Link
  | 0, l => l
  | n + 1, l =>
    match l.queue with
    | [] => l
    | x :: q =>
      let f : Flit := ⟨l.txseq + 1, [x]⟩
      if l.ready then Link.flush n { l with txseq := l.txseq + 1, queue := q, retry := l.retry ++ [f], wire := l.wire ++ [f] } else l

/-- Send one slot over an endpoint, behind those that wait. -/
def Link.send (x : Slot) (l : Link) : Link := Link.flush (l.queue.length + 1) { l with queue := l.queue ++ [x] }

/-- The slots sent or to be sent over an endpoint that the other end has not accepted, oldest first. -/
def Link.unaccepted (l : Link) : List Slot := l.retry.flatMap Flit.slots ++ l.queue

/-- Send a slot from a die towards another die of the package: endpoint 1 faces up, endpoint 0 down (15 R463). -/
def State.sendSlot (s : State) (d t : Fin 4) (x : Slot) : State :=
  if d = t then s
  else s.onDie d fun y => { y with links := if d < t then y.links.set 1 (Link.send x y.links[1]) else y.links.set 0 (Link.send x y.links[0]) }

/-- A mark of an iteration made in a segment is sent to every other segment (15 R469). -/
def State.sendMark (s : State) (l : Nat) (d : Fin 4) (mk : Nat → Slot) : State :=
  let x := s.launch l
  x.segs.foldl (fun s g => s.sendSlot d g.die (mk (g.die.val - l / 4096))) s

/-- Allocate the next value for a firing in the segment of die `d` (08 R292, R294; 15 R469): segment 0's allocator and the segment's own
take it at once, the others by a record. A segment other than 0 spends a returned grant. -/
def Launch.allocate (x : Launch) (home d : Fin 4) (spec : Bool) : Launch :=
  let v := x.alloc0.next
  { x with
    segs := x.segs.map fun g =>
      if g.die = home then { g with alloc := g.alloc.allocate spec }
      else if g.die = d then { g with alloc := g.alloc.note v spec, grants := g.grants - 1 } else g }

/-- Grants that an allocator may still give in an fc (08 R295: 4). -/
def Launch.grantsLeft (x : Launch) (fc : Nat) : Nat := if x.grantAt = fc + 1 then 4 - x.granted else 4

/-- A grant is given. -/
def Launch.grant (x : Launch) (fc : Nat) : Launch :=
  { x with grantAt := fc + 1, granted := (if x.grantAt = fc + 1 then x.granted else 0) + 1 }

/-- The firing or port in the segment of die `d` takes the next value. One in segment 0 takes its grant from the allocator with it; those of the
other segments were given when they were sent. -/
def State.allocIter (s : State) (l : Nat) (d : Fin 4) (spec : Bool) : State :=
  let v := (s.launch l).alloc0.next
  let home : Fin 4 := Fin.ofNat 4 (l / 4096)
  State.sendMark (s.onLaunch l fun x => (if d = home then x.grant s.fc else x).allocate home d spec) l d fun k => .alloc l k v spec

def State.retireIter (s : State) (l : Nat) (d : Fin 4) (v : BitVec 12) : State :=
  State.sendMark (s.onLaunch l fun x => x.onSeg d fun g => { g with alloc := g.alloc.retire v }) l d fun k => .retire l k v

def State.killIter (s : State) (l : Nat) (d : Fin 4) (v : BitVec 12) : State :=
  State.sendMark (s.onLaunch l fun x => x.onSeg d fun g => { g with alloc := g.alloc.kill v }) l d fun k => .kill l k v

/-- The PASID of the job that holds a CTX on a ring (05 R180). -/
def Ring.job (r : Ring) (c : BitVec 6) : BitVec 20 := tabGet 0 c.toNat r.ctxs

/-- The CTX that a job holds on a ring. -/
def Ring.ctxOf (r : Ring) (pasid : BitVec 20) : Option (BitVec 6) :=
  (r.ctxs.find? fun p => decide (p.2 = pasid)).map fun p => .ofNat 6 p.1

/-! ### Faults (01 R39-R44) -/

/-- A fault as its engine sees it: its code, its engine class, its DISP and its auxiliary word. -/
structure Flt where
  code : Nat
  engine : Nat
  disp : Nat
  aux : Nat
  deriving DecidableEq, Repr

/-- 01 R41: of several conditions, the lowest code. -/
def lowestFlt : List Flt → Option Flt
  | [] => none
  | f :: fs =>
    match lowestFlt fs with
    | some g => if g.code < f.code then some g else some f
    | none => some f

/-- The place fields of a record at an element of a plane: with its slot when a firing faults, without when none does. -/
def State.place (s : State) (e : ElemAt) (ical : Bool) (slot : Option (Fin 16)) : FRec :=
  let st := s.stripe e.at_
  { FRec.zero with
    vstage := ((st.cfg ical).map Cfg.stage).getD 0, plane := if ical then 1 else 0, die := .ofNat 2 e.at_.ring.die.val,
    ring := .ofNat 2 e.at_.ring.ring.val, pstripe := .ofNat 6 ((s.ring e.at_.ring).phys e.at_.stripe.val),
    elem := if slot.isSome then .ofNat 4 e.slot.val else 0, islot := ((slot.map fun i => BitVec.ofNat 4 i.val)).getD 0,
    locValid := true, slotValid := slot.isSome }

/-- Add the tags of the faulting firing or token. -/
def FRec.tags (r : FRec) (pasid : BitVec 20) (ctx : BitVec 6) (iter : Option (BitVec 12)) : FRec :=
  { r with ctx := ctx, ctxValid := true, pasid := pasid, iter := iter.getD 0, iterValid := iter.isSome }

/-- The queue and packet to which a launch's records go (04 R152): those of its nearest ancestor that a packet submitted, which the
launch carries. -/
def State.launchQueue (s : State) (l : Nat) : Option (BitVec 20 × BitVec 16) :=
  if (s.launch l).state = .free then none else some ((s.launch l).qid, (s.launch l).pseq)

/-- The record sequence wraps from 0xFFFF_FFFF to 1 (01 R40). -/
def nextSeq (n : Word) : Word := if n = 0xFFFFFFFF then 1 else n + 1

/-- 01 R41: the place of a record among those of its fc, by ring, physical stripe, element slot and instruction slot. -/
def FRec.place (r : FRec) : Nat := r.ring.toNat * 2 ^ 14 + r.pstripe.toNat * 2 ^ 8 + r.elem.toNat * 2 ^ 4 + r.islot.toNat

/-- Give records their sequence numbers in order. -/
def numberFrom : Word → List FbEntry → List FbEntry
  | _, [] => []
  | n, e :: es => { e with rec_ := { e.rec_ with seq := n } } :: numberFrom (nextSeq n) es

/-- A record joins those of its die that wait, numbered in the order of 01 R41 among those of the same fc. -/
def Die.addFault (e : FbEntry) (x : Die) : Die :=
  let now (f : FbEntry) : Bool := f.rec_.time == e.rec_.time
  let group := x.faultWait.filter now
  let first := (group.head?.map fun f => f.rec_.seq).getD (nextSeq x.faultSeq)
  { x with
    faultSeq := nextSeq x.faultSeq,
    faultWait := x.faultWait.filter (fun f => !now f) ++
      numberFrom first (insertBy (fun a b => decide (a.rec_.place < b.rec_.place)) e group) }

/-- A completion record before its CSEQ is known (04 R150): KIND, TYPE, STATUS, the packet, VALUE, the queue and its job, and the fault. -/
def completionRec (kind type status seq value qid pasid fault : Nat) : Vector Dword 8 :=
  #v[.ofNat 64 (seq % 65536 * 2 ^ 32 + type % 256 * 2 ^ 24 + kind % 256 * 2 ^ 16 + status % 65536), .ofNat 64 value,
     .ofNat 64 (qid % 2 ^ 20 + pasid % 2 ^ 20 * 2 ^ 20), 0, .ofNat 64 fault, .ofNat 64 (fault / 2 ^ 64), .ofNat 64 (fault / 2 ^ 128),
     .ofNat 64 (fault / 2 ^ 192)]

/-- A fault terminates its job (01 R39, R43; 04 R152; 05 R204): its queues are stopped and its launches are marked to be removed. -/
def Die.stopJob (pasid : BitVec 20) (d : Die) : Die :=
  { d with
    latch := tabMap (fun i l => if ((tabFind i d.queues).map Queue.pasid) = some pasid then { l with stop := true } else l) d.latch,
    launches := tabMap (fun _ l => if l.pasid = pasid ∧ l.state ≠ .free ∧ l.state ≠ .done then { l with faulted := true, status := 3 } else l)
      d.launches }

def State.terminateJob (s : State) (pasid : BitVec 20) : State :=
  { s with
    dies := s.dies.map (Die.stopJob pasid),
    jobs := tabMap (fun k j => if k = pasid.toNat then { j with terminated := true } else j) s.jobs }

/-- Take a fault on a die (01 R39-R43, 04 R152): the record takes the fc and the next sequence number and waits in its engine, its ring
holds, and DISP 1 terminates the job. `page` is the virtual page of a resumable fault plus one, or 0; `r.pasid` is the job to terminate,
which the record names when CTX_VALID is 1. -/
def State.takeFault (s : State) (d : Fin 4) (ring : Option (Fin 4)) (queue : Option (BitVec 20 × BitVec 16)) (page : Nat) (f : Flt)
    (r : FRec) : State :=
  let rec_ : FRec := { r with pasid := if r.ctxValid then r.pasid else 0, time := .ofNat 64 s.fc, aux := .ofNat 64 f.aux,
                              disp := .ofNat 2 f.disp, code := .ofNat 8 f.code, engine := .ofNat 4 f.engine }
  let s := s.onDie d (Die.addFault ⟨rec_, queue, queue.isSome, true⟩)
  let s := match ring with
    | some k => if r.ctxValid ∧ f.disp ≠ 2 then s.onRing ⟨d, k⟩ fun x => { x with fholds := x.fholds ++ [⟨r.ctx, page⟩] } else s
    | none => s
  if f.disp = 1 then s.terminateJob r.pasid else s

/-- Take a fault of a firing, or of a token at an element (01 R43, 08 R311). With no slot, AUX names the element and the channel. -/
def State.elemFault (s : State) (e : ElemAt) (ical : Bool) (slot : Option (Fin 16)) (chan : Nat) (ctx : BitVec 6) (iter : BitVec 12)
    (f : Flt) : State :=
  let f := if slot.isSome then f else { f with aux := f.aux + e.slot.val * 2 ^ 32 + chan * 2 ^ 36 }
  let l := ((s.stripe e.at_).cfg ical).map Cfg.launch
  s.takeFault e.at_.ring.die (some e.at_.ring.ring) (l.bind s.launchQueue) 0 f
    ((s.place e ical slot).tags ((s.ring e.at_.ring).job ctx) ctx (some iter))

/-- Take a fault at an element with its own auxiliary word, whether or not a slot stands in the record. -/
def State.siteFault (s : State) (e : ElemAt) (ical : Bool) (slot : Option (Fin 16)) (ctx : BitVec 6) (iter : Option (BitVec 12)) (f : Flt) : State :=
  let l := ((s.stripe e.at_).cfg ical).map Cfg.launch
  s.takeFault e.at_.ring.die (some e.at_.ring.ring) (l.bind s.launchQueue) 0 f ((s.place e ical slot).tags ((s.ring e.at_.ring).job ctx) ctx iter)

/-- 08 R274: the engine class of an element's own faults. -/
def elemClass (e : ElemAt) : Nat := if e.slot.val < 14 then 0 else 3

/-- A ring hold stops the elements of its context (01 R39). -/
def Ring.holds (r : Ring) (c : BitVec 6) : Bool := r.fholds.any fun h => h.ctx == c

/-! ### The trap of a hart (04 R132, R78) -/

def State.hart (s : State) (d : Fin 4) (h : Fin 64) : Hart := (s.die d).harts[h]
def State.setHart (s : State) (d : Fin 4) (h : Fin 64) (x : Hart) : State := s.onDie d fun y => { y with harts := y.harts.set h x }
def State.onHart (s : State) (d : Fin 4) (h : Fin 64) (f : Hart → Hart) : State := s.setHart d h (f (s.hart d h))

/-- x0 reads zero and discards writes (RISC-V; log 11). -/
def Hart.reg (h : Hart) (r : BitVec 5) : Dword := if r = 0 then 0 else h.x[r.toNat]'(by omega)
def Hart.setReg (h : Hart) (r : BitVec 5) (v : Dword) : Hart := if r = 0 then h else { h with x := h.x.set r.toNat v (by omega) }

/-- Disarm a vigil timer (04 R168). -/
def Hart.disarm (h : Hart) : Hart := { h with vigilArmed := false, vigilExpired := false }

/-- Take a synchronous exception in machine mode (log 11): the pc to mepc, the cause to mcause, mtval written, MIE to MPIE, MIE clear,
MPP 3, and the pc to the base of mtvec. -/
def Hart.trap (h : Hart) (cause : Nat) (tval : Dword) : Hart :=
  let m := h.mstatus.toNat
  let keep := m - bits m 3 3 * 8 - bits m 7 7 * 128 - bits m 12 11 * 2048
  { h with
    mepc := h.pc, mcause := .ofNat 64 cause, mtval := tval, mstatus := .ofNat 64 (keep + bits m 3 3 * 128 + 3 * 2048),
    pc := .ofNat 64 (h.mtvec.toNat / 4 * 4), block := .running }

/-- The return from it (MRET of the privileged base): the pc from mepc, MIE from MPIE, MPIE set, MPP 3 (log 11). -/
def Hart.trapReturn (h : Hart) : Hart :=
  let m := h.mstatus.toNat
  let keep := m - bits m 3 3 * 8 - bits m 7 7 * 128 - bits m 12 11 * 2048
  { h with mstatus := .ofNat 64 (keep + bits m 7 7 * 8 + 128 + 3 * 2048), pc := h.mepc }

end Machine

end Sys2Proof
end

