-- ==== Sys2Proof/Machine/Operands.lean ====
section
/-! DEFINITION. Every operand form of a V- or J-element firing: the tokens its trigger guards, its tags, its sources, its operating format
and the format check (02 R57-R60, 08 R283, R287, 09 R314, R315). -/

namespace Sys2Proof.Machine

/-- A firing as its instruction sees it. `heads` are the tokens that the trigger guards: CHA's and, for a pair, CHB's. -/
structure Firing where
  el : ElemAt
  ical : Bool
  slot : Fin 16
  pl : Plane
  launch : Nat
  stage : BitVec 16
  heads : Option (Token × Option Token)
  ctx : BitVec 6
  iter : BitVec 12
  alloc : Alloc
  phys : Nat
  par : Bool
  deriving DecidableEq, Repr

/-- The oldest ready pair of two channels (08 R282). -/
def Elem.pair (e : Elem) (ical : Bool) (a b : Fin 8) : Option Pair :=
  e.ready.find? fun p => p.ical == ical && p.cha == a && p.chb == b

/-- The head of a queue, when it is not a KILL token (08 R280, R287). -/
def headToken : List Token → Option Token
  | [] => none
  | t :: _ => if t.kill then none else some t

/-- The guarded tokens (08 R282, R283): none under MATCH 0, the matched head of CHA under MATCH 1, the oldest pair under MATCH 2 and 3. -/
def Elem.heads (e : Elem) (ical : Bool) (t : Trig) : Option (Token × Option Token) :=
  if t.mode = 0 then none
  else if t.mode = 1 then (headToken (e.queue ical t.cha)).map fun x => (x, none)
  else (e.pair ical t.cha t.chb).map fun p => (p.a, some p.b)

def Cfg.zero : Cfg := ⟨0, 0, 0, 0, 0, 0, 0, 0, [], 0, 0, 0⟩

def Stripe.conf (s : Stripe) (ical : Bool) : Cfg := (s.cfg ical).getD Cfg.zero

/-- The firing of slot `i` of a plane. Its CTX and ITER are those of its CHA token; a MATCH 0 slot has no token and takes the plane's CTX
and its allocator's base (log 10). -/
def State.firingAt (s : State) (e : ElemAt) (ical : Bool) (i : Fin 16) : Firing :=
  let st := s.stripe e.at_
  let c := st.conf ical
  let el := s.elem e
  let pl := el.plane ical
  let h := el.heads ical (pl.trig i)
  let a := (s.launch c.launch).alloc e.at_.ring.die
  { el := e, ical := ical, slot := i, pl := pl, launch := c.launch, stage := c.stage, heads := h,
    ctx := (h.map fun p => p.1.ctx).getD c.ctx, iter := (h.map fun p => p.1.iter).getD a.base, alloc := a,
    phys := (s.ring e.at_.ring).phys e.at_.stripe.val, par := st.parity ical }

/-- The firing that the focus names. -/
def State.firing (s : State) : Firing := s.firingAt s.focus.elem s.focus.ical s.focus.islot

/-- The guarded token on a channel. -/
def Firing.chan (x : Firing) (c : Nat) : Option Token :=
  let t := x.pl.trig x.slot
  match x.heads with
  | none => none
  | some p => if c = t.cha.val then some p.1 else if c = t.chb.val then p.2 else none

def Firing.sfmt (x : Firing) : Nat := Hdr.sfmt x.pl.hdr x.slot.val
def Firing.srnd (x : Firing) : Nat := Hdr.srnd x.pl.hdr x.slot.val
def Firing.ssat (x : Firing) : Bool := Hdr.ssat x.pl.hdr x.slot.val

/-- 01 R19: bits 15:14 die, 13:12 ring, 11:6 physical stripe, 3:0 slot. -/
def Firing.identity (x : Firing) : Nat :=
  x.el.at_.ring.die.val * 2 ^ 14 + x.el.at_.ring.ring.val * 2 ^ 12 + x.phys * 2 ^ 6 + x.el.slot.val

/-- 02 R60: the FMT of a literal. -/
def litFmt (sfmt : Nat) : Fmt := if sfmt ≤ 3 then Fmt.ofCode sfmt else .i32

/-- A source select (02 R57, R58, R60; 01 R19). -/
def Firing.src (x : Firing) (sel : BitVec 5) : Reg :=
  let n := sel.toNat
  if n < 8 then x.pl.d[n % 8]'(Nat.mod_lt _ (by decide))
  else if n < 16 then ((x.chan (n - 8)).map Token.body).getD Reg.zero
  else if n < 24 then splat (litFmt x.sfmt) (x.pl.k[n % 8]'(Nat.mod_lt _ (by decide)))
  else if n = 25 then splat .i32 (x.iter.setWidth 32)
  else if n = 26 then splat .i32 (x.ctx.setWidth 32)
  else if n = 27 then splat .i32 (.ofNat 32 x.identity)
  else if n = 28 then splat .i32 (x.stage.setWidth 32)
  else Reg.zero

/-- The operating format (09 R314), for an instruction whose A is `a`. -/
def Firing.opFmt (x : Firing) (a : Reg) : Fmt := if x.sfmt ≤ 7 then Fmt.ofCode x.sfmt else a.fmt

/-- The accumulator that DSTA names (09 R314). -/
def Firing.acc (x : Firing) (d : BitVec 5) : Reg := if d.toNat < 8 then x.pl.d[d.toNat % 8]'(Nat.mod_lt _ (by decide)) else Reg.zero

/-- The operands of the pure functions of Vector and Quant. -/
def Firing.opIn (x : Firing) (a b : BitVec 5) (d : BitVec 5) : OpIn :=
  let ra := x.src a
  ⟨ra, x.src b, x.acc d, x.opFmt ra, x.srnd, x.ssat, x.pl.lfsr⟩

/-! ### Format sets (02 R66) and the check of 09 R315 -/

abbrev FmtSet := Fmt → Bool

def setAll : FmtSet := fun _ => true
def setI : FmtSet := fun f => f == .i32
def setF : FmtSet := Fmt.floating
def setW : FmtSet := fun f => f == .i32 || f.floating
def setN : FmtSet := Fmt.scaled

/-- EL_FORMAT (08 R311): bits 15:8 the source select, bits 7:0 the FMT found. -/
def elFormat (e : ElemAt) (sel : BitVec 5) (f : Fmt) : Flt := ⟨0x00, elemClass e, 1, sel.toNat * 256 + f.code⟩

/-- An element operand from a data register or a channel must carry FMT `f`. -/
def Firing.elemOperand (x : Firing) (f : Fmt) (sel : BitVec 5) : List Flt :=
  if sel.toNat < 16 ∧ (x.src sel).fmt ≠ f then [elFormat x.el sel (x.src sel).fmt] else []

/-- The operating format against the instruction's set, with A's select for AUX. -/
def Firing.inSet (x : Firing) (set : FmtSet) (a : BitVec 5) : List Flt :=
  let f := x.opFmt (x.src a)
  if set f then [] else [elFormat x.el a f]

/-- Whether a source select is a channel, and its token's EOS (08 R291). -/
def Firing.srcEos (x : Firing) (sel : BitVec 5) : Bool :=
  decide (8 ≤ sel.toNat) && decide (sel.toNat < 16) && ((x.chan (sel.toNat - 8)).map Token.eos).getD false

end Sys2Proof.Machine
end

