-- ==== Sys2Proof/Machine/SclFile.lean ====
section
/-! DEFINITION. The scale file of a ring (07 R247, R254-R258): entries, uses, allocation, codebooks and waits. -/

namespace Sys2Proof.Machine

/-! ### Entries -/

def Scl.entry (c : Scl) (n : Nat) : SclEntry := tabGet SclEntry.zero n c.entries

/-- The head of the free list: the entries never allocated, ascending, then those freed, oldest first (07 R255). -/
def Scl.head (c : Scl) : Option Nat := if c.fresh < 2048 then some c.fresh else c.freed.head?

def Scl.free (c : Scl) : Nat := (2048 - c.fresh) + c.freed.length

/-- Entries a context holds. -/
def Scl.held (c : Scl) (ctx : BitVec 6) : Nat := (c.entries.filter fun p => p.2.bound && p.2.ctx == ctx).length

/-- 07 R255, R272: values of SCL_CTXMAX above 2,048 act as 2,048. -/
def Scl.canAlloc (c : Scl) (ctx : BitVec 6) : Bool := c.head.isSome && decide (c.held ctx < min c.ctxmax.toNat 2048)

/-- Allocate the head entry with the fields of `e` but its BOUND and GEN (07 R255): the index, the generation and the new file. -/
def Scl.alloc (c : Scl) (e : SclEntry) : Nat × BitVec 5 × Scl :=
  let n := c.head.getD 0
  let g := (c.entry n).gen + 1
  (n, g,
    { c with
      entries := tabPut n { e with bound := true, gen := g } c.entries,
      fresh := if c.fresh < 2048 then c.fresh + 1 else c.fresh, freed := if c.fresh < 2048 then c.freed else c.freed.drop 1,
      allocs := c.allocs + 1 })

/-- Free an entry: it joins the tail of the free list (07 R255); `leak` counts one with a nonzero REFCNT (07 R258). -/
def Scl.release (c : Scl) (n : Nat) (leak : Bool) : Scl :=
  let e := c.entry n
  if e.bound then
    { c with
      entries := tabPut n { e with bound := false, refcnt := 0 } c.entries, freed := c.freed ++ [n],
      leaked := if leak ∧ e.refcnt ≠ 0 then c.leaked + 1 else c.leaked }
  else c

/-- Take one use of a bound entry; at zero it is freed (07 R257). -/
def Scl.use (c : Scl) (n : Nat) : Scl :=
  let e := c.entry n
  if e.bound then
    (if e.refcnt.toNat ≤ 1 then c.release n false else { c with entries := tabPut n { e with refcnt := e.refcnt - 1 } c.entries })
  else c

/-- Add one use of a bound entry (07 R257, 09 R319). -/
def Scl.addUse (c : Scl) (n : Nat) : Scl :=
  let e := c.entry n
  if e.bound then { c with entries := tabPut n { e with refcnt := e.refcnt + 1 } c.entries } else c

/-- Release every bound entry that satisfies `p`, whatever its REFCNT (07 R258). -/
def Scl.releaseAll (c : Scl) (p : SclEntry → Bool) : Scl :=
  ((c.entries.filter fun x => x.2.bound && p x.2).map Prod.fst).foldl (fun c n => c.release n true) c

/-! ### Codebooks (07 R247) -/

def zeroBook : List (BitVec 16) := List.replicate 16 0

/-- The values of a codebook; a free one reads zero throughout. -/
def Scl.book (c : Scl) (n : BitVec 6) : List (BitVec 16) := ((tabFind n.toNat c.books).map Prod.snd).getD zeroBook

def Scl.bookNats (c : Scl) (n : BitVec 6) : List Nat := (c.book n).map BitVec.toNat

/-- Faults of a scale engine's act, at the engine class 1 (07 R273). -/
def sclFlt (code aux : Nat) : Flt := ⟨code, 1, 1, aux⟩

/-- A use of a codebook by a context other than SLDCB: SCL_CB_OWNER, SCL_CB_EMPTY. -/
def Scl.bookUse (c : Scl) (ctx : BitVec 6) (n : BitVec 6) : List Flt :=
  match tabFind n.toNat c.books with
  | none => [sclFlt 0x24 n.toNat]
  | some p => if p.1 = ctx then [] else [sclFlt 0x23 (p.1.toNat * 2 ^ 8 + n.toNat)]

/-- 07 R256: the check of a scale read of a token body in a context, and for a C4 binding the use of its codebook (07 R247). -/
def Scl.read (c : Scl) (ctx : BitVec 6) (r : Reg) : List Flt :=
  let e := c.entry r.bind.toNat
  if e.bound = false ∨ e.gen ≠ r.bgen ∨ e.ctx ≠ ctx then
    [sclFlt 0x20 (r.bind.toNat * 2 ^ 16 + r.bgen.toNat * 2 ^ 11 + e.gen.toNat * 2 ^ 6 + e.bound.toNat * 2 ^ 5)]
  else if e.fmt ≠ r.fmt then [sclFlt 0x21 (r.fmt.code * 2 ^ 4 + e.fmt.code)]
  else if e.fmt = .c4 then c.bookUse ctx e.cbook
  else []

def State.scl (s : State) (e : ElemAt) : Scl := (s.ring e.at_.ring).scl
def State.onScl (s : State) (e : ElemAt) (f : Scl → Scl) : State := s.onRing e.at_.ring fun r => { r with scl := f r.scl }

/-- Scale bytes in use as numbers. -/
def SclEntry.bytes (e : SclEntry) : List Nat := e.scale.map BitVec.toNat

def scaleBytes (xs : List Nat) : List Byte := xs.map (BitVec.ofNat 8)

/-- The same allocation waits. -/
def SclWait.same (v w : SclWait) : Bool := v.elem == w.elem && v.ical == w.ical && v.who == w.who

/-- A wait of an allocating firing or stream, or its end. A new firing of a slot begins a new wait. -/
def Scl.waitOn (c : Scl) (w : SclWait) : Scl :=
  if c.waits.any fun v => v.same w && v.ctx == w.ctx && v.launch == w.launch && v.iter == w.iter then c
  else { c with waits := c.waits.filter (fun v => !v.same w) ++ [w] }

def Scl.waitOff (c : Scl) (e : Nat) (ical : Bool) (who : SclUser) : Scl :=
  { c with waits := c.waits.filter fun v => !(v.elem == e && v.ical == ical && v.who == who) }

end Sys2Proof.Machine
end

