-- ==== Sys2Proof/Machine/Tokens.lean ====
section
/-! DEFINITION. Routes and the movement of tokens: TOKEN_ARRIVAL, STEER_DELIVERY, KILL_ABSORB and MATCH_STEP (02 R49-R51, 05 R177, 08 R278-R282,
R297, R302-R305, 15 R463, R464, R468). -/

namespace Sys2Proof.Machine

/-! ### Routes (02 R49-R51) -/

/-- Route table entry of output channel `c` of an element slot. -/
def routeIndex (slot c : Nat) : Nat := if slot < 10 then 8 * slot + c else if slot < 14 then 96 + 4 * (slot - 10) + c else 8 * (slot - 4) + c

def Cfg.route (g : Cfg) (n : Nat) : Nat := (g.routes.getD n 0).toNat
def routeKind (r : Nat) : Nat := bits r 11 10
def routeSlot (r : Nat) : Nat := bits r 9 6
def routeChan (r : Nat) : Nat := bits r 5 3

/-- Where a hop ends: an input channel of an element, a pass register, or another segment of a chained launch (target as in Slot). -/
inductive Target where
  | elem (e : ElemAt) (c : Fin 8)
  | pass (p : StripeAt) (n : Fin 16)
  | chain (launch seg : Nat) (target : Nat)
  | nowhere
  deriving DecidableEq, Repr

/-- Stripe `i` of a region (05 R176). -/
def regionStripe (r : RingAt) (page : Fin 8) (i : Nat) : StripeAt := ⟨r, Fin.ofNat 32 (4 * page.val + i)⟩

/-- The index of a presented stripe in a region. -/
def Region.indexOf (g : Region) (n : Nat) : Nat := (n + 32 - 4 * g.page.val) % 32

def Region.stripes (g : Region) : Nat := 4 * g.pages

/-- The region that holds a presented stripe. -/
def Ring.regionOf (r : Ring) (n : Nat) : Option Region := r.regions.find? fun g => decide (g.indexOf n < g.stripes)

/-- Whether a stripe is the last of its region, and its launch is chained. -/
def State.crossing (s : State) (p : StripeAt) (ical : Bool) : Bool :=
  !ical && ((s.ring p.ring).regionOf p.stripe.val).any (fun g => g.indexOf p.stripe.val + 1 == g.stripes)

/-- The stripe after `p` for a KIND 2 route or a pass register: the region closes into a loop (05 R177); intercalary stages stand in
presented stripes 0 to L - 1 (05 R209). -/
def State.nextStripe (s : State) (p : StripeAt) (ical : Bool) : StripeAt :=
  match (s.ring p.ring).regionOf p.stripe.val with
  | some g => if !ical && g.indexOf p.stripe.val + 1 == g.stripes then regionStripe p.ring g.page 0 else ⟨p.ring, p.stripe + 1⟩
  | none => ⟨p.ring, p.stripe + 1⟩

/-- The target of a route entry of stripe `p`. KIND 3 stays in the stripe for an element and goes on to the next for a pass register. -/
def State.targetOf (s : State) (p : StripeAt) (ical fromPass : Bool) (r : Nat) : Target :=
  let g := (s.stripe p).conf ical
  let l := s.launch g.launch
  let k := p.ring.die.val - g.launch / 4096
  let far := (routeKind r == 2 || (fromPass && routeKind r == 3)) && s.crossing p ical && decide (1 < l.segs.length)
  let code := if routeKind r = 3 then 128 + routeSlot r else 8 * routeSlot r + routeChan r
  if routeKind r = 0 then .nowhere
  else if far then .chain g.launch ((k + 1) % l.segs.length) code
  else if routeKind r = 1 then .elem ⟨p, Fin.ofNat 16 (routeSlot r)⟩ (Fin.ofNat 8 (routeChan r))
  else if routeKind r = 2 then .elem ⟨s.nextStripe p ical, Fin.ofNat 16 (routeSlot r)⟩ (Fin.ofNat 8 (routeChan r))
  else .pass (if fromPass then s.nextStripe p ical else p) (Fin.ofNat 16 (routeSlot r))

def State.hopTarget (s : State) (h : Hop) (ical : Bool) : Target :=
  match h with
  | .out c => s.targetOf c.el.at_ ical false (((s.stripe c.el.at_).conf ical).route (routeIndex c.el.slot.val c.chan.val))
  | .pass p n => s.targetOf p ical true (((s.stripe p).conf ical).route (112 + n.val))

/-! ### Queues and credits (08 R279, R302, R305) -/

/-- Entries of an input queue that a plane may use. -/
def queueCap (reserve ical : Bool) : Nat := if ical then 2 else if reserve then 6 else 8

/-- Entries of a channel that are taken: a row in the array of an M-element keeps its entry of in0 until it commits (11 R363). -/
def Elem.entriesOf (x : Elem) (ical : Bool) (c : Fin 8) : Nat := (x.queue ical c).length + if c = 0 then (x.mpart ical).array.length else 0

/-- Entries of a channel that are free. -/
def State.queueFree (s : State) (e : ElemAt) (ical : Bool) (c : Fin 8) : Nat :=
  queueCap (s.ring e.at_.ring).icalValid ical - (s.elem e).entriesOf ical c

/-- A token of 01 R24 with KILL set: VLEN 0, zero payload, no binding. -/
def Token.asKill (t : Token) : Token :=
  { t with body := { t.body with lanes := Lanes.zero, vlen := 0, bind := 0, bgen := 0 }, kill := true }

/-- What the drop of a token of a killed iteration leaves (08 R279 case 2): an EOS|KILL token when it ended a cohort and its iteration was
not speculative. -/
def dropped (a : Alloc) (t : Token) : List Token := if t.eos && !a.isSpec t.iter then [{ t.asKill with spec := false }] else []

def State.enqueue (s : State) (e : ElemAt) (ical : Bool) (c : Fin 8) (t : Token) : State :=
  s.onElem e fun x => x.setQueue ical c (x.queue ical c ++ [t])

/-- EL_STEER_REJECT and EL_TAG_ALIAS (08 R311). -/
def fltSteer (e : ElemAt) (t : Token) : Flt := ⟨0x01, elemClass e, 1, t.body.fmt.code * 2 ^ 8⟩
def fltAlias (e : ElemAt) (v : BitVec 12) (a : Alloc) : Flt := ⟨0x03, elemClass e, 1, v.toNat * 2 ^ 16 + a.base.toNat⟩

/-- 08 R279, R297: a token arrives at channel `c`. `ext` marks one from ingress, a reply or a chain link, `steered` one that was steered.
None when the queue has no credit. -/
def State.arrive (s : State) (e : ElemAt) (ical : Bool) (c : Fin 8) (t : Token) (ext steered : Bool) : Option State :=
  let g := (s.stripe e.at_).conf ical
  let a := (s.launch g.launch).alloc e.at_.ring.die
  let h := ((s.elem e).plane ical).hdr
  if s.queueFree e ical c = 0 then none
  else if t.kill then some (s.enqueue e ical c t)
  else if ext && a.alias_ t.iter then some (s.elemFault e ical none c.val t.ctx t.iter (fltAlias e t.iter a))
  else if a.isKilled t.iter then
    let s := s.onRing e.at_.ring fun r => { r with elKilldrop := r.elKilldrop + 1 }
    some ((dropped a t).foldl (fun s t => s.enqueue e ical c t) s)
  else if Hdr.accepts h c.val t.body.fmt then some (s.enqueue e ical c t)
  else if steered then some (s.elemFault e ical none c.val t.ctx t.iter (fltSteer e t))
  else some ((s.onElem e fun x => { x with steer := x.steer ++ [⟨ical, c, t⟩] }).onRing e.at_.ring fun r => { r with elSteered := r.elSteered + 1 })

/-- 08 R278: whether the target admits a token: its plane holds a configuration, and the parity is the expected one. The hop from the last
stripe in wave order to region stripe 0 expects the opposite parity. -/
def State.admits (s : State) (p : StripeAt) (ical wrap : Bool) (par : Bool) : Bool :=
  ((s.stripe p).cfg ical).isSome && (par == ((s.stripe p).parity ical != wrap))

/-- A token ends a cohort at its channel: EOS, but for one of EOS, KILL and SPEC, which ends nothing (01 R24). -/
def Token.ends (t : Token) : Bool := t.eos && !(t.kill && t.spec)

/-- Tokens that EOS has reached, for D1 (05 R188): channels as 8 x slot + channel, pass registers as 128 + n. -/
def State.seeEos (s : State) (p : StripeAt) (ical : Bool) (n : Nat) (t : Token) : State :=
  let add (q : List Nat) : List Nat := if q.contains n then q else q ++ [n]
  if t.ends then s.onStripe p fun x => if ical then { x with eosSeenI := add x.eosSeenI } else { x with eosSeen := add x.eosSeen } else s

/-- Deliver a token that stands in a link to its target in a stripe; none when it waits there. A token from a chain link is checked at a pass register
too, in the name of element 0 (08 R297, 15 R469; log 61). -/
def State.land (s : State) (tg : Target) (ical wrap ext : Bool) (t : LinkTok) : Option State :=
  match tg with
  | .elem e c =>
    if s.admits e.at_ ical wrap t.par then
      (s.arrive e ical c t.tok ext false).map fun s => s.seeEos e.at_ ical (8 * e.slot.val + c.val) t.tok
    else none
  | .pass p n =>
    let a := (s.launch ((s.stripe p).conf ical).launch).alloc p.ring.die
    if s.admits p ical wrap t.par && (s.stripe p).pass[n].isEmpty then
      if ext && !t.tok.kill && a.alias_ t.tok.iter then some (s.elemFault ⟨p, 0⟩ ical none 0 t.tok.ctx t.tok.iter (fltAlias ⟨p, 0⟩ t.tok.iter a))
      else some (State.seeEos (s.onStripe p fun x => { x with pass := x.pass.set n [{ t with par := x.parity ical }] }) p ical (128 + n.val) t.tok)
    else none
  | _ => none

/-! ### Chained hops (15 R463, R464, R468, R470) -/

/-- The key of a segment's buffers. -/
def segKey (launch seg : Nat) : Nat := 4 * launch + seg

/-- The ring and first page of a segment. -/
def State.segPlace (s : State) (launch seg : Nat) : Option Seg := (s.launch launch).segs[seg]?

/-- The endpoint of a die that faces segment `to` of a launch, from die `d`: up except from the last segment back to segment 0. -/
def endpointTo (d t : Fin 4) : Fin 2 := if d < t then 1 else 0

def Die.link (x : Die) (n : Fin 2) : Link := x.links[n]
def State.onLink (s : State) (d : Fin 4) (n : Fin 2) (f : Link → Link) : State := s.onDie d fun x => { x with links := x.links.set n (f (x.link n)) }

/-- The target of a slot code in a segment's region stripe 0. -/
def segTarget (g : Seg) (code : Nat) : Target :=
  let p := regionStripe ⟨g.die, g.ring⟩ g.page 0
  if code < 128 then .elem ⟨p, Fin.ofNat 16 (code / 8)⟩ (Fin.ofNat 8 code) else .pass p (Fin.ofNat 16 code)

/-- A crossing token under the binding that its scale record takes on the receiving ring (07 R255, 15 R470): the token and the scale file,
or none while no entry is free. -/
def rebind (c : Scl) (launch : Nat) (ctx : BitVec 6) (p : RxTok) : Option (LinkTok × Scl) :=
  match p.scale with
  | none => some (p.tok, c)
  | some e =>
    if c.canAlloc ctx then
      let r := c.alloc { e with ctx := ctx, refcnt := 1, olaunch := .ofNat 12 launch }
      some ({ p.tok with tok := { p.tok.tok with body := { p.tok.tok.body with bind := .ofNat 11 r.1, bgen := r.2.1 } } }, r.2.2)
    else none

/-- Move the oldest token of a segment's receive buffer that goes to `code` into its target, unless the segment's region is a frozen victim
(08 R307), and return its slot to the sender by a count record (15 R464). A token whose binding finds no free entry waits (07 R255). -/
def State.drainRx (s : State) (launch seg code : Nat) : Option State :=
  match s.segPlace launch seg, s.segPlace launch ((seg + (s.launch launch).segs.length - 1) % (s.launch launch).segs.length) with
  | some g, some from_ =>
    let n := endpointTo g.die from_.die
    let r : RingAt := ⟨g.die, g.ring⟩
    let buf := tabGet [] (segKey launch seg) ((s.die g.die).link n).rx
    let el := if code < 128 then code / 8 else 0
    let w : SclWait := ⟨g.ctx, launch, 0, s.fc, ElemAt.key ⟨regionStripe r g.page 0, Fin.ofNat 16 el⟩, false, .link code⟩
    match if (s.ring r).occupied then none else buf.find? fun p => p.target == code with
    | none => none
    | some p =>
      match rebind (s.ring r).scl launch g.ctx p with
      | none => some (s.onRing r fun x => { x with scl := x.scl.waitOn w })
      | some (t, c) =>
        (s.land (segTarget g code) false (seg == 0) true t).map fun s =>
          ((s.onRing r fun x => { x with scl := if p.scale.isSome then c.waitOff w.elem false w.who else x.scl }).onLink g.die n fun l =>
            { l with rx := tabPut (segKey launch seg) (buf.erase p) l.rx }).sendSlot g.die from_.die (.count launch seg 1)
  | _, _ => none

/-- Take the head of a link queue of one plane out of it. -/
def takeFirst (ical : Bool) : List LinkTok → Option (LinkTok × List LinkTok)
  | [] => none
  | t :: r => if t.ical = ical then some (t, r) else (takeFirst ical r).map fun p => (p.1, t :: p.2)

def State.hopTokens (s : State) (h : Hop) : List LinkTok :=
  match h with
  | .out c => (s.elem c.el).out[c.chan]
  | .pass p n => (s.stripe p).pass[n]

def State.setHop (s : State) (h : Hop) (q : List LinkTok) : State :=
  match h with
  | .out c => s.onElem c.el fun x => { x with out := x.out.set c.chan q }
  | .pass p n => s.onStripe p fun x => { x with pass := x.pass.set n q }

def hopStripe : Hop → StripeAt
  | .out c => c.el.at_
  | .pass p _ => p

/-- Whether a hop of a region that is not chained wraps from its last stripe to region stripe 0 (08 R278). -/
def State.wraps (s : State) (h : Hop) (ical : Bool) (tg : Target) : Bool :=
  s.crossing (hopStripe h) ical &&
    match tg with
    | .elem e _ => decide (e.at_ ≠ (hopStripe h))
    | .pass p _ => decide (p ≠ (hopStripe h))
    | _ => false

/-- A frozen victim's tokens do not move (08 R307); links of the intercalary plane stand only during an occupation. -/
def State.moving (s : State) (p : StripeAt) (ical : Bool) : Bool := ical || !(s.ring p.ring).occupied

/-! ### Written out channels (08 R280, R283) -/

/-- The out channels that the destination selects of an instruction word name. Descriptor selects and message bases lie below 8. REPLY
writes out((b + c) mod 8) for each arc c, the CHA of a TKT slot of its plane (12 R403). -/
def Plane.wordOuts (p : Plane) (j : Bool) (w : Word) : List (Fin 8) :=
  let x := w.toNat
  let dsta := bits x 14 10
  let dstb := bits x 9 5
  if j && bits x 31 25 == 0x12 then
    ((List.range 16).filter fun i => bit (p.tw[i % 16]'(Nat.mod_lt _ (by decide))).toNat 31 &&
        bits (p.iw[i % 16]'(Nat.mod_lt _ (by decide))).toNat 31 25 == 0x10).map
      fun i => Fin.ofNat 8 (dsta + bits (p.tw[i % 16]'(Nat.mod_lt _ (by decide))).toNat 13 11)
  else ((if 8 ≤ dsta ∧ dsta < 16 then [dsta] else []) ++ (if 8 ≤ dstb ∧ dstb < 16 then [dstb] else [])).map fun n => Fin.ofNat 8 n

/-- The channels that a slot's trigger guards (02 R62). -/
def Trig.guards (t : Trig) (c : Fin 8) : Bool := t.valid && ((decide (1 ≤ t.mode) && t.cha == c) || (decide (2 ≤ t.mode) && t.chb == c))

/-- The out channels written by slots whose trigger guards channel `c`, ascending. -/
def Plane.killOuts (p : Plane) (j : Bool) (c : Fin 8) : List (Fin 8) :=
  let outs := ((List.range 16).filter fun i => (p.trig (Fin.ofNat 16 i)).guards c).flatMap fun i => p.wordOuts j (p.iw[i % 16]'(Nat.mod_lt _ (by decide)))
  (List.range 8).filterMap fun n => if outs.contains (Fin.ofNat 8 n) then some (Fin.ofNat 8 n) else none

/-- Out staging (08 R275). -/
def stageCap : Nat := 2

/-- Free entries of a target, as the credits of an out channel towards it (08 R279, R283): those of its queue, or, towards a pass register, a link
or a stripe that does not admit the token yet, the staging (08 R275, R278). -/
def State.targetFree (s : State) (tg : Target) (ical wrap : Bool) (par : Bool) : Nat :=
  match tg with
  | .elem e c => if s.admits e.at_ ical wrap par then s.queueFree e ical c else stageCap
  | _ => stageCap

/-- The tokens of a plane staged on an out channel. -/
def Elem.staged (x : Elem) (ical : Bool) (c : Fin 8) : Nat := ((x.out[c]).filter fun t => t.ical == ical).length

/-- Credits of an out channel: the free entries of its target less the tokens staged or owed (08 R279, R283; 12 R385); none while its staging is
full. -/
def State.outFree (s : State) (e : ElemAt) (ical : Bool) (c : Fin 8) : Nat :=
  let x := s.elem e
  let h : Hop := .out ⟨e, c⟩
  let tg := s.hopTarget h ical
  let used := x.staged ical c + (x.pend.filter fun p => p.ical == ical && p.dst.toNat == 8 + c.val).length
  if stageCap ≤ x.staged ical c then 0 else s.targetFree tg ical (s.wraps h ical tg) ((s.stripe e.at_).parity ical) - used

/-- Put a token into out staging with its two sideband bits (08 R278). -/
def State.stage (s : State) (e : ElemAt) (ical : Bool) (c : Fin 8) (t : Token) : State :=
  let par := (s.stripe e.at_).parity ical
  s.onElem e fun x => { x with out := x.out.set c (x.out[c] ++ [⟨t, par, ical⟩]) }

/-! ### Matching (08 R281, R282) -/

/-- The pair that channel `c` belongs to: CHA, CHB and the mode. -/
def Plane.pairOf (p : Plane) (c : Fin 8) : Option (Fin 8 × Fin 8 × Nat) :=
  ((List.range 16).find? fun i => let t := p.trig (Fin.ofNat 16 i); t.valid && decide (2 ≤ t.mode) && (t.cha == c || t.chb == c)).map fun i =>
    let t := p.trig (Fin.ofNat 16 i); (t.cha, t.chb, t.mode)

/-- Matching-store entries that a plane may use (08 R302). -/
def storeCap (reserve ical : Bool) : Nat := if ical then 8 else if reserve then 24 else 32

def Elem.stored (e : Elem) (ical : Bool) : Nat :=
  (e.halves.filter fun h => h.ical == ical).length + (e.ready.filter fun p => p.ical == ical).length

/-- EL_MATCH_DUP (08 R311). -/
def fltDup (e : ElemAt) (v : BitVec 12) : Flt := ⟨0x02, elemClass e, 1, v.toNat * 2 ^ 16⟩

/-- 08 R282 pair_step on the head `x` of channel `c`. -/
def State.pairStep (s : State) (e : ElemAt) (ical : Bool) (c : Fin 8) (x : Token) (rest : List Token) (pr : Fin 8 × Fin 8 × Nat) : State :=
  let el := s.elem e
  let a := (s.launch ((s.stripe e.at_).conf ical).launch).alloc e.at_.ring.die
  let it := if c = pr.2.1 ∧ pr.2.2 = 3 then x.iter - 1 else x.iter
  let other := if c = pr.1 then pr.2.1 else pr.1
  let is (ch : Fin 8) (h : Half) : Bool := h.ical == ical && h.chan == ch && h.ctx == x.ctx && h.iter == it
  if a.alias_ x.iter then s.elemFault e ical none c.val x.ctx x.iter (fltAlias e x.iter a)
  else if el.halves.any (is c) then s.elemFault e ical none c.val x.ctx x.iter (fltDup e x.iter)
  else
    match el.halves.find? (is other) with
    | some h =>
      let p : Pair := if c = pr.1 then ⟨ical, pr.1, pr.2.1, x, h.tok⟩ else ⟨ical, pr.1, pr.2.1, h.tok, x⟩
      s.setElem e { el.setQueue ical c rest with halves := el.halves.erase h, ready := el.ready ++ [p] }
    | none =>
      if el.stored ical < storeCap (s.ring e.at_.ring).icalValid ical then
        s.setElem e { el.setQueue ical c rest with halves := el.halves ++ [⟨ical, c, other, x.ctx, it, x⟩] }
      else s

end Sys2Proof.Machine
end

