-- ==== Sys2Proof/Machine/Flags.lean ====
section
/-! DEFINITION. Every flag, predicate, header and tag computation of a firing: result headers, tag actions on tokens and on the allocator
(02 R63, 08 R291-R293), predicates (02 R57), AMAX and the LFSR (07 R249, R250, R262). -/

namespace Sys2Proof.Machine

/-- The tag action of an instruction as a number 0-15. -/
abbrev TagAct := BitVec 4

/-- CTX of the out tokens (08 R292): k7 under ctx.lit. -/
def Firing.outCtx (x : Firing) (tag : TagAct) : BitVec 6 := if tag = 6 then (x.pl.k[7]).setWidth 6 else x.ctx

/-- ITER of the out tokens (08 R292): `v` is the newly allocated value, `b` operand B. -/
def Firing.outIter (x : Firing) (tag : TagAct) (v : BitVec 12) (b : Reg) : BitVec 12 :=
  match tag.toNat with
  | 1 => x.iter + 1
  | 2 => x.iter - 1
  | 3 => v
  | 4 => v
  | 12 => (b.lane 0).setWidth 12
  | _ => x.iter

/-- EOS of the out tokens (08 R291, R292). -/
def outEos (tag : TagAct) (read : Bool) : Bool :=
  match tag.toNat with
  | 8 => true
  | 13 => true
  | 9 => false
  | _ => read

/-- The out token that a result becomes (08 R291): SPEC exactly when its iteration is speculative at commit, `a` being the allocator after
the tag action. -/
def outToken (tag : TagAct) (ctx : BitVec 6) (iter : BitVec 12) (eos : Bool) (a : Alloc) (r : Reg) : Token :=
  let t : Token := ⟨r, ctx, iter, eos, false, a.isSpec iter⟩
  if tag = 7 then t.asKill else t

/-! ### AMAX (07 R262, 08 R299) -/

/-- A magnitude and a sticky flag take another's (07 R262). -/
def amaxJoin (a b : Word × Bool) : Word × Bool :=
  let r := amaxStep .f32 a b.1.toNat
  (r.1, a.2 || b.2)

/-- AMAX and its sticky flag take A's valid elements (07 R262). -/
def Plane.takeAmax (p : Plane) (a : Reg) : Plane :=
  let r := amaxUpdate a (p.amax, p.amaxNan)
  { p with amax := r.1, amaxNan := r.2 }

/-- What is held of an iteration reaches its register. -/
def AmaxHeld.release (p : Plane) (h : AmaxHeld) : Plane :=
  match h.desc with
  | none => let r := amaxJoin (p.amax, p.amaxNan) (h.amax, h.nan); { p with amax := r.1, amaxNan := r.2 }
  | some d => { p with m := { p.m with damax := p.m.damax.set d (amaxJoin p.m.damax[d] (h.amax, h.nan)) } }

/-- Zero the element's AMAX, with what is held for it. -/
def Plane.zeroAmax (p : Plane) : Plane := { p with amax := 0, amaxNan := false, amaxHeld := p.amaxHeld.filter fun h => h.desc.isSome }

/-- One held value, those before it being settled: of an iteration confirmed it reaches its register, unless it stands behind an AMAXCLR that is not
confirmed; a confirmed AMAXCLR clears; the others stay held. -/
def AmaxHeld.settle (a : Alloc) (p : Plane) (h : AmaxHeld) : Plane :=
  let keep (h : AmaxHeld) : Plane := { p with amaxHeld := p.amaxHeld ++ [h] }
  if !h.fixed && (a.isSpec h.iter || a.isKilled h.iter) then keep h
  else if h.clear then p.zeroAmax
  else if h.desc.isNone && p.amaxHeld.any AmaxHeld.clear then keep { h with fixed := true }
  else h.release p

/-- A plane whose AMAX registers hold what iterations no longer speculative gave, in the order of their commits. -/
def Plane.settleAmax (p : Plane) (a : Alloc) : Plane := p.amaxHeld.foldl (AmaxHeld.settle a) { p with amaxHeld := [] }

/-- What a read of AMAX finds: the values that are fixed, also those behind an AMAXCLR that is not confirmed. -/
def Plane.readAmax (p : Plane) (a : Alloc) : Word × Bool :=
  let q := p.settleAmax a
  let r := (q.amaxHeld.filter fun h => h.fixed && h.desc.isNone).foldl AmaxHeld.release q
  (r.amax, r.amaxNan)

/-- A killed iteration's held values are dropped. -/
def Plane.dropAmax (p : Plane) (ctx : BitVec 6) (iter : BitVec 12) : Plane :=
  { p with amaxHeld := p.amaxHeld.filter fun h => h.fixed || !(h.ctx == ctx && h.iter == iter) }

/-- Whether a firing's act on AMAX is held until its iteration is confirmed. -/
def Firing.holdsAmax (x : Firing) (tag : TagAct) : Bool := x.alloc.isSpec x.iter && tag != 10

/-- AMAX takes A's valid elements at the commit of a firing. -/
def Firing.takeAmax (x : Firing) (tag : TagAct) (a : Reg) (p : Plane) : Plane :=
  let spec := x.holdsAmax tag
  if spec || p.amaxHeld.any AmaxHeld.clear then
    let r := amaxUpdate a (0, false)
    { p with amaxHeld := p.amaxHeld ++ [⟨x.ctx, x.iter, none, r.1, r.2, false, !spec⟩] }
  else p.takeAmax a

/-- AMAXCLR at the commit of a firing (07 R270): of a speculative iteration it is held. No value given before it comes back behind it. -/
def Firing.clearAmax (x : Firing) (tag : TagAct) (p : Plane) : Plane :=
  if x.holdsAmax tag then { p with amaxHeld := p.amaxHeld ++ [⟨x.ctx, x.iter, none, 0, false, true, false⟩] } else p.zeroAmax

/-- The effect of a tag action on the allocator (08 R292). -/
def State.tagState (s : State) (l : Nat) (d : Fin 4) (tag : TagAct) (iter : BitVec 12) : State :=
  match tag.toNat with
  | 3 => s.allocIter l d (((s.launch l).alloc d).isSpec iter)
  | 4 => s.allocIter l d true
  | 5 => s.retireIter l d iter
  | 13 => s.retireIter l d iter
  | 7 => s.killIter l d iter
  | 10 => s.onLaunch l fun x => x.onAllocs fun a => a.confirm iter
  | 11 => (((s.launch l).alloc d).specAfter iter).foldl (fun s v => s.killIter l d v) s
  | _ => s

/-- Values that some segment has not yet passed (15 R469): those allocated less those that it has passed; the span for a launch of one segment. -/
def Launch.span (x : Launch) : Nat := (x.segs.map fun g => x.alloc0.num - (g.alloc.num - g.alloc.span)).foldl max x.alloc0.span

/-- 08 R295, 15 R469: whether an allocating firing in the segment of die `d` can have its grant in fc `fc`. -/
def Launch.canGrant (x : Launch) (l : Nat) (d : Fin 4) (fc : Nat) : Bool :=
  decide (x.span < x.window) &&
    if d.val = l / 4096 then decide (0 < x.grantsLeft fc) else (x.seg d).any fun g => decide (0 < g.grants)

/-- Tokens of an iteration that stand in an element (01 R31). -/
def Elem.countIter (e : Elem) (ical : Bool) (ctx : BitVec 6) (v : Option (BitVec 12)) : Nat :=
  let mine (t : Token) : Bool := t.ctx == ctx && (v.all fun w => t.iter == w)
  let q (qs : List Token) : Nat := (qs.filter mine).length
  let queues := ((if ical then e.inqI else e.inq).toList.map q).foldl (· + ·) 0
  let halves := (e.halves.filter fun h => h.ical == ical && mine h.tok).length
  let pairs := ((e.ready.filter fun p => p.ical == ical).map fun p => (if mine p.a then 1 else 0) + (if mine p.b then 1 else 0)).foldl (· + ·) 0
  let outs := (e.out.toList.map fun o => (o.filter fun t => t.ical == ical && mine t.tok).length).foldl (· + ·) 0
  let steer := (e.steer.filter fun t => t.ical == ical && mine t.tok).length
  let pend := (e.pend.filter fun p => p.ical == ical && p.ctx == ctx && (v.all fun w => p.iter == w)).length
  let pl := e.plane ical
  let tickets := (pl.tickets.filter fun t => mine t.tok).length
  let m := e.mpart ical
  let rows := (m.array.filter fun r => mine r.tok).length
  let drains := ((m.drains.filter fun d => d.ctx == ctx && (v.all fun w => d.iter == w)).map fun d => d.left.length).foldl (· + ·) 0
  let parked := (e.isb.map fun
    | .held _ => 0
    | .parked i _ _ _ hs => if i = ical then (hs.filter fun h => mine h.2).length else 0).foldl (· + ·) 0
  queues + halves + pairs + outs + steer + pend + tickets + rows + drains + parked

/-- The elements of a launch's segments: those of its region's stripes, or for an intercalary launch every element of the ring. -/
def State.launchElems (s : State) (l : Nat) : List ElemAt :=
  let x := s.launch l
  x.segs.flatMap fun g =>
    (s.ringElems ⟨g.die, g.ring⟩).filter fun e => x.ical || decide ((e.at_.stripe.val + 32 - 4 * g.page.val) % 32 < 4 * x.pages)

def State.launchStripes (s : State) (l : Nat) : List StripeAt :=
  let x := s.launch l
  x.segs.flatMap fun g =>
    if x.ical then (List.range 32).map fun i => ⟨⟨g.die, g.ring⟩, Fin.ofNat 32 i⟩
    else (List.range (4 * x.pages)).map fun i => regionStripe ⟨g.die, g.ring⟩ g.page i

/-- The tokens of an iteration on their way over the links to a segment: those in flits not yet accepted (15 R463). -/
def State.inFlits (s : State) (l seg : Nat) (v : BitVec 12) : Nat :=
  let mine : Slot → Bool
    | .token l' g _ t _ => l' == l && g == seg && t.tok.iter == v
    | _ => false
  ((s.dies.toList.flatMap fun d => d.links.toList.flatMap Link.unaccepted).filter mine).length

/-- The unit counter of 01 R31: the tokens of an iteration in flight in the launch's region on a die. -/
def State.unitCount (s : State) (l : Nat) (d : Fin 4) (v : BitVec 12) : Nat :=
  let x := s.launch l
  let ctx := ((x.seg d).map Seg.ctx).getD 0
  let inElems := (((s.launchElems l).filter fun e => decide (e.at_.ring.die = d)).map fun e => (s.elem e).countIter x.ical ctx (some v)).foldl (· + ·) 0
  let inPass := ((((s.launchStripes l).filter fun p => decide (p.ring.die = d)).flatMap fun p => (s.stripe p).pass.toList.flatten).filter
    fun t => t.ical == x.ical && t.tok.ctx == ctx && t.tok.iter == v).length
  let inLinks := (((List.range 2).flatMap fun n => (tabGet [] (segKey l (d.val - l / 4096)) ((s.die d).link (Fin.ofNat 2 n)).rx)).filter
    fun p => p.tok.tok.iter == v).length
  let held := ((dieRings d).flatMap fun r => (s.ring r).heldReplies).filter fun h =>
    h.tok.iter == v && ((s.stripe (ElemAt.ofKey h.target).at_).conf h.ical).launch == l
  inElems + inPass + inLinks + held.length + s.inFlits l (d.val - l / 4096) v

/-- EL_CTX_DENIED, EL_TAG_EXHAUSTED, EL_EXIT_EXCESS, EL_TRAP (08 R311). -/
def fltCtx (e : ElemAt) (c : BitVec 6) : Flt := ⟨0x05, elemClass e, 1, c.toNat⟩
def fltExhausted (e : ElemAt) (w : Nat) : Flt := ⟨0x04, elemClass e, 1, w⟩
def fltExit (e : ElemAt) (n : Nat) : Flt := ⟨0x06, elemClass e, 1, n⟩
def fltTrap (e : ElemAt) (v : Word) : Flt := ⟨0x07, elemClass e, 1, v.toNat⟩

/-- Whether an allocating firing ends in EL_TAG_EXHAUSTED instead of waiting (08 R295): the intercalary plane at span = W; or W = 1, its own
iteration the one allocated, and no token of it but those the firing has claimed. -/
def State.exhausted (s : State) (x : Firing) : Bool :=
  let l := s.launch x.launch
  let claimed := match x.heads with | none => 0 | some p => if p.2.isSome then 2 else 1
  decide (l.window ≤ l.span) &&
    (x.ical || (decide (l.window = 1) && decide (x.alloc.span = 1) && decide (x.iter = x.alloc.base) &&
      decide (s.unitCount x.launch x.el.at_.ring.die x.iter ≤ claimed)))

/-- Faults of the tags of a firing (08 R292, R295, R297), for the out channels it writes. -/
def State.tagFaults (s : State) (x : Firing) (tag : TagAct) (b : Reg) (writesOut : Bool) : List Flt :=
  let heads := match x.heads with | none => [] | some p => p.1.iter :: (p.2.toList.map Token.iter)
  let out := if writesOut && tag != 3 && tag != 4 && tag != 7 then [x.outIter tag 0 b] else []
  ((heads ++ out).filter x.alloc.alias_).map (fun v => fltAlias x.el v x.alloc) ++
  (if tag = 6 ∧ tabFind (x.outCtx tag).toNat (s.ring x.el.at_.ring).ctxs ≠ some (s.launch x.launch).pasid then [fltCtx x.el (x.outCtx tag)] else []) ++
  (if (tag = 3 ∨ tag = 4) ∧ s.exhausted x = true then [fltExhausted x.el (s.launch x.launch).window] else [])

/-- Write a result to a register or predicate of a plane (02 R57, 08 R291). -/
def Plane.write (p : Plane) (sel : BitVec 5) (r : Reg) : Plane :=
  let n := sel.toNat
  if n < 8 then { p with d := p.d.set (n % 8) r (Nat.mod_lt _ (by decide)) }
  else if 16 ≤ n ∧ n < 24 then { p with p := p.p.set (n % 8) (bit (r.lane 0).toNat 0) (Nat.mod_lt _ (by decide)) }
  else p

/-- The beats still owed once a beat commits (08 R284). -/
def Plane.beatDone (p : Plane) (s : Fin 16) : Plane :=
  let b := p.beat[s]
  { p with beat := p.beat.set s (if b = 0 then .ofNat 4 (p.trig s).depth else b - 1) }

/-- 07 R250: the LFSR of a swapped-in element. -/
def lfsrAt (stage slot : Nat) : Word := seedLfsr (.ofNat 32 (0x80000000 + stage * 16 + slot))

/-- The exit count of a context (08 R293). -/
def Plane.exitCount (p : Plane) (c : BitVec 6) : Nat := tabGet 0 c.toNat p.exits
def Plane.countExit (p : Plane) (c : BitVec 6) : Plane := { p with exits := tabPut c.toNat (p.exitCount c + 1) p.exits }

end Sys2Proof.Machine
end

