-- ==== Sys2Proof/Machine/Aes.lean ====
section
/-! DEFINITION. AES-256 and its XTS mode over a 64-byte granule (03 R101), as FIPS 197 and IEEE 1619 give them (log 6). A block is a list of 16
bytes, column by column. -/

namespace Sys2Proof.Machine

/-! ### The field of 256 elements and the substitution -/

/-- FIPS 197 SubBytes: byte `i` of the number is the value at `i`. -/
def aesSub : Nat :=
  (0x16bb54b00f2d99416842e6bf0d89a18cdf2855cee9871e9b948ed9691198f8e19e1dc186b95735610ef6034866b53e708a8bbd4b1f74dde8c6b4a61c2e2578ba <<< 1536) +
  (0x08ae7a65eaf4566ca94ed58d6d37c8e779e4959162acd3c25c2406490a3a32e0db0b5ede14b8ee4688902a22dc4f816073195d643d7ea7c41744975fec130ccd <<< 1024) +
  (0xd2f3ff1021dab6bcf5389d928f40a351a89f3c507f02f94585334d43fbaaefd0cf584c4a39becb6a5bb1fc20ed00d153842fe329b3d63b52a05a6e1b1a2c8309 <<< 512) +
  0x75b227ebe28012079a059618c323c7041531d871f1e5a534ccf73f362693fdb7c072a49cafa2d4adf04759fa7dc982ca76abd7fe2b670130c56f6bf27b777c63

/-- Its inverse. -/
def aesInv : Nat :=
  (0x7d0c2155631469e126d677ba7e042b17619953833cbbebc8b0f52aae4d3be0a0ef9cc9939f7ae52d0d4ab519a97f51605fec8027591012b131c7078833a8dd1f <<< 1536) +
  (0xf45acd78fec0db9a2079d2c64b3e56fc1bbe18aa0e62b76f89c5291d711af1476edf751ce837f9e28535ade72274ac9673e6b4f0cecff297eadc674f4111913a <<< 1024) +
  (0x6b8a130103bdafc1020f3fca8f1e2cd00645b3b80558e4f70ad3bc8c00abd890849d8da75746155edab9edfd5048706c92b6655dcc5ca4d41698688664f6f872 <<< 512) +
  0x25d18b6d49a25b76b224d92866a12e084ec3fa420b954cee3d23c2a632947b54cbe9dec444438e3487ff2f9b8239e37cfbd7f3819ea340bf38a53630d56a0952

def tableByte (t : Nat) (b : Byte) : Byte := .ofNat 8 (t >>> (8 * b.toNat))

/-- Multiplication by x. -/
def fieldDouble (b : Byte) : Byte := if b.msb then (b <<< 1) ^^^ 0x1B else b <<< 1

/-- Multiplication by a number below 16. -/
def fieldMul (n : Nat) (b : Byte) : Byte :=
  let part (i : Nat) (x : Byte) : Byte := if n.testBit i then x else 0
  let two := fieldDouble b
  let four := fieldDouble two
  part 0 b ^^^ part 1 two ^^^ part 2 four ^^^ part 3 (fieldDouble four)

/-! ### Rounds -/

abbrev Block := List Byte

def xorBlock (a b : Block) : Block := List.zipWith (· ^^^ ·) a b

/-- Byte `4 c + r` of the result is that of column `c + k r`: the rows shift left for `k` 1 and right for `k` 3. -/
def shiftRows (k : Nat) (s : Block) : Block := (List.range 16).map fun i => s.getD (4 * ((i / 4 + k * (i % 4)) % 4) + i % 4) 0

/-- Each column times the circulant matrix whose first row is given. -/
def mixColumns (m : List Nat) (s : Block) : Block :=
  (List.range 16).map fun i =>
    (List.range 4).foldl (fun a j => a ^^^ fieldMul (m.getD ((j + 4 - i % 4) % 4) 0) (s.getD (i / 4 * 4 + j) 0)) 0

/-- The next word of the key schedule; the words so far, newest first. -/
def nextKeyWord (ws : List Block) (i : Nat) : List Block :=
  let t := ws.headD []
  let sub (w : Block) : Block := w.map (tableByte aesSub)
  let u := if i % 8 = 0 then xorBlock (sub (t.drop 1 ++ t.take 1)) [.ofNat 8 (2 ^ (i / 8 - 1)), 0, 0, 0] else if i % 8 = 4 then sub t else t
  xorBlock (ws.getD 7 []) u :: ws

/-- The 15 round keys of a 32-byte key. -/
def roundKeys (key : List Byte) : List Block :=
  let first := (List.range 8).map fun i => (key.drop (4 * i)).take 4
  let ws := (((List.range 52).foldl (fun ws i => nextKeyWord ws (i + 8)) first.reverse).reverse).flatten
  (List.range 15).map fun i => (ws.drop (16 * i)).take 16

def aesEncrypt (keys : List Block) (b : Block) : Block :=
  let round (s k : Block) : Block := xorBlock (mixColumns [2, 3, 1, 1] (shiftRows 1 (s.map (tableByte aesSub)))) k
  let s := ((keys.drop 1).take 13).foldl round (xorBlock b (keys.headD []))
  xorBlock (shiftRows 1 (s.map (tableByte aesSub))) (keys.getD 14 [])

def aesDecrypt (keys : List Block) (b : Block) : Block :=
  let back (s k : Block) : Block := mixColumns [14, 11, 13, 9] (xorBlock ((shiftRows 3 s).map (tableByte aesInv)) k)
  let s := ((keys.drop 1).take 13).reverse.foldl back (xorBlock b (keys.getD 14 []))
  xorBlock ((shiftRows 3 s).map (tableByte aesInv)) (keys.headD [])

/-! ### XTS -/

/-- The tweak of the next block: the 128-bit number of its little-endian bytes, times x. -/
def nextTweak (t : Nat) : Nat := if t < 2 ^ 127 then 2 * t else (2 * t - 2 ^ 128) ^^^ 0x87

/-- One direction over the blocks of a granule: `f` is the cipher under Key1. -/
def xtsBlocks (f : Block → Block) (bs : List Byte) : Nat → Nat → List Byte
  | 0, _ => []
  | n + 1, t => xorBlock (f (xorBlock (bs.take 16) (natBytes 16 t))) (natBytes 16 t) ++ xtsBlocks f (bs.drop 16) n (nextTweak t)

/-- The bytes of a key slot: Key1, then Key2 (log 6). -/
def keyBytes (k : Key) : List Byte := k.toList.flatMap fun w => natBytes 8 w.toNat

/-- The first tweak of a granule: its device physical address as 16 little-endian bytes, under Key2. -/
def firstTweak (k : Key) (address : Nat) : Nat := bytesNat (aesEncrypt (roundKeys ((keyBytes k).drop 32)) (natBytes 16 address))

def xtsEncrypt (k : Key) (address : Nat) (bs : List Byte) : List Byte :=
  xtsBlocks (aesEncrypt (roundKeys ((keyBytes k).take 32))) bs 4 (firstTweak k address)

def xtsDecrypt (k : Key) (address : Nat) (bs : List Byte) : List Byte :=
  xtsBlocks (aesDecrypt (roundKeys ((keyBytes k).take 32))) bs 4 (firstTweak k address)

end Sys2Proof.Machine
end

