-- ==== Sys2Proof/Machine/Memory.lean ====
section
/-! DEFINITION. Memory as the engines reach it (03 R89-R101, R113-R116): encrypted HBM, host memory, the scratchpad, resource entries,
translation and the versions of granules and words. -/

namespace Sys2Proof.Machine

/-! ### HBM (03 R101, 16 R477) -/

/-- The key under which a granule was last written: cold reset zeroes the carve-out under the device key (16 R477). -/
def State.granuleKey (s : State) (g : Nat) : Option Key :=
  match tabFind g s.hbmKey with
  | some k => k
  | none => if Config.carveBase ≤ 64 * g then some Config.deviceKey else none

/-- Byte `i` of a granule written under one key and read under another (03 R101): the decryption, under the second, of its content enciphered
under the first. `plain` is what was written; a granule that nothing has written since cold reset is stored as zeros (16 R477). -/
def foreignByte (wk : Option Key) (rk : Key) (address : Nat) (plain : List Byte) (i : Nat) : Byte :=
  let c := match wk with
    | some k => xtsEncrypt k address plain
    | none => List.replicate 64 0
  (xtsDecrypt rk address c).getD i 0

/-- A byte of HBM read under a key. -/
def State.hbmByte (s : State) (key : Key) (a : Nat) : Byte :=
  if s.granuleKey (a / 64) = some key then cellGet a s.hbm
  else foreignByte (s.granuleKey (a / 64)) key (a / 64 * 64) (readBytes (a / 64 * 64) 64 s.hbm) (a % 64)

def State.hbmRead (s : State) (key : Key) (a n : Nat) : List Byte := (List.range n).map fun i => s.hbmByte key (a + i)

/-- Write a byte under a key. The rest of a granule last written under another key is what it reads as under this one. -/
def State.hbmPut (s : State) (key : Key) (a : Nat) (b : Byte) : State :=
  let g := a / 64
  { s with
    hbm := cellPut a b (if s.granuleKey g = some key then s.hbm else writeBytes (g * 64) (s.hbmRead key (g * 64) 64) s.hbm),
    hbmKey := tabPut g (some key) s.hbmKey }

def State.hbmWrite (s : State) (key : Key) (a : Nat) : List Byte → State
  | [] => s
  | b :: bs => State.hbmWrite (s.hbmPut key a b) key (a + 1) bs

/-- The key in a slot, if it holds one (16 R483). -/
def State.keyOf (s : State) (slot : Nat) : Option Key := tabFind slot s.keys

/-- The key of slot 0. -/
def State.devKey (s : State) : Key := (s.keyOf 0).getD Config.deviceKey

/-! ### Where an address leads (03 R89, R97) -/

inductive Loc where
  | hbm (a : Nat)
  | host (h : Nat)
  deriving DecidableEq, Repr

/-- A host physical address: device HBM within the committed decoder, else host memory. -/
def State.locate (s : State) (h : Nat) : Loc :=
  if s.hdmOn ∧ s.hdmBase.toNat ≤ h ∧ h < s.hdmBase.toNat + s.hdmSize.toNat then .hbm (h - s.hdmBase.toNat) else .host h

def Loc.add (l : Loc) (n : Nat) : Loc := match l with | .hbm a => .hbm (a + n) | .host h => .host (h + n)

/-- Pages of 4 KiB that a cached translation covers. -/
def pagesOf (n : Fin 3) : Nat := if n = 0 then 1 else if n = 1 then 512 else 262144

def Xlt.covers (x : Xlt) (pasid : BitVec 20) (vp : Nat) : Bool := x.pasid == pasid && decide (vp / pagesOf x.size = x.vpage / pagesOf x.size)

/-- The host page of a virtual page, when a cached translation gives the permission. -/
def Die.xlate (d : Die) (pasid : BitVec 20) (vp : Nat) (write : Bool) : Option Nat :=
  (d.xlts.find? fun x => x.covers pasid vp && (if write then x.write else x.read)).map fun x =>
    x.hpage / pagesOf x.size * pagesOf x.size + vp % pagesOf x.size

/-- The location of a virtual address. -/
def State.locOf (s : State) (d : Fin 4) (pasid : BitVec 20) (va : Nat) (write : Bool) : Option Loc :=
  ((s.die d).xlate pasid (va / 4096) write).map fun hp => s.locate (hp * 4096 + va % 4096)

/-- The first virtual address of an access that no cached translation serves. -/
def State.missVa (s : State) (d : Fin 4) (pasid : BitVec 20) (va n : Nat) (write : Bool) : Option Nat :=
  ((List.range ((va % 4096 + n + 4095) / 4096)).map fun i => if i = 0 then va else (va / 4096 + i) % 2 ^ 52 * 4096).find? fun a =>
    ((s.die d).xlate pasid (a / 4096) write).isNone

/-- Walkers of a die (03 R97). -/
def walkers : Nat := 128

/-- The walks that hold a walker. -/
def Die.walksOut (x : Die) : List Walk := x.walks.take walkers

/-- A walk serves an access to a page: it asks for the permission that the access needs (03 R98). -/
def Walk.serves (w : Walk) (pasid : BitVec 20) (vpage : Nat) (write : Bool) : Bool := w.pasid == pasid && w.vpage == vpage && w.write == write

/-- The same ring or hart waits. -/
def Waiter.same (a b : Waiter) : Bool := a.ring == b.ring && a.hart == b.hart

/-- What waits on a walk already waits on it for more. -/
def Waiter.join (u v : Waiter) : Waiter := if u.same v then { v with ops := v.ops ++ u.ops.filter fun o => !v.ops.contains o } else v

/-- A miss joins the ATS request of its page, unless it waits on a walk of it already, or else asks for a walker, which later misses take in order
of arrival (03 R97). -/
def Die.walk (x : Die) (fc : Nat) (pasid : BitVec 20) (vpage : Nat) (write : Bool) (u : Waiter) : Die :=
  if x.walks.any fun v => v.serves pasid vpage write && v.waiters.any u.same then
    { x with walks := x.walks.map fun w => if w.serves pasid vpage write then { w with waiters := w.waiters.map u.join } else w }
  else
    let x := { x with quietFails := x.quietFails.erase (pasid, vpage) }
    match x.walks.find? fun v => v.serves pasid vpage write && !v.pri with
    | some v => { x with walks := x.walks.map fun w => if w = v then { w with waiters := w.waiters ++ [u] } else w }
    | none => { x with walks := x.walks ++ [⟨pasid, vpage, write, false, fc, [u]⟩] }

/-- The walk that a miss asks for: the record of its fault names the virtual address (03 R130). -/
def State.walkFor (s : State) (d : Fin 4) (pasid : BitVec 20) (va : Nat) (write : Bool) (ring : Option (Fin 4)) (hart : Option (Fin 64))
    (queue : Option (BitVec 20 × BitVec 16)) (site : FRec) (op : Option Nat) : State :=
  s.onDie d fun x => x.walk s.fc pasid (va / 4096) write ⟨ring, hart, queue, { site with aux := .ofNat 64 va }, [op]⟩

/-- A waiter without the operations that are withdrawn; none when nothing else waits so. -/
def Waiter.without (ids : List Nat) (u : Waiter) : Option Waiter :=
  let rest := u.ops.filter fun o => !(o.any fun n => ids.contains n)
  if rest.isEmpty then none else some { u with ops := rest }

/-- The waiting translations of operations on a ring are withdrawn (03 R128), with the holds that their page requests took. -/
def State.unwait (s : State) (r : RingAt) (ids : List Nat) : State :=
  let gone (w : Walk) : List FHold :=
    (w.waiters.filter fun u => u.ring == some r.ring && (u.without ids).isNone).map fun u => ⟨u.site.ctx, w.vpage + 1⟩
  let holds := (((s.die r.die).walks.filter Walk.pri).map gone).flatten
  (s.onDie r.die fun x => { x with walks := x.walks.map fun w => { w with waiters := w.waiters.filterMap (Waiter.without ids) } }).onRing r fun x =>
    { x with fholds := x.fholds.filter fun h => !holds.contains h }

/-- A walk ends: the first miss that waits for a walker takes its own (03 R97). -/
def State.dropWalk (s : State) (d : Fin 4) (w : Walk) : State :=
  s.onDie d fun x =>
    { x with walks := (x.walks.erase w).zipIdx.map fun p => if p.2 + 1 = walkers ∧ walkers < x.walks.length then { p.1 with since := s.fc } else p.1 }

/-- What a prefetch finds of a page (03 R100): its faults are suppressed. -/
inductive Ahead where
  | ready
  | wait (s : State)
  | stop

/-- A prefetch of bytes that an entry lets it touch: pages cached and prefetchable; a miss makes a walk on which nobody waits. -/
def State.ahead (s : State) (d : Fin 4) (pasid : BitVec 20) (va n : Nat) : Ahead :=
  let x := s.die d
  match s.missVa d pasid va n false with
  | none =>
    if (List.range ((va % 4096 + n + 4095) / 4096)).any fun i =>
      x.xlts.any fun t => t.covers pasid ((va / 4096 + i) % 2 ^ 52) && t.noPref then .stop else .ready
  | some a =>
    let vp := a / 4096
    if x.quietFails.contains (pasid, vp) then .stop
    else if x.walks.any fun w => w.serves pasid vp false then .wait s
    else .wait (s.onDie d fun y => { y with walks := y.walks ++ [⟨pasid, vp, false, false, s.fc, []⟩] })

/-- 03 R96: the virtual address of an offset, and whether it is canonical. -/
def vaOf (base off : Nat) : Nat := (base + off) % 2 ^ 64
def canonical (va : Nat) : Bool := bits va 63 57 == if bit va 56 then 127 else 0

/-- The first byte of an access that is not canonical. -/
def badVa (va n : Nat) : Option Nat :=
  if !canonical va then some va else if n ≠ 0 ∧ !canonical ((va + (n - 1)) % 2 ^ 64) then some (2 ^ 56) else none

/-- XLT_ADDR (03 R96, R130). -/
def fltAddr (va : Nat) : Flt := ⟨0x94, 8, 1, va⟩

/-! ### Bytes at a location -/

/-- A granule that a patrol scrub has found uncorrectable: a read of it takes the error (01 R44, 16 R484), unless nothing has written it since the cold
reset (16 R477). -/
def State.badAt (s : State) (a : Nat) : Bool := s.badGrans.contains (a / 64) && (s.granuleKey (a / 64)).isSome

/-- The first byte of a span that lies in such a granule. -/
def State.vaBad (s : State) (d : Fin 4) (pasid : BitVec 20) (va n : Nat) (write : Bool) : Option Nat :=
  (List.range n).findSome? fun i =>
    match s.locOf d pasid ((va + i) % 2 ^ 64) write with
    | some (.hbm a) => if s.badAt a then some a else none
    | _ => none

/-- A byte at a location; an HBM location needs a key. -/
def State.locByte (s : State) (key : Key) : Loc → Byte
  | .hbm a => s.hbmByte key a
  | .host h => cellGet h s.hostMem

def State.locPut (s : State) (key : Key) (l : Loc) (b : Byte) : State :=
  match l with
  | .hbm a => s.hbmPut key a b
  | .host h => { s with hostMem := cellPut h b s.hostMem }

/-- Bytes of a virtual range whose pages are all cached. -/
def State.vaRead (s : State) (d : Fin 4) (pasid : BitVec 20) (key : Key) (va n : Nat) : List Byte :=
  (List.range n).map fun i => ((s.locOf d pasid ((va + i) % 2 ^ 64) false).map (s.locByte key)).getD 0

def State.vaWrite (s : State) (d : Fin 4) (pasid : BitVec 20) (key : Key) (va : Nat) : List Byte → State
  | [] => s
  | b :: bs =>
    State.vaWrite (((s.locOf d pasid va true).map fun l => s.locPut key l b).getD s) d pasid key ((va + 1) % 2 ^ 64) bs

/-- Whether some byte of a virtual range lies in HBM, or in host memory. -/
def State.vaIn (s : State) (d : Fin 4) (pasid : BitVec 20) (va n : Nat) (write hbm : Bool) : Bool :=
  (List.range n).any fun i =>
    match s.locOf d pasid ((va + i) % 2 ^ 64) write with
    | some (.hbm _) => hbm
    | some (.host _) => !hbm
    | none => false

/-! ### Resource entries (03 R91-R95) -/

/-- The entry that a 512-bit number holds (03 R92). -/
def resOf (x : Nat) : Res :=
  { base := bits x 511 448, extent := bits x 447 408, keyidx := bits x 407 396, space := bits x 395 392, fmt := bits x 391 389,
    layout := bits x 388 385, vers := bit x 384, scope := bits x 383 381, rights := bits x 380 377, pref := bit x 376,
    relgen := bits x 375 360, valid := bit x 359, rsvd := bits x 358 0 }

def Res.usable (r : Res) : Bool := r.valid && decide (r.space ≤ 2) && decide (r.scope ≤ 5) && decide (r.rsvd = 0)

/-- The rights of 03 R92 as bits of RIGHTS. -/
def Res.canRead (r : Res) : Bool := bit r.rights 3
def Res.canWrite (r : Res) : Bool := bit r.rights 2
def Res.canFetch (r : Res) : Bool := bit r.rights 1
def Res.canUpdate (r : Res) : Bool := bit r.rights 0

def Job.zero : Job := ⟨0, 0, 0, 0, [], false⟩

/-- The bytes of a table entry, under key slot 0 (03 R91). -/
def State.entryBytes (s : State) (j : Job) (n : Nat) : List Byte := s.hbmRead s.devKey (j.rtbase.toNat + 64 * n) 64

/-- The number whose 64-bit words, lowest first, are given. -/
def wordsNat (v : List Dword) : Nat := v.foldr (fun w a => w.toNat + 2 ^ 64 * a) 0

/-- The entry that an index names for a region of a job: the old entry while a rewrite has not reached the region (03 R95); none at or
above the entry count. -/
def State.resource (s : State) (pasid : BitVec 20) (region : Option (Nat × Nat)) (n : Nat) : Option Res :=
  match tabFind pasid.toNat s.jobs with
  | none => none
  | some j =>
    if n ≤ j.rtcnt.toNat then
      match j.prsws.find? fun p => p.entry.toNat == n && region.any fun g => p.left.contains g with
      | some p => some (resOf (wordsNat p.old.toList))
      | none => some (resOf (bytesNat (s.entryBytes j n)))
    else none

/-- The region of a stripe, as (ring number, first page). -/
def State.regionAt (s : State) (p : StripeAt) : Option (Nat × Nat) :=
  ((s.ring p.ring).regionOf p.stripe.val).map fun g => (p.ring.num, g.page.val)

/-! ### Versions (03 R114-R116) -/

def verGe (a b : Nat) : Bool := decide ((a + 65536 - b % 65536) % 65536 < 32768)

def State.counter (s : State) (g : Nat) : Nat := (tabGet 0 g s.versions).toNat
def State.setCounter (s : State) (g v : Nat) : State := { s with versions := tabPut g (.ofNat 16 v) s.versions }

/-! ### Scratchpad words -/

/-- Bytes of a ring's scratchpad; addresses go round after its last page (05 R178). -/
def spadBytes : Nat := 24 * 2 ^ 20
def spadGet (m : List Host.Cell) (a : Nat) : Byte := cellGet (a % spadBytes) m
def spadPut (m : List Host.Cell) (a : Nat) (b : Byte) : List Host.Cell := cellPut (a % spadBytes) b m
def spadRead (m : List Host.Cell) (a n : Nat) : List Byte := (List.range n).map fun i => spadGet m (a + i)
def spadWrite (m : List Host.Cell) (a : Nat) : List Byte → List Host.Cell
  | [] => m
  | b :: bs => spadWrite (spadPut m a b) (a + 1) bs

def spadWord (m : List Host.Cell) (a : Nat) : Nat := bytesNat (spadRead m a 4)
def spadPutWord (m : List Host.Cell) (a w : Nat) : List Host.Cell := spadWrite m a (natBytes 4 w)

/-- A version word of the scratchpad: newest and floor (03 R116). -/
def verNewest (w : Nat) : Nat := bits w 31 16
def verFloor (w : Nat) : Nat := bits w 15 0
def verWord (newest floor : Nat) : Nat := newest % 65536 * 65536 + floor % 65536

/-- 03 R116: version `v` is live. -/
def verLive (w v : Nat) : Bool := verGe v (verFloor w) && verGe v (verNewest w + 65536 - 3) && verGe (verNewest w) v

/-- The new floor that RECL sets (03 R116). -/
def verRecl (w f : Nat) : Nat :=
  if verGe f (verFloor w) && verGe (verNewest w) f then f else if verGe f (verNewest w) then verNewest w else verFloor w

end Sys2Proof.Machine
end

