-- ==== Sys2Proof/Machine/Messages.lean ====
section
/-! DEFINITION. Replies, results and completion records: how an answer reaches the firing or the packet that asked (01 R30, 04 R150-R154,
05 R217, 12 R385, R400). -/

namespace Sys2Proof.Machine

/-! ### Queues and completion records (04 R135-R137, R150, R164) -/

def seqDist (a b : BitVec 16) : Nat := (a - b).toNat
def seqAfter (a b : BitVec 16) : Bool := decide (0 < seqDist a b) && decide (seqDist a b < 32768)

/-- The home die and the local index of a queue (04 R135). -/
def homeDie (q : BitVec 20) : Fin 4 := Fin.ofNat 4 (q.toNat / 2 ^ 18)
def localIx (q : BitVec 20) : Nat := q.toNat % 2 ^ 18
def qidOf (d : Fin 4) (ix : Nat) : BitVec 20 := .ofNat 20 (d.val * 2 ^ 18 + ix)

def State.latch (s : State) (q : BitVec 20) : Latch := tabGet Latch.zero (localIx q) (s.die (homeDie q)).latch
def State.onLatch (s : State) (q : BitVec 20) (f : Latch → Latch) : State :=
  s.onDie (homeDie q) fun d => { d with latch := tabMod Latch.zero (localIx q) f d.latch }
def State.queue (s : State) (q : BitVec 20) : Option Queue := tabFind (localIx q) (s.die (homeDie q)).queues
def State.onQueue (s : State) (q : BitVec 20) (f : Queue → Queue) : State :=
  s.onDie (homeDie q) fun d => { d with queues := tabMap (fun i x => if i = localIx q then f x else x) d.queues }

/-- Context-virtual HBM reached on path F is read and written under key slot 1, the host view's (log 25). -/
def State.fKey (s : State) : Option Key := s.keyOf 1

/-- A read on path F of a range whose pages are all cached; without the key HBM reads zero. -/
def State.fRead (s : State) (d : Fin 4) (pasid : BitVec 20) (va n : Nat) : List Byte :=
  match s.fKey with
  | some k => s.vaRead d pasid k va n
  | none => if s.vaIn d pasid va n false true then List.replicate n 0 else s.vaRead d pasid s.devKey va n

def State.fWrite (s : State) (d : Fin 4) (pasid : BitVec 20) (va : Nat) (bs : List Byte) : State :=
  match s.fKey with
  | some k => s.vaWrite d pasid k va bs
  | none => if s.vaIn d pasid va bs.length true true then s else s.vaWrite d pasid s.devKey va bs

/-- A walk for the front end: no ring holds; `hart` blocks. -/
def fWalk (s : State) (d : Fin 4) (pasid : BitVec 20) (va : Nat) (write : Bool) (hart : Option (Fin 64)) (q : Option (BitVec 20 × BitVec 16)) :
    State :=
  s.walkFor d pasid va write none hart q { FRec.zero with plane := 3, pasid := pasid } none

/-- XLT_ADDR on path F (03 R96, R130): the job whose PASID was used is terminated. -/
def State.fAddr (s : State) (d : Fin 4) (pasid : BitVec 20) (va : Nat) : State :=
  if (tabFind pasid.toNat s.jobs).any Job.terminated then s
  else s.takeFault d none none 0 (fltAddr va) { FRec.zero with plane := 3, pasid := pasid }

/-- What an access on path F that cannot be made comes to: XLT_ADDR, or the walk that it waits for. None when it can be made. -/
def State.fBlock (s : State) (d : Fin 4) (pasid : BitVec 20) (va n : Nat) (write : Bool) (hart : Option (Fin 64)) : Option State :=
  match badVa va n with
  | some a => some (s.fAddr d pasid a)
  | none => (s.missVa d pasid va n write).map fun m => fWalk s d pasid m write hart none

/-- Whether the queue is a bootstrap queue, whose rings lie in the carve-out (04 R136). -/
def Queue.boot (q : Queue) (ix : Nat) : Bool := ix == 0 && q.pasid == 0

/-- Write a record whose CSEQ is the latch's next to its entry of the completion ring (04 R164): none while the ring is full or its page is
not translated. -/
def State.postHead (s : State) (qid : BitVec 20) (q : Queue) (r : Vector Dword 8) : Option State :=
  let e := s.latch qid
  let d := homeDie qid
  let c := e.cpost + 1
  let a := q.cbase.toNat + 64 * (c.toNat % 2 ^ e.csize.toNat)
  let bs := (r.set 0 (.ofNat 64 (r[0].toNat % 2 ^ 48 + c.toNat * 2 ^ 48))).toList.flatMap fun w => natBytes 8 w.toNat
  if 2 ^ e.csize.toNat ≤ seqDist e.cpost e.cack then none
  else if q.boot (localIx qid) then some (State.onLatch (s.hbmWrite s.devKey a bs) qid fun l => { l with cpost := c })
  else if (s.fBlock d q.pasid a 64 true none).isSome then none
  else some (State.onLatch (s.fWrite d q.pasid a bs) qid fun l => { l with cpost := c })

/-- Post as many of a queue's waiting records as can be (04 R153); a page that is not translated takes a walker. -/
def State.flush (fuel : Nat) (s : State) (qid : BitVec 20) : State :=
  match fuel, s.queue qid with
  | fuel + 1, some q =>
    match q.outbox with
    | [] => s
    | r :: rest =>
      match s.postHead qid q r with
      | some s => State.flush fuel (s.onQueue qid fun x => { x with outbox := rest }) qid
      | none =>
        let e := s.latch qid
        let a := q.cbase.toNat + 64 * ((e.cpost + 1).toNat % 2 ^ e.csize.toNat)
        if seqDist e.cpost e.cack < 2 ^ e.csize.toNat ∧ !q.boot (localIx qid) then
          (s.fBlock (homeDie qid) q.pasid a 64 true none).getD s
        else s
  | _, _ => s

/-- Form a record for a queue and post what can be posted. -/
def State.postRec (s : State) (qid : BitVec 20) (mk : Queue → Vector Dword 8) : State :=
  State.flush 64 (s.onQueue qid fun q => { q with outbox := q.outbox ++ [mk q] }) qid

/-- A packet completes (04 R150, R154): it is open no more, and it posts when CMPL is set, or always when it is refused. -/
def State.finish (s : State) (qid : BitVec 20) (seq : BitVec 16) (status value : Nat) (always : Bool) : State :=
  match s.queue qid with
  | none => s
  | some q =>
    match q.opens.find? fun p => p.seq == seq with
    | none => s
    | some p =>
      let s := s.onQueue qid fun q => { q with opens := q.opens.filter fun o => o.seq != seq }
      if p.cmpl || always then
        s.postRec qid fun q => completionRec 0 p.type.toNat status seq.toNat value qid.toNat q.pasid.toNat 0
      else s

/-! ### Results owed to a firing (12 R385) -/

def State.owe (s : State) (e : ElemAt) (ical : Bool) (l : Nat) : State :=
  (s.onElem e fun x => if ical then { x with owedI := x.owedI + 1 } else { x with owed := x.owed + 1 }).onLaunch l fun x =>
    { x with owed := x.owed + 1 }

def State.paid (s : State) (e : ElemAt) (ical : Bool) (l : Nat) : State :=
  (s.onElem e fun x => if ical then { x with owedI := x.owedI - 1 } else { x with owed := x.owed - 1 }).onLaunch l fun x =>
    { x with owed := x.owed - 1 }

/-- Deliver a result where its firing's destination says: a data register takes its body, an out channel the token. A frozen plane, or a staging that is
full, lets it wait (03 R128; 08 R275, R307). -/
def State.deliver (s : State) (e : ElemAt) (ical : Bool) (op : Nat) (t : Token) : State :=
  match (s.elem e).pend.find? fun p => p.op == op with
  | none => s
  | some p =>
    let full := decide (8 ≤ p.dst.toNat ∧ p.dst.toNat < 16) && decide (stageCap ≤ (s.elem e).staged ical (Fin.ofNat 8 p.dst.toNat))
    if s.moving e.at_ ical && !full then
      let s := s.onElem e fun x => { x with pend := x.pend.filter fun p => p.op != op }
      if p.dst.toNat < 8 then s.onElem e fun x => x.setPlane ical ((x.plane ical).write p.dst t.body)
      else if p.dst.toNat < 16 then s.stage e ical (Fin.ofNat 8 p.dst.toNat) t
      else s
    else s.onRing e.at_.ring fun r => { r with heldResults := r.heldResults ++ [⟨e.key, ical, op, t⟩] }

/-- Remove operations of a ring that are not linked, and those linked ones that `w` withdraws, with what they owe and the
translations that they wait for; the wake token of an installed watch is owed by the watch. -/
def State.dropOps (s : State) (r : RingAt) (p w : MemOp → Bool) : State :=
  let x := s.ring r
  let gone := (x.arriving ++ x.waveBuf).filter p ++ x.linked.filter fun o => p o && w o
  let s := s.setRing r
    { x with
      arriving := x.arriving.filter fun o => !p o, waveBuf := x.waveBuf.filter fun o => !p o,
      linked := x.linked.filter fun o => !(p o && w o) }
  let s := s.unwait r (gone.map MemOp.id)
  (gone.filter fun o => !o.watched).foldl (fun s o =>
    State.paid (s.onElem (ElemAt.ofKey o.elem) fun e => { e with pend := e.pend.filter fun q => q.op != o.id }) (ElemAt.ofKey o.elem) o.ical o.launch) s

/-! ### Replies (01 R30) -/

/-- A reply token tries its target: the plane admits it (08 R278) and the queue has credit; none while it waits. -/
def State.tryReply (s : State) (h : HeldReply) : Option State :=
  let e := ElemAt.ofKey h.target
  let from_ := ElemAt.ofKey h.sender
  let wrap := s.crossing from_.at_ h.ical && decide (e.at_ ≠ from_.at_)
  if s.moving e.at_ h.ical && s.admits e.at_ h.ical wrap ((s.stripe from_.at_).parity h.ical) then
    (s.arrive e h.ical h.chan h.tok true false).map fun s =>
      (State.seeEos s e.at_ h.ical (8 * e.slot.val + h.chan.val) h.tok).paid from_ h.ical ((s.stripe from_.at_).conf h.ical).launch
  else none

/-- Replies of one engine class to one sender stay in their order (13 R435, 14 R454). -/
def HeldReply.follows (h g : HeldReply) : Bool := g.sender == h.sender && g.ical == h.ical && g.cls == h.cls

/-- Send a reply: to its target, or behind those that wait. -/
def State.sendReply (s : State) (h : HeldReply) : State :=
  let r := (ElemAt.ofKey h.target).at_.ring
  let wait := s.onRing r fun x => { x with heldReplies := x.heldReplies ++ [h] }
  if (s.ring r).heldReplies.any h.follows then wait else (s.tryReply h).getD wait

/-- Deliver the results of a ring that wait, in order. -/
def State.retryResults (s : State) (r : RingAt) : State :=
  (s.ring r).heldResults.foldl (fun s h => s.deliver (ElemAt.ofKey h.elem) h.ical h.op h.tok) (s.onRing r fun x => { x with heldResults := [] })

/-- Deliver the replies of a ring that can now be delivered, in order. -/
def State.retryReplies (s : State) (r : RingAt) : State :=
  let hs := (s.ring r).heldReplies
  hs.foldl (fun s h => s.sendReply h) (s.onRing r fun x => { x with heldReplies := [] })

/-- A reply of the common form (05 R217). -/
def replyBody (lane0 lane1 status mop : Nat) : Reg := mkReg .i32 3 [lane0 % 2 ^ 32, lane1 % 2 ^ 32, status % 65536, mop % 256]

def Msg.mop (m : Msg) : Nat := bits m.hdr.toNat 31 24
def Msg.cls (m : Msg) : Nat := bits m.hdr.toNat 23 20
def Msg.inst (m : Msg) : Nat := bits m.hdr.toNat 19 12

/-- The code of the fault that a refused SENDN raises, by class (05 R221, 11 R378, 13 R439, 14 R458). -/
def refusedCode (cls : Nat) : Nat := if cls = 2 then 0x34 else if cls = 4 then 0x50 else if cls = 5 then 0x60 else 0x74

/-- The element and slot that the record of a refused SENDN names: for an M-element, itself and the descriptor, which for a message that names
none is 0 (11 R378); for the other engines, the firing (log 44). -/
def Msg.refusedAt (m : Msg) (e : ElemAt) (islot : Fin 16) : ElemAt × Fin 16 :=
  if m.cls = 2 then
    (e.mate (10 + m.inst % 4), if m.mop = 4 ∨ m.mop = 5 ∨ m.mop = 8 ∨ m.mop = 9 then 0 else Fin.ofNat 16 (m.p.p0.toNat % 4))
  else (e, islot)

/-- Whether a sender's launch has been cancelled or its job terminated: its replies are discarded (01 R33, 05 R204). -/
def State.senderGone (s : State) (l : Nat) : Bool := (s.launch l).cancelled || (s.launch l).faulted || decide ((s.launch l).state = .free)

/-- Answer a message with a reply body: a token along its route, or the completion of its relay packet; a message without a route raises its engine's
fault if it is refused (05 R217). -/
def State.answerBy (s : State) (m : Msg) (status : Nat) (body : Reg) (refused : Bool) : State :=
  match m.sender with
  | .relay qid seq => s.finish qid seq status ((body.lane 0).toNat + (body.lane 1).toNat * 2 ^ 32) false
  | .elem k ical islot l ctx iter =>
    let e := ElemAt.ofKey k
    if s.senderGone l then s.paid e ical l
    else
      match m.reply with
      | some (t, c) => s.sendReply ⟨t, c, ical, ⟨body, ctx, iter, false, false, ((s.launch l).alloc e.at_.ring.die).isSpec iter⟩, k, m.cls⟩
      | none =>
        let s := s.paid e ical l
        if !refused then s
        else
          let at_ := m.refusedAt e islot
          s.elemFault at_.1 ical (some at_.2) 0 ctx iter ⟨refusedCode m.cls, m.cls, 1, m.hdr.toNat * 2 ^ 32 + status⟩

/-- Answer a message with a status, which refuses it unless it is 0: an item found complete is no refusal (01 R34, 05 R217). -/
def State.answerWith (s : State) (m : Msg) (status : Nat) (body : Reg) : State :=
  s.answerBy m status body (decide (status ≠ 0) && !(decide (m.cls = 6) && decide (status = 2)))

def State.answer (s : State) (m : Msg) (status lane0 lane1 : Nat) : State := s.answerWith m status (replyBody lane0 lane1 status m.mop)

/-- A refusal changes nothing but its answer. The manual states no results for it: its lanes 0 and 1 are free values (log 22). -/
def State.refuse (s : State) (m : Msg) (status : Nat) : State :=
  let v := (Config.freeValue s.freeCtr).toNat
  State.answer { s with freeCtr := s.freeCtr + 1 } m status (v % 2 ^ 32) (v / 2 ^ 32)

/-- The answer of an accepted message that a cancel or a termination overtakes (05 R215): no refusal. Its lanes are free values as there. -/
def State.overtake (s : State) (m : Msg) (status : Nat) : State :=
  let v := (Config.freeValue s.freeCtr).toNat
  State.answerBy { s with freeCtr := s.freeCtr + 1 } m status (replyBody (v % 2 ^ 32) (v / 2 ^ 32) status m.mop) false

/-! ### Acceptance (12 R400) -/

/-- Messages of a ring that its stream engine holds (13 R435) and that its sparse-update engine holds (14 R443). -/
def Ring.streamLoad (r : Ring) : Nat := r.streamIn.length + r.transfers.length
def Ring.sparseLoad (r : Ring) : Nat := r.sparseIn.length + r.sparse.length

/-- Put a message into the queue of the engine that its header names; none while that queue is full. -/
def State.toEngine (s : State) (e : ElemAt) (ical : Bool) (m : Msg) : Option State :=
  let r := RingAt.ofNum m.inst
  if m.cls = 2 then
    let t := e.mate (10 + m.inst % 4)
    let q := if ical then (s.elem t).msgqI else (s.elem t).msgq
    if q.length < 4 then
      some (s.onElem t fun x => if ical then { x with msgqI := x.msgqI ++ [m] } else { x with msgq := x.msgq ++ [m] })
    else none
  else if m.cls = 4 then
    if (s.ring r).streamLoad < 128 then some (s.onRing r fun x => { x with streamIn := x.streamIn ++ [m] }) else none
  else if m.cls = 5 then
    if (s.ring r).sparseLoad < 64 then some (s.onRing r fun x => { x with sparseIn := x.sparseIn ++ [m] }) else none
  else some (s.onRing r fun x => { x with procIn := x.procIn ++ [m] })

end Sys2Proof.Machine
end

