-- ==== Sys2Proof/WellFormed.lean ====
section
/-! DEFINITION. Which terms of Instr are instructions an encoding can carry: the selects, operand classes, tag actions and
fields that 02 R57-R59, R63, R68 and 04 R143-R149 admit. What depends on the rest of an image (its header, literals, triggers and
routes) is checked by the loader (Machine/Loader.lean). -/

namespace Sys2Proof

/-- 02 R57: source selects 29-31 are refused. -/
def srcWf (a : BitVec 5) : Bool := decide (a.toNat ≤ 28)

/-- 02 R57: destination selects 25-31 are refused. -/
def dstWf (d : BitVec 5) : Bool := decide (d.toNat ≤ 24)

/-- 02 R58: an accumulating opcode names a data register. -/
def accWf (d : BitVec 5) : Bool := decide (d.toNat ≤ 7)

/-- 02 R63: tag actions 14 and 15 are refused. -/
def tagWf (t : BitVec 4) : Bool := decide (t.toNat ≤ 13)

/-- 02 R68: a message base is 0, 1 or 2. -/
def msgWf (m : BitVec 2) : Bool := decide (m.toNat ≤ 2)

/-- 02 R57: the select is a matched channel head. -/
def isChan (a : BitVec 5) : Bool := decide (8 ≤ a.toNat) && decide (a.toNat ≤ 15)

/-- 02 R59: an instruction that peeks reads a channel. -/
def peekWf (q : Bool) (a b : BitVec 5) : Bool := !q || isChan a || isChan b

/-- 04 R143: no feature bit is offered, and RSCOPE 6 and 7 are refused. -/
def PktHead.wf (h : PktHead) : Bool := decide (h.feat = 0) && decide (h.rscope.toNat ≤ 5)

/-- 04 R145: the image and the argument block are 64-byte aligned. -/
def LaunchBody.wf (b : LaunchBody) : Bool := decide (b.ioff.toNat % 64 = 0) && decide (b.aoff.toNat % 64 = 0)

/-- 04 R136: the rings are 64-byte aligned. A size out of range is refused under R148. -/
def QnewBody.wf (b : QnewBody) : Bool := decide (b.rbase.toNat % 64 = 0) && decide (b.cbase.toNat % 64 = 0)

/-- 04 R146: LEVEL is 1 to 4, and at LEVEL 1 the LAUNCH stands within 32,767 before SEQ. -/
def levelWf (h : PktHead) (level : BitVec 3) (lseq : BitVec 16) : Bool :=
  decide (1 ≤ level.toNat) && decide (level.toNat ≤ 4) &&
    (decide (level.toNat ≠ 1) ||
      (decide (1 ≤ (h.seq - lseq).toNat) && decide ((h.seq - lseq).toNat ≤ 32767)))

/-- 04 R148: a resource table is 64-byte aligned and lies in the firmware carve-out (16 R478). -/
def rtbaseWf (b : Dword) : Bool :=
  decide (b.toNat % 64 = 0) && decide (0x8C_0000_0000 ≤ b.toNat) && decide (b.toNat < 0x90_0000_0000)

/-- The well-formed instructions. An event of an engine carries no encoding and is well formed throughout. -/
def Instr.wf : Instr → Bool
  | .mov a d t q => srcWf a && dstWf d && tagWf t && peekWf q a 24
  | .mov2 a d e t q => srcWf a && dstWf d && dstWf e && tagWf t && peekWf q a 24
  | .movp a b d e t q => srcWf a && srcWf b && dstWf d && dstWf e && tagWf t && peekWf q a b
  | .sel a b d t q => srcWf a && srcWf b && dstWf d && tagWf t && peekWf q a b
  | .setvl a b d t q => srcWf a && srcWf b && dstWf d && tagWf t && peekWf q a b
  | .bcast a b d t q => srcWf a && srcWf b && dstWf d && tagWf t && peekWf q a b
  | .add a b d t q => srcWf a && srcWf b && dstWf d && tagWf t && peekWf q a b
  | .sub a b d t q => srcWf a && srcWf b && dstWf d && tagWf t && peekWf q a b
  | .mul a b d t q => srcWf a && srcWf b && dstWf d && tagWf t && peekWf q a b
  | .mulh a b d t q => srcWf a && srcWf b && dstWf d && tagWf t && peekWf q a b
  | .mad a b d t q => srcWf a && srcWf b && accWf d && tagWf t && peekWf q a b
  | .neg a d t q => srcWf a && dstWf d && tagWf t && peekWf q a 24
  | .abs a d t q => srcWf a && dstWf d && tagWf t && peekWf q a 24
  | .min a b d t q => srcWf a && srcWf b && dstWf d && tagWf t && peekWf q a b
  | .max a b d t q => srcWf a && srcWf b && dstWf d && tagWf t && peekWf q a b
  | .andV a b d t q => srcWf a && srcWf b && dstWf d && tagWf t && peekWf q a b
  | .orV a b d t q => srcWf a && srcWf b && dstWf d && tagWf t && peekWf q a b
  | .xorV a b d t q => srcWf a && srcWf b && dstWf d && tagWf t && peekWf q a b
  | .andn a b d t q => srcWf a && srcWf b && dstWf d && tagWf t && peekWf q a b
  | .notV a d t q => srcWf a && dstWf d && tagWf t && peekWf q a 24
  | .shl a b d t q => srcWf a && srcWf b && dstWf d && tagWf t && peekWf q a b
  | .shr a b d t q => srcWf a && srcWf b && dstWf d && tagWf t && peekWf q a b
  | .sar a b d t q => srcWf a && srcWf b && dstWf d && tagWf t && peekWf q a b
  | .popc a d t q => srcWf a && dstWf d && tagWf t && peekWf q a 24
  | .clz a d t q => srcWf a && dstWf d && tagWf t && peekWf q a 24
  | .cmpeq a b d t q => srcWf a && srcWf b && dstWf d && tagWf t && peekWf q a b
  | .cmpne a b d t q => srcWf a && srcWf b && dstWf d && tagWf t && peekWf q a b
  | .cmplt a b d t q => srcWf a && srcWf b && dstWf d && tagWf t && peekWf q a b
  | .cmple a b d t q => srcWf a && srcWf b && dstWf d && tagWf t && peekWf q a b
  | .cmpltu a b d t q => srcWf a && srcWf b && dstWf d && tagWf t && peekWf q a b
  | .anynz a d t q => srcWf a && dstWf d && tagWf t && peekWf q a 24
  | .allnz a d t q => srcWf a && dstWf d && tagWf t && peekWf q a 24
  | .fadd a b d t q => srcWf a && srcWf b && dstWf d && tagWf t && peekWf q a b
  | .fsub a b d t q => srcWf a && srcWf b && dstWf d && tagWf t && peekWf q a b
  | .fmul a b d t q => srcWf a && srcWf b && dstWf d && tagWf t && peekWf q a b
  | .fma a b d t q => srcWf a && srcWf b && accWf d && tagWf t && peekWf q a b
  | .fnma a b d t q => srcWf a && srcWf b && accWf d && tagWf t && peekWf q a b
  | .fmin a b d t q => srcWf a && srcWf b && dstWf d && tagWf t && peekWf q a b
  | .fmax a b d t q => srcWf a && srcWf b && dstWf d && tagWf t && peekWf q a b
  | .fabs a d t q => srcWf a && dstWf d && tagWf t && peekWf q a 24
  | .fneg a d t q => srcWf a && dstWf d && tagWf t && peekWf q a 24
  | .rcp a d t q => srcWf a && dstWf d && tagWf t && peekWf q a 24
  | .rsq a d t q => srcWf a && dstWf d && tagWf t && peekWf q a 24
  | .sqrt a d t q => srcWf a && dstWf d && tagWf t && peekWf q a 24
  | .exp2 a d t q => srcWf a && dstWf d && tagWf t && peekWf q a 24
  | .log2 a d t q => srcWf a && dstWf d && tagWf t && peekWf q a 24
  | .tanh a d t q => srcWf a && dstWf d && tagWf t && peekWf q a 24
  | .sigm a d t q => srcWf a && dstWf d && tagWf t && peekWf q a 24
  | .rsum a d t q => srcWf a && dstWf d && tagWf t && peekWf q a 24
  | .rmax a d t q => srcWf a && dstWf d && tagWf t && peekWf q a 24
  | .rmin a d t q => srcWf a && dstWf d && tagWf t && peekWf q a 24
  | .ramax a d t q => srcWf a && dstWf d && tagWf t && peekWf q a 24
  | .shuf a b d t q => srcWf a && srcWf b && dstWf d && tagWf t && peekWf q a b
  | .rot a b d t q => srcWf a && srcWf b && dstWf d && tagWf t && peekWf q a b
  | .extr a b d t q => srcWf a && srcWf b && dstWf d && tagWf t && peekWf q a b
  | .ins a b d t q => srcWf a && srcWf b && accWf d && tagWf t && peekWf q a b
  | .cvt a d t q => srcWf a && dstWf d && tagWf t && peekWf q a 24
  | .qnt a d t q => srcWf a && dstWf d && tagWf t && peekWf q a 24
  | .dqnt a d t q => srcWf a && dstWf d && tagWf t && peekWf q a 24
  | .sbind a b d t q => srcWf a && srcWf b && dstWf d && tagWf t && peekWf q a b
  | .srel a t q => srcWf a && tagWf t && peekWf q a 24
  | .spow2 a b d t q => srcWf a && srcWf b && dstWf d && tagWf t && peekWf q a b
  | .sadde a b d t q => srcWf a && srcWf b && dstWf d && tagWf t && peekWf q a b
  | .smax a b d t q => srcWf a && srcWf b && dstWf d && tagWf t && peekWf q a b
  | .sprod a b d t q => srcWf a && srcWf b && dstWf d && tagWf t && peekWf q a b
  | .srenorm a b d t q => srcWf a && srcWf b && dstWf d && tagWf t && peekWf q a b
  | .sldcb a b t q => srcWf a && srcWf b && tagWf t && peekWf q a b
  | .amaxrd d t => dstWf d && tagWf t
  | .amaxclr t => tagWf t
  | .exit a d t q => srcWf a && dstWf d && tagWf t && peekWf q a 24
  | .drop a b t q => srcWf a && srcWf b && tagWf t && peekWf q a b
  | .trap a t q => srcWf a && tagWf t && peekWf q a 24
  | .seed a t q => srcWf a && tagWf t && peekWf q a 24
  | .rand d t => dstWf d && tagWf t
  | .ld a d _ t q => srcWf a && dstWf d && tagWf t && peekWf q a 24
  | .st a b d _ t q => srcWf a && srcWf b && dstWf d && tagWf t && peekWf q a b
  | .ldv a b d _ t q => srcWf a && srcWf b && dstWf d && tagWf t && peekWf q a b
  | .stv a b d _ t q => srcWf a && srcWf b && dstWf d && tagWf t && peekWf q a b
  | .recl a b d _ t q => srcWf a && srcWf b && dstWf d && tagWf t && peekWf q a b
  | .gath a d _ t q => srcWf a && dstWf d && tagWf t && peekWf q a 24
  | .scat a b d _ t q => srcWf a && srcWf b && dstWf d && tagWf t && peekWf q a b
  | .pref a _ t q => srcWf a && tagWf t && peekWf q a 24
  | .fence d _ t => dstWf d && tagWf t
  | .fencex d _ t => dstWf d && tagWf t
  | .waita a b _ _ t q => srcWf a && srcWf b && tagWf t && peekWf q a b
  | .waitc a d _ t q => srcWf a && dstWf d && tagWf t && peekWf q a 24
  | .launch a d m t q => srcWf a && dstWf d && msgWf m && tagWf t && peekWf q a 24
  | .signal a b d _ t q => srcWf a && srcWf b && dstWf d && tagWf t && peekWf q a b
  | .tkt _ d t _ => dstWf d && tagWf t
  | .grant a d t q => srcWf a && dstWf d && tagWf t && peekWf q a 24
  | .reply a _ t q => srcWf a && tagWf t && peekWf q a 24
  | .send a d m t q => srcWf a && dstWf d && msgWf m && tagWf t && peekWf q a 24
  | .sendn a m t q => srcWf a && msgWf m && tagWf t && peekWf q a 24
  | .jMov a d t q => srcWf a && dstWf d && tagWf t && peekWf q a 24
  | .jMov2 a d e t q => srcWf a && dstWf d && dstWf e && tagWf t && peekWf q a 24
  | .jAdd a b d t q => srcWf a && srcWf b && dstWf d && tagWf t && peekWf q a b
  | .jSub a b d t q => srcWf a && srcWf b && dstWf d && tagWf t && peekWf q a b
  | .jAnd a b d t q => srcWf a && srcWf b && dstWf d && tagWf t && peekWf q a b
  | .jShl a b d t q => srcWf a && srcWf b && dstWf d && tagWf t && peekWf q a b
  | .jCmpeq a b d t q => srcWf a && srcWf b && dstWf d && tagWf t && peekWf q a b
  | .jCmplt a b d t q => srcWf a && srcWf b && dstWf d && tagWf t && peekWf q a b
  | .jExit a d t q => srcWf a && dstWf d && tagWf t && peekWf q a 24
  | .jDrop a b t q => srcWf a && srcWf b && tagWf t && peekWf q a b
  | .jTrap a t q => srcWf a && tagWf t && peekWf q a 24
  | .fwait .. => true
  | .flatch .. => true
  | .fpost .. => true
  | .fqmap .. => true
  | .fqdemap .. => true
  | .fseqchk .. => true
  | .flaunch .. => true
  | .fvigil .. => true
  | .feKick .. => true
  | .feCack .. => true
  | .pktNop h => h.wf
  | .pktLaunch h b => h.wf && b.wf
  | .pktWait h addr _ op => h.wf && decide (addr.toNat % 8 = 0) && decide (op.toNat ≤ 2)
  | .pktSignal h addr _ op => h.wf && decide (addr.toNat % 8 = 0) && decide (op.toNat ≤ 1)
  | .pktCancel h level lseq _ => h.wf && levelWf h level lseq
  | .pktCount h level lseq _ => h.wf && levelWf h level lseq
  | .phase h tinst _ => h.wf && decide (tinst.toNat < 16)
  | .evict h tinst _ => h.wf && decide (tinst.toNat < 16)
  | .restore h tinst _ => h.wf && decide (tinst.toNat < 16)
  | .compact h tinst _ => h.wf && decide (tinst.toNat < 16)
  | .almanac h tinst _ => h.wf && decide (tinst.toNat < 16)
  | .almread h tinst _ => h.wf && decide (tinst.toNat < 16)
  | .wswrite h tinst _ => h.wf && decide (tinst.toNat < 16)
  | .reswrite h tinst _ => h.wf && decide (tinst.toNat < 16)
  | .prefetch h tinst _ => h.wf && decide (tinst.toNat < 16)
  | .eqwait h tinst _ => h.wf && decide (tinst.toNat < 16)
  | .status h tinst _ => h.wf && decide (tinst.toNat < 16)
  | .ctxnew h _ _ rtbase _ _ => h.wf && rtbaseWf rtbase
  | .ctxfree h _ => h.wf
  | .qnew h b => h.wf && b.wf
  | .qfree h _ => h.wf
  | .watchMet .. => true
  | .vigilExpiry .. => true
  | .faultBufferEnter => true
  | .firmwareRestartReset => true
  | .dieWake => true
  | .plaunch .. => true
  | .pcancel .. => true
  | .pcount .. => true
  | .pphase .. => true
  | .pevict .. => true
  | .prestore .. => true
  | .pcompact .. => true
  | .palmw .. => true
  | .palmr .. => true
  | .pwsw .. => true
  | .prsw .. => true
  | .ppref .. => true
  | .peqwait .. => true
  | .pstat .. => true
  | .dispatchBind => true
  | .ingressListCheck .. => true
  | .ingressFirstToken .. => true
  | .configFetch .. => true
  | .configLoad .. => true
  | .stripeSwap => true
  | .stateSave .. => true
  | .stateRestore .. => true
  | .cohortEntry .. => true
  | .procStrayToken => true
  | .procMissingExit => true
  | .equinox .. => true
  | .phaseBoundary .. => true
  | .almanacUpdate => true
  | .intercalarySwitch => true
  | .intercalaryReturn => true
  | .launchComplete .. => true
  | .cancelComplete .. => true
  | .tokenArrival .. => true
  | .steerDelivery .. => true
  | .killAbsorb .. => true
  | .matchStep .. => true
  | .iterKillSweep .. => true
  | .windowAdvance .. => true
  | .storePark .. => true
  | .parkedStoreIssue .. => true
  | .quantumCommit .. => true
  | .jnIsbDeadlock .. => true
  | .sclExhausted => true
  | .xltTimeout => true
  | .translationComplete .. => true
  | .priResponse .. => true
  | .atsInvalidation .. => true
  | .waveLink => true
  | .memWave => true
  | .memoryReply .. => true
  | .ldvVersionMet .. => true
  | .watchCheck .. => true
  | .messageAccept .. => true
  | .uncorrectableError .. => true
  | .eccCorrected => true
  | .patrolScrub .. => true
  | .slabLoad .. => true
  | .slabPiece .. => true
  | .mxRowPick .. => true
  | .mxRowCommit .. => true
  | .mxRowDrain .. => true
  | .mxKillAbsorb .. => true
  | .mxcfg .. => true
  | .mxtile .. => true
  | .mxkcnt .. => true
  | .mxdrain .. => true
  | .mxclracc .. => true
  | .mxcb .. => true
  | .mxamax .. => true
  | .mxrdacc .. => true
  | .mxfill .. => true
  | .mxfmt .. => true
  | .mxrnd .. => true
  | .mxstat .. => true
  | .sopen .. => true
  | .sclose .. => true
  | .srdh .. => true
  | .swrh .. => true
  | .scopy .. => true
  | .sstride .. => true
  | .sgath .. => true
  | .sscat .. => true
  | .sldbs .. => true
  | .ssync .. => true
  | .ssyncw .. => true
  | .singress .. => true
  | .sstat .. => true
  | .sabort .. => true
  | .ssyncMet .. => true
  | .streamTransferDone .. => true
  | .portDeliver .. => true
  | .uadd .. => true
  | .ufadd .. => true
  | .umax .. => true
  | .umin .. => true
  | .uor .. => true
  | .uand .. => true
  | .uxchg .. => true
  | .ucas .. => true
  | .uorder .. => true
  | .uflush .. => true
  | .updateExpand => true
  | .windowIssue => true
  | .flitReceive => true
  | .linkRetrain => true
  | .retrainComplete => true
  | .retrainHold => true
  | .lnkRetrainFail => true
  | .allocGrantRemote .. => true
  | .coldReset => true
  | .bootgo => true
  | .fwrestart => true
  | .gate => true
  | .keyLoad .. => true
  | .keyRetire .. => true
  | .hdmCommit .. => true
  | .hostHbmAccess .. => true
  | .islandRetention .. => true
  | .thermalThrottle .. => true
  | .devThermal => true
  | .pldmFirmwareUpdate .. => true
  | .spdmGetVersion => true
  | .spdmGetCapabilities => true
  | .spdmNegotiateAlgorithms => true
  | .spdmGetDigests => true
  | .spdmGetCertificate .. => true
  | .spdmChallenge .. => true
  | .spdmGetMeasurements .. => true
  | .spdmKeyExchange .. => true
  | .spdmFinish .. => true
  | .pldmSensorRead .. => true
  | .registerWrite .. => true
  | .pathFAccess .. => true
  | .illegalInstruction .. => true
  | .sparseUpdatePerformed => true

end Sys2Proof
end

