-- ==== Sys2Proof/Decode.lean ====
section
/-! DEFINITION. The decoder of every encoding of the spec (02 R57-R79, 04 R143-R149), total and rejecting by name, and the encoder
written from the same tables. -/

namespace Sys2Proof

/-- Why a decoder refuses (02 R64, 04 R151). -/
inductive DecodeError where
  | badOpcode     -- IMG_BAD_OPCODE
  | badSelect     -- IMG_BAD_SELECT
  | badOperand    -- IMG_BAD_OPERAND
  | badTagact     -- IMG_BAD_TAGACT
  | notCustom     -- no word of the custom opcodes: an instruction of the RISC-V base (04 R132, log 12)
  | badVersion    -- PKT_BAD_VERSION
  | badFeature    -- PKT_BAD_FEATURE
  | badType       -- PKT_BAD_TYPE
  | badField      -- PKT_BAD_FIELD
  | badMessage    -- an unassigned MOP, or a class that accepts no messages (02 R73)
  | truncated     -- too few bytes for an encoding
  deriving DecidableEq, Repr

/-- The statuses of 02 R64 and 04 R151. -/
def DecodeError.status : DecodeError → Nat
  | .badOpcode => 0x0105
  | .badSelect => 0x0106
  | .badOperand => 0x0107
  | .badTagact => 0x0108
  | .notCustom => 0
  | .badVersion => 0x0202
  | .badFeature => 0x0203
  | .badType => 0x0201
  | .badField => 0x0204
  | .badMessage => 0x010D
  | .truncated => 0

/-! ### Bit fields and byte order (00 R5) -/

/-- The field of `n` bits of `w` whose lowest bit is `lo` (00 R13 bits). -/
def fld (w lo n : Nat) : Nat := w / 2 ^ lo % 2 ^ n

/-- The number that little-endian bytes stand for. -/
def leNat : List Byte → Nat
  | [] => 0
  | b :: bs => b.toNat + 256 * leNat bs

/-- `n` little-endian bytes of a number. -/
def leBytes : (n : Nat) → Nat → List Byte
  | 0, _ => []
  | n + 1, x => BitVec.ofNat 8 (x % 256) :: leBytes n (x / 256)

/-! ### The instruction word (02 R57) -/

/-- The fields of an instruction word, as numbers. -/
structure Fields where
  opc : Nat
  a : Nat
  b : Nat
  d : Nat
  e : Nat
  t : Nat
  q : Nat
  deriving DecidableEq, Repr

def fieldsOf (w : Word) : Fields :=
  ⟨fld w.toNat 25 7, fld w.toNat 20 5, fld w.toNat 15 5, fld w.toNat 10 5, fld w.toNat 5 5, fld w.toNat 1 4, fld w.toNat 0 1⟩

/-- The word of R312: the fields shifted to their places. -/
def mkWord (opc a b d e t q : Nat) : Word :=
  BitVec.ofNat 32 ((((((opc * 32 + a) * 32 + b) * 32 + d) * 32 + e) * 16 + t) * 2 + q)

def Fields.a5 (x : Fields) : BitVec 5 := .ofNat 5 x.a
def Fields.a3 (x : Fields) : BitVec 3 := .ofNat 3 (x.a - 8)
def Fields.b5 (x : Fields) : BitVec 5 := .ofNat 5 x.b
def Fields.d5 (x : Fields) : BitVec 5 := .ofNat 5 x.d
def Fields.d3 (x : Fields) : BitVec 3 := .ofNat 3 (x.d - 8)
def Fields.e5 (x : Fields) : BitVec 5 := .ofNat 5 x.e
def Fields.m2 (x : Fields) : BitVec 2 := .ofNat 2 x.e
def Fields.t4 (x : Fields) : BitVec 4 := .ofNat 4 x.t
def Fields.q1 (x : Fields) : Bool := x.q == 1

/-- How an opcode uses SRCA: not at all, any source, or a channel only (12 R402). -/
inductive SrcUse where
  | none | any | chan
  deriving DecidableEq, Repr

/-- How an opcode uses DSTA: not at all, any destination, a data register it also reads (dA+), or an out channel only. -/
inductive DstUse where
  | none | any | acc | out
  deriving DecidableEq, Repr

/-- How an opcode uses DSTB: not at all, a second result, a descriptor select or a message base (02 R68). -/
inductive DstbUse where
  | none | any | desc | msg
  deriving DecidableEq, Repr

/-- The operand columns of 02 R66 and R67. -/
structure Form where
  a : SrcUse
  b : Bool
  d : DstUse
  e : DstbUse
  deriving DecidableEq, Repr

/-- 02 R57: IMG_BAD_SELECT. -/
def Form.selectOk (f : Form) (x : Fields) : Bool :=
  decide (x.a ≤ 28) && decide (x.b ≤ 28) && decide (x.d ≤ 24) &&
    (decide (f.e = .desc) || decide (f.e = .msg) || decide (x.e ≤ 24))

/-- 02 R58: operand A. -/
def SrcUse.ok : SrcUse → Nat → Bool
  | .none, a => decide (a = 24)
  | .any, _ => true
  | .chan, a => decide (8 ≤ a) && decide (a ≤ 15)

/-- 02 R58: result A. -/
def DstUse.ok : DstUse → Nat → Bool
  | .none, d => decide (d = 24)
  | .any, _ => true
  | .acc, d => decide (d ≤ 7)
  | .out, d => decide (8 ≤ d) && decide (d ≤ 15)

/-- 02 R58, R68: result B, descriptor select or message base. -/
def DstbUse.ok : DstbUse → Nat → Bool
  | .none, e => decide (e = 24)
  | .any, _ => true
  | .desc, e => decide (e ≤ 3)
  | .msg, e => decide (e ≤ 2)

/-- The select is a matched channel head (02 R57). -/
def chanSel (a : Nat) : Bool := decide (8 ≤ a) && decide (a ≤ 15)

/-- 02 R58, R59: IMG_BAD_OPERAND. -/
def Form.operandOk (f : Form) (x : Fields) : Bool :=
  f.a.ok x.a && (f.b || decide (x.b = 24)) && f.d.ok x.d && f.e.ok x.e &&
    (decide (x.q = 0) || (decide (f.a ≠ .none) && chanSel x.a) || (f.b && chanSel x.b))

/-- The lowest refusal of a word under its opcode's form (02 R65). -/
def Form.refusal (f : Form) (x : Fields) : Option DecodeError :=
  if f.selectOk x = false then some .badSelect
  else if f.operandOk x = false then some .badOperand
  else if 14 ≤ x.t then some .badTagact
  else none

/-- 02 R66: the V page. -/
def vRow (x : Fields) : Option (Form × Instr) :=
  match x.opc with
  | 0x00 => some (⟨.any, false, .any, .none⟩, .mov x.a5 x.d5 x.t4 x.q1)
  | 0x01 => some (⟨.any, false, .any, .any⟩, .mov2 x.a5 x.d5 x.e5 x.t4 x.q1)
  | 0x02 => some (⟨.any, true, .any, .any⟩, .movp x.a5 x.b5 x.d5 x.e5 x.t4 x.q1)
  | 0x03 => some (⟨.any, true, .any, .none⟩, .sel x.a5 x.b5 x.d5 x.t4 x.q1)
  | 0x04 => some (⟨.any, true, .any, .none⟩, .setvl x.a5 x.b5 x.d5 x.t4 x.q1)
  | 0x05 => some (⟨.any, true, .any, .none⟩, .bcast x.a5 x.b5 x.d5 x.t4 x.q1)
  | 0x08 => some (⟨.any, true, .any, .none⟩, .add x.a5 x.b5 x.d5 x.t4 x.q1)
  | 0x09 => some (⟨.any, true, .any, .none⟩, .sub x.a5 x.b5 x.d5 x.t4 x.q1)
  | 0x0A => some (⟨.any, true, .any, .none⟩, .mul x.a5 x.b5 x.d5 x.t4 x.q1)
  | 0x0B => some (⟨.any, true, .any, .none⟩, .mulh x.a5 x.b5 x.d5 x.t4 x.q1)
  | 0x0C => some (⟨.any, true, .acc, .none⟩, .mad x.a5 x.b5 x.d5 x.t4 x.q1)
  | 0x0D => some (⟨.any, false, .any, .none⟩, .neg x.a5 x.d5 x.t4 x.q1)
  | 0x0E => some (⟨.any, false, .any, .none⟩, .abs x.a5 x.d5 x.t4 x.q1)
  | 0x0F => some (⟨.any, true, .any, .none⟩, .min x.a5 x.b5 x.d5 x.t4 x.q1)
  | 0x10 => some (⟨.any, true, .any, .none⟩, .max x.a5 x.b5 x.d5 x.t4 x.q1)
  | 0x18 => some (⟨.any, true, .any, .none⟩, .andV x.a5 x.b5 x.d5 x.t4 x.q1)
  | 0x19 => some (⟨.any, true, .any, .none⟩, .orV x.a5 x.b5 x.d5 x.t4 x.q1)
  | 0x1A => some (⟨.any, true, .any, .none⟩, .xorV x.a5 x.b5 x.d5 x.t4 x.q1)
  | 0x1B => some (⟨.any, true, .any, .none⟩, .andn x.a5 x.b5 x.d5 x.t4 x.q1)
  | 0x1C => some (⟨.any, false, .any, .none⟩, .notV x.a5 x.d5 x.t4 x.q1)
  | 0x1D => some (⟨.any, true, .any, .none⟩, .shl x.a5 x.b5 x.d5 x.t4 x.q1)
  | 0x1E => some (⟨.any, true, .any, .none⟩, .shr x.a5 x.b5 x.d5 x.t4 x.q1)
  | 0x1F => some (⟨.any, true, .any, .none⟩, .sar x.a5 x.b5 x.d5 x.t4 x.q1)
  | 0x20 => some (⟨.any, false, .any, .none⟩, .popc x.a5 x.d5 x.t4 x.q1)
  | 0x21 => some (⟨.any, false, .any, .none⟩, .clz x.a5 x.d5 x.t4 x.q1)
  | 0x28 => some (⟨.any, true, .any, .none⟩, .cmpeq x.a5 x.b5 x.d5 x.t4 x.q1)
  | 0x29 => some (⟨.any, true, .any, .none⟩, .cmpne x.a5 x.b5 x.d5 x.t4 x.q1)
  | 0x2A => some (⟨.any, true, .any, .none⟩, .cmplt x.a5 x.b5 x.d5 x.t4 x.q1)
  | 0x2B => some (⟨.any, true, .any, .none⟩, .cmple x.a5 x.b5 x.d5 x.t4 x.q1)
  | 0x2C => some (⟨.any, true, .any, .none⟩, .cmpltu x.a5 x.b5 x.d5 x.t4 x.q1)
  | 0x2D => some (⟨.any, false, .any, .none⟩, .anynz x.a5 x.d5 x.t4 x.q1)
  | 0x2E => some (⟨.any, false, .any, .none⟩, .allnz x.a5 x.d5 x.t4 x.q1)
  | 0x30 => some (⟨.any, true, .any, .none⟩, .fadd x.a5 x.b5 x.d5 x.t4 x.q1)
  | 0x31 => some (⟨.any, true, .any, .none⟩, .fsub x.a5 x.b5 x.d5 x.t4 x.q1)
  | 0x32 => some (⟨.any, true, .any, .none⟩, .fmul x.a5 x.b5 x.d5 x.t4 x.q1)
  | 0x33 => some (⟨.any, true, .acc, .none⟩, .fma x.a5 x.b5 x.d5 x.t4 x.q1)
  | 0x34 => some (⟨.any, true, .acc, .none⟩, .fnma x.a5 x.b5 x.d5 x.t4 x.q1)
  | 0x35 => some (⟨.any, true, .any, .none⟩, .fmin x.a5 x.b5 x.d5 x.t4 x.q1)
  | 0x36 => some (⟨.any, true, .any, .none⟩, .fmax x.a5 x.b5 x.d5 x.t4 x.q1)
  | 0x37 => some (⟨.any, false, .any, .none⟩, .fabs x.a5 x.d5 x.t4 x.q1)
  | 0x38 => some (⟨.any, false, .any, .none⟩, .fneg x.a5 x.d5 x.t4 x.q1)
  | 0x40 => some (⟨.any, false, .any, .none⟩, .rcp x.a5 x.d5 x.t4 x.q1)
  | 0x41 => some (⟨.any, false, .any, .none⟩, .rsq x.a5 x.d5 x.t4 x.q1)
  | 0x42 => some (⟨.any, false, .any, .none⟩, .sqrt x.a5 x.d5 x.t4 x.q1)
  | 0x43 => some (⟨.any, false, .any, .none⟩, .exp2 x.a5 x.d5 x.t4 x.q1)
  | 0x44 => some (⟨.any, false, .any, .none⟩, .log2 x.a5 x.d5 x.t4 x.q1)
  | 0x45 => some (⟨.any, false, .any, .none⟩, .tanh x.a5 x.d5 x.t4 x.q1)
  | 0x46 => some (⟨.any, false, .any, .none⟩, .sigm x.a5 x.d5 x.t4 x.q1)
  | 0x48 => some (⟨.any, false, .any, .none⟩, .rsum x.a5 x.d5 x.t4 x.q1)
  | 0x49 => some (⟨.any, false, .any, .none⟩, .rmax x.a5 x.d5 x.t4 x.q1)
  | 0x4A => some (⟨.any, false, .any, .none⟩, .rmin x.a5 x.d5 x.t4 x.q1)
  | 0x4B => some (⟨.any, false, .any, .none⟩, .ramax x.a5 x.d5 x.t4 x.q1)
  | 0x4C => some (⟨.any, true, .any, .none⟩, .shuf x.a5 x.b5 x.d5 x.t4 x.q1)
  | 0x4D => some (⟨.any, true, .any, .none⟩, .rot x.a5 x.b5 x.d5 x.t4 x.q1)
  | 0x4E => some (⟨.any, true, .any, .none⟩, .extr x.a5 x.b5 x.d5 x.t4 x.q1)
  | 0x4F => some (⟨.any, true, .acc, .none⟩, .ins x.a5 x.b5 x.d5 x.t4 x.q1)
  | 0x50 => some (⟨.any, false, .any, .none⟩, .cvt x.a5 x.d5 x.t4 x.q1)
  | 0x51 => some (⟨.any, false, .any, .none⟩, .qnt x.a5 x.d5 x.t4 x.q1)
  | 0x52 => some (⟨.any, false, .any, .none⟩, .dqnt x.a5 x.d5 x.t4 x.q1)
  | 0x60 => some (⟨.any, true, .any, .none⟩, .sbind x.a5 x.b5 x.d5 x.t4 x.q1)
  | 0x61 => some (⟨.any, false, .none, .none⟩, .srel x.a5 x.t4 x.q1)
  | 0x62 => some (⟨.any, true, .any, .none⟩, .spow2 x.a5 x.b5 x.d5 x.t4 x.q1)
  | 0x63 => some (⟨.any, true, .any, .none⟩, .sadde x.a5 x.b5 x.d5 x.t4 x.q1)
  | 0x64 => some (⟨.any, true, .any, .none⟩, .smax x.a5 x.b5 x.d5 x.t4 x.q1)
  | 0x65 => some (⟨.any, true, .any, .none⟩, .sprod x.a5 x.b5 x.d5 x.t4 x.q1)
  | 0x66 => some (⟨.any, true, .any, .none⟩, .srenorm x.a5 x.b5 x.d5 x.t4 x.q1)
  | 0x67 => some (⟨.any, true, .none, .none⟩, .sldcb x.a5 x.b5 x.t4 x.q1)
  | 0x68 => some (⟨.none, false, .any, .none⟩, .amaxrd x.d5 x.t4)
  | 0x69 => some (⟨.none, false, .none, .none⟩, .amaxclr x.t4)
  | 0x70 => some (⟨.any, false, .any, .none⟩, .exit x.a5 x.d5 x.t4 x.q1)
  | 0x71 => some (⟨.any, true, .none, .none⟩, .drop x.a5 x.b5 x.t4 x.q1)
  | 0x72 => some (⟨.any, false, .none, .none⟩, .trap x.a5 x.t4 x.q1)
  | 0x73 => some (⟨.any, false, .none, .none⟩, .seed x.a5 x.t4 x.q1)
  | 0x74 => some (⟨.none, false, .any, .none⟩, .rand x.d5 x.t4)
  | _ => none

/-- 02 R67: the J page. -/
def jRow (x : Fields) : Option (Form × Instr) :=
  match x.opc with
  | 0x00 => some (⟨.any, false, .any, .desc⟩, .ld x.a5 x.d5 x.m2 x.t4 x.q1)
  | 0x01 => some (⟨.any, true, .any, .desc⟩, .st x.a5 x.b5 x.d5 x.m2 x.t4 x.q1)
  | 0x02 => some (⟨.any, true, .any, .desc⟩, .ldv x.a5 x.b5 x.d5 x.m2 x.t4 x.q1)
  | 0x03 => some (⟨.any, true, .any, .desc⟩, .stv x.a5 x.b5 x.d5 x.m2 x.t4 x.q1)
  | 0x04 => some (⟨.any, true, .any, .desc⟩, .recl x.a5 x.b5 x.d5 x.m2 x.t4 x.q1)
  | 0x05 => some (⟨.any, false, .any, .desc⟩, .gath x.a5 x.d5 x.m2 x.t4 x.q1)
  | 0x06 => some (⟨.any, true, .any, .desc⟩, .scat x.a5 x.b5 x.d5 x.m2 x.t4 x.q1)
  | 0x07 => some (⟨.any, false, .none, .desc⟩, .pref x.a5 x.m2 x.t4 x.q1)
  | 0x08 => some (⟨.none, false, .any, .desc⟩, .fence x.d5 x.m2 x.t4)
  | 0x09 => some (⟨.none, false, .any, .desc⟩, .fencex x.d5 x.m2 x.t4)
  | 0x0A => some (⟨.any, true, .out, .desc⟩, .waita x.a5 x.b5 x.d3 x.m2 x.t4 x.q1)
  | 0x0B => some (⟨.any, false, .any, .desc⟩, .waitc x.a5 x.d5 x.m2 x.t4 x.q1)
  | 0x0C => some (⟨.any, false, .any, .msg⟩, .launch x.a5 x.d5 x.m2 x.t4 x.q1)
  | 0x0D => some (⟨.any, true, .any, .desc⟩, .signal x.a5 x.b5 x.d5 x.m2 x.t4 x.q1)
  | 0x10 => some (⟨.chan, false, .any, .none⟩, .tkt x.a3 x.d5 x.t4 x.q1)
  | 0x11 => some (⟨.any, false, .any, .none⟩, .grant x.a5 x.d5 x.t4 x.q1)
  | 0x12 => some (⟨.any, false, .out, .none⟩, .reply x.a5 x.d3 x.t4 x.q1)
  | 0x14 => some (⟨.any, false, .any, .msg⟩, .send x.a5 x.d5 x.m2 x.t4 x.q1)
  | 0x15 => some (⟨.any, false, .none, .msg⟩, .sendn x.a5 x.m2 x.t4 x.q1)
  | 0x18 => some (⟨.any, false, .any, .none⟩, .jMov x.a5 x.d5 x.t4 x.q1)
  | 0x19 => some (⟨.any, false, .any, .any⟩, .jMov2 x.a5 x.d5 x.e5 x.t4 x.q1)
  | 0x1A => some (⟨.any, true, .any, .none⟩, .jAdd x.a5 x.b5 x.d5 x.t4 x.q1)
  | 0x1B => some (⟨.any, true, .any, .none⟩, .jSub x.a5 x.b5 x.d5 x.t4 x.q1)
  | 0x1C => some (⟨.any, true, .any, .none⟩, .jAnd x.a5 x.b5 x.d5 x.t4 x.q1)
  | 0x1D => some (⟨.any, true, .any, .none⟩, .jShl x.a5 x.b5 x.d5 x.t4 x.q1)
  | 0x1E => some (⟨.any, true, .any, .none⟩, .jCmpeq x.a5 x.b5 x.d5 x.t4 x.q1)
  | 0x1F => some (⟨.any, true, .any, .none⟩, .jCmplt x.a5 x.b5 x.d5 x.t4 x.q1)
  | 0x20 => some (⟨.any, false, .any, .none⟩, .jExit x.a5 x.d5 x.t4 x.q1)
  | 0x21 => some (⟨.any, true, .none, .none⟩, .jDrop x.a5 x.b5 x.t4 x.q1)
  | 0x22 => some (⟨.any, false, .none, .none⟩, .jTrap x.a5 x.t4 x.q1)
  | _ => none

/-- Decoding a row of a page: refused by name, or the instruction. -/
def ofRow (x : Fields) : Option (Form × Instr) → Except DecodeError Instr
  | none => .error .badOpcode
  | some (f, i) =>
    match f.refusal x with
    | some r => .error r
    | none => .ok i

def decodeV (w : Word) : Except DecodeError Instr := ofRow (fieldsOf w) (vRow (fieldsOf w))
def decodeJ (w : Word) : Except DecodeError Instr := ofRow (fieldsOf w) (jRow (fieldsOf w))

/-! ### Front-end custom instructions (02 R78, R79; 04 R160) -/

/-- funct7 is zero and the register fields that funct3 does not use are zero (02 R78). -/
def feFieldsOk (w : Nat) : Bool :=
  let rs2 := fld w 20 5
  let rs1 := fld w 15 5
  let rd := fld w 7 5
  decide (fld w 25 7 = 0) &&
    match fld w 12 3 with
    | 0 => decide (rs2 = 0) && decide (rs1 = 0)
    | 2 => decide (rd = 0)
    | 3 => decide (rd = 0)
    | 5 => true
    | _ => decide (rs2 = 0)

/-- The custom instruction that funct3 names. -/
def feRow (w : Nat) : Instr :=
  let rs2 : BitVec 5 := .ofNat 5 (fld w 20 5)
  let rs1 : BitVec 5 := .ofNat 5 (fld w 15 5)
  let rd : BitVec 5 := .ofNat 5 (fld w 7 5)
  match fld w 12 3 with
  | 0 => .fwait rd
  | 1 => .flatch rd rs1
  | 2 => .fpost rs1 rs2
  | 3 => .fqmap rs1 rs2
  | 4 => .fqdemap rd rs1
  | 5 => .fseqchk rd rs1 rs2
  | 6 => .flaunch rd rs1
  | _ => .fvigil rd rs1

/-- 02 R78: custom-0 holds the front-end instructions; any other use of the custom opcodes is an illegal instruction. -/
def decodeFe (w : Word) : Except DecodeError Instr :=
  match fld w.toNat 0 7 with
  | 0x0B => if feFieldsOk w.toNat then .ok (feRow w.toNat) else .ok (.illegalInstruction w)
  | 0x2B => .ok (.illegalInstruction w)
  | 0x5B => .ok (.illegalInstruction w)
  | 0x7B => .ok (.illegalInstruction w)
  | _ => .error .notCustom

/-- 04 R160. -/
def mkFe (rs2 rs1 f3 rd : Nat) : Word := .ofNat 32 (((rs2 * 32 + rs1) * 8 + f3) * 4096 + rd * 128 + 0x0B)

/-! ### Packets (04 R143-R149) -/

/-- The header word of a packet: TYPE, VER 1 and the head. -/
def packHead (ty : Nat) (h : PktHead) : Dword :=
  .ofNat 64 (ty * 2 ^ 56 + 2 ^ 48 + h.seq.toNat * 2 ^ 32 + h.cmpl.toNat * 2 ^ 31 + h.barrier.toNat * 2 ^ 30 +
    h.rscope.toNat * 2 ^ 27 + h.feat.toNat * 2 ^ 16)

def unpackHead (w : Nat) : PktHead :=
  ⟨.ofNat 16 (fld w 32 16), fld w 31 1 == 1, fld w 30 1 == 1, .ofNat 3 (fld w 27 3), .ofNat 11 (fld w 16 11)⟩

def paramsOf (w2 w3 : Nat) : Params :=
  ⟨.ofNat 32 (fld w2 0 32), .ofNat 32 (fld w2 32 32), .ofNat 32 (fld w3 0 32), .ofNat 32 (fld w3 32 32)⟩

def launchBodyOf (w1 w2 w3 w4 w5 : Nat) : LaunchBody :=
  ⟨.ofNat 16 (fld w1 48 16), .ofNat 48 (fld w1 0 48), .ofNat 16 (fld w2 48 16), .ofNat 48 (fld w2 0 48), .ofNat 32 (fld w3 0 32),
    .ofNat 16 (fld w4 0 16), .ofNat 16 (fld w4 16 16), .ofNat 16 (fld w4 32 16), .ofNat 16 (fld w4 48 16),
    .ofNat 4 (fld w5 0 4), .ofNat 4 (fld w5 4 4), .ofNat 8 (fld w5 8 8)⟩

def qnewBodyOf (w1 w2 w3 w4 : Nat) : QnewBody :=
  ⟨.ofNat 20 (fld w1 0 20), .ofNat 20 (fld w1 20 20), fld w1 40 1 == 1, .ofNat 4 (fld w1 41 4), .ofNat 4 (fld w1 45 4),
    .ofNat 64 w2, .ofNat 64 w3, .ofNat 16 (fld w4 0 16), .ofNat 16 (fld w4 16 16)⟩

/-- The body of a packet of a relay type (04 R147). -/
def relayRow (ty : Nat) (h : PktHead) (ti : BitVec 8) (p : Params) : Option Instr :=
  match ty with
  | 6 => some (.phase h ti p)
  | 7 => some (.evict h ti p)
  | 8 => some (.restore h ti p)
  | 9 => some (.compact h ti p)
  | 10 => some (.almanac h ti p)
  | 11 => some (.almread h ti p)
  | 12 => some (.wswrite h ti p)
  | 13 => some (.reswrite h ti p)
  | 14 => some (.prefetch h ti p)
  | 15 => some (.eqwait h ti p)
  | 16 => some (.status h ti p)
  | _ => none

/-- The instruction of a packet of type `ty`, its reserved bits aside; none for an unassigned type (04 R144). -/
def packetRow (ty : Nat) (h : PktHead) (w1 w2 w3 w4 w5 : Nat) : Option Instr :=
  match ty with
  | 0x00 => some (.pktNop h)
  | 0x01 => some (.pktLaunch h (launchBodyOf w1 w2 w3 w4 w5))
  | 0x02 => some (.pktWait h (.ofNat 64 w1) (.ofNat 64 w2) (.ofNat 3 (fld w3 0 3)))
  | 0x03 => some (.pktSignal h (.ofNat 64 w1) (.ofNat 64 w2) (.ofNat 3 (fld w3 0 3)))
  | 0x04 => some (.pktCancel h (.ofNat 3 (fld w1 0 3)) (.ofNat 16 (fld w1 16 16)) (.ofNat 32 (fld w1 32 32)))
  | 0x05 => some (.pktCount h (.ofNat 3 (fld w1 0 3)) (.ofNat 16 (fld w1 16 16)) (.ofNat 32 (fld w1 32 32)))
  | 0x11 => some (.ctxnew h (.ofNat 20 (fld w1 0 20)) (.ofNat 16 (fld w1 32 16)) (.ofNat 64 w2) (.ofNat 64 w3) (.ofNat 64 w4))
  | 0x12 => some (.ctxfree h (.ofNat 20 (fld w1 0 20)))
  | 0x13 => some (.qnew h (qnewBodyOf w1 w2 w3 w4))
  | 0x14 => some (.qfree h (.ofNat 20 (fld w1 0 20)))
  | _ => relayRow ty h (.ofNat 8 (fld w1 0 8)) (paramsOf w2 w3)

/-- Bits 15:0 of the header and every body bit that no field names are zero (04 R143). -/
def packetReserved (ty w0 w1 w2 w3 w4 w5 w6 w7 : Nat) : Bool :=
  decide (fld w0 0 16 = 0) && decide (w6 = 0) && decide (w7 = 0) &&
  match ty with
  | 0x00 => decide (w1 = 0) && decide (w2 = 0) && decide (w3 = 0) && decide (w4 = 0) && decide (w5 = 0)
  | 0x01 => decide (fld w3 32 32 = 0) && decide (fld w5 16 48 = 0)
  | 0x02 => decide (fld w3 3 61 = 0) && decide (w4 = 0) && decide (w5 = 0)
  | 0x03 => decide (fld w3 3 61 = 0) && decide (w4 = 0) && decide (w5 = 0)
  | 0x04 => decide (fld w1 3 13 = 0) && decide (w2 = 0) && decide (w3 = 0) && decide (w4 = 0) && decide (w5 = 0)
  | 0x05 => decide (fld w1 3 13 = 0) && decide (w2 = 0) && decide (w3 = 0) && decide (w4 = 0) && decide (w5 = 0)
  | 0x11 => decide (fld w1 20 12 = 0) && decide (fld w1 48 16 = 0) && decide (w5 = 0)
  | 0x12 => decide (fld w1 20 44 = 0) && decide (w2 = 0) && decide (w3 = 0) && decide (w4 = 0) && decide (w5 = 0)
  | 0x13 => decide (fld w1 49 15 = 0) && decide (fld w4 32 32 = 0) && decide (w5 = 0)
  | 0x14 => decide (fld w1 20 44 = 0) && decide (w2 = 0) && decide (w3 = 0) && decide (w4 = 0) && decide (w5 = 0)
  | _ => decide (fld w1 8 56 = 0) && decide (w4 = 0) && decide (w5 = 0)

/-- 04 R149 steps 2, 3, 4 and 6: the version, the features, the type and the fields. -/
def decodePacketNat (w0 w1 w2 w3 w4 w5 w6 w7 : Nat) : Except DecodeError Instr :=
  if fld w0 48 8 ≠ 1 then .error .badVersion
  else if fld w0 16 11 ≠ 0 then .error .badFeature
  else
    match packetRow (fld w0 56 8) (unpackHead w0) w1 w2 w3 w4 w5 with
    | none => .error .badType
    | some i =>
      if packetReserved (fld w0 56 8) w0 w1 w2 w3 w4 w5 w6 w7 && i.wf then .ok i else .error .badField

/-- A packet is eight 64-bit words. -/
def decodePacket : List Dword → Except DecodeError Instr
  | [w0, w1, w2, w3, w4, w5, w6, w7] =>
    decodePacketNat w0.toNat w1.toNat w2.toNat w3.toNat w4.toNat w5.toNat w6.toNat w7.toNat
  | _ => .error .truncated

def packParams (p : Params) : List Dword :=
  [.ofNat 64 (p.p1.toNat * 2 ^ 32 + p.p0.toNat), .ofNat 64 (p.p3.toNat * 2 ^ 32 + p.p2.toNat)]

def relayWords (ty : Nat) (h : PktHead) (ti : BitVec 8) (p : Params) : List Dword :=
  [packHead ty h, .ofNat 64 ti.toNat] ++ packParams p ++ [0, 0, 0, 0]

def levelWords (ty : Nat) (h : PktHead) (level : BitVec 3) (lseq : BitVec 16) (id : Word) : List Dword :=
  [packHead ty h, .ofNat 64 (id.toNat * 2 ^ 32 + lseq.toNat * 2 ^ 16 + level.toNat), 0, 0, 0, 0, 0, 0]

def launchWords (h : PktHead) (b : LaunchBody) : List Dword :=
  [packHead 0x01 h, .ofNat 64 (b.iridx.toNat * 2 ^ 48 + b.ioff.toNat), .ofNat 64 (b.aridx.toNat * 2 ^ 48 + b.aoff.toNat),
    .ofNat 64 b.graph.toNat,
    .ofNat 64 (b.dep3.toNat * 2 ^ 48 + b.dep2.toNat * 2 ^ 32 + b.dep1.toNat * 2 ^ 16 + b.dep0.toNat),
    .ofNat 64 (b.prio.toNat * 2 ^ 8 + b.early.toNat * 2 ^ 4 + b.depv.toNat), 0, 0]

def qnewWords (h : PktHead) (b : QnewBody) : List Dword :=
  [packHead 0x13 h,
    .ofNat 64 (b.csize.toNat * 2 ^ 45 + b.rsize.toNat * 2 ^ 41 + b.kernel.toNat * 2 ^ 40 + b.pasid.toNat * 2 ^ 20 + b.qid.toNat),
    b.rbase, b.cbase, .ofNat 64 (b.cseq0.toNat * 2 ^ 16 + b.seq0.toNat), 0, 0, 0]

/-! ### Active messages (02 R69-R77) -/

/-- 02 R74-R77: the message that a class and MOP name. -/
def decodeMsg (cls mop : Nat) (p : Params) : Option Instr :=
  match cls, mop with
  | 2, 1 => some (.mxcfg p)
  | 2, 2 => some (.mxtile p)
  | 2, 3 => some (.mxkcnt p)
  | 2, 4 => some (.mxdrain p)
  | 2, 5 => some (.mxclracc p)
  | 2, 6 => some (.mxcb p)
  | 2, 7 => some (.mxamax p)
  | 2, 8 => some (.mxrdacc p)
  | 2, 9 => some (.mxfill p)
  | 2, 10 => some (.mxfmt p)
  | 2, 11 => some (.mxrnd p)
  | 2, 12 => some (.mxstat p)
  | 4, 1 => some (.sopen p)
  | 4, 2 => some (.sclose p)
  | 4, 3 => some (.srdh p)
  | 4, 4 => some (.swrh p)
  | 4, 5 => some (.scopy p)
  | 4, 6 => some (.sstride p)
  | 4, 7 => some (.sgath p)
  | 4, 8 => some (.sscat p)
  | 4, 9 => some (.sldbs p)
  | 4, 10 => some (.ssync p)
  | 4, 11 => some (.ssyncw p)
  | 4, 12 => some (.singress p)
  | 4, 13 => some (.sstat p)
  | 4, 14 => some (.sabort p)
  | 5, 1 => some (.uadd p)
  | 5, 2 => some (.ufadd p)
  | 5, 3 => some (.umax p)
  | 5, 4 => some (.umin p)
  | 5, 5 => some (.uor p)
  | 5, 6 => some (.uand p)
  | 5, 7 => some (.uxchg p)
  | 5, 8 => some (.ucas p)
  | 5, 9 => some (.uorder p)
  | 5, 10 => some (.uflush p)
  | 6, 1 => some (.plaunch p)
  | 6, 2 => some (.pcancel p)
  | 6, 3 => some (.pcount p)
  | 6, 4 => some (.pphase p)
  | 6, 5 => some (.pevict p)
  | 6, 6 => some (.prestore p)
  | 6, 7 => some (.pcompact p)
  | 6, 8 => some (.palmw p)
  | 6, 9 => some (.palmr p)
  | 6, 10 => some (.pwsw p)
  | 6, 11 => some (.prsw p)
  | 6, 12 => some (.ppref p)
  | 6, 13 => some (.peqwait p)
  | 6, 14 => some (.pstat p)
  | _, _ => none

/-! ### One interface over the encodings -/

/-- Where an encoding stands. -/
inductive Page where
  | v | j | fe | packet | message | event
  deriving DecidableEq, Repr

/-- An encoding: an instruction word, a packet, a message, or none for an event of an engine. -/
inductive Code where
  | word (w : Word)
  | packet (ws : List Dword)
  | msg (cls mop : Nat) (p : Params)
  | none
  deriving DecidableEq, Repr

/-- The page of an instruction. -/
def Instr.page : Instr → Page
  | .mov .. => .v
  | .mov2 .. => .v
  | .movp .. => .v
  | .sel .. => .v
  | .setvl .. => .v
  | .bcast .. => .v
  | .add .. => .v
  | .sub .. => .v
  | .mul .. => .v
  | .mulh .. => .v
  | .mad .. => .v
  | .neg .. => .v
  | .abs .. => .v
  | .min .. => .v
  | .max .. => .v
  | .andV .. => .v
  | .orV .. => .v
  | .xorV .. => .v
  | .andn .. => .v
  | .notV .. => .v
  | .shl .. => .v
  | .shr .. => .v
  | .sar .. => .v
  | .popc .. => .v
  | .clz .. => .v
  | .cmpeq .. => .v
  | .cmpne .. => .v
  | .cmplt .. => .v
  | .cmple .. => .v
  | .cmpltu .. => .v
  | .anynz .. => .v
  | .allnz .. => .v
  | .fadd .. => .v
  | .fsub .. => .v
  | .fmul .. => .v
  | .fma .. => .v
  | .fnma .. => .v
  | .fmin .. => .v
  | .fmax .. => .v
  | .fabs .. => .v
  | .fneg .. => .v
  | .rcp .. => .v
  | .rsq .. => .v
  | .sqrt .. => .v
  | .exp2 .. => .v
  | .log2 .. => .v
  | .tanh .. => .v
  | .sigm .. => .v
  | .rsum .. => .v
  | .rmax .. => .v
  | .rmin .. => .v
  | .ramax .. => .v
  | .shuf .. => .v
  | .rot .. => .v
  | .extr .. => .v
  | .ins .. => .v
  | .cvt .. => .v
  | .qnt .. => .v
  | .dqnt .. => .v
  | .sbind .. => .v
  | .srel .. => .v
  | .spow2 .. => .v
  | .sadde .. => .v
  | .smax .. => .v
  | .sprod .. => .v
  | .srenorm .. => .v
  | .sldcb .. => .v
  | .amaxrd .. => .v
  | .amaxclr .. => .v
  | .exit .. => .v
  | .drop .. => .v
  | .trap .. => .v
  | .seed .. => .v
  | .rand .. => .v
  | .ld .. => .j
  | .st .. => .j
  | .ldv .. => .j
  | .stv .. => .j
  | .recl .. => .j
  | .gath .. => .j
  | .scat .. => .j
  | .pref .. => .j
  | .fence .. => .j
  | .fencex .. => .j
  | .waita .. => .j
  | .waitc .. => .j
  | .launch .. => .j
  | .signal .. => .j
  | .tkt .. => .j
  | .grant .. => .j
  | .reply .. => .j
  | .send .. => .j
  | .sendn .. => .j
  | .jMov .. => .j
  | .jMov2 .. => .j
  | .jAdd .. => .j
  | .jSub .. => .j
  | .jAnd .. => .j
  | .jShl .. => .j
  | .jCmpeq .. => .j
  | .jCmplt .. => .j
  | .jExit .. => .j
  | .jDrop .. => .j
  | .jTrap .. => .j
  | .fwait .. => .fe
  | .flatch .. => .fe
  | .fpost .. => .fe
  | .fqmap .. => .fe
  | .fqdemap .. => .fe
  | .fseqchk .. => .fe
  | .flaunch .. => .fe
  | .fvigil .. => .fe
  | .feKick .. => .event
  | .feCack .. => .event
  | .pktNop .. => .packet
  | .pktLaunch .. => .packet
  | .pktWait .. => .packet
  | .pktSignal .. => .packet
  | .pktCancel .. => .packet
  | .pktCount .. => .packet
  | .phase .. => .packet
  | .evict .. => .packet
  | .restore .. => .packet
  | .compact .. => .packet
  | .almanac .. => .packet
  | .almread .. => .packet
  | .wswrite .. => .packet
  | .reswrite .. => .packet
  | .prefetch .. => .packet
  | .eqwait .. => .packet
  | .status .. => .packet
  | .ctxnew .. => .packet
  | .ctxfree .. => .packet
  | .qnew .. => .packet
  | .qfree .. => .packet
  | .watchMet .. => .event
  | .vigilExpiry .. => .event
  | .faultBufferEnter => .event
  | .firmwareRestartReset => .event
  | .dieWake => .event
  | .plaunch .. => .message
  | .pcancel .. => .message
  | .pcount .. => .message
  | .pphase .. => .message
  | .pevict .. => .message
  | .prestore .. => .message
  | .pcompact .. => .message
  | .palmw .. => .message
  | .palmr .. => .message
  | .pwsw .. => .message
  | .prsw .. => .message
  | .ppref .. => .message
  | .peqwait .. => .message
  | .pstat .. => .message
  | .dispatchBind => .event
  | .ingressListCheck .. => .event
  | .ingressFirstToken .. => .event
  | .configFetch .. => .event
  | .configLoad .. => .event
  | .stripeSwap => .event
  | .stateSave .. => .event
  | .stateRestore .. => .event
  | .cohortEntry .. => .event
  | .procStrayToken => .event
  | .procMissingExit => .event
  | .equinox .. => .event
  | .phaseBoundary .. => .event
  | .almanacUpdate => .event
  | .intercalarySwitch => .event
  | .intercalaryReturn => .event
  | .launchComplete .. => .event
  | .cancelComplete .. => .event
  | .tokenArrival .. => .event
  | .steerDelivery .. => .event
  | .killAbsorb .. => .event
  | .matchStep .. => .event
  | .iterKillSweep .. => .event
  | .windowAdvance .. => .event
  | .storePark .. => .event
  | .parkedStoreIssue .. => .event
  | .quantumCommit .. => .event
  | .jnIsbDeadlock .. => .event
  | .sclExhausted => .event
  | .xltTimeout => .event
  | .translationComplete .. => .event
  | .priResponse .. => .event
  | .atsInvalidation .. => .event
  | .waveLink => .event
  | .memWave => .event
  | .memoryReply .. => .event
  | .ldvVersionMet .. => .event
  | .watchCheck .. => .event
  | .messageAccept .. => .event
  | .uncorrectableError .. => .event
  | .eccCorrected => .event
  | .patrolScrub .. => .event
  | .slabLoad .. => .event
  | .slabPiece .. => .event
  | .mxRowPick .. => .event
  | .mxRowCommit .. => .event
  | .mxRowDrain .. => .event
  | .mxKillAbsorb .. => .event
  | .mxcfg .. => .message
  | .mxtile .. => .message
  | .mxkcnt .. => .message
  | .mxdrain .. => .message
  | .mxclracc .. => .message
  | .mxcb .. => .message
  | .mxamax .. => .message
  | .mxrdacc .. => .message
  | .mxfill .. => .message
  | .mxfmt .. => .message
  | .mxrnd .. => .message
  | .mxstat .. => .message
  | .sopen .. => .message
  | .sclose .. => .message
  | .srdh .. => .message
  | .swrh .. => .message
  | .scopy .. => .message
  | .sstride .. => .message
  | .sgath .. => .message
  | .sscat .. => .message
  | .sldbs .. => .message
  | .ssync .. => .message
  | .ssyncw .. => .message
  | .singress .. => .message
  | .sstat .. => .message
  | .sabort .. => .message
  | .ssyncMet .. => .event
  | .streamTransferDone .. => .event
  | .portDeliver .. => .event
  | .uadd .. => .message
  | .ufadd .. => .message
  | .umax .. => .message
  | .umin .. => .message
  | .uor .. => .message
  | .uand .. => .message
  | .uxchg .. => .message
  | .ucas .. => .message
  | .uorder .. => .message
  | .uflush .. => .message
  | .updateExpand => .event
  | .windowIssue => .event
  | .flitReceive => .event
  | .linkRetrain => .event
  | .retrainComplete => .event
  | .retrainHold => .event
  | .lnkRetrainFail => .event
  | .allocGrantRemote .. => .event
  | .coldReset => .event
  | .bootgo => .event
  | .fwrestart => .event
  | .gate => .event
  | .keyLoad .. => .event
  | .keyRetire .. => .event
  | .hdmCommit .. => .event
  | .hostHbmAccess .. => .event
  | .islandRetention .. => .event
  | .thermalThrottle .. => .event
  | .devThermal => .event
  | .pldmFirmwareUpdate .. => .event
  | .spdmGetVersion => .event
  | .spdmGetCapabilities => .event
  | .spdmNegotiateAlgorithms => .event
  | .spdmGetDigests => .event
  | .spdmGetCertificate .. => .event
  | .spdmChallenge .. => .event
  | .spdmGetMeasurements .. => .event
  | .spdmKeyExchange .. => .event
  | .spdmFinish .. => .event
  | .pldmSensorRead .. => .event
  | .registerWrite .. => .event
  | .pathFAccess .. => .event
  | .illegalInstruction .. => .event
  | .sparseUpdatePerformed => .event

/-- The decoder, total on any page and code. -/
def decode : Page → Code → Except DecodeError Instr
  | .v, .word w => decodeV w
  | .j, .word w => decodeJ w
  | .fe, .word w => decodeFe w
  | .packet, .packet ws => decodePacket ws
  | .message, .msg cls mop p =>
    match decodeMsg cls mop p with
    | some i => .ok i
    | none => .error .badMessage
  | _, _ => .error .truncated

/-- The decoder on bytes as memory holds them, with the bytes left over (02 R52, 04 R137). -/
def decodeBytes (pg : Page) (bs : List Byte) : Except DecodeError (Instr × List Byte) :=
  match pg with
  | .packet =>
    if bs.length < 64 then .error .truncated
    else
      match decodePacket ((List.range 8).map fun i => BitVec.ofNat 64 (leNat ((bs.drop (8 * i)).take 8))) with
      | .ok i => .ok (i, bs.drop 64)
      | .error r => .error r
  | _ =>
    if bs.length < 4 then .error .truncated
    else
      match decode pg (.word (BitVec.ofNat 32 (leNat (bs.take 4)))) with
      | .ok i => .ok (i, bs.drop 4)
      | .error r => .error r

/-- The encoder: the words of a well-formed instruction, from the same tables. -/
def encode : Instr → Code
  | .mov a d t q => .word (mkWord 0x00 a.toNat 24 d.toNat 24 t.toNat q.toNat)
  | .mov2 a d e t q => .word (mkWord 0x01 a.toNat 24 d.toNat e.toNat t.toNat q.toNat)
  | .movp a b d e t q => .word (mkWord 0x02 a.toNat b.toNat d.toNat e.toNat t.toNat q.toNat)
  | .sel a b d t q => .word (mkWord 0x03 a.toNat b.toNat d.toNat 24 t.toNat q.toNat)
  | .setvl a b d t q => .word (mkWord 0x04 a.toNat b.toNat d.toNat 24 t.toNat q.toNat)
  | .bcast a b d t q => .word (mkWord 0x05 a.toNat b.toNat d.toNat 24 t.toNat q.toNat)
  | .add a b d t q => .word (mkWord 0x08 a.toNat b.toNat d.toNat 24 t.toNat q.toNat)
  | .sub a b d t q => .word (mkWord 0x09 a.toNat b.toNat d.toNat 24 t.toNat q.toNat)
  | .mul a b d t q => .word (mkWord 0x0A a.toNat b.toNat d.toNat 24 t.toNat q.toNat)
  | .mulh a b d t q => .word (mkWord 0x0B a.toNat b.toNat d.toNat 24 t.toNat q.toNat)
  | .mad a b d t q => .word (mkWord 0x0C a.toNat b.toNat d.toNat 24 t.toNat q.toNat)
  | .neg a d t q => .word (mkWord 0x0D a.toNat 24 d.toNat 24 t.toNat q.toNat)
  | .abs a d t q => .word (mkWord 0x0E a.toNat 24 d.toNat 24 t.toNat q.toNat)
  | .min a b d t q => .word (mkWord 0x0F a.toNat b.toNat d.toNat 24 t.toNat q.toNat)
  | .max a b d t q => .word (mkWord 0x10 a.toNat b.toNat d.toNat 24 t.toNat q.toNat)
  | .andV a b d t q => .word (mkWord 0x18 a.toNat b.toNat d.toNat 24 t.toNat q.toNat)
  | .orV a b d t q => .word (mkWord 0x19 a.toNat b.toNat d.toNat 24 t.toNat q.toNat)
  | .xorV a b d t q => .word (mkWord 0x1A a.toNat b.toNat d.toNat 24 t.toNat q.toNat)
  | .andn a b d t q => .word (mkWord 0x1B a.toNat b.toNat d.toNat 24 t.toNat q.toNat)
  | .notV a d t q => .word (mkWord 0x1C a.toNat 24 d.toNat 24 t.toNat q.toNat)
  | .shl a b d t q => .word (mkWord 0x1D a.toNat b.toNat d.toNat 24 t.toNat q.toNat)
  | .shr a b d t q => .word (mkWord 0x1E a.toNat b.toNat d.toNat 24 t.toNat q.toNat)
  | .sar a b d t q => .word (mkWord 0x1F a.toNat b.toNat d.toNat 24 t.toNat q.toNat)
  | .popc a d t q => .word (mkWord 0x20 a.toNat 24 d.toNat 24 t.toNat q.toNat)
  | .clz a d t q => .word (mkWord 0x21 a.toNat 24 d.toNat 24 t.toNat q.toNat)
  | .cmpeq a b d t q => .word (mkWord 0x28 a.toNat b.toNat d.toNat 24 t.toNat q.toNat)
  | .cmpne a b d t q => .word (mkWord 0x29 a.toNat b.toNat d.toNat 24 t.toNat q.toNat)
  | .cmplt a b d t q => .word (mkWord 0x2A a.toNat b.toNat d.toNat 24 t.toNat q.toNat)
  | .cmple a b d t q => .word (mkWord 0x2B a.toNat b.toNat d.toNat 24 t.toNat q.toNat)
  | .cmpltu a b d t q => .word (mkWord 0x2C a.toNat b.toNat d.toNat 24 t.toNat q.toNat)
  | .anynz a d t q => .word (mkWord 0x2D a.toNat 24 d.toNat 24 t.toNat q.toNat)
  | .allnz a d t q => .word (mkWord 0x2E a.toNat 24 d.toNat 24 t.toNat q.toNat)
  | .fadd a b d t q => .word (mkWord 0x30 a.toNat b.toNat d.toNat 24 t.toNat q.toNat)
  | .fsub a b d t q => .word (mkWord 0x31 a.toNat b.toNat d.toNat 24 t.toNat q.toNat)
  | .fmul a b d t q => .word (mkWord 0x32 a.toNat b.toNat d.toNat 24 t.toNat q.toNat)
  | .fma a b d t q => .word (mkWord 0x33 a.toNat b.toNat d.toNat 24 t.toNat q.toNat)
  | .fnma a b d t q => .word (mkWord 0x34 a.toNat b.toNat d.toNat 24 t.toNat q.toNat)
  | .fmin a b d t q => .word (mkWord 0x35 a.toNat b.toNat d.toNat 24 t.toNat q.toNat)
  | .fmax a b d t q => .word (mkWord 0x36 a.toNat b.toNat d.toNat 24 t.toNat q.toNat)
  | .fabs a d t q => .word (mkWord 0x37 a.toNat 24 d.toNat 24 t.toNat q.toNat)
  | .fneg a d t q => .word (mkWord 0x38 a.toNat 24 d.toNat 24 t.toNat q.toNat)
  | .rcp a d t q => .word (mkWord 0x40 a.toNat 24 d.toNat 24 t.toNat q.toNat)
  | .rsq a d t q => .word (mkWord 0x41 a.toNat 24 d.toNat 24 t.toNat q.toNat)
  | .sqrt a d t q => .word (mkWord 0x42 a.toNat 24 d.toNat 24 t.toNat q.toNat)
  | .exp2 a d t q => .word (mkWord 0x43 a.toNat 24 d.toNat 24 t.toNat q.toNat)
  | .log2 a d t q => .word (mkWord 0x44 a.toNat 24 d.toNat 24 t.toNat q.toNat)
  | .tanh a d t q => .word (mkWord 0x45 a.toNat 24 d.toNat 24 t.toNat q.toNat)
  | .sigm a d t q => .word (mkWord 0x46 a.toNat 24 d.toNat 24 t.toNat q.toNat)
  | .rsum a d t q => .word (mkWord 0x48 a.toNat 24 d.toNat 24 t.toNat q.toNat)
  | .rmax a d t q => .word (mkWord 0x49 a.toNat 24 d.toNat 24 t.toNat q.toNat)
  | .rmin a d t q => .word (mkWord 0x4A a.toNat 24 d.toNat 24 t.toNat q.toNat)
  | .ramax a d t q => .word (mkWord 0x4B a.toNat 24 d.toNat 24 t.toNat q.toNat)
  | .shuf a b d t q => .word (mkWord 0x4C a.toNat b.toNat d.toNat 24 t.toNat q.toNat)
  | .rot a b d t q => .word (mkWord 0x4D a.toNat b.toNat d.toNat 24 t.toNat q.toNat)
  | .extr a b d t q => .word (mkWord 0x4E a.toNat b.toNat d.toNat 24 t.toNat q.toNat)
  | .ins a b d t q => .word (mkWord 0x4F a.toNat b.toNat d.toNat 24 t.toNat q.toNat)
  | .cvt a d t q => .word (mkWord 0x50 a.toNat 24 d.toNat 24 t.toNat q.toNat)
  | .qnt a d t q => .word (mkWord 0x51 a.toNat 24 d.toNat 24 t.toNat q.toNat)
  | .dqnt a d t q => .word (mkWord 0x52 a.toNat 24 d.toNat 24 t.toNat q.toNat)
  | .sbind a b d t q => .word (mkWord 0x60 a.toNat b.toNat d.toNat 24 t.toNat q.toNat)
  | .srel a t q => .word (mkWord 0x61 a.toNat 24 24 24 t.toNat q.toNat)
  | .spow2 a b d t q => .word (mkWord 0x62 a.toNat b.toNat d.toNat 24 t.toNat q.toNat)
  | .sadde a b d t q => .word (mkWord 0x63 a.toNat b.toNat d.toNat 24 t.toNat q.toNat)
  | .smax a b d t q => .word (mkWord 0x64 a.toNat b.toNat d.toNat 24 t.toNat q.toNat)
  | .sprod a b d t q => .word (mkWord 0x65 a.toNat b.toNat d.toNat 24 t.toNat q.toNat)
  | .srenorm a b d t q => .word (mkWord 0x66 a.toNat b.toNat d.toNat 24 t.toNat q.toNat)
  | .sldcb a b t q => .word (mkWord 0x67 a.toNat b.toNat 24 24 t.toNat q.toNat)
  | .amaxrd d t => .word (mkWord 0x68 24 24 d.toNat 24 t.toNat 0)
  | .amaxclr t => .word (mkWord 0x69 24 24 24 24 t.toNat 0)
  | .exit a d t q => .word (mkWord 0x70 a.toNat 24 d.toNat 24 t.toNat q.toNat)
  | .drop a b t q => .word (mkWord 0x71 a.toNat b.toNat 24 24 t.toNat q.toNat)
  | .trap a t q => .word (mkWord 0x72 a.toNat 24 24 24 t.toNat q.toNat)
  | .seed a t q => .word (mkWord 0x73 a.toNat 24 24 24 t.toNat q.toNat)
  | .rand d t => .word (mkWord 0x74 24 24 d.toNat 24 t.toNat 0)
  | .ld a d m t q => .word (mkWord 0x00 a.toNat 24 d.toNat m.toNat t.toNat q.toNat)
  | .st a b d m t q => .word (mkWord 0x01 a.toNat b.toNat d.toNat m.toNat t.toNat q.toNat)
  | .ldv a b d m t q => .word (mkWord 0x02 a.toNat b.toNat d.toNat m.toNat t.toNat q.toNat)
  | .stv a b d m t q => .word (mkWord 0x03 a.toNat b.toNat d.toNat m.toNat t.toNat q.toNat)
  | .recl a b d m t q => .word (mkWord 0x04 a.toNat b.toNat d.toNat m.toNat t.toNat q.toNat)
  | .gath a d m t q => .word (mkWord 0x05 a.toNat 24 d.toNat m.toNat t.toNat q.toNat)
  | .scat a b d m t q => .word (mkWord 0x06 a.toNat b.toNat d.toNat m.toNat t.toNat q.toNat)
  | .pref a m t q => .word (mkWord 0x07 a.toNat 24 24 m.toNat t.toNat q.toNat)
  | .fence d m t => .word (mkWord 0x08 24 24 d.toNat m.toNat t.toNat 0)
  | .fencex d m t => .word (mkWord 0x09 24 24 d.toNat m.toNat t.toNat 0)
  | .waita a b d m t q => .word (mkWord 0x0A a.toNat b.toNat (8 + d.toNat) m.toNat t.toNat q.toNat)
  | .waitc a d m t q => .word (mkWord 0x0B a.toNat 24 d.toNat m.toNat t.toNat q.toNat)
  | .launch a d m t q => .word (mkWord 0x0C a.toNat 24 d.toNat m.toNat t.toNat q.toNat)
  | .signal a b d m t q => .word (mkWord 0x0D a.toNat b.toNat d.toNat m.toNat t.toNat q.toNat)
  | .tkt a d t q => .word (mkWord 0x10 (8 + a.toNat) 24 d.toNat 24 t.toNat q.toNat)
  | .grant a d t q => .word (mkWord 0x11 a.toNat 24 d.toNat 24 t.toNat q.toNat)
  | .reply a d t q => .word (mkWord 0x12 a.toNat 24 (8 + d.toNat) 24 t.toNat q.toNat)
  | .send a d m t q => .word (mkWord 0x14 a.toNat 24 d.toNat m.toNat t.toNat q.toNat)
  | .sendn a m t q => .word (mkWord 0x15 a.toNat 24 24 m.toNat t.toNat q.toNat)
  | .jMov a d t q => .word (mkWord 0x18 a.toNat 24 d.toNat 24 t.toNat q.toNat)
  | .jMov2 a d e t q => .word (mkWord 0x19 a.toNat 24 d.toNat e.toNat t.toNat q.toNat)
  | .jAdd a b d t q => .word (mkWord 0x1A a.toNat b.toNat d.toNat 24 t.toNat q.toNat)
  | .jSub a b d t q => .word (mkWord 0x1B a.toNat b.toNat d.toNat 24 t.toNat q.toNat)
  | .jAnd a b d t q => .word (mkWord 0x1C a.toNat b.toNat d.toNat 24 t.toNat q.toNat)
  | .jShl a b d t q => .word (mkWord 0x1D a.toNat b.toNat d.toNat 24 t.toNat q.toNat)
  | .jCmpeq a b d t q => .word (mkWord 0x1E a.toNat b.toNat d.toNat 24 t.toNat q.toNat)
  | .jCmplt a b d t q => .word (mkWord 0x1F a.toNat b.toNat d.toNat 24 t.toNat q.toNat)
  | .jExit a d t q => .word (mkWord 0x20 a.toNat 24 d.toNat 24 t.toNat q.toNat)
  | .jDrop a b t q => .word (mkWord 0x21 a.toNat b.toNat 24 24 t.toNat q.toNat)
  | .jTrap a t q => .word (mkWord 0x22 a.toNat 24 24 24 t.toNat q.toNat)
  | .fwait rd => .word (mkFe 0 0 0 rd.toNat)
  | .flatch rd rs1 => .word (mkFe 0 rs1.toNat 1 rd.toNat)
  | .fpost rs1 rs2 => .word (mkFe rs2.toNat rs1.toNat 2 0)
  | .fqmap rs1 rs2 => .word (mkFe rs2.toNat rs1.toNat 3 0)
  | .fqdemap rd rs1 => .word (mkFe 0 rs1.toNat 4 rd.toNat)
  | .fseqchk rd rs1 rs2 => .word (mkFe rs2.toNat rs1.toNat 5 rd.toNat)
  | .flaunch rd rs1 => .word (mkFe 0 rs1.toNat 6 rd.toNat)
  | .fvigil rd rs1 => .word (mkFe 0 rs1.toNat 7 rd.toNat)
  | .pktNop h => .packet [packHead 0x00 h, 0, 0, 0, 0, 0, 0, 0]
  | .pktLaunch h b => .packet (launchWords h b)
  | .pktWait h addr value op => .packet [packHead 0x02 h, addr, value, .ofNat 64 op.toNat, 0, 0, 0, 0]
  | .pktSignal h addr value op => .packet [packHead 0x03 h, addr, value, .ofNat 64 op.toNat, 0, 0, 0, 0]
  | .pktCancel h level lseq id => .packet (levelWords 0x04 h level lseq id)
  | .pktCount h level lseq id => .packet (levelWords 0x05 h level lseq id)
  | .phase h ti p => .packet (relayWords 0x06 h ti p)
  | .evict h ti p => .packet (relayWords 0x07 h ti p)
  | .restore h ti p => .packet (relayWords 0x08 h ti p)
  | .compact h ti p => .packet (relayWords 0x09 h ti p)
  | .almanac h ti p => .packet (relayWords 0x0A h ti p)
  | .almread h ti p => .packet (relayWords 0x0B h ti p)
  | .wswrite h ti p => .packet (relayWords 0x0C h ti p)
  | .reswrite h ti p => .packet (relayWords 0x0D h ti p)
  | .prefetch h ti p => .packet (relayWords 0x0E h ti p)
  | .eqwait h ti p => .packet (relayWords 0x0F h ti p)
  | .status h ti p => .packet (relayWords 0x10 h ti p)
  | .ctxnew h pasid rtcnt rtbase sabase sasize =>
    .packet [packHead 0x11 h, .ofNat 64 (rtcnt.toNat * 2 ^ 32 + pasid.toNat), rtbase, sabase, sasize, 0, 0, 0]
  | .ctxfree h pasid => .packet [packHead 0x12 h, .ofNat 64 pasid.toNat, 0, 0, 0, 0, 0, 0]
  | .qnew h b => .packet (qnewWords h b)
  | .qfree h qid => .packet [packHead 0x14 h, .ofNat 64 qid.toNat, 0, 0, 0, 0, 0, 0]
  | .mxcfg p => .msg 2 1 p
  | .mxtile p => .msg 2 2 p
  | .mxkcnt p => .msg 2 3 p
  | .mxdrain p => .msg 2 4 p
  | .mxclracc p => .msg 2 5 p
  | .mxcb p => .msg 2 6 p
  | .mxamax p => .msg 2 7 p
  | .mxrdacc p => .msg 2 8 p
  | .mxfill p => .msg 2 9 p
  | .mxfmt p => .msg 2 10 p
  | .mxrnd p => .msg 2 11 p
  | .mxstat p => .msg 2 12 p
  | .sopen p => .msg 4 1 p
  | .sclose p => .msg 4 2 p
  | .srdh p => .msg 4 3 p
  | .swrh p => .msg 4 4 p
  | .scopy p => .msg 4 5 p
  | .sstride p => .msg 4 6 p
  | .sgath p => .msg 4 7 p
  | .sscat p => .msg 4 8 p
  | .sldbs p => .msg 4 9 p
  | .ssync p => .msg 4 10 p
  | .ssyncw p => .msg 4 11 p
  | .singress p => .msg 4 12 p
  | .sstat p => .msg 4 13 p
  | .sabort p => .msg 4 14 p
  | .uadd p => .msg 5 1 p
  | .ufadd p => .msg 5 2 p
  | .umax p => .msg 5 3 p
  | .umin p => .msg 5 4 p
  | .uor p => .msg 5 5 p
  | .uand p => .msg 5 6 p
  | .uxchg p => .msg 5 7 p
  | .ucas p => .msg 5 8 p
  | .uorder p => .msg 5 9 p
  | .uflush p => .msg 5 10 p
  | .plaunch p => .msg 6 1 p
  | .pcancel p => .msg 6 2 p
  | .pcount p => .msg 6 3 p
  | .pphase p => .msg 6 4 p
  | .pevict p => .msg 6 5 p
  | .prestore p => .msg 6 6 p
  | .pcompact p => .msg 6 7 p
  | .palmw p => .msg 6 8 p
  | .palmr p => .msg 6 9 p
  | .pwsw p => .msg 6 10 p
  | .prsw p => .msg 6 11 p
  | .ppref p => .msg 6 12 p
  | .peqwait p => .msg 6 13 p
  | .pstat p => .msg 6 14 p
  | .feKick .. => .none
  | .feCack .. => .none
  | .watchMet .. => .none
  | .vigilExpiry .. => .none
  | .faultBufferEnter => .none
  | .firmwareRestartReset => .none
  | .dieWake => .none
  | .dispatchBind => .none
  | .ingressListCheck .. => .none
  | .ingressFirstToken .. => .none
  | .configFetch .. => .none
  | .configLoad .. => .none
  | .stripeSwap => .none
  | .stateSave .. => .none
  | .stateRestore .. => .none
  | .cohortEntry .. => .none
  | .procStrayToken => .none
  | .procMissingExit => .none
  | .equinox .. => .none
  | .phaseBoundary .. => .none
  | .almanacUpdate => .none
  | .intercalarySwitch => .none
  | .intercalaryReturn => .none
  | .launchComplete .. => .none
  | .cancelComplete .. => .none
  | .tokenArrival .. => .none
  | .steerDelivery .. => .none
  | .killAbsorb .. => .none
  | .matchStep .. => .none
  | .iterKillSweep .. => .none
  | .windowAdvance .. => .none
  | .storePark .. => .none
  | .parkedStoreIssue .. => .none
  | .quantumCommit .. => .none
  | .jnIsbDeadlock .. => .none
  | .sclExhausted => .none
  | .xltTimeout => .none
  | .translationComplete .. => .none
  | .priResponse .. => .none
  | .atsInvalidation .. => .none
  | .waveLink => .none
  | .memWave => .none
  | .memoryReply .. => .none
  | .ldvVersionMet .. => .none
  | .watchCheck .. => .none
  | .messageAccept .. => .none
  | .uncorrectableError .. => .none
  | .eccCorrected => .none
  | .patrolScrub .. => .none
  | .slabLoad .. => .none
  | .slabPiece .. => .none
  | .mxRowPick .. => .none
  | .mxRowCommit .. => .none
  | .mxRowDrain .. => .none
  | .mxKillAbsorb .. => .none
  | .ssyncMet .. => .none
  | .streamTransferDone .. => .none
  | .portDeliver .. => .none
  | .updateExpand => .none
  | .windowIssue => .none
  | .flitReceive => .none
  | .linkRetrain => .none
  | .retrainComplete => .none
  | .retrainHold => .none
  | .lnkRetrainFail => .none
  | .allocGrantRemote .. => .none
  | .coldReset => .none
  | .bootgo => .none
  | .fwrestart => .none
  | .gate => .none
  | .keyLoad .. => .none
  | .keyRetire .. => .none
  | .hdmCommit .. => .none
  | .hostHbmAccess .. => .none
  | .islandRetention .. => .none
  | .thermalThrottle .. => .none
  | .devThermal => .none
  | .pldmFirmwareUpdate .. => .none
  | .spdmGetVersion => .none
  | .spdmGetCapabilities => .none
  | .spdmNegotiateAlgorithms => .none
  | .spdmGetDigests => .none
  | .spdmGetCertificate .. => .none
  | .spdmChallenge .. => .none
  | .spdmGetMeasurements .. => .none
  | .spdmKeyExchange .. => .none
  | .spdmFinish .. => .none
  | .pldmSensorRead .. => .none
  | .registerWrite .. => .none
  | .pathFAccess .. => .none
  | .illegalInstruction .. => .none
  | .sparseUpdatePerformed => .none

/-! ### The opcode table's numbering -/

/-- The bits that a row of the word pages fixes. -/
def Form.fixedBits (f : Form) : Nat :=
  7 + (match f.a with | .none => 5 | .any => 0 | .chan => 2) + (if f.b then 0 else 5) +
    (match f.d with | .none => 5 | .any => 0 | .acc => 0 | .out => 2) +
    (match f.e with | .none => 5 | .any => 0 | .desc => 3 | .msg => 3) + (if f.a = .none ∧ f.b = false then 1 else 0)

/-- How many bits the row of a page fixes, none when the page refuses the word. -/
def rowBits (x : Fields) : Option (Form × Instr) → Option (Nat × Instr)
  | none => none
  | some (f, i) => if f.refusal x = none then some (f.fixedBits, i) else none

/-- A word of the opcode table does not name its page. Where two pages admit it, the row that fixes more bits is meant, and the
V page where both fix as many (log 4). -/
def choosePage : Option (Nat × Instr) → Option (Nat × Instr) → Option Instr
  | some (m, i), some (n, k) => if m < n then some k else some i
  | some (_, i), none => some i
  | none, some (_, k) => some k
  | none, none => none

/-- The instruction that the decoder reads from the word of a row of spec/opcode_table.json. Every row with bits has 32 of them. -/
def decodeTableWord (nbits w : Nat) : Option Instr :=
  if nbits = 32 ∧ w < 2 ^ 32 then
    let x := fieldsOf (BitVec.ofNat 32 w)
    if fld w 0 7 = 0x0B ∧ feFieldsOk w = true then some (feRow w)
    else
      match choosePage (rowBits x (vRow x)) (rowBits x (jRow x)) with
      | some i => some i
      | none =>
        match decodeFe (BitVec.ofNat 32 w) with
        | .ok i => some i
        | .error _ => none
  else none

end Sys2Proof
end

