-- ==== Sys2Proof/Machine/Firing.lean ====
section
/-! DEFINITION. The firing of a slot: eligibility and the picker (08 R283-R285, R293), the claim and the commit shared by every V- and J-page
instruction (08 R287, R291, R292; 09 R315, R342). -/

namespace Sys2Proof.Machine

/-- What an instruction asks its firing to commit. -/
structure Commit where
  /-- results by destination select -/
  results : List (BitVec 5 × Reg)
  /-- the sources read, for EOS (08 R291) -/
  reads : List (BitVec 5)
  /-- operand B, for iter.b -/
  b : Reg
  tag : TagAct
  q : Bool
  /-- the other writes to its plane -/
  plane : Plane → Plane
  /-- what else takes effect at commit: scale-bus acts, requests -/
  world : State → State
  /-- fault conditions met -/
  faults : List Flt

/-- Whether a destination select is an out channel. -/
def isOut (sel : BitVec 5) : Bool := decide (8 ≤ sel.toNat) && decide (sel.toNat < 16)

/-- Take the guarded tokens out of the queue or the ready list (08 R287); with Q = 1 they stay (02 R59). -/
def State.claim (s : State) (x : Firing) (q : Bool) : State :=
  let t := x.pl.trig x.slot
  if q then s
  else if t.mode = 1 then s.onElem x.el fun e => e.setQueue x.ical t.cha ((e.queue x.ical t.cha).drop 1)
  else if 2 ≤ t.mode then
    s.onElem x.el fun e => match e.pair x.ical t.cha t.chb with | some p => { e with ready := e.ready.erase p } | none => e
  else s

/-- EOS of the channel sources that the firing read and dequeued. -/
def Firing.readEos (x : Firing) (c : Commit) : Bool := !c.q && c.reads.any x.srcEos

/-- The out tokens of a firing with their channels, in the order of its results. -/
def Firing.outTokens (x : Firing) (c : Commit) (v : BitVec 12) (a : Alloc) : List (Fin 8 × Token) :=
  (c.results.filter fun p => isOut p.1).map fun p =>
    (Fin.ofNat 8 p.1.toNat, outToken c.tag (x.outCtx c.tag) (x.outIter c.tag v c.b) (outEos c.tag (x.readEos c)) a p.2)

/-- The commit of a firing that meets no fault (08 R287): claimed tokens leave, the tag action acts on the allocator, registers and
predicates take their results, out tokens enter staging, then whatever else the instruction does. -/
def State.commitOk (s : State) (x : Firing) (c : Commit) : State :=
  let d := x.el.at_.ring.die
  let v := (s.launch x.launch).alloc0.next
  let s := (s.claim x c.q).tagState x.launch d c.tag x.iter
  let a := (s.launch x.launch).alloc d
  let s := s.onElem x.el fun e =>
    e.setPlane x.ical ((c.results.foldl (fun p r => p.write r.1 r.2) (c.plane (e.plane x.ical))).beatDone x.slot)
  c.world ((x.outTokens c v a).foldl (fun s p => s.stage x.el x.ical p.1 p.2) s)

/-- The commit of a firing: with a fault condition, one record of the lowest code, and nothing else (01 R41, R43; 09 R315). -/
def State.commit (s : State) (x : Firing) (c : Commit) : State :=
  match lowestFlt (s.tagFaults x c.tag c.b (c.results.any fun p => isOut p.1) ++ c.faults) with
  | some f => s.elemFault x.el x.ical (some x.slot) 0 x.ctx x.iter f
  | none => s.commitOk x c

/-! ### Eligibility (08 R283, R284, R292, R293) -/

/-- Tokens or pairs that the trigger guards in the queue or ready list. -/
def Elem.guarded (e : Elem) (ical : Bool) (t : Trig) : Nat :=
  if t.mode = 1 then (if (headToken (e.queue ical t.cha)).isSome then ((e.queue ical t.cha).filter fun x => !x.kill).length else 0)
  else (e.ready.filter fun p => p.ical == ical && p.cha == t.cha && p.chb == t.chb).length

/-- GATE on the first token or pair (02 R61); a slot of MATCH 0 has none to compare, and its gate holds (log 10). -/
def Firing.gateOk (x : Firing) : Bool :=
  let t := x.pl.trig x.slot
  let fa := x.heads.map fun p => p.1.body.fmt
  let fb := (x.heads.bind Prod.snd).map fun t => t.body.fmt
  let f := Fmt.ofCode x.sfmt
  if t.mode = 0 then true else
  match t.gate with
  | 0 => true
  | 1 => fa == some f
  | 2 => fa == some f && fb == some f
  | _ => fa == fb && fa.isSome

/-- What the slot's page and opcode ask of eligibility beyond its trigger. -/
structure SlotNeeds where
  /-- EXIT, TRAP, and a J-element's store, message or signal wait while speculative -/
  notSpec : Bool
  /-- out channels written, but for REPLY -/
  outs : List (Fin 8)
  /-- a message form needs the port -/
  port : Bool
  ticketRoom : Bool
  grantReady : Bool
  replyReady : Bool
  /-- data registers that are sources by a message's markers or TIND -/
  marked : List Nat
  deriving DecidableEq, Repr

/-- The data registers that a message at base `b` names (02 R70, R72; 12 R385). -/
def Plane.msgRegs (p : Plane) (b : Nat) : List Nat :=
  let k (i : Nat) : Nat := (p.k[i % 8]'(Nat.mod_lt _ (by decide))).toNat
  let h := k b
  (if bit h 1 then [bits h 14 12] else []) ++ ((List.range 4).filter fun n => bit h (2 + n)).map fun n => bits (k (b + 2 + n)) 2 0

def slotNeeds (p : Plane) (j : Bool) (w : Word) : SlotNeeds :=
  let op := bits w.toNat 31 25
  let b := bits w.toNat 9 5
  let msg := j && (op == 0x0C || op == 0x14 || op == 0x15)
  let store := j && (op == 0x01 || op == 0x03 || op == 0x04 || op == 0x06 || op == 0x0D)
  let exitTrap := if j then op == 0x20 || op == 0x22 else op == 0x70 || op == 0x72
  { notSpec := msg || store || exitTrap, outs := if j && op == 0x12 then [] else p.wordOuts j w, port := msg, ticketRoom := j && op == 0x10,
    grantReady := j && op == 0x11, replyReady := j && op == 0x12, marked := if msg then p.msgRegs b else [] }

/-- Data registers among the sources and destinations of a J-element's word; only MOV2 has a second destination. -/
def wordRegs (w : Word) : List Nat :=
  let x := w.toNat
  ([bits x 24 20, bits x 19 15, bits x 14 10] ++ if bits x 31 25 = 0x19 then [bits x 9 5] else []).filter fun n => n < 8

/-- A memory operation of the element stalls it (03 R110, R123). -/
def Ring.stalls (r : Ring) (e : Nat) (ical : Bool) : Bool :=
  (r.arriving ++ r.waveBuf).any fun o => o.stalled != 0 && o.elem == e && o.ical == ical

/-- A register that awaits a result owed (12 R385). -/
def Elem.awaits (e : Elem) (ical : Bool) (n : Nat) : Bool := e.pend.any fun p => p.ical == ical && p.dst.toNat == n

/-- The credits that REPLY needs (12 R403): one on out((b + c) mod 8), c the arc of the oldest open grant. -/
def Plane.replyChan (p : Plane) (w : Word) : Option (Fin 8) := (p.grants.head?).map fun g => Fin.ofNat 8 (bits w.toNat 14 10 + g.arc.val)

/-- A forced eviction stops its region's firing (05 R211). -/
def EqReq.forced : EqReq → Bool
  | .pevict _ f => f
  | _ => false

/-- Whether the element of a plane fires at all: a configuration, no hold of its context, not frozen, not stalled, and its launch neither
cancelled, terminated nor complete (01 R33, R39; 03 R110, R123; 05 R204, R210; 08 R307). The segments of a chained launch that is terminated fire on,
but for those whose ring the fault holds (15 R471). -/
def State.live (s : State) (e : ElemAt) (ical : Bool) : Bool :=
  let st := s.stripe e.at_
  let r := s.ring e.at_.ring
  let l := s.launch (st.conf ical).launch
  (st.cfg ical).isSome && !r.stopped && !r.holds (st.conf ical).ctx && (r.occupied == ical) && !r.stalls e.key ical && !l.cancelled && !(l.faulted && decide (l.segs.length ≤ 1)) && !l.segs.isEmpty &&
    (ical || !(r.regionOf e.at_.stripe.val).any fun g => g.reqs.any EqReq.forced)

/-- 08 R283 eligible(s), without the speculation condition of 08 R293 when `park` asks for a parkable slot (12 R394). A killed iteration fires
nothing more (08 R288, R298). -/
def State.eligibleBut (s : State) (e : ElemAt) (ical park : Bool) (i : Fin 16) : Bool :=
  let x := s.firingAt e ical i
  let el := s.elem e
  let pl := x.pl
  let t := pl.trig i
  let w := pl.iw[i]
  let j := decide (14 ≤ e.slot.val)
  let nd := slotNeeds pl j w
  let owed := pl.beat[i].toNat
  let n := if owed = 0 then t.depth + 1 else owed
  let tag := bits w.toNat 4 1
  let l := s.launch x.launch
  let spec := x.alloc.isSpec x.iter
  t.valid
  && ((List.range 16).all fun k => k == i.val || pl.beat[k % 16]'(Nat.mod_lt _ (by decide)) == 0)
  && (owed != 0 || (List.range 8).all fun k => !bit t.pmask k || (pl.p[k % 8]'(Nat.mod_lt _ (by decide))) == bit t.pval k)
  && (t.mode == 0 || (x.heads.isSome && decide (n ≤ el.guarded ical t)))
  && (owed != 0 || x.gateOk)
  && (nd.outs.all fun c => decide (n ≤ s.outFree e ical c))
  && ((wordRegs w ++ nd.marked).all fun k => !el.awaits ical k)
  && !x.alloc.isKilled x.iter
  && (!nd.notSpec || park || !spec)
  && ((tag != 5 && tag != 13) || park || !spec)
  && (tag != 10 || !x.alloc.specBefore x.iter)
  && ((tag != 3 && tag != 4) || l.canGrant x.launch e.at_.ring.die s.fc || s.exhausted x)
  && (!nd.port || decide (el.port.length < 2))
  && (!nd.ticketRoom || decide (pl.tickets.length < 64))
  && (!nd.grantReady || (!pl.tickets.isEmpty && decide (pl.grants.length < 64)))
  && (!nd.replyReady || (pl.replyChan w).any fun c => decide (1 ≤ s.outFree e ical c))

def State.eligible (s : State) (e : ElemAt) (ical : Bool) (i : Fin 16) : Bool := s.eligibleBut e ical false i

/-! ### The picker (08 R285) -/

/-- A slot of effective AGE whose count is 255. -/
def Plane.aged (p : Plane) (i : Fin 16) : Bool := p.ageOn i && p.age[i] == 255

/-- The slot whose firing is stalled for want of a scale entry (07 R255). -/
def State.stalledSlot (s : State) (e : ElemAt) (ical : Bool) : Option (Fin 16) :=
  ((s.scl e).waits.filter fun w => w.elem == e.key && w.ical == ical).findSome? fun w =>
    w.who.slot?.filter fun i => s.eligible e ical i && (s.firingAt e ical i).iter == w.iter && (s.firingAt e ical i).launch == w.launch

/-- The slot that the picker fires: one whose firing is stalled goes on; else an aged one of count 255 first, else the lowest eligible. -/
def State.pickSlot (s : State) (e : ElemAt) (ical : Bool) : Option (Fin 16 × Bool) :=
  let pl := (s.elem e).plane ical
  let el := ((List.range 16).map (Fin.ofNat 16)).filter fun i => s.eligible e ical i
  match s.stalledSlot e ical with
  | some i => some (i, pl.aged i)
  | none =>
    match el.find? pl.aged with
    | some i => some (i, true)
    | none => (el.head?).map fun i => (i, false)

/-- Age counts after a pick (08 R285): the fired slot's is 0, those of the other eligible slots rise, up to 255. -/
def State.ageAfter (s : State) (e : ElemAt) (ical : Bool) (i : Fin 16) : Vector (BitVec 8) 16 :=
  let pl := (s.elem e).plane ical
  Vector.ofFn fun k => if k = i then 0 else if s.eligible e ical k ∧ pl.age[k] ≠ 255 then pl.age[k] + 1 else pl.age[k]

/-- Slots refused a grant are counted (08 R295): those that would be eligible with one. -/
def State.refused (s : State) (e : ElemAt) (ical : Bool) : Nat :=
  let x := s.firingAt e ical 0
  let l := s.launch x.launch
  if l.canGrant x.launch e.at_.ring.die s.fc then 0
  else
    let s' := s.onLaunch x.launch fun l => { l with window := l.window + 4096, grantAt := 0, segs := l.segs.map fun g => { g with grants := g.grants + 1 } }
    ((List.range 16).filter fun i =>
      let w := ((s.elem e).plane ical).iw[i % 16]'(Nat.mod_lt _ (by decide))
      (bits w.toNat 4 1 == 3 || bits w.toNat 4 1 == 4) && s'.eligible e ical (Fin.ofNat 16 i) && !s.eligible e ical (Fin.ofNat 16 i)).length

/-- The instruction in a slot, as the element's page decodes it. -/
def State.slotInstr (s : State) (e : ElemAt) (ical : Bool) (i : Fin 16) : Option Instr :=
  let w := ((s.elem e).plane ical).iw[i]
  if 14 ≤ e.slot.val then (decodeJ w).toOption else (decodeV w).toOption

/-- Account for the firing of a slot: the ages, and its count as a forced one. -/
def State.agePick (s : State) (e : ElemAt) (ical : Bool) (i : Fin 16) (aged : Bool) : State :=
  let ages := s.ageAfter e ical i
  let s := s.onElem e fun x => x.setPlane ical { x.plane ical with age := ages }
  if aged then s.onRing e.at_.ring fun r => { r with elAgeforced := r.elAgeforced + 1 } else s

/-- Set the focus on a slot that is picked: one pick per element and fc. -/
def State.focusPick (s : State) (e : ElemAt) (ical : Bool) (i : Fin 16) : State :=
  let s := s.onElem e fun x => { x with lastPick := s.fc + 1 }
  { s with focus := { s.focus with ring := e.at_.ring, elem := e, ical := ical, islot := i } }

end Sys2Proof.Machine
end

