-- ==== Sys2Proof/Machine/Scale.lean ====
section
/-! DEFINITION. The conversion and scale-only instructions of the V page over the scale file (07 R259-R270). -/

namespace Sys2Proof.Machine

/-! ### The conversion instructions (07 R264-R266) -/

/-- CVT: AMAX is updated when A is floating (07 R262, R264). -/
def fireCvt (a d : BitVec 5) (t : TagAct) (q : Bool) (s : State) : State :=
  let x := s.firing
  let i := x.opIn a 24 24
  let r := opCvt i
  s.commit x
    { results := [(d, r.1)], reads := [a], b := Reg.zero, tag := t, q := q,
      plane := fun p => let p := { p with lfsr := r.2 }; if i.a.fmt.floating then x.takeAmax t i.a p else p,
      world := id, faults := if setW i.a.fmt then [] else [elFormat x.el a i.a.fmt] }

/-- The commit of a firing that allocates an entry (07 R255, R260): `c` is the scale file after the firing's uses, `e` the entry less its
tags, `mk` the result body under the binding. Without a free entry the firing waits and nothing else changes. -/
def State.commitAlloc (s : State) (x : Firing) (c : Scl) (e : SclEntry) (tag : TagAct) (q : Bool) (reads : List (BitVec 5)) (b : Reg)
    (d : BitVec 5) (body : Reg) (plane : Plane → Plane) (faults : List Flt) : State :=
  let ctx := x.outCtx tag
  let iter := x.outIter tag (s.launch x.launch).alloc0.next b
  let r := c.alloc { e with ctx := ctx, oiter := iter, olaunch := .ofNat 12 x.launch }
  if faults.isEmpty && !c.canAlloc ctx then
    s.onScl x.el fun c => c.waitOn ⟨ctx, x.launch, x.iter, s.fc, x.el.key, x.ical, .slot x.slot⟩
  else
    s.commit x
      { results := [(d, { body with bind := .ofNat 11 r.1, bgen := r.2.1 })], reads := reads, b := b, tag := tag, q := q, plane := plane,
        world := fun s => s.onScl x.el fun _ => (r.2.2).waitOff x.el.key x.ical (.slot x.slot), faults := faults }

/-- QNT (07 R265): BLK and the codebook come from k7. -/
def fireQnt (a d : BitVec 5) (t : TagAct) (q : Bool) (s : State) : State :=
  let x := s.firing
  let i := x.opIn a 24 24
  let k7 := (x.pl.k[7]).toNat
  let c := s.scl x.el
  let book : BitVec 6 := .ofNat 6 (bits k7 11 6)
  let r := opQnt (bits k7 13 12) (c.bookNats book) i
  s.commitAlloc x c ⟨true, 0, 0, 1, i.f, .ofNat 2 (bits k7 13 12), book, 0, 0, scaleBytes r.2.1⟩ t q [a] Reg.zero d r.1
    (fun p => x.takeAmax t i.a { p with lfsr := r.2.2 })
    ((if setF i.a.fmt then [] else [elFormat x.el a i.a.fmt]) ++ (if i.f = .c4 then c.bookUse x.ctx book else []))

/-- Whether a tag action acts on every part of a DQNT (07 R266); the others act on the last only. -/
def everyPart (t : TagAct) : Bool := t == 1 || t == 2 || t == 6 || t == 9 || t == 10 || t == 12

/-- DQNT (07 R266): one part. -/
def fireDqnt (a d : BitVec 5) (t : TagAct) (q : Bool) (s : State) : State :=
  let x := s.firing
  let i := x.opIn a 24 24
  let c := s.scl x.el
  let k := (x.pl.part[x.slot]).toNat
  let last := decide (dqntParts i.f i.a ≤ k + 1)
  let e := c.entry i.a.bind.toNat
  let r := opDqnt k e.blk.toNat e.bytes (c.bookNats e.cbook) i
  s.commit x
    { results := [(d, r.1)], reads := [a], b := Reg.zero, tag := if last || everyPart t then t else 0, q := q || !last,
      plane := fun p => { p with lfsr := r.2, part := p.part.set x.slot (if last then 0 else .ofNat 3 (k + 1)) },
      world := fun s => if last && !q then s.onScl x.el fun c => c.use i.a.bind.toNat else s,
      faults := if setN i.a.fmt then c.read x.ctx i.a else [elFormat x.el a i.a.fmt] }

/-! ### Binding arithmetic (07 R267, R268) -/

/-- The check of B's binding, made after A's use (07 R260), and SCL_BIND_FORMAT cases 1 and 2 (07 R267, R273). -/
def Scl.bindFlts (c : Scl) (op : BindOp) (q : Bool) (ctx : BitVec 6) (a b : Reg) : List Flt :=
  if op.readsB then
    (if b.fmt.scaled then
      (if q then c else c.use a.bind.toNat).read ctx b ++
      (let ea := c.entry a.bind.toNat
       let eb := c.entry b.bind.toNat
       if op ≠ .sprod ∧ (ea.blk ≠ eb.blk ∨ bytesInUse ea.fmt ea.blk.toNat ≠ bytesInUse eb.fmt eb.blk.toNat) then
         [sclFlt 0x21 (2 ^ 16 + ea.fmt.code * 2 ^ 12 + eb.fmt.code * 2 ^ 8 + ea.blk.toNat * 2 ^ 4 + eb.blk.toNat)]
       else [])
     else [sclFlt 0x21 (2 ^ 17 + a.fmt.code * 2 ^ 4 + b.fmt.code)])
  else []

/-- The scale file after the uses of a binding instruction; a read with Q = 1 takes none (07 R257). -/
def Scl.bindUses (c : Scl) (useB q : Bool) (a b : Reg) : Scl :=
  if q then c
  else
    let c := c.use a.bind.toNat
    if useB then c.use b.bind.toNat else c

/-- A copy of A's entry with new scale bytes and REFCNT 1. -/
def SclEntry.renew (e : SclEntry) (bytes : List Nat) : SclEntry := { e with refcnt := 1, scale := scaleBytes bytes }

/-- SBIND, SPOW2, SADDE, SMAX and SPROD (07 R267). -/
def fireBind (op : BindOp) (a b d : BitVec 5) (t : TagAct) (q : Bool) (s : State) : State :=
  let x := s.firing
  let i := x.opIn a b 24
  let c := s.scl x.el
  let ea := c.entry i.a.bind.toNat
  let eb := c.entry i.b.bind.toNat
  let bytes := (List.range (bytesInUse ea.fmt ea.blk.toNat)).map (bindByte op i.b ea.bytes eb.bytes)
  s.commitAlloc x (c.bindUses op.readsB q i.a i.b) (ea.renew bytes) t q [a, b] i.b d { i.a with fmt := i.f } id
    (x.inSet setN a ++ x.elemOperand i.f a ++ c.read x.ctx i.a ++ c.bindFlts op q x.ctx i.a i.b)

/-- SRENORM (07 R268). -/
def fireSrenorm (a b d : BitVec 5) (t : TagAct) (q : Bool) (s : State) : State :=
  let x := s.firing
  let i := x.opIn a b 24
  let c := s.scl x.el
  let ea := c.entry i.a.bind.toNat
  let r := srenormBytes x.srnd i.b (ea.bytes.take (bytesInUse ea.fmt ea.blk.toNat)) x.pl.lfsr
  s.commitAlloc x (c.bindUses false q i.a i.b) (ea.renew r.1) t q [a, b] i.b d { i.a with fmt := i.f } (fun p => { p with lfsr := r.2 })
    (x.inSet setN a ++ x.elemOperand i.f a ++ c.read x.ctx i.a)

/-- SREL (07 R269): one use of A's binding as a scale read. -/
def fireSrel (a : BitVec 5) (t : TagAct) (q : Bool) (s : State) : State :=
  let x := s.firing
  let ra := x.src a
  s.commit x
    { results := [], reads := [a], b := Reg.zero, tag := t, q := q, plane := id,
      world := fun s => if q then s else s.onScl x.el fun c => c.use ra.bind.toNat,
      faults := x.inSet setN a ++ x.elemOperand (x.opFmt ra) a ++ (s.scl x.el).read x.ctx ra }

/-- SLDCB (07 R269): elements 0 to 15 of A, zero where not valid; a free codebook becomes the context's own (07 R247). -/
def fireSldcb (a b : BitVec 5) (t : TagAct) (q : Bool) (s : State) : State :=
  let x := s.firing
  let i := x.opIn a b 24
  let n : BitVec 6 := (i.b.lane 0).setWidth 6
  let vs := (validElems .b16 i.a.lanes i.a.vlen.val).take 16
  let owner := (tabFind n.toNat (s.scl x.el).books).map Prod.fst
  s.commit x
    { results := [], reads := [a, b], b := i.b, tag := t, q := q, plane := id,
      world := fun s => s.onScl x.el fun c =>
        { c with books := tabPut n.toNat (x.ctx, (List.range 16).map fun k => BitVec.ofNat 16 (vs.getD k 0)) c.books },
      faults := (if i.f = .b16 then [] else [elFormat x.el a i.f]) ++ x.elemOperand i.f a ++
        (match owner with | some c => if c = x.ctx then [] else [sclFlt 0x23 (c.toNat * 2 ^ 8 + n.toNat)] | none => []) }

/-- AMAXRD (07 R270). -/
def fireAmaxrd (d : BitVec 5) (t : TagAct) (s : State) : State :=
  let x := s.firing
  let p := x.pl.readAmax x.alloc
  s.commit x
    { results := [(d, mkReg .f32 1 [p.1.toNat, if p.2 then 0x3F800000 else 0])], reads := [], b := Reg.zero, tag := t,
      q := false, plane := id, world := id, faults := [] }

/-- AMAXCLR (07 R270). -/
def fireAmaxclr (t : TagAct) (s : State) : State :=
  let x := s.firing
  s.commit x
    { results := [], reads := [], b := Reg.zero, tag := t, q := false, plane := x.clearAmax t, world := id, faults := [] }

end Sys2Proof.Machine
end

