-- ==== Sys2Proof/Machine/VPage.lean ====
section
/-! DEFINITION. The V page (02 R66; 09 R312-R341): the firing of each instruction over the shared commit. -/

namespace Sys2Proof.Machine

/-- A firing with element operand A (09 R314-R316). -/
def fire1 (set : FmtSet) (op : OpIn → OpOut) (a d : BitVec 5) (t : TagAct) (q : Bool) (s : State) : State :=
  let x := s.firing
  let i := x.opIn a 24 24
  let r := op i
  s.commit x
    { results := [(d, r.1)], reads := [a], b := Reg.zero, tag := t, q := q, plane := fun p => { p with lfsr := r.2 }, world := id,
      faults := x.inSet set a ++ x.elemOperand i.f a }

/-- A firing with element operand A and operand B, an element operand when `elemB`, else raw; an accumulating form reads DSTA. -/
def fire2 (set : FmtSet) (elemB : Bool) (op : OpIn → OpOut) (a b d : BitVec 5) (t : TagAct) (q : Bool) (s : State) : State :=
  let x := s.firing
  let i := x.opIn a b d
  let r := op i
  s.commit x
    { results := [(d, r.1)], reads := [a, b], b := i.b, tag := t, q := q, plane := fun p => { p with lfsr := r.2 }, world := id,
      faults := x.inSet set a ++ x.elemOperand i.f a ++ if elemB then x.elemOperand i.f b else [] }

/-- Whether MOV2 adds a use of A's binding: a block-scaled A and both results written (09 R319). -/
def mov2Uses (d e : BitVec 5) (r : Reg) : Bool := r.fmt.scaled && d != 24 && e != 24

/-- MOV2 (09 R319). -/
def fireMov2 (a d e : BitVec 5) (t : TagAct) (q : Bool) (s : State) : State :=
  let x := s.firing
  let i := x.opIn a 24 24
  let r := (opMove i).1
  let n := i.a.bind.toNat
  let c := s.scl x.el
  s.commit x
    { results := [(d, r), (e, r)], reads := [a], b := Reg.zero, tag := t, q := q, plane := id,
      world := fun s => if mov2Uses d e i.a then s.onScl x.el fun c => c.addUse n else s,
      faults := x.elemOperand i.f a ++
        (if mov2Uses d e i.a ∧ (c.entry n).bound = true ∧ (c.entry n).refcnt = 4095 then [sclFlt 0x22 n] else []) }

/-- MOVP (09 R320): B is copied whole with its own FMT. -/
def fireMovp (a b d e : BitVec 5) (t : TagAct) (q : Bool) (s : State) : State :=
  let x := s.firing
  let i := x.opIn a b 24
  s.commit x
    { results := [(d, (opMove i).1), (e, i.b)], reads := [a, b], b := i.b, tag := t, q := q, plane := id, world := id,
      faults := x.elemOperand i.f a }

/-- EXIT (09 R338): counted for the firing's context; beyond EXITS the firing faults. -/
def fireExit (a d : BitVec 5) (t : TagAct) (q : Bool) (s : State) : State :=
  let x := s.firing
  let i := x.opIn a 24 24
  let n := Hdr.exits x.pl.hdr
  s.commit x
    { results := [(d, (opMove i).1)], reads := [a], b := Reg.zero, tag := t, q := q, plane := fun p => p.countExit x.ctx, world := id,
      faults := x.elemOperand i.f a ++ if n < x.pl.exitCount x.ctx + 1 then [fltExit x.el n] else [] }

/-- DROP (09 R339): for each block-scaled source one use, none with Q = 1. -/
def fireDrop (a b : BitVec 5) (t : TagAct) (q : Bool) (s : State) : State :=
  let x := s.firing
  let uses := ([x.src a] ++ if b = 24 then [] else [x.src b]).filter fun r => r.fmt.scaled
  s.commit x
    { results := [], reads := [a, b], b := x.src b, tag := t, q := q, plane := id,
      world := fun s => if q then s else uses.foldl (fun s r => s.onScl x.el fun c => c.use r.bind.toNat) s, faults := [] }

/-- TRAP (09 R340): EL_TRAP; the firing consumes nothing and its tag action is not applied. -/
def fireTrap (a : BitVec 5) (t : TagAct) (q : Bool) (s : State) : State :=
  let x := s.firing
  s.commit x
    { results := [], reads := [a], b := Reg.zero, tag := t, q := q, plane := id, world := id, faults := [fltTrap x.el ((x.src a).lane 0)] }

/-- SEED (09 R341). -/
def fireSeed (a : BitVec 5) (t : TagAct) (q : Bool) (s : State) : State :=
  let x := s.firing
  s.commit x
    { results := [], reads := [a], b := Reg.zero, tag := t, q := q, plane := fun p => { p with lfsr := seedLfsr ((x.src a).lane 0) },
      world := id, faults := [] }

/-- RAND (09 R341). -/
def fireRand (d : BitVec 5) (t : TagAct) (s : State) : State :=
  let x := s.firing
  let r := opRand (x.opIn 24 24 24)
  s.commit x
    { results := [(d, r.1)], reads := [], b := Reg.zero, tag := t, q := false, plane := fun p => { p with lfsr := r.2 }, world := id,
      faults := [] }

/-! ### One meaning per instruction -/

/-- MOV (09 R318). -/
def execMov (a d : BitVec 5) (t : BitVec 4) (q : Bool) (s : State) : Result := .next (fire1 setAll opMove a d t q s)
/-- MOV2 (09 R319). -/
def execMov2 (a d e : BitVec 5) (t : BitVec 4) (q : Bool) (s : State) : Result := .next (fireMov2 a d e t q s)
/-- MOVP (09 R320). -/
def execMovp (a b d e : BitVec 5) (t : BitVec 4) (q : Bool) (s : State) : Result := .next (fireMovp a b d e t q s)
/-- SEL (09 R321). -/
def execSel (a b d : BitVec 5) (t : BitVec 4) (q : Bool) (s : State) : Result := .next (fire2 setAll false opSel a b d t q s)
/-- SETVL (09 R321). -/
def execSetvl (a b d : BitVec 5) (t : BitVec 4) (q : Bool) (s : State) : Result := .next (fire2 setAll false opSetvl a b d t q s)
/-- BCAST (09 R322). -/
def execBcast (a b d : BitVec 5) (t : BitVec 4) (q : Bool) (s : State) : Result := .next (fire2 setW false opBcast a b d t q s)
/-- ADD (09 R323). -/
def execAdd (a b d : BitVec 5) (t : BitVec 4) (q : Bool) (s : State) : Result := .next (fire2 setI true opAdd a b d t q s)
/-- SUB (09 R323). -/
def execSub (a b d : BitVec 5) (t : BitVec 4) (q : Bool) (s : State) : Result := .next (fire2 setI true opSub a b d t q s)
/-- MUL (09 R323). -/
def execMul (a b d : BitVec 5) (t : BitVec 4) (q : Bool) (s : State) : Result := .next (fire2 setI true opMul a b d t q s)
/-- MULH (09 R324). -/
def execMulh (a b d : BitVec 5) (t : BitVec 4) (q : Bool) (s : State) : Result := .next (fire2 setI true opMulh a b d t q s)
/-- MAD (09 R323). -/
def execMad (a b d : BitVec 5) (t : BitVec 4) (q : Bool) (s : State) : Result := .next (fire2 setI true opMad a b d t q s)
/-- NEG (09 R324). -/
def execNeg (a d : BitVec 5) (t : BitVec 4) (q : Bool) (s : State) : Result := .next (fire1 setI opNeg a d t q s)
/-- ABS (09 R324). -/
def execAbs (a d : BitVec 5) (t : BitVec 4) (q : Bool) (s : State) : Result := .next (fire1 setI opAbs a d t q s)
/-- MIN (09 R323). -/
def execMin (a b d : BitVec 5) (t : BitVec 4) (q : Bool) (s : State) : Result := .next (fire2 setI true opMin a b d t q s)
/-- MAX (09 R323). -/
def execMax (a b d : BitVec 5) (t : BitVec 4) (q : Bool) (s : State) : Result := .next (fire2 setI true opMax a b d t q s)
/-- AND (09 R325). -/
def execAndV (a b d : BitVec 5) (t : BitVec 4) (q : Bool) (s : State) : Result := .next (fire2 setW false opAnd a b d t q s)
/-- OR (09 R325). -/
def execOrV (a b d : BitVec 5) (t : BitVec 4) (q : Bool) (s : State) : Result := .next (fire2 setW false opOr a b d t q s)
/-- XOR (09 R325). -/
def execXorV (a b d : BitVec 5) (t : BitVec 4) (q : Bool) (s : State) : Result := .next (fire2 setW false opXor a b d t q s)
/-- ANDN (09 R325). -/
def execAndn (a b d : BitVec 5) (t : BitVec 4) (q : Bool) (s : State) : Result := .next (fire2 setW false opAndn a b d t q s)
/-- NOT (09 R325). -/
def execNotV (a d : BitVec 5) (t : BitVec 4) (q : Bool) (s : State) : Result := .next (fire1 setW opNot a d t q s)
/-- SHL (09 R325). -/
def execShl (a b d : BitVec 5) (t : BitVec 4) (q : Bool) (s : State) : Result := .next (fire2 setI false opShl a b d t q s)
/-- SHR (09 R325). -/
def execShr (a b d : BitVec 5) (t : BitVec 4) (q : Bool) (s : State) : Result := .next (fire2 setI false opShr a b d t q s)
/-- SAR (09 R325). -/
def execSar (a b d : BitVec 5) (t : BitVec 4) (q : Bool) (s : State) : Result := .next (fire2 setI false opSar a b d t q s)
/-- POPC (09 R325). -/
def execPopc (a d : BitVec 5) (t : BitVec 4) (q : Bool) (s : State) : Result := .next (fire1 setI opPopc a d t q s)
/-- CLZ (09 R325). -/
def execClz (a d : BitVec 5) (t : BitVec 4) (q : Bool) (s : State) : Result := .next (fire1 setI opClz a d t q s)
/-- CMPEQ (09 R326). -/
def execCmpeq (a b d : BitVec 5) (t : BitVec 4) (q : Bool) (s : State) : Result := .next (fire2 setW true opCmpeq a b d t q s)
/-- CMPNE (09 R326). -/
def execCmpne (a b d : BitVec 5) (t : BitVec 4) (q : Bool) (s : State) : Result := .next (fire2 setW true opCmpne a b d t q s)
/-- CMPLT (09 R326). -/
def execCmplt (a b d : BitVec 5) (t : BitVec 4) (q : Bool) (s : State) : Result := .next (fire2 setW true opCmplt a b d t q s)
/-- CMPLE (09 R326). -/
def execCmple (a b d : BitVec 5) (t : BitVec 4) (q : Bool) (s : State) : Result := .next (fire2 setW true opCmple a b d t q s)
/-- CMPLTU (09 R326). -/
def execCmpltu (a b d : BitVec 5) (t : BitVec 4) (q : Bool) (s : State) : Result := .next (fire2 setI true opCmpltu a b d t q s)
/-- ANYNZ (09 R327). -/
def execAnynz (a d : BitVec 5) (t : BitVec 4) (q : Bool) (s : State) : Result := .next (fire1 setW opAnynz a d t q s)
/-- ALLNZ (09 R327). -/
def execAllnz (a d : BitVec 5) (t : BitVec 4) (q : Bool) (s : State) : Result := .next (fire1 setW opAllnz a d t q s)
/-- FADD (09 R328, R329). -/
def execFadd (a b d : BitVec 5) (t : BitVec 4) (q : Bool) (s : State) : Result := .next (fire2 setF true opFadd a b d t q s)
/-- FSUB (09 R328, R329). -/
def execFsub (a b d : BitVec 5) (t : BitVec 4) (q : Bool) (s : State) : Result := .next (fire2 setF true opFsub a b d t q s)
/-- FMUL (09 R328, R329). -/
def execFmul (a b d : BitVec 5) (t : BitVec 4) (q : Bool) (s : State) : Result := .next (fire2 setF true opFmul a b d t q s)
/-- FMA (09 R328, R329). -/
def execFma (a b d : BitVec 5) (t : BitVec 4) (q : Bool) (s : State) : Result := .next (fire2 setF true opFma a b d t q s)
/-- FNMA (09 R328, R329). -/
def execFnma (a b d : BitVec 5) (t : BitVec 4) (q : Bool) (s : State) : Result := .next (fire2 setF true opFnma a b d t q s)
/-- FMIN (09 R330). -/
def execFmin (a b d : BitVec 5) (t : BitVec 4) (q : Bool) (s : State) : Result := .next (fire2 setF true opFmin a b d t q s)
/-- FMAX (09 R330). -/
def execFmax (a b d : BitVec 5) (t : BitVec 4) (q : Bool) (s : State) : Result := .next (fire2 setF true opFmax a b d t q s)
/-- FABS (09 R331). -/
def execFabs (a d : BitVec 5) (t : BitVec 4) (q : Bool) (s : State) : Result := .next (fire1 setF opFabs a d t q s)
/-- FNEG (09 R331). -/
def execFneg (a d : BitVec 5) (t : BitVec 4) (q : Bool) (s : State) : Result := .next (fire1 setF opFneg a d t q s)
/-- RCP (09 R332, R333). -/
def execRcp (a d : BitVec 5) (t : BitVec 4) (q : Bool) (s : State) : Result := .next (fire1 setF opRcp a d t q s)
/-- RSQ (09 R332, R333). -/
def execRsq (a d : BitVec 5) (t : BitVec 4) (q : Bool) (s : State) : Result := .next (fire1 setF opRsq a d t q s)
/-- SQRT (09 R332, R333). -/
def execSqrt (a d : BitVec 5) (t : BitVec 4) (q : Bool) (s : State) : Result := .next (fire1 setF opSqrt a d t q s)
/-- EXP2 (09 R332, R333). -/
def execExp2 (a d : BitVec 5) (t : BitVec 4) (q : Bool) (s : State) : Result := .next (fire1 setF opExp2 a d t q s)
/-- LOG2 (09 R332, R333). -/
def execLog2 (a d : BitVec 5) (t : BitVec 4) (q : Bool) (s : State) : Result := .next (fire1 setF opLog2 a d t q s)
/-- TANH (09 R332, R333). -/
def execTanh (a d : BitVec 5) (t : BitVec 4) (q : Bool) (s : State) : Result := .next (fire1 setF opTanh a d t q s)
/-- SIGM (09 R332, R333). -/
def execSigm (a d : BitVec 5) (t : BitVec 4) (q : Bool) (s : State) : Result := .next (fire1 setF opSigm a d t q s)
/-- RSUM (09 R334). -/
def execRsum (a d : BitVec 5) (t : BitVec 4) (q : Bool) (s : State) : Result := .next (fire1 setW opRsum a d t q s)
/-- RMAX (09 R334). -/
def execRmax (a d : BitVec 5) (t : BitVec 4) (q : Bool) (s : State) : Result := .next (fire1 setW opRmax a d t q s)
/-- RMIN (09 R334). -/
def execRmin (a d : BitVec 5) (t : BitVec 4) (q : Bool) (s : State) : Result := .next (fire1 setW opRmin a d t q s)
/-- RAMAX (09 R334). -/
def execRamax (a d : BitVec 5) (t : BitVec 4) (q : Bool) (s : State) : Result := .next (fire1 setF opRamax a d t q s)
/-- SHUF (09 R335). -/
def execShuf (a b d : BitVec 5) (t : BitVec 4) (q : Bool) (s : State) : Result := .next (fire2 setW false opShuf a b d t q s)
/-- ROT (09 R335). -/
def execRot (a b d : BitVec 5) (t : BitVec 4) (q : Bool) (s : State) : Result := .next (fire2 setW false opRot a b d t q s)
/-- EXTR (09 R335). -/
def execExtr (a b d : BitVec 5) (t : BitVec 4) (q : Bool) (s : State) : Result := .next (fire2 setW false opExtr a b d t q s)
/-- INS (09 R336). -/
def execIns (a b d : BitVec 5) (t : BitVec 4) (q : Bool) (s : State) : Result := .next (fire2 setW false opIns a b d t q s)
/-- CVT (07 R264). -/
def execCvt (a d : BitVec 5) (t : BitVec 4) (q : Bool) (s : State) : Result := .next (fireCvt a d t q s)
/-- QNT (07 R265). -/
def execQnt (a d : BitVec 5) (t : BitVec 4) (q : Bool) (s : State) : Result := .next (fireQnt a d t q s)
/-- DQNT (07 R266). -/
def execDqnt (a d : BitVec 5) (t : BitVec 4) (q : Bool) (s : State) : Result := .next (fireDqnt a d t q s)
/-- SBIND (07 R267). -/
def execSbind (a b d : BitVec 5) (t : BitVec 4) (q : Bool) (s : State) : Result := .next (fireBind .sbind a b d t q s)
/-- SREL (07 R269). -/
def execSrel (a : BitVec 5) (t : BitVec 4) (q : Bool) (s : State) : Result := .next (fireSrel a t q s)
/-- SPOW2 (07 R267). -/
def execSpow2 (a b d : BitVec 5) (t : BitVec 4) (q : Bool) (s : State) : Result := .next (fireBind .spow2 a b d t q s)
/-- SADDE (07 R267). -/
def execSadde (a b d : BitVec 5) (t : BitVec 4) (q : Bool) (s : State) : Result := .next (fireBind .sadde a b d t q s)
/-- SMAX (07 R267). -/
def execSmax (a b d : BitVec 5) (t : BitVec 4) (q : Bool) (s : State) : Result := .next (fireBind .smax a b d t q s)
/-- SPROD (07 R267). -/
def execSprod (a b d : BitVec 5) (t : BitVec 4) (q : Bool) (s : State) : Result := .next (fireBind .sprod a b d t q s)
/-- SRENORM (07 R268). -/
def execSrenorm (a b d : BitVec 5) (t : BitVec 4) (q : Bool) (s : State) : Result := .next (fireSrenorm a b d t q s)
/-- SLDCB (07 R269). -/
def execSldcb (a b : BitVec 5) (t : BitVec 4) (q : Bool) (s : State) : Result := .next (fireSldcb a b t q s)
/-- AMAXRD (07 R270). -/
def execAmaxrd (d : BitVec 5) (t : BitVec 4) (s : State) : Result := .next (fireAmaxrd d t s)
/-- AMAXCLR (07 R270). -/
def execAmaxclr (t : BitVec 4) (s : State) : Result := .next (fireAmaxclr t s)
/-- EXIT (09 R338). -/
def execExit (a d : BitVec 5) (t : BitVec 4) (q : Bool) (s : State) : Result := .next (fireExit a d t q s)
/-- DROP (09 R339). -/
def execDrop (a b : BitVec 5) (t : BitVec 4) (q : Bool) (s : State) : Result := .next (fireDrop a b t q s)
/-- TRAP (09 R340). -/
def execTrap (a : BitVec 5) (t : BitVec 4) (q : Bool) (s : State) : Result := .next (fireTrap a t q s)
/-- SEED (09 R341). -/
def execSeed (a : BitVec 5) (t : BitVec 4) (q : Bool) (s : State) : Result := .next (fireSeed a t q s)
/-- RAND (09 R341). -/
def execRand (d : BitVec 5) (t : BitVec 4) (s : State) : Result := .next (fireRand d t s)

end Sys2Proof.Machine
end

