-- ==== Sys2Proof/Machine/ElementEvents.lean ====
section
/-! DEFINITION. The events of an element that no slot fires: token arrival, steering, the absorption of KILL tokens, matching, the sweep of a
killed iteration and the advance of the window base (08 R278-R282, R296, R298; 15 R463, R464, R468-R470). -/

namespace Sys2Proof.Machine

/-! ### Token arrival -/

/-- The element whose stripe and plane the record of a hop names. -/
def hopElem : Hop → ElemAt
  | .out c => c.el
  | .pass p _ => ⟨p, 0⟩

/-- Send the head of a chained hop over its link when that is trained, its retry buffer has room and a slot of the far buffer is free; a block-scaled
token that is no KILL token takes its scale record with it, by a scale read and one use of its entry (15 R464, R470). -/
def State.sendHop (s : State) (h : Hop) (launch seg code : Nat) : State :=
  match takeFirst false (s.hopTokens h), s.segPlace launch seg with
  | some (t, rest), some g =>
    let r := (hopStripe h).ring
    let n := endpointTo r.die g.die
    let key := segKey launch seg
    let free := tabGet 64 key ((s.die r.die).link n).free
    let c := (s.ring r).scl
    let b := t.tok.body
    let k := (s.die r.die).link n
    if free = 0 ∨ !k.ready ∨ !k.queue.isEmpty then s
    else
      let scaled := b.fmt.scaled && !t.tok.kill
      match lowestFlt (if scaled then c.read t.tok.ctx b else []) with
      | some f => s.siteFault (hopElem h) false none t.tok.ctx (some t.tok.iter) f
      | none =>
        let s := (s.setHop h rest).onRing r fun x => { x with scl := if scaled then c.use b.bind.toNat else c }
        (s.onLink r.die n fun l => { l with free := tabPut key (free - 1) l.free }).sendSlot r.die g.die
          (.token launch seg code t (if scaled then some (c.entry b.bind.toNat) else none))
  | _, _ => s

/-- A hop of a token: to its target's queue or pass register, or over a link. One that is not admitted or finds no credit stays. -/
def State.hop (s : State) (h : Hop) (ical : Bool) : State :=
  if s.moving (hopStripe h) ical then
    match s.hopTarget h ical with
    | .chain launch seg code => s.sendHop h launch seg code
    | tg =>
      match takeFirst ical (s.hopTokens h) with
      | none => s
      | some (t, rest) => (State.land (s.setHop h rest) tg ical (s.wraps h ical tg) false t).getD s
  else s

/-- TOKEN_ARRIVAL (08 R279). -/
def execTokenArrival (h : Hop) (ical : Bool) (s : State) : Result := .next (s.hop h ical)

/-- Of the steered tokens of the planes that are not frozen, each the oldest for its channel, the first that its target can take goes there: to the
same channel of the element that STEER names (08 R279 case 4, R307). -/
def State.steerStep (s : State) (e : ElemAt) : State :=
  let x := s.elem e
  let first (t : Steered) : Bool := (x.steer.find? fun u => u.ical == t.ical && u.chan == t.chan) == some t
  ((x.steer.filter fun t => s.moving e.at_ t.ical && first t).findSome? fun t =>
    State.arrive (s.onElem e fun x => { x with steer := x.steer.erase t }) (e.mate (Hdr.steer (x.plane t.ical).hdr)) t.ical t.chan t.tok false
      true).getD s

/-- STEER_DELIVERY (08 R279 case 4). -/
def execSteerDelivery (e : ElemAt) (s : State) : Result := .next (s.steerStep e)

/-! ### KILL tokens -/

/-- Send one EOS|KILL token of the tags of `t` on each of the channels. -/
def State.stageKills (s : State) (e : ElemAt) (ical : Bool) (t : Token) (outs : List (Fin 8)) : State :=
  outs.foldl (fun s c => s.stage e ical c { t.asKill with eos := true, spec := false }) s

/-- The absorption of a KILL token that heads a queue of a V- or J-element (08 R280); it waits for the credits that it needs. -/
def State.absorb (s : State) (e : ElemAt) (ical : Bool) (c : Fin 8) : State :=
  let x := s.elem e
  match x.queue ical c with
  | [] => s
  | t :: rest =>
    let outs := if t.eos && !t.spec then (x.plane ical).killOuts (decide (14 ≤ e.slot.val)) c else []
    if t.kill && s.moving e.at_ ical && outs.all fun o => decide (1 ≤ s.outFree e ical o) then
      State.stageKills (s.setElem e (x.setQueue ical c rest)) e ical t outs
    else s

/-- KILL_ABSORB (08 R280). -/
def execKillAbsorb (c : ChanAt) (ical : Bool) (s : State) : Result := .next (s.absorb c.el ical c.chan)

/-! ### Matching -/

/-- One step of matching on a channel in pairing use (08 R281, R282). -/
def State.matchOn (s : State) (e : ElemAt) (ical : Bool) (c : Fin 8) : State :=
  match (s.elem e).queue ical c, ((s.elem e).plane ical).pairOf c with
  | x :: rest, some pr => if !x.kill && s.moving e.at_ ical then s.pairStep e ical c x rest pr else s
  | _, _ => s

/-- MATCH_STEP (08 R282). -/
def execMatchStep (c : ChanAt) (ical : Bool) (s : State) : Result := .next (s.matchOn c.el ical c.chan)

/-! ### Killed iterations -/

/-- The drop rule of 08 R279 case 2 on a list of tokens. -/
def dropFrom (mine : Token → Bool) (a : Alloc) (q : List Token) : List Token := q.flatMap fun t => if mine t then dropped a t else [t]

/-- The EOS|KILL tokens that the halves and pairs removed from the matching store leave on a channel (08 R298). -/
def Elem.storeKills (x : Elem) (ical : Bool) (mine : Token → Bool) (a : Alloc) (c : Fin 8) : List Token :=
  let hs := (x.halves.filter fun h => h.ical == ical && h.chan == c).map Half.tok
  let ps := (x.ready.filter fun p => p.ical == ical).flatMap fun p => (if p.cha = c then [p.a] else []) ++ (if p.chb = c then [p.b] else [])
  ((hs ++ ps).filter mine).flatMap (dropped a)

/-- The EOS|KILL tokens that the parked stores of a killed iteration leave on a channel (12 R395). -/
def Elem.parkedKills (x : Elem) (ical : Bool) (mine : Token → Bool) (a : Alloc) (c : Fin 8) : List Token :=
  x.isb.flatMap fun
    | .held _ => []
    | .parked i _ t _ hs => if i = ical ∧ mine t then (hs.filter fun h => decide (h.1 = c)).flatMap fun h => dropped a h.2 else []

/-- What an element keeps of a pair of which a token is removed: the partner of another iteration goes back to its channel's head. -/
def Elem.partners (x : Elem) (ical : Bool) (mine : Token → Bool) (c : Fin 8) : List Token :=
  (x.ready.filter fun p => p.ical == ical).flatMap fun p =>
    (if p.cha = c && !mine p.a && mine p.b then [p.a] else []) ++ (if p.chb = c && !mine p.b && mine p.a then [p.b] else [])

/-- Remove every non-KILL token of a killed iteration from an element (08 R298), its held and parked stores, ticket-queue entries and grants
(12 R395, R403), its open rows and drains (11 R368). -/
def Elem.sweep (x : Elem) (ical : Bool) (ctx : BitVec 6) (v : BitVec 12) (a : Alloc) : Elem :=
  let mine (t : Token) : Bool := t.ctx == ctx && t.iter == v && !t.kill
  let pl := x.plane ical
  let m := x.mpart ical
  let qs := Vector.ofFn fun c => x.parkedKills ical mine a c ++ x.storeKills ical mine a c ++ x.partners ical mine c ++ dropFrom mine a (x.queue ical c)
  let x := if ical then { x with inqI := qs } else { x with inq := qs }
  let x := x.setPlane ical
    { pl.dropAmax ctx v with
      tickets := pl.tickets.filter fun t => !mine t.tok, grants := pl.grants.filter fun g => !(g.ctx == ctx && g.iter == v) }
  let x := x.setMpart ical
    { m with
      rows := m.rows.filter fun r => !(r.2.ctx == ctx && r.2.iter == v), drains := m.drains.filter fun d => !(d.ctx == ctx && d.iter == v && !d.kill) }
  { x with
    halves := x.halves.filter fun h => !(h.ical == ical && mine h.tok),
    ready := x.ready.filter fun p => !(p.ical == ical && (mine p.a || mine p.b)),
    out := x.out.map fun o => o.flatMap fun t => if t.ical == ical && mine t.tok then (dropped a t.tok).map fun k => { t with tok := k } else [t],
    isb := x.isb.filter fun
      | .held op => !(op.ical == ical && op.ctx == ctx && op.iter == v)
      | .parked i _ t _ _ => !(i == ical && mine t) }

/-- Tokens that a sweep removes from the queues, the matching store, the staging and the parked stores of an element. -/
def Elem.sweepCount (x : Elem) (ical : Bool) (ctx : BitVec 6) (v : BitVec 12) : Nat :=
  let mine (t : Token) : Bool := t.ctx == ctx && t.iter == v && !t.kill
  let q := (((x.queues ical).toList.flatten).filter mine).length
  let h := (x.halves.filter fun h => h.ical == ical && mine h.tok).length
  let p := ((x.ready.filter fun p => p.ical == ical).map fun p => (if mine p.a then 1 else 0) + (if mine p.b then 1 else 0)).foldl (· + ·) 0
  let o := ((x.out.toList.flatten).filter fun t => t.ical == ical && mine t.tok).length
  let k := (x.isb.map fun
    | .held _ => 0
    | .parked i _ a _ hs => if i = ical ∧ mine a then hs.length else 0).foldl (· + ·) 0
  q + h + p + o + k

/-- Whether a launch stands frozen on a ring as the victim of an intercalary occupation (08 R307). -/
def State.frozenAt (s : State) (l : Nat) (r : RingAt) : Bool := !(s.launch l).ical && (s.ring r).occupied

/-- The sweep of one segment, once its allocator has marked the iteration killed, or its launch is cancelled (05 R204): its operations that have not linked and its waiting LDVs are
withdrawn, and the entries bound for the iteration are released (07 R258). A frozen victim is swept after the occupation (08 R307). -/
def State.sweepSeg (s : State) (l : Nat) (v : BitVec 12) (g : Seg) : State :=
  let x := s.launch l
  let r : RingAt := ⟨g.die, g.ring⟩
  if (g.alloc.isKilled v || x.cancelled) && !s.frozenAt l r then
    let es := (s.launchElems l).filter fun e => decide (e.at_.ring = r)
    let n := (es.map fun e => (s.elem e).sweepCount x.ical g.ctx v).foldl (· + ·) 0
    let s := s.dropOps r (fun o => o.launch == l && o.ctx == g.ctx && o.iter == v) fun o => o.kind == .ldv && !o.ready
    (s.onElems es fun _ e => e.sweep x.ical g.ctx v g.alloc).onRing r fun y =>
      { y with
        elKilldrop := y.elKilldrop + .ofNat 64 n,
        scl := y.scl.releaseAll fun e => e.ctx == g.ctx && e.oiter == v && e.olaunch == BitVec.ofNat 12 l }
  else s

/-- ITER_KILL_SWEEP (08 R298). -/
def execIterKillSweep (die : Fin 4) (entry iter : BitVec 12) (s : State) : Result :=
  let l := launchKey die entry.toNat
  .next ((s.launch l).segs.foldl (fun s g => s.sweepSeg l iter g) s)

/-! ### The window base -/

/-- Pass the value at base (08 R296). -/
def Alloc.pass (a : Alloc) : Alloc := { a with base := a.base + 1, span := a.span - 1, marks := tabDel a.base.toNat a.marks }

/-- Whether the base of a segment can pass its value: retired or killed, and its unit counter zero (08 R296),
while the region is not frozen (R307). -/
def State.canPass (s : State) (l : Nat) (d : Fin 4) : Bool :=
  let a := (s.launch l).alloc d
  decide (0 < a.span) && Alloc.gone (a.mark a.base) && s.unitCount l d a.base == 0 &&
    !((s.launch l).seg d).any fun g => s.frozenAt l ⟨g.die, g.ring⟩

/-- A killed value at the base is swept before the base passes it (08 R298; 07 R258). -/
def State.sweepBase (s : State) (l : Nat) (d : Fin 4) : State :=
  match (s.launch l).seg d with
  | some g => s.sweepSeg l g.alloc.base g
  | none => s

/-- What elements hold of an iteration for AMAX is fixed, before its value is passed: it reaches the registers. -/
def State.settleIter (s : State) (l : Nat) (d : Fin 4) (v : BitVec 12) : State :=
  let x := s.launch l
  let es := (s.launchElems l).filter fun e =>
    decide (e.at_.ring.die = d) && ((s.elem e).plane x.ical).amaxHeld.any fun h => h.iter == v
  s.onElems es fun _ y => y.setPlane x.ical ((y.plane x.ical).settleAmax (x.alloc d))

/-- Advance a segment's base by one, report it to segment 0 (15 R469), and end the wave chain of the value passed. -/
def State.passBase (s : State) (l : Nat) (d : Fin 4) : State :=
  let s := s.sweepBase l d
  if s.canPass l d then
    let v := ((s.launch l).alloc d).base
    let s := (s.settleIter l d v).onLaunch l fun x => x.onSeg d fun g => { g with alloc := g.alloc.pass }
    let s := s.onRings (dieRings d) fun _ r => { r with chains := r.chains.filter fun c => !(c.launch == l && c.iter == v) }
    s.sendSlot d (Fin.ofNat 4 (l / 4096)) (.baseReport l 0 (d.val - l / 4096) (v + 1))
  else s

/-- Up to 4 values per fc (08 R296). -/
def State.advanceSeg (s : State) (l : Nat) (d : Fin 4) : State := (List.range 4).foldl (fun s _ => s.passBase l d) s

/-- WINDOW_ADVANCE (08 R296): every segment advances its own base. -/
def execWindowAdvance (die : Fin 4) (entry : BitVec 12) (s : State) : Result :=
  let l := launchKey die entry.toNat
  .next ((s.launch l).segs.foldl (fun s g => s.advanceSeg l g.die) s)

end Sys2Proof.Machine
end

