-- ==== Sys2Proof/Machine/JMemory.lean ====
section
/-! DEFINITION. The memory operations of a J-element: their checks at commit, their wave chains, and their performance (03 R93, R96, R101,
R108-R123; 12 R385-R393, R396-R399). -/

namespace Sys2Proof.Machine

/-! ### Forms and checks (12 R387, R388) -/

def MemKind.store : MemKind → Bool
  | .st | .stv | .recl | .scat | .signal => true
  | _ => false

/-- The plain accesses, which are relaxed (03 R107). -/
def MemKind.plain : MemKind → Bool
  | .ld | .st | .gath | .scat => true
  | _ => false

/-- The descriptor's fields (02 R68). -/
def dRidx (w0 : Word) : Nat := bits w0.toNat 31 16
def wSeq (w1 : Word) : Nat := bits w1.toNat 31 24
def wPred (w1 : Word) : Nat := bits w1.toNat 23 16
def wSucc (w1 : Word) : Nat := bits w1.toNat 15 8

/-- The accesses of a form as (offset, bytes): offset o(i) is lane i of A (12 R388, R389). -/
def memSpans (k : MemKind) (a b : Reg) : List (Nat × Nat) :=
  let o := (a.lane 0).toNat
  let lanes (n : Nat) : List (Nat × Nat) := (List.range (n + 1)).map fun i => ((a.lane i).toNat, 4)
  match k with
  | .ld | .ldv | .recl => [(o, 4 * (a.vlen.val + 1))]
  | .st | .stv => [(o, 4 * (b.vlen.val + 1))]
  | .gath => lanes a.vlen.val
  | .scat => lanes (min a.vlen.val b.vlen.val)
  | .pref | .signal | .waita => [(o, 4)]
  | .fence | .fencex | .waitc => []

def jnFlt (code aux : Nat) : Flt := ⟨code, 3, 1, aux⟩

/-- The window of an element's stripe in bytes of its ring's scratchpad (02 R46, 03 R90). -/
def Cfg.window (c : Cfg) : Nat × Nat := (64 * c.spwbase.toNat, 64 * c.spwsize.toNat)

/-- The region, PASID and resource entry that a firing's descriptor names. -/
def State.opRes (s : State) (e : ElemAt) (launch : Nat) (w0 : Word) : Option Res :=
  s.resource (s.launch launch).pasid (s.regionAt e.at_) (dRidx w0)

/-- Checks of R93, R96 and R113 on a usable entry; a PREF makes only those of R93 (12 R389). A versioned scratchpad access passes its window when
the resource's whole reservation does (log 46). -/
def resFlts (c : Cfg) (k : MemKind) (r : Res) (a b : Reg) : List Flt :=
  let o := (a.lane 0).toNat
  let needs := if k.store then r.canWrite else if k = .waitc then true else r.canRead
  let versioned := k = .stv ∨ k = .ldv ∨ k = .recl
  let spans := memSpans k a b
  (if r.space = 2 ∨ !needs then [jnFlt 0x42 o] else []) ++
  (spans.filter fun p => p.1 % 4 ≠ 0 || decide (r.extent < p.1 + p.2)).map (fun p => jnFlt 0x41 p.1) ++
  (if (versioned ∧ !r.vers) ∨ ((k = .st ∨ k = .scat) ∧ r.vers = true) then [jnFlt 0x44 o] else []) ++
  (if r.space = 1 ∧ k ≠ .pref then
    spans.filterMap fun p =>
      if c.window.2 < (if r.vers then r.base + 5 * r.extent else r.base + p.1 + p.2) then some (jnFlt 0x41 p.1) else none
  else if r.space = 0 ∧ k ≠ .pref then spans.filterMap fun p => (badVa (vaOf r.base p.1) p.2).map fltAddr
  else [])

/-- A versioned operation: a SIGNAL on a versioned resource acts as an STV (12 R389). -/
def MemKind.versioned (k : MemKind) (r : Res) : Bool := k == .stv || k == .ldv || k == .recl || (k == .signal && r.vers)

/-- R113 at commit: a versioned operation whose address is known to translate to host memory. Without a cached translation the check is made when
there is one (log 47). -/
def State.hostFlts (s : State) (e : ElemAt) (pasid : BitVec 20) (k : MemKind) (r : Res) (a : Reg) : List Flt :=
  let o := (a.lane 0).toNat
  if r.space = 0 ∧ k.versioned r then
    match s.locOf e.at_.ring.die pasid (vaOf r.base o) k.store with
    | some (.host _) => [jnFlt 0x44 o]
    | _ => []
  else []

/-- The checks that a memory or wait form makes at commit. -/
def State.memFlts (s : State) (x : Firing) (k : MemKind) (w0 : Word) (a b : Reg) : List Flt :=
  if k = .fence ∨ k = .fencex then []
  else
    match s.opRes x.el x.launch w0 with
    | none => [jnFlt 0x40 (dRidx w0)]
    | some r =>
      if r.usable then
        resFlts ((s.stripe x.el.at_).conf x.ical) k r a b ++ s.hostFlts x.el (s.launch x.launch).pasid k r a ++
        (if (k = .ld ∨ k = .ldv ∨ k = .gath) ∧ x.sfmt = 8 ∧ 4 ≤ r.fmt then [jnFlt 0x4A r.fmt] else [])
      else [jnFlt 0x40 (dRidx w0)]

/-- The format of a load's result (12 R388). -/
def State.loadFmt (s : State) (x : Firing) (w0 : Word) : Fmt :=
  if x.sfmt ≤ 3 then Fmt.ofCode x.sfmt else Fmt.ofCode (((s.opRes x.el x.launch w0).map Res.fmt).getD 0)

/-- The alias check on an out token whose result is delivered later (08 R297). -/
def Firing.outAlias (x : Firing) (d : BitVec 5) (tag : TagAct) (b : Reg) : List Flt :=
  let v := x.outIter tag 0 b
  if isOut d && tag != 3 && tag != 4 && tag != 7 && x.alloc.alias_ v then [fltAlias x.el v x.alloc] else []

/-- Put an operation on its way to the memory interface: it arrives, and its result is owed (12 R385). -/
def State.issue (s : State) (x : Firing) (op : MemOp) : State :=
  let s := s.onRing x.el.at_.ring fun r => { r with arriving := r.arriving ++ [op] }
  let s := if op.dst = 24 then s else s.onElem x.el fun e => { e with pend := e.pend ++ [⟨op.id, x.ical, op.dst, op.rctx, op.riter⟩] }
  State.owe { s with opCtr := s.opCtr + 1 } x.el x.ical x.launch

/-! ### Wave order (03 R108-R112) -/

def MemOp.chainOf (o : MemOp) (c : Chain) : Bool := c.launch == o.launch && c.ctx == o.ctx && c.iter == o.iter
def Ring.chain (r : Ring) (o : MemOp) : Chain := (r.chains.find? o.chainOf).getD ⟨o.launch, o.ctx, o.iter, none, []⟩

/-- 03 R110 can_link. -/
def canLink (t : Option Word) (w : Word) : Bool :=
  match t with
  | none => wPred w == 0
  | some t => wSucc t == wSeq w || (wSucc t == 0xFF && wPred w == wSeq t)

/-- Cases 1 to 3 of MEM_WAVE for an arriving operation (03 R112). -/
def Chain.wrong (c : Chain) (w : Word) : Bool :=
  c.seqs.contains (wSeq w) || (wPred w == 0 && c.tail.isSome) || c.tail.any fun t => wSucc t == 0

/-- Make an operation the tail of its chain. -/
def Ring.linkTail (r : Ring) (o : MemOp) : Ring :=
  let c := r.chain o
  { r with chains := (r.chains.filter fun c => !o.chainOf c) ++ [{ c with tail := some o.w1, seqs := c.seqs ++ [wSeq o.w1] }] }

/-- Entries of a store buffer that a plane may use (12 R392). -/
def isbCap (reserve ical : Bool) : Nat := if ical then 8 else if reserve then 56 else 64
def IsbEntry.ical : IsbEntry → Bool
  | .held o => o.ical
  | .parked i _ _ _ _ => i
def State.isbRoom (s : State) (e : ElemAt) (ical : Bool) : Bool :=
  decide (((s.elem e).isb.filter fun b => b.ical == ical).length < isbCap (s.ring e.at_.ring).icalValid ical)

/-- Whether an operation is held when it links: a write in deterministic mode (12 R393). -/
def State.holds (s : State) (o : MemOp) : Bool := (s.launch o.launch).det && o.kind.store

/-- The acknowledgement of a held write: result lanes that would carry a version or an old value read 0xFFFF_FFFF (12 R393). -/
def storeAck (b : Reg) : Reg :=
  if b.fmt.scaled then mkReg .i32 0 [4 * (b.vlen.val + 1)] else { b with bind := 0, bgen := 0 }

def ones (n : Nat) : Reg := mkReg .i32 n (List.replicate (n + 1) 0xFFFFFFFF)

def heldAck (o : MemOp) (r : Res) : Reg :=
  match o.kind with
  | .scat => mkReg .i32 0 [min o.a.vlen.val o.b.vlen.val + 1]
  | .stv => if r.space = 1 then ones o.b.vlen.val else ones 0
  | .recl => if r.space = 1 then ones o.a.vlen.val else ones 0
  | .signal => mkReg .i32 1 [0xFFFFFFFF, if r.vers then 0xFFFFFFFF else 0]
  | _ => storeAck o.b

/-- The token of a result (12 R385). -/
def MemOp.token (o : MemOp) (r : Reg) : Token :=
  let t : Token := ⟨r, o.rctx, o.riter, o.eos, false, o.spec⟩
  if o.rkill then t.asKill else t

/-- An operation's result is delivered and it is owed no more. -/
def State.settle (s : State) (o : MemOp) (r : Reg) : State :=
  State.paid (s.deliver (ElemAt.ofKey o.elem) o.ical o.id (o.token r)) (ElemAt.ofKey o.elem) o.ical o.launch

/-- Take an operation out of the places before linking. -/
def Ring.unarrive (r : Ring) (o : MemOp) : Ring :=
  { r with arriving := r.arriving.filter fun p => p.id != o.id, waveBuf := r.waveBuf.filter fun p => p.id != o.id }

/-- Link an operation. A write under deterministic mode enters the store buffer (12 R393). -/
def State.linkOp (s : State) (r : RingAt) (o : MemOp) : State :=
  let e := ElemAt.ofKey o.elem
  let s' := { s with opCtr := s.opCtr + 1 }
  if s.holds o then
    let o' := { o with held := true, seq := s.opCtr, stalled := 0 }
    let s := State.onElem (s'.onRing r fun x => (x.unarrive o).linkTail o) e fun x => { x with isb := x.isb ++ [.held o'] }
    s.settle o (heldAck o ((s.opRes e o.launch o.w0).getD (resOf 0)))
  else
    s'.onRing r fun x =>
      { (x.unarrive o).linkTail o with linked := x.linked ++ [{ o with seq := s.opCtr, ready := o.kind != .ldv, stalled := 0 }] }

/-- Whether an operation follows the tail of its chain. -/
def Ring.follows (x : Ring) (o : MemOp) : Bool := canLink (x.chain o).tail o.w1

/-- Whether a held write finds its element's store buffer full when it would link (03 R123). -/
def State.isbFull (s : State) (o : MemOp) : Bool := s.holds o && !s.isbRoom (ElemAt.ofKey o.elem) o.ical

/-- The operations that have arrived and wait: those of the wave buffer, and those that stall their elements. -/
def Ring.waiting (x : Ring) : List MemOp := x.waveBuf ++ x.arriving.filter fun o => o.stalled != 0

/-- The operations that arrive now: the oldest new one of each chain. -/
def Ring.fresh (x : Ring) : List MemOp :=
  x.arriving.filter fun o =>
    o.stalled == 0 &&
      ((x.arriving.find? fun p => p.stalled == 0 && p.launch == o.launch && p.ctx == o.ctx && p.iter == o.iter).map MemOp.id) == some o.id

/-- Operations that cannot go on stall their elements from this fc on. -/
def Ring.stall (x : Ring) (fc : Nat) (p : MemOp → Bool) : Ring :=
  let mark (o : MemOp) : MemOp := if o.stalled = 0 ∧ p o then { o with stalled := fc + 1 } else o
  { x with arriving := x.arriving.map mark, waveBuf := x.waveBuf.map mark }

/-- WAVE_LINK on a ring: the first operation that can follow its chain's tail links. With none, the oldest arriving one goes to the wave buffer,
or stalls its element while the buffer is full (03 R110); a write that finds its store buffer full stalls its element (R123). -/
def State.waveLink (s : State) (r : RingAt) : State :=
  let x := s.ring r
  let next := x.waiting.filter x.follows ++ x.fresh.filter fun o => !(x.chain o).wrong o.w1 && x.follows o
  match next.find? fun o => !s.isbFull o with
  | some o => s.linkOp r o
  | none =>
    let x := x.stall s.fc fun o => next.any fun p => p.id == o.id
    match x.fresh.find? fun o => !(x.chain o).wrong o.w1 with
    | some o =>
      if x.waveBuf.length < 256 then
        s.setRing r { x with arriving := x.arriving.filter fun p => p.id != o.id, waveBuf := x.waveBuf ++ [o] }
      else s.setRing r (x.stall s.fc fun p => p.id == o.id)
    | none => s.setRing r x

/-- WAVE_LINK (03 R110). -/
def execWaveLink (s : State) : Result := .next (s.waveLink s.focus.ring)

/-- Every ingress port of a launch has ended, or it has none (13 R425). -/
def State.portsEnded (s : State) (l : Nat) : Bool :=
  allRings.all fun r => (s.ring r).ports.all fun p => p.2.launch != l || p.2.ended

/-- The tokens of an iteration in a launch's save records on a die. -/
def State.savedCount (s : State) (l : Nat) (d : Fin 4) (ctx : BitVec 6) (v : BitVec 12) : Nat :=
  let recs := (s.die d).saves.filter fun r => r.launch == l
  let inPass := (recs.flatMap fun r => r.pass.toList.flatten).filter fun t => t.tok.ctx == ctx && t.tok.iter == v
  (recs.flatMap fun r => r.elems.map fun e => e.2.countIter false ctx (some v)).foldl (· + ·) inPass.length

/-- Case 4 of MEM_WAVE: nothing can link a waiting operation any longer. -/
def State.neverLinks (s : State) (r : RingAt) (o : MemOp) : Bool :=
  let x := s.ring r
  let results := x.waveBuf.filter fun p => p.launch == o.launch && p.rctx == o.ctx && p.riter == o.iter && p.dst != 24
  s.portsEnded o.launch && !canLink (x.chain o).tail o.w1 &&
    (x.arriving.all fun p => !(p.launch == o.launch && p.ctx == o.ctx && p.iter == o.iter)) &&
    decide (s.unitCount o.launch r.die o.iter + s.savedCount o.launch r.die o.ctx o.iter ≤ results.length)

/-- MEM_WAVE on a ring (03 R112): the operation is not performed. -/
def State.memWave (s : State) (r : RingAt) : State :=
  let x := s.ring r
  match (x.fresh.find? fun o => (x.chain o).wrong o.w1).or (x.waveBuf.find? fun o => s.neverLinks r o) with
  | none => s
  | some o =>
    State.elemFault (s.onRing r fun x => x.unarrive o) (ElemAt.ofKey o.elem) o.ical (some o.islot) 0 o.ctx o.iter
      (jnFlt 0x45 (o.w1.toNat + (((x.chain o).tail.map BitVec.toNat).getD 0) * 2 ^ 32))

/-- MEM_WAVE (03 R112). -/
def execMemWave (s : State) : Result := .next (s.memWave s.focus.ring)

/-! ### Performance (03 R111, R115-R119; 12 R389) -/

/-- Where a byte stands: in the ring's scratchpad, or at a location. A word of a versioned scratchpad resource is named by its slot 0. -/
inductive Place where
  | spad (a : Nat)
  | mem (l : Loc)
  deriving DecidableEq, Repr

/-- What performing an operation comes to. -/
inductive Perf where
  | done (s : State) (r : Reg)
  | wait (s : State)
  | fail (f : Flt)

def State.opPasid (s : State) (o : MemOp) : BitVec 20 := (s.launch o.launch).pasid

/-- The record place of an operation: its firing. -/
def State.opSite (s : State) (o : MemOp) : FRec :=
  (s.place (ElemAt.ofKey o.elem) o.ical (some o.islot)).tags (s.opPasid o) o.ctx (some o.iter)

/-- Byte 0 of a SPACE 1 entry in the ring's scratchpad. -/
def State.spadBase (s : State) (o : MemOp) (r : Res) : Nat := ((s.stripe (ElemAt.ofKey o.elem).at_).conf o.ical).window.1 + r.base

/-- Whether every span of an access can be reached, and under which key (03 R97, R101): a miss takes a walker. A read of an uncorrectable granule fails
(01 R44). -/
def State.reach (s : State) (o : MemOp) (r : Res) (spans : List (Nat × Nat)) (write : Bool) (k : Key → Perf) : Perf :=
  let e := ElemAt.ofKey o.elem
  let d := e.at_.ring.die
  let pasid := s.opPasid o
  match spans.findSome? fun p => s.missVa d pasid (vaOf r.base p.1) p.2 write with
  | some va => .wait (s.walkFor d pasid va write (some e.at_.ring.ring) none (s.launchQueue o.launch) (s.opSite o) (some o.id))
  | none =>
    let hbm := spans.any fun p => s.vaIn d pasid (vaOf r.base p.1) p.2 write true
    match (if r.keyidx = 0 then none else s.keyOf r.keyidx) with
    | some key =>
      let bad := if write && o.kind != .signal then none else spans.findSome? fun p => s.vaBad d pasid (vaOf r.base p.1) p.2 write
      (bad.map fun a => Perf.fail (jnFlt 0x47 a)).getD (k key)
    | none => if hbm then .fail (jnFlt 0x46 r.keyidx) else k s.devKey

/-- The places of a span. -/
def State.places (s : State) (o : MemOp) (r : Res) (write : Bool) (p : Nat × Nat) : List (Option Place) :=
  let d := (ElemAt.ofKey o.elem).at_.ring.die
  (List.range p.2).map fun i =>
    if r.space = 1 then some (.spad (s.spadBase o r + p.1 + i))
    else (s.locOf d (s.opPasid o) ((vaOf r.base p.1 + i) % 2 ^ 64) write).map .mem

/-- The bytes that a store form writes, with their places (12 R389). -/
def State.footprint (s : State) (o : MemOp) (r : Res) : List (Option Place × Byte) :=
  let bytes (i n : Nat) : List Byte := (List.range n).map fun j => Lanes.byte o.b.lanes (4 * i + j)
  if o.kind = .recl then []
  else
    ((memSpans o.kind o.a o.b).zipIdx.map fun p => (s.places o r true p.1).zip (bytes p.2 p.1.2)).flatten

/-- The held writes of an operation's own iteration that are earlier in chain order (03 R122). -/
def State.heldBefore (s : State) (o : MemOp) : List MemOp :=
  let e := ElemAt.ofKey o.elem
  let all := (s.ringElems e.at_.ring).flatMap fun e => (s.elem e).isb.filterMap fun
    | .held p => if p.launch = o.launch ∧ p.ctx = o.ctx ∧ p.iter = o.iter ∧ p.num = o.num ∧ p.seq < o.seq then some p else none
    | .parked _ _ _ _ _ => none
  sortBy (fun p q => decide (p.seq ≤ q.seq)) all

def State.overlay (s : State) (o : MemOp) : List (Option Place × Byte) :=
  (s.heldBefore o).flatMap fun p =>
    match s.opRes (ElemAt.ofKey p.elem) p.launch p.w0 with
    | some r => s.footprint p r
    | none => []

/-- A byte as memory holds it; a word of a versioned scratchpad resource reads as its newest value (03 R113). -/
def State.placeByte (s : State) (ring : RingAt) (key : Key) (r : Res) (base : Nat) (p : Option Place) : Byte :=
  match p with
  | some (.spad a) =>
    let m := (s.ring ring).spad
    if r.vers then
      let w := spadWord m (base + 4 * r.extent + (a - base) / 4 * 4)
      spadGet m (a + verNewest w % 4 * r.extent)
    else spadGet m a
  | some (.mem l) => s.locByte key l
  | none => 0

/-- A load's bytes over the iteration's own held writes. -/
def State.loadBytes (s : State) (o : MemOp) (key : Key) (r : Res) (p : Nat × Nat) : List Byte :=
  let ov := (s.overlay o).reverse
  (s.places o r false p).map fun q =>
    match ov.find? fun w => w.1 == q && q.isSome with
    | some w => w.2
    | none => s.placeByte (ElemAt.ofKey o.elem).at_.ring key r (s.spadBase o r) q

def State.putPlace (s : State) (ring : RingAt) (key : Key) (p : Option Place) (b : Byte) : State :=
  match p with
  | some (.spad a) => s.onRing ring fun x => { x with spad := spadPut x.spad a b }
  | some (.mem l) => s.locPut key l b
  | none => s

def State.putAll (s : State) (ring : RingAt) (key : Key) (ws : List (Option Place × Byte)) : State :=
  ws.foldl (fun s w => s.putPlace ring key w.1 w.2) s

/-- A register of words with an FMT and a VLEN. -/
def wordsReg (f : Fmt) (v : Fin 16) (ws : List Word) : Reg := ⟨Lanes.ofFn fun i => ws.getD i 0, f, v, 0, 0⟩

/-- The granule of an offset of a SPACE 0 entry, when it lies in HBM. -/
def State.granule (s : State) (o : MemOp) (r : Res) (off : Nat) (write : Bool) : Option Nat :=
  match s.locOf (ElemAt.ofKey o.elem).at_.ring.die (s.opPasid o) (vaOf r.base off) write with
  | some (.hbm a) => some (a / 64)
  | _ => none

/-- Whether the bytes of a span pass the end of their 64-byte granule. -/
def crosses (r : Res) (off n : Nat) : Bool := decide (64 < vaOf r.base off % 64 + n)

/-- A versioned access of `n` bytes at an offset of a SPACE 0 entry: its granule, or MEM_NOT_VERSIONED in host memory and MEM_RANGE across
granules (03 R113, R115, R129). The two tests are made when the access is performed, with its translation (log 47). -/
def State.onGranule (s : State) (o : MemOp) (r : Res) (off n : Nat) (write : Bool) (k : Nat → Perf) : Perf :=
  match s.granule o r off write with
  | none => .fail (jnFlt 0x44 off)
  | some g => if crosses r off n then .fail (jnFlt 0x41 off) else k g

/-- The STV of one word in scratchpad: the new version and the scratchpad (03 R116). -/
def stvWord (m : List Host.Cell) (base ext off : Nat) (w : Nat) : Nat × List Host.Cell :=
  let va := base + 4 * ext + off
  let v := spadWord m va
  let n := (verNewest v + 1) % 65536
  (n, spadPutWord (spadPutWord m (base + n % 4 * ext + off) w) va (verWord n (verFloor v)))

def stvWords (base ext : Nat) : List (Nat × Nat) → List Host.Cell → List Nat × List Host.Cell
  | [], m => ([], m)
  | (off, w) :: r, m =>
    let p := stvWord m base ext off w
    let q := stvWords base ext r p.2
    (p.1 :: q.1, q.2)

def reclWords (base ext f : Nat) : List Nat → List Host.Cell → List Nat × List Host.Cell
  | [], m => ([], m)
  | off :: r, m =>
    let va := base + 4 * ext + off
    let v := spadWord m va
    let n := verRecl v f
    let q := reclWords base ext f r (spadPutWord m va (verWord (verNewest v) n))
    (n :: q.1, q.2)

/-- The lowest lane whose LDV version is no longer live: its version word and offset (03 R116). -/
def ldvRetired (m : List Host.Cell) (base ext v : Nat) (offs : List Nat) : Option (Nat × Nat) :=
  (offs.find? fun o => !verLive (spadWord m (base + 4 * ext + o)) v).map fun o => (spadWord m (base + 4 * ext + o), o)

def laneOffs (o n : Nat) : List Nat := (List.range (n + 1)).map fun i => o + 4 * i

/-- Loads (12 R389). -/
def State.perfLoad (s : State) (o : MemOp) (r : Res) : Perf :=
  let spans := memSpans o.kind o.a o.b
  let out (key : Key) : Perf :=
    .done s (wordsReg o.f o.a.vlen (bytesWords (o.a.vlen.val + 1) (spans.flatMap (s.loadBytes o key r))))
  if r.space = 1 then out s.devKey else s.reach o r spans false out

/-- LDV, once its version is met: HBM returns the newest value, scratchpad the slot of the version (03 R115, R116). -/
def State.perfLdv (s : State) (o : MemOp) (r : Res) : Perf :=
  let spans := memSpans o.kind o.a o.b
  let off := (o.a.lane 0).toNat
  let v := (o.b.lane 0).toNat % 65536
  if r.space = 1 then
    let m := (s.ring (ElemAt.ofKey o.elem).at_.ring).spad
    let base := s.spadBase o r
    let offs := laneOffs off o.a.vlen.val
    match ldvRetired m base r.extent v offs with
    | some (w, bad) => .fail (jnFlt 0x43 (verNewest w * 2 ^ 48 + verFloor w * 2 ^ 32 + bad))
    | none => .done s (wordsReg o.f o.a.vlen (offs.map fun p => .ofNat 32 (spadWord m (base + v % 4 * r.extent + p))))
  else
    s.reach o r spans false fun key =>
      s.onGranule o r off (4 * (o.a.vlen.val + 1)) false fun _ =>
        .done s (wordsReg o.f o.a.vlen (bytesWords (o.a.vlen.val + 1)
          (spans.flatMap fun p => (s.places o r false p).map (s.placeByte (ElemAt.ofKey o.elem).at_.ring key r 0))))

/-- STV and a SIGNAL on a versioned resource: the versions after, lane by lane. -/
def State.perfStv (s : State) (o : MemOp) (r : Res) (words : List Word) (k : State → List Nat → Perf) : Perf :=
  let off := (o.a.lane 0).toNat
  let ring := (ElemAt.ofKey o.elem).at_.ring
  if r.space = 1 then
    let q := stvWords (s.spadBase o r) r.extent ((laneOffs off (words.length - 1)).zip (words.map BitVec.toNat)) (s.ring ring).spad
    k (s.onRing ring fun x => { x with spad := q.2 }) q.1
  else
    s.reach o r [(off, 4 * words.length)] true fun key =>
      s.onGranule o r off (4 * words.length) true fun g =>
        let s := s.putAll ring key ((s.places o r true (off, 4 * words.length)).zip (words.flatMap fun w => natBytes 4 w.toNat))
        let n := (s.counter g + 1) % 65536
        k (s.setCounter g n) [n]

def State.perfRecl (s : State) (o : MemOp) (r : Res) : Perf :=
  let off := (o.a.lane 0).toNat
  let ring := (ElemAt.ofKey o.elem).at_.ring
  if r.space = 1 then
    let q := reclWords (s.spadBase o r) r.extent ((o.b.lane 0).toNat % 65536) (laneOffs off o.a.vlen.val) (s.ring ring).spad
    .done (s.onRing ring fun x => { x with spad := q.2 }) (mkReg .i32 o.a.vlen.val q.1)
  else
    s.reach o r [(off, 4)] true fun _ =>
      match s.granule o r off true with
      | none => .fail (jnFlt 0x44 off)
      | some g => .done s (mkReg .i32 0 [s.counter g])

/-- ST and SCAT (12 R389): lanes of one SCAT are written in ascending order. -/
def State.perfStore (s : State) (o : MemOp) (r : Res) : Perf :=
  let ring := (ElemAt.ofKey o.elem).at_.ring
  let ack := if o.kind = .scat then mkReg .i32 0 [min o.a.vlen.val o.b.vlen.val + 1] else storeAck o.b
  let out (key : Key) : Perf := .done (s.putAll ring key (s.footprint o r)) ack
  if r.space = 1 then out s.devKey else s.reach o r (memSpans o.kind o.a o.b) true out

/-- A trigger SIGNAL (12 R389): lane 1 of A, when A has it. -/
def MemOp.isTrigger (o : MemOp) : Bool := decide (1 ≤ o.a.vlen.val) && bit (o.a.lane 1).toNat 0

def State.trigger (s : State) (o : MemOp) : State := if o.isTrigger then s.onLaunch o.launch fun l => { l with triggered := true } else s

def State.perfSignal (s : State) (o : MemOp) (r : Res) : Perf :=
  let ring := (ElemAt.ofKey o.elem).at_.ring
  let off := (o.a.lane 0).toNat
  let span := (off, 4)
  let old (key : Key) : Nat := bytesNat ((s.places o r false span).map (s.placeByte ring key r (s.spadBase o r)))
  let out (key : Key) : Perf :=
    if r.vers then
      s.perfStv o r [o.b.lane 0] fun s' vs => .done (s'.trigger o) (mkReg .i32 1 [old key, vs.getD 0 0])
    else .done ((s.putAll ring key (s.footprint o r)).trigger o) (mkReg .i32 1 [old key, 0])
  if r.space = 1 then out s.devKey
  else s.reach o r [span] true out

/-- PREF (12 R389) within the limits of 03 R100: its page is walked for, and nothing else is seen of it. -/
def State.perfPref (s : State) (o : MemOp) (r : Res) : State :=
  let off := (o.a.lane 0).toNat
  if r.space ≠ 0 ∨ !r.pref ∨ (badVa (vaOf r.base off) 4).isSome then s
  else match s.ahead (ElemAt.ofKey o.elem).at_.ring.die (s.opPasid o) (vaOf r.base off) 4 with
    | .wait s => s
    | _ => s

/-! ### Watches (12 R396-R399) -/

/-- The watched word and its version: a counter, or the newest version, or 0. -/
def State.watchRead (s : State) (o : MemOp) (r : Res) (key : Key) : Nat × Nat :=
  let ring := (ElemAt.ofKey o.elem).at_.ring
  let off := (o.a.lane 0).toNat
  let y := bytesNat ((s.places o r false (off, 4)).map (s.placeByte ring key r (s.spadBase o r)))
  let v := if !r.vers then 0
    else if r.space = 1 then verNewest (spadWord (s.ring ring).spad (s.spadBase o r + 4 * r.extent + off))
    else ((s.granule o r off false).map s.counter).getD 0
  (y, v)

/-- 12 R397 wake. Cause 1, an eviction, counts as spurious. -/
def State.wake (s : State) (r : RingAt) (w : Watch) (cause : Nat) : State :=
  let s := s.onRing r fun x =>
    { x with
      watches := x.watches.filter fun v => v.op.id != w.op.id, jnWakes := x.jnWakes + 1,
      jnSpurious := if cause = 1 then x.jnSpurious + 1 else x.jnSpurious }
  State.paid (s.deliver (ElemAt.ofKey w.op.elem) w.op.ical w.op.id w.tok) (ElemAt.ofKey w.op.elem) w.op.ical w.op.launch

/-- Remove a watch without a wake; its result is owed no more. -/
def State.dropWatch (s : State) (r : RingAt) (w : Watch) : State :=
  let e := ElemAt.ofKey w.op.elem
  let s := s.onRing r fun x => { x with watches := x.watches.filter fun v => v.op.id != w.op.id }
  State.paid (s.onElem e fun x => { x with pend := x.pend.filter fun p => p.op != w.op.id }) e w.op.ical w.op.launch

/-- 12 R397 check. A read of HBM that has no key any more faults (03 R101). -/
def State.watchCheck (s : State) (r : RingAt) (w : Watch) : State :=
  match s.opRes (ElemAt.ofKey w.op.elem) w.op.launch w.op.w0 with
  | none => s
  | some e =>
    let go (key : Key) : State :=
      let y := s.watchRead w.op e key
      if y.1 ≠ (w.op.b.lane 0).toNat ∨ y.2 ≠ w.v0 then s.wake r w 0 else s
    if e.space = 1 then go s.devKey
    else
      match s.reach w.op e [((w.op.a.lane 0).toNat, 4)] false fun key => .done (go key) Reg.zero with
      | .done s _ => s
      | .wait s => s
      | .fail f => (s.dropWatch r w).elemFault (ElemAt.ofKey w.op.elem) w.op.ical (some w.op.islot) 0 w.op.ctx w.op.iter f

/-- JN_MONMAX (12 R407): 0 and values above 512 act as 512. -/
def Ring.monmaxOf (r : Ring) : Nat := if r.monmax = 0 ∨ 512 < r.monmax.toNat then 512 else r.monmax.toNat

/-- Make room for a watch: the oldest of its context at its limit, else the oldest of a full table, is evicted (12 R398). -/
def State.evictWatch (s : State) (r : RingAt) (ctx : BitVec 6) : State :=
  let x := s.ring r
  let own := x.watches.filter fun w => w.op.ctx == ctx
  if x.monmaxOf ≤ own.length then
    match own with
    | w :: _ => s.wake r w 1
    | [] => s
  else if 512 ≤ x.watches.length then
    match x.watches with
    | w :: _ => s.wake r w 1
    | [] => s
  else s

/-- An operation whose watch has been installed, wherever it stands. -/
def Ring.markWatched (x : Ring) (id : Nat) : Ring :=
  let mark (o : MemOp) : MemOp := if o.id = id then { o with watched := true } else o
  { x with arriving := x.arriving.map mark, waveBuf := x.waveBuf.map mark, linked := x.linked.map mark }

/-- Install a watch (12 R397): it takes the version that the word has now. -/
def State.install (s : State) (o : MemOp) (r : Res) (key : Key) : State :=
  let ring := (ElemAt.ofKey o.elem).at_.ring
  let o := { o with watched := true }
  let w : Watch := ⟨o, o.token o.a, (s.watchRead o r key).2⟩
  (s.evictWatch ring o.ctx).onRing ring fun x => { x.markWatched o.id with watches := x.watches ++ [w] }

/-- Install the watch of a WAITA whose word can be reached, at its commit or once its page is translated (log 39). -/
def State.watchAtCommit (s : State) (o : MemOp) : State :=
  match s.opRes (ElemAt.ofKey o.elem) o.launch o.w0 with
  | none => s
  | some r =>
    if o.kind ≠ .waita ∨ o.watched then s
    else if r.space = 1 then s.install o r s.devKey
    else
      match s.reach o r [((o.a.lane 0).toNat, 4)] false fun key => .done (s.install o r key) Reg.zero with
      | .done s _ => s
      | .wait s => s
      | .fail _ => s

/-- The operations of a die's rings that still have to install a watch install those that they can reach. -/
def State.installDue (s : State) (d : Fin 4) : State :=
  (List.range 4).foldl (fun s k =>
    let x := s.ring ⟨d, Fin.ofNat 4 k⟩
    ((x.arriving ++ x.waveBuf ++ x.linked).filter fun o => o.kind == .waita && !o.watched).foldl State.watchAtCommit s) s

/-- The first read of a watch; the watch that has woken before it reads nothing (12 R397). -/
def State.firstRead (s : State) (o : MemOp) : State :=
  let ring := (ElemAt.ofKey o.elem).at_.ring
  match (s.ring ring).watches.find? fun w => w.op.id == o.id with
  | some w => s.watchCheck ring w
  | none => s

/-- WATCH_CHECK (12 R397). -/
def execWatchCheck (r : RingAt) (n : Fin 512) (s : State) : Result :=
  .next (match (s.ring r).watches[n.val]? with | some w => s.watchCheck r w | none => s)

/-- WAITC: the oldest watch of the firing's CTX and ITER at the same index and offset wakes with cause 2 (12 R399). -/
def State.perfWaitc (s : State) (o : MemOp) : Perf :=
  let ring := (ElemAt.ofKey o.elem).at_.ring
  match (s.ring ring).watches.find? fun w =>
      w.op.ctx == o.ctx && w.op.iter == o.iter && dRidx w.op.w0 == dRidx o.w0 && w.op.a.lane 0 == o.a.lane 0 with
  | some w => .done (s.wake ring w 2) (mkReg .i32 0 [1])
  | none => .done s (mkReg .i32 0 [0])

/-! ### The commit of a memory form -/

/-- The commit of a memory, wait or fence form with operands `ra` and `rb` (12 R385, R387, R391, R396). `claim` says that it takes the tokens
that its trigger guards; `use` that a block-scaled B gives up one use; `eos` is the EOS that it read; `more` acts with the request. -/
def State.memCommit (s : State) (x : Firing) (k : MemKind) (ra rb : Reg) (b d : BitVec 5) (m : BitVec 2) (t : TagAct) (claim use eos : Bool)
    (more : State → State) : State :=
  let w0 := x.pl.k[2 * m.toNat]'(by omega)
  let w1 := x.pl.k[2 * m.toNat + 1]'(by omega)
  let v := (s.launch x.launch).alloc0.next
  let data := (k = .st ∨ k = .stv ∨ k = .scat) ∧ x.sfmt ≤ 7
  let scaled := decide ((k = .st ∨ k = .stv ∨ k = .scat) ∧ rb.fmt.scaled = true)
  let fence := k = .fence ∨ k = .fencex
  let carried := if fence then ((x.heads.map fun p => p.1.body).getD Reg.zero) else ra
  s.commit x
    { results := [], reads := [], b := rb, tag := t, q := !claim, plane := id,
      world := fun s =>
        let al := (s.launch x.launch).alloc x.el.at_.ring.die
        let iter := x.outIter t v rb
        let s := if scaled && use then s.onScl x.el fun c => c.use rb.bind.toNat else s
        let o : MemOp :=
          { id := s.opCtr, kind := k, elem := x.el.key, ical := x.ical, islot := x.slot, launch := x.launch, ctx := x.ctx, iter := x.iter,
            a := carried, b := rb, w0 := w0, w1 := w1, f := s.loadFmt x w0, dst := d, rctx := x.outCtx t, riter := iter,
            eos := outEos t eos, spec := al.isSpec iter, rkill := t == 7, num := x.alloc.number x.iter, seq := 0, held := false,
            ready := false, stalled := 0, watched := false }
        more ((s.issue x o).watchAtCommit o),
      faults := s.memFlts x k w0 ra rb ++ x.outAlias d t rb ++
        (if data ∧ b.toNat < 16 ∧ rb.fmt ≠ Fmt.ofCode x.sfmt then [elFormat x.el b rb.fmt] else []) ++
        (if scaled then (s.scl x.el).read x.ctx rb else []) }

/-- The firing of a memory, wait or fence form. -/
def fireMem (k : MemKind) (a b d : BitVec 5) (m : BitVec 2) (t : TagAct) (q : Bool) (s : State) : State :=
  let x := s.firing
  s.memCommit x k (x.src a) (x.src b) b d m t (!q) (!q) (!q && (x.srcEos a || x.srcEos b)) id

/-! ### MEMORY_REPLY -/

/-- Perform a linked operation. A write that is performed is visible to all at once (log 5), so a fence has taken effect when the operations before
it, held writes among them, have been performed. -/
def State.perform (s : State) (o : MemOp) : Perf :=
  match s.opRes (ElemAt.ofKey o.elem) o.launch o.w0 with
  | none => if o.kind = .fence ∨ o.kind = .fencex then .done s o.a else .fail (jnFlt 0x40 (dRidx o.w0))
  | some r =>
    match o.kind with
    | .fence | .fencex => .done s o.a
    | .ld | .gath => s.perfLoad o r
    | .ldv => s.perfLdv o r
    | .st | .scat => s.perfStore o r
    | .stv => s.perfStv o r ((List.range (o.b.vlen.val + 1)).map o.b.lane) fun s vs => .done s (mkReg .i32 (if r.space = 1 then o.b.vlen.val else 0) vs)
    | .recl => s.perfRecl o r
    | .signal => s.perfSignal o r
    | .pref => .done (s.perfPref o r) Reg.zero
    | .waitc => s.perfWaitc o
    | .waita =>
      if o.watched then .done (s.firstRead o) Reg.zero
      else if r.space = 1 then .done ((s.install o r s.devKey).firstRead o) Reg.zero
      else s.reach o r [((o.a.lane 0).toNat, 4)] false fun key => .done ((s.install o r key).firstRead o) Reg.zero

/-- The granule of memory that holds a place; a scratchpad counts as one. -/
def Place.granule : Place → Place
  | .spad _ => .spad 0
  | .mem (.hbm a) => .mem (.hbm (a / 64))
  | .mem (.host h) => .mem (.host (h / 64))

/-- The granules that an operation reaches, once its addresses are translated. -/
def State.touches (s : State) (o : MemOp) : Option (List Place) :=
  (s.opRes (ElemAt.ofKey o.elem) o.launch o.w0).bind fun r =>
    let ps := (memSpans o.kind o.a o.b).flatMap (s.places o r o.kind.store)
    if ps.all Option.isSome then some (ps.filterMap fun p => p.map Place.granule) else none

/-- Whether an operation may be performed before an earlier one of its iteration, so that other agents see the two in the other order (03 R107,
R111): a plain access passes a plain access, and a release, to other granules (03 R117, R118). -/
def State.passes (s : State) (p o : MemOp) : Bool :=
  o.kind.plain && (p.kind.plain || p.kind.store) &&
    match s.touches p, s.touches o with
    | some a, some b => a.all fun x => !b.contains x
    | _, _ => false

/-- Whether an operation may be performed beside the linked ones before it in its chain (03 R111). -/
def State.chainFree (s : State) (r : RingAt) (o : MemOp) : Bool :=
  (s.ring r).linked.all fun p => !(p.launch == o.launch && p.ctx == o.ctx && p.iter == o.iter && decide (p.seq < o.seq)) || s.passes p o

/-- Whether no earlier operation of its chain keeps an operation from being performed (03 R111), an LDV's version is met, and in deterministic mode
a load's quantum is open (03 R122) and a fence has no held write before it (R118, R119). -/
def State.performable (s : State) (r : RingAt) (o : MemOp) : Bool :=
  let l := s.launch o.launch
  s.chainFree r o && o.ready && (!l.det || o.kind.store || decide (o.num / l.quantum ≤ (l.alloc r.die).quanta))
    && (!(o.kind == .fence || o.kind == .fencex) || (s.heldBefore o).isEmpty)

/-- Whether a linked operation waits on a translation, or is an LDV that waits for its version (03 R128). -/
def State.opWaits (s : State) (o : MemOp) : Bool :=
  let e := ElemAt.ofKey o.elem
  (o.kind == .ldv && !o.ready) ||
  o.kind != .pref && o.kind != .waitc && (s.opRes e o.launch o.w0).any fun r =>
    r.space == 0 && (memSpans o.kind o.a o.b).any fun p =>
      (s.missVa e.at_.ring.die (s.opPasid o) (vaOf r.base p.1) p.2 o.kind.store).isSome

/-- The reply of a memory operation: it is performed and its result delivered; WAITA's wake token comes later. -/
def State.memoryReply (s : State) (r : RingAt) (id : Nat) : State :=
  match (s.ring r).linked.find? fun o => o.id == id with
  | none => s
  | some o =>
    if s.performable r o then
      let drop (s : State) : State := s.onRing r fun x => { x with linked := x.linked.filter fun p => p.id != id }
      match s.perform o with
      | .wait s => s
      | .fail f => (drop s).elemFault (ElemAt.ofKey o.elem) o.ical (some o.islot) 0 o.ctx o.iter f
      | .done s v => if o.kind = .waita then drop s else (drop s).settle o v
    else s

/-- MEMORY_REPLY (12 R385). -/
def execMemoryReply (r : RingAt) (op : Nat) (s : State) : Result := .next (s.memoryReply r op)

/-- Whether the version that an LDV names is met (03 R115, R116), or the load faults when it is performed. -/
def State.ldvMet (s : State) (o : MemOp) (r : Res) : Bool :=
  let off := (o.a.lane 0).toNat
  let v := (o.b.lane 0).toNat % 65536
  if r.space = 1 then
    let m := (s.ring (ElemAt.ofKey o.elem).at_.ring).spad
    (laneOffs off o.a.vlen.val).all fun p => verGe (verNewest (spadWord m (s.spadBase o r + 4 * r.extent + p))) v
  else
    match s.locOf (ElemAt.ofKey o.elem).at_.ring.die (s.opPasid o) (vaOf r.base off) false with
    | some (.hbm a) => crosses r off (4 * (o.a.vlen.val + 1)) || verGe (s.counter (a / 64)) v
    | some (.host _) => true
    | none => false

/-- An LDV's wait ends; an untranslated address takes a walker. -/
def State.ldvStep (s : State) (r : RingAt) (id : Nat) : State :=
  match (s.ring r).linked.find? fun o => o.id == id && o.kind == .ldv with
  | none => s
  | some o =>
    match s.opRes (ElemAt.ofKey o.elem) o.launch o.w0 with
    | none => s
    | some e =>
      let ready (s : State) : State := s.onRing r fun x => { x with linked := x.linked.map fun p => if p.id = id then { p with ready := true } else p }
      if s.ldvMet o e then ready s
      else if e.space = 1 then s
      else match s.reach o e (memSpans o.kind o.a o.b) false fun _ => .done s Reg.zero with
        | .wait s => s
        | _ => s

/-- LDV_VERSION_MET (03 R115). -/
def execLdvVersionMet (r : RingAt) (op : Nat) (s : State) : Result := .next (s.ldvStep r op)

/-! ### Held writes (03 R122, R123; 12 R393) -/

/-- Every iteration of quantum `q` has retired or been killed; the last quantum counts once no value is live and every port has ended. -/
def State.quantumDone (s : State) (l : Nat) (d : Fin 4) (q : Nat) : Bool :=
  let x := s.launch l
  let a := x.alloc d
  let live := a.values.filter fun v => !Alloc.gone (a.mark v) && decide (a.number v / x.quantum = q)
  live.isEmpty && (decide ((q + 1) * x.quantum ≤ a.num) || (a.span == 0 && s.portsEnded l))

/-- The held writes of a launch's quanta up to one: by iteration number, then chain order (03 R122). -/
def State.heldOf (s : State) (l q : Nat) : List MemOp :=
  let x := s.launch l
  let all := (s.launchElems l).flatMap fun e => (s.elem e).isb.filterMap fun
    | .held p => if p.launch = l ∧ p.num / x.quantum ≤ q then some p else none
    | .parked _ _ _ _ _ => none
  sortBy (fun p q => decide (p.num < q.num) || (p.num == q.num && decide (p.seq ≤ q.seq))) all

/-- Perform held writes one at a time; it stops at one that waits, for its translation or for what is before it in its chain (03 R111), or fails. -/
def State.commitHeld : List MemOp → State → Perf
  | [], s => .done s Reg.zero
  | o :: rest, s =>
    let drop (s : State) : State :=
      s.onElem (ElemAt.ofKey o.elem) fun e => { e with isb := e.isb.filter fun | .held p => p.id != o.id | _ => true }
    if s.chainFree (ElemAt.ofKey o.elem).at_.ring o then
      match s.perform o with
      | .done s _ => State.commitHeld rest (drop s)
      | .wait s => .wait s
      | .fail f => .wait ((drop s).elemFault (ElemAt.ofKey o.elem) o.ical (some o.islot) 0 o.ctx o.iter f)
    else .wait s

/-- QUANTUM_COMMIT: the oldest uncommitted quantum of a deterministic launch commits once complete (03 R122); a write that linked after its
quantum had committed commits before it. -/
def State.quantumStep (s : State) (l : Nat) : State :=
  let x := s.launch l
  let q := x.alloc0.quanta
  let whole := !x.segs.isEmpty && (x.segs.all fun g => s.quantumDone l g.die q) && decide (q * x.quantum < x.alloc0.num)
  if x.det && (whole || 0 < q) then
    match s.commitHeld (s.heldOf l (if whole then q else q - 1)) with
    | .done s _ => if whole then s.onLaunch l fun x => x.onAllocs fun a => { a with quanta := q + 1 } else s
    | .wait s => s
    | .fail _ => s
  else s

/-- QUANTUM_COMMIT (03 R122). -/
def execQuantumCommit (die : Fin 4) (entry : BitVec 12) (s : State) : Result := .next (s.quantumStep (launchKey die entry.toNat))

/-- JN_ISB_DEADLOCK: a held write has stalled for the long wait on a buffer whose every entry is a write of the oldest uncommitted quantum
(12 R393). -/
def State.isbDeadlock (s : State) (e : ElemAt) (ical : Bool) : State :=
  let r := s.ring e.at_.ring
  match (r.arriving ++ r.waveBuf).find? fun o => o.elem == e.key && o.ical == ical && o.stalled != 0 && s.isbFull o && r.follows o &&
      decide (o.stalled - 1 + Config.longWait ≤ s.fc) with
  | none => s
  | some o =>
    let x := s.launch o.launch
    let q := (x.alloc e.at_.ring.die).quanta
    let all := ((s.elem e).isb.filter fun b => b.ical == ical).all fun
      | .held p => p.num / x.quantum == q
      | .parked _ _ _ _ _ => false
    if all then s.elemFault e ical (some o.islot) 0 o.ctx o.iter (jnFlt 0x48 q) else s

/-- JN_ISB_DEADLOCK (12 R393). -/
def execJnIsbDeadlock (e : ElemAt) (ical : Bool) (s : State) : Result := .next (s.isbDeadlock e ical)

end Sys2Proof.Machine
end

