-- ==== Sys2Proof/Machine/JPage.lean ====
section
/-! DEFINITION. The J page (02 R67; 12 R384-R404): memory, fence and wait forms, messages, the ticketed arbiter, the forms shared with the
V page, and parked stores. -/

namespace Sys2Proof.Machine

/-! ### Active messages (02 R69-R73; 12 R400, R401) -/

/-- Literal `i` of a plane. -/
def Plane.lit (p : Plane) (i : Nat) : Word := p.k[i % 8]'(Nat.mod_lt _ (by decide))
/-- Lane 0 of a data register, which substitution reads. -/
def Plane.low (p : Plane) (i : Nat) : Word := Reg.lane (p.d[i % 8]'(Nat.mod_lt _ (by decide))) 0

/-- A parameter word after substitution (02 R72). -/
def Plane.param (p : Plane) (b n : Nat) : Word :=
  let w := p.lit (b + 2 + n)
  if bit (p.lit b).toNat (2 + n) then p.low (bits w.toNat 2 0) else w

/-- Class and instance after substitution (02 R69, R70); LAUNCH has the sender's die stamped in. -/
def Firing.target (x : Firing) (b : Nat) (launch : Bool) : Nat × Nat :=
  let h := (x.pl.lit b).toNat
  if launch then (bits h 23 20, 4 * x.el.at_.ring.die.val)
  else if bit h 1 then let w := (x.pl.low (bits h 14 12)).toNat; (bits w 11 8, bits w 7 0)
  else (bits h 23 20, bits h 19 12)

/-- The header after substitution, CTX stamped. -/
def Firing.header (x : Firing) (b : Nat) (launch : Bool) : Word :=
  let h := (x.pl.lit b).toNat
  let t := x.target b launch
  .ofNat 32 (bits h 31 24 * 2 ^ 24 + t.1 * 2 ^ 20 + t.2 * 2 ^ 12 + x.ctx.toNat * 2 ^ 6 + bits h 5 1 * 2)

/-- Controller messages that a J-element may send, but for PLAUNCH (02 R77). -/
def sendable (cls mop : Nat) : Bool := cls != 6 || mop == 2 || mop == 3 || mop == 9 || mop == 12 || mop == 13 || mop == 14

/-- Why a message is refused at send (12 R408 JN_MSG_INVALID), or 0. -/
def msgReason (cls mop inst : Nat) (launch : Bool) : Nat :=
  if cls ≠ 2 ∧ cls ≠ 4 ∧ cls ≠ 5 ∧ cls ≠ 6 then 1
  else if (decodeMsg cls mop ⟨0, 0, 0, 0⟩).isNone then 2
  else if !sendable cls mop && !(launch && cls == 6 && mop == 1) then 3
  else if (if cls = 2 then 4 else 16) ≤ inst then 4
  else 0

/-- The reply route (02 R71). -/
def State.replyTo (s : State) (x : Firing) (w : Word) : ReplyTo :=
  let r := w.toNat
  let c : Fin 8 := Fin.ofNat 8 (bits r 24 22)
  let k := bits r 30 29
  if !bit r 31 then none
  else if k = 0 then some (x.el.key, c)
  else if k = 1 then some ((x.el.mate (bits r 28 25)).key, c)
  else some (ElemAt.key ⟨s.nextStripe x.el.at_ x.ical, Fin.ofNat 16 (bits r 28 25)⟩, c)

/-- The operations linked up to the tail of the firing's chain that are not yet performed (12 R401). -/
def State.tailOps (s : State) (x : Firing) : List Nat :=
  let r := x.el.at_.ring
  let mine (o : MemOp) : Bool := o.launch == x.launch && o.ctx == x.ctx && o.iter == x.iter
  (((s.ring r).linked.filter mine).map MemOp.id) ++
    (s.ringElems r).flatMap fun e => (s.elem e).isb.filterMap fun
      | .held o => if mine o then some o.id else none
      | .parked _ _ _ _ _ => none

/-- The firing of SEND, SENDN and LAUNCH: the message enters the port, and a sent token waits for its acceptance. -/
def fireMsg (launch sendn : Bool) (a d : BitVec 5) (m : BitVec 2) (t : TagAct) (q : Bool) (s : State) : State :=
  let x := s.firing
  let ra := x.src a
  let b := m.toNat
  let tg := x.target b launch
  let h := x.header b launch
  let why := msgReason tg.1 (bits h.toNat 31 24) tg.2 launch
  let v := (s.launch x.launch).alloc0.next
  s.commit x
    { results := [], reads := [a], b := Reg.zero, tag := t, q := q, plane := id,
      world := fun s =>
        let al := (s.launch x.launch).alloc x.el.at_.ring.die
        let iter := x.outIter t v Reg.zero
        let tok := outToken t (x.outCtx t) iter (outEos t (!q && x.srcEos a)) al ra
        let msg : Msg :=
          { id := s.opCtr, hdr := h, p := ⟨x.pl.param b 0, x.pl.param b 1, x.pl.param b 2, x.pl.param b 3⟩, pasid := (s.launch x.launch).pasid,
            ctx := x.ctx, sender := .elem x.el.key x.ical x.slot x.launch x.ctx x.iter,
            reply := if sendn then none else s.replyTo x (x.pl.lit (b + 1)),
            sent := if sendn ∨ d = 24 then none else some (s.opCtr, tok), ops := if launch then s.tailOps x else [] }
        let s := s.onElem x.el fun e =>
          { e with
            port := e.port ++ [msg],
            pend := if sendn ∨ d = 24 then e.pend else e.pend ++ [⟨s.opCtr, x.ical, d, x.outCtx t, iter⟩] }
        State.owe { s with opCtr := s.opCtr + 1 } x.el x.ical x.launch,
      faults := x.outAlias d t Reg.zero ++ (if why = 0 then [] else [jnFlt 0x49 (h.toNat * 2 ^ 32 + why)]) }

/-! ### The ticketed arbiter (12 R402, R403) -/

/-- TKT: the request joins the ticket queue with its ticket and its arc. -/
def fireTkt (a : BitVec 3) (d : BitVec 5) (t : TagAct) (q : Bool) (s : State) : State :=
  let x := s.firing
  let sel : BitVec 5 := .ofNat 5 (8 + a.toNat)
  let n := x.pl.tcount
  s.commit x
    { results := [(d, mkReg .i32 0 [n.toNat])], reads := [sel], b := Reg.zero, tag := t, q := q,
      plane := fun p => match x.chan a.toNat with
        | some tok => { p with tickets := p.tickets ++ [⟨tok, Fin.ofNat 8 a.toNat, n⟩], tcount := n + 1 }
        | none => p,
      world := id, faults := [] }

/-- The result of a firing whose out token carries other tags than the firing's: to a register it goes as usual. -/
def State.stageAs (s : State) (x : Firing) (ctx : BitVec 6) (iter : BitVec 12) (t : TagAct) (v : BitVec 12) (eos : Bool) (d : BitVec 5) (r : Reg) :
    State :=
  let y := { x with ctx := ctx, iter := iter }
  let al := (s.launch x.launch).alloc x.el.at_.ring.die
  if isOut d then s.stage x.el x.ical (Fin.ofNat 8 d.toNat) (outToken t (y.outCtx t) (y.outIter t v Reg.zero) (outEos t eos) al r) else s

/-- GRANT: the oldest ticket-queue entry's token under its request's tags; a grant opens. -/
def fireGrant (a d : BitVec 5) (t : TagAct) (q : Bool) (s : State) : State :=
  let x := s.firing
  let v := (s.launch x.launch).alloc0.next
  match x.pl.tickets with
  | [] => s
  | k :: _ =>
    s.commit x
      { results := if isOut d then [] else [(d, k.tok.body)], reads := [a], b := Reg.zero, tag := t, q := q,
        plane := fun p => { p with tickets := p.tickets.drop 1, grants := p.grants ++ [⟨k.arc, k.tok.ctx, k.tok.iter⟩] },
        world := fun s => s.stageAs x k.tok.ctx k.tok.iter t v (!q && x.srcEos a) d k.tok.body,
        faults := { x with ctx := k.tok.ctx, iter := k.tok.iter }.outAlias d t Reg.zero }

/-- REPLY on base `d`: A goes out on the channel of the oldest open grant's arc, under the tags that the grant recorded. -/
def fireReply (a : BitVec 5) (d : BitVec 3) (t : TagAct) (q : Bool) (s : State) : State :=
  let x := s.firing
  let v := (s.launch x.launch).alloc0.next
  match x.pl.grants with
  | [] => s
  | g :: _ =>
    let out : BitVec 5 := .ofNat 5 (8 + (d.toNat + g.arc.val) % 8)
    s.commit x
      { results := [], reads := [a], b := Reg.zero, tag := t, q := q, plane := fun p => { p with grants := p.grants.drop 1 },
        world := fun s => s.stageAs x g.ctx g.iter t v (!q && x.srcEos a) out (x.src a),
        faults := { x with ctx := g.ctx, iter := g.iter }.outAlias out t Reg.zero }

/-! ### Parked stores (12 R392, R394, R395) -/

/-- The parkable forms, with their fields. -/
def storeForm : Instr → Option (MemKind × BitVec 5 × BitVec 5 × BitVec 5 × BitVec 2 × BitVec 4 × Bool)
  | .st a b d m t q => some (.st, a, b, d, m, t, q)
  | .stv a b d m t q => some (.stv, a, b, d, m, t, q)
  | .scat a b d m t q => some (.scat, a, b, d, m, t, q)
  | .recl a b d m t q => some (.recl, a, b, d, m, t, q)
  | _ => none

/-- A slot is parkable: it holds a parkable form, it would be eligible but for its iteration being speculative, and an entry is free. -/
def State.parkable (s : State) (e : ElemAt) (ical : Bool) (i : Fin 16) : Bool :=
  ((s.slotInstr e ical i).bind storeForm).isSome && s.eligibleBut e ical true i && !s.eligible e ical i &&
    (s.firingAt e ical i).alloc.isSpec (s.firingAt e ical i).iter && s.isbRoom e ical

/-- A parked store that is due: the oldest whose iteration is speculative no more, once it has its out credit and its grant (12 R395). -/
structure DueStore where
  slot : Fin 16
  a : Token
  b : Token
  heads : List (Fin 8 × Token)
  kind : MemKind
  /-- its slot's B and DSTA, descriptor select, tag action and Q -/
  srcB : BitVec 5
  dst : BitVec 5
  m : BitVec 2
  tag : BitVec 4
  q : Bool

/-- The firing of a due store: of its slot, with the tokens that it parked. -/
def State.dueFiring (s : State) (e : ElemAt) (ical : Bool) (p : DueStore) : Firing :=
  { s.firingAt e ical p.slot with heads := some (p.a, none), ctx := p.a.ctx, iter := p.a.iter }

/-- The oldest parked store of a confirmed iteration. -/
def State.confirmed (s : State) (e : ElemAt) (ical : Bool) : Option DueStore :=
  let al := (s.launch ((s.stripe e.at_).conf ical).launch).alloc e.at_.ring.die
  ((s.elem e).isb.findSome? fun
    | .parked p i a b hs => if p = ical ∧ !al.isSpec a.iter ∧ !al.isKilled a.iter then some (i, a, b, hs) else none
    | .held _ => none).bind fun (i, a, b, hs) =>
      ((s.slotInstr e ical i).bind storeForm).map fun (k, _, sb, d, m, t, q) => ⟨i, a, b, hs, k, sb, d, m, t, q⟩

/-- The parked store that an element issues in this fc, in preference to any pick. -/
def State.dueStore (s : State) (e : ElemAt) (ical : Bool) : Option DueStore :=
  (s.confirmed e ical).filter fun p =>
    let x := s.dueFiring e ical p
    s.live e ical && (!isOut p.dst || decide (1 ≤ s.outFree e ical (Fin.ofNat 8 p.dst.toNat))) &&
      ((p.tag != 3 && p.tag != 4) || (s.launch x.launch).canGrant x.launch e.at_.ring.die s.fc || s.exhausted x)

/-- The tokens that a firing claims, by channel; none with Q = 1 (02 R59, 08 R287). -/
def Firing.claimed (x : Firing) (q : Bool) : List (Fin 8 × Token) :=
  let t := x.pl.trig x.slot
  match q, x.heads with
  | false, some (a, b) => (t.cha, a) :: (b.map fun b => (t.chb, b)).toList
  | _, _ => []

/-- Park the lowest parkable slot, one in an fc in which the picker fires none and no parked store is due (12 R394, R395). -/
def State.park (s : State) (e : ElemAt) (ical : Bool) : State :=
  let s' := { s with focus := { s.focus with elem := e, ical := ical } }
  if !s.live e ical || (s.elem e).lastPick == s.fc + 1 || (s.pickSlot e ical).isSome || (s.dueStore e ical).isSome then s
  else
    match (List.range 16).find? fun i => s.parkable e ical (Fin.ofNat 16 i) with
    | none => s
    | some i =>
      let i : Fin 16 := Fin.ofNat 16 i
      let x := s'.firingAt e ical i
      match (s.slotInstr e ical i).bind storeForm with
      | none => s
      | some (_, a, b, _, _, _, q) =>
        let tok (r : Reg) : Token := ⟨r, x.ctx, x.iter, !q && (x.srcEos a || x.srcEos b), false, true⟩
        ((s.claim x q).onElem e fun y =>
          { y with lastPick := s.fc + 1, isb := y.isb ++ [.parked ical i (tok (x.src a)) (tok (x.src b)) (x.claimed q)] }).onRing e.at_.ring fun r =>
          { r with jnParked := r.jnParked + 1 }

/-- STORE_PARK (12 R394). -/
def execStorePark (e : ElemAt) (ical : Bool) (s : State) : Result := .next (s.park e ical)

/-- Issue a due store: a firing of its slot, which takes the fc's pick and ages the slots as a pick does (08 R285, 12 R395). It is one beat of its own
and leaves the slot's beats as they are (log 60). -/
def State.issueParked (s : State) (e : ElemAt) (ical : Bool) : State :=
  match s.dueStore e ical with
  | some p =>
    if (s.elem e).lastPick = s.fc + 1 then s
    else
      let x := s.dueFiring e ical p
      let age := s.ageAfter e ical p.slot
      let beat := x.pl.beat
      let s := s.onElem e fun y => { y.setPlane ical { y.plane ical with age := age } with lastPick := s.fc + 1 }
      s.memCommit x p.kind p.a.body p.b.body p.srcB p.dst p.m p.tag false (!p.q) p.a.eos fun s =>
        s.onElem e fun y =>
          { y.setPlane ical { y.plane ical with beat := beat } with isb := y.isb.erase (.parked ical p.slot p.a p.b p.heads) }
  | none => s

/-- PARKED_STORE_ISSUE (12 R395). -/
def execParkedStoreIssue (e : ElemAt) (ical : Bool) (s : State) : Result := .next (s.issueParked e ical)

/-! ### One meaning per instruction -/

/-- LD (12 R389). -/
def execLd (a d : BitVec 5) (m : BitVec 2) (t : BitVec 4) (q : Bool) (s : State) : Result := .next (fireMem .ld a 24 d m t q s)
/-- ST (12 R389). -/
def execSt (a b d : BitVec 5) (m : BitVec 2) (t : BitVec 4) (q : Bool) (s : State) : Result := .next (fireMem .st a b d m t q s)
/-- LDV (12 R389). -/
def execLdv (a b d : BitVec 5) (m : BitVec 2) (t : BitVec 4) (q : Bool) (s : State) : Result := .next (fireMem .ldv a b d m t q s)
/-- STV (12 R389). -/
def execStv (a b d : BitVec 5) (m : BitVec 2) (t : BitVec 4) (q : Bool) (s : State) : Result := .next (fireMem .stv a b d m t q s)
/-- RECL (12 R389). -/
def execRecl (a b d : BitVec 5) (m : BitVec 2) (t : BitVec 4) (q : Bool) (s : State) : Result := .next (fireMem .recl a b d m t q s)
/-- GATH (12 R389). -/
def execGath (a d : BitVec 5) (m : BitVec 2) (t : BitVec 4) (q : Bool) (s : State) : Result := .next (fireMem .gath a 24 d m t q s)
/-- SCAT (12 R389). -/
def execScat (a b d : BitVec 5) (m : BitVec 2) (t : BitVec 4) (q : Bool) (s : State) : Result := .next (fireMem .scat a b d m t q s)
/-- PREF (12 R389): no visible state changes; translation faults are suppressed. -/
def execPref (a : BitVec 5) (m : BitVec 2) (t : BitVec 4) (q : Bool) (s : State) : Result := .next (fireMem .pref a 24 24 m t q s)
/-- FENCE (12 R391). -/
def execFence (d : BitVec 5) (m : BitVec 2) (t : BitVec 4) (s : State) : Result := .next (fireMem .fence 24 24 d m t false s)
/-- FENCEX (12 R391). -/
def execFencex (d : BitVec 5) (m : BitVec 2) (t : BitVec 4) (s : State) : Result := .next (fireMem .fencex 24 24 d m t false s)
/-- WAITA (12 R397): DSTA is out channel `d`. -/
def execWaita (a b : BitVec 5) (d : BitVec 3) (m : BitVec 2) (t : BitVec 4) (q : Bool) (s : State) : Result :=
  .next (fireMem .waita a b (.ofNat 5 (8 + d.toNat)) m t q s)
/-- WAITC (12 R399). -/
def execWaitc (a d : BitVec 5) (m : BitVec 2) (t : BitVec 4) (q : Bool) (s : State) : Result := .next (fireMem .waitc a 24 d m t q s)
/-- LAUNCH (12 R401). -/
def execLaunch (a d : BitVec 5) (m : BitVec 2) (t : BitVec 4) (q : Bool) (s : State) : Result := .next (fireMsg true false a d m t q s)
/-- SIGNAL (12 R389). -/
def execSignal (a b d : BitVec 5) (m : BitVec 2) (t : BitVec 4) (q : Bool) (s : State) : Result := .next (fireMem .signal a b d m t q s)
/-- TKT (12 R403). -/
def execTkt (a : BitVec 3) (d : BitVec 5) (t : BitVec 4) (q : Bool) (s : State) : Result := .next (fireTkt a d t q s)
/-- GRANT (12 R403). -/
def execGrant (a d : BitVec 5) (t : BitVec 4) (q : Bool) (s : State) : Result := .next (fireGrant a d t q s)
/-- REPLY (12 R403). -/
def execReply (a : BitVec 5) (d : BitVec 3) (t : BitVec 4) (q : Bool) (s : State) : Result := .next (fireReply a d t q s)
/-- SEND (12 R401). -/
def execSend (a d : BitVec 5) (m : BitVec 2) (t : BitVec 4) (q : Bool) (s : State) : Result := .next (fireMsg false false a d m t q s)
/-- SENDN (12 R401). -/
def execSendn (a : BitVec 5) (m : BitVec 2) (t : BitVec 4) (q : Bool) (s : State) : Result := .next (fireMsg false true a 24 m t q s)
/-- J_MOV (12 R404). -/
def execJMov (a d : BitVec 5) (t : BitVec 4) (q : Bool) (s : State) : Result := .next (fire1 setAll opMove a d t q s)
/-- J_MOV2 (12 R404). -/
def execJMov2 (a d e : BitVec 5) (t : BitVec 4) (q : Bool) (s : State) : Result := .next (fireMov2 a d e t q s)
/-- J_ADD (12 R404). -/
def execJAdd (a b d : BitVec 5) (t : BitVec 4) (q : Bool) (s : State) : Result := .next (fire2 setI true opAdd a b d t q s)
/-- J_SUB (12 R404). -/
def execJSub (a b d : BitVec 5) (t : BitVec 4) (q : Bool) (s : State) : Result := .next (fire2 setI true opSub a b d t q s)
/-- J_AND (12 R404). -/
def execJAnd (a b d : BitVec 5) (t : BitVec 4) (q : Bool) (s : State) : Result := .next (fire2 setI false opAnd a b d t q s)
/-- J_SHL (12 R404). -/
def execJShl (a b d : BitVec 5) (t : BitVec 4) (q : Bool) (s : State) : Result := .next (fire2 setI false opShl a b d t q s)
/-- J_CMPEQ (12 R404). -/
def execJCmpeq (a b d : BitVec 5) (t : BitVec 4) (q : Bool) (s : State) : Result := .next (fire2 setI true opCmpeq a b d t q s)
/-- J_CMPLT (12 R404). -/
def execJCmplt (a b d : BitVec 5) (t : BitVec 4) (q : Bool) (s : State) : Result := .next (fire2 setI true opCmplt a b d t q s)
/-- J_EXIT (12 R404). -/
def execJExit (a d : BitVec 5) (t : BitVec 4) (q : Bool) (s : State) : Result := .next (fireExit a d t q s)
/-- J_DROP (12 R404). -/
def execJDrop (a b : BitVec 5) (t : BitVec 4) (q : Bool) (s : State) : Result := .next (fireDrop a b t q s)
/-- J_TRAP (12 R404). -/
def execJTrap (a : BitVec 5) (t : BitVec 4) (q : Bool) (s : State) : Result := .next (fireTrap a t q s)

end Sys2Proof.Machine
end

