-- ==== Sys2Proof/Machine/Matrix.lean ====
section
/-! DEFINITION. The matrix element: descriptors, slabs and their loads, the firing of a row, its drain, and the matrix configuration operations
(11 R352-R378). -/

namespace Sys2Proof.Machine

/-! ### Descriptors (02 R56, 11 R354, R355, R357) -/

/-- K extent of one A row. -/
def kRow (afmt : Nat) : Nat := if afmt = 7 then 128 else if 4 ≤ afmt then 64 else 32

def Desc.krow (d : Desc) : Nat := kRow d.afmt.toNat
def Desc.hasScales (d : Desc) : Bool := decide (4 ≤ d.bfmt.toNat) || decide (2 ≤ d.comp.toNat)
def Desc.sparse (d : Desc) : Bool := d.comp == 1 || d.comp == 3
def Desc.coded (d : Desc) : Bool := d.comp == 2 || d.comp == 3

/-- Bits of one stored value. -/
def Desc.vbits (d : Desc) : Nat := if d.coded then 4 else if 4 ≤ d.bfmt.toNat then 8 else 16

/-- Sizes of the three parts of a slab (11 R357). -/
def Desc.scalePart (d : Desc) : Nat := if d.hasScales then d.krow / blkElems d.blk.toNat * 64 else 0
def Desc.indexPart (d : Desc) : Nat := if d.sparse then d.krow * 8 else 0
def Desc.valuePart (d : Desc) : Nat := d.krow * 64 * d.vbits / 8 / (if d.sparse then 2 else 1)

/-- SB: the sum of the parts, rounded up to 64. -/
def Desc.slabSize (d : Desc) : Nat := (d.scalePart + d.indexPart + d.valuePart + 63) / 64 * 64

/-- Weight-store byte address of slab `c`. -/
def Desc.slabAt (d : Desc) (c : Nat) : Nat := 4096 * d.tilebase.toNat + c * d.slabSize

/-- A descriptor from its 192 bits (02 R56). -/
def descOf (x : Nat) : Desc :=
  { valid := bit x 191, ctxv := .ofNat 6 (bits x 190 185), afmt := .ofNat 3 (bits x 184 182), bfmt := .ofNat 3 (bits x 181 179),
    comp := .ofNat 2 (bits x 178 177), kcount := .ofNat 12 (bits x 176 165), drfmt := bit x 164, round := .ofNat 3 (bits x 163 161),
    tilebase := .ofNat 32 (bits x 160 129), tilecnt := .ofNat 16 (bits x 128 113), cbook := .ofNat 6 (bits x 112 107),
    blk := .ofNat 2 (bits x 106 105) }

/-- What the loader asks of a valid descriptor by itself (02 R56, 11 R355); an intercalary slab fits its smaller buffer. -/
def Desc.ok (ical : Bool) (d : Desc) : Bool :=
  let a := d.afmt.toNat
  let b := d.bfmt.toNat
  decide (2 ≤ a) && decide (2 ≤ b) && decide (b ≤ 6) && (decide (a ≤ 3) == decide (b ≤ 3)) && decide (d.round.toNat ≤ 3) && d.tilecnt != 0
    && d.blk != 3 && (d.coded || d.cbook == 0) && decide (d.slabSize ≤ if ical then 10240 else 20480)
    && decide ((d.kcount.toNat + 1) * d.slabSize ≤ d.tilecnt.toNat * 4096)

/-- Every valid descriptor is one that the loader accepts, and no two serve one CTX. -/
def descsOk (ical : Bool) (ds : Vector Desc 4) : Bool :=
  (ds.toList.all fun d => !d.valid || d.ok ical) &&
    (List.range 4).all fun i => (List.range 4).all fun j =>
      let x := ds[i % 4]'(Nat.mod_lt _ (by decide))
      let y := ds[j % 4]'(Nat.mod_lt _ (by decide))
      i == j || !x.valid || !y.valid || x.ctxv != y.ctxv

/-- The CTX that a descriptor serves, `cb` being the plane's (11 R354). -/
def Desc.serves (d : Desc) (cb ctx : BitVec 6) : Bool := d.valid && d.ctxv == ctx - cb

def MPlane.select (p : MPlane) (cb ctx : BitVec 6) : Option (Fin 4) :=
  ((List.range 4).find? fun i => (p.descs[i % 4]'(Nat.mod_lt _ (by decide))).serves cb ctx).map fun i => Fin.ofNat 4 i

/-- Channels that a descriptor drains on. -/
def Desc.drainChans (d : Desc) : List Nat := if d.drfmt then [0, 1] else [0, 1, 2, 3]

def mxFlt (code aux : Nat) : Flt := ⟨code, 2, 1, aux⟩

/-! ### The weight store (11 R356, R360) -/

/-- The key slot that a tile records; one not written since cold reset records slot 0. -/
def Die.tileSlot (d : Die) (tile : Nat) : Nat := (tabGet 0 tile d.wsKey).toNat

/-- A weight-store byte of a granule that a patrol scrub has found uncorrectable, in a tile that something has written (16 R477, R484). -/
def State.wsBad (s : State) (d : Fin 4) (a : Nat) : Bool :=
  s.badGrans.contains (Config.wsAddress d.val (a / 64) / 64) && (tabGet none (a / 4096) (s.die d).wsEnc).isSome

/-- A byte of the weight store as path M reads it, deciphered under the tile's recorded slot. -/
def State.wsByte (s : State) (d : Fin 4) (a : Nat) : Byte :=
  let x := s.die d
  let enc := tabGet none (a / 4096) x.wsEnc
  let key := (s.keyOf (x.tileSlot (a / 4096))).getD s.devKey
  if enc = some key then cellGet a x.ws
  else foreignByte enc key (Config.wsAddress d.val (a / 64)) (readBytes (a / 64 * 64) 64 x.ws) (a % 64)

/-- The refresh calendar: bank `n` is in its window. -/
def inRefresh (fc n : Nat) : Bool := decide ((fc % 40000 + 40000 - 1250 * (n % 32)) % 40000 < 256)

/-- Tiles of a range of bytes. -/
def tilesOf (a n : Nat) : List Nat := (List.range ((a % 4096 + n + 4095) / 4096)).map fun i => a / 4096 + i

/-! ### Slabs (11 R357-R359) -/

def slabCap (ical : Bool) : Nat := if ical then 10240 else 20480

def MPart.used (m : MPart) : Nat := ((m.slabs ++ m.loading).map Slab.size).foldl (· + ·) 0

/-- The slabs that a swapped-in element loads, in descriptor order and then k-step order, while they fit. -/
def MPlane.preload (p : MPlane) (ical : Bool) : List Slab :=
  let want := (List.range 4).flatMap fun i =>
    let d := p.descs[i % 4]'(Nat.mod_lt _ (by decide))
    if d.valid then (List.range (d.kcount.toNat + 1)).map fun c => (⟨Fin.ofNat 4 i, c, d.slabSize, 0, [], [], 0⟩ : Slab) else []
  (want.foldl (fun (acc : Bool × Nat × List Slab) b =>
    if acc.1 && decide (acc.2.1 + b.size ≤ slabCap ical) then (true, acc.2.1 + b.size, acc.2.2 ++ [b]) else (false, acc.2)) (true, 0, [])).2.2

def MPart.resident (m : MPart) (d : Fin 4) (c : Nat) : Option Slab := m.slabs.find? fun b => b.desc == d && b.kstep == c

/-- Whether a row in the array uses a slab. -/
def MPart.inUse (m : MPart) (b : Slab) : Bool := m.array.any fun r => r.desc == b.desc && r.kstep == b.kstep

/-- Drop least recently used slabs that no row uses until `n` bytes are free. -/
def MPart.makeRoom (ical : Bool) (n : Nat) : Nat → MPart → MPart
  | 0, m => m
  | fuel + 1, m =>
    if m.used + n ≤ slabCap ical then m
    else match m.slabs.find? fun b => !m.inUse b with
      | some b => MPart.makeRoom ical n fuel { m with slabs := m.slabs.erase b }
      | none => m

/-- Drop every slab of a descriptor. -/
def MPart.dropSlabs (m : MPart) (d : Fin 4) : MPart :=
  { m with slabs := m.slabs.filter fun b => b.desc != d, loading := m.loading.filter fun b => b.desc != d }

/-- An item of `w` bits of a slab from byte `a`, low nibble first. -/
def slabItem (bs : List Byte) (a w i : Nat) : Nat :=
  if w = 4 then (bs.getD (a + i / 2) 0).toNat / 2 ^ (4 * (i % 2)) % 16
  else if w = 8 then (bs.getD (a + i) 0).toNat
  else (bs.getD (a + 2 * i) 0).toNat + 256 * (bs.getD (a + 2 * i + 1) 0).toNat

/-- The index nibble of K-group `q` and column `n`: i0 and i1 (11 R357). -/
def Desc.index (d : Desc) (bs : List Byte) (q n : Nat) : Nat × Nat :=
  let x := slabItem bs d.scalePart 4 (64 * q + n)
  (x % 4, x / 4)

/-- The stored value of a code or an element: its exact value (11 R358). -/
def Desc.stored (d : Desc) (b : Slab) (row n : Nat) : Exact :=
  let x := slabItem b.bytes (d.scalePart + d.indexPart) d.vbits (64 * row + n)
  let f := Fmt.ofCode d.bfmt.toNat
  if d.coded then
    let e := decodeFloat Fmt.b16.float (b.cb.getD x 0).toNat
    if e.isNan && f == .i8 then .fin false 0 0 false else valueOf f (roundTo f 0 true 0 e)
  else valueOf f x

/-- B(k, n) without its scale (11 R358). -/
def Desc.bVal (d : Desc) (b : Slab) (k n : Nat) : Exact :=
  if d.sparse then
    let i := d.index b.bytes (k / 4) n
    if k % 4 = i.1 then d.stored b (2 * (k / 4)) n else if k % 4 = i.2 then d.stored b (2 * (k / 4) + 1) n else .fin false 0 0 false
  else d.stored b k n

/-- The E8 scale byte of B(k, n), when the slab has a scale part. -/
def Desc.bScale (d : Desc) (b : Slab) (k n : Nat) : Option Nat :=
  if d.hasScales then some (b.bytes.getD (64 * (k / blkElems d.blk.toNat) + n) 0).toNat else none

/-- A value under an E8 scale byte (07 R244). -/
def scaleBy (sc : Option Nat) (x : Exact) : Exact :=
  match sc with
  | none => x
  | some 255 => .nan
  | some e => x.scale ((e : Int) - 127)

/-- MX_BAD_SPARSE: the first index nibble with i0 not below i1. -/
def Desc.badIndex (d : Desc) (bs : List Byte) : Option Nat :=
  if d.sparse then
    (List.range (d.krow / 4 * 64)).find? fun j => let i := d.index bs (j / 64) (j % 64); decide (i.2 ≤ i.1)
  else none

/-- Start the load of the slab that the row at the head of in0 needs (11 R359); the buffer of a frozen plane stays (11 R370). -/
def State.slabLoad (s : State) (e : ElemAt) (ical : Bool) : State :=
  let x := s.elem e
  let m := x.mpart ical
  let p := (x.plane ical).m
  match headToken (x.queue ical 0) with
  | none => s
  | some t =>
    match p.select ((s.stripe e.at_).conf ical).ctx t.ctx with
    | none => s
    | some d =>
      let dd := p.descs[d]
      let row := t.iter.toNat % (if ical then 16 else 64)
      let c := ((tabFind row m.rows).map AccRow.count).getD 0 + (m.array.filter fun r => r.row == row).length
      let n := dd.slabSize
      let m' := m.makeRoom ical n (m.slabs.length + 1)
      if decide (c ≤ dd.kcount.toNat) && (m.resident d c).isNone && !(m.loading.any fun b => b.desc == d && b.kstep == c) &&
          decide (m'.used + n ≤ slabCap ical) && s.moving e.at_ ical then
        s.setElem e (x.setMpart ical { m' with loading := m'.loading ++ [⟨d, c, n, 0, [], [], 0⟩] })
      else s

/-- A whole slab enters the buffer: its codebook is read and its index nibbles are checked (07 R247, 11 R358). -/
def State.slabEnter (s : State) (e : ElemAt) (ical : Bool) (b : Slab) : State :=
  let x := s.elem e
  let d := (x.plane ical).m.descs[b.desc]
  let ctx := ((s.stripe e.at_).conf ical).ctx + d.ctxv
  let c := s.scl e
  let flts := (if d.coded then c.bookUse ctx d.cbook else []) ++
    (match d.badIndex b.bytes with
     | some j => [mxFlt 0x33 (d.slabAt b.kstep + d.scalePart + j / 2)]
     | none => [])
  match lowestFlt flts with
  | some f => s.elemFault e ical (some ⟨b.desc.val, by omega⟩) 0 ctx 0 f
  | none =>
    let m := x.mpart ical
    s.setElem e (x.setMpart ical { m with slabs := m.slabs ++ [{ b with cb := if d.coded then c.book d.cbook else [] }] })

/-- The weight-store bytes of a load's next piece: where they begin, and how many (11 R360). -/
def MPlane.piece (p : MPlane) (b : Slab) : Nat × Nat := (p.descs[b.desc].slabAt b.kstep + b.got, min 256 (b.size - b.got))

/-- A load's next piece is held by a refresh window of a bank that it touches (11 R360). -/
def MPlane.heldPiece (p : MPlane) (fc : Nat) (b : Slab) : Bool := (tilesOf (p.piece b).1 (p.piece b).2).any (inRefresh fc)

/-- Count the loads of an element that wait on a refresh window, each once in an fc (11 R377). -/
def State.countHeld (s : State) (e : ElemAt) (ical : Bool) : State :=
  let x := s.elem e
  let m := x.mpart ical
  let new (b : Slab) : Bool := (x.plane ical).m.heldPiece s.fc b && b.waitAt != s.fc + 1
  (s.setElem e (x.setMpart ical { m with loading := m.loading.map fun b => if new b then { b with waitAt := s.fc + 1 } else b })).onRing
    e.at_.ring fun r => { r with mxRefwait := r.mxRefwait + .ofNat 64 (m.loading.filter new).length }

/-- Read the next 256-byte piece of the oldest load that no refresh window holds (11 R359, R360). -/
def State.slabPiece (s : State) (e : ElemAt) (ical : Bool) : State :=
  let s := s.countHeld e ical
  let x := s.elem e
  let m := x.mpart ical
  let dn := e.at_.ring.die
  match m.loading.find? fun b => !(x.plane ical).m.heldPiece s.fc b with
  | none => s
  | some b =>
    let rest := m.loading.erase b
    let d := (x.plane ical).m.descs[b.desc]
    let a := ((x.plane ical).m.piece b).1
    let n := ((x.plane ical).m.piece b).2
    let lost (f : Flt) : State :=
      State.elemFault (s.setElem e (x.setMpart ical { m with loading := rest })) e ical (some ⟨b.desc.val, by omega⟩) 0
        (((s.stripe e.at_).conf ical).ctx + d.ctxv) 0 f
    match (tilesOf a n).find? fun t => (s.keyOf ((s.die dn).tileSlot t)).isNone with
    | some t => lost (mxFlt 0x36 (4096 * t))
    | none =>
    match (List.range n).find? fun i => s.wsBad dn (a + i) with
    | some i => lost (mxFlt 0x35 (a + i))
    | none =>
      let b' := { b with got := b.got + n, bytes := b.bytes ++ (List.range n).map fun i => s.wsByte dn (a + i) }
      let s := s.onDie dn fun y => { y with mxWsread := y.mxWsread + .ofNat 64 n }
      if b.size ≤ b'.got then State.slabEnter (s.setElem e (x.setMpart ical { m with loading := rest })) e ical b'
      else s.setElem e (x.setMpart ical { m with loading := m.loading.map fun c => if c = b then b' else c })

/-- SLAB_LOAD (11 R359). -/
def execSlabLoad (e : ElemAt) (ical : Bool) (s : State) : Host.Outcome State Fault Refusal := .next (s.slabLoad e ical)
/-- SLAB_PIECE (11 R360). -/
def execSlabPiece (e : ElemAt) (ical : Bool) (s : State) : Host.Outcome State Fault Refusal := .next (s.slabPiece e ical)

/-! ### The pick of a row (11 R362) -/

/-- The almanac slot of the fc grants a context (05 R207); an occupation grants the intercalary one (05 R210). -/
def State.almanacGrants (s : State) (r : RingAt) (ical : Bool) (ctx : BitVec 6) : Bool :=
  ical ||
    match tabFind (s.fc % 64) (s.ring r).almanac with
    | none => false
    | some a => a.shared || (s.ring r).ctxOf a.pasid == some ctx

/-- Rows that hold a drain-queue entry or will: entries, completed rows, and rows in the array that complete. -/
def MPart.draining (m : MPart) (p : MPlane) : Nat :=
  (m.drains.filter fun d => !d.kill).length + (m.rows.filter fun r => decide (p.descs[r.2.desc].kcount.toNat < r.2.count)).length +
    (m.array.filter fun r => decide (r.kstep = p.descs[r.desc].kcount.toNat)).length

def State.mxPick (s : State) (e : ElemAt) (ical : Bool) : State :=
  let x := s.elem e
  let m := x.mpart ical
  let p := (x.plane ical).m
  match headToken (x.queue ical 0) with
  | none => s
  | some t =>
    if !s.live e ical || x.lastPick == s.fc + 1 then s
    else
      let row := t.iter.toNat % (if ical then 16 else 64)
      let sel := p.select ((s.stripe e.at_).conf ical).ctx t.ctx
      let dd := (sel.map fun d => p.descs[d]).getD Desc.zero
      let c := ((tabFind row m.rows).map AccRow.count).getD 0 + (m.array.filter fun r => r.row == row).length
      let holder := (tabFind row m.rows).filter fun a => !(a.ctx == t.ctx && a.iter == t.iter && some a.desc == sel)
      let here := (sel.bind fun d => m.resident d c).isSome
      let room := decide (c ≠ dd.kcount.toNat) || decide (m.draining p < 2)
      let slot : Option (Fin 16) := sel.map fun d => ⟨d.val, by omega⟩
      if !s.almanacGrants e.at_.ring ical t.ctx then
        if sel.isSome && holder.isNone && here && room then s.countOnce e 2 fun r => { r with mxAlmwait := r.mxAlmwait + 1 } else s
      else if sel.isNone then s.elemFault e ical none 0 t.ctx t.iter (mxFlt 0x31 t.ctx.toNat)
      else if t.body.fmt.code ≠ dd.afmt.toNat then
        s.elemFault e ical slot 0 t.ctx t.iter (mxFlt 0x30 (dd.afmt.toNat * 256 + t.body.fmt.code))
      else
        match holder with
        | some a => s.elemFault e ical slot 0 t.ctx t.iter (mxFlt 0x32 (a.ctx.toNat * 2 ^ 32 + a.iter.toNat * 2 ^ 16 + row))
        | none =>
          match sel.bind fun d => m.resident d c with
          | none => s.countOnce e 3 fun r => { r with mxWbwait := r.mxWbwait + 1 }
          | some b =>
            if room then
              let d := sel.getD 0
              let rows := if (tabFind row m.rows).isSome then m.rows else tabPut row ⟨t.ctx, t.iter, d, 0, false, Vector.replicate 64 0⟩ m.rows
              let x := x.setQueue ical 0 ((x.queue ical 0).drop 1)
              s.setElem e
                { x.setMpart ical { m with rows := rows, slabs := m.slabs.erase b ++ [b], array := m.array ++ [⟨t, row, d, c, s.fc⟩] } with
                  lastPick := s.fc + 1 }
            else s

/-- MX_ROW_PICK (11 R362). -/
def execMxRowPick (e : ElemAt) (ical : Bool) (s : State) : Host.Outcome State Fault Refusal := .next (s.mxPick e ical)

/-! ### The commit of a row (11 R363-R365, R368) -/

/-- An A element's value under its block scale (11 R365). -/
def aVal (t : Reg) (sc : SclEntry) (cb : List Nat) (k : Nat) : Exact :=
  let e := Lanes.elem t.lanes t.fmt.width k
  if t.fmt.scaled then scaledValue t.fmt cb ((sc.scale.getD (k / blkElems sc.blk.toNat) 0).toNat) e else valueOf t.fmt e

def rne32 (x : Exact) : Nat := roundTo .f32 0 false 0 x

/-- The products of one group of 16 K values for a column: four sums of four, each under its scales. -/
def groupSum (t : Reg) (sc : SclEntry) (cb : List Nat) (d : Desc) (b : Slab) (g n : Nat) : Exact :=
  (List.range 4).foldl (fun p q =>
    let k0 := 16 * g + 4 * q
    let ks := (List.range 4).filterMap fun i => if k0 + i < validCount t.fmt t.vlen.val then some (k0 + i) else none
    if ks.isEmpty then p
    else
      let sum := ks.foldl (fun a k => a.add false ((aVal t sc cb k).mul (d.bVal b k n))) (.fin false 0 0 false)
      p.add false (scaleBy (d.bScale b k0 n) sum)) (.fin false 0 0 false)

/-- 11 R365 mx_row. -/
def mxRow (t : Reg) (sc : SclEntry) (cb : List Nat) (d : Desc) (b : Slab) (acc : Vector Word 64) : Vector Word 64 :=
  (List.range (d.krow / 16)).foldl (fun acc g =>
    Vector.ofFn fun n =>
      let p := rne32 (groupSum t sc cb d b g n.val)
      .ofNat 32 (rne32 ((valueOf .f32 acc[n].toNat).add false (valueOf .f32 p)))) acc

/-- Rows in the array return to in0 in pick order, and rows that they opened close (08 R288, 11 R364, R370). -/
def Elem.squashRows (x : Elem) (ical : Bool) : Elem :=
  let m := x.mpart ical
  (x.setQueue ical 0 (m.array.map ArrRow.tok ++ x.queue ical 0)).setMpart ical
    { m with array := [], rows := m.rows.filter fun r => decide (r.2.count ≠ 0) }

/-- Squash the rows of an element's array, `n` of which count as squashed firings (08 R310). -/
def State.squash (s : State) (e : ElemAt) (ical : Bool) (n : Nat) : State :=
  (s.onElem e fun x => x.squashRows ical).onRing e.at_.ring fun y => { y with elSquashed := y.elSquashed + .ofNat 64 n }

/-- The EOS|KILL set that a row sends when it carries EOS and does not complete (11 R368). -/
def eosKills (t : Token) (d : Fin 4) (dd : Desc) : Drain := ⟨t.ctx, t.iter, d, true, false, true, Vector.replicate 64 0, dd.drainChans⟩

def State.mxCommit (s : State) (e : ElemAt) (ical : Bool) : State :=
  let x := s.elem e
  let m := x.mpart ical
  let p := (x.plane ical).m
  match m.array with
  | [] => s
  | r :: rest =>
    let t := r.tok
    let dd := p.descs[r.desc]
    let a := (s.launch ((s.stripe e.at_).conf ical).launch).alloc e.at_.ring.die
    let c := s.scl e
    let scaled := t.body.fmt.scaled
    if !s.moving e.at_ ical then s
    else if a.isKilled t.iter then
      let x := x.setMpart ical { m with array := rest }
      (s.setElem e (x.setQueue ical 0 (dropped a t ++ x.queue ical 0))).onRing e.at_.ring fun y =>
        { y with elKilldrop := y.elKilldrop + 1, elSquashed := y.elSquashed + 1 }
    else
      match lowestFlt (if scaled then c.read t.ctx t.body else []), m.resident r.desc r.kstep, tabFind r.row m.rows with
      | some f, _, _ =>
        State.elemFault (s.squash e ical rest.length) e ical (some ⟨r.desc.val, by omega⟩) 0 t.ctx t.iter f
      | none, some b, some w =>
        let en := c.entry t.body.bind.toNat
        let acc := mxRow t.body en (c.bookNats en.cbook) dd b w.acc
        let whole := decide (w.count = dd.kcount.toNat)
        let w' : AccRow := { w with count := w.count + 1, eos := t.eos, acc := acc }
        let kills := if t.eos && !whole then [eosKills t r.desc dd] else []
        let s := s.setElem e (x.setMpart ical { m with array := rest, rows := tabPut r.row w' m.rows, drains := m.drains ++ kills })
        s.onRing e.at_.ring fun y => { y with mxRows := y.mxRows + 1, scl := if scaled then c.use t.body.bind.toNat else c }
      | none, _, _ => s.squash e ical m.array.length

/-- On an intercalary switch, main-plane rows whose commit falls in this fc or the next commit, and the others return to in0 (11 R370). -/
def State.mxFreeze (s : State) (e : ElemAt) : State :=
  let rows := (s.elem e).main.array
  let due := (rows.filter fun r => decide (r.picked + 7 ≤ s.fc)).length
  let s := (List.range due).foldl (fun s _ => s.mxCommit e false) s
  s.squash e false (s.elem e).main.array.length

/-- MX_ROW_COMMIT (11 R363). -/
def execMxRowCommit (e : ElemAt) (ical : Bool) (s : State) : Host.Outcome State Fault Refusal := .next (s.mxCommit e ical)

/-! ### Drain (11 R366, R368) -/

/-- The drained values of an accumulator row, in ascending column order. -/
def drainVals (d : Desc) (acc : Vector Word 64) : List Nat :=
  acc.toList.map fun w => if d.drfmt then roundTo .b16 d.round.toNat false 0 (valueOf .f32 w.toNat) else w.toNat

def Desc.drainFmt (d : Desc) : Fmt := if d.drfmt then .b16 else .f32

/-- Token `q` of a drained row. -/
def drainReg (d : Desc) (acc : Vector Word 64) (q : Nat) : Reg :=
  let n := if d.drfmt then 32 else 16
  mkReg d.drainFmt 15 (((drainVals d acc).drop (n * q)).take n)

/-- An exit is counted, and the count stops at EXITS (11 R368). -/
def Plane.mxExit (p : Plane) (c : BitVec 6) : Plane := if p.exitCount c < Hdr.exits p.hdr then p.countExit c else p

/-- A descriptor's drain AMAX takes every drained value; those of a speculative iteration are held (08 R299). -/
def Plane.drainAmax (pl : Plane) (w : AccRow) (spec : Bool) : Plane :=
  let d := pl.m.descs[w.desc]
  let am := (drainVals d w.acc).foldl (amaxStep d.drainFmt) (if spec then (0, false) else pl.m.damax[w.desc])
  if spec then { pl with amaxHeld := pl.amaxHeld ++ [⟨w.ctx, w.iter, some w.desc, am.1, am.2, false, false⟩] }
  else { pl with m := { pl.m with damax := pl.m.damax.set w.desc am } }

/-- Move a row of the accumulator file into the drain queue and close it. -/
def Elem.toDrain (x : Elem) (ical : Bool) (row : Nat) (w : AccRow) (eos spec : Bool) : Elem :=
  let m := x.mpart ical
  let d := (x.plane ical).m.descs[w.desc]
  (x.setPlane ical ((x.plane ical).drainAmax w spec)).setMpart ical
    { m with rows := tabDel row m.rows, drains := m.drains ++ [⟨w.ctx, w.iter, w.desc, eos, spec, false, w.acc, d.drainChans⟩] }

/-- A row is complete (11 R363): it waits for an entry of the drain queue. -/
def Elem.rowDone (x : Elem) (ical : Bool) (w : AccRow) : Bool := decide ((x.plane ical).m.descs[w.desc].kcount.toNat < w.count)

/-- A completed row enters the drain queue when an entry is free. -/
def State.mxComplete (s : State) (e : ElemAt) (ical : Bool) : State :=
  let x := s.elem e
  let m := x.mpart ical
  let a := (s.launch ((s.stripe e.at_).conf ical).launch).alloc e.at_.ring.die
  match m.rows.find? fun r => x.rowDone ical r.2 with
  | none => s
  | some r =>
    if (m.drains.filter fun d => !d.kill).length < 2 then s.setElem e (x.toDrain ical r.1 r.2 r.2.eos (a.isSpec r.2.iter)) else s

/-- The token of column group `q` of a drain entry (11 R366, R368). -/
def Drain.token (d : Drain) (dd : Desc) (q : Nat) : Token :=
  let t : Token := ⟨drainReg dd d.acc q, d.ctx, d.iter, d.eos, false, d.spec⟩
  if d.kill then { t.asKill with spec := false } else t

/-- The drain queue as its entries put their tokens into staging: the entries that stay, and the channels on which they wait. -/
structure Draining where
  s : State
  kept : List Drain
  held : List Nat

/-- A drain entry puts its tokens into staging, each as its channel has credit and no entry before it waits there; it leaves with its last (11 R366). -/
def Draining.take (e : ElemAt) (ical : Bool) (w : Draining) (d : Drain) : Draining :=
  let dd := ((w.s.elem e).plane ical).m.descs[d.desc]
  let go := d.left.filter fun q => !w.held.contains q && decide (1 ≤ w.s.outFree e ical (Fin.ofNat 8 q))
  let s := go.foldl (fun s q => s.stage e ical (Fin.ofNat 8 q) (d.token dd q)) w.s
  let left := d.left.filter fun q => !go.contains q
  if left.isEmpty then
    ⟨if d.eos then s.onElem e fun x => x.setPlane ical ((x.plane ical).mxExit d.ctx) else s, w.kept, w.held⟩
  else ⟨s, w.kept ++ [{ d with left := left }], w.held ++ left⟩

/-- The entries of the drain queue put their tokens into staging, oldest first. -/
def State.mxDrainAll (s : State) (e : ElemAt) (ical : Bool) : State :=
  let w := ((s.elem e).mpart ical).drains.foldl (Draining.take e ical) ⟨s, [], []⟩
  w.s.onElem e fun x => x.setMpart ical { x.mpart ical with drains := w.kept }

/-- The drain of an element: a completed row enters the queue, and its entries drain; that of a frozen victim stays (08 R307). -/
def State.mxDrain (s : State) (e : ElemAt) (ical : Bool) : State :=
  if s.moving e.at_ ical then (s.mxComplete e ical).mxDrainAll e ical else s

/-- MX_ROW_DRAIN (11 R366). -/
def execMxRowDrain (e : ElemAt) (ical : Bool) (s : State) : Host.Outcome State Fault Refusal := .next (s.mxDrain e ical)

/-- The absorption of a KILL token at the head of in0 (11 R368). -/
def State.mxAbsorb (s : State) (e : ElemAt) (ical : Bool) : State :=
  let x := s.elem e
  match x.queue ical 0 with
  | [] => s
  | t :: rest =>
    let p := (x.plane ical).m
    let send := t.eos && !t.spec
    let outs := match p.select ((s.stripe e.at_).conf ical).ctx t.ctx with
      | some d => if send then p.descs[d].drainChans else []
      | none => []
    if t.kill && s.moving e.at_ ical && outs.all fun q => decide (1 ≤ s.outFree e ical (Fin.ofNat 8 q)) then
      let s := s.setElem e (x.setQueue ical 0 rest)
      let s := outs.foldl (fun s q => s.stage e ical (Fin.ofNat 8 q) { t.asKill with eos := true, spec := false }) s
      if outs.isEmpty then s else s.onElem e fun x => x.setPlane ical ((x.plane ical).mxExit t.ctx)
    else s

/-- MX_KILL_ABSORB (11 R368). -/
def execMxKillAbsorb (e : ElemAt) (ical : Bool) (s : State) : Host.Outcome State Fault Refusal := .next (s.mxAbsorb e ical)

/-! ### Matrix configuration operations (11 R372-R375) -/

/-- What a matrix message acts on: the focus's element and plane, its message, and the CTX bound to the plane. -/
structure MxMsg where
  e : ElemAt
  ical : Bool
  m : Msg
  cb : BitVec 6
  pl : Plane
  part : MPart
  /-- the out channels that have a route -/
  routed : List Nat
  fc : Nat

def State.mxMsg (s : State) : MxMsg :=
  let f := s.focus
  let x := s.elem f.elem
  let g := (s.stripe f.elem.at_).conf f.ical
  ⟨f.elem, f.ical, f.msg, g.ctx, x.plane f.ical, x.mpart f.ical,
    (List.range 4).filter fun c => routeKind (g.route (routeIndex f.elem.slot.val c)) != 0, s.fc⟩

def MxMsg.desc (x : MxMsg) (c : Fin 4) : Desc := x.pl.m.descs[c]

/-- Descriptor `c` has an open row, a row in the array or a drain-queue entry. -/
def MxMsg.busy (x : MxMsg) (c : Fin 4) : Bool :=
  x.part.rows.any (fun r => r.2.desc == c) || x.part.array.any (fun r => r.desc == c) || x.part.drains.any fun d => d.desc == c && !d.kill

/-- The refusals of a message that changes a valid descriptor. -/
def MxMsg.changeStatus (x : MxMsg) (c : Fin 4) : Nat :=
  if x.busy c then 0x502 else if !(x.desc c).valid then 0x506 else if !(x.desc c).serves x.cb x.m.ctx then 0x503 else 0

/-- The changed descriptor fits R56, R355, with a route for each channel that it drains on, and its window (11 R373). -/
def MxMsg.fits (x : MxMsg) (c : Fin 4) (d : Desc) : Bool :=
  descsOk x.ical (x.pl.m.descs.set c d) &&
    (!d.valid || (d.drainChans.all x.routed.contains && decide (x.pl.m.wbase.toNat ≤ d.tilebase.toNat) &&
      decide (d.tilebase.toNat - x.pl.m.wbase.toNat + d.tilecnt.toNat ≤ x.pl.m.wcount.toNat)))

/-- Write descriptor `c`; `drop` drops its slabs (11 R359). -/
def State.setDesc (s : State) (x : MxMsg) (c : Fin 4) (d : Desc) (drop : Bool) : State :=
  s.onElem x.e fun y =>
    let p := y.plane x.ical
    let y := y.setPlane x.ical { p with m := { p.m with descs := p.m.descs.set c d } }
    if drop then y.setMpart x.ical ((y.mpart x.ical).dropSlabs c) else y

/-- A message that changes fields of a valid descriptor: refused, or changed and answered. -/
def State.mxChange (s : State) (x : MxMsg) (p0 : Word) (paramsOk : Bool) (f : Desc → Desc) (drop : Bool) : State :=
  let c : Fin 4 := Fin.ofNat 4 p0.toNat
  let d := f (x.desc c)
  if !paramsOk || decide (4 ≤ p0.toNat) then s.refuse x.m 0x501
  else if x.changeStatus c ≠ 0 then s.refuse x.m (x.changeStatus c)
  else if !x.fits c d then s.refuse x.m 0x505
  else (s.setDesc x c d drop).answer x.m 0 0 0

/-- MXFILL (11 R373). -/
def State.mxFill (s : State) (p : Params) : State :=
  let x := s.mxMsg
  (s.onElem x.e fun y =>
    let q := y.plane x.ical
    y.setPlane x.ical { q with m := { q.m with fill := some (x.m.ctx, #v[p.p0, p.p1, p.p2, p.p3]) } }).answer x.m 0 0 0

/-- The descriptor that the staged words W5 to W2 make, TILEBASE read as window-relative. -/
def fillDesc (w : Vector Word 4) (wbase : Nat) : Desc :=
  let d := descOf (w[0].toNat * 2 ^ 160 + w[1].toNat * 2 ^ 128 + w[2].toNat * 2 ^ 96 + w[3].toNat * 2 ^ 64)
  if d.valid then { d with tilebase := .ofNat 32 (d.tilebase.toNat + wbase) } else Desc.zero

/-- Reserved bits 104:64 of the staged words. -/
def fillRsvd (w : Vector Word 4) : Bool := (bits w[2].toNat 8 0 != 0) || (w[3] != 0)

/-- MXCFG (11 R373, R374). -/
def State.mxCfg (s : State) (p : Params) : State :=
  let x := s.mxMsg
  let c : Fin 4 := Fin.ofNat 4 p.p0.toNat
  if 4 ≤ p.p0.toNat ∨ p.p1 ≠ 0 ∨ p.p2 ≠ 0 ∨ p.p3 ≠ 0 then s.refuse x.m 0x501
  else if x.busy c then s.refuse x.m 0x502
  else
    match x.pl.m.fill with
    | none => s.refuse x.m 0x504
    | some (owner, w) =>
      let d := fillDesc w x.pl.m.wbase.toNat
      let raw := bits w[1].toNat 31 1 + bits w[0].toNat 0 0 * 2 ^ 31
      if owner ≠ x.m.ctx then s.refuse x.m 0x504
      else if (d.valid && !d.serves x.cb x.m.ctx) || ((x.desc c).valid && !(x.desc c).serves x.cb x.m.ctx) then s.refuse x.m 0x503
      else if (d.valid && (fillRsvd w || decide (2 ^ 32 ≤ raw + x.pl.m.wbase.toNat))) || !x.fits c d then s.refuse x.m 0x505
      else
        let s := s.setDesc x c d true
        (s.onElem x.e fun y =>
          let q := y.plane x.ical
          y.setPlane x.ical { q with m := { q.m with fill := none } }).answer x.m 0 d.valid.toNat 0

/-- Rows that a message names, as a list; `ok` says that they exist in the plane. -/
def rowsNamed (m : Nat) : List Nat := (List.range 64).filter fun i => bit m i

/-- The refusals of a row operation (11 R374); a completed row that has not yet left for the drain queue counts as in the array. A row that
commits in this fc does not stand in the way of a read (11 R376 case 4). -/
def MxMsg.rowStatus (x : MxMsg) (reads : Bool) (rows : List Nat) : Nat :=
  if x.ical && rows.any fun r => decide (16 ≤ r) then 0x501
  else if rows.any fun r => (tabFind r x.part.rows).any fun a => a.ctx != x.m.ctx then 0x503
  else if rows.any fun r => x.part.array.any (fun a => a.row == r && !(reads && decide (a.picked + 8 ≤ x.fc))) || (tabFind r x.part.rows).any fun a =>
      decide ((x.desc a.desc).kcount.toNat < a.count) then 0x502
  else 0

/-- MXDRAIN (11 R373, R374). -/
def State.mxDrainMsg (s : State) (p : Params) : State :=
  let x := s.mxMsg
  let row := p.p0.toNat % 64
  let a := (s.launch ((s.stripe x.e.at_).conf x.ical).launch).alloc x.e.at_.ring.die
  if 64 ≤ p.p0.toNat ∨ p.p1 ≠ 0 ∨ p.p2 ≠ 0 ∨ p.p3 ≠ 0 then s.refuse x.m 0x501
  else if x.rowStatus false [row] ≠ 0 then s.refuse x.m (x.rowStatus false [row])
  else if 2 ≤ x.part.draining x.pl.m then s.refuse x.m 0x502
  else
    match tabFind row x.part.rows with
    | none => s.answer x.m 0 0 0
    | some w => (s.onElem x.e fun y => y.toDrain x.ical row w false (a.isSpec w.iter)).answer x.m 0 w.count 0

/-- MXCLRACC (11 R373, R374). -/
def State.mxClr (s : State) (p : Params) : State :=
  let x := s.mxMsg
  let rows := rowsNamed (p.p0.toNat + p.p1.toNat * 2 ^ 32)
  if p.p2 ≠ 0 ∨ p.p3 ≠ 0 then s.refuse x.m 0x501
  else if x.rowStatus false rows ≠ 0 then s.refuse x.m (x.rowStatus false rows)
  else
    let n := (rows.filter fun r => (tabFind r x.part.rows).isSome).length
    (s.onElem x.e fun y =>
      let m := y.mpart x.ical
      y.setMpart x.ical { m with rows := m.rows.filter fun r => !rows.contains r.1 }).answer x.m 0 n 0

/-- MXAMAX (11 R373): reads and clears the drain AMAX of a descriptor that serves the CTX. -/
def State.mxAmaxMsg (s : State) (p : Params) : State :=
  let x := s.mxMsg
  let c : Fin 4 := Fin.ofNat 4 p.p0.toNat
  let a := (s.launch ((s.stripe x.e.at_).conf x.ical).launch).alloc x.e.at_.ring.die
  let r := (x.pl.settleAmax a).m.damax[c]
  if 4 ≤ p.p0.toNat ∨ p.p1 ≠ 0 ∨ p.p2 ≠ 0 ∨ p.p3 ≠ 0 then s.refuse x.m 0x501
  else if !(x.desc c).valid then s.refuse x.m 0x506
  else if !(x.desc c).serves x.cb x.m.ctx then s.refuse x.m 0x503
  else
    (s.onElem x.e fun y =>
      let q := (y.plane x.ical).settleAmax a
      y.setPlane x.ical { q with m := { q.m with damax := q.m.damax.set c (0, false) } }).answer x.m 0 r.1.toNat r.2.toNat

/-- MXRDACC (11 R373, R374): committed values; a closed row reads +0. -/
def State.mxRead (s : State) (p : Params) : State :=
  let x := s.mxMsg
  let row := bits p.p0.toNat 5 0
  let q := bits p.p0.toNat 9 8
  if p.p0.toNat ≠ row + q * 256 ∨ p.p1 ≠ 0 ∨ p.p2 ≠ 0 ∨ p.p3 ≠ 0 then s.refuse x.m 0x501
  else if x.rowStatus true [row] ≠ 0 then s.refuse x.m (x.rowStatus true [row])
  else
    let acc := ((tabFind row x.part.rows).map AccRow.acc).getD (Vector.replicate 64 0)
    s.answerWith x.m 0 (mkReg .f32 15 (((acc.toList.drop (16 * q)).take 16).map BitVec.toNat))

/-- MXSTAT (11 R373). -/
def State.mxStat (s : State) (p : Params) : State :=
  let x := s.mxMsg
  let c : Fin 4 := Fin.ofNat 4 p.p0.toNat
  let d := x.desc c
  let n := (x.part.rows.filter fun r => r.2.desc == c).length
  if 4 ≤ p.p0.toNat ∨ p.p1 ≠ 0 ∨ p.p2 ≠ 0 ∨ p.p3 ≠ 0 then s.refuse x.m 0x501
  else if d.valid && !d.serves x.cb x.m.ctx then s.refuse x.m 0x503
  else s.answer x.m 0 (d.valid.toNat * 2 ^ 31 + d.ctxv.toNat * 2 ^ 25 + n) (s.fc % 40000)

/-- MXCFG (11 R373). -/
def execMxcfg (p : Params) (s : State) : Host.Outcome State Fault Refusal := .next (s.mxCfg p)
/-- MXTILE (11 R373). -/
def execMxtile (p : Params) (s : State) : Host.Outcome State Fault Refusal :=
  .next (s.mxChange s.mxMsg p.p0 (decide (p.p2.toNat < 2 ^ 16) && p.p3 == 0)
    (fun d => { d with tilebase := .ofNat 32 (s.mxMsg.pl.m.wbase.toNat + p.p1.toNat), tilecnt := .ofNat 16 p.p2.toNat }) true)
/-- MXKCNT (11 R373). -/
def execMxkcnt (p : Params) (s : State) : Host.Outcome State Fault Refusal :=
  .next (s.mxChange s.mxMsg p.p0 (decide (p.p1.toNat < 2 ^ 12) && p.p2 == 0 && p.p3 == 0) (fun d => { d with kcount := .ofNat 12 p.p1.toNat }) true)
/-- MXDRAIN (11 R374). -/
def execMxdrain (p : Params) (s : State) : Host.Outcome State Fault Refusal := .next (s.mxDrainMsg p)
/-- MXCLRACC (11 R373). -/
def execMxclracc (p : Params) (s : State) : Host.Outcome State Fault Refusal := .next (s.mxClr p)
/-- MXCB (11 R373). -/
def execMxcb (p : Params) (s : State) : Host.Outcome State Fault Refusal :=
  .next (s.mxChange s.mxMsg p.p0 (decide (p.p1.toNat < 2 ^ 6) && p.p2 == 0 && p.p3 == 0) (fun d => { d with cbook := .ofNat 6 p.p1.toNat }) true)
/-- MXAMAX (11 R373). -/
def execMxamax (p : Params) (s : State) : Host.Outcome State Fault Refusal := .next (s.mxAmaxMsg p)
/-- MXRDACC (11 R374). -/
def execMxrdacc (p : Params) (s : State) : Host.Outcome State Fault Refusal := .next (s.mxRead p)
/-- MXFILL (11 R373). -/
def execMxfill (p : Params) (s : State) : Host.Outcome State Fault Refusal := .next (s.mxFill p)
/-- MXFMT (11 R373): AFMT 8:6, BFMT 5:3, COMP 1:0. -/
def execMxfmt (p : Params) (s : State) : Host.Outcome State Fault Refusal :=
  .next (s.mxChange s.mxMsg p.p0 (decide (p.p1.toNat < 2 ^ 9) && !bit p.p1.toNat 2 && p.p2 == 0 && p.p3 == 0)
    (fun d => { d with afmt := .ofNat 3 (bits p.p1.toNat 8 6), bfmt := .ofNat 3 (bits p.p1.toNat 5 3), comp := .ofNat 2 (bits p.p1.toNat 1 0) }) true)
/-- MXRND (11 R373): DRFMT 3, ROUND 2:0. -/
def execMxrnd (p : Params) (s : State) : Host.Outcome State Fault Refusal :=
  .next (s.mxChange s.mxMsg p.p0 (decide (p.p1.toNat < 2 ^ 4) && p.p2 == 0 && p.p3 == 0)
    (fun d => { d with drfmt := bit p.p1.toNat 3, round := .ofNat 3 (bits p.p1.toNat 2 0) }) false)
/-- MXSTAT (11 R373). -/
def execMxstat (p : Params) (s : State) : Host.Outcome State Fault Refusal := .next (s.mxStat p)

end Sys2Proof.Machine
end

