-- ==== Sys2Proof/Machine/Loader.lean ====
section
/-! DEFINITION. Native images as the controller reads them (02 R45-R73, 06 R230-R232): the fields of a stripe image and of a procession header,
and every refusal of a stripe image in its order. -/

namespace Sys2Proof.Machine

/-! ### CRC-32 (02 R47) -/

def crcBit (c : Word) : Word := if c.getLsbD 0 then (c >>> 1) ^^^ 0xEDB88320 else c >>> 1

def crcByte (c : Word) (b : Byte) : Word := (List.range 8).foldl (fun c _ => crcBit c) (c ^^^ b.setWidth 32)

/-- The reflected CRC of generator 0x04C1_1DB7 with initial value all ones and a final complement. -/
def crc32 (bs : List Byte) : Word := ~~~(bs.foldl crcByte 0xFFFFFFFF)

/-! ### The stripe image (02 R45-R52, R56) -/

/-- A stripe image: 768 little-endian words. -/
abbrev Image := List Word

/-- `n` words from word `i` as one number. -/
def imgNum (im : Image) (i n : Nat) : Nat := ((im.drop i).take n).foldr (fun w a => w.toNat + 2 ^ 32 * a) 0

/-- A field of the stripe header (02 R46). -/
def imgHead (im : Image) (hi lo : Nat) : Nat := bits (imgNum im 0 16) hi lo

def imgStage (im : Image) : BitVec 16 := .ofNat 16 (imgHead im 495 480)
def imgPresent (im : Image) (n : Nat) : Bool := bit (imgHead im 479 464) n
def imgStateful (im : Image) : BitVec 16 := .ofNat 16 (imgHead im 463 448)
def imgPassuse (im : Image) : Nat := imgHead im 447 432
def imgSpwbase (im : Image) : Nat := imgHead im 431 400
def imgSpwsize (im : Image) : Nat := imgHead im 399 368

/-- The route table (02 R49). -/
def imgRoutes (im : Image) : List (BitVec 12) :=
  let t := imgNum im 16 48
  (List.range 128).map fun n => .ofNat 12 (t / 2 ^ (12 * n))

def isMSlot (slot : Nat) : Bool := decide (10 ≤ slot) && decide (slot < 14)

/-- The first word of an element's record, and the words in it (02 R45). -/
def recAt (slot : Nat) : Nat := if slot < 10 then 64 + 48 * slot else if slot < 14 then 640 + 32 * (slot - 10) else 64 + 48 * (slot - 4)
def recLen (slot : Nat) : Nat := if isMSlot slot then 32 else 48

/-- The element header (02 R52, R56). -/
def imgHdr (im : Image) (slot : Nat) : Hdr := .ofNat 256 (imgNum im (if isMSlot slot then recAt slot else recAt slot + 40) 8)

/-- The four descriptors of an M record as 192-bit numbers. -/
def imgDesc (im : Image) (slot c : Nat) : Nat := imgNum im (recAt slot + 8 + 6 * c) 6

/-- The plane that an element's record configures, with the swap-in state (08 R277, 07 R250). -/
def imgPlane (im : Image) (slot : Nat) : Plane :=
  let p := Plane.empty (lfsrAt (imgStage im).toNat slot)
  let w (i : Nat) : Word := im.getD (recAt slot + i) 0
  if isMSlot slot then { p with hdr := imgHdr im slot, m := { p.m with descs := Vector.ofFn fun c => descOf (imgDesc im slot c.val) } }
  else
    { p with
      iw := Vector.ofFn fun i => w (2 * i.val), tw := Vector.ofFn fun i => w (2 * i.val + 1), k := Vector.ofFn fun i => w (32 + i.val),
      hdr := imgHdr im slot }

/-- A refusal: its status (02 R64), the element slot and the instruction slot. -/
structure ImgFault where
  status : Nat
  elem : Nat
  islot : Nat
  deriving DecidableEq, Repr

/-- 02 R65: the lowest instruction slot, and within it the lowest status. -/
def lowestAt : List (Nat × Nat) → Option (Nat × Nat)
  | [] => none
  | f :: fs =>
    match lowestAt fs with
    | some g => if f.1 < g.1 ∨ (f.1 = g.1 ∧ f.2 ≤ g.2) then some f else some g
    | none => some f

/-! ### The stripe header and the routes (02 R47, R50, R51; 05 R185; 08 R303) -/

/-- Steps 1 to 5 of 02 R47. -/
def imgFirst (im : Image) : Option Nat :=
  let rt := imgRoutes im
  let slots := List.range 16
  if imgHead im 511 496 ≠ 1 then some 0x0101
  else if (crc32 ((im.drop 1).flatMap fun w => natBytes 4 w.toNat)).toNat ≠ imgHead im 31 0 then some 0x0102
  else if slots.any fun n => imgPresent im n != decide ((imgHdr im n).kind ≠ 0) then some 0x010E
  else if slots.any fun n => (imgStateful im).getLsbD n != (imgHdr im n).stateful then some 0x010E
  else if slots.any fun n => bit (imgPassuse im) n != decide (routeKind (rt.getD (112 + n) 0).toNat ≠ 0) then some 0x010C
  else none

/-- The element slot whose channel a route entry below 112 serves. -/
def routeOwner (n : Nat) : Nat := if n < 80 then n / 8 else if n < 96 then n / 8 + 4 else 10 + (n - 96) / 4

/-- Whether a route entry is refused by itself (02 R50, R51; 05 R185). -/
def routeBad (im : Image) (last : Bool) (n : Nat) (r : Nat) : Bool :=
  let pass := decide (112 ≤ n)
  let k := routeKind r
  decide (k ≠ 0) &&
    ((!pass && !imgPresent im (routeOwner n)) || (k == 3 && routeChan r != 0) || (pass && k == 1) || (k == 1 && !imgPresent im (routeSlot r)) ||
      ((k == 1 || k == 2) && isMSlot (routeSlot r) && routeChan r != 0) || (last && (pass || k == 2)))

/-- Whether two entries of a list of route entries lead into one pass register. -/
def passTwice (rs : List Nat) : Bool := (List.range 16).any fun n => decide (2 ≤ (rs.filter fun r => routeKind r == 3 && routeSlot r == n).length)

/-- The statuses of the stripe header's reserved field and of the route table. -/
def headFaults (im : Image) (last ical : Bool) : List Nat :=
  let rt := (imgRoutes im).map BitVec.toNat
  (if imgHead im 367 32 ≠ 0 ∨ rt.any (fun r => bits r 2 0 != 0) then [0x0104] else []) ++
  (if (List.range 128).any (fun n => routeBad im last n (rt.getD n 0)) ∨ passTwice (rt.take 112) ∨ passTwice (rt.drop 112) ∨
      (ical ∧ imgPassuse im ≠ 0) then [0x010C] else [])

/-! ### Instruction slots (02 R53, R57-R68, 08 R281, R287, 09 R313, 12 R384-R404) -/

/-- The SFMT values of an instruction's set (02 R66, R67; 09 R313; 12 R387-R404). -/
def fmtOk (j : Bool) (op f : Nat) : Bool :=
  let i := f == 0 || f == 8
  let w := decide (f ≤ 3) || f == 8
  let fl := (decide (1 ≤ f) && decide (f ≤ 3)) || f == 8
  if j then
    if op = 0x01 ∨ op = 0x03 then decide (f ≤ 8)
    else if op = 0x00 ∨ op = 0x02 ∨ op = 0x05 ∨ op = 0x06 ∨ op = 0x0A then w
    else if 0x18 ≤ op then i
    else f == 8
  else if op ≤ 0x04 ∨ 0x68 ≤ op then decide (f ≤ 8)
  else if op = 0x67 then f == 2
  else if 0x60 ≤ op then decide (4 ≤ f) && decide (f ≤ 8)
  else if op = 0x52 then fl && f != 8
  else if op = 0x51 then decide (4 ≤ f) && decide (f ≤ 7)
  else if op = 0x50 then decide (f ≤ 3)
  else if op = 0x4B then fl
  else if 0x48 ≤ op then w
  else if 0x30 ≤ op then fl
  else if op = 0x2C then i
  else if 0x28 ≤ op then w
  else if 0x1D ≤ op then i
  else if 0x18 ≤ op then w
  else if 0x08 ≤ op then i
  else w

/-- Whether SRND, and whether SSAT, applies (the Mod column of 02 R66; 12 R384). -/
def hasRnd (j : Bool) (op : Nat) : Bool :=
  !j && ((decide (0x30 ≤ op) && decide (op ≤ 0x34)) || (decide (0x40 ≤ op) && decide (op ≤ 0x46)) || op == 0x48 ||
    (decide (0x50 ≤ op) && decide (op ≤ 0x52)) || op == 0x66)
def hasSat (j : Bool) (op : Nat) : Bool :=
  if j then op == 0x1A || op == 0x1B
  else (decide (0x08 ≤ op) && decide (op ≤ 0x0A)) || (decide (0x0C ≤ op) && decide (op ≤ 0x0E)) || op == 0x50 || op == 0x51

/-- IMG_BAD_FORMAT and IMG_BAD_MODIFIER of a valid slot. -/
def modeFaults (j : Bool) (op sfmt srnd : Nat) (ssat : Bool) : List Nat :=
  (if fmtOk j op sfmt then [] else [0x010A]) ++
  (if (srnd ≠ 0 ∧ !hasRnd j op) ∨ (ssat ∧ !hasSat j op) ∨ (!j ∧ ((op = 0x48 ∧ sfmt = 0) ∨ (op = 0x51 ∧ sfmt = 7)) ∧ srnd ≠ 0) then [0x010B] else [])

/-- The channels that a word reads. -/
def wordChans (f : Form) (x : Fields) : List Nat :=
  (if f.a ≠ .none ∧ chanSel x.a then [x.a - 8] else []) ++ if f.b ∧ chanSel x.b then [x.b - 8] else []

/-- 02 R62, 08 R281, 12 R384: IMG_BAD_TRIGGER of one slot. -/
def trigBad (j : Bool) (f : Form) (x : Fields) (t : Trig) (sfmt : Nat) : Bool :=
  let g := t.gate
  (wordChans f x).any (fun c => !t.guards (Fin.ofNat 8 c)) ||
  (t.mode == 0 && (t.cha != 0 || t.chb != 0 || t.depth != 0 || j)) || (t.mode == 1 && t.chb != 0) ||
  (decide (2 ≤ t.mode) && t.cha == t.chb) || ((g == 1 || g == 2) && sfmt == 8) || (decide (2 ≤ g) && decide (t.mode ≤ 1)) ||
  ((g == 1 || g == 2) && !j && decide (0x50 ≤ x.opc) && decide (x.opc ≤ 0x52)) ||
  (t.depth != 0 && (x.q == 1 || (!j && x.opc == 0x52)))

/-- 08 R281: two slots that put one channel to uses that exclude each other. -/
def pairClash (t u : Trig) : Bool :=
  let pair (a : Trig) : Bool := a.valid && decide (2 ≤ a.mode)
  let one (a b : Trig) : Bool := pair a && b.valid && b.mode == 1 && (b.cha == a.cha || b.cha == a.chb)
  (pair t && pair u && decide ((t.cha, t.chb, t.mode) ≠ (u.cha, u.chb, u.mode)) &&
    (t.cha == u.cha || t.cha == u.chb || t.chb == u.cha || t.chb == u.chb)) || one t u || one u t

/-- The store forms (12 R386). -/
def isStoreOp (op : Nat) : Bool := op == 0x01 || op == 0x03 || op == 0x04 || op == 0x06 || op == 0x0D

/-- 12 R387-R404, 09 R313: the values of DSTA and DSTB beyond the page's columns. -/
def destBad (j : Bool) (x : Fields) (stmask : Nat) : Bool :=
  let op := x.opc
  let pred (n : Nat) : Bool := decide (16 ≤ n) && decide (n ≤ 23)
  let same := x.d == x.e && x.d != 24
  if j then
    if isStoreOp op then !(x.d == 24 || (chanSel x.d && bit stmask (x.d - 8)))
    else if op = 0x20 then !(x.d == 24 || chanSel x.d)
    else if op = 0x1E ∨ op = 0x1F then false
    else pred x.d || (op == 0x19 && (pred x.e || same))
  else if op = 0x70 then !(x.d == 24 || chanSel x.d)
  else (op == 0x01 || op == 0x02) && same

/-- 02 R68, 03 R108: the descriptor words of a memory, wait or fence form. -/
def pairFaults (op : Nat) (w0 w1 : Word) : List Nat :=
  let a := bits w0.toNat 12 10
  let b := bits w0.toNat 9 7
  (if bits w0.toNat 6 0 ≠ 0 ∨ bits w1.toNat 7 0 ≠ 0 then [0x0104] else []) ++
  (if 6 ≤ bits w0.toNat 15 13 ∨ a = 7 ∨ b = 7 ∨ (op = 0x09 ∧ a = b) ∨ (op ≠ 0x09 ∧ (a ≠ 0 ∨ b ≠ 0)) ∨ ((op = 0x08 ∨ op = 0x09) ∧ dRidx w0 ≠ 0) ∨
      wSeq w1 = 0 ∨ wSeq w1 = 255 then [0x0107] else [])

/-- The message literal block at base `b` (02 R69-R73, 11 R355, 12 R401). With TIND, a nonzero TCLASS or TINST 7:3 is IMG_BAD_MESSAGE (log 61). -/
def msgFaults (op : Nat) (present : Nat → Bool) (k : Nat → Nat) (b : Nat) : List Nat :=
  let h := k b
  let mop := bits h 31 24
  let cls := bits h 23 20
  let inst := bits h 19 12
  let rep := k (b + 1)
  let tind := bit h 1
  let marker (n : Nat) : Bool := bits (k (b + 2 + n)) 31 29 == 7
  let target :=
    if tind then decide (cls ≠ 0) || decide (bits inst 7 3 ≠ 0)
    else (decodeMsg cls mop ⟨0, 0, 0, 0⟩).isNone || (!sendable cls mop && op != 0x0C) ||
      (if cls = 2 then decide (bits inst 7 2 ≠ 0) || !present (10 + inst % 4) else decide (bits inst 7 4 ≠ 0))
  let bad :=
    target || decide (bits h 11 6 ≠ 0) || (List.range 4).any (fun n => marker n != bit h (2 + n) || (marker n && bits (k (b + 2 + n)) 28 3 != 0)) ||
    bits rep 30 29 == 3 || (if op = 0x15 then decide (rep ≠ 0) else !bit rep 31) ||
    (op == 0x0C && (cls != 6 || mop != 1 || tind || inst != 0)) || (op != 0x0C && !tind && cls == 6 && mop == 1)
  (if bit h 0 ∨ bits rep 21 0 ≠ 0 then [0x0104] else []) ++ if bad then [0x010D] else []

/-- The statuses of a slot, by the words of its plane; `routed` says that an out channel has a route. -/
def slotFaults (j : Bool) (present : Nat → Bool) (routed : Nat → Bool) (p : Plane) (i : Fin 16) : List Nat :=
  let w := p.iw[i]
  let x := fieldsOf w
  let t := p.trig i
  let sfmt := Hdr.sfmt p.hdr i.val
  let srnd := Hdr.srnd p.hdr i.val
  let always := (if 9 ≤ sfmt then [0x010A] else []) ++ if 5 ≤ srnd then [0x010B] else []
  if !t.valid then always ++ if w ≠ 0 ∨ p.tw[i] ≠ 0 then [0x0104] else []
  else
    let pv := if (List.range 8).any fun k => bit t.pval k && !bit t.pmask k then [0x0104] else []
    match if j then jRow x else vRow x with
    | none => always ++ pv ++ [0x0105]
    | some (f, _) =>
      let outs := p.wordOuts j w
      always ++ pv ++
      (if f.selectOk x then [] else [0x0106]) ++
      (if !f.operandOk x ∨ destBad j x (Hdr.stmask p.hdr) ∨
          (x.q = 1 ∧ (List.range 8).any fun c => t.guards (Fin.ofNat 8 c) && !(wordChans f x).contains c) ∨
          (j ∧ x.opc ≠ 0x12 ∧ !isStoreOp x.opc ∧ outs.any fun c => bit (Hdr.stmask p.hdr) c.val) ∨
          (!j ∧ 4 ≤ sfmt ∧ sfmt ≤ 7 ∧ f.a ≠ .none ∧ 16 ≤ x.a ∧ x.a ≤ 28) ∨ (!j ∧ x.opc = 0x51 ∧ bits (p.lit 7).toNat 13 12 = 3)
        then [0x0107] else []) ++
      (if 14 ≤ x.t then [0x0108] else []) ++
      (if trigBad j f x t sfmt then [0x0109] else []) ++
      modeFaults j x.opc sfmt srnd (Hdr.ssat p.hdr i.val) ++
      (if x.opc ≠ 0x12 ∨ !j then (if outs.any fun c => !routed c.val then [0x010C] else []) else []) ++
      (match f.e with
       | .desc => if x.e ≤ 3 then pairFaults x.opc (p.lit (2 * x.e)) (p.lit (2 * x.e + 1)) else []
       | .msg => if x.e ≤ 2 then msgFaults x.opc present (fun n => (p.lit n).toNat) x.e else []
       | _ => [])

/-- The breaches between two slots of an element, each a fault of both (02 R65): 08 R281, 12 R386, R403. -/
def pairsOf (j : Bool) (routed : Nat → Bool) (p : Plane) (i k : Fin 16) : List Nat :=
  let t := p.trig i
  let u := p.trig k
  let x := fieldsOf p.iw[i]
  let y := fieldsOf p.iw[k]
  let arb (a b : Fields) (b' : Trig) : List Nat :=
    if j ∧ a.opc = 0x12 ∧ b.opc = 0x10 then
      (if !routed ((a.d + b'.cha.val) % 8) then [0x010C] else []) ++ if bit (Hdr.stmask p.hdr) ((a.d + b'.cha.val) % 8) then [0x0107] else []
    else []
  if i = k ∨ !t.valid ∨ !u.valid then []
  else
    (if pairClash t u then [0x0109] else []) ++ arb x y u ++ arb y x t

/-! ### Element records (02 R52-R56, 11 R355) -/

/-- The statuses of a V or J record that no slot brings: header, acceptance and steering (02 R54, R55). -/
def recFaults (im : Image) (slot : Nat) (h : Hdr) : List Nat :=
  (if Hdr.fld h 17 0 ≠ 0 then [0x0104] else []) ++
  (if (!h.steerv ∧ (List.range 8).any fun c => h.acceptByte c != 255) ∨
      (h.steerv ∧ (h.steer = slot ∨ 10 ≤ h.steer ∨ !imgPresent im h.steer)) ∨ (slot < 10 ∧ h.stmask ≠ 0) then [0x010E] else [])

/-- The statuses of an M record. -/
def mFaults (im : Image) (ical : Bool) (slot : Nat) (h : Hdr) : List Nat :=
  let ds : Vector Desc 4 := Vector.ofFn fun c => descOf (imgDesc im slot c.val)
  let raw := (List.range 4).map fun c => imgDesc im slot c
  let rt := imgRoutes im
  (if Hdr.fld h 17 0 ≠ 0 then [0x0104] else []) ++
  (if (List.range 4).any fun c => ds.toList.any fun d =>
      d.valid && decide (c < if d.drfmt then 2 else 4) && routeKind (rt.getD (routeIndex slot c) 0).toNat == 0 then [0x010C] else []) ++
  (if Hdr.fld h 238 154 ≠ 0 ∨ Hdr.fld h 145 18 ≠ 0 ∨ h.acceptByte 0 ≠ 255 ∨ raw.any (fun x => if bit x 191 then bits x 104 0 != 0 else x != 0) ∨ !descsOk ical ds then [0x010E] else [])

/-- The faults of an element's record as (instruction slot, status). A record of a KIND above 3 is read by its slot, so that a lower status at its
slot 0 is the one reported (02 R54, R65). An empty record that is not zero throughout (02 R52) is refused at instruction slot 0 with IMG_RESERVED_NONZERO (log 61). -/
def elemFaults (im : Image) (ical : Bool) (slot : Nat) : List (Nat × Nat) :=
  let h := imgHdr im slot
  let kind := h.kind
  if kind = 0 then (if imgNum im (recAt slot) (recLen slot) ≠ 0 then [(0, 0x0104)] else [])
  else if kind ≤ 3 ∧ kind ≠ (if isMSlot slot then 2 else if slot < 10 then 1 else 3) then [(0, 0x0103)]
  else if isMSlot slot then (mFaults im ical slot h ++ if 4 ≤ kind then [0x010E] else []).map fun f => (0, f)
  else
    let p := imgPlane im slot
    let j := decide (14 ≤ slot)
    let rt := imgRoutes im
    let routed (c : Nat) : Bool := routeKind (rt.getD (routeIndex slot c) 0).toNat != 0
    ((recFaults im slot h ++ if 4 ≤ kind then [0x010E] else []).map fun f => (0, f)) ++
      (List.range 16).flatMap fun i =>
        ((slotFaults j (imgPresent im) routed p (Fin.ofNat 16 i) ++
          (List.range 16).flatMap fun k => pairsOf j routed p (Fin.ofNat 16 i) (Fin.ofNat 16 k)).map fun f => (i, f))

/-- The wave word of every memory, wait or fence form of an image, with its element and slot. -/
def imgWaves (im : Image) : List (Nat × Nat × Word) :=
  [14, 15].flatMap fun slot =>
    let p := imgPlane im slot
    if (imgHdr im slot).kind ≠ 3 then []
    else
      (List.range 16).filterMap fun i =>
        let x := fieldsOf (p.iw[i % 16]'(Nat.mod_lt _ (by decide)))
        match (p.trig (Fin.ofNat 16 i)).valid, jRow x with
        | true, some (f, _) => if f.e = .desc ∧ x.e ≤ 3 then some (slot, i, p.lit (2 * x.e + 1)) else none
        | _, _ => none

/-- 03 R108 within one image: two operations of equal WSEQ. -/
def seqFaults (im : Image) (slot : Nat) : List (Nat × Nat) :=
  let all := imgWaves im
  (all.filter fun o => o.1 == slot && decide (2 ≤ (all.filter fun q => wSeq q.2.2 == wSeq o.2.2).length)).map fun o => (o.2.1, 0x0107)

/-- The first refusal of a stripe image by 02 R47 to R73 in the order of R65, with the stage checks of 05 R185 and 08 R303. One of the stripe header
or the route table names element slot 0 and instruction slot 0 (log 58). `head` and `more` are what the neighbouring images bring: statuses of the
route table, and faults of each element. -/
def imgCheckWith (im : Image) (last ical : Bool) (head : List Nat) (more : Nat → List (Nat × Nat)) : Option ImgFault :=
  match imgFirst im with
  | some f => some ⟨f, 0, 0⟩
  | none =>
    match lowestAt ((headFaults im last ical ++ head).map fun f => (0, f)) with
    | some f => some ⟨f.2, 0, 0⟩
    | none =>
      (List.range 16).findSome? fun slot =>
        (lowestAt (elemFaults im ical slot ++ seqFaults im slot ++ more slot)).map fun f => ⟨f.2, slot, f.1⟩

/-- The refusal of a stripe image by itself. -/
def imgCheck (im : Image) (last ical : Bool) : Option ImgFault := imgCheckWith im last ical [] fun _ => []

/-- What a stage's image says about its neighbours. -/
def stageNote (im : Image) : StageNote :=
  let rt := (imgRoutes im).map BitVec.toNat
  { feeds := ((rt.filter fun r => routeKind r == 2).map fun r => 8 * routeSlot r + routeChan r) ++
      ((rt.drop 112).filter fun r => routeKind r == 3).map fun r => 128 + routeSlot r,
    stateful := decide (imgStateful im ≠ 0), present := .ofNat 16 (imgHead im 479 464),
    ownPass := ((rt.take 112).filter fun r => routeKind r == 3).map routeSlot, waves := (imgWaves im).map fun o => o.2.2 }

/-- Routes of a stage into the next one that the loader refuses: into an empty slot, into an M-element beside in0 (refused within the image),
or into a pass register that an element of the next stage feeds too (02 R51). -/
def StageNote.clash (a b : StageNote) : Bool :=
  a.feeds.any fun n => if n < 128 then !b.present.getLsbD (n / 8) else b.ownPass.contains (n - 128)

/-- The sequence numbers that a wave word names beside its own. -/
def waveNames (w : Word) : List Nat := [wPred w, wSucc w].filter fun n => n != 0 && n != 255

/-! ### The procession header (06 R230, R231) -/

/-- The fields of a procession header, with whether the rules of 06 R231 other than its place, its generation and PAGES hold. -/
structure ProcHead where
  good : Bool
  stages : Nat
  pages : Nat
  window : Nat
  dwell : Nat
  det : Bool
  quantum : Nat
  nstate : Nat
  nativegen : BitVec 16
  deriving DecidableEq, Repr

def procHead (bs : List Byte) : ProcHead :=
  let x := bytesNat bs
  { good := decide (bits x 511 480 = 0x50524F43) && decide (bits x 479 464 = 1) && decide ((crc32 (bs.drop 4)).toNat = bits x 31 0) &&
      decide (15 ≤ bits x 431 420) && (bit x 419 || decide (bits x 418 407 = 0)) && decide (bits x 309 32 = 0),
    stages := bits x 463 448 + 1, pages := bits x 447 444, window := bits x 443 432 + 1, dwell := bits x 431 420 + 1, det := bit x 419,
    quantum := bits x 418 407 + 1, nstate := bits x 406 390, nativegen := .ofNat 16 (bits x 389 374) }

/-- The words of a stage image from its bytes. -/
def imageWords (bs : List Byte) : Image := bytesWords 768 bs

/-- Placement rewrites the absolute fields (02 R48): SPWBASE by the region's scratchpad offset, TILEBASE of each valid descriptor by the
weight window's. CRC is recomputed. -/
def placeImage (spad tile : Nat) (im : Image) : Image :=
  let put (i : Nat) (w : Word) (im : Image) : Image := im.set i w
  let setBits (x hi lo v : Nat) : Nat := x - bits x hi lo * 2 ^ lo + v % 2 ^ (hi + 1 - lo) * 2 ^ lo
  let h := setBits (imgNum im 0 16) 431 400 ((imgSpwbase im + spad) % (8 * Config.pageUnits))
  let im := (List.range 16).foldl (fun im i => put i (.ofNat 32 (h / 2 ^ (32 * i))) im) im
  let im := [10, 11, 12, 13].foldl (fun im slot =>
    (List.range 4).foldl (fun im c =>
      let x := imgDesc im slot c
      let y := if bit x 191 then setBits x 160 129 (bits x 160 129 + tile) else x
      (List.range 6).foldl (fun im i => put (recAt slot + 8 + 6 * c + i) (.ofNat 32 (y / 2 ^ (32 * i))) im) im) im) im
  put 0 (crc32 ((im.drop 1).flatMap fun w => natBytes 4 w.toNat)) im

/-- The configuration and the planes of a placed image. -/
def imgCfg (im : Image) (launch : Nat) (ctx : BitVec 6) (pasid : BitVec 20) : Cfg :=
  { launch := launch, stage := imgStage im, ctx := ctx, pasid := pasid, present := .ofNat 16 (imgHead im 479 464), stateful := imgStateful im,
    spwbase := .ofNat 32 (imgSpwbase im), spwsize := .ofNat 32 (imgSpwsize im), relgen := 0, page := 0, wsbase := 0, routes := imgRoutes im }

end Sys2Proof.Machine
end

