-- ==== Sys2Proof/Machine/Accept.lean ====
section
/-! DEFINITION. The dependence table (05 R198-R204): accepting a launch, its states up to READY, its end, and its cancel; reads on path C
(03 R93, R96, R101). -/

namespace Sys2Proof.Machine

/-! ### Reads through a resource entry -/

/-- What a read through a SPACE 0 entry comes to: its bytes; a miss, with its walk taken; an address that is not canonical; no key. -/
inductive CRead where
  | bytes (bs : List Byte)
  | wait (s : State)
  | addr (va : Nat)
  | noKey

/-- Read `n` bytes at an offset of a SPACE 0 entry, for a unit that no element stands for. HBM needs the key of the entry's slot, which is not
slot 0 (03 R101). An uncorrectable granule ends the job (01 R44; log 61). -/
def State.cRead (s : State) (d : Fin 4) (pasid : BitVec 20) (r : Res) (off n : Nat) (ring : Option (Fin 4)) (q : Option (BitVec 20 × BitVec 16))
    (site : FRec) : CRead :=
  let va := vaOf r.base off
  match badVa va n with
  | some bad => .addr bad
  | none =>
    match s.missVa d pasid va n false with
    | some m => .wait (s.walkFor d pasid m false ring none q site none)
    | none =>
      match (if r.keyidx = 0 then none else s.keyOf r.keyidx) with
      | some k =>
        match s.vaBad d pasid va n false with
        | some a => .wait (s.takeFault d ring q 0 ⟨0x47, 3, 1, a⟩ site)
        | none => .bytes (s.vaRead d pasid k va n)
      | none => if s.vaIn d pasid va n false true then .noKey else .bytes (s.vaRead d pasid s.devKey va n)

/-! ### Operations of a parent (03 R125) -/

def MemOp.isId (n : Nat) (o : MemOp) : Bool := o.id == n

/-- Whether an operation that has linked is still to be performed. -/
def State.opPending (s : State) (n : Nat) : Bool :=
  (allRings.any fun r => (s.ring r).linked.any (MemOp.isId n)) ||
  (s.elems.any fun e => e.2.isb.any fun | .held o => o.id == n | .parked _ _ _ _ _ => false) ||
  s.dies.toList.any fun d => d.evicted.any fun v =>
    v.linked.any (MemOp.isId n) || v.recs.any fun r => r.elems.any fun e => e.2.isb.any fun | .held o => o.id == n | .parked _ _ _ _ _ => false

/-! ### States of the dependence table (05 R198) -/

def Die.phase (d : Die) (pasid : BitVec 20) : Phase := tabGet ⟨0, []⟩ pasid.toNat d.phases

/-- A predecessor counts as met (04 R145, 05 R198): it has completed, or it has been triggered and EARLY is set. -/
def Die.depMet (d : Die) (p : Dep) : Bool :=
  let x := tabGet Launch.zero p.entry d.launches
  x.serial != p.serial || decide (x.state = .free) || decide (x.state = .done) || (p.early && x.triggered)

/-- WAIT to HELD or READY, and HELD to READY. -/
def State.promoteOne (s : State) (d : Fin 4) (e : Nat) : State :=
  let x := (s.die d)
  s.onLaunch (launchKey d e) fun l =>
    let late := decide ((x.phase l.pasid).num < l.phase)
    if l.cancelled || l.faulted then l
    else if l.state = .wait ∧ l.deps.all x.depMet ∧ l.parentOps.all (fun n => !s.opPending n) then
      { l with state := if late then .held else .ready, deps := [], parentOps := [] }
    else if l.state = .held ∧ !late then { l with state := .ready }
    else l

def State.promote (s : State) (d : Fin 4) : State := ((s.die d).launches.map Prod.fst).foldl (fun s e => s.promoteOne d e) s

/-! ### Acceptance (05 R199, R203; 06 R231, R233; 15 R467) -/

/-- A launch as it is presented. -/
structure Present where
  pasid : BitVec 20
  qid : BitVec 20
  pseq : BitVec 16
  device : Bool
  parent : Option Nat
  graph : Word
  phase : Nat
  prio : BitVec 8
  rscope : BitVec 3
  deps : List Dep
  parentOps : List Nat
  iridx : BitVec 16
  ioff : BitVec 48
  aridx : BitVec 16
  aoff : BitVec 48
  /-- a predecessor was cancelled or refused: the launch is cancelled at once -/
  void : Bool
  deriving DecidableEq, Repr

/-- What presenting a launch comes to. -/
inductive Accepted where
  | wait (s : State)
  | fault (s : State)
  | refused (status : Nat)
  | taken (s : State) (l : Nat)

/-- The image entry serves path C. -/
def imageRes (r : Option Res) : Option Res := r.filter fun x => x.usable && x.space == 0 && x.canFetch

/-- The argument-block entry holds the 64 bytes and grants read. -/
def argsRes (r : Option Res) (off : Nat) : Option Res := r.filter fun x => x.usable && x.space == 0 && x.canRead && decide (off + 64 ≤ x.extent)

/-- The status of a header, its argument block and its PRIO, or none (05 R199, 06 R231, 15 R467). -/
def State.headStatus (s : State) (d : Fin 4) (p : Present) (img : Res) (h : ProcHead) (chain : Nat) : Option Nat :=
  let x := s.die d
  if !h.good ∨ img.extent < p.ioff.toNat + 64 + 3072 * h.stages ∨ h.nativegen < x.devMingen ∨ x.devMaxgen < h.nativegen then some 0x0301
  else if h.pages = 0 ∨ 8 < h.pages then some 0x0302
  else if bits chain 31 4 ≠ 0 ∨ (p.prio = 255 ∧ bits chain 3 0 ≠ 0) then some 0x0306
  else if 4 < d.val + bits chain 3 0 + 1 then some 0x0302
  else if p.prio = 255 ∧ !(dieRings d).any (fun r => (s.ring r).icalValid && (s.ring r).icalPasid == p.pasid) then some 0x0309
  else none

/-- The entry of an accepted launch. -/
def Present.entry (p : Present) (h : ProcHead) (args : Lanes) (serial order nseg : Nat) : Launch :=
  { Launch.zero with
    state := .wait, serial := serial, pasid := p.pasid, qid := p.qid, pseq := p.pseq, device := p.device, parent := p.parent, graph := p.graph,
    phase := p.phase, prio := p.prio, rscope := p.rscope, deps := p.deps, parentOps := p.parentOps, iridx := p.iridx, ioff := p.ioff, args := args,
    pages := h.pages, stages := h.stages, window := h.window, dwell := h.dwell, det := h.det, quantum := h.quantum, nstate := h.nstate,
    nativegen := h.nativegen, nseg := nseg, ical := decide (p.prio = 255), cancelled := p.void, status := if p.void then 1 else 0, order := order }

/-- The lowest FREE entry takes the launch (05 R198). -/
def State.enter (s : State) (d : Fin 4) (p : Present) (h : ProcHead) (args : Lanes) (nseg : Nat) : Accepted :=
  let x := s.die d
  match lowest (fun e => (tabGet Launch.zero e x.launches).state = .free) 4096 with
  | none => .wait s
  | some e =>
    let serial := match tabFind e x.launches with | none => 0 | some l => (l.serial + 1) % 1024
    let g := (p.pasid.toNat, p.graph.toNat)
    let s := s.onDie d fun x =>
      { x with
        launches := tabPut e (p.entry h args serial x.order nseg) x.launches, order := x.order + 1,
        graphs := if x.graphs.contains g then x.graphs else x.graphs ++ [g] }
    .taken (s.promote d) (launchKey d e)

/-- Present a launch to the dispatcher of a die. An image header or argument block that needs a key that is absent is refused as one that cannot be used
(log 61). -/
def State.present (s : State) (d : Fin 4) (p : Present) : Accepted :=
  let q := some (p.qid, p.pseq)
  let site := { FRec.zero with plane := 3, die := .ofNat 2 d.val, pasid := p.pasid }
  let bad (va : Nat) : Accepted := .fault (s.takeFault d none q 0 (fltAddr va) site)
  match imageRes (s.resource p.pasid none p.iridx.toNat) with
  | none => .refused 0x0301
  | some img =>
    match argsRes (s.resource p.pasid none p.aridx.toNat) p.aoff.toNat with
    | none => .refused 0x030C
    | some arg =>
      if img.extent < p.ioff.toNat + 64 then .refused 0x0301
      else
        match s.cRead d p.pasid img p.ioff.toNat 64 none q site with
        | .wait s => .wait s
        | .addr va => bad va
        | .noKey => .refused 0x0301
        | .bytes hb =>
          match s.cRead d p.pasid arg p.aoff.toNat 64 none q site with
          | .wait s => .wait s
          | .addr va => bad va
          | .noKey => .refused 0x030C
          | .bytes ab =>
            let h := procHead hb
            let args : Lanes := Vector.ofFn fun i => (bytesWords 16 ab).getD i.val 0
            match s.headStatus d p img h args[14].toNat with
            | some st => .refused st
            | none => s.enter d p h args (bits args[14].toNat 3 0 + 1)

/-! ### The end of a launch (05 R198, R204; 07 R258) -/

/-- The harts on which the manual's firmware runs: between packets, each takes the RESTART event at once (04 R171). -/
def Die.unowned (x : Die) : List Nat := (List.range 64).filter fun k => !(x.harts[k % 64]'(Nat.mod_lt _ (by decide))).own

/-- The hart that holds a queue and on which the manual's firmware runs (04 R169; log 26). -/
def State.server (s : State) (q : BitVec 20) : Option (Fin 64) :=
  let h := (s.die (homeDie q)).harts
  (List.finRange 64).find? fun k => h[k].mapped && h[k].qid == q && !h[k].own

/-- A queue whose packets the firmware takes: one that it keeps and has mapped. -/
def State.served (s : State) (q : BitVec 20) : Bool := (s.queue q).isSome && (s.server q).isSome

/-- The firmware of a queue's home die serves it and runs. -/
def State.serving (s : State) (q : BitVec 20) : Bool := s.served q && (s.die (homeDie q)).feFwup && !(s.die (homeDie q)).gated

/-- ATTN of a queue that is not mapped (04 R161). -/
def State.raise (s : State) (q : BitVec 20) : State :=
  if (s.latch q).mapped then s
  else (s.onLatch q fun e => { e with attn := true }).onDie (homeDie q) fun d =>
    { d with attn := if d.attn.contains (localIx q) then d.attn else d.attn ++ [localIx q] }

/-- The report of a launch goes to its packet, when the firmware serves the queue; any other is kept for an FWAIT, and the entry with it (04 R161,
R172). A device-side launch reports to no packet (05 R203). -/
def State.report (s : State) (l status : Nat) : State :=
  let x := s.launch l
  if x.device then s
  else if s.serving x.qid then
    State.finish (s.onLaunch l fun y => { y with state := .free, reported := true }) x.qid x.pseq status (launchNumber l x) false
  else
    ((s.onLaunch l fun y => { y with reported := true }).onDie (homeDie x.qid) fun d =>
      { d with reports := d.reports ++ [⟨x.qid, .ofNat 24 (launchNumber l x), .ofNat 16 status, x.pseq⟩] }).raise x.qid

/-- A DONE entry of a device-side launch is FREE once no launch names it as its parent. -/
def State.freeOnce (s : State) (d : Fin 4) : State :=
  let x := s.die d
  s.onDie d fun y =>
    { y with
      launches := tabMap (fun e l =>
        if l.device ∧ l.state = .done ∧ !x.launches.any (fun p => decide (p.2.state ≠ .free) && p.2.parent == some (launchKey d e)) then
          { l with state := .free } else l) y.launches }

/-- Entries that are named no longer become FREE, and then those that only they named. -/
def State.freeNamed (s : State) (d : Fin 4) : State := (s.die d).launches.foldl (fun s _ => s.freeOnce d) s

/-- What a launch's end does to one that names it as a predecessor: met, or cancelled in its turn (04 R145). -/
def Launch.afterDep (entry serial : Nat) (ok : Bool) (x : Launch) : Launch :=
  if x.deps.any fun p => p.entry == entry && p.serial == serial then
    if ok then { x with deps := x.deps.filter fun p => !(p.entry == entry && p.serial == serial) }
    else if x.state = .wait then { x with cancelled := true, status := 1 } else x
  else x

/-- The end of a launch unbinds its ports, FIFOs and stride tables on a ring, and ends its sparse-update mode (13 R418, R429, R436; 14 R456). -/
def Ring.unbind (l : Nat) (x : Ring) : Ring :=
  { x with
    ports := x.ports.filter fun p => p.2.launch != l, strides := x.strides.filter fun p => p.2.1 != l,
    fifos := x.fifos.filter fun f => f.2.launch != l, ordered := x.ordered.filter fun k => k != l }

/-- The launch that a slot of a flit belongs to. -/
def Slot.launch : Slot → Nat
  | .token l _ _ _ _ => l
  | .alloc l _ _ _ => l
  | .retire l _ _ => l
  | .kill l _ _ => l
  | .baseReport l _ _ _ => l
  | .swapReport l _ _ => l
  | .count l _ _ => l

/-- The end of a launch clears its buffers, its counts and its slots from a link (15 R464). -/
def Link.purge (l : Nat) (k : Link) : Link :=
  let f (x : Flit) : Flit := { x with slots := x.slots.filter fun y => y.launch != l }
  { k with
    rx := k.rx.filter fun p => p.1 / 4 != l, free := k.free.filter fun p => p.1 / 4 != l, queue := k.queue.filter fun y => y.launch != l,
    retry := k.retry.map f, wire := k.wire.map f }

def Die.purge (l : Nat) (x : Die) : Die := { x with links := x.links.map (Link.purge l) }

/-- A launch ends with a status: its entries of the scale file are released, its dependents go on, and it is reported. -/
def State.doneLaunch (s : State) (l status : Nat) : State :=
  let x := s.launch l
  let d : Fin 4 := Fin.ofNat 4 (l / 4096)
  let s := x.segs.foldl (fun s g => s.onRing ⟨g.die, g.ring⟩ fun r =>
    Ring.unbind l { r with scl := r.scl.releaseAll fun e => e.ctx == g.ctx && e.olaunch == BitVec.ofNat 12 l }) s
  let s := if 1 < x.segs.length then { s with dies := s.dies.map (Die.purge l) } else s
  let s := s.onLaunch l fun y => { y with state := .done, status := .ofNat 16 status, segs := [], owed := 0 }
  let s := s.onDie d fun y => { y with launches := tabMap (fun _ z => z.afterDep (l % 4096) x.serial (status == 0)) y.launches }
  let s := if status = 0 ∨ x.device then s
    else s.onQueue x.qid fun q => { q with past := q.past.map fun p => if p.1 = x.pseq.toNat then (p.1, true) else p }
  ((s.report l status).freeNamed d).promote d

/-! ### The cancel (01 R33, R34; 03 R128; 05 R204; 12 R405; 13 R436) -/

/-- What a launch has issued on a ring and a cancel withdraws: operations that have not linked, those that wait for a version or a translation, held
writes, parked stores, watches, ports, FIFOs and stride tables. -/
def State.withdraw (s : State) (l : Nat) (g : Seg) : State :=
  let r : RingAt := ⟨g.die, g.ring⟩
  let s := s.dropOps r (fun o => o.launch == l) s.opWaits
  let ws := (s.ring r).watches.filter fun w => w.op.launch == l
  let s := ws.foldl (fun s w => s.dropWatch r w) s
  let ical := (s.launch l).ical
  let es := (s.launchElems l).filter fun e => ((s.stripe e.at_).conf ical).launch == l
  let s := s.onElems es fun _ e =>
    { e with isb := e.isb.filter fun | .held o => o.launch != l | .parked i _ _ _ _ => i != ical }
  s.onRing r fun x => Ring.unbind l x

/-- The PEVICTs of a launch that are pending are answered: CANCELLED or FAULTED, or PROC_STATE when it completes first (05 R215; log 61). -/
def State.answerEvicts (s : State) (l status : Nat) : State :=
  let n := launchNumber l (s.launch l)
  allRings.foldl (fun s r =>
    let mine : EqReq → Bool | .pevict m _ => bits m.p.p0.toNat 23 0 == n | _ => false
    let ms := (s.ring r).regions.flatMap fun g => g.reqs.filter mine
    let s := s.onRing r fun x => { x with regions := x.regions.map fun g => { g with reqs := g.reqs.filter fun q => !mine q } }
    ms.foldl (fun s q => match q with | .pevict m _ => if status = 0x0308 then s.refuse m status else s.overtake m status | _ => s) s) s

/-- An evicted region without a launch: none when no other is bound to it. -/
def Evicted.without (l : Nat) (v : Evicted) : Option Evicted :=
  let empty (r : SaveRec) : SaveRec := if r.launch = l then { r with cfg := none, elems := [], pass := Vector.replicate 16 [], scales := [], eosSeen := [] } else r
  match v.bound.filter fun b => b.1 != l with
  | [] => none
  | b :: bs =>
    some
      { v with
        launch := if v.launch = l then b.1 else v.launch, bound := b :: bs, recs := v.recs.map empty, ports := v.ports.filter fun p => p.launch != l, fifos := v.fifos.filter fun f => f.2.launch != l,
        strides := v.strides.filter fun t => t.2.1 != l, chains := v.chains.filter fun c => c.launch != l, arriving := v.arriving.filter fun o => o.launch != l,
        linked := v.linked.filter fun o => o.launch != l, watches := v.watches.filter fun w => w.op.launch != l, ordered := v.ordered.filter fun k => k != l,
        region := { v.region with
          launches := v.region.launches.filter fun k => k != l, plan := v.region.plan.map fun w => if w.1 = some l then (none, 0) else w } }

/-- Drop a launch's save records, and what it has in evicted regions. -/
def Die.forget (l : Nat) (y : Die) : Die :=
  { y with
    saves := y.saves.filter fun r => r.launch != l
    evicted := y.evicted.filterMap (Evicted.without l) }

/-- Take the cancel of a launch that has not completed. A PRESTORE whose launch has not run since, and a PEQWAIT whose evicted region goes with it, are
answered CANCELLED, or FAULTED (log 61). -/
def State.cancelLaunch (s : State) (l : Nat) : State :=
  let x := s.launch l
  let d : Fin 4 := Fin.ofNat 4 (l / 4096)
  if x.state = .free ∨ x.state = .done ∨ x.cancelled then s
  else
    let s := s.onLaunch l fun y => { y with cancelled := true, status := if y.faulted then y.status else 1 }
    let s := x.alloc0.values.foldl (fun s v => s.killIter l d v) s
    let s := x.segs.foldl (fun s g => s.withdraw l g) s
    let waits := (s.dies.toList.flatMap Die.evicted).filter fun v => (v.without l).isNone
    let s := { s with dies := s.dies.map (Die.forget l) }
    let s := x.restoring.foldl (fun s m => s.overtake m (if x.faulted then 3 else 1)) (s.onLaunch l fun y => { y with restoring := [], saveAt := [] })
    let s := waits.foldl (fun s v => v.region.reqs.foldl (fun s q => match q with | .peqwait m => s.overtake m 1 | _ => s) s) s
    s.answerEvicts l (if x.faulted then 3 else 1)

end Sys2Proof.Machine
end

