-- ==== Sys2Proof/Machine/Stream.lean ====
section
/-! DEFINITION. The stream engine (13 R412-R440, R488): its messages, transfers, FIFOs, stride tables, ingress lists and ports. -/

namespace Sys2Proof.Machine

/-! ### The sender of a message -/

def Msg.el (m : Msg) : ElemAt := match m.sender with | .elem k _ _ _ _ _ => ElemAt.ofKey k | .relay _ _ => ElemAt.ofKey 0
def Msg.plane (m : Msg) : Bool := match m.sender with | .elem _ i _ _ _ _ => i | .relay _ _ => false
def Msg.launch (m : Msg) : Nat := match m.sender with | .elem _ _ _ l _ _ => l | .relay _ _ => 0
def Msg.islot (m : Msg) : Fin 16 := match m.sender with | .elem _ _ i _ _ _ => i | .relay _ _ => 0
def Msg.iter (m : Msg) : BitVec 12 := match m.sender with | .elem _ _ _ _ _ v => v | .relay _ _ => 0
def Msg.ring (m : Msg) : RingAt := m.el.at_.ring

/-- Two messages of one sending element. -/
def Msg.sameSender (a b : Msg) : Bool := a.el == b.el && a.plane == b.plane

/-- The record place of a message: its firing (13 R439, 14 R458). -/
def State.msgSite (s : State) (m : Msg) : FRec := (s.place m.el m.plane (some m.islot)).tags m.pasid m.ctx (some m.iter)

/-- The first condition that holds gives the status. -/
def firstOf (cs : List (Bool × Nat)) : Option Nat := (cs.find? Prod.fst).map Prod.snd

/-- The scratchpad share of the sender's region: its first byte and its size (05 R178, R209). -/
def State.shareOf (s : State) (m : Msg) : Nat × Nat :=
  if m.plane then (0, 0)
  else
    match (s.ring m.ring).regionOf m.el.at_.stripe.val with
    | some g => (64 * Config.pageUnits * g.page.val, 64 * Config.pageUnits * g.pages)
    | none => (0, 0)

/-- 13 R413 steps 1 to 3: a usable entry of an allowed space with the right. -/
def State.mEnd (s : State) (m : Msg) (ridx : Nat) (spaces : Nat → Bool) (right : Res → Bool) : Option SEnd :=
  let region := if m.plane then none else s.regionAt m.el.at_
  let w := 64 * ((s.stripe m.el.at_).conf m.plane).spwbase.toNat
  ((s.resource m.pasid region ridx).filter fun r => r.usable && decide (r.space ≤ 1) && spaces r.space && right r).map fun r => ⟨r, w + r.base⟩

/-- 13 R413 step 4: a range within EXTENT, and in SPACE 1 within the region's share. -/
def State.mRange (s : State) (m : Msg) (x : Option SEnd) (off n : Nat) : Bool :=
  match x with
  | none => false
  | some x =>
    let sh := s.shareOf m
    decide (off + n ≤ x.res.extent) &&
      (x.res.space != 1 || decide (n = 0) || decide ((x.base + off + spadBytes - sh.1) % spadBytes + n ≤ sh.2))

def anySpace : Nat → Bool := fun _ => true
def space0 : Nat → Bool := fun n => n == 0
def space1 : Nat → Bool := fun n => n == 1

/-! ### Bytes of an end -/

/-- A byte of an end; none when HBM needs a key that the entry's slot does not give (03 R101). -/
def State.endByte (s : State) (m : Msg) (x : SEnd) (off : Nat) : Option Byte :=
  if x.res.space = 1 then some (s.placeByte m.ring s.devKey x.res x.base (some (.spad (x.base + off))))
  else
    let l := s.locOf m.ring.die m.pasid (vaOf x.res.base off) false
    match l, (if x.res.keyidx = 0 then none else s.keyOf x.res.keyidx) with
    | some l, some k => some (s.locByte k l)
    | some (.host h), none => some (cellGet h s.hostMem)
    | _, _ => none

def State.endPut (s : State) (m : Msg) (x : SEnd) (off : Nat) (b : Byte) : Option State :=
  if x.res.space = 1 then some (s.onRing m.ring fun r => { r with spad := spadPut r.spad (x.base + off) b })
  else
    let l := s.locOf m.ring.die m.pasid (vaOf x.res.base off) true
    match l, (if x.res.keyidx = 0 then none else s.keyOf x.res.keyidx) with
    | some l, some k => some (s.locPut k l b)
    | some (.host h), none => some { s with hostMem := cellPut h b s.hostMem }
    | _, _ => none

/-- Bytes from an end for a message: scratchpad at once, memory through its translations. -/
def State.endRead (s : State) (m : Msg) (x : SEnd) (off n : Nat) : CRead :=
  if x.res.space = 1 then
    .bytes ((List.range n).map fun i => s.placeByte m.ring s.devKey x.res x.base (some (.spad (x.base + off + i))))
  else s.cRead m.ring.die m.pasid x.res off n (some m.ring.ring) (s.launchQueue m.launch) (s.msgSite m)

/-- A span of an end that is still to be translated. -/
inductive Reach where
  | ok
  | wait (s : State)
  | addr (va : Nat)

/-- Whether every span of memory ends can be reached (03 R96, R97). A read of an uncorrectable granule ends the job (01 R44; log 61). -/
def State.spans (s : State) (m : Msg) : List (SEnd × Bool × Nat × Nat) → Reach
  | [] => .ok
  | (x, write, off, n) :: r =>
    if x.res.space = 1 ∨ n = 0 then s.spans m r
    else
      let va := vaOf x.res.base off
      match badVa va n with
      | some bad => .addr bad
      | none =>
        match s.missVa m.ring.die m.pasid va n write with
        | some a => .wait (s.walkFor m.ring.die m.pasid a write (some m.ring.ring) none (s.launchQueue m.launch) (s.msgSite m) none)
        | none =>
          match if write ∨ x.res.keyidx = 0 then none else s.vaBad m.ring.die m.pasid va n false with
          | some a => .wait (s.takeFault m.ring.die (some m.ring.ring) (s.launchQueue m.launch) 0 ⟨0x47, 3, 1, a⟩ (s.msgSite m))
          | none => s.spans m r

/-- A span of an end that can no longer be reached: its sender is gone, and its page has ended in a fault or its granule is uncorrectable (log 61). -/
def State.lost (s : State) (m : Msg) (x : SEnd) (write : Bool) (off n : Nat) : Bool :=
  let d := m.ring.die
  let va := vaOf x.res.base off
  x.res.space != 1 && s.senderGone m.launch &&
    (((s.missVa d m.pasid va n write).any fun a => (s.die d).quietFails.contains (m.pasid, a / 4096)) || (!write && (s.vaBad d m.pasid va n false).isSome))

/-! ### Acceptance and replies (13 R412, R413, R435) -/

/-- A message that waits goes back before the next of its sender; those of other senders may pass it. -/
def State.requeue (s : State) (m : Msg) : State :=
  s.onRing m.ring fun r => { r with streamIn := r.streamIn.takeWhile (fun n => !n.sameSender m) ++ m :: r.streamIn.dropWhile fun n => !n.sameSender m }

/-- An SABORT replies after the messages that it has abandoned (13 R432). -/
def Transfer.trails (t : Transfer) (kept : List Transfer) : Bool :=
  t.msg.mop == 14 && kept.any fun u => u.msg.ctx == t.msg.ctx && u.msg.pasid == t.msg.pasid && u.ready.any fun x => x.1 == 0x060B

/-- Replies that are due leave, those of one sender in the order of acceptance. -/
def sendReady : List Transfer → List Msg → State → List Transfer → State × List Transfer
  | [], _, s, kept => (s, kept)
  | t :: ts, blocked, s, kept =>
    match t.ready with
    | some (st, a, b) =>
      if blocked.any t.msg.sameSender || t.trails kept then sendReady ts (blocked ++ [t.msg]) s (kept ++ [t])
      else sendReady ts blocked (s.answer t.msg st a b) kept
    | none => sendReady ts (blocked ++ [t.msg]) s (kept ++ [t])

def State.sendDue (s : State) (r : RingAt) : State :=
  let ts := (s.ring r).transfers
  let q := sendReady ts [] s []
  q.1.onRing r fun x => { x with transfers := q.2 }

def Transfer.of (m : Msg) : Transfer := ⟨m, none, none, none, none, (0, 0), [], [], none, 0, none⟩

def State.push (s : State) (t : Transfer) : State := State.sendDue (s.onRing t.msg.ring fun r => { r with transfers := r.transfers ++ [t] }) t.msg.ring

/-- A message performed at its acceptance: its reply follows those before it. -/
def State.reply (s : State) (m : Msg) (status lane0 lane1 : Nat) : State := s.push { Transfer.of m with ready := some (status, lane0, lane1) }

/-- A refusal changes nothing but its answer, which follows the replies before it. The manual states no results for it: its lanes 0 and 1 are free values
(log 22). -/
def State.turnAway (s : State) (m : Msg) (status : Nat) : State :=
  let v := (Config.freeValue s.freeCtr).toNat
  State.reply { s with freeCtr := s.freeCtr + 1 } m status (v % 2 ^ 32) (v / 2 ^ 32)

/-- TINST names the sender's die and ring (13 R412). -/
def Msg.ownInst (m : Msg) : Bool := decide (m.inst = m.ring.num)

def State.fifo (s : State) (m : Msg) (f : Nat) : Option Fifo := tabFind (f % 64) (s.ring m.ring).fifos

def Fifo.owned (x : Fifo) (m : Msg) : Bool := x.launch == m.launch && x.ctx == m.ctx

/-- The refusals of a FIFO destination: STRM_NOT_OWNER, STRM_CLOSED, STRM_FORMAT (13 R418, R419, R428). -/
def State.fifoConds (s : State) (m : Msg) (f : Nat) (scaled : Bool) : List (Bool × Nat) :=
  match s.fifo m f with
  | none => [(true, 0x0606)]
  | some x => [(!x.owned m, 0x0606), (x.closed, 0x060E), (x.scaled != scaled, 0x0607)]

/-- What a message asks of the engine: the refusals in their order, the FIFO slots that it reserves, and the transfer. -/
structure Plan where
  conds : List (Bool × Nat)
  fifo : Option (Nat × Nat)
  t : Transfer

/-- Whether too few slots are free for a transfer that is not refused (13 R419). -/
def State.short (s : State) (m : Msg) (p : Plan) : Bool :=
  (firstOf p.conds).isNone && p.fifo.any fun q => (s.fifo m q.1).any fun x => decide (x.size < x.slots.length + q.2)

/-- Accept a transfer, or refuse it at the first failure. A FIFO destination reserves its slots, and waits while too few are free (13 R419). -/
def State.take (s : State) (m : Msg) (p : Plan) : State :=
  let t := p.t
  match firstOf p.conds with
  | some st => s.turnAway m st
  | none =>
    match p.fifo with
    | none => s.push t
    | some (f, n) =>
      match s.fifo m f with
      | none => s.turnAway m 0x0606
      | some x =>
        if x.slots.length + n ≤ x.size then
          State.push (s.onRing m.ring fun r =>
            { r with fifos := tabPut (f % 64) { x with slots := x.slots ++ List.replicate n none } r.fifos })
            { t with fifo := some (Fin.ofNat 64 f, x.delivered + x.slots.length, n), buf := (x.base, x.size) }
        else s.requeue m

/-- An entry of FMT 4 to 7 feeds only a block-scaled transfer (13 R414). -/
def scaledSrc (x : Option SEnd) : Bool := x.any fun e => decide (4 ≤ e.res.fmt)

def versioned (x : Option SEnd) : Bool := x.any fun e => e.res.vers

/-! ### The messages (13 R427-R433) -/

/-- SOPEN. -/
def State.sopen (s : State) (p : Params) : State :=
  let m := s.focus.msg
  let f := bits p.p0.toNat 5 0
  let scaled := bit p.p0.toNat 8
  let u := bits p.p0.toNat 27 16
  let size := bits p.p1.toNat 11 0 + 1
  let n := (if scaled then 96 else 64) * size
  let x := s.mEnd m (bits p.p1.toNat 31 16) space1 fun r => r.canRead && r.canWrite
  let off := 64 * p.p2.toNat
  match firstOf
    [(x.isNone, 0x0602), (!s.mRange m x off n, 0x0603), (versioned x, 0x0604),
     (!m.ownInst || bits p.p0.toNat 7 6 != 0 || bits p.p0.toNat 15 9 != 0 || bits p.p0.toNat 31 28 != 0 || bits p.p1.toNat 15 12 != 0 ||
       p.p3 != 0 || (scaled == decide (u = 0)), 0x0601),
     ((s.fifo m f).isSome, 0x0605)] with
  | some st => s.turnAway m st
  | none =>
    let y : Fifo := ⟨m.launch, m.ctx, scaled, false, .ofNat 12 u, size, ((x.map SEnd.base).getD 0) + off, [], 0⟩
    State.reply (s.onRing m.ring fun r => { r with fifos := tabPut f y r.fifos }) m 0 n 0

/-- SCLOSE: further transfers are refused; the reply waits for the transfers before it. -/
def State.sclose (s : State) (p : Params) : State :=
  let m := s.focus.msg
  let f := bits p.p0.toNat 5 0
  match firstOf ([(!m.ownInst || bits p.p0.toNat 31 6 != 0 || p.p1 != 0 || p.p2 != 0 || p.p3 != 0, 0x0601)] ++
      match s.fifo m f with | none => [(true, 0x0606)] | some x => [(!x.owned m, 0x0606), (x.closed, 0x060E)]) with
  | some st => s.turnAway m st
  | none => State.push (s.onRing m.ring fun r => { r with fifos := r.fifos.map fun q => if q.1 = f then (q.1, { q.2 with closed := true }) else q })
      (Transfer.of m)

/-- F, V of a FIFO destination: bits that the table does not name. -/
def badFV (w : Word) : Bool := bits w.toNat 31 12 != 0 || bits w.toNat 7 6 != 0

/-- SRDH: HBM or host memory to the scratchpad or a FIFO. -/
def State.srdhPlan (s : State) (m : Msg) (p : Params) : Plan :=
  let n := 4 * bits p.p3.toNat 29 0
  let di := bits p.p0.toNat 15 0
  let ff := decide (di = 0)
  let src := s.mEnd m (bits p.p0.toNat 31 16) space0 Res.canRead
  let dst := if ff then none else s.mEnd m di space1 Res.canWrite
  let f := bits p.p2.toNat 5 0
  let tb := 4 * (bits p.p2.toNat 11 8 + 1)
  { conds :=
      [(src.isNone || (!ff && dst.isNone), 0x0602), (!s.mRange m src (64 * p.p1.toNat) n || (!ff && !s.mRange m dst (64 * p.p2.toNat) n), 0x0603),
        (versioned dst, 0x0604), (!m.ownInst || bits p.p3.toNat 31 30 != 0 || n == 0 || (ff && badFV p.p2), 0x0601), (scaledSrc src, 0x0607)] ++
        (if ff then s.fifoConds m f false else []),
    fifo := if ff then some (f, (n + tb - 1) / tb) else none, t := { Transfer.of m with src := src, dst := dst } }

def State.srdh (s : State) (p : Params) : State := s.take s.focus.msg (s.srdhPlan s.focus.msg p)

/-- SWRH: the scratchpad to HBM or host memory. -/
def State.swrh (s : State) (p : Params) : State :=
  let m := s.focus.msg
  let n := 4 * bits p.p3.toNat 29 0
  let src := s.mEnd m (bits p.p0.toNat 31 16) space1 Res.canRead
  let dst := s.mEnd m (bits p.p0.toNat 15 0) space0 Res.canWrite
  s.take m
    { conds :=
        [(src.isNone || dst.isNone, 0x0602), (!s.mRange m src (64 * p.p1.toNat) n || !s.mRange m dst (64 * p.p2.toNat) n, 0x0603),
          (versioned dst, 0x0604), (!m.ownInst || bits p.p3.toNat 31 30 != 0, 0x0601), (scaledSrc src, 0x0607)],
      fifo := none, t := { Transfer.of m with src := src, dst := dst } }

/-- A stride table's element count (13 R429). -/
def tabCount (t : List (Nat × Int)) : Nat := (t.map Prod.fst).foldl (· * ·) 1

/-- The byte offset of element `i`: its digits in the mixed radix of the counts, dimension 0 fastest (13 R430). -/
def tabOff : List (Nat × Int) → Nat → Int
  | [], _ => 0
  | (c, st) :: r, i => ((i % c : Nat) : Int) * st + tabOff r (i / c)

/-- Slot 63: the entry's default layout. -/
def defaultTab (x : Option SEnd) (esize : Nat) : List (Nat × Int) := [(((x.map fun e => e.res.extent).getD 0) / esize, (esize : Int))]

/-- The table that a slot number names for a sender. -/
def State.strideTab (s : State) (m : Msg) (n : Nat) (x : Option SEnd) (esize : Nat) : Option (List (Nat × Int)) :=
  if n = 63 then some (defaultTab x esize)
  else ((tabFind n (s.ring m.ring).strides).filter fun q => q.1 == m.launch).map Prod.snd

/-- The offsets of a table's elements from a byte offset. -/
def tabOffs (t : List (Nat × Int)) (off n : Nat) : List Int := (List.range n).map fun i => (off : Int) + tabOff t i

/-- Every element lies in its entry, and in its region's share. -/
def State.tabRange (s : State) (m : Msg) (x : Option SEnd) (es : Nat) (offs : List Int) : Bool := offs.all fun o => decide (0 ≤ o) && s.mRange m x o.toNat es

/-- Whether the spans of two lists of element offsets meet. -/
def spansMeet (es : Nat) (a b : List Int) : Bool :=
  let lo (l : List Int) : Int := l.foldl min (l.headD 0)
  let hi (l : List Int) : Int := l.foldl max (l.headD 0) + es
  !a.isEmpty && !b.isEmpty && decide (lo a < hi b) && decide (lo b < hi a)

/-- SCOPY: a tensor copy of up to 16 dimensions. The range of an end (13 R413 step 4) is that of its table's elements; without a table, and under ESIZE 3,
which gives no element, there is none to test. -/
def State.scopyPlan (s : State) (m : Msg) (p : Params) : Plan :=
  let si := bits p.p0.toNat 31 16
  let di := bits p.p0.toNat 15 0
  let ff := decide (di = 0)
  let es := 2 ^ bits p.p3.toNat 17 16
  let src := s.mEnd m si anySpace Res.canRead
  let dst := if ff then none else s.mEnd m di anySpace Res.canWrite
  let st := bits p.p3.toNat 5 0
  let dt := bits p.p3.toNat 13 8
  let a := s.strideTab m st src es
  let b := if ff then some [] else s.strideTab m dt dst es
  let n := tabCount (a.getD [])
  let so := tabOffs (a.getD []) p.p1.toNat n
  let d := if ff then [] else tabOffs (b.getD []) p.p2.toNat (tabCount (b.getD []))
  let out (x : Option SEnd) (off : Nat) (t : Option (List (Nat × Int))) (offs : List Int) : Bool :=
    bits p.p3.toNat 17 16 != 3 && (off % es != 0 || (t.isSome && !s.tabRange m x es offs))
  let f := bits p.p2.toNat 5 0
  let tb := 4 * (bits p.p2.toNat 11 8 + 1)
  let bad :=
    !m.ownInst || bits p.p3.toNat 17 16 == 3 || bits p.p3.toNat 31 18 != 0 || bits p.p3.toNat 15 14 != 0 || bits p.p3.toNat 7 6 != 0 ||
      (ff && (badFV p.p2 || dt != 63))
  let dflt (x : Option SEnd) (t : Nat) : Bool := t == 63 && x.any fun e => e.res.layout != 0
  { conds :=
      [(src.isNone || (!ff && dst.isNone), 0x0602), (out src p.p1.toNat a so || (!ff && out dst p.p2.toNat b d), 0x0603), (versioned dst, 0x0604),
        (bad, 0x0601), (dflt src st || (!ff && dflt dst dt), 0x060C), (a.isNone || b.isNone || (!ff && tabCount (b.getD []) != n), 0x0608),
        (!ff && si == di && spansMeet es so d, 0x0609), (scaledSrc src, 0x0607)] ++ (if ff then s.fifoConds m f false else []),
    fifo := if ff then some (f, (n * es + tb - 1) / tb) else none,
    t := { Transfer.of m with src := src, dst := dst, srcTab := a.getD [], dstTab := b.getD [] } }

def State.scopy (s : State) (p : Params) : State := s.take s.focus.msg (s.scopyPlan s.focus.msg p)

/-- The 16 dimensions of a stride table from its 256 bytes: COUNT, the bytes that must be zero, and the signed STRIDE. -/
def dimsOf (bs : List Byte) : List (Nat × Nat × Int) :=
  (List.range 16).map fun d =>
    let e := (bs.drop (16 * d)).take 16
    (bytesNat (e.take 4), bytesNat ((e.drop 4).take 4), (BitVec.ofNat 64 (bytesNat (e.drop 8))).toInt)

/-- Whether an earlier SSYNC of a message's sender is not met (13 R417). -/
def State.syncBefore (s : State) (m : Msg) : Bool :=
  (s.ring m.ring).transfers.any fun t => t.ready.isNone && t.msg.mop == 10 && t.msg.sameSender m

/-- SSTRIDE: loads a stride table. It reads its table when it is accepted, which an unmet SSYNC before it keeps off (13 R417). -/
def State.sstride (s : State) (p : Params) : State :=
  let m := s.focus.msg
  let t := bits p.p0.toNat 5 0
  let x := s.mEnd m (bits p.p1.toNat 31 16) anySpace Res.canRead
  let off := 64 * p.p2.toNat
  match firstOf
    [(x.isNone, 0x0602), (!s.mRange m x off 256, 0x0603),
     (!m.ownInst || t == 63 || bits p.p0.toNat 31 6 != 0 || bits p.p1.toNat 15 0 != 0 || p.p3 != 0, 0x0601)], x with
  | some st, _ => s.turnAway m st
  | none, none => s.turnAway m 0x0602
  | none, some e =>
    if s.syncBefore m then s.requeue m
    else match s.endRead m e off 256 with
    | .wait s => s.requeue m
    | .addr va => State.takeFault s m.ring.die (some m.ring.ring) (s.launchQueue m.launch) 0 (fltAddr va) (s.msgSite m)
    | .noKey => s.reply m 0x060F 0 0
    | .bytes bs =>
      let s := s.onRing m.ring fun r => { r with strmRd := r.strmRd + 256 }
      let ds := dimsOf bs
      let n := tabCount (ds.map fun d => (d.1, d.2.2))
      let other := (tabFind t (s.ring m.ring).strides).any fun q => q.1 != m.launch
      if other ∨ ds.any (fun d => d.1 == 0 || d.2.1 != 0) ∨ 2 ^ 32 ≤ n then s.turnAway m 0x0608
      else State.reply (s.onRing m.ring fun r => { r with strides := tabPut t (m.launch, ds.map fun d => (d.1, d.2.2)) r.strides }) m 0
        (n % 2 ^ 32) (n / 2 ^ 32)

/-- SGATH: rows named by an index list. -/
def State.sgathPlan (s : State) (m : Msg) (p : Params) : Plan :=
  let di := bits p.p0.toNat 15 0
  let ff := decide (di = 0)
  let row := 64 * (bits p.p1.toNat 15 0 + 1)
  let n := bits p.p3.toNat 31 20 + 1
  let src := s.mEnd m (bits p.p0.toNat 31 16) anySpace Res.canRead
  let dst := if ff then none else s.mEnd m di anySpace Res.canWrite
  let ix := s.mEnd m (bits p.p1.toNat 31 16) anySpace Res.canRead
  { conds :=
      [(src.isNone || (!ff && dst.isNone) || ix.isNone, 0x0602),
        (!s.mRange m ix (4 * p.p2.toNat) (4 * n) || (!ff && !s.mRange m dst (64 * bits p.p3.toNat 19 0) (n * row)), 0x0603),
        (versioned dst, 0x0604), (!m.ownInst || (ff && bits p.p3.toNat 19 6 != 0), 0x0601), (scaledSrc src, 0x0607)] ++
        (if ff then s.fifoConds m (bits p.p3.toNat 5 0) false else []),
    fifo := if ff then some (bits p.p3.toNat 5 0, n * row / 64) else none, t := { Transfer.of m with src := src, dst := dst, idx := ix } }

def State.sgath (s : State) (p : Params) : State := s.take s.focus.msg (s.sgathPlan s.focus.msg p)

/-- SSCAT: rows to places named by an index list. -/
def State.sscat (s : State) (p : Params) : State :=
  let m := s.focus.msg
  let row := 64 * (bits p.p1.toNat 15 0 + 1)
  let n := bits p.p3.toNat 31 20 + 1
  let src := s.mEnd m (bits p.p0.toNat 31 16) space1 Res.canRead
  let dst := s.mEnd m (bits p.p0.toNat 15 0) anySpace Res.canWrite
  let ix := s.mEnd m (bits p.p1.toNat 31 16) anySpace Res.canRead
  s.take m
    { conds :=
        [(src.isNone || dst.isNone || ix.isNone, 0x0602),
          (!s.mRange m src (64 * bits p.p3.toNat 19 0) (n * row) || !s.mRange m ix (4 * p.p2.toNat) (4 * n), 0x0603), (versioned dst, 0x0604),
          (!m.ownInst, 0x0601), (scaledSrc src, 0x0607)],
      fifo := none, t := { Transfer.of m with src := src, dst := dst, idx := ix } }

/-- SLDBS: block-scaled data and their scales into a scaled FIFO. -/
def State.sldbsPlan (s : State) (m : Msg) (p : Params) : Plan :=
  let n := bits p.p3.toNat 31 16 + 1
  let blk := bits p.p3.toNat 9 8
  let src := s.mEnd m (bits p.p0.toNat 31 16) space0 Res.canRead
  let ix := s.mEnd m (bits p.p0.toNat 15 0) space0 Res.canRead
  let fmt := Fmt.ofCode ((src.map fun e => e.res.fmt).getD 0)
  { conds :=
      [(src.isNone || ix.isNone, 0x0602), (!s.mRange m src (64 * p.p1.toNat) (64 * n) || !s.mRange m ix p.p2.toNat (n * bytesInUse fmt blk), 0x0603),
        (!m.ownInst || blk == 3 || bits p.p3.toNat 7 6 != 0, 0x0601), (!scaledSrc src, 0x0607)] ++ s.fifoConds m (bits p.p3.toNat 5 0) true,
    fifo := some (bits p.p3.toNat 5 0, n), t := { Transfer.of m with src := src, idx := ix } }

def State.sldbs (s : State) (p : Params) : State := s.take s.focus.msg (s.sldbsPlan s.focus.msg p)

/-- The word of SSYNC and SSYNCW (13 R415). -/
def State.syncConds (s : State) (m : Msg) (p : Params) (x : Option SEnd) (spare : Nat) : List (Bool × Nat) :=
  [(x.isNone, 0x0602), (!s.mRange m x (8 * p.p1.toNat) 8, 0x0603), (versioned x, 0x0604),
   (!m.ownInst || spare != 0 || bits p.p3.toNat 31 16 != 0 || (x.any fun e => e.base % 8 != 0), 0x0601)]

/-- SSYNC: waits for its word (13 R417). -/
def State.ssync (s : State) (p : Params) : State :=
  let m := s.focus.msg
  let x := s.mEnd m (bits p.p0.toNat 31 16) space1 Res.canRead
  s.take m ⟨s.syncConds m p x 0, none, { Transfer.of m with dst := x }⟩

/-- SSYNCW: adds to its word once what it orders is performed (13 R416). -/
def State.ssyncw (s : State) (p : Params) : State :=
  let m := s.focus.msg
  let x := s.mEnd m (bits p.p0.toNat 31 16) space1 Res.canWrite
  s.take m ⟨s.syncConds m p x (bits p.p0.toNat 15 1), none, { Transfer.of m with dst := x }⟩

/-! ### Acceptance from a message port (12 R400, R401; 13 R419, R435) -/

/-- Messages that move data: one that waits at acceptance keeps those behind it waiting. -/
def Msg.isTransfer (m : Msg) : Bool := m.cls == 4 && [3, 4, 5, 6, 7, 8, 9].contains m.mop

/-- Whether a transfer must wait at acceptance: for slots of its FIFO, or an SSTRIDE for an SSYNC before it. -/
def State.mustWait (s : State) (m : Msg) : Bool :=
  if m.cls ≠ 4 then false
  else match m.mop with
    | 3 => s.short m (s.srdhPlan m m.p)
    | 5 => s.short m (s.scopyPlan m m.p)
    | 6 => s.syncBefore m
    | 7 => s.short m (s.sgathPlan m m.p)
    | 9 => s.short m (s.sldbsPlan m m.p)
    | _ => false

/-- Whether a transfer at the head of a port stays there: it waits, a transfer sent to its ring before it waits, or one accepted before it has
not been taken yet. An SSTRIDE that waits for its SSYNC keeps only its own sender's messages waiting. -/
def State.portHolds (s : State) (m : Msg) : Bool :=
  m.isTransfer &&
    (s.mustWait m || ((s.ring m.ring).streamIn.any fun n => n.isTransfer && (n.mop != 6 || n.sameSender m)) ||
      (s.ringElems m.ring).any fun e => ((s.elem e).port.head?).any fun n => n.isTransfer && n.mop != 6 && decide (n.id < m.id) && s.mustWait n)

/-- The oldest message of an element's port goes to its target, and its sent token to the firing's destination (12 R401). -/
def State.acceptMsg (s : State) (e : ElemAt) : State :=
  match (s.elem e).port with
  | [] => s
  | m :: rest =>
    let ical := match m.sender with | .elem _ i _ _ _ _ => i | .relay _ _ => false
    if s.portHolds m then s
    else
      match State.toEngine (s.onElem e fun x => { x with port := rest }) e ical m with
      | none => s
      | some s =>
        match m.sent with
        | some (op, t) => s.deliver e ical op t
        | none => s

/-- MESSAGE_ACCEPT (12 R400). -/
def execMessageAccept (e : ElemAt) (s : State) : Result := .next (s.acceptMsg e)

/-- SINGRESS: binds a further port of the sender's launch, the lowest free one (log 45), to a FIFO (13 R423). -/
def State.singress (s : State) (p : Params) : State :=
  let m := s.focus.msg
  let n := bits p.p0.toNat 3 0
  let f := bits p.p0.toNat 13 8
  let r := s.ring m.ring
  let busy := r.ports.any fun q => (q.2.launch == m.launch && q.2.num == n) || (q.2.fifo == some (Fin.ofNat 64 f) && !q.2.ended)
  let slot := lowest (fun i => (tabFind i r.ports).isNone) 64
  let cohorts := ((r.regions.find? fun g => g.launches.contains m.launch).map Region.cohorts).getD 0
  match firstOf
    ([(!m.ownInst || bits p.p0.toNat 7 4 != 0 || bits p.p0.toNat 15 14 != 0 || bits p.p0.toNat 31 28 != 0 || bits p.p1.toNat 31 7 != 0 || p.p2 != 0 ||
        p.p3 != 0, 0x0601)] ++
      (match s.fifo m f with | none => [(true, 0x0606)] | some x => [(x.launch != m.launch, 0x0606)]) ++ [(busy || slot.isNone, 0x0605)]) with
  | some st => s.turnAway m st
  | none =>
    let y : Port := ⟨m.launch, n, false, some (Fin.ofNat 64 f), 0, [], 0, bits p.p0.toNat 27 16, Fin.ofNat 16 (bits p.p1.toNat 3 0),
      Fin.ofNat 8 (bits p.p1.toNat 6 4), 0, cohorts - 1⟩
    State.reply (s.onRing m.ring fun r => { r with ports := tabPut (slot.getD 0) y r.ports }) m 0 0 0

/-- SSTAT: the state of a FIFO or a port (13 R433). -/
def State.sstat (s : State) (p : Params) : State :=
  let m := s.focus.msg
  let n := bits p.p0.toNat 5 0
  let r := s.ring m.ring
  if !m.ownInst ∨ bits p.p0.toNat 7 6 ≠ 0 ∨ bits p.p0.toNat 31 9 ≠ 0 ∨ p.p1 ≠ 0 ∨ p.p2 ≠ 0 ∨ p.p3 ≠ 0 then s.turnAway m 0x0601
  else if bit p.p0.toNat 8 then
    match tabFind n r.ports with
    | none => s.reply m 0 0 0
    | some q => if q.launch ≠ m.launch then s.turnAway m 0x0606 else s.reply m 0 (q.next % 2 ^ 32) (q.ended.toNat + 2)
  else
    match tabFind n r.fifos with
    | none => s.reply m 0 0 0
    | some q =>
      if q.launch ≠ m.launch then s.turnAway m 0x0606
      else s.reply m 0 ((q.slots.filter Option.isSome).length % 2 ^ 13 + q.closed.toNat * 2 ^ 16 + 2 ^ 17)
        (r.transfers.filter fun t => t.ready.isNone && t.fifo.any fun y => y.1.val == n).length

/-! ### FIFO slots (13 R418, R419) -/

def tagOf (v : Nat) (fmt : Nat) (blk cbook : Nat) (scaled : Bool) : BitVec 16 :=
  .ofNat 16 (v + fmt * 2 ^ 4 + blk * 2 ^ 7 + cbook * 2 ^ 9 + scaled.toNat * 2 ^ 15)

/-- A closed FIFO whose every reserved slot has been delivered, and whose SCLOSE has been answered, is unbound: its ports' streams have ended
(13 R418, R419). -/
def Ring.reap (f : Nat) (x : Ring) : Ring :=
  let busy := x.transfers.any fun t => t.ready.isNone && (t.fifo.any (fun y => y.1.val == f) || (t.msg.mop == 2 && bits t.msg.p.p0.toNat 5 0 == f))
  if !busy && (tabFind f x.fifos).any (fun y => y.closed && y.slots.isEmpty) then
    { x with
      fifos := x.fifos.filter fun y => y.1 != f,
      ports := x.ports.map fun p => if p.2.fifo = some (Fin.ofNat 64 f) then (p.1, { p.2 with ended := true }) else p }
  else x

/-- Byte of a slot's data, and of its scales. -/
def Fifo.data (x : Fifo) (n : Nat) : Nat := x.base + 64 * (n % x.size)
def Fifo.scale (x : Fifo) (n : Nat) : Nat := x.base + 64 * x.size + 32 * (n % x.size)

/-- Bytes that a transfer moves into a FIFO or a destination. -/
def Transfer.bytes (t : Transfer) : Nat :=
  let p := t.msg.p
  match t.msg.mop with
  | 3 => 4 * bits p.p3.toNat 29 0
  | 4 => 4 * bits p.p3.toNat 29 0
  | 5 => tabCount t.srcTab * 2 ^ bits p.p3.toNat 17 16
  | 7 => 64 * (bits p.p1.toNat 15 0 + 1) * (bits p.p3.toNat 31 20 + 1)
  | 8 => 64 * (bits p.p1.toNat 15 0 + 1) * (bits p.p3.toNat 31 20 + 1)
  | 9 => 64 * (bits p.p3.toNat 31 16 + 1)
  | _ => 0

/-- The tag of token `i` of a transfer into a FIFO. -/
def Transfer.tag (t : Transfer) (i : Nat) : BitVec 16 :=
  let p := t.msg.p
  let f := (t.src.map fun e => e.res.fmt).getD 0
  if t.msg.mop = 9 then tagOf 15 f (bits p.p3.toNat 9 8) (bits p.p3.toNat 15 10) true
  else if t.msg.mop = 7 then tagOf 15 f 0 0 false
  else
    let tb := 4 * (bits p.p2.toNat 11 8 + 1)
    tagOf ((min tb (t.bytes - i * tb) + 3) / 4 - 1) f 0 0 false

/-! ### Moving a transfer (13 R413, R416, R419, R427-R432, R435) -/

/-- A piece of a transfer: `len` bytes of the source (0), of the second source (1) or of zero (2), and where they go. -/
structure Piece where
  from_ : Nat
  src : Nat
  dst : Nat
  len : Nat
  deriving DecidableEq, Repr

/-- The pieces that are left of a transfer after its first `n` bytes. -/
def skipBytes : Nat → List Piece → List Piece
  | _, [] => []
  | n, q :: qs => if n = 0 then q :: qs else if q.len ≤ n then skipBytes (n - q.len) qs else ⟨q.from_, q.src + n, q.dst + n, q.len - n⟩ :: qs

/-- The first `n` bytes of pieces. -/
def takeBytes : Nat → List Piece → List Piece
  | _, [] => []
  | n, q :: qs => if q.len ≤ n then q :: takeBytes (n - q.len) qs else if n = 0 then [] else [{ q with len := n }]

/-- The bytes of pieces. -/
def pieceBytes (ps : List Piece) : Nat := (ps.map Piece.len).foldl (· + ·) 0

/-- The destination of a transfer into a FIFO: scratchpad bytes by their own numbers. -/
def fifoEnd : SEnd := ⟨⟨0, 0, 0, 1, 0, 0, false, 0, 15, false, 0, true, 0⟩, 0⟩

/-- The addresses of the data and of the scales of token `i` of a transfer into a FIFO: those of the slots that it has reserved, whether or not the FIFO
is bound still (13 R436). -/
def Transfer.slotData (t : Transfer) (i : Nat) : Nat := t.buf.1 + 64 * (((t.fifo.map fun f => f.2.1).getD 0 + i) % t.buf.2)
def Transfer.slotScale (t : Transfer) (i : Nat) : Nat := t.buf.1 + 64 * t.buf.2 + 32 * (((t.fifo.map fun f => f.2.1).getD 0 + i) % t.buf.2)

/-- The scale bytes of a token of SLDBS. -/
def Transfer.scaleBytes (t : Transfer) : Nat := bytesInUse (Fmt.ofCode ((t.src.map fun e => e.res.fmt).getD 0)) (bits t.msg.p.p3.toNat 9 8)

/-- Whether a row of an index is bad: it passes EXTENT, or the region's share (13 R431). -/
def State.badRow (s : State) (m : Msg) (x : Option SEnd) (row ix : Nat) : Bool := !s.mRange m x (row * ix) row

/-- The pieces of a transfer, in order; `ixs` is its index list. -/
def State.pieces (s : State) (t : Transfer) (ixs : List Nat) : List Piece :=
  let p := t.msg.p
  let n := t.bytes
  let tb := 4 * (bits p.p2.toNat 11 8 + 1)
  match t.msg.mop with
  | 3 =>
    if t.fifo.isSome then (List.range ((n + tb - 1) / tb)).map fun i => ⟨0, 64 * p.p1.toNat + i * tb, t.slotData i, min tb (n - i * tb)⟩
    else [⟨0, 64 * p.p1.toNat, 64 * p.p2.toNat, n⟩]
  | 4 => [⟨0, 64 * p.p1.toNat, 64 * p.p2.toNat, n⟩]
  | 5 =>
    let es := 2 ^ bits p.p3.toNat 17 16
    ((tabOffs t.srcTab p.p1.toNat (tabCount t.srcTab)).zipIdx.map fun q =>
      ⟨0, q.1.toNat, if t.fifo.isSome then t.slotData (q.2 * es / tb) + q.2 * es % tb else ((p.p2.toNat : Int) + tabOff t.dstTab q.2).toNat, es⟩) ++
      if t.fifo.isSome ∧ n % 4 ≠ 0 then [⟨2, 0, t.slotData (n / tb) + n % tb, 4 - n % 4⟩] else []
  | 7 =>
    let row := 64 * (bits p.p1.toNat 15 0 + 1)
    let k := row / 64
    ixs.zipIdx.flatMap fun q => (List.range k).map fun u =>
      ⟨if s.badRow t.msg t.src row q.1 then 2 else 0, row * q.1 + 64 * u,
        if t.fifo.isSome then t.slotData (q.2 * k + u) else 64 * bits p.p3.toNat 19 0 + q.2 * row + 64 * u, 64⟩
  | 8 =>
    let row := 64 * (bits p.p1.toNat 15 0 + 1)
    (ixs.zipIdx.filter fun q => !s.badRow t.msg t.dst row q.1).map fun q => ⟨0, 64 * bits p.p3.toNat 19 0 + q.2 * row, row * q.1, row⟩
  | 9 =>
    let sb := t.scaleBytes
    (List.range (n / 64)).flatMap fun i => [⟨0, 64 * p.p1.toNat + 64 * i, t.slotData i, 64⟩, ⟨1, p.p2.toNat + sb * i, t.slotScale i, sb⟩]
  | _ => []

/-- The bytes that make one token of a transfer into a FIFO. -/
def Transfer.tokBytes (t : Transfer) : Nat :=
  match t.msg.mop with
  | 7 => 64
  | 9 => 64 + t.scaleBytes
  | _ => 4 * (bits t.msg.p.p2.toNat 11 8 + 1)

/-- The tokens that a transfer into a FIFO has written whole; `ps` are all its pieces. -/
def Transfer.tokens (t : Transfer) (ps : List Piece) : Nat :=
  if t.moved = pieceBytes ps then (t.fifo.map fun f => f.2.2).getD 0 else t.moved / t.tokBytes

def Transfer.dstEnd (t : Transfer) : SEnd := if t.fifo.isSome then fifoEnd else t.dst.getD fifoEnd
def Transfer.srcEnd (t : Transfer) (k : Nat) : SEnd := (if k = 1 then t.idx else t.src).getD fifoEnd

/-- Move the bytes of a piece one after another; false when one needs a key that is not there. -/
def State.movePiece (s : State) (t : Transfer) (q : Piece) : Nat → State × Nat × Bool
  | 0 => (s, 0, true)
  | n + 1 =>
    let r := State.movePiece s t q n
    if !r.2.2 then r
    else
      let b := if q.from_ = 2 then some 0 else r.1.endByte t.msg (t.srcEnd q.from_) (q.src + n)
      match b.bind fun b => r.1.endPut t.msg t.dstEnd (q.dst + n) b with
      | some s => (s, r.2.1 + 1, true)
      | none => (r.1, r.2.1, false)

/-- Move pieces until one stops: the state, the bytes written, those of them that were read, and whether all were moved. -/
def State.movePieces (t : Transfer) : List Piece → State → Nat → Nat → State × Nat × Nat × Bool
  | [], s, moved, rd => (s, moved, rd, true)
  | q :: qs, s, moved, rd =>
    let r := s.movePiece t q q.len
    let rd := if q.from_ = 2 then rd else rd + r.2.1
    if r.2.2 then State.movePieces t qs r.1 (moved + r.2.1) rd else (r.1, moved + r.2.1, rd, false)

/-- The first `n` slots of a transfer are written: their tags stand in its FIFO, while its launch has that bound (13 R418, R419). -/
def State.tagSlots (s : State) (t : Transfer) (n : Nat) : State :=
  match t.fifo with
  | none => s
  | some (f, first, _) =>
    s.onRing t.msg.ring fun r =>
      match (tabFind f.val r.fifos).filter fun x => x.launch == t.msg.launch with
      | none => r
      | some x =>
        let tag (j : Nat) (old : FifoSlot) : FifoSlot := if first ≤ j ∧ j < first + n then some (t.tag (j - first)) else old
        { r with fifos := tabPut f.val { x with slots := x.slots.zipIdx.map fun q => tag (x.delivered + q.2) q.1 } r.fifos }

/-- Write a transfer's slots from its `k`-th on as zero tokens of its format (13 R432). -/
def State.zeroSlots (s : State) (t : Transfer) (k : Nat) : State :=
  match t.fifo with
  | none => s
  | some (_, _, n) =>
    let ps := ((List.range n).drop k).flatMap fun i =>
      ⟨2, 0, t.slotData i, 4 * ((t.tag i).toNat % 16 + 1)⟩ :: if t.msg.mop = 9 then [⟨2, 0, t.slotScale i, t.scaleBytes⟩] else []
    let x := State.movePieces t ps s 0 0
    State.tagSlots (x.1.onRing t.msg.ring fun y => { y with strmWr := y.strmWr + .ofNat 64 x.2.1 }) t n

/-- SABORT: abandons transfers of the sender's context, each where it stands, at a 64-byte boundary (13 R432). -/
def State.sabort (s : State) (p : Params) : State :=
  let m := s.focus.msg
  let mode := bits p.p0.toNat 1 0
  let f := bits p.p1.toNat 5 0
  let r := s.ring m.ring
  let hit (t : Transfer) : Bool :=
    t.ready.isNone && t.msg.ctx == m.ctx && t.msg.pasid == m.pasid && [3, 4, 5, 7, 8, 9, 10].contains t.msg.mop &&
      (if mode = 0 then t.msg.sameSender m else if mode = 1 then t.fifo.any fun y => y.1.val == f else true)
  match firstOf ([(!m.ownInst || mode == 3 || bits p.p0.toNat 31 2 != 0 || bits p.p1.toNat 31 6 != 0 || p.p2 != 0 || p.p3 != 0, 0x0601)] ++
      if mode = 1 then (match s.fifo m f with | none => [(true, 0x0606)] | some x => [(!x.owned m, 0x0606)]) else []) with
  | some st => s.turnAway m st
  | none =>
    let ts := r.transfers.filter hit
    let s := ts.foldl (fun s t => s.zeroSlots t (t.tokens (s.pieces t (t.ixs.getD [])))) s
    let s := s.onRing m.ring fun r => { r with transfers := r.transfers.map fun t => if hit t then { t with ready := some (0x060B, t.moved, 0) } else t }
    State.reply s m 0 ts.length 0

/-- The lanes of a transfer's reply. -/
def Transfer.lanes (t : Transfer) (bad : Nat) : Nat × Nat × Nat :=
  let n := t.bytes
  let rows := bits t.msg.p.p3.toNat 31 20 + 1
  match t.msg.mop with
  | 3 => (0, n, (t.fifo.map fun f => f.2.2).getD 0)
  | 5 => (0, tabCount t.srcTab % 2 ^ 32, tabCount t.srcTab / 2 ^ 32)
  | 7 => (if bad = 0 then 0 else 0x060A, rows - bad, bad)
  | 8 => (if bad = 0 then 0 else 0x060A, rows - bad, bad)
  | 9 => (0, n / 64, 0)
  | _ => (0, n, 0)

/-- Mark the `k`-th transfer of a ring as due to reply, and send what is due. -/
def State.due (s : State) (r : RingAt) (k : Nat) (x : Nat × Nat × Nat) : State :=
  State.sendDue (s.onRing r fun y => { y with transfers := y.transfers.modify k fun t => { t with ready := some x } }) r

/-- The 8 bytes of a synchronisation word. -/
def State.syncWord (s : State) (t : Transfer) : Nat × Nat :=
  let a := ((t.dst.map SEnd.base).getD 0) + 8 * t.msg.p.p1.toNat
  (a, bytesNat (spadRead (s.ring t.msg.ring).spad a 8))

/-- 48-bit target or addend of SSYNC and SSYNCW. -/
def wideOf (p : Params) : Nat := p.p2.toNat + bits p.p3.toNat 15 0 * 2 ^ 32

/-- The lanes of a word: TOTAL low; GEN and the rest of TOTAL. -/
def syncLanes (w : Nat) : Nat × Nat × Nat := (0, w % 2 ^ 32, w / 2 ^ 32)

/-- Every watch on a scratchpad word wakes (13 R415). -/
def State.wakeAt (s : State) (r : RingAt) (a : Nat) : State :=
  let on (w : Watch) : Bool := (s.opRes (ElemAt.ofKey w.op.elem) w.op.launch w.op.w0).any fun x =>
    x.space == 1 && (s.spadBase w.op x + (w.op.a.lane 0).toNat) % spadBytes == a % spadBytes
  ((s.ring r).watches.filter on).foldl (fun s w => s.wake r w 0) s

/-- Where a transfer's byte for `a` goes; none where its translation is not there. -/
def State.wPlace (s : State) (t : Transfer) (a : Nat) : Option Place :=
  let x := t.dstEnd
  if x.res.space = 1 then some (.spad ((x.base + a) % spadBytes)) else (s.locOf t.msg.ring.die t.msg.pasid (vaOf x.res.base a) true).map .mem

/-- Whether two bytes may be one: they are, or memory that is not translated yet is one of them and memory the other. -/
def samePlace : Option Place → Option Place → Bool
  | some x, some y => x == y
  | none, some (.spad _) => false
  | some (.spad _), none => false
  | _, _ => true

/-- The pieces that an accepted transfer has yet to move; none for an SSCAT whose index list is not read. -/
def State.restOf (s : State) (t : Transfer) : Option (List Piece) :=
  if t.msg.mop = 8 ∧ t.ixs.isNone then none
  else some (skipBytes t.moved (s.pieces t (t.ixs.getD (List.replicate (bits t.msg.p.p3.toNat 31 20 + 1) 0))))

/-- Whether the `k`-th transfer's pieces would write bytes that an earlier transfer of its sender has still to write (13 R435). -/
def State.overtakes (s : State) (r : RingAt) (k : Nat) (t : Transfer) (ps : List Piece) : Bool :=
  ((s.ring r).transfers.take k).any fun u =>
    u.ready.isNone && u.msg.isTransfer && u.msg.sameSender t.msg &&
      match s.restOf u with
      | none => true
      | some rest => ps.any fun q => (List.range q.len).any fun i => rest.any fun z => (List.range z.len).any fun j =>
          samePlace (s.wPlace t (q.dst + i)) (s.wPlace u (z.dst + j))

/-- A transfer whose address is not canonical ends with its fault. -/
def State.badTransfer (s : State) (r : RingAt) (k : Nat) (t : Transfer) (va : Nat) : State :=
  State.takeFault (s.onRing r fun y => { y with transfers := y.transfers.eraseIdx k }) r.die (some r.ring) (s.launchQueue t.msg.launch) 0 (fltAddr va)
    (s.msgSite t.msg) |>.paid t.msg.el t.msg.plane t.msg.launch

/-- Replace the `k`-th transfer of a ring, and count bytes read and written. -/
def State.putTransfer (s : State) (r : RingAt) (k : Nat) (t : Transfer) (rd wr : Nat) : State :=
  s.onRing r fun y => { y with transfers := y.transfers.modify k fun _ => t, strmRd := y.strmRd + .ofNat 64 rd, strmWr := y.strmWr + .ofNat 64 wr }

/-- Move the rest of a transfer whose index list is known, and make its reply due; or only its next bytes: 64, or one token of SLDBS. It waits for a
translation that is missing, and for the writes that it would overtake; a missing key ends it, and so does a page that its sender, which is gone, can no
longer have. -/
def State.moveOn (s : State) (r : RingAt) (k : Nat) (t : Transfer) (all : Bool) : State :=
  let ixs := t.ixs.getD []
  let ps := s.pieces t ixs
  let rest := skipBytes t.moved ps
  let part := if all then rest else takeBytes (if t.msg.mop = 9 then t.tokBytes else 64) rest
  let row := 64 * (bits t.msg.p.p1.toNat 15 0 + 1)
  let bad := (ixs.filter fun i => s.badRow t.msg (if t.msg.mop = 7 then t.src else t.dst) row i).length
  let spans := ((part.filter fun q => q.from_ ≠ 2).map fun q => (t.srcEnd q.from_, false, q.src, q.len)) ++ part.map fun q => (t.dstEnd, true, q.dst, q.len)
  if s.overtakes r k t part then s
  else if spans.any fun q => s.lost t.msg q.1 q.2.1 q.2.2.1 q.2.2.2 then s.due r k (0x060B, t.moved, 0)
  else
    match s.spans t.msg spans with
    | .wait s => s
    | .addr va => s.badTransfer r k t va
    | .ok =>
      let x := State.movePieces t part s 0 0
      let t' := { t with moved := t.moved + x.2.1 }
      let s := (x.1.putTransfer r k t' x.2.2.1 x.2.1).tagSlots t' (t'.tokens ps)
      if !x.2.2.2 then (s.zeroSlots t' (t'.tokens ps)).due r k (0x060F, t'.moved, 0)
      else if all then s.due r k (t.lanes bad)
      else s

/-- The `k`-th transfer of a ring goes on, once every SSYNC of its sender before it is met (13 R417): its index list first, then its bytes. -/
def State.goOn (s : State) (r : RingAt) (k : Nat) (t : Transfer) (all : Bool) : State :=
  if ((s.ring r).transfers.take k).any fun u => u.ready.isNone && u.msg.mop == 10 && u.msg.sameSender t.msg then s
  else if (t.msg.mop = 7 ∨ t.msg.mop = 8) ∧ t.ixs.isNone then
    let n := bits t.msg.p.p3.toNat 31 20 + 1
    if s.lost t.msg (t.srcEnd 1) false (4 * t.msg.p.p2.toNat) (4 * n) then s.due r k (0x060B, 0, 0)
    else match s.endRead t.msg (t.srcEnd 1) (4 * t.msg.p.p2.toNat) (4 * n) with
    | .wait s => s
    | .addr va => s.badTransfer r k t va
    | .noKey => (s.zeroSlots t 0).due r k (0x060F, 0, 0)
    | .bytes bs =>
      let t := { t with ixs := some ((bytesWords n bs).map BitVec.toNat) }
      (s.putTransfer r k t (4 * n) 0).moveOn r k t all
  else s.moveOn r k t all

/-- An fc moves the next bytes of every transfer that has started (log 61). -/
def State.streamClock (s : State) (r : RingAt) : State :=
  ((s.ring r).transfers.filter fun t => t.ready.isNone && t.msg.isTransfer).foldl (fun s t =>
    match (s.ring r).transfers.findIdx? fun u => u.msg.id == t.msg.id && u.ready.isNone with
    | some k => match (s.ring r).transfers[k]? with | some u => s.goOn r k u false | none => s
    | none => s) s

/-- The `k`-th message of a ring is performed: a transfer moves all that is left of it; an SCLOSE waits for the transfers into its FIFO before it, and an
SSYNCW for the transfers and synchronisations of its sender before it (13 R416, R428). -/
def State.transferStep (s : State) (r : RingAt) (k : Nat) : State :=
  let ts := (s.ring r).transfers
  match ts[k]? with
  | none => s
  | some t =>
    if t.ready.isSome then s
    else if t.msg.mop = 2 then
      let f := bits t.msg.p.p0.toNat 5 0
      if (ts.take k).any fun u => u.ready.isNone && u.fifo.any fun y => y.1.val == f then s
      else
        State.onRing (s.due r k (0, ((tabFind f (s.ring r).fifos).map fun x => (x.delivered + x.slots.length) % 2 ^ 32).getD 0, 0)) r (Ring.reap f)
    else if t.msg.mop = 11 then
      if (ts.take k).any fun u => u.ready.isNone && u.msg.mop != 2 && u.msg.sameSender t.msg then s
      else
        let w := s.syncWord t
        let gen := w.2 / 2 ^ 48
        let y := if bit t.msg.p.p0.toNat 0 then (gen + 1) % 65536 * 2 ^ 48 + wideOf t.msg.p else gen * 2 ^ 48 + (w.2 + wideOf t.msg.p) % 2 ^ 48
        let s := s.onRing r fun x => { x with spad := spadWrite x.spad w.1 (natBytes 8 y), strmWr := x.strmWr + 8 }
        State.due (if y % 2 ^ 48 = w.2 % 2 ^ 48 then s else s.wakeAt r w.1) r k (syncLanes y)
    else if t.msg.isTransfer then s.goOn r k t true
    else s

/-- 13 R417: an SSYNC is met; one of a cancelled launch counts as met (R436). -/
def State.syncMet (s : State) (t : Transfer) : Bool :=
  let w := (s.syncWord t).2
  let g : BitVec 16 := .ofNat 16 (w / 2 ^ 48)
  let want : BitVec 16 := .ofNat 16 (bits t.msg.p.p0.toNat 15 0)
  s.senderGone t.msg.launch || (g == want && decide (wideOf t.msg.p ≤ w % 2 ^ 48)) || seqAfter g want

/-- The `k`-th message of a ring is an SSYNC that is met: it replies. -/
def State.syncStep (s : State) (r : RingAt) (k : Nat) : State :=
  match (s.ring r).transfers[k]? with
  | some t => if t.ready.isNone ∧ t.msg.mop = 10 ∧ s.syncMet t then s.due r k (syncLanes (s.syncWord t).2) else s
  | none => s

/-! ### Ingress lists (13 R421, R422, R488) -/

/-- A checked ingress list: per port its entries, its target and G − 1. -/
abbrev PortPlan := List IngEntry × Fin 16 × Fin 8 × Nat

/-- The status of one entry of an ingress list after the ports before it, or what it adds. `w` are its eight words. -/
def State.listEntry (s : State) (pasid : BitVec 20) (w : Nat → Nat) (ps : List PortPlan) : Nat ⊕ List PortPlan :=
  let kind := bits (w 0) 31 30
  let cont := bit (w 0) 29
  let gm1 := bits (w 0) 24 13
  let chan : Fin 8 := Fin.ofNat 8 (bits (w 0) 12 10)
  let slot : Fin 16 := Fin.ofNat 16 (bits (w 0) 9 6)
  let vlen := bits (w 0) 3 0
  let nb := 4 * (vlen + 1)
  let blk := bits (w 5) 15 14
  let scaled := kind == 2
  let badList :=
    bits (w 0) 5 4 != 0 || bits (w 1) 15 0 != 0 || kind == 3 || w 4 % 4 != 0 || decide (w 4 < nb) ||
      (if scaled then bits (w 5) 7 0 != 0 || bits (w 7) 31 12 != 0 || blk == 3 || bits (w 7) 11 0 == 0 else w 5 != 0 || w 6 != 0 || w 7 != 0) ||
      (if cont then ps.getLast?.all fun q => q.2.1 != slot || q.2.2.1 != chan || q.2.2.2 != gm1 else ps.any fun q => q.2.1 == slot && q.2.2.1 == chan)
  let entry (n : Nat) : Option Res := (s.resource pasid none n).filter fun r => r.usable && r.space == 0 && r.canRead
  let src := entry (bits (w 1) 31 16)
  let sc := if scaled then entry (bits (w 5) 31 16) else none
  let fmt := if bit (w 0) 28 then bits (w 0) 27 25 else (src.map Res.fmt).getD 0
  let sfmt := (src.map Res.fmt).getD 0
  let f := Fmt.ofCode fmt
  let inExt (r : Option Res) (n : Nat) : Bool := r.any fun r => decide (n ≤ r.extent)
  let range :=
    w 3 == 0 || (inExt src (64 * w 2 + (w 3 - 1) * w 4 + nb) && (!scaled || inExt sc (w 6 + w 3 * bytesInUse f blk)))
  if badList then .inl 0x060D
  else if src.isNone ∨ (scaled ∧ sc.isNone) then .inl 0x0602
  else if scaled ≠ decide (4 ≤ fmt) ∨ (!scaled ∧ 4 ≤ sfmt) then .inl 0x0607
  else if !range then .inl 0x0603
  else
    let e : IngEntry := ⟨scaled, f, Fin.ofNat 16 vlen, .ofNat 16 (bits (w 1) 31 16), .ofNat 32 (w 2), .ofNat 32 (w 3), .ofNat 32 (w 4),
      .ofNat 16 (bits (w 5) 31 16), .ofNat 2 blk, .ofNat 6 (bits (w 5) 13 8), .ofNat 32 (w 6), .ofNat 12 (bits (w 7) 11 0)⟩
    .inr (if cont then ps.modify (ps.length - 1) fun q => (q.1 ++ [e], q.2) else ps ++ [([e], slot, chan, gm1)])

/-- Check the entries of a list in order; the 17th must be the end. Nothing but the KIND of the end entry is looked at (log 61). -/
def State.listCheck (s : State) (pasid : BitVec 20) : List (List Word) → List PortPlan → Nat ⊕ List PortPlan
  | [], _ => .inl 0x060D
  | e :: es, ps =>
    let w (i : Nat) : Nat := (e.getD i 0).toNat
    if bits (w 0) 31 30 = 0 then .inr ps
    else if es.isEmpty then .inl 0x060D
    else
      match s.listEntry pasid w ps with
      | .inl st => .inl st
      | .inr ps => s.listCheck pasid es ps

/-- What reading a list comes to: its entries up to its end entry, at most 17; an entry beyond the resource's EXTENT; or a read that waits or fails. -/
inductive ListRead where
  | entries (es : List (List Word))
  | range
  | wait (s : State)
  | addr (va : Nat)
  | noKey

/-- Read a list entry by entry, `i` of them read, with `n` more to read at most. -/
def listRead (rd : Nat → CRead) (extent off : Nat) : Nat → Nat → List (List Word) → ListRead
  | 0, _, es => .entries es
  | n + 1, i, es =>
    if extent < off + 32 * (i + 1) then .range
    else
      match rd (off + 32 * i) with
      | .wait s => .wait s
      | .addr va => .addr va
      | .noKey => .noKey
      | .bytes bs =>
        let e := bytesWords 8 bs
        if bits (e.getD 0 0).toNat 31 30 = 0 then .entries (es ++ [e]) else listRead rd extent off n (i + 1) (es ++ [e])

/-- What reading and checking the ingress list of a READY launch comes to. The engine of ring 0 of the launch's die reads it (log 61). -/
def State.ingressList (s : State) (l : Nat) : State :=
  let x := s.launch l
  let d : Fin 4 := Fin.ofNat 4 (l / 4096)
  let w := x.args[15].toNat
  let off := 64 * bits w 15 0
  let fail (st : Nat) : State := s.doneLaunch l st
  let site := { FRec.zero with plane := 3, die := .ofNat 2 d.val, pasid := x.pasid }
  if x.state ≠ .ready ∨ x.ingress.isSome ∨ x.cancelled ∨ x.faulted then s
  else if bits w 31 16 = 0 then s.onLaunch l fun y => { y with ingress := some [] }
  else
    match (s.resource x.pasid none (bits w 31 16)).filter fun r => r.usable && r.space == 0 && r.canRead with
    | none => fail 0x0602
    | some r =>
      match listRead (fun o => s.cRead d x.pasid r o 32 none (s.launchQueue l) site) r.extent off 17 0 [] with
      | .wait s => s
      | .addr va => s.takeFault d none (s.launchQueue l) 0 (fltAddr va) site
      | .noKey => fail 0x060F
      | .range => fail 0x0603
      | .entries es =>
        let s := s.onRing ⟨d, 0⟩ fun y => { y with strmRd := y.strmRd + .ofNat 64 (32 * es.length) }
        match s.listCheck x.pasid es [] with
        | .inl st => s.doneLaunch l st
        | .inr ps => s.onLaunch l fun y => { y with ingress := some ps }

/-! ### Ports (13 R420, R423-R426) -/

/-- The entry that holds the next token of a port, its number there, and whether it is the port's last. -/
def Port.head (p : Port) : Option (IngEntry × Nat × Bool) :=
  match p.entries.dropWhile fun e => e.count == 0 with
  | [] => none
  | e :: r => some (e, p.pos, decide (p.pos + 1 = e.count.toNat) && r.all fun e => e.count == 0)

/-- The port after its next token. -/
def Port.advance (p : Port) : Port :=
  match p.entries.dropWhile fun e => e.count == 0 with
  | [] => p
  | e :: r => if p.pos + 1 < e.count.toNat then { p with entries := e :: r, pos := p.pos + 1 } else { p with entries := r, pos := 0 }

/-- A token's source: its format, its words, and for a block-scaled token BLK, CBOOK, U and its scale bytes; and whether it is the last. -/
structure PortTok where
  fmt : Fmt
  vlen : Fin 16
  data : List Byte
  scale : Option (BitVec 2 × BitVec 6 × BitVec 12 × List Byte)
  last : Bool

/-- Reading a port's next token: read, waiting, or the port's stream has ended without it. -/
inductive PortRead where
  | tok (t : PortTok)
  | wait (s : State)
  | over

/-- The place of a port's records: region stripe 0, no slot (13 R439). -/
def State.portSite (s : State) (r : RingAt) (l : Nat) : FRec :=
  let x := s.launch l
  let page := ((x.segs.head?).map Seg.page).getD 0
  let ctx := ((x.segs.head?).map Seg.ctx).getD 0
  (s.place ⟨regionStripe r page 0, 0⟩ x.ical none).tags x.pasid ctx none

/-- The element that a port feeds. -/
def State.portElem (s : State) (r : RingAt) (p : Port) : ElemAt :=
  let x := s.launch p.launch
  ⟨if x.ical then ⟨r, 0⟩ else regionStripe r (((x.segs.head?).map Seg.page).getD 0) 0, p.slot⟩

/-- A token of a memory range (13 R422), through the entry as its region has it (03 R95). A port whose range needs a key that is absent waits (log 61). -/
def State.portMem (s : State) (r : RingAt) (p : Port) (e : IngEntry) (t : Nat) (last : Bool) : PortRead :=
  let x := s.launch p.launch
  let q := s.launchQueue p.launch
  let nb := 4 * (e.vlen.val + 1)
  let sb := bytesInUse e.fmt e.blk.toNat
  let rd (n : BitVec 16) (off k : Nat) : PortRead ⊕ List Byte :=
    match s.resource x.pasid (if x.ical then none else s.regionAt (s.portElem r p).at_) n.toNat with
    | none => .inl (.wait s)
    | some res =>
      match s.cRead r.die x.pasid res off k (some r.ring) q (s.portSite r p.launch) with
      | .bytes bs => .inr bs
      | .wait s => .inl (.wait s)
      | .addr va => .inl (.wait (s.takeFault r.die (some r.ring) q 0 (fltAddr va) (s.portSite r p.launch)))
      | .noKey => .inl (.wait s)
  match rd e.sridx (64 * e.soff.toNat + t * e.pitch.toNat) nb with
  | .inl y => y
  | .inr bs =>
    if e.scaled then
      match rd e.scridx (e.scoff.toNat + t * sb) sb with
      | .inl y => y
      | .inr sc => .tok ⟨e.fmt, e.vlen, bs, some (e.blk, e.cbook, e.u, sc), last⟩
    else .tok ⟨e.fmt, e.vlen, bs, none, last⟩

/-- A token of a FIFO: deliverable once it and its successor, or it and the end, are known (13 R419, R423). -/
def State.portFifo (s : State) (r : RingAt) (f : Fin 64) : PortRead :=
  let y := s.ring r
  match tabFind f.val y.fifos with
  | none => .over
  | some x =>
    let tok (tag : BitVec 16) (last : Bool) : PortRead :=
      let t := tag.toNat
      let fmt := Fmt.ofCode (bits t 6 4)
      let v : Fin 16 := Fin.ofNat 16 (bits t 3 0)
      let sb := bytesInUse fmt (bits t 8 7)
      .tok ⟨fmt, v, spadRead y.spad (x.data x.delivered) (4 * (v.val + 1)),
        if bit t 15 then some (.ofNat 2 (bits t 8 7), .ofNat 6 (bits t 14 9), x.u, spadRead y.spad (x.scale x.delivered) sb) else none, last⟩
    match x.slots with
    | [] => if x.closed then .over else .wait s
    | [some a] => if x.closed then tok a true else .wait s
    | some a :: some _ :: _ => tok a false
    | _ => .wait s

def State.portRead (s : State) (r : RingAt) (p : Port) : PortRead :=
  match p.fifo with
  | some f => s.portFifo r f
  | none =>
    match p.head with
    | none => .over
    | some (e, t, last) => s.portMem r p e t last

/-- Whether the controller has admitted a cohort that a port may still deliver into: stage 0 stands in region stripe 0, or the intercalary launch
occupies its ring (05 R184, R210). -/
def State.cohortFor (s : State) (r : RingAt) (p : Port) : Bool :=
  let y := s.ring r
  if (s.launch p.launch).ical then y.occupied && y.icalLaunch == some p.launch && p.marked == 0
  else
    match y.regions.find? fun g => g.launches.contains p.launch with
    | none => false
    | some g =>
      let c := (s.stripe (regionStripe r g.page 0)).conf false
      g.cohortOpen && c.launch == p.launch && c.stage == 0 && decide (p.marked < g.cohorts)

/-- Cohorts admitted of a port's launch. -/
def State.cohortsOf (s : State) (r : RingAt) (l : Nat) : Nat :=
  if (s.launch l).ical then 1 else (((s.ring r).regions.find? fun g => g.launches.contains l).map Region.cohorts).getD 0

/-- Whether a launch's region is resident, where its stream is one cohort (05 R183). -/
def Launch.resident (x : Launch) : Bool := x.ical || decide (x.stages ≤ 4 * x.pages * max 1 x.nseg)

def State.setPort (s : State) (r : RingAt) (n : Nat) (p : Port) : State := s.onRing r fun y => { y with ports := tabPut n p y.ports }

/-- The end of a port's cohort or stream (13 R425). -/
def State.portMark (s : State) (r : RingAt) (p : Port) : Port := { p with marked := s.cohortsOf r p.launch }

/-- The map entries that every port still open has passed are dropped (13 R424), but for that of index 0, which is iteration 0 for a port bound
later too. -/
def State.pruneMap (s : State) (r : RingAt) (l : Nat) : State :=
  let open_ := ((s.ring r).ports.map Prod.snd).filter fun p => p.launch == l && !p.ended
  let lo := (open_.map fun p => p.next / (p.gm1 + 1))
  s.onLaunch l fun x => { x with idxMap := x.idxMap.filter fun q => q.1 == 0 || lo.any fun i => decide (i ≤ q.1) }

/-- The iteration of a port's next token: the map's, iteration 0 for index 0, or a new one under the window throttle (13 R424). -/
def State.portIter (s : State) (r : RingAt) (p : Port) : Option (State × BitVec 12) :=
  let x := s.launch p.launch
  let i := p.next / (p.gm1 + 1)
  match tabFind i x.idxMap with
  | some v => some (s, v)
  | none =>
    if x.canGrant p.launch r.die s.fc then
      let v := x.alloc0.next
      some ((s.allocIter p.launch r.die false).onLaunch p.launch fun x => { x with idxMap := tabPut i v x.idxMap }, v)
    else none

/-- STRM_NO_TARGET (13 R420, R439). -/
def State.noTarget (s : State) (r : RingAt) (p : Port) : State :=
  s.takeFault r.die (some r.ring) (s.launchQueue p.launch) 0 ⟨0x51, 4, 1, p.num * 2 ^ 8 + p.slot.val * 2 ^ 4 + p.chan.val⟩ (s.portSite r p.launch)

/-- Whether a port's element takes its tokens. -/
def State.hasTarget (s : State) (r : RingAt) (p : Port) : Bool :=
  let e := s.portElem r p
  ((s.stripe e.at_).conf (s.launch p.launch).ical).present.getLsbD p.slot.val && (!isMSlot p.slot.val || p.chan == 0)

/-- Put a token of a port into its queue; none while it has no credit. -/
def State.portPut (s : State) (r : RingAt) (p : Port) (t : Token) : Option State :=
  let e := s.portElem r p
  let ical := (s.launch p.launch).ical
  (s.arrive e ical p.chan t true false).map fun s => s.seeEos e.at_ ical (8 * e.slot.val + p.chan.val) t

/-- Deliver the token read, once its iteration, its scale entry and its credit are there (13 R424, R425). -/
def State.portToken (s : State) (r : RingAt) (n : Nat) (p : Port) (y : PortTok) : State :=
  let x := s.launch p.launch
  let e := s.portElem r p
  let ctx := ((s.stripe e.at_).conf x.ical).ctx
  match s.portIter r p with
  | none => s
  | some (s, v) =>
    let ends := y.last || (!x.resident && (p.next + 1) % x.dwell == 0)
    let body := wordsReg y.fmt y.vlen (bytesWords (y.vlen.val + 1) y.data)
    let w : SclWait := ⟨ctx, p.launch, v, s.fc, e.key, x.ical, .port n⟩
    let go (s : State) (b : Reg) : State :=
      match s.portPut r p ⟨b, ctx, v, ends, false, false⟩ with
      | none => s
      | some s' =>
        let p' := { (if p.fifo.isSome then p else p.advance) with next := p.next + 1, ended := y.last, lastIter := v }
        let p' := if ends then s.portMark r p' else p'
        let s' := s'.onRing r fun q =>
          { q with
            fifos := match p.fifo with
              | some f => q.fifos.map fun z => if z.1 = f.val then (z.1, { z.2 with slots := z.2.slots.drop 1, delivered := z.2.delivered + 1 }) else z
              | none => q.fifos,
            strmRd := q.strmRd + .ofNat 64 (y.data.length + (y.scale.map fun z => z.2.2.2.length).getD 0) }
        let s' := (s'.setPort r n p').pruneMap r p.launch
        match p.fifo with
        | some f => s'.onRing r (Ring.reap f.val)
        | none => s'
    match y.scale with
    | none => go s body
    | some (blk, cb, u, sc) =>
      let c := (s.ring r).scl
      if s.queueFree e x.ical p.chan = 0 then s
      else if c.canAlloc ctx then
        let a := c.alloc ⟨true, ctx, 0, u, y.fmt, blk, cb, v, .ofNat 12 p.launch, sc⟩
        go (s.onRing r fun q => { q with scl := a.2.2.waitOff w.elem x.ical w.who }) { body with bind := .ofNat 11 a.1, bgen := a.2.1 }
      else s.onRing r fun q => { q with scl := c.waitOn w }

/-- The end mark of a port whose stream has ended (13 R425). -/
def State.endMark (s : State) (r : RingAt) (n : Nat) (p : Port) : State :=
  let x := s.launch p.launch
  let e := s.portElem r p
  let ctx := ((s.stripe e.at_).conf x.ical).ctx
  let t : Token := Token.asKill ⟨Reg.zero, ctx, p.lastIter, true, false, false⟩
  match s.portPut r p t with
  | none => s
  | some s' => s'.setPort r n (s.portMark r p)

/-- One delivery of a port, or the fault of its first where its element takes none (13 R420). -/
def State.portStep (s : State) (r : RingAt) (n : Nat) : State :=
  match tabFind n (s.ring r).ports with
  | none => s
  | some p =>
    let l := s.launch p.launch
    if l.cancelled ∨ l.faulted ∨ !s.cohortFor r p then s
    else
      match if p.ended then .over else s.portRead r p with
      | .wait s => s
      | .over => if s.hasTarget r p then State.endMark (s.setPort r n { p with ended := true }) r n { p with ended := true } else s.noTarget r p
      | .tok y => if s.hasTarget r p then s.portToken r n p y else s.noTarget r p

/-- A token of a bound launch has been read at one of its ports, or one of them holds none: it wakes the loader (05 R201, 13 R425, R426). A port that has to
wait takes its walk. -/
def State.firstToken (s : State) (l : Nat) : State :=
  let x := s.launch l
  let r : RingAt := ((x.segs.head?).map fun g => (⟨g.die, g.ring⟩ : RingAt)).getD ⟨0, 0⟩
  let ps := ((s.ring r).ports.map Prod.snd).filter fun p => p.launch == l && p.next == 0 && !p.ended
  if x.state ≠ .bound ∨ x.woken then s
  else
    ps.foldl (fun s p =>
      match s.portRead r p with
      | .wait s => s
      | .tok _ => s.onLaunch l fun y => { y with woken := true }
      | .over => s.onLaunch l fun y => { y with woken := true }) s

/-! ### The rows -/

/-- SOPEN (13 R428). -/
def execSopen (p : Params) (s : State) : Result := .next (s.sopen p)
/-- SCLOSE (13 R428). -/
def execSclose (p : Params) (s : State) : Result := .next (s.sclose p)
/-- SRDH (13 R428). -/
def execSrdh (p : Params) (s : State) : Result := .next (s.srdh p)
/-- SWRH (13 R428). -/
def execSwrh (p : Params) (s : State) : Result := .next (s.swrh p)
/-- SCOPY (13 R430). -/
def execScopy (p : Params) (s : State) : Result := .next (s.scopy p)
/-- SSTRIDE (13 R429). -/
def execSstride (p : Params) (s : State) : Result := .next (s.sstride p)
/-- SGATH (13 R431). -/
def execSgath (p : Params) (s : State) : Result := .next (s.sgath p)
/-- SSCAT (13 R431). -/
def execSscat (p : Params) (s : State) : Result := .next (s.sscat p)
/-- SLDBS (13 R428). -/
def execSldbs (p : Params) (s : State) : Result := .next (s.sldbs p)
/-- SSYNC (13 R417). -/
def execSsync (p : Params) (s : State) : Result := .next (s.ssync p)
/-- SSYNCW (13 R416). -/
def execSsyncw (p : Params) (s : State) : Result := .next (s.ssyncw p)
/-- SINGRESS (13 R423). -/
def execSingress (p : Params) (s : State) : Result := .next (s.singress p)
/-- SSTAT (13 R433). -/
def execSstat (p : Params) (s : State) : Result := .next (s.sstat p)
/-- SABORT (13 R432). -/
def execSabort (p : Params) (s : State) : Result := .next (s.sabort p)
/-- SSYNC_MET (13 R417). -/
def execSsyncMet (r : RingAt) (n : Nat) (s : State) : Result := .next (s.syncStep r n)
/-- STREAM_TRANSFER_DONE (13 R427, R435). -/
def execStreamTransferDone (r : RingAt) (n : Nat) (s : State) : Result := .next (s.transferStep r n)
/-- PORT_DELIVER (13 R425). -/
def execPortDeliver (r : RingAt) (port : Fin 64) (s : State) : Result := .next (s.portStep r port.val)
/-- INGRESS_LIST_CHECK (13 R421). -/
def execIngressListCheck (die : Fin 4) (entry : BitVec 12) (s : State) : Result := .next (s.ingressList (launchKey die entry.toNat))
/-- INGRESS_FIRST_TOKEN (13 R426). -/
def execIngressFirstToken (die : Fin 4) (entry : BitVec 12) (s : State) : Result := .next (s.firstToken (launchKey die entry.toNat))

end Sys2Proof.Machine
end

