-- ==== Sys2Proof/Machine/Region.lean ====
section
/-! DEFINITION. Regions (05 R176-R196): their waves, the drain conditions D1 to D6, the ring's schedule, save records, placement and removal. -/

namespace Sys2Proof.Machine

/-! ### Places -/

def Ring.atPage (r : Ring) (q : Fin 8) : Option Region := r.regions.find? fun g => g.page == q
def State.onRegion (s : State) (r : RingAt) (q : Fin 8) (f : Region → Region) : State :=
  s.onRing r fun x => { x with regions := x.regions.map fun g => if g.page = q then f g else g }
def Region.places (g : Region) (r : RingAt) : List StripeAt := (List.range g.stripes).map (regionStripe r g.page)

/-- The `n` pages from page `q`, going round after page 7. -/
def pagesFrom (q n : Nat) : List Nat := (List.range n).map fun i => (q + i) % 8
def Region.pageList (g : Region) : List Nat := pagesFrom g.page.val g.pages

/-- Pages that no region of a ring owns. -/
def Ring.freePages (r : Ring) : List Nat := (List.range 8).filter fun q => !r.regions.any fun g => g.pageList.contains q

/-- The islands of a die (16 R476): one never touched is on, and not forced. -/
def Die.island (x : Die) (n : Nat) : Island := tabGet ⟨false, 0⟩ n x.islands

/-- The island of a page: the 32 page islands come first, then the others in the order of the manual's list (log 35). -/
def pageIsland (ring : Fin 4) (page : Fin 8) : Nat := 8 * ring.val + page.val

/-- Set the state of an island. -/
def Die.setIsland (n : Nat) (st : BitVec 2) (x : Die) : Die := { x with islands := tabPut n { x.island n with state := st } x.islands }

/-- The islands of the pages that are placed wake. -/
def State.wakePages (s : State) (r : RingAt) : State :=
  let free := (s.ring r).freePages
  s.onDie r.die fun x =>
    (List.range 8).foldl (fun x q =>
      let n := pageIsland r.ring (Fin.ofNat 8 q)
      if !free.contains q ∧ (x.island n).state = 1 then x.setIsland n 0 else x) x

/-- The place of a record at a stripe, with the element and slot that it names. -/
def State.stripeSite (s : State) (p : StripeAt) (slot islot : Nat) (named : Bool) (plane : Nat) (stage : BitVec 16) (pasid : BitVec 20)
    (ctx : BitVec 6) (iter : Option (BitVec 12)) : FRec :=
  { ((s.place ⟨p, 0⟩ false none).tags pasid ctx iter) with
    plane := .ofNat 2 plane, vstage := stage, elem := .ofNat 4 slot, islot := .ofNat 4 islot, slotValid := named }

/-! ### Waves (05 R183, R189, R201, R204; 15 R468) -/

/-- T: the stripes that a round takes. -/
def Launch.total (x : Launch) : Nat := 4 * x.pages * max 1 x.nseg
def Launch.rounds (x : Launch) : Nat := (x.stages + x.total - 1) / max 1 x.total

/-- The number of a launch's segment on a die. -/
def segOf (l : Nat) (d : Fin 4) : Nat := d.val - l / 4096

/-- The launch and stage that stripe `i` of a region on die `d` hosts in a wave; none for the empty image, which a launch that was cancelled or
has ended yields too. -/
def State.waveStage (s : State) (w : Option Nat × Nat) (d : Fin 4) (i : Nat) : Option (Nat × Nat) :=
  match w.1 with
  | none => none
  | some l =>
    let x := s.launch l
    let st := w.2 * x.total + segOf l d * (4 * x.pages) + i
    if st < x.stages ∧ !x.cancelled ∧ !x.faulted ∧ x.state ≠ .done ∧ x.state ≠ .free then some (l, st) else none

/-- What a stripe of a region hosts next, once that is decided. -/
def Region.next (g : Region) (s : State) (r : RingAt) (i : Nat) : Option (Option (Nat × Nat)) :=
  (g.plan[(s.stripe (regionStripe r g.page i)).swaps]?).map fun w => s.waveStage w r.die i

/-! ### D1 (05 R188, 13 R420) -/

/-- The routed input channels and pass registers of a stripe's plane. -/
def State.routedAt (s : State) (p : StripeAt) (ical : Bool) : List Nat :=
  let c := (s.stripe p).conf ical
  let own := (c.routes.map BitVec.toNat).take 112
  let n := c.stage.toNat
  ((own.filter fun r => routeKind r == 1).map fun r => 8 * routeSlot r + routeChan r) ++
  ((own.filter fun r => routeKind r == 3).map fun r => 128 + routeSlot r) ++
  if n = 0 then ((s.ring p.ring).ports.filter fun q => q.2.launch == c.launch).map fun q => 8 * q.2.slot.val + q.2.chan.val
  else ((tabFind (n - 1) (s.launch c.launch).notes).map StageNote.feeds).getD []

def State.goneLaunch (s : State) (l : Nat) : Bool := (s.launch l).cancelled || (s.launch l).faulted

/-- D1. The empty image meets it at once; a cancelled launch needs no cohort end (05 R204). -/
def State.d1 (s : State) (p : StripeAt) (ical : Bool) : Bool :=
  let st := s.stripe p
  (st.cfg ical).isNone || s.goneLaunch (st.conf ical).launch ||
    (s.routedAt p ical).all fun n => (if ical then st.eosSeenI else st.eosSeen).contains n

/-! ### D2 (05 R188, R190; 11 R369) -/

/-- A settled token of the outgoing configuration: where it stands (05 R221), its number, and what its record names. -/
structure Settled where
  kind : Nat
  num : Nat
  slot : Nat
  islot : Nat
  named : Bool
  iter : Option (BitVec 12)
  deriving DecidableEq, Repr

/-- What an element holds of the outgoing configuration where it has settled: matching-store entries by their number, queued tokens by channel, and
as the datapath open accumulator rows by row (11 R369) and the ticket queue and open grants of a J-element by their number (12 R383; log 48). -/
def elemSettled (x : Elem) (slot : Nat) : List Settled :=
  let at_ (kind num islot : Nat) (v : BitVec 12) : Settled := ⟨kind, num, slot, islot, true, some v⟩
  let entries := ((x.halves.filter fun h => !h.ical).map fun h => h.tok.iter) ++ (x.ready.filter fun p => !p.ical).map fun p => p.a.iter
  let queued := (List.range 8).flatMap fun c => (x.inq[c % 8]'(Nat.mod_lt _ (by decide))).map fun t => at_ 1 c 0 t.iter
  let opens := (x.active.tickets.map fun t => t.tok.iter) ++ x.active.grants.map Grant.iter
  if isMSlot slot then ((x.main.rows.filter fun r => !x.rowDone false r.2).map fun r => at_ 4 r.1 r.2.desc.val r.2.iter) ++ queued
  else entries.zipIdx.map (fun q => at_ 0 q.2 0 q.1) ++ queued ++ opens.zipIdx.map fun q => at_ 4 q.2 0 q.1

/-- The hops out of a stripe. -/
def hopsOf (p : StripeAt) : List Hop :=
  ((List.range 16).flatMap fun n => (List.range 8).map fun c => .out ⟨⟨p, Fin.ofNat 16 n⟩, Fin.ofNat 8 c⟩) ++
    (List.range 16).map fun n => .pass p (Fin.ofNat 16 n)

def Target.stripe : Target → Option StripeAt
  | .elem e _ => some e.at_
  | .pass p _ => some p
  | _ => none

/-- The stripe before one in its region's wave order. -/
def State.before (s : State) (p : StripeAt) : Option StripeAt :=
  ((s.ring p.ring).regionOf p.stripe.val).map fun g =>
    let i := g.indexOf p.stripe.val
    regionStripe p.ring g.page (if i = 0 then g.stripes - 1 else i - 1)

/-- Tokens in the links into a stripe that its active plane admits, with their targets. -/
def State.linkIn (s : State) (p : StripeAt) : List (Target × LinkTok) :=
  match s.before p with
  | none => []
  | some b =>
    (hopsOf b).flatMap fun h =>
      let tg := s.hopTarget h false
      if tg.stripe = some p then
        ((s.hopTokens h).filter fun t => !t.ical && s.admits p false (s.wraps h false tg) t.par).map fun t => (tg, t)
      else []

/-- Tokens of a chained launch on their way into region stripe 0 of a segment: in flits not yet accepted, and in the receive buffer (15 R464). -/
def State.chainIn (s : State) (p : StripeAt) : Nat :=
  let l := ((s.stripe p).conf false).launch
  let x := s.launch l
  let k := segOf l p.ring.die
  match (s.ring p.ring).regionOf p.stripe.val with
  | some g =>
    if g.indexOf p.stripe.val = 0 ∧ 1 < x.segs.length then
      let sent : Slot → Bool
        | .token l' k' _ t _ => l' == l && k' == k && s.admits p false (k == 0) t.par
        | _ => false
      (((List.range 2).flatMap fun n => tabGet [] (segKey l k) ((s.die p.ring.die).link (Fin.ofNat 2 n)).rx).filter fun q =>
        s.admits p false (k == 0) q.tok.par).length +
      ((s.dies.toList.flatMap fun d => d.links.toList.flatMap Link.unaccepted).filter sent).length
    else 0
  | none => 0

/-- The queue of an element's channel is full: a token for it has settled in its link. -/
def State.blocked (s : State) (tg : Target) : Option Nat :=
  match tg with
  | .elem e c => if s.queueFree e false c = 0 then some c.val else none
  | _ => none

/-- The tokens of the outgoing configuration that have settled in a stripe, and how many have not. Of a stateful element the record takes what has
settled in it, and a V- or J-element's out staging (05 R193, R194); an M-element's array, completed rows, drain queue and staging count
nevertheless (11 R369). -/
def State.standing (s : State) (p : StripeAt) : List Settled × Nat :=
  let st := s.stripe p
  let c := st.conf false
  let all := List.range 16
  let kept (n : Nat) : Bool := c.stateful.getLsbD n
  let el (n : Nat) : Elem := s.elem ⟨p, Fin.ofNat 16 n⟩
  let stood := (all.filter fun n => !kept n).flatMap fun n => elemSettled (el n) n
  let pass := (List.range 16).flatMap fun n =>
    ((st.pass[n % 16]'(Nat.mod_lt _ (by decide))).filter fun t => !t.ical).map fun t => (⟨2, n, 0, 0, false, some t.tok.iter⟩ : Settled)
  let staged := (all.filter fun n => !kept n || isMSlot n).flatMap fun n =>
    (List.range 8).flatMap fun k =>
      let h : Hop := .out ⟨⟨p, Fin.ofNat 16 n⟩, Fin.ofNat 8 k⟩
      ((s.hopTokens h).filter fun t => !t.ical).map fun t => (s.hopTarget h false, t)
  let links := staged.filter (fun q => q.1.stripe == some p) ++ s.linkIn p
  let held := links.filterMap fun q => (s.blocked q.1).map fun k => (⟨3, k, 0, 0, false, some q.2.tok.iter⟩ : Settled)
  let moving := (all.map fun n =>
    let x := el n
    (x.steer.filter fun t => !t.ical).length + (x.pend.filter fun t => !t.ical).length + x.main.array.length + x.main.drains.length +
      (x.main.rows.filter fun r => x.rowDone false r.2).length).foldl (· + ·) 0
  let replies := ((allRings.flatMap fun r => (s.ring r).heldReplies).filter fun h => !h.ical && decide ((ElemAt.ofKey h.target).at_ = p)).length
  (stood ++ pass ++ held, (staged.length + (s.linkIn p).length - held.length) + moving + replies + s.chainIn p)

/-- D2. -/
def State.d2 (s : State) (p : StripeAt) : Bool := (s.stripe p).active.isNone || ((s.standing p).1.isEmpty && (s.standing p).2 == 0)

/-! ### D3 to D6 -/

def elemsOf (p : StripeAt) : List ElemAt := (List.range 16).map fun n => ⟨p, Fin.ofNat 16 n⟩

/-- The first element that still owes exit tokens for the configuration's context. -/
def State.owesExit (s : State) (p : StripeAt) (ical : Bool) : Option ElemAt :=
  let c := (s.stripe p).conf ical
  (elemsOf p).find? fun e =>
    let pl := (s.elem e).plane ical
    c.present.getLsbD e.slot.val && decide (pl.exitCount c.ctx < Hdr.exits pl.hdr)

/-- D3. -/
def State.d3 (s : State) (p : StripeAt) (ical : Bool) : Bool :=
  ((s.stripe p).cfg ical).isNone || s.goneLaunch ((s.stripe p).conf ical).launch || (s.owesExit p ical).isNone

/-- D4. -/
def State.d4 (s : State) (p : StripeAt) (ical : Bool) : Bool :=
  (elemsOf p).all fun e =>
    let x := s.elem e
    (if ical then x.owedI else x.owed) == 0 && (x.mpart ical).loading.isEmpty

/-- D6. -/
def State.d6 (s : State) (p : StripeAt) (ical : Bool) : Bool :=
  (elemsOf p).all fun e => (s.elem e).isb.all fun | .held o => o.ical != ical | .parked i _ _ _ _ => i != ical

/-- The save record of a stage. -/
def State.recordOf (s : State) (d : Fin 4) (l stage : Nat) : Option SaveRec :=
  (s.die d).saves.find? fun r => r.launch == l && r.stage.toNat == stage

/-- The shadow plane is ready with an image that still counts: one of a cancelled launch does not (05 R204). -/
def State.shadowOk (s : State) (p : StripeAt) : Bool :=
  let st := s.stripe p
  st.shadowReady && !st.shadow.any fun c => s.goneLaunch c.launch

/-- D5: the leaving stateful elements are saved; the incoming image and its restored state are in the shadow plane. -/
def State.d5 (s : State) (g : Region) (p : StripeAt) : Bool :=
  let st := s.stripe p
  let c := st.conf false
  let leaving := st.active.isSome && decide (c.stateful ≠ 0) && !s.goneLaunch c.launch
  let back := match g.next s p.ring (g.indexOf p.stripe.val) with
    | some (some (l, n)) => (s.recordOf p.ring.die l n).isSome
    | _ => false
  s.shadowOk p && (!leaving || st.saved) && (!back || st.restored.isSome)

/-! ### The end of a stream (05 R201) and the plan of a region's waves -/

/-- Whether the stripe before region stripe 0 in wave order has made its previous swap: the last stripe, which for a chained launch is the last of
its last segment (05 R189, 15 R468). -/
def State.lastSwapped (s : State) (r : RingAt) (g : Region) (n : Nat) (chained : Bool) : Bool :=
  if chained then decide (n ≤ g.predSwaps) else decide (n ≤ (s.stripe (regionStripe r g.page (g.stripes - 1))).swaps)

/-- Stage 0 of a scrolling launch comes round: region stripe 0 stands in the last round, its turn has come and it is drained (05 R201; log 49). -/
def State.comesRound (s : State) (r : RingAt) (g : Region) (l : Nat) : Bool :=
  let p := regionStripe r g.page 0
  s.lastSwapped r g (s.stripe p).swaps (decide (1 < (s.launch l).segs.length)) && s.d1 p false && s.d2 p && s.d3 p false && s.d4 p false && s.d6 p false

/-- The stream of a launch has ended. -/
def State.streamEnded (s : State) (l : Nat) : Bool :=
  let x := s.launch l
  if s.goneLaunch l ∨ x.state = .done then true
  else
    match x.segs.head? with
    | none => false
    | some g0 =>
      let r : RingAt := ⟨g0.die, g0.ring⟩
      let y := s.ring r
      let ended := (y.ports.filter fun p => p.2.launch == l).all fun p => p.2.ended
      let listed := decide (x.ingress.getD [] ≠ [])
      if x.ical then y.occupied && y.icalLaunch == some l && ended && (listed || s.d1 ⟨r, 0⟩ true)
      else
        match y.atPage g0.page with
        | none => false
        | some g =>
          let k := (s.stripe (regionStripe r g.page 0)).swaps
          let here := if k = 0 then none else g.plan[k - 1]?
          if here.any fun w => w.1 == some l then
            decide (1 ≤ g.cohorts) && ended &&
              (listed || if x.resident then s.d1 (regionStripe r g.page 0) false else (here.any fun w => w.2 + 1 == x.rounds) && s.comesRound r g l)
          else (g.plan.take k).any fun w => w.1 == some l

/-- A port of a launch is still open. -/
def State.portsOpen (s : State) (r : RingAt) (l : Nat) : Bool := (s.ring r).ports.any fun p => p.2.launch == l && !p.2.ended

/-- The launch of a region whose waves come next: woken, and not yet in the plan. -/
def State.waiting (s : State) (g : Region) : Option Nat :=
  (g.launches.find? fun l => !g.plan.any fun w => w.1 == some l).filter fun l => (s.launch l).woken

/-- The wave that follows the last one planned, once region stripe 0 has taken that and it can be decided. -/
def State.nextWave (s : State) (r : RingAt) (g : Region) : Option (Option Nat × Nat) :=
  let p0 := regionStripe r g.page 0
  let follow (w : Option (Option Nat × Nat)) : Option (Option Nat × Nat) := match s.waiting g with | some l => some (some l, 0) | none => w
  if (s.stripe p0).swaps < g.plan.length then none
  else
    match g.plan.getLast? with
    | some (some l, n) =>
      let x := s.launch l
      if s.goneLaunch l then follow (some (none, 0))
      else if n + 1 < x.rounds then some (some l, n + 1)
      else if s.streamEnded l && (s.waiting g).isSome then follow none
      else if if x.resident ∨ x.ingress.getD [] ≠ [] then s.d1 p0 false else s.comesRound r g l then
        if !x.resident && s.portsOpen r l then some (some l, 0) else follow (some (none, 0))
      else none
    | _ => follow none

/-- Plan the next wave of a region. A segment of a chained launch other than its first takes the waves of segment 0 (15 R468). -/
def State.planRegion (s : State) (r : RingAt) (g : Region) : State :=
  let lead : Option Region := (g.launches.head?).bind fun l =>
    let x := s.launch l
    if 1 < x.segs.length ∧ segOf l r.die ≠ 0 then (x.segs.head?).bind fun g0 => (s.ring ⟨g0.die, g0.ring⟩).atPage g0.page else none
  match lead with
  | some h => if g.plan.length < h.plan.length then s.onRegion r g.page fun y => { y with plan := h.plan.take (g.plan.length + 1) } else s
  | none =>
    match s.nextWave r g with
    | some w => s.onRegion r g.page fun y => { y with plan := y.plan ++ [w] }
    | none => s

def State.planRing (s : State) (r : RingAt) : State := (s.ring r).regions.foldl (fun s g => s.planRegion r g) s

/-! ### The schedule (05 R189, 15 R468) -/

/-- Whether a stripe is due. -/
def State.due_ (s : State) (r : RingAt) (g : Region) (i : Nat) : Bool :=
  let p := regionStripe r g.page i
  let st := s.stripe p
  let n := st.swaps
  match g.plan[n]? with
  | none => false
  | some w =>
    let prev : Option Nat := if n = 0 then none else (g.plan[n - 1]?).bind Prod.fst
    let l := (w.1.or prev).getD 0
    let chained := decide (1 < (s.launch l).segs.length)
    let first := w.1.isSome && decide (w.2 = 0) && decide (prev ≠ w.1)
    let pred :=
      if 0 < i then decide (n < (s.stripe (regionStripe r g.page (i - 1))).swaps)
      else if chained && segOf l r.die != 0 then decide (n < g.predSwaps)
      else if first then s.shadowOk p
      else s.lastSwapped r g n chained
    pred && s.d1 p false

/-- Add the stripes that have become due, in ring order. -/
def State.schedule (s : State) (r : RingAt) : State :=
  let y := s.ring r
  let new := (List.range 32).filter fun n =>
    !y.schedule.contains (Fin.ofNat 32 n) && (y.regionOf n).any fun g => !g.reqs.any EqReq.forced && s.due_ r g (g.indexOf n)
  s.onRing r fun x => { x with schedule := x.schedule ++ new.map fun n => Fin.ofNat 32 n }

/-- The scroll of a ring can move: no hold of a fault, a link, the die's temperature or an occupation stands (01 R37-R39; 15 R466; 16 R480). -/
def Ring.scrolls (r : Ring) : Bool := r.fholds.isEmpty && !r.linkHold && !r.throttle && !r.stopped && !r.occupied

/-- The head stripe is drained: D2 to D6. -/
def State.drained (s : State) (g : Region) (p : StripeAt) : Bool :=
  s.d2 p && s.d3 p false && s.d4 p false && s.d5 g p && s.d6 p false

/-- A stripe at the head of the schedule that is found not drained holds the scroll until it swaps (01 R37). -/
def State.noteLate (s : State) (r : RingAt) : State :=
  match (s.ring r).schedule with
  | [] => s
  | n :: _ =>
    match (s.ring r).regionOf n.val with
    | some g => if s.drained g ⟨r, n⟩ then s else s.onRing r fun x => { x with late := some n }
    | none => s

/-! ### Tokens and registers of saved state (05 R194, R213; 07 R261) -/

/-- Apply a function to every token of an element and another to every data register. -/
def Elem.mapAll (ft : Token → Token) (fr : Reg → Reg) (x : Elem) : Elem :=
  let pl (p : Plane) : Plane :=
    { p with d := p.d.map fr, tickets := p.tickets.map fun t => { t with tok := ft t.tok } }
  let op (o : MemOp) : MemOp := { o with a := fr o.a, b := fr o.b }
  { x with
    active := pl x.active, inq := x.inq.map fun q => q.map ft, halves := x.halves.map fun h => if h.ical then h else { h with tok := ft h.tok },
    ready := x.ready.map fun p => if p.ical then p else { p with a := ft p.a, b := ft p.b },
    out := x.out.map fun q => q.map fun t => if t.ical then t else { t with tok := ft t.tok },
    steer := x.steer.map fun t => if t.ical then t else { t with tok := ft t.tok },
    isb := x.isb.map fun
      | .held o => if o.ical then .held o else .held (op o)
      | .parked i k a b hs => if i then .parked i k a b hs else .parked i k (ft a) (ft b) (hs.map fun h => (h.1, ft h.2)) }

/-- A body with the CTX under which it refers to a scale entry. -/
abbrev Referrer := BitVec 6 × Reg

def Token.referrer (t : Token) : Referrer := (t.ctx, t.body)

/-- The token bodies of the main planes of an element, and its registers, which stand under its configuration's CTX. -/
def Elem.bodies (c : BitVec 6) (x : Elem) : List Referrer :=
  let halves := (x.halves.filter fun h => !h.ical).map Half.tok
  let pairs := (x.ready.filter fun p => !p.ical).flatMap fun p => [p.a, p.b]
  let outs := (x.out.toList.flatten.filter fun t => !t.ical).map LinkTok.tok
  let steers := (x.steer.filter fun t => !t.ical).map Steered.tok
  let toks := (x.active.tickets.map Ticket.tok) ++ x.inq.toList.flatten ++ halves ++ pairs ++ outs ++ steers ++ x.main.array.map ArrRow.tok
  (x.active.d.toList.map fun b => (c, b)) ++ toks.map Token.referrer ++
  x.isb.flatMap fun
    | .held o => if o.ical then [] else [(o.ctx, o.a), (o.ctx, o.b)]
    | .parked i _ a b _ => if i then [] else [a.referrer, b.referrer]

/-- The entries of the scale file that bodies refer to under their CTX and generation. -/
def Scl.referred (c : Scl) (bs : List Referrer) : Tab SclEntry :=
  c.entries.filter fun e => e.2.bound && bs.any fun b => b.2.fmt.scaled && b.2.bind.toNat == e.1 && b.2.bgen == e.2.gen && b.1 == e.2.ctx

/-- The main-plane part of an element as a record keeps it. -/
def Elem.saved (x : Elem) : Elem :=
  { x with
    halves := x.halves.filter fun h => !h.ical, ready := x.ready.filter fun p => !p.ical, steer := x.steer.filter fun t => !t.ical,
    out := x.out.map fun q => q.filter fun t => !t.ical, pend := x.pend.filter fun p => !p.ical,
    isb := x.isb.filter fun | .held o => !o.ical | .parked i _ _ _ _ => !i }

/-- An element without what its main planes hold in the shared state. -/
def Elem.clearMain (x : Elem) : Elem :=
  { x with
    inq := Vector.replicate 8 [], halves := x.halves.filter fun h => h.ical, ready := x.ready.filter fun p => p.ical,
    steer := x.steer.filter fun t => t.ical, out := x.out.map fun q => q.filter fun t => t.ical, pend := x.pend.filter fun p => p.ical,
    isb := x.isb.filter (fun | .held o => o.ical | .parked i _ _ _ _ => i), main := MPart.empty }

/-- An element without what its intercalary plane holds. -/
def Elem.clearIcal (lfsr : Word) (x : Elem) : Elem :=
  { x with
    ical := Plane.empty lfsr, inqI := Vector.replicate 8 [], halves := x.halves.filter fun h => !h.ical,
    ready := x.ready.filter fun p => !p.ical, steer := x.steer.filter fun t => !t.ical, out := x.out.map fun q => q.filter fun t => !t.ical,
    pend := x.pend.filter fun p => !p.ical, isb := x.isb.filter (fun | .held o => !o.ical | .parked i _ _ _ _ => !i), part := MPart.empty }

/-- Put a record's state back under an element (main planes). -/
def Elem.install (x y : Elem) : Elem :=
  let z := x.clearMain
  { z with
    active := y.active, inq := y.inq, halves := z.halves ++ y.halves, ready := z.ready ++ y.ready, steer := z.steer ++ y.steer,
    out := Vector.ofFn fun c => z.out[c] ++ y.out[c], pend := z.pend ++ y.pend, isb := z.isb ++ y.isb,
    main := { y.main with slabs := [], array := [], loading := y.active.m.preload false } }

/-! ### Save areas (05 R192-R195) -/

/-- Bytes of a stage's record, in blocks of 64 KiB: 8 KiB and 24, 32 or 48 KiB for each stateful element. -/
def recordBlocks (stateful : BitVec 16) : Nat :=
  let kib := (List.range 16).map fun n => if !stateful.getLsbD n then 0 else if n < 10 then 24 else if n < 14 then 32 else 48
  (8 + kib.foldl (· + ·) 0 + 63) / 64

/-- Blocks of a job's save area that are taken: records reserved for its launches and evicted regions. -/
def State.takenBlocks (s : State) (pasid : BitVec 20) : List (Nat × Nat) :=
  (s.allLaunches.flatMap fun p => if p.2.pasid = pasid ∧ p.2.state ≠ .free ∧ p.2.state ≠ .done then p.2.saveAt.map Prod.snd else []) ++
  s.dies.toList.flatMap fun d => (d.evicted.filter fun v => v.region.pasid == pasid).map fun v => (v.block, v.blocks)

/-- The lowest place for `n` consecutive blocks in a save area of `size` blocks (log 45). -/
def findBlocks (size : Nat) (taken : List (Nat × Nat)) (n : Nat) : Option Nat :=
  let starts := 0 :: taken.map fun p => p.1 + p.2
  let ok (b : Nat) : Bool := decide (b + n ≤ size) && taken.all fun p => decide (b + n ≤ p.1) || decide (p.1 + p.2 ≤ b)
  (starts.filter ok).min?

/-- Reserve a record for each stateful stage, in order of stage. -/
def reserve (size : Nat) : List (Nat × Nat) → List (Nat × Nat) → Tab (Nat × Nat) → Option (Tab (Nat × Nat))
  | [], _, t => some t
  | (stage, n) :: r, taken, t =>
    match findBlocks size taken n with
    | some b => reserve size r ((b, n) :: taken) (tabPut stage (b, n) t)
    | none => none

def saveBlocks (j : Job) : Nat := j.sasize.toNat / 65536

/-- The HBM bytes of a record. -/
def recordAt (j : Job) (block : Nat) : Nat := j.sabase.toNat + 65536 * block

/-- The device writes a record: its place holds no software's bytes. The records themselves stand outside memory, so an access to the place finds
zero (log 57). -/
def State.sealArea (s : State) (a n : Nat) : State :=
  { s with
    hbm := s.hbm.filter fun c => decide (c.1 < a) || decide (a + n ≤ c.1),
    hbmKey := s.hbmKey.filter fun c => decide (64 * c.1 + 63 < a) || decide (a + n ≤ 64 * c.1) }

/-- Software has written a place since the device did. -/
def State.altered (s : State) (a n : Nat) : Bool := s.hbmKey.any fun c => decide (a ≤ 64 * c.1 + 63) && decide (64 * c.1 < a + n)

/-- The record of a stripe: all of its elements, or those that `which` names. -/
def State.takeRecord (s : State) (p : StripeAt) (which : BitVec 16) (block blocks : Nat) : SaveRec :=
  let st := s.stripe p
  let c := st.conf false
  let es : Tab Elem := ((List.range 16).filter fun n => which.getLsbD n).map fun n => (n, (s.elem ⟨p, Fin.ofNat 16 n⟩).saved)
  let bodies := (es.flatMap fun e => e.2.bodies c.ctx) ++ (st.pass.toList.flatten.filter fun t => !t.ical).map fun t => t.tok.referrer
  { launch := c.launch, cfg := st.active, seg := segOf c.launch p.ring.die, stage := c.stage, block := block, blocks := blocks, elems := es,
    pass := st.pass.map fun q => q.filter fun t => !t.ical, scales := (s.ring p.ring).scl.referred bodies, eosSeen := st.eosSeen, swaps := st.swaps,
    par := st.par }

/-- The bodies of a ring outside some elements, and outside what the pass registers of some stripes hold for their regions. -/
def State.otherBodies (s : State) (r : RingAt) (out : List ElemAt) (gone : List StripeAt) : List Referrer :=
  ((s.ringElems r).filter fun e => !out.contains e).flatMap (fun e => (s.elem e).bodies ((s.stripe e.at_).conf false).ctx) ++
  (s.stripes.filter fun q => decide ((StripeAt.ofKey q.1).ring = r)).flatMap fun q =>
    (q.2.pass.toList.flatten.filter fun t => t.ical || !gone.contains (StripeAt.ofKey q.1)).map fun t => t.tok.referrer

/-- The saved entries leave the scale file, but for those that something else refers to. -/
def Scl.leave (c : Scl) (saved : Tab SclEntry) (others : List Referrer) : Scl :=
  saved.foldl (fun c e => if (c.referred others).any fun o => o.1 == e.1 then c else c.release e.1 false) c

/-- Save the leaving stateful elements of a stripe at their reserved place (05 R194). -/
def State.saveStripe (s : State) (p : StripeAt) : State :=
  let c := (s.stripe p).conf false
  let place := tabGet (0, 0) c.stage.toNat (s.launch c.launch).saveAt
  let rec_ := s.takeRecord p c.stateful place.1 place.2
  let j := tabGet Job.zero c.pasid.toNat s.jobs
  ((s.sealArea (recordAt j place.1) (65536 * place.2)).onDie p.ring.die fun d =>
    { d with saves := d.saves.filter (fun r => !(r.launch == c.launch && r.stage == c.stage)) ++ [rec_] }).onStripe p fun st => { st with saved := true }

/-- Bindings of a record under new entries: each saved entry is allocated afresh (07 R261). None while an allocation must wait. -/
def rebindAll (ctx : BitVec 6) : Tab SclEntry → Scl → List (Nat × BitVec 5 × Nat × BitVec 5) → Option (Scl × List (Nat × BitVec 5 × Nat × BitVec 5))
  | [], c, m => some (c, m)
  | e :: es, c, m =>
    if c.canAlloc ctx then
      let a := c.alloc { e.2 with ctx := ctx }
      rebindAll ctx es a.2.2 (m ++ [(e.1, e.2.gen, a.1, a.2.1)])
    else none

/-- A body under the new entry of its binding. One that was stale stays so: it names the generation before that of its entry in the file `c`. -/
def rebindReg (c : Scl) (m : List (Nat × BitVec 5 × Nat × BitVec 5)) (b : Reg) : Reg :=
  if b.fmt.scaled then
    match m.find? fun q => q.1 == b.bind.toNat && q.2.1 == b.bgen with
    | some q => { b with bind := .ofNat 11 q.2.2.1, bgen := q.2.2.2 }
    | none => { b with bgen := (tabGet SclEntry.zero b.bind.toNat c.entries).gen - 1 }
  else b

def SaveRec.mapAll (ft : Token → Token) (fr : Reg → Reg) (r : SaveRec) : SaveRec :=
  { r with elems := r.elems.map fun e => (e.1, e.2.mapAll ft fr), pass := r.pass.map fun q => q.map fun t => { t with tok := ft t.tok } }

/-! ### Contexts, placement and removal (05 R178-R180, R200; 03 R90) -/

/-- A job releases its CTX on a ring when it holds nothing there; its codebooks go with it (05 R180, 07 R247). -/
def State.releaseCtx (s : State) (r : RingAt) (pasid : BitVec 20) : State :=
  let y := s.ring r
  let used := (y.regions.any fun g => g.pasid == pasid) || y.icalLaunch.any fun l => (s.launch l).pasid == pasid
  match y.ctxOf pasid with
  | some c =>
    if used then s
    else
      s.onRing r fun x =>
        { x with
          ctxs := tabDel c.toNat x.ctxs, fholds := x.fholds.filter fun h => h.ctx != c,
          scl := { (x.scl.releaseAll fun e => e.ctx == c) with books := x.scl.books.filter fun b => b.2.1 != c } }
  | none => s

/-- The CTX that a job holds, or would receive, on a ring. -/
def Ring.takeCtx (r : Ring) (pasid : BitVec 20) : Option (BitVec 6) :=
  match r.ctxOf pasid with
  | some c => some c
  | none => (lowest (fun n => (tabFind n r.ctxs).isNone) 64).map fun n => .ofNat 6 n

/-- An element as reset, less what its intercalary plane holds. -/
def Elem.freshMain (lfsr : Word) (x : Elem) : Elem :=
  { x.clearMain with active := Plane.empty lfsr, shadow := Plane.empty lfsr, owed := 0 }

/-- Empty the main planes of a stripe. -/
def State.emptyStripe (s : State) (p : StripeAt) : State :=
  let s := s.onStripe p fun st => { Stripe.empty with ical := st.ical, parI := st.parI, eosSeenI := st.eosSeenI }
  s.onElems ((elemsOf p).filter fun e => (tabFind e.key s.elems).isSome) fun e x => x.freshMain (State.elemDefault e).active.lfsr

/-- A region has passed an equinox, or is no more: rewrites of its job's table take effect for it, and one that has reached every region is
answered with its new RELGEN (03 R95). -/
def State.prswPass (s : State) (pasid : BitVec 20) (key : Nat × Nat) : State :=
  match tabFind pasid.toNat s.jobs with
  | none => s
  | some j =>
    let ps := j.prsws.map fun p => { p with left := p.left.filter fun k => k != key }
    let s := { s with jobs := tabPut pasid.toNat { j with prsws := ps.filter fun p => !p.left.isEmpty } s.jobs }
    (ps.filter fun p => p.left.isEmpty).foldl (fun s p => s.answer p.msg 0 (resOf (wordsNat p.words.toList)).relgen 0) s

/-- Remove a region: its stripes stand empty, its pages are free. -/
def State.freeRegion (s : State) (r : RingAt) (g : Region) : State :=
  let s := (g.places r).foldl State.emptyStripe s
  let s := s.onRing r fun x =>
    { x with
      regions := x.regions.filter fun h => h.page != g.page, schedule := x.schedule.filter fun n => !(g.places r).any fun p => p.stripe == n,
      late := x.late.filter fun n => !(g.places r).any fun p => p.stripe == n }
  (s.releaseCtx r g.pasid).prswPass g.pasid (r.num, g.page.val)

/-- Zero the pages that a job did not own last, and note it as their owner (03 R90). -/
def Ring.own (pasid : BitVec 20) (x : Ring) (q : Nat) : Ring :=
  if tabFind q x.owners = some pasid then x
  else
    let lo := 64 * Config.pageUnits * q
    { x with
      owners := tabPut q pasid x.owners, spad := x.spad.filter fun c => decide (c.1 < lo) || decide (lo + 64 * Config.pageUnits ≤ c.1) }

/-- Give a job a region of a ring. -/
def State.placeRegion (s : State) (r : RingAt) (q pages : Nat) (pasid : BitVec 20) (ctx : BitVec 6) : State :=
  let g : Region :=
    { page := Fin.ofNat 8 q, pages := pages, pasid := pasid, ctx := ctx, launches := [], reqs := [], plan := [], cohorts := 0, predSwaps := 0,
      stage0At := 0, cohortOpen := false, counted := false, aside := [] }
  let s := s.onRing r fun x =>
    let x := (pagesFrom q pages).foldl (Ring.own pasid) x
    { x with ctxs := tabPut ctx.toNat pasid x.ctxs, regions := x.regions ++ [g] }
  (g.places r).foldl State.emptyStripe s

/-! ### Images on path C (05 R187, R195; 06 R232) -/

/-- Read `n` stage images of a launch from stage `k` on. -/
inductive ImgRead where
  | images (l : List Image)
  | stop (c : CRead)

def State.readImages (s : State) (d : Fin 4) (x : Launch) (res : Res) (site : FRec) (q : Option (BitVec 20 × BitVec 16)) : Nat → Nat → ImgRead
  | 0, _ => .images []
  | n + 1, k =>
    match s.cRead d x.pasid res (x.ioff.toNat + 64 + 3072 * k) 3072 none q site with
    | .bytes bs => match State.readImages s d x res site q n (k + 1) with | .images l => .images (imageWords bs :: l) | c => c
    | c => .stop c

/-- A job's weight window: the first valid one, by its base and count (05 R179). -/
def Die.window (d : Die) (pasid : BitVec 20) : Option (Nat × Nat) :=
  (d.wswin.find? fun w => w.2.valid && w.2.pasid == pasid).map fun w => (w.2.base.toNat, w.2.count.toNat)

/-- PROC_SPAD_RANGE and PROC_WS_RANGE of an image on a region of `pages` pages (05 R178, R179, R220). -/
def placeFault (win : Option (Nat × Nat)) (pages : Nat) (im : Image) : Option Nat :=
  let descs := [10, 11, 12, 13].flatMap fun slot => if imgPresent im slot then (List.range 4).map fun c => descOf (imgDesc im slot c) else []
  let bad (d : Desc) : Bool :=
    d.valid && match win with | none => true | some w => decide (Config.wsTiles < w.1 + w.2) || decide (w.2 < d.tilebase.toNat + d.tilecnt.toNat)
  if Config.pageUnits * pages < imgSpwbase im + imgSpwsize im then some 0x0304 else if descs.any bad then some 0x0305 else none

/-- The key of an image in a ring's configuration cache. -/
def State.cacheKey (s : State) (x : Launch) (d : Fin 4) (region : Option (Nat × Nat)) (stage page : Nat) : CacheLine :=
  { pasid := x.pasid, iridx := x.iridx, relgen := .ofNat 16 (((s.resource x.pasid region x.iridx.toNat).map Res.relgen).getD 0), ioff := x.ioff,
    stage := .ofNat 16 stage, page := page, wsbase := (((s.die d).window x.pasid).map Prod.fst).getD 0, words := [] }

def CacheLine.same (a b : CacheLine) : Bool :=
  a.pasid == b.pasid && a.iridx == b.iridx && a.relgen == b.relgen && a.ioff == b.ioff && a.stage == b.stage && a.page == b.page && a.wsbase == b.wsbase

/-- The configuration that a plane loads from a cached image. -/
def CacheLine.cfg (c : CacheLine) (launch : Nat) (ctx : BitVec 6) (pasid : BitVec 20) : Cfg :=
  { imgCfg c.words launch ctx pasid with relgen := c.relgen, page := c.page, wsbase := c.wsbase }

/-- Whether a plane of the ring holds a cached image. -/
def State.lineHeld (s : State) (r : RingAt) (c : CacheLine) : Bool :=
  let of (g : Option Cfg) : Bool := g.any fun g =>
    g.pasid == c.pasid && g.stage == c.stage && g.relgen == c.relgen && g.page == c.page && g.wsbase == c.wsbase && (s.launch g.launch).iridx == c.iridx && (s.launch g.launch).ioff == c.ioff
  (List.range 32).any fun n => let st := s.stripe ⟨r, Fin.ofNat 32 n⟩; of st.active || of st.shadow || of st.ical

/-- An image enters the cache, which replaces its least recently used image that no plane holds. -/
def State.cachePut (s : State) (r : RingAt) (c : CacheLine) : State :=
  let y := s.ring r
  let kept := if y.cache.length < 2048 then y.cache
    else match y.cache.find? fun z => !s.lineHeld r z with | some z => y.cache.erase z | none => y.cache.drop 1
  s.onRing r fun x => { x with cache := kept ++ [c] }

/-- A hit makes a line the most recently used. -/
def Ring.touch (x : Ring) (c : CacheLine) : Ring := { x with cache := x.cache.erase c ++ [c] }

/-! ### Slots of a link (15 R463, R464, R471) -/

/-- The segment before one of a launch of `n` segments. -/
def segBefore (n k : Nat) : Nat := (k + n - 1) % max 1 n

/-- What a slot does in the segment that it is for: `g` on the die that receives it. -/
def State.takeSlot (s : State) (d : Fin 4) (ep : Fin 2) (g : Seg) (x : Slot) : State :=
  match x with
  | .token l k code t sc =>
    let r : RxTok := ⟨code, { t with tok := { t.tok with ctx := g.ctx } }, sc⟩
    s.onLink d ep fun y => { y with rx := tabMod [] (segKey l k) (fun q => q ++ [r]) y.rx }
  | .alloc l _ v sp => s.onLaunch l fun y => y.onSeg d fun z => { z with alloc := z.alloc.note v sp }
  | .retire l _ v => s.onLaunch l fun y => y.onSeg d fun z => { z with alloc := z.alloc.retire v }
  | .kill l _ v => s.onLaunch l fun y => y.onSeg d fun z => { z with alloc := z.alloc.kill v }
  | .baseReport _ _ _ _ => s
  | .swapReport _ _ n => s.onRegion ⟨d, g.ring⟩ g.page fun y => { y with predSwaps := n }
  | .count l k n => s.onLink d ep fun y => { y with free := tabMod 64 (segKey l k) (fun m => m + n) y.free }

/-- The segment that a slot goes to, of a launch of `n` segments. A count goes to the segment that sends into the buffer it names. -/
def Slot.dest (n : Nat) : Slot → Nat
  | .token _ k _ _ _ => k
  | .alloc _ k _ _ => k
  | .retire _ k _ => k
  | .kill _ k _ => k
  | .baseReport _ k _ _ => k
  | .swapReport _ k _ => k
  | .count _ k _ => segBefore n k

/-- What a launch still has on its way over the links reaches its segments at once, the nearest to each first (15 R471). -/
def State.landSlots (s : State) (l : Nat) : State :=
  let n := (s.launch l).segs.length
  let up := (List.range 4).reverse.flatMap fun d => ((s.die (Fin.ofNat 4 d)).link 1).unaccepted
  let down := (List.range 4).flatMap fun d => ((s.die (Fin.ofNat 4 d)).link 0).unaccepted
  ((up ++ down).filter fun x => x.launch == l).foldl (fun s x =>
    let k := x.dest n
    let src := match x with | .count _ k _ => k | _ => segBefore n k
    match s.segPlace l k, s.segPlace l src with
    | some g, some h => s.takeSlot g.die (endpointTo g.die h.die) g x
    | _, _ => s) s

/-- The receive buffer of a segment. -/
def State.rxOf (s : State) (l : Nat) (d : Fin 4) : List RxTok :=
  (s.die d).links.toList.flatMap fun k => tabGet [] (segKey l (segOf l d)) k.rx

/-- Put back the receive buffer of a segment of `n`, whose sender's count follows it. -/
def State.putRx (s : State) (l n k : Nat) (q : List RxTok) : State :=
  let d : Fin 4 := Fin.ofNat 4 (l / 4096 + k)
  let h : Fin 4 := Fin.ofNat 4 (l / 4096 + segBefore n k)
  if n ≤ 1 then s
  else
    (s.onLink d (endpointTo d h) fun y => { y with rx := tabPut (segKey l k) q y.rx }).onLink h (endpointTo h d) fun y =>
      { y with free := tabPut (segKey l k) (64 - q.length) y.free }

end Sys2Proof.Machine
end

