-- ==== Sys2Proof/Machine/Evict.lean ====
section
/-! DEFINITION. Eviction, restore and compaction of regions (03 R128; 05 R211-R214; 13 R436; 15 R471). -/

namespace Sys2Proof.Machine

/-! ### Moving state to another place and context -/

/-- A stripe of a region at its index from page `q` of ring `r`, as its place from page `q'` of ring `r'`; other stripes stay. -/
def moveStripe (r r' : RingAt) (q q' : Fin 8) (n : Nat) (p : StripeAt) : StripeAt :=
  let i := (p.stripe.val + 32 - 4 * q.val) % 32
  if p.ring = r ∧ i < n then regionStripe r' q' i else p

/-- How a move renames element keys and the CTX. -/
structure Move where
  r : RingAt
  r' : RingAt
  q : Fin 8
  q' : Fin 8
  n : Nat
  c : BitVec 6
  c' : BitVec 6

def Move.key (m : Move) (k : Nat) : Nat :=
  let e := ElemAt.ofKey k
  ElemAt.key ⟨moveStripe m.r m.r' m.q m.q' m.n e.at_, e.slot⟩

def Move.ctx (m : Move) (c : BitVec 6) : BitVec 6 := if c = m.c then m.c' else c
def Move.tok (m : Move) (t : Token) : Token := { t with ctx := m.ctx t.ctx }
def Move.op (m : Move) (o : MemOp) : MemOp := { o with elem := m.key o.elem, ctx := m.ctx o.ctx, rctx := m.ctx o.rctx, stalled := 0 }

def Move.msg (m : Move) (x : Msg) : Msg :=
  { x with
    ctx := m.ctx x.ctx,
    sender := (match x.sender with | .elem k i n l c v => .elem (m.key k) i n l (m.ctx c) v | y => y),
    reply := x.reply.map fun p => (m.key p.1, p.2), sent := x.sent.map fun p => (p.1, m.tok p.2) }

def Move.plane (m : Move) (p : Plane) : Plane :=
  { p with
    exits := p.exits.map fun q => ((m.ctx (.ofNat 6 q.1)).toNat, q.2), tickets := p.tickets.map fun t => { t with tok := m.tok t.tok },
    grants := p.grants.map fun g => { g with ctx := m.ctx g.ctx },
    amaxHeld := p.amaxHeld.map fun h => { h with ctx := m.ctx h.ctx }, m := { p.m with fill := p.m.fill.map fun f => (m.ctx f.1, f.2) } }

/-- What the main planes of an element hold, under another place and CTX. -/
def Move.elem (m : Move) (x : Elem) : Elem :=
  { x with
    active := m.plane x.active, shadow := m.plane x.shadow, inq := x.inq.map fun q => q.map m.tok,
    halves := x.halves.map fun h => { h with ctx := m.ctx h.ctx, tok := m.tok h.tok },
    ready := x.ready.map fun p => { p with a := m.tok p.a, b := m.tok p.b }, out := x.out.map fun q => q.map fun t => { t with tok := m.tok t.tok },
    steer := x.steer.map fun t => { t with tok := m.tok t.tok }, pend := x.pend.map fun p => { p with ctx := m.ctx p.ctx },
    isb := x.isb.map (fun | .held o => .held (m.op o) | .parked i k a b hs => .parked i k (m.tok a) (m.tok b) (hs.map fun h => (h.1, m.tok h.2))), port := x.port.map m.msg,
    msgq := x.msgq.map m.msg,
    main := { x.main with
      rows := x.main.rows.map fun w => (w.1, { w.2 with ctx := m.ctx w.2.ctx }), array := x.main.array.map fun w => { w with tok := m.tok w.tok },
      drains := x.main.drains.map fun w => { w with ctx := m.ctx w.ctx } } }

/-- A configuration under another first page: its image is placed again (05 R178, R214). -/
def Move.cfg (m : Move) (g : Cfg) : Cfg :=
  { g with
    ctx := m.ctx g.ctx, page := m.q'.val,
    spwbase := .ofNat 32 ((g.spwbase.toNat + Config.pageUnits * (8 + m.q'.val - m.q.val)) % (8 * Config.pageUnits)) }

def Move.fifo (m : Move) (f : Fifo) : Fifo :=
  { f with ctx := m.ctx f.ctx, base := (f.base + 64 * Config.pageUnits * (8 + m.q'.val - m.q.val)) % spadBytes }

def Move.reply (m : Move) (h : HeldReply) : HeldReply := { h with target := m.key h.target, tok := m.tok h.tok, sender := m.key h.sender }

def Move.rec_ (m : Move) (r : SaveRec) : SaveRec :=
  { r with
    cfg := r.cfg.map m.cfg, elems := r.elems.map fun e => (e.1, m.elem e.2), pass := r.pass.map fun q => q.map fun t => { t with tok := m.tok t.tok },
    scales := r.scales.map fun e => (e.1, { e.2 with ctx := m.ctx e.2.ctx }) }

/-- The offset of a scratchpad byte in the share of a region, if it lies there. -/
def shareAt (q : Fin 8) (pages a : Nat) : Option Nat :=
  let o := (a + spadBytes - 64 * Config.pageUnits * q.val) % spadBytes
  if o < 64 * Config.pageUnits * pages then some o else none

/-- The bytes of a share, from its byte 0. -/
def Ring.share (x : Ring) (q : Fin 8) (pages : Nat) : List Host.Cell :=
  (x.spad.filterMap fun c => (shareAt q pages c.1).map fun o => (o, c.2)).foldl (fun m c => cellPut c.1 c.2 m) []

/-- Write a whole share. -/
def Ring.putShare (x : Ring) (q : Fin 8) (pages : Nat) (cells : List Host.Cell) : Ring :=
  { x with
    spad := cells.foldl (fun m c => spadPut m (64 * Config.pageUnits * q.val + c.1) c.2) (x.spad.filter fun c => (shareAt q pages c.1).isNone) }

/-! ### Eviction (05 R211) -/

/-- Whether work of a region's launches is still to be performed before a save: linked operations that can be performed, messages in ports, and
accepted messages (03 R128, 12 R405, 13 R436). -/
def State.unsettled (s : State) (r : RingAt) (g : Region) : Bool :=
  let y := s.ring r
  let mine (m : Msg) : Bool := g.launches.contains m.launch
  (y.linked.any fun o => g.launches.contains o.launch && s.performable r o && !s.opWaits o) ||
  ((g.places r).any fun p => (elemsOf p).any fun e => !(s.elem e).port.isEmpty) ||
  allRings.any fun k =>
    let z := s.ring k
    (z.transfers.any fun t => mine t.msg) || z.streamIn.any mine || (z.sparse.any fun t => mine t.msg) || z.sparseIn.any mine || z.procIn.any mine ||
      z.regions.any fun g => g.reqs.any fun | .peqwait m => mine m | _ => false

/-- Entries of several records, each once. -/
def unionScales (rs : List SaveRec) : Tab SclEntry := (rs.flatMap SaveRec.scales).foldl (fun t e => tabPut e.1 e.2 t) []

/-- Blocks that the records of stateful stages held in planes take. -/
def heldBlocks (x : Launch) (rs : List SaveRec) : Nat :=
  (rs.map fun r => if r.cfg.any fun c => decide (c.stateful ≠ 0) then (tabGet (0, 0) r.stage.toNat x.saveAt).2 else 0).foldl (· + ·) 0

/-- The lowest first page before a region's to which it can move: its own pages count as free. -/
def Ring.lowerPage (y : Ring) (g : Region) : Option Nat :=
  let free := y.freePages ++ g.pageList
  if y.freePages.any fun q => decide (q < g.page.val) then lowest (fun q => (pagesFrom q g.pages).all fun k => free.contains k) g.page.val else none

/-- Bit q is 1 when page q is free. -/
def Ring.freeMask (y : Ring) : Nat := (y.freePages.map fun q => 2 ^ q).foldl (· + ·) 0

/-- Ask the next region in page order, from page `k` on, to move; when none can, the compaction is done. -/
def State.compactNext (s : State) (r : RingAt) (m : Msg) (k : Nat) : State :=
  let y := s.ring r
  let can (q : Nat) : Bool :=
    decide (k ≤ q) && (y.atPage (Fin.ofNat 8 q)).any fun g =>
      (y.lowerPage g).isSome && !g.reqs.any fun | .pevict _ _ => true | _ => false
  match lowest can 8 with
  | some q => s.onRegion r (Fin.ofNat 8 q) fun g => { g with reqs := g.reqs ++ [.pcompact m] }
  | none => s.answer m 0 y.freeMask 0

/-- A region that is saved, or is no more, hands compactions that wait for it on to the next region (05 R215). -/
def State.passCompact (s : State) (r : RingAt) (g : Region) : State :=
  g.reqs.foldl (fun s q => match q with | .pcompact m => s.compactNext r m (g.page.val + 1) | _ => s) s

def EqReq.isWait : EqReq → Bool
  | .peqwait _ => true
  | _ => false

/-- The bodies of a record. -/
def SaveRec.bodies (r : SaveRec) : List Referrer :=
  (r.elems.flatMap fun e => e.2.bodies ((r.cfg.map Cfg.ctx).getD 0)) ++ r.pass.toList.flatten.map fun t => t.tok.referrer

/-- A record restored into a shadow plane goes back to the save area when its region is evicted. -/
def State.unrestore (s : State) (p : StripeAt) : Option SaveRec :=
  (s.stripe p).restored.map fun v => { v with scales := (s.ring p.ring).scl.referred v.bodies }

/-- The scale entries that operations and held replies refer to. -/
def Scl.ofWork (c : Scl) (os : List MemOp) (hs : List HeldReply) : Tab SclEntry :=
  c.referred ((os.flatMap fun o => [(o.ctx, o.a), (o.ctx, o.b)]) ++ hs.map fun h => h.tok.referrer)

/-- Save one segment of a launch, with every launch bound to its region, and free the region. `b` is its place in the save area. Rows in the arrays
of M-elements return to their queues first (01 R35). Waiting translations are withdrawn, and the watch of a WAITA that is saved is installed again when
it is performed (03 R128, 12 R405). -/
def State.evictSeg (s : State) (l : Nat) (gs : Seg) (full : Bool) (b blocks : Nat) : State :=
  let r : RingAt := ⟨gs.die, gs.ring⟩
  match (s.ring r).atPage gs.page with
  | none => s
  | some g =>
    let ps := g.places r
    let s := ((ps.flatMap elemsOf).filter fun e => !(s.elem e).main.array.isEmpty).foldl
      (fun s e => s.squash e false (s.elem e).main.array.length) s
    let y := s.ring r
    let recs := ps.map fun p => s.takeRecord p (.ofNat 16 0xFFFF) b 0
    let backs := ps.filterMap s.unrestore
    let of (k : Nat) : Bool := g.launches.contains k
    let mine (o : MemOp) : Bool := of o.launch
    let inside (k : Nat) : Bool := ps.contains (ElemAt.ofKey k).at_
    let replies := y.heldReplies.filter fun h => inside h.target
    let ops := (y.arriving ++ y.waveBuf ++ y.linked).filter mine
    let watches := y.watches.filter fun w => of w.op.launch
    let early (o : MemOp) : MemOp := { o with watched := o.watched && !watches.any fun w => w.op.id == o.id }
    let work := y.scl.ofWork (ops ++ watches.map Watch.op) replies
    let sc := unionScales (recs ++ backs) ++ work.filter fun e => !(unionScales (recs ++ backs)).any fun f => f.1 == e.1
    let lastHere := !(y.regions.any fun h => h.page != g.page && h.pasid == g.pasid) && !y.icalLaunch.any fun n => (s.launch n).pasid == g.pasid
    let v : Evicted :=
      { launch := l, seg := segOf l gs.die, segment := gs, replies := replies, region := { g with reqs := g.reqs.filter EqReq.isWait, aside := [] },
        bound := g.launches.filterMap fun k => ((s.launch k).seg gs.die).map fun z => (k, z, (s.launch k).state),
        full := full, spad := y.share g.page g.pages, recs := recs, ports := (y.ports.map Prod.snd).filter fun p => of p.launch,
        fifos := y.fifos.filter fun f => of f.2.launch, strides := y.strides.filter fun t => of t.2.1,
        chains := y.chains.filter fun c => of c.launch, arriving := (y.arriving.filter mine ++ y.waveBuf.filter mine).map early,
        linked := (y.linked.filter mine).map early, watches := watches.filter fun w => !ops.any fun o => o.id == w.op.id, ordered := y.ordered.filter of, scales := work,
        rx := g.launches.flatMap fun k => s.rxOf k gs.die,
        books := if lastHere then (y.scl.books.filter fun k => k.2.1 == g.ctx).map fun k => (k.1, k.2.2) else [], block := b, blocks := blocks }
    let out := (s.ringElems r).filter fun e => ps.contains e.at_
    let s := s.onRing r fun x =>
      { g.launches.foldl (fun x k => Ring.unbind k x) x with
        scl := x.scl.leave sc (s.otherBodies r out ps), chains := x.chains.filter fun c => !of c.launch,
        arriving := x.arriving.filter fun o => !mine o, waveBuf := x.waveBuf.filter fun o => !mine o, linked := x.linked.filter fun o => !mine o,
        watches := x.watches.filter fun w => !of w.op.launch, heldReplies := x.heldReplies.filter fun h => !inside h.target }
    let s := s.unwait r (ops.map MemOp.id)
    let j := tabGet Job.zero g.pasid.toNat s.jobs
    let s := backs.foldl (fun s v => s.sealArea (recordAt j v.block) (65536 * v.blocks)) (s.sealArea (recordAt j b) (65536 * blocks))
    ((s.onDie gs.die fun d => { d with evicted := d.evicted ++ [v], saves := d.saves ++ backs }).freeRegion r g).passCompact r g

/-- Take a pending PEVICT off every region. -/
def State.dropEvict (s : State) (m : Msg) : State :=
  let is : EqReq → Bool | .pevict n _ => decide (n = m) | _ => false
  s.onRings allRings fun _ x => { x with regions := x.regions.map fun g => { g with reqs := g.reqs.filter fun q => !is q } }

/-- A schedule as it stands, with the stripes of a region back in the places that they had before. -/
def backInPlace (was now : List (Fin 32)) (mine : Fin 32 → Bool) : List (Fin 32) :=
  (was.filter fun n => mine n || now.contains n) ++ now.filter fun n => !was.contains n

/-- The due stripes of the regions that a forced PEVICT waits for go back to the schedule (05 R211). -/
def State.undoForce (s : State) (m : Msg) : State :=
  s.onRings allRings fun r x =>
    (x.regions.filter fun g => g.reqs.contains (.pevict m true)).foldl (fun x g =>
      let mine (n : Fin 32) : Bool := (g.places r).any fun p => p.stripe == n
      { x with
        schedule := backInPlace g.aside x.schedule mine,
        regions := x.regions.map fun h => if h.page = g.page then { h with aside := [] } else h }) x

/-- Evict a launch: every segment is saved and its region freed, and the launch is EVICTED, with any bound behind it (log 50); without room in the
save area nothing changes. What is on its way over the links is saved with the segments (15 R471). -/
def State.evict (s : State) (l : Nat) (m : Msg) (full : Bool) : State :=
  let x := s.launch l
  let j := tabGet Job.zero x.pasid.toNat s.jobs
  let each := 48 * x.pages + if full then 32 * x.pages else 0
  let places (g : Seg) : List StripeAt := (List.range (4 * x.pages)).map (regionStripe ⟨g.die, g.ring⟩ g.page)
  let held := if full then 0
    else (x.segs.map fun g => heldBlocks x (((places g).map fun p => s.takeRecord p 0 0 0) ++ (places g).filterMap s.unrestore)).foldl (· + ·) 0
  let ls := (x.segs.flatMap fun g => (((s.ring ⟨g.die, g.ring⟩).atPage g.page).map Region.launches).getD []).eraseDups
  match reserve (saveBlocks j) (x.segs.zipIdx.map fun q => (q.2, each)) (s.takenBlocks x.pasid) [] with
  | none => ((s.undoForce m).dropEvict m).refuse m 0x0303
  | some t =>
    let s := ls.foldl State.landSlots s
    let s := ((s.launch l).segs.zipIdx.foldl (fun s q => s.evictSeg l q.1 full (tabGet (0, 0) q.2 t).1 each) s)
    let s := ls.foldl (fun s k => { s with dies := s.dies.map (Die.purge k) }) s
    let s := ls.foldl (fun s k => s.onLaunch k fun y => { y with state := .evicted, segs := [] }) s
    (s.dropEvict m).answer m 0 (each * x.segs.length + held) 0

/-! ### Restore (05 R213, 07 R261) -/

/-- Whether a ring can take back an evicted segment: its codebooks, FIFO and stride-table numbers, and enough ports, are free there. -/
def Ring.takesBack (y : Ring) (v : Evicted) (pasid : BitVec 20) : Bool :=
  (v.books.all fun k => match tabFind k.1 y.scl.books with | none => true | some o => y.job o.1 == pasid) &&
  (v.fifos.all fun f => (tabFind f.1 y.fifos).isNone) && (v.strides.all fun t => (tabFind t.1 y.strides).isNone) &&
  decide (y.ports.length + v.ports.length ≤ 64)

/-- Bind ports to the lowest free ports of a ring (log 45). -/
def Ring.addPorts (ps : List Port) (y : Ring) : Ring :=
  ps.foldl (fun y p => match lowest (fun n => (tabFind n y.ports).isNone) 64 with | some n => { y with ports := tabPut n p y.ports } | none => y) y

/-- Put one saved stripe back under its new place. -/
def State.putRecord (s : State) (m : Move) (i : Nat) (x : SaveRec) : State :=
  let p := regionStripe m.r' m.q' i
  let s := s.onStripe p fun st =>
    { st with active := x.cfg, par := x.par, eosSeen := x.eosSeen, swaps := x.swaps, pass := Vector.ofFn fun n => st.pass[n] ++ x.pass[n] }
  x.elems.foldl (fun s e => s.onElem ⟨p, Fin.ofNat 16 e.1⟩ fun y =>
    { y.install e.2 with owed := e.2.owed, port := y.port ++ e.2.port, msgq := y.msgq ++ e.2.msgq }) s

/-- Restore one evicted segment on a ring from a first page, under a CTX; none while its scale entries must wait. Watches are linked WAITAs again,
whose performance installs them with a fresh first read (12 R405). -/
def State.restoreSeg (s : State) (v : Evicted) (r' : RingAt) (q' : Fin 8) (c' : BitVec 6) : Option State :=
  let g := v.region
  let m : Move := ⟨⟨v.segment.die, v.segment.ring⟩, r', v.segment.page, q', g.stripes, g.ctx, c'⟩
  let recs := v.recs.map m.rec_
  let sc := unionScales recs
  match rebindAll c' (sc ++ v.scales.filter fun e => !sc.any fun f => f.1 == e.1) (s.ring r').scl [] with
  | none => none
  | some (c, bm) =>
    let fr := rebindReg c bm
    let ft (t : Token) : Token := { t with body := fr t.body }
    let fo (o : MemOp) : MemOp := { m.op o with a := fr o.a, b := fr o.b }
    let s := s.placeRegion r' q'.val g.pages g.pasid c'
    let s := s.onRegion r' q' fun h => { g with page := h.page, ctx := c' }
    let s := recs.zipIdx.foldl (fun s e => s.putRecord m e.2 (e.1.mapAll ft fr)) s
    let s := s.onRing r' fun x =>
      let x := Ring.addPorts v.ports (x.putShare q' g.pages v.spad)
      { x with
        scl := { c with books := v.books.foldl (fun t k => tabPut k.1 (c', k.2) t) c.books },
        fifos := v.fifos.foldl (fun t f => tabPut f.1 (m.fifo f.2) t) x.fifos, strides := v.strides.foldl (fun t f => tabPut f.1 f.2 t) x.strides,
        chains := x.chains ++ v.chains.map (fun k => { k with ctx := m.ctx k.ctx }), arriving := x.arriving ++ v.arriving.map fo,
        linked := x.linked ++ v.linked.map fo ++ v.watches.map fun w => { fo w.op with watched := false },
        heldReplies := x.heldReplies ++ v.replies.map fun h => let h := m.reply h; { h with tok := ft h.tok },
        ordered := x.ordered ++ v.ordered }
    let s := s.onDie v.segment.die fun d =>
      { d with
        evicted := d.evicted.filter fun w => !(w.launch == v.launch && w.seg == v.seg),
        saves := d.saves.map fun y => if g.launches.contains y.launch then m.rec_ y else y }
    let s := s.putRx v.launch (s.launch v.launch).nseg v.seg (v.rx.map fun t => { t with tok := { t.tok with tok := m.tok t.tok.tok } })
    some (v.bound.foldl (fun s b => s.onLaunch b.1 fun x =>
      { x with state := b.2.2, segs := x.segs ++ [{ b.2.1 with ring := r'.ring, page := q', ctx := c' }] }) s)

/-! ### Compaction (05 R214) -/

/-- Move a region to a lower first page of its ring. -/
def State.moveRegion (s : State) (r : RingAt) (g : Region) (q : Fin 8) : State :=
  let m : Move := ⟨r, r, g.page, q, g.stripes, g.ctx, g.ctx⟩
  let olds := (g.places r).map fun p => (s.stripe p, (elemsOf p).map fun e => (e, s.elem e))
  let cells := (s.ring r).share g.page g.pages
  let s := (g.places r).foldl State.emptyStripe s
  let s := olds.zipIdx.foldl (fun s o =>
    let p := regionStripe r q o.2
    let s := s.onStripe p fun st =>
      { o.1.1 with
        ical := st.ical, parI := st.parI, eosSeenI := st.eosSeenI, active := o.1.1.active.map m.cfg, shadow := o.1.1.shadow.map m.cfg }
    o.1.2.foldl (fun s e =>
      if (tabFind e.1.key s.elems).isNone then s
      else s.onElem ⟨p, e.1.slot⟩ fun y =>
        let z := m.elem e.2.saved
        { y.install z with shadow := z.shadow, owed := z.owed, main := z.main, port := y.port ++ z.port, msgq := y.msgq ++ z.msgq }) s) s
  let s := s.onRing r fun x =>
    let x := (pagesFrom q.val g.pages).foldl (fun x k => { x with owners := tabPut k g.pasid x.owners }) (x.putShare q g.pages cells)
    { x with
      regions := x.regions.map fun h =>
        { h with
          page := if h.page = g.page then q else h.page,
          aside := h.aside.map fun n => (moveStripe r r g.page q g.stripes ⟨r, n⟩).stripe },
      schedule := x.schedule.map fun n => (moveStripe r r g.page q g.stripes ⟨r, n⟩).stripe,
      late := x.late.map fun n => (moveStripe r r g.page q g.stripes ⟨r, n⟩).stripe,
      fifos := x.fifos.map fun f => if g.launches.contains f.2.launch then (f.1, m.fifo f.2) else f }
  g.launches.foldl (fun s l => s.onLaunch l fun x =>
    { x with segs := x.segs.map fun k => if k.die = r.die ∧ k.ring = r.ring then { k with page := q } else k }) s

end Sys2Proof.Machine
end

