-- ==== Sys2Proof/Machine/Procession.lean ====
section
/-! DEFINITION. The events of the dispatcher and of the procession controllers (05 R176-R214, 06 R232, 08 R306-R308). -/

namespace Sys2Proof.Machine

/-! ### Fetching and loading (05 R187, 06 R232) -/

/-- The launch bound on a ring whose entry is given. -/
def Ring.launchAt (y : Ring) (entry : Nat) : Option Nat :=
  (y.regions.flatMap Region.launches ++ y.icalLaunch.toList).find? fun l => l % 4096 == entry

/-- Where a launch's images are placed on a ring: its region, and the first page. -/
def State.imagePlace (s : State) (r : RingAt) (l : Nat) : Option Region :=
  if (s.launch l).ical then none else (s.ring r).regions.find? fun g => g.launches.contains l

/-- The stripe of a ring that hosts a stage of a launch. -/
def State.hostStripe (s : State) (r : RingAt) (l stage : Nat) : StripeAt :=
  match s.imagePlace r l with
  | some g => regionStripe r g.page (stage % (s.launch l).total % max 1 g.stripes)
  | none => ⟨r, Fin.ofNat 32 stage⟩

/-- A fault of a configuration load: PLANE 2, VSTAGE the stage. -/
def State.loadSite (s : State) (r : RingAt) (l stage elem islot : Nat) (named : Bool) : FRec :=
  let x := s.launch l
  s.stripeSite (s.hostStripe r l stage) elem islot named 2 (.ofNat 16 stage) x.pasid (((x.seg r.die).map Seg.ctx).getD 0) none

/-- The die's part of a procession that a stage belongs to (03 R108, 15 R467). -/
def Launch.partOf (x : Launch) (stage : Nat) : Nat := stage % max 1 x.total / max 1 (4 * x.pages)

/-- The refusals of a stage's route table that the images of its neighbours show (02 R51). -/
def crossHead (x : Launch) (stage : Nat) (im : Image) : List Nat :=
  let n := stageNote im
  let before := if stage = 0 then none else tabFind (stage - 1) x.notes
  if before.any (fun b => b.clash n) ∨ (tabFind (stage + 1) x.notes).any (fun b => n.clash b) then [0x010C] else []

/-- What the other images of its die's part show of a stage's wave words (03 R108): the WSEQs that they carry, and, once all of them are known, the
names that nothing carries (log 23). -/
structure WaveView where
  seqs : List Nat
  whole : Bool
  all : List Nat
  deriving DecidableEq, Repr

def waveView (x : Launch) (stage : Nat) (im : Image) : WaveView :=
  let mates := x.notes.filter fun p => p.1 != stage && x.partOf p.1 == x.partOf stage
  let known (k : Nat) : Bool := k == stage || x.partOf k != x.partOf stage || (tabFind k x.notes).isSome
  let seqs := mates.flatMap fun p => p.2.waves.map wSeq
  ⟨seqs, (List.range x.stages).all known, seqs ++ (stageNote im).waves.map wSeq⟩

/-- A wave word that names a WSEQ which no operation of its part carries. -/
def WaveView.dangling (v : WaveView) (w : Word) : Bool := v.whole && (waveNames w).any fun k => !v.all.contains k

/-- The faults of an element's wave words beside the other images of its part. -/
def crossWaves (x : Launch) (stage : Nat) (im : Image) (slot : Nat) : List (Nat × Nat) :=
  let v := waveView x stage im
  (imgWaves im).filterMap fun o => if o.1 = slot ∧ (v.seqs.contains (wSeq o.2.2) ∨ v.dangling o.2.2) then some (o.2.1, 0x0107) else none

/-- The refusals of a stage image that only its launch's other images bring: those of its own routes and wave words, then a WSEQ named by another image
that nothing carries. -/
def crossFault (x : Launch) (stage : Nat) (im : Image) : Option ImgFault :=
  let v := waveView x stage im
  let mates := x.notes.filter fun p => p.1 != stage && x.partOf p.1 == x.partOf stage
  match crossHead x stage im with
  | f :: _ => some ⟨f, 0, 0⟩
  | [] =>
    ((List.range 16).findSome? fun slot => (lowestAt (crossWaves x stage im slot)).map fun f => ⟨f.2, slot, f.1⟩).or
      (if mates.any fun p => p.2.waves.any v.dangling then some ⟨0x0107, 0, 0⟩ else none)

/-- The stateful count (06 R232 step 2): a STATEFUL bit in more distinct stages than NSTATE. -/
def Launch.overState (x : Launch) (stage : Nat) (im : Image) : Bool :=
  imgStateful im != 0 && decide (x.nstate < (x.notes.filter fun p => p.1 != stage && p.2.stateful).length + 1)

/-- The loader status of a fetched image, with the element and slot it names (06 R232). -/
def fetchFault (x : Launch) (stage : Nat) (im : Image) : Option ImgFault :=
  match (imgCheckWith im (stage + 1 == x.stages) x.ical (crossHead x stage im) (crossWaves x stage im)).or (crossFault x stage im) with
  | some f => some f
  | none => if (imgStage im).toNat ≠ stage ∨ x.overState stage im then some ⟨0x010E, 0, 0⟩ else none

/-- What is still to check of a cached image that this launch has not fetched itself (06 R232). -/
def lineFault (x : Launch) (stage : Nat) (im : Image) : Option ImgFault :=
  if (tabFind stage x.notes).isSome then none
  else (crossFault x stage im).or (if x.overState stage im then some ⟨0x010E, 0, 0⟩ else none)

/-- A checked image as placed. -/
def State.placed (s : State) (r : RingAt) (l : Nat) (im : Image) : Image :=
  let page := ((s.imagePlace r l).map fun g => g.page.val).getD 0
  placeImage (Config.pageUnits * page) ((((s.die r.die).window (s.launch l).pasid).map Prod.fst).getD 0) im

/-- The cache key of a stage of a launch on a ring. -/
def State.stageKey (s : State) (r : RingAt) (l stage : Nat) : CacheLine :=
  let g := s.imagePlace r l
  s.cacheKey (s.launch l) r.die (g.map fun g => (r.num, g.page.val)) stage ((g.map fun g => g.page.val).getD 0)

/-- PROC_CFG_FETCH (05 R187, R221): the loader status of a stage's image, with the element and slot it names, SLOT_VALID 1 always (log 58). -/
def State.cfgFault (s : State) (r : RingAt) (l stage : Nat) (f : ImgFault) : State :=
  s.takeFault r.die (some r.ring) (s.launchQueue l) 0 ⟨0x73, 6, 1, stage % 65536 * 65536 + f.status⟩ (s.loadSite r l stage f.elem f.islot true)

/-- Whether a stage of a launch is what a stripe hosts next, or what the intercalary planes take next: another is prefetched (03 R100). -/
def State.wanted (s : State) (r : RingAt) (l stage : Nat) : Bool :=
  match s.imagePlace r l with
  | some g => (List.range g.stripes).any fun i => g.next s r i == some (some (l, stage))
  | none => (s.ring r).icalLaunch == some l && (s.ring r).icalLoaded == stage

/-- A stage image from a resource entry: the state and its bytes, if they are there now. A prefetch stops, without a fault, at a page that it may not
touch. -/
def State.imageBytes (s : State) (r : RingAt) (x : Launch) (e : Res) (off : Nat) (ahead : Bool) (q : Option (BitVec 20 × BitVec 16)) (site : FRec) :
    CRead :=
  let va := vaOf e.base off
  if ahead then
    if e.extent < off + 3072 ∨ e.space ≠ 0 ∨ !e.canFetch ∨ !e.pref ∨ (badVa va 3072).isSome then .wait s
    else
      match s.ahead r.die x.pasid va 3072 with
      | .stop => .wait s
      | .wait s => .wait s
      | .ready =>
        match s.cRead r.die x.pasid e off 3072 (some r.ring) q site with
        | .bytes bs => .bytes bs
        | _ => .wait s
  else s.cRead r.die x.pasid e off 3072 (some r.ring) q site

/-- A stage image that the cache lacks is fetched on path C, checked, placed and entered; a refused one raises PROC_CFG_FETCH. Fetched ahead
of its turn it meets no fault of its entry or its pages (03 R100). -/
def State.configFetch (s : State) (r : RingAt) (entry stage : Nat) : State :=
  match (s.ring r).launchAt entry with
  | none => s
  | some l =>
    let x := s.launch l
    let q := s.launchQueue l
    let site := s.loadSite r l stage 0 0 false
    let key := s.stageKey r l stage
    let off := x.ioff.toNat + 64 + 3072 * stage
    let ahead := !s.wanted r l stage
    let fault (s : State) (f : Flt) (site : FRec) : State := if ahead then s else s.takeFault r.die (some r.ring) q 0 f site
    if s.goneLaunch l ∨ x.stages ≤ stage ∨ (!x.ical ∧ !x.woken) ∨ (s.ring r).cache.any key.same then s
    else
      match (s.resource x.pasid ((s.imagePlace r l).map fun g => (r.num, g.page.val)) x.iridx.toNat).filter Res.usable with
      | none => fault s ⟨0x40, 3, 1, x.iridx.toNat⟩ site
      | some e =>
        if e.extent < off + 3072 then fault s ⟨0x41, 3, 1, off⟩ site
        else if e.space ≠ 0 ∨ !e.canFetch then fault s ⟨0x42, 3, 1, off⟩ site
        else
          match s.imageBytes r x e off ahead q site with
          | .wait s => s
          | .addr va => fault s (fltAddr va) site
          | .noKey => fault s ⟨0x46, 3, 1, e.keyidx⟩ site
          | .bytes bs =>
            let im := imageWords bs
            match fetchFault x stage im with
            | some f => s.cfgFault r l stage f
            | none => (s.cachePut r { key with words := s.placed r l im }).onLaunch l fun y => { y with notes := tabPut stage (stageNote im) y.notes }

/-- CONFIG_FETCH (05 R187, 06 R232). -/
def execConfigFetch (r : RingAt) (entry : BitVec 12) (stage : BitVec 16) (s : State) : Result := .next (s.configFetch r entry.toNat stage.toNat)

/-- The argument block as a token body (05 R182). -/
def argReg (a : Lanes) : Reg := ⟨a, .i32, 15, 0, 0⟩

/-- The plane of an element from a cached image, with the job's weight window, if that is usable (05 R220). -/
def State.planeOf (s : State) (d : Fin 4) (pasid : BitVec 20) (im : Image) (slot : Nat) : Plane :=
  let p := imgPlane im slot
  let w := (((s.die d).window pasid).filter fun w => decide (w.1 + w.2 ≤ Config.wsTiles)).getD (0, 0)
  if isMSlot slot then { p with m := { p.m with wbase := .ofNat 18 w.1, wcount := .ofNat 18 w.2 } } else p

/-- Write the planes of a stripe: `f` puts a plane into an element. An element never touched stays so when its plane is empty. -/
def State.loadPlanes (s : State) (p : StripeAt) (im : Option (Image × BitVec 20)) (f : Elem → Plane → Elem) : State :=
  (elemsOf p).foldl (fun s e =>
    let n := e.slot.val
    match im with
    | some (im, pasid) =>
      if imgPresent im n then s.onElem e fun x => f x (s.planeOf p.ring.die pasid im n)
      else if (tabFind e.key s.elems).isSome then s.onElem e fun x => f x (Plane.empty (lfsrAt (imgStage im).toNat n)) else s
    | none => if (tabFind e.key s.elems).isSome then s.onElem e fun x => f x (Plane.empty (State.elemDefault e).active.lfsr) else s) s

/-- The argument block enters d7 of the J-elements of stage 0 (05 R182). -/
def State.giveArgs (s : State) (p : StripeAt) (ical : Bool) : State :=
  let c := (s.stripe p).conf ical
  if c.stage = 0 ∧ ((s.stripe p).cfg ical).isSome then
    [14, 15].foldl (fun s n =>
      if c.present.getLsbD n then
        s.onElem ⟨p, Fin.ofNat 16 n⟩ fun x => x.setPlane ical { x.plane ical with d := (x.plane ical).d.set 7 (argReg (s.launch c.launch).args) }
      else s) s
  else s

/-- A hit: the line is used and noted, unless the launch's other images refuse it; the line and the state. -/
def State.useLine (s : State) (r : RingAt) (l stage : Nat) : Option CacheLine × State :=
  match (s.ring r).cache.find? (s.stageKey r l stage).same with
  | none => (none, s)
  | some c =>
    match lineFault (s.launch l) stage c.words with
    | some f => (none, s.cfgFault r l stage f)
    | none => (some c, (s.onRing r fun x => x.touch c).onLaunch l fun x => { x with notes := tabPut stage (stageNote c.words) x.notes })

/-- Load the image that a stripe hosts next into its shadow plane, or clear the plane for the empty image. -/
def State.loadShadow (s : State) (p : StripeAt) (g : Region) : State :=
  let r := p.ring
  if s.shadowOk p then s
  else
    match g.next s r (g.indexOf p.stripe.val) with
    | none => s
    | some none => (s.loadPlanes p none fun x q => { x with shadow := q }).onStripe p fun st => { st with shadow := none, shadowReady := true }
    | some (some (l, stage)) =>
      match s.useLine r l stage with
      | (none, s) => s
      | (some c, s) =>
        let s := s.loadPlanes p (some (c.words, g.pasid)) fun x q => { x with shadow := q }
        s.onStripe p fun st => { st with shadow := some (c.cfg l g.ctx g.pasid), shadowReady := true }

/-- Load the next image of the ring's intercalary launch into the intercalary plane of its stripe (05 R209). -/
def State.loadIcal (s : State) (p : StripeAt) (l : Nat) : State :=
  let r := p.ring
  let x := s.launch l
  let stage := p.stripe.val
  match s.useLine r l stage with
  | (none, s) => s
  | (some c, s) =>
    let ctx := ((x.segs.head?).map Seg.ctx).getD 0
    let s := s.loadPlanes p (some (c.words, x.pasid)) fun e q =>
      { e with ical := q, part := { MPart.empty with loading := q.m.preload true } }
    let s := s.onStripe p fun st => { st with ical := some (c.cfg l ctx x.pasid), parI := false, eosSeenI := [] }
    (s.giveArgs p true).onRing r fun y => { y with icalLoaded := y.icalLoaded + 1 }

/-- CONFIG_LOAD. The islands of the pages placed have woken by then (16 R479). -/
def State.configLoad (s : State) (p : StripeAt) : State :=
  let s := (s.wakePages p.ring).planRing p.ring
  let y := s.ring p.ring
  match y.icalLaunch with
  | some l =>
    if !y.occupied ∧ y.icalLoaded = p.stripe.val ∧ p.stripe.val < (s.launch l).stages ∧ !s.goneLaunch l then s.loadIcal p l
    else match y.regionOf p.stripe.val with | some g => s.loadShadow p g | none => s
  | none => match y.regionOf p.stripe.val with | some g => s.loadShadow p g | none => s

/-- CONFIG_LOAD (05 R187, R209): a load is performed whole. -/
def execConfigLoad (p : StripeAt) (s : State) : Result := .next (s.configLoad p)

/-! ### Stateful stages (05 R192-R194) -/

/-- The leaving stateful elements of a due stripe that is otherwise drained are saved. -/
def State.stateSave (s : State) (p : StripeAt) : State :=
  let st := s.stripe p
  match (s.ring p.ring).regionOf p.stripe.val with
  | some g =>
    if st.active.isSome ∧ (st.conf false).stateful ≠ 0 ∧ !st.saved ∧ !s.goneLaunch (st.conf false).launch ∧ s.due_ p.ring g (g.indexOf p.stripe.val) ∧
        s.d2 p ∧ s.d3 p false ∧ s.d4 p false ∧ s.d6 p false ∧ !(s.ring p.ring).occupied then s.saveStripe p
    else s
  | none => s

/-- STATE_SAVE (05 R194). -/
def execStateSave (p : StripeAt) (s : State) : Result := .next (s.stateSave p)

/-- The record of the stage that a stripe hosts next is restored beside its image; an altered one raises PROC_RESTORE. -/
def State.stateRestore (s : State) (p : StripeAt) : State :=
  let st := s.stripe p
  let d := p.ring.die
  match (s.ring p.ring).regionOf p.stripe.val with
  | none => s
  | some g =>
    match g.next s p.ring (g.indexOf p.stripe.val) with
    | some (some (l, stage)) =>
      match s.recordOf d l stage with
      | none => s
      | some v =>
        let j := tabGet Job.zero g.pasid.toNat s.jobs
        if !s.shadowOk p ∨ st.restored.isSome then s
        else if s.altered (recordAt j v.block) (65536 * v.blocks) then
          s.takeFault d (some p.ring.ring) (s.launchQueue l) 0 ⟨0x72, 6, 1, 65536 * v.block⟩
            (s.stripeSite p 0 0 false 2 (.ofNat 16 stage) g.pasid g.ctx none)
        else
          match rebindAll g.ctx v.scales (s.ring p.ring).scl [] with
          | none => s
          | some (c, m) =>
            let fr := rebindReg c m
            let v := v.mapAll (fun t => { t with body := fr t.body }) fr
            ((s.onRing p.ring fun x => { x with scl := c }).onStripe p fun st => { st with restored := some v }).onDie d fun y =>
              { y with saves := y.saves.filter fun w => !(w.launch == l && w.stage.toNat == stage) }
    | _ => s

/-- STATE_RESTORE (05 R194, 07 R261). -/
def execStateRestore (p : StripeAt) (s : State) : Result := .next (s.stateRestore p)

/-! ### The swap (05 R187-R191, 08 R276-R278, 15 R468) -/

/-- An element exchanges its active and shadow planes; a restored one takes its saved state, under the program of the image. -/
def Elem.swap (x : Elem) (saved : Option Elem) : Elem :=
  let z := { x.clearMain with active := x.shadow, shadow := x.active, main := { MPart.empty with loading := x.shadow.m.preload false } }
  match saved with
  | none => z
  | some y =>
    let a := { y.active with iw := x.shadow.iw, tw := x.shadow.tw, k := x.shadow.k, hdr := x.shadow.hdr }
    z.install { y with active := a }

/-- Report a swap of a segment's last stripe to the next segment (15 R468). -/
def State.reportSwap (s : State) (r : RingAt) (g : Region) (i swaps : Nat) : State :=
  match g.launches.head? with
  | none => s
  | some l =>
    let x := s.launch l
    if i + 1 = g.stripes ∧ 1 < x.segs.length then
      let k := (segOf l r.die + 1) % x.segs.length
      match x.segs[k]? with
      | some z => s.sendSlot r.die z.die (.swapReport l k swaps)
      | none => s
    else s

/-- Swap stripe `i` of a region. -/
def State.swapStripe (s : State) (r : RingAt) (g : Region) (i : Nat) : State :=
  let p := regionStripe r g.page i
  let st := s.stripe p
  let old := st.conf false
  let leaving := st.active.isSome && decide (old.stateful ≠ 0) && !s.goneLaunch old.launch
  let s := if leaving then s.saveStripe p else s
  let s := match leaving, s.recordOf r.die old.launch old.stage.toNat with
    | true, some v =>
      s.onRing r fun x => { x with scl := x.scl.leave v.scales (s.otherBodies r ((elemsOf p).filter fun e => old.stateful.getLsbD e.slot.val) []) }
    | _, _ => s
  let s := s.onElems ((elemsOf p).filter fun e => (tabFind e.key s.elems).isSome) fun e x =>
    x.swap (st.restored.bind fun v => tabFind e.slot.val v.elems)
  let s := s.onStripe p fun x =>
    { x with
      active := st.shadow, shadow := none, shadowReady := false, par := !st.par, eosSeen := [], swaps := st.swaps + 1, saved := false,
      restored := none }
  let s := s.giveArgs p false
  let enters := i == 0 && st.shadow.any fun c => c.stage == 0
  let fresh := st.shadow.any fun c => c.launch != old.launch || st.active.isNone
  let s := if enters then s.onRegion r g.page fun y =>
      { y with stage0At := s.fc + 1, cohortOpen := false, cohorts := if fresh then 0 else y.cohorts } else s
  let s := s.onRing r fun x =>
    { x with lastSwap := s.fc + 1, schedule := x.schedule.filter (fun n => n != p.stripe), late := x.late.filter fun n => n != p.stripe }
  s.reportSwap r g i (st.swaps + 1)

/-- The head of a ring's schedule. -/
def State.headOf (s : State) (r : RingAt) : Option (Region × StripeAt) :=
  match (s.ring r).schedule with
  | [] => none
  | n :: _ => ((s.ring r).regionOf n.val).map fun g => (g, ⟨r, n⟩)

/-- STRIPE_SWAP: the schedule is brought up to date, and its head swaps if it is drained, the ring scrolls and no stripe has swapped in this fc. -/
def State.stripeSwap (s : State) (r : RingAt) : State :=
  let s := (s.planRing r).schedule r
  match s.headOf r with
  | none => s
  | some (g, p) =>
    if (s.ring r).scrolls && (s.ring r).lastSwap != s.fc + 1 && s.drained g p then
      State.schedule (State.planRing (s.swapStripe r g (g.indexOf p.stripe.val)) r) r
    else s.noteLate r

/-- STRIPE_SWAP (05 R189) on the focus ring. -/
def execStripeSwap (s : State) : Result := .next (s.stripeSwap s.focus.ring)

/-- A slot of the stripe is eligible for the outgoing context; of an M-element, a row that waits at in0 for its almanac slot or its pick, or a
completed row (11 R362, R363). -/
def State.anyEligible (s : State) (p : StripeAt) : Bool :=
  (elemsOf p).any fun e =>
    let x := s.elem e
    let done (w : AccRow) : Bool := decide (x.active.m.descs[w.desc].kcount.toNat < w.count)
    s.live e false &&
      if isMSlot e.slot.val then (headToken (x.queue false 0)).isSome || x.main.rows.any fun w => done w.2
      else (List.range 16).any fun i => s.eligible e false (Fin.ofNat 16 i)

/-- The head stripe when it cannot drain though D1, D4 and D5 hold, no slot is eligible and no token is on its way (05 R190); its elements are not
stopped by an occupation, by the die's temperature or by a hold of their context. -/
def State.stuckHead (s : State) (r : RingAt) : Option StripeAt :=
  (s.headOf r).bind fun h =>
    let p := h.2
    if (s.stripe p).active.isSome ∧ !s.goneLaunch ((s.stripe p).conf false).launch ∧ !(s.ring r).occupied ∧ !(s.ring r).stopped ∧
        !(s.ring r).holds ((s.stripe p).conf false).ctx ∧ s.d1 p false ∧ s.d4 p false ∧ s.d5 h.1 p ∧
        !s.anyEligible p ∧ (s.standing p).2 = 0 then some p else none

/-- PROC_STRAY_TOKEN (05 R190, R221; 11 R369). -/
def State.strayToken (s : State) (r : RingAt) : State :=
  match s.stuckHead r with
  | none => s
  | some p =>
    let c := (s.stripe p).conf false
    match (s.standing p).1 with
    | f :: _ =>
      if s.d3 p false then
        s.takeFault r.die (some r.ring) (s.launchQueue c.launch) 0 ⟨0x70, 6, 1, f.kind * 2 ^ 32 + f.num⟩
          (s.stripeSite p f.slot f.islot f.named 0 c.stage c.pasid c.ctx f.iter)
      else s
    | [] => s

/-- PROC_STRAY_TOKEN (05 R190) on the focus ring. -/
def execProcStrayToken (s : State) : Result := .next (s.strayToken s.focus.ring)

/-- The lowest slot of an element that holds EXIT, or 0 (10 R347). -/
def exitSlot (p : Plane) (slot : Nat) : Nat :=
  ((List.range 16).find? fun i => (p.trig (Fin.ofNat 16 i)).valid &&
    bits (p.iw[i % 16]'(Nat.mod_lt _ (by decide))).toNat 31 25 == if 14 ≤ slot then 0x20 else 0x70).getD 0

/-- PROC_MISSING_EXIT (05 R190, R221; 10 R347). -/
def State.missingExit (s : State) (r : RingAt) : State :=
  match s.stuckHead r with
  | none => s
  | some p =>
    let c := (s.stripe p).conf false
    match s.owesExit p false with
    | some e =>
      if s.d2 p then
        let pl := (s.elem e).active
        s.takeFault r.die (some r.ring) (s.launchQueue c.launch) 0 ⟨0x71, 6, 1, Hdr.exits pl.hdr * 65536 + pl.exitCount c.ctx⟩
          (s.stripeSite p e.slot.val (if isMSlot e.slot.val then 0 else exitSlot pl e.slot.val) true 0 c.stage c.pasid c.ctx none)
      else s
    | none => s

/-- PROC_MISSING_EXIT (05 R190) on the focus ring. -/
def execProcMissingExit (s : State) : Result := .next (s.missingExit s.focus.ring)

/-! ### Cohorts (05 R184, R197, R201) -/

/-- The code of a state of the dependence table (05 R198). -/
def LState.code : LState → Nat
  | .free => 0 | .wait => 1 | .held => 2 | .ready => 3 | .bound => 4 | .running => 5 | .evicted => 6 | .done => 7

/-- The region word (05 R218). A launch without a region has zero ring, page and CTX, and a chained one those of its first segment (log 61). -/
def State.regionWord (s : State) (l : Nat) : Nat :=
  let x := s.launch l
  let g := x.segs.head?
  x.state.code * 2 ^ 28 + l / 4096 * 2 ^ 26 +
    (match g with | some g => g.ring.val * 2 ^ 24 + g.page.val * 2 ^ 21 + g.ctx.toNat * 2 ^ 11 | none => 0) + (if x.ical then 0 else x.pages) * 2 ^ 17

/-- Once a launch runs, a PRESTORE that waits for that is answered (05 R218). -/
def State.answerRunning (s : State) (l : Nat) : State :=
  let x := s.launch l
  if x.state = .running then
    x.restoring.foldl (fun s m => s.answer m 0 (s.regionWord l) 0) (s.onLaunch l fun y => { y with restoring := [] })
  else s

/-- A BOUND launch runs from now on (05 R198). -/
def State.running (s : State) (l : Nat) : State :=
  State.answerRunning (s.onLaunch l fun x => { x with state := if x.state = .bound then .running else x.state }) l

/-- An equinox request of a region is pending (05 R197). -/
def State.asked (s : State) (r : RingAt) (g : Region) : Bool :=
  !g.reqs.isEmpty || (tabGet Job.zero g.pasid.toNat s.jobs).prsws.any fun p => p.left.contains (r.num, g.page.val)

/-- A cohort enters the region of a launch whose stage 0 stands in region stripe 0, unless the scroll is held: by a head stripe that is not drained,
or was not when it was found due (01 R37). The first makes a BOUND launch RUNNING (log 51), and answers the PRESTORE that restored it. -/
def State.cohortEntry (s : State) (r : RingAt) (entry : Nat) : State :=
  match (s.ring r).regions.find? fun g => g.launches.any fun l => l % 4096 == entry && ((s.stripe (regionStripe r g.page 0)).conf false).launch == l with
  | none => s
  | some g =>
    let p := regionStripe r g.page 0
    let st := s.stripe p
    let c := st.conf false
    let held := match s.headOf r with | some h => !s.drained h.1 h.2 || (s.ring r).late == some h.2.stripe | none => false
    if st.active.isSome ∧ c.stage = 0 ∧ !g.cohortOpen ∧ g.stage0At ≤ s.fc ∧ !s.asked r g ∧ !s.goneLaunch c.launch ∧ (s.ring r).scrolls ∧ !held then
      (s.onRegion r g.page fun y => { y with cohortOpen := true, cohorts := y.cohorts + 1, counted := false }).running c.launch
    else s

/-- COHORT_ENTRY (05 R184). -/
def execCohortEntry (r : RingAt) (entry : BitVec 12) (s : State) : Result := .next (s.cohortEntry r entry.toNat)

/-! ### The equinox (05 R196, R197) -/

/-- The messages that controllers hold until an equinox, a boundary or a frame. -/
def State.heldByControl (s : State) : List Msg :=
  (allRings.flatMap fun r =>
    let y := s.ring r
    y.procIn ++ y.palmw.map Prod.fst ++ y.regions.flatMap fun g => g.reqs.filterMap fun
      | .pphase => none | .peqwait m => some m | .pevict m _ => some m | .pcompact m => some m) ++
  (s.dies.toList.flatMap fun d => (d.phases.flatMap fun p => p.2.pend) ++ d.pwsw.map WsWrite.msg) ++
  (s.jobs.flatMap fun j => j.2.prsws.map Prsw.msg) ++ s.allLaunches.flatMap fun p => p.2.restoring

/-- Every message of a launch has replied, or for SENDN has been accepted, and its operations are performed. -/
def State.settledLaunch (s : State) (l : Nat) : Bool :=
  let sendn := (s.heldByControl.filter fun m => m.reply.isNone && match m.sender with | .elem _ _ _ k _ _ => k == l | _ => false).length
  decide ((s.launch l).owed = sendn)

/-- Every deterministic quantum that holds an iteration has committed (03 R122). -/
def Launch.committed (x : Launch) : Bool := !x.det || x.segs.all fun g => decide (g.alloc.num ≤ g.alloc.quanta * x.quantum)

/-- The region of segment 0 of the launch that a region runs. -/
def State.leadOf (s : State) (g : Region) : Option (RingAt × Region) :=
  (g.launches.head?).bind fun l => ((s.launch l).segs.head?).bind fun g0 => ((s.ring ⟨g0.die, g0.ring⟩).atPage g0.page).map fun h => (⟨g0.die, g0.ring⟩, h)

/-- A region stands at an equinox. A wave of stage 0 that no cohort has entered counts as drained. -/
def State.atEquinox (s : State) (r : RingAt) (g : Region) : Bool :=
  let n0 := (s.stripe (regionStripe r g.page 0)).swaps
  let lead := ((s.leadOf g).map Prod.snd).getD g
  let fresh := !lead.cohortOpen && decide (0 < n0) && (g.plan[n0 - 1]?).any fun w => w.1.isSome && w.2 == 0
  !(s.ring r).occupied &&
  ((g.places r).all fun p =>
    let st := s.stripe p
    (st.active.isNone || (fresh && st.swaps == n0)) && (s.standing p).1.isEmpty && (s.standing p).2 == 0 && s.d6 p false &&
      (elemsOf p).all fun e => (s.elem e).main.loading.isEmpty) &&
  g.launches.all fun l => s.settledLaunch l && (decide ((s.launch l).state ≠ .running) || (s.launch l).committed)

/-- The regions of a chained launch's other segments, which no cohort enters at first, are at a new equinox once they have left the last (05 R196). -/
def State.recount (s : State) (r : RingAt) : State :=
  let other (g : Region) : Bool := (s.leadOf g).any fun h => h.1 != r || h.2.page != g.page
  s.onRing r fun y => { y with regions := y.regions.map fun g => if g.counted && other g && !s.atEquinox r g then { g with counted := false } else g }

/-- Compaction at a region's equinox; a region that an eviction waits for is skipped. -/
def State.compactStep (s : State) (r : RingAt) (g : Region) : State :=
  match g.reqs.findSome? fun | .pcompact m => some m | _ => none with
  | none => s
  | some m =>
    let s := s.onRegion r g.page fun y => { y with reqs := y.reqs.erase (.pcompact m) }
    match (s.ring r).lowerPage g with
    | some q => (s.moveRegion r g (Fin.ofNat 8 q)).compactNext r m (g.page.val + 1)
    | none => s.compactNext r m (g.page.val + 1)

/-- The launch that a message names. -/
def msgLaunch (m : Msg) : Nat := bits m.p.p0.toNat 23 0

/-- Eviction at an equinox: every segment of the launch is at one. -/
def State.evictStep (s : State) (r : RingAt) (q : Fin 8) : State :=
  match ((s.ring r).atPage q).bind fun g => g.reqs.findSome? fun | .pevict m false => some m | _ => none with
  | none => s
  | some m =>
    match s.findLaunch (msgLaunch m) with
    | none => s
    | some l =>
      let x := s.launch l
      let ready (g : Seg) : Bool := ((s.ring ⟨g.die, g.ring⟩).atPage g.page).any fun h => h.launches.contains l && s.atEquinox ⟨g.die, g.ring⟩ h
      if x.segs ≠ [] ∧ x.segs.all ready then s.evict l m false else s

/-- A forced eviction is made once what must be performed first has been (03 R128, 13 R436); not while the region is a frozen victim. -/
def State.forceStep (s : State) (r : RingAt) (q : Fin 8) : State :=
  match ((s.ring r).atPage q).bind fun g => g.reqs.findSome? fun | .pevict m true => some m | _ => none with
  | none => s
  | some m =>
    match s.findLaunch (msgLaunch m) with
    | none => s
    | some l =>
      let x := s.launch l
      let ready (g : Seg) : Bool :=
        let k : RingAt := ⟨g.die, g.ring⟩
        !(s.ring k).occupied && ((s.ring k).atPage g.page).any fun h => h.launches.contains l && !s.unsettled k h
      if x.segs ≠ [] ∧ x.segs.all ready ∧ !s.goneLaunch l then s.evict l m true else s

/-- The first step at an equinox: it is counted, and rewrites of the job's table take effect. -/
def State.equinoxFirst (s : State) (r : RingAt) (g : Region) : State :=
  let s := if g.counted then s else s.onRing r fun x => { x with eqcnt := x.eqcnt + 1 }
  let s := s.onRegion r g.page fun y => { y with counted := true, reqs := y.reqs.filter fun q => q != .pphase }
  s.prswPass g.pasid (r.num, g.page.val)

/-- The steps after the weight-store writes: a compaction move, an eviction, and the PEQWAIT replies. -/
def State.equinoxRest (s : State) (r : RingAt) (g : Region) : State :=
  let waits := g.reqs.filterMap fun | .peqwait m => some m | _ => none
  let s := s.onRegion r g.page fun y => { y with reqs := y.reqs.filter fun | .peqwait _ => false | _ => true }
  let s := match (s.ring r).atPage g.page with | some h => s.compactStep r h | none => s
  let cnt := (s.ring r).eqcnt.toNat
  let s := ((s.ring r).regions.map Region.page).foldl (fun s q => s.evictStep r q) s
  waits.foldl (fun s m => s.answer m 0 (cnt % 2 ^ 32) 0) s

/-- What the controller does at an equinox that ends no phase, in its order. -/
def State.equinoxAt (s : State) (r : RingAt) (g : Region) : State := (s.equinoxFirst r g).equinoxRest r g

/-! ### The phase boundary (05 R205, R206; 11 R356) -/

/-- Write the tiles of a PWSW: its source is read as it stands, and the tiles are enciphered under its key. -/
def State.writeTiles (s : State) (d : Fin 4) (w : WsWrite) : CRead :=
  s.cRead d w.msg.pasid w.res w.off (4096 * w.count) none none { FRec.zero with plane := 3, die := .ofNat 2 d.val, pasid := w.msg.pasid }

/-- The tiles of a write once its bytes are read. -/
def Die.putTiles (key : Option Key) (w : WsWrite) (bs : List Byte) (x : Die) : Die :=
  let ts := (List.range w.count).map fun i => w.tile + i
  { x with
    ws := writeBytes (4096 * w.tile) bs x.ws, wsKey := ts.foldl (fun t n => tabPut n w.keyidx t) x.wsKey,
    wsEnc := ts.foldl (fun t n => tabPut n key t) x.wsEnc }

/-- Perform a job's queued writes on a die in order; a page that is not translated holds the boundary. -/
def State.tilesDue (d : Fin 4) (pasid : BitVec 20) : Nat → State → State × Bool
  | 0, s => (s, true)
  | fuel + 1, s =>
    match (s.die d).pwsw.find? fun w => w.job == pasid with
    | none => (s, true)
    | some w =>
      let drop (s : State) : State := s.onDie d fun x => { x with pwsw := x.pwsw.erase w }
      match s.writeTiles d w with
      | .wait s => (s, false)
      | .addr va =>
        State.tilesDue d pasid fuel
          ((drop s).takeFault d none none 0 (fltAddr va) { FRec.zero with plane := 3, die := .ofNat 2 d.val, pasid := w.msg.pasid })
      | .noKey => State.tilesDue d pasid fuel ((drop s).refuse w.msg 0x030B)
      | .bytes bs =>
        State.tilesDue d pasid fuel (((drop s).onDie d fun x => x.putTiles (s.keyOf w.keyidx.toNat) w bs).answer w.msg 0 w.count 0)

/-- A job's current phase on a die can end. -/
def State.phaseOver (s : State) (d : Fin 4) (pasid : BitVec 20) : Bool :=
  let x := s.die d
  let n := (x.phase pasid).num
  (x.launches.all fun l => l.2.pasid != pasid || decide (l.2.state = .free) || decide (l.2.state = .done) || decide (n < l.2.phase)) &&
  (dieRings d).all fun r => (s.ring r).regions.all fun g => g.pasid != pasid || s.atEquinox r g

/-- A step at the equinox of every region of a job on a die. -/
def State.onJobRegions (s : State) (d : Fin 4) (pasid : BitVec 20) (f : State → RingAt → Region → State) : State :=
  (dieRings d).foldl (fun s r => ((s.ring r).regions.filter fun g => g.pasid == pasid).foldl (fun s g => f s r g) s) s

/-- PHASE_BOUNDARY: the weight-store writes stand between the first step of the equinox and the others (05 R197). -/
def State.phaseBoundary (s : State) (d : Fin 4) (pasid : BitVec 20) : State :=
  let f := (s.die d).phase pasid
  match f.pend with
  | [] => s
  | m :: rest =>
    if s.phaseOver d pasid then
      let t := State.tilesDue d pasid ((s.die d).pwsw.length + 1) (s.onJobRegions d pasid State.equinoxFirst)
      if t.2 then
        let s := t.1.onJobRegions d pasid State.equinoxRest
        let s := s.onDie d fun x => { x with phases := tabPut pasid.toNat ⟨f.num + 1, rest⟩ x.phases }
        (s.promote d).answer m 0 ((f.num + 1) % 2 ^ 32) 0
      else t.1
    else s

/-- EQUINOX: at one that is its job's phase boundary, the boundary is performed. -/
def State.equinox (s : State) (r : RingAt) (q : Fin 8) : State :=
  let s := s.forceStep r q
  match (s.ring r).atPage q with
  | some g =>
    if !s.atEquinox r g then s
    else if ((s.die r.die).phase g.pasid).pend ≠ [] ∧ s.phaseOver r.die g.pasid then s.phaseBoundary r.die g.pasid
    else s.equinoxAt r g
  | none => s

/-- EQUINOX (05 R196, R197); a forced eviction is made here too, without one (R211). -/
def execEquinox (r : RingAt) (page : Fin 8) (s : State) : Result := .next (s.equinox r page)

/-- PHASE_BOUNDARY (05 R205, R206). -/
def execPhaseBoundary (die : Fin 4) (pasid : BitVec 20) (s : State) : Result := .next (s.phaseBoundary die pasid)

/-! ### The end of a launch (01 R31, R32, R39; 03 R124; 05 R204) -/

/-- A launch leaves its regions: they run what is bound behind it, or stand idle. -/
def State.leaveRegions (s : State) (l : Nat) : State :=
  s.onRings allRings fun _ x =>
    { x with
      regions := x.regions.map fun g =>
        if g.launches.contains l then
          { g with launches := g.launches.filter fun k => k != l, plan := g.plan.map fun w => if w.1 = some l then (none, 0) else w }
        else g }

/-- No stripe holds a launch, or has still to take a wave of it. -/
def State.swappedAway (s : State) (l : Nat) (waves : Bool) : Bool :=
  (s.launch l).segs.all fun gs =>
    let r : RingAt := ⟨gs.die, gs.ring⟩
    match (s.ring r).atPage gs.page with
    | none => true
    | some g =>
      (g.places r).all fun p =>
        let st := s.stripe p
        !(st.active.any fun c => c.launch == l) && (!waves || !(g.plan.drop st.swaps).any fun w => w.1 == some l)

/-- An element holds nothing of its intercalary plane. -/
def Elem.icalEmpty (x : Elem) : Bool :=
  (x.inqI.toList.all List.isEmpty) && (x.halves.all fun h => !h.ical) && (x.ready.all fun p => !p.ical) && (x.steer.all fun t => !t.ical) &&
  (x.out.toList.all fun q => q.all fun t => !t.ical) && (x.pend.all fun p => !p.ical) && x.part.rows.isEmpty && x.part.array.isEmpty &&
  x.part.drains.isEmpty && x.ical.tickets.isEmpty && x.ical.grants.isEmpty

/-- The intercalary launch of a ring is drained. -/
def State.icalDrained (s : State) (r : RingAt) : Bool :=
  (List.range 32).all fun n =>
    let p : StripeAt := ⟨r, Fin.ofNat 32 n⟩
    s.d1 p true && s.d3 p true && s.d4 p true && s.d6 p true && (elemsOf p).all fun e => (s.elem e).icalEmpty

/-- A launch is complete: its stream has ended, every stripe is drained of it, and all that it issued is performed. -/
def State.complete (s : State) (l : Nat) : Bool :=
  let x := s.launch l
  decide (x.state = .running) && !s.goneLaunch l && s.streamEnded l && x.committed && decide (x.owed = 0) &&
    if x.ical then x.segs.all fun g => s.icalDrained ⟨g.die, g.ring⟩ else s.swappedAway l true

def State.launchComplete (s : State) (l : Nat) : State :=
  if s.complete l then (((s.answerEvicts l 0x0308).doneLaunch l 0).leaveRegions l) else s

/-- LAUNCH_COMPLETE (01 R31, R32; 03 R124; 05 R204). -/
def execLaunchComplete (die : Fin 4) (entry : BitVec 12) (s : State) : Result := .next (s.launchComplete (launchKey die entry.toNat))

/-- Clear the intercalary planes of a ring. -/
def State.clearIcal (s : State) (r : RingAt) : State :=
  let s := s.onElems (s.ringElems r) fun e x => { x.clearIcal (State.elemDefault e).active.lfsr with owedI := 0 }
  let s := (List.range 32).foldl (fun s n =>
    let p : StripeAt := ⟨r, Fin.ofNat 32 n⟩
    if (tabFind p.key s.stripes).isSome then s.onStripe p fun st => { st with ical := none, parI := false, eosSeenI := [] } else s) s
  (s.onRing r fun y => { y with occupied := false, icalLaunch := none, icalLoaded := 0 }).releaseCtx r (s.ring r).icalPasid

/-- The end of a launch that a cancel or a fault removes. -/
def State.endGone (s : State) (l status : Nat) : State :=
  let x := s.launch l
  let rs := x.segs.map fun g => (⟨g.die, g.ring⟩ : RingAt)
  let s := (s.doneLaunch l status).leaveRegions l
  if x.ical then rs.foldl (fun s r => if (s.ring r).occupied then s else s.clearIcal r) s
  else rs.foldl (fun s r => s.releaseCtx r x.pasid) s

/-- Remove a region of a terminated context (01 R39). A PEQWAIT on it is answered as at an equinox (log 61). -/
def State.removeRegion (s : State) (pasid : BitVec 20) (r : RingAt) (q : Fin 8) : State :=
  match (s.ring r).atPage q with
  | some g =>
    if g.pasid = pasid then
      g.reqs.foldl (fun s q => match q with | .peqwait m => s.answer m 0 ((s.ring r).eqcnt.toNat % 2 ^ 32) 0 | _ => s) ((s.freeRegion r g).passCompact r g)
    else s
  | none => s

/-- A stream or a sparse-update engine holds a message of a launch, which it still performs (13 R436, 14 R456). -/
def State.enginesOwe (s : State) (l : Nat) : Bool :=
  let mine (m : Msg) : Bool := m.launch == l
  (s.launch l).segs.any fun g =>
    let y := s.ring ⟨g.die, g.ring⟩
    y.streamIn.any mine || (y.transfers.any fun t => mine t.msg) || y.sparseIn.any mine || y.sparse.any fun t => mine t.msg

/-- The regions of a terminated context are removed, once the engines have performed what they accepted from it (01 R39; log 61). -/
def State.removeRegions (s : State) (l : Nat) : State :=
  let x := s.launch l
  if x.ical ∨ s.enginesOwe l then s else x.segs.foldl (fun s gs => s.removeRegion x.pasid ⟨gs.die, gs.ring⟩ gs.page) s

/-- A terminating record of a job still waits in its engine: its ring stays held (04 R152). -/
def State.recordWaits (s : State) (pasid : BitVec 20) : Bool :=
  s.dies.toList.any fun d => d.faultWait.any fun f => f.rec_.ctxValid && f.rec_.disp == 1 && f.rec_.pasid == pasid

/-- The idle regions of terminated jobs on a ring are removed once the record is written, but not while they stand frozen (01 R39). -/
def State.removeIdle (s : State) (r : RingAt) : State :=
  if (s.ring r).occupied then s
  else
    ((s.ring r).regions.filter fun g =>
      g.launches.isEmpty && (tabGet Job.zero g.pasid.toNat s.jobs).terminated && !s.recordWaits g.pasid).foldl
      (fun s g => s.removeRegion g.pasid r g.page) s

/-- CANCEL_COMPLETE: a cancel, or the removal of a terminated launch, makes an end. A frozen victim waits for the return (01 R39, 05 R210). -/
def State.cancelComplete (s : State) (l : Nat) : State :=
  let x := s.launch l
  let frozen := !x.ical && x.segs.any fun g => (s.ring ⟨g.die, g.ring⟩).occupied
  let placed := decide (x.state = .bound) || decide (x.state = .running)
  if x.state = .free ∨ x.state = .done ∨ !s.goneLaunch l ∨ frozen ∨ (x.faulted ∧ s.recordWaits x.pasid) then s
  else
    let s := x.segs.foldl (fun s g => s.withdraw l g) (s.cancelLaunch l)
    let s := if x.faulted then s.removeRegions l else s
    let x' := s.launch l
    if !placed ∨ (x'.owed = 0 ∧ !s.enginesOwe l ∧ (x.faulted ∨ x.ical ∨ s.swappedAway l false)) then s.endGone l x'.status.toNat else s

/-- CANCEL_COMPLETE (01 R33, R39; 05 R204). -/
def execCancelComplete (die : Fin 4) (entry : BitVec 12) (s : State) : Result := .next (s.cancelComplete (launchKey die entry.toNat))

/-! ### Binding (05 R178-R180, R195, R200, R201; 15 R467) -/

/-- A place found for a launch. -/
inductive Spot where
  /-- behind a running region, or an idle region (case 1) -/
  | join (r : RingAt) (page : Fin 8)
  /-- a free span for each segment, after reclaiming idle regions -/
  | fresh (at_ : List (RingAt × Nat × BitVec 6)) (reclaim : List (RingAt × Fin 8))
  | ical (r : RingAt) (ctx : BitVec 6)

/-- Ports that a launch's list needs. -/
def Launch.portCount (x : Launch) : Nat := (x.ingress.getD []).length

/-- A place behind a running region of the same job, whose last bound launch has had the end of its stream. -/
def State.spotBehind (s : State) (d : Fin 4) (x : Launch) : Option Spot :=
  (dieRings d).findSome? fun r =>
    if 64 < (s.ring r).ports.length + x.portCount then none
    else
      ((s.ring r).regions.find? fun g =>
        g.pasid == x.pasid && g.pages == x.pages && x.nseg == 1 &&
          match g.launches.getLast? with
          | some l => (s.launch l).nseg == 1 && s.streamEnded l
          | none => false).map fun g => .join r g.page

/-- Case 1: an idle region whose cache holds the launch's first images at the same placement. -/
def State.spotIdle (s : State) (d : Fin 4) (x : Launch) : Option Spot :=
  (dieRings d).findSome? fun r =>
    let y := s.ring r
    if 64 < y.ports.length + x.portCount then none
    else
      (y.regions.find? fun g =>
        g.pasid == x.pasid && g.pages == x.pages && x.nseg == 1 && g.launches.isEmpty &&
          (List.range (min x.stages g.stripes)).all fun k => y.cache.any (s.cacheKey x d (some (r.num, g.page.val)) k g.page.val).same).map fun g =>
        .join r g.page

/-- The first free span of a ring, the idle regions that it takes, and its CTX: the job's own, unless the reclaim releases that; else the lowest that
is free or that the reclaim releases (05 R180, R200). -/
def State.spanOn (s : State) (r : RingAt) (pages : Nat) (pasid : BitVec 20) (ports : Nat) (reclaim : Bool) :
    Option (Nat × BitVec 6 × List (RingAt × Fin 8)) :=
  let y := s.ring r
  let idle := if reclaim then y.regions.filter fun g => g.launches.isEmpty else []
  if 64 < y.ports.length + ports ∨ pages = 0 ∨ 8 < pages then none
  else
    (List.range 8).findSome? fun q =>
      let span := pagesFrom q pages
      let hit := idle.filter fun g => g.pageList.any span.contains
      let free := y.freePages ++ hit.flatMap Region.pageList
      let loses (c : BitVec 6) : Bool :=
        !(y.regions.any fun g => g.ctx == c && !hit.any fun h => h.page == g.page) && !y.icalLaunch.any fun l => (s.launch l).segs.any fun g => g.ctx == c
      let lost := (hit.map Region.ctx).filter loses
      let ctx := match (y.ctxOf pasid).filter fun c => !lost.contains c with
        | some c => some c
        | none => (lowest (fun n => (tabFind n y.ctxs).isNone || lost.contains (.ofNat 6 n)) 64).map fun n => BitVec.ofNat 6 n
      if span.all free.contains then ctx.map fun c => (q, c, hit.map fun (g : Region) => (r, g.page)) else none

/-- Cases 2 and 3 on one die: the lowest ring that has a place. -/
def State.spotFresh (s : State) (d : Fin 4) (x : Launch) (ports : Nat) (reclaim : Bool) : Option (RingAt × Nat × BitVec 6 × List (RingAt × Fin 8)) :=
  (dieRings d).findSome? fun r => (s.spanOn r x.pages x.pasid ports reclaim).map fun p => (r, p.1, p.2.1, p.2.2)

/-- Whether an active plane holds an entry that the intercalary plane's reserve covers (08 R302). -/
def State.reserveHeld (s : State) (r : RingAt) : Bool :=
  (s.ringElems r).any fun e =>
    let x := s.elem e
    ((List.range 8).any fun c => decide (6 < x.entriesOf false (Fin.ofNat 8 c))) || decide (24 < x.stored false)

/-- The ring that takes an intercalary launch. -/
def State.spotIcal (s : State) (d : Fin 4) (x : Launch) : Option Spot :=
  (dieRings d).findSome? fun r =>
    let y := s.ring r
    if y.icalValid ∧ y.icalPasid = x.pasid ∧ y.icalLaunch.isNone ∧ !s.reserveHeld r ∧ y.ports.length + x.portCount ≤ 64 then
      (y.takeCtx x.pasid).map fun c => .ical r c
    else none

/-- The segments of a chained launch are placed together or not at all, each by case 2 on its die (15 R467). -/
def State.spotChain (s : State) (d : Fin 4) (x : Launch) : Option Spot :=
  let at_ := (List.range x.nseg).map fun k => s.spotFresh (Fin.ofNat 4 (d.val + k)) x (if k = 0 then x.portCount else 0) false
  if at_.all Option.isSome then some (.fresh (at_.filterMap fun p => p.map fun q => (q.1, q.2.1, q.2.2.1)) []) else none

/-- The place of R200 for a launch of a die. -/
def State.spot (s : State) (d : Fin 4) (x : Launch) : Option Spot :=
  if x.ical then s.spotIcal d x
  else if 1 < x.nseg then s.spotChain d x
  else
    ((s.spotBehind d x).or (s.spotIdle d x)).or
      (((s.spotFresh d x x.portCount false).or (s.spotFresh d x x.portCount true)).map fun p => .fresh [(p.1, p.2.1, p.2.2.1)] p.2.2.2)

/-- What the checks of placement come to. -/
inductive Placing where
  | wait (s : State)
  | refuse (s : State) (status : Nat)
  | ok (saves : Tab (Nat × Nat))

/-- The records to reserve: one for each stateful stage, and NSTATE of them in all (05 R195, 06 R232). A stage beyond NSTATE is the loader's to
refuse, and a record that no stage claims takes one block (log 52). -/
def Launch.wantRecords (x : Launch) (stateful : List (Nat × Nat)) : List (Nat × Nat) :=
  let own := stateful.take x.nstate
  own ++ (List.range (x.nstate - own.length)).map fun i => (x.stages + i, 1)

/-- The checks of placement on a launch's images (05 R178, R179, R195, R209); an image that the loader refuses is left to it. -/
def State.placing (s : State) (d : Fin 4) (x : Launch) : Placing :=
  let site := { FRec.zero with plane := 3, die := .ofNat 2 d.val, pasid := x.pasid }
  let q := some (x.qid, x.pseq)
  if x.ical ∧ 32 < x.stages then .refuse s 0x030A
  else
    match (imageRes (s.resource x.pasid none x.iridx.toNat)).filter fun e => decide (x.ioff.toNat + 64 + 3072 * x.stages ≤ e.extent) with
    | none => .refuse s 0x0301
    | some e =>
      match s.readImages d x e site q x.stages 0 with
      | .stop (.wait s) => .wait s
      | .stop (.addr va) => .refuse (s.takeFault d none q 0 (fltAddr va) site) 3
      | .stop _ => .refuse s 0x0301
      | .images ims =>
        let seg (k : Nat) : Fin 4 := if x.ical then d else Fin.ofNat 4 (d.val + k % x.total / max 1 (4 * x.pages))
        let good := ims.zipIdx.filter fun p => (imgCheck p.1 (p.2 + 1 == x.stages) x.ical).isNone
        match good.findSome? fun p => placeFault ((s.die (seg p.2)).window x.pasid) (if x.ical then 0 else x.pages) p.1 with
        | some st => .refuse s st
        | none =>
          let j := tabGet Job.zero x.pasid.toNat s.jobs
          let want := (good.filter fun p => imgStateful p.1 != 0).map fun p => (p.2, recordBlocks (imgStateful p.1))
          match reserve (saveBlocks j) (x.wantRecords want) (s.takenBlocks x.pasid) [] with
          | none => .refuse s 0x0303
          | some t => .ok t

/-- The ports of a launch at binding (13 R423-R425). -/
def Launch.newPorts (x : Launch) (l : Nat) : List Port :=
  (x.ingress.getD []).zipIdx.map fun q =>
    let es := q.1.1
    { launch := l, num := q.2, ended := es.all fun e => e.count == 0, fifo := none, next := 0, entries := es, pos := 0, gm1 := q.1.2.2.2, slot := q.1.2.1,
      chan := q.1.2.2.1, lastIter := 0, marked := 0 }

/-- Bind a launch to its segments. -/
def State.bindTo (s : State) (l : Nat) (segs : List Seg) (saves : Tab (Nat × Nat)) (atOnce : Bool) : State :=
  let x := s.launch l
  let ps := x.newPorts l
  let s := match segs.head? with | some g => s.onRing ⟨g.die, g.ring⟩ (Ring.addPorts ps) | none => s
  let s := segs.foldl (fun s g => s.onRegion ⟨g.die, g.ring⟩ g.page fun y => if x.ical then y else { y with launches := y.launches ++ [l] }) s
  s.onLaunch l fun y =>
    { y with
      state := .bound, segs := segs, saveAt := saves, idxMap := [(0, 0)], woken := atOnce || ps.isEmpty || ps.any Port.ended, notes := [] }

/-- Idle regions are reclaimed at their equinox, and their cached images are dropped (05 R200). A compaction that waits for one goes on to the next
region. -/
def State.reclaim (s : State) (ks : List (RingAt × Fin 8)) : State :=
  ks.foldl (fun s k =>
    match (s.ring k.1).atPage k.2 with
    | some g =>
      let s := s.onRegion k.1 k.2 fun h => { h with reqs := h.reqs.filter fun | .pcompact _ => false | _ => true }
      let s := (((s.equinoxAt k.1 g).freeRegion k.1 g).passCompact k.1 g)
      s.onRing k.1 fun y => { y with cache := y.cache.filter fun c => !(c.pasid == g.pasid && c.page == g.page.val) }
    | none => s) s

/-- Whether the idle regions that a place takes stand at an equinox, so that they can be reclaimed. -/
def State.reclaimable (s : State) (ks : List (RingAt × Fin 8)) : Bool :=
  ks.all fun k => ((s.ring k.1).atPage k.2).any fun g => s.atEquinox k.1 g

def Spot.reclaims : Spot → List (RingAt × Fin 8)
  | .fresh _ ks => ks
  | _ => []

/-- Bind a launch at the place found. -/
def State.bindAt (s : State) (l : Nat) (saves : Tab (Nat × Nat)) : Spot → State
  | .join r page =>
    let ctx := (((s.ring r).atPage page).map Region.ctx).getD 0
    s.bindTo l [⟨r.die, r.ring, page, ctx, Alloc.start, 0⟩] saves true
  | .ical r ctx =>
    let s := s.onRing r fun y => { y with ctxs := tabPut ctx.toNat (s.launch l).pasid y.ctxs, icalLaunch := some l, icalLoaded := 0 }
    s.bindTo l [⟨r.die, r.ring, 0, ctx, Alloc.start, 0⟩] saves false
  | .fresh at_ reclaim =>
    let x := s.launch l
    let s := s.reclaim reclaim
    let s := at_.foldl (fun s p => s.placeRegion p.1 p.2.1 x.pages x.pasid p.2.2) s
    s.bindTo l (at_.map fun p => ⟨p.1.die, p.1.ring, Fin.ofNat 8 p.2.1, p.2.2, Alloc.start, 0⟩) saves false

/-- The READY launches of a die in the order of R200: highest PRIO first, then oldest acceptance. -/
def Die.readyLaunches (x : Die) : List Nat :=
  let before (a b : Nat × Launch) : Bool := decide (b.2.prio < a.2.prio) || (a.2.prio == b.2.prio && decide (a.2.order ≤ b.2.order))
  (sortBy before (x.launches.filter fun p => decide (p.2.state = .ready) && p.2.ingress.isSome && !p.2.cancelled && !p.2.faulted)).map Prod.fst

/-- Bind, or refuse at placement, the first READY launch that finds a region; one of each fc. A place that idle regions give waits for their
equinox. -/
def State.dispatchBind (s : State) (d : Fin 4) : State :=
  let x := s.die d
  if x.lastBind = s.fc + 1 then s
  else
    match x.readyLaunches.findSome? fun e => (s.spot d (s.launch (launchKey d e))).map fun t => (launchKey d e, t) with
    | none => s
    | some (l, t) =>
      if !s.reclaimable t.reclaims then s
      else
      let note (s : State) : State := s.onDie d fun y => { y with lastBind := s.fc + 1 }
      match s.placing d (s.launch l) with
      | .wait s => s
      | .refuse s st => (note s).doneLaunch l st
      | .ok saves => (note s).bindAt l saves t

/-- DISPATCH_BIND (05 R200) on the focus die. -/
def execDispatchBind (s : State) : Result := .next (s.dispatchBind s.focus.ring.die)

/-! ### The almanac and intercalary launches (05 R207-R210, 08 R306-R308) -/

/-- Apply a PALMW to the slots that its masks name. -/
def applyPalmw (mask : Dword) (v : Option AlmSlot) (t : Tab AlmSlot) : Tab AlmSlot :=
  (List.range 64).foldl (fun t n => if mask.getLsbD n then (match v with | some a => tabPut n a t | none => tabDel n t) else t) t

def State.almanacUpdate (s : State) (r : RingAt) : State :=
  let y := s.ring r
  if s.fc % 64 = 0 ∧ !y.occupied then
    let s := s.onRing r fun x => { x with almanac := y.palmw.foldl (fun t p => applyPalmw p.2.1 p.2.2 t) x.almanac, palmw := [] }
    y.palmw.foldl (fun s p => s.answer p.1 0 0 0) s
  else s

/-- ALMANAC_UPDATE (05 R208) on the focus ring. -/
def execAlmanacUpdate (s : State) : Result := .next (s.almanacUpdate s.focus.ring)

/-- The images of the intercalary launch are loaded and its first token has arrived: the ring switches. Rows in the arrays commit or go back
(11 R370). -/
def State.icalSwitch (s : State) (r : RingAt) : State :=
  let y := s.ring r
  match y.icalLaunch with
  | some l =>
    let x := s.launch l
    if !y.occupied ∧ y.icalLoaded = x.stages ∧ x.woken ∧ x.state = .bound ∧ !s.goneLaunch l then
      let ms := (s.ringElems r).filter fun e => isMSlot e.slot.val && !(s.elem e).main.array.isEmpty
      ((ms.foldl State.mxFreeze s).onRing r fun y => { y with occupied := true }).onLaunch l fun x => { x with state := .running }
    else s
  | none => s

/-- INTERCALARY_SWITCH (05 R210, 08 R306) on the focus ring. -/
def execIntercalarySwitch (s : State) : Result := .next (s.icalSwitch s.focus.ring)

/-- Launches with a region on a ring whose context has been terminated and not yet removed. -/
def State.terminated (s : State) (r : RingAt) : List Nat :=
  ((s.ring r).regions.flatMap Region.launches).filter fun l => (s.launch l).faulted && decide ((s.launch l).state ≠ .done)

/-- The intercalary launch has ended: the ring switches back. The regions of contexts terminated while they stood frozen are removed, once their
records are written (01 R39); then results and replies held for the other victims are delivered (03 R128). -/
def State.icalReturn (s : State) (r : RingAt) : State :=
  let y := s.ring r
  match y.icalLaunch with
  | some l =>
    let gone := s.terminated r
    if y.occupied ∧ ((s.launch l).segs.isEmpty ∨ !(s.launch l).ical) ∧ gone.all fun k => !s.recordWaits (s.launch k).pasid && !s.enginesOwe k then
      let remove (s : State) (k : Nat) : State :=
        let here := (s.launch k).segs.filter fun g => decide ((⟨g.die, g.ring⟩ : RingAt) = r)
        (here.foldl (fun s g => s.removeRegion (s.launch k).pasid r g.page) (s.cancelLaunch k)).cancelComplete k
      ((gone.foldl remove (s.clearIcal r)).retryResults r).retryReplies r
    else s
  | none => s

/-- INTERCALARY_RETURN (05 R210, 08 R308) on the focus ring. -/
def execIntercalaryReturn (s : State) : Result := .next (s.icalReturn s.focus.ring)

end Sys2Proof.Machine
end

