-- ==== Sys2Proof/Machine/Controller.lean ====
section
/-! DEFINITION. The controller messages (05 R205-R218; 03 R95, R100): each is the message in focus, performed by its dispatcher or controller. -/

namespace Sys2Proof.Machine

/-! ### Who sends, and what a message names (05 R216, R218) -/

/-- A message comes from a kernel queue's relay packet. -/
def State.fromKernel (s : State) (m : Msg) : Bool :=
  match m.sender with
  | .relay q _ => ((s.queue q).map Queue.kernel).getD false
  | .elem _ _ _ _ _ _ => false

/-- The ring that a message names, and its die. -/
def Msg.at_ (m : Msg) : RingAt := RingAt.ofNum m.inst

/-- TINST names a die with ring bits 1:0 zero, and the launch number is one of that die. -/
def Msg.namesDie (m : Msg) (n : Nat) : Bool := decide (m.inst < 16) && decide (m.inst % 4 = 0) && decide (bits n 23 22 = m.inst / 4)

/-- A launch of the sender's job by its number. -/
def State.jobLaunch (s : State) (m : Msg) (n : Nat) : Option Nat := (s.findLaunch n).filter fun l => (s.launch l).pasid == m.pasid

/-- Put a message back: the controller takes it again later. -/
def State.holdMsg (s : State) (m : Msg) : State := s.onRing m.at_ fun r => { r with procIn := m :: r.procIn }

/-! ### PLAUNCH (05 R199, R203) -/

/-- PLAUNCH: the launch joins its parent's graph and phase; it waits while the dependence table is full. -/
def State.plaunch (s : State) (p : Params) : State :=
  let m := s.focus.msg
  let x := s.launch m.launch
  match m.sender with
  | .relay _ _ => s.refuse m 0x0306
  | .elem _ _ _ l _ _ =>
    if bits p.p3.toNat 31 11 ≠ 0 ∨ 6 ≤ bits p.p3.toNat 10 8 ∨ m.inst ≠ 4 * m.ring.die.val then s.refuse m 0x0306
    else
      let q : Present :=
        { pasid := x.pasid, qid := x.qid, pseq := x.pseq, device := true, parent := some l, graph := x.graph, phase := x.phase,
          prio := .ofNat 8 (bits p.p3.toNat 7 0), rscope := .ofNat 3 (bits p.p3.toNat 10 8), deps := [], parentOps := m.ops,
          iridx := .ofNat 16 (bits p.p0.toNat 31 16), ioff := .ofNat 48 (64 * p.p1.toNat), aridx := .ofNat 16 (bits p.p0.toNat 15 0),
          aoff := .ofNat 48 (64 * p.p2.toNat), void := false }
      match s.present m.ring.die q with
      | .wait s => s.holdMsg m
      | .fault s => s.refuse m 3
      | .refused st => s.refuse m st
      | .taken s k => s.answer m 0 (launchNumber k (s.launch k)) 0

/-- PLAUNCH (05 R203, R218). -/
def execPlaunch (p : Params) (s : State) : Result := .next (s.plaunch p)

/-! ### Cancels and counters (01 R31-R34; 05 R204, R218) -/

/-- A launch that has neither completed nor been cancelled to its end. -/
def Launch.open_ (x : Launch) : Bool := decide (x.state ≠ .free) && decide (x.state ≠ .done)

/-- The launches of an item of a job; none when it is not known. Levels: 1 launch, 2 graph, 3 phase of a die, 4 job, whose ID is not looked at
(log 53). A launch that has completed is known until its entry is taken again (01 R34). -/
def State.levelItems (s : State) (d : Fin 4) (pasid : BitVec 20) (level id : Nat) : Option (List Nat) :=
  let mine (p : Nat × Launch) : Bool := p.2.pasid == pasid && decide (p.2.state ≠ .free)
  let all := s.allLaunches.filter mine
  if level = 1 then ((s.findEntry id).filter fun l => (s.launch l).pasid == pasid).map fun l => [l]
  else if level = 2 then
    if s.dies.toList.any fun x => x.graphs.contains (pasid.toNat, id) then some ((all.filter fun p => p.2.graph.toNat == id).map Prod.fst) else none
  else if level = 3 then
    let f := (s.die d).phase pasid
    if id ≤ f.num + f.pend.length then some ((all.filter fun p => p.1 / 4096 == d.val && p.2.phase == id).map Prod.fst) else none
  else some (all.map Prod.fst)

/-- Exit tokens that the elements of a launch's regions still owe. -/
def State.exitsOwed (s : State) (l : Nat) : Nat :=
  let own (c : Option Cfg) : Bool := c.any fun c => c.launch == l
  let due (p : StripeAt) (ical : Bool) : Nat :=
    if own ((s.stripe p).cfg ical) then
      ((elemsOf p).map fun e => let q := (s.elem e).plane ical
        if ((s.stripe p).conf ical).present.getLsbD e.slot.val then Hdr.exits q.hdr - q.exitCount ((s.stripe p).conf ical).ctx else 0).foldl (· + ·) 0
    else 0
  ((s.launch l).segs.flatMap fun g => (List.range 32).map fun n =>
    let p : StripeAt := ⟨⟨g.die, g.ring⟩, Fin.ofNat 32 n⟩
    due p false + due p true).foldl (· + ·) 0

/-- Whether an element holds a write of a launch that has not been performed. -/
def State.elemWrites (s : State) (l : Nat) (e : ElemAt) : Bool :=
  let x := s.elem e
  (x.isb.any fun
    | .held o => o.launch == l
    | .parked i _ _ _ _ => ((s.stripe e.at_).conf i).launch == l) || x.port.any fun m => m.launch == l && (m.cls == 4 || m.cls == 5)

/-- Whether writes of a launch are pending (03 R124): its stores, and its messages to the stream and the sparse-update engines. -/
def State.writesPending (s : State) (l : Nat) : Bool :=
  let store (o : MemOp) : Bool := o.launch == l && o.kind.store
  let mine (m : Msg) : Bool := m.launch == l
  (allRings.any fun r =>
    let y := s.ring r
    y.arriving.any store || y.waveBuf.any store || y.linked.any store || y.streamIn.any mine || (y.transfers.any fun t => mine t.msg) ||
      y.sparseIn.any mine || (y.sparse.any fun t => mine t.msg) || (s.ringElems r).any (s.elemWrites l)) ||
  s.dies.toList.any fun d => d.evicted.any fun v => v.arriving.any store || v.linked.any store

/-- Packets of a job taken or kicked and not complete (01 R31). -/
def State.jobPackets (s : State) (pasid : BitVec 20) : Nat :=
  ((List.range 4).flatMap fun d =>
    let x := s.die (Fin.ofNat 4 d)
    (x.queues.filter fun q => q.2.pasid == pasid).map fun q =>
      let e := tabGet Latch.zero q.1 x.latch
      q.2.opens.length + if seqAfter e.lseq e.taken then seqDist e.lseq e.taken else 0).foldl (· + ·) 0

/-- Cancel an item: the state and a status. An item with nothing incomplete is complete already; a job counts its packets too (01 R31). -/
def State.cancelItems (s : State) (d : Fin 4) (pasid : BitVec 20) (level id : Nat) : State × Nat :=
  match s.levelItems d pasid level id with
  | none => (s, 0x0307)
  | some ls =>
    let live := ls.filter fun l => (s.launch l).open_
    if live.isEmpty ∧ (level < 4 ∨ s.jobPackets pasid = 0) then (s, 2) else (live.foldl State.cancelLaunch s, 0)

/-- The counter of an item: its two lanes and a status. -/
def State.countItems (s : State) (d : Fin 4) (pasid : BitVec 20) (level id : Nat) : Nat × Nat × Nat :=
  match s.levelItems d pasid level id with
  | none => (0, 0, 0x0307)
  | some ls =>
    let live := ls.filter fun l => (s.launch l).open_
    if level = 1 then (match live with | l :: _ => (s.exitsOwed l, if s.writesPending l then 1 else 0, 0) | [] => (0, 0, 0))
    else if level = 2 then (live.length, 0, 0)
    else if level = 3 then ((live.map fun l => (s.launch l).graph.toNat).dedup.length, 0, 0)
    else (s.jobPackets pasid, 0, 0)

/-- The parameters of PCANCEL and PCOUNT are in order. -/
def itemParams (m : Msg) (p : Params) : Bool :=
  let level := bits p.p0.toNat 2 0
  decide (bits p.p0.toNat 31 3 = 0) && p.p2 == 0 && p.p3 == 0 && (level == 1 || level == 2 || level == 4) && decide (m.inst < 16) &&
    (level != 1 || (decide (bits p.p1.toNat 31 24 = 0) && m.namesDie p.p1.toNat))

/-- PCANCEL. -/
def State.pcancel (s : State) (p : Params) : State :=
  let m := s.focus.msg
  if itemParams m p then
    let t := s.cancelItems m.at_.die m.pasid (bits p.p0.toNat 2 0) p.p1.toNat
    if t.2 = 0x0307 then t.1.refuse m t.2 else t.1.answer m t.2 0 0
  else s.refuse m 0x0306

/-- PCANCEL (05 R204, R218). -/
def execPcancel (p : Params) (s : State) : Result := .next (s.pcancel p)

/-- PCOUNT. -/
def State.pcount (s : State) (p : Params) : State :=
  let m := s.focus.msg
  if itemParams m p then
    let t := s.countItems m.at_.die m.pasid (bits p.p0.toNat 2 0) p.p1.toNat
    if t.2.2 = 0 then s.answer m 0 t.1 t.2.1 else s.refuse m t.2.2
  else s.refuse m 0x0306

/-- PCOUNT (01 R31, 05 R218). -/
def execPcount (p : Params) (s : State) : Result := .next (s.pcount p)

/-! ### Phases (05 R205) -/

/-- PPHASE: it is answered at the boundary. -/
def State.pphase (s : State) (p : Params) : State :=
  let m := s.focus.msg
  let pasid : BitVec 20 := .ofNat 20 p.p0.toNat
  if !s.fromKernel m ∨ bits p.p0.toNat 31 20 ≠ 0 ∨ p.p1 ≠ 0 ∨ p.p2 ≠ 0 ∨ p.p3 ≠ 0 ∨ 16 ≤ m.inst ∨ (tabFind pasid.toNat s.jobs).isNone then
    s.refuse m 0x0306
  else
    let d := m.at_.die
    let s := s.onDie d fun x => let f := x.phase pasid; { x with phases := tabPut pasid.toNat { f with pend := f.pend ++ [m] } x.phases }
    s.onRings (dieRings d) fun _ x =>
      { x with regions := x.regions.map fun g => if g.pasid = pasid ∧ !g.reqs.contains .pphase then { g with reqs := g.reqs ++ [.pphase] } else g }

/-- PPHASE (05 R205). -/
def execPphase (p : Params) (s : State) : Result := .next (s.pphase p)

/-! ### Eviction, restore and compaction (05 R211, R213-R215) -/

def EqReq.isEvict : EqReq → Bool
  | .pevict _ _ => true
  | _ => false

/-- PEVICT: it is pending in every region of the launch. With FORCE the due stripes of those regions leave the schedule. -/
def State.pevict (s : State) (p : Params) : State :=
  let m := s.focus.msg
  let force := bit p.p1.toNat 0
  if !s.fromKernel m ∨ bits p.p0.toNat 31 24 ≠ 0 ∨ bits p.p1.toNat 31 1 ≠ 0 ∨ p.p2 ≠ 0 ∨ p.p3 ≠ 0 ∨ !m.namesDie p.p0.toNat then s.refuse m 0x0306
  else
    match s.jobLaunch m p.p0.toNat with
    | none => s.refuse m 0x0307
    | some l =>
      let x := s.launch l
      let at_ (g : Seg) : Option Region := (s.ring ⟨g.die, g.ring⟩).atPage g.page
      if x.segs = [] ∨ x.ical ∨ s.goneLaunch l ∨ x.segs.any fun g => (at_ g).any fun h => h.reqs.any EqReq.isEvict then s.refuse m 0x0308
      else
        x.segs.foldl (fun s g =>
          let r : RingAt := ⟨g.die, g.ring⟩
          let s := s.onRegion r g.page fun h => { h with reqs := h.reqs ++ [.pevict m force] }
          if force then
            match at_ g with
            | some h =>
              let s := s.onRegion r g.page fun h => { h with aside := (s.ring r).schedule }
              s.onRing r fun y => { y with schedule := y.schedule.filter fun n => !(h.places r).any fun p => p.stripe == n }
            | none => s
          else s) s

/-- PEVICT (05 R211, R215). -/
def execPevict (p : Params) (s : State) : Result := .next (s.pevict p)

/-- The evicted segments that hold a launch, in order. -/
def State.evictedOf (s : State) (l : Nat) : List Evicted :=
  (List.range (s.launch l).nseg).filterMap fun k =>
    (s.die (Fin.ofNat 4 (l / 4096 + k))).evicted.find? fun v => v.seg == k && v.bound.any fun b => b.1 == l

/-- An evicted segment whose record software has written since (05 R192). -/
def State.spoilt (s : State) (l : Nat) : Option Evicted :=
  let j := tabGet Job.zero (s.launch l).pasid.toNat s.jobs
  (s.evictedOf l).find? fun v => s.altered (recordAt j v.block) (65536 * v.blocks)

/-- PROC_RESTORE of an evicted launch (05 R192, R221): it has no region, so that no ring holds; its records name its first stripe. -/
def State.restoreFault (s : State) (l : Nat) (v : Evicted) : State :=
  let g := v.segment
  s.takeFault g.die none (s.launchQueue l) 0 ⟨0x72, 6, 1, 65536 * v.block⟩
    (s.stripeSite (regionStripe ⟨g.die, g.ring⟩ g.page 0) 0 0 false 2 0 v.region.pasid g.ctx none)

/-- A place for an evicted segment on its die. -/
def State.spotBack (s : State) (v : Evicted) (x : Launch) (reclaim : Bool) : Option (RingAt × Nat × BitVec 6 × List (RingAt × Fin 8)) :=
  (dieRings v.segment.die).findSome? fun r =>
    if (s.ring r).takesBack v x.pasid then (s.spanOn r x.pages x.pasid v.ports.length reclaim).map fun t => (r, t) else none

/-- Restore the segments of a launch one after another; none unless every one can be. Those of a chained launch take no idle region (15 R467). -/
def State.restoreAll (x : Launch) : List Evicted → State → Option State
  | [], s => some s
  | v :: vs, s =>
    match (s.spotBack v x false).or (if 1 < x.nseg then none else s.spotBack v x true) with
    | none => none
    | some (r, q, c, ks) =>
      if s.reclaimable ks then (State.restoreSeg (s.reclaim ks) v r (Fin.ofNat 8 q) c).bind (State.restoreAll x vs) else none

/-- PRESTORE: it waits, behind the messages after it, while no ring has a place; one binding is made in an fc (05 R200). A record that software has
written raises PROC_RESTORE, and the message is answered as one whose context is terminated. The reply leaves once the launch runs. -/
def State.prestore (s : State) (p : Params) : State :=
  let m := s.focus.msg
  if !s.fromKernel m ∨ bits p.p0.toNat 31 24 ≠ 0 ∨ p.p1 ≠ 0 ∨ p.p2 ≠ 0 ∨ p.p3 ≠ 0 ∨ !m.namesDie p.p0.toNat then s.refuse m 0x0306
  else
    match s.jobLaunch m p.p0.toNat with
    | none => s.refuse m 0x0307
    | some l =>
      let x := s.launch l
      let d : Fin 4 := Fin.ofNat 4 (l / 4096)
      let later (s : State) : State := s.onRing m.at_ fun y => { y with procIn := y.procIn ++ [m] }
      if x.state ≠ .evicted ∨ s.goneLaunch l then s.refuse m 0x0308
      else if (s.die d).lastBind = s.fc + 1 then later s
      else
        match s.spoilt l with
        | some v => (s.restoreFault l v).refuse m 3
        | none =>
        match State.restoreAll x (s.evictedOf l) s with
        | none => later s
        | some s =>
          let s := s.onDie d fun y => { y with lastBind := s.fc + 1 }
          (s.onLaunch l fun y => { y with restoring := y.restoring ++ [m] }).answerRunning l

/-- PRESTORE (05 R213). -/
def execPrestore (p : Params) (s : State) : Result := .next (s.prestore p)

/-- PCOMPACT. -/
def State.pcompact (s : State) (p : Params) : State :=
  let m := s.focus.msg
  if !s.fromKernel m ∨ p ≠ ⟨0, 0, 0, 0⟩ ∨ 16 ≤ m.inst then s.refuse m 0x0306 else s.compactNext m.at_ m 0

/-- PCOMPACT (05 R214). -/
def execPcompact (p : Params) (s : State) : Result := .next (s.pcompact p)

/-! ### The almanac (05 R207, R208) -/

/-- PALMW: it takes effect at the next frame. -/
def State.palmw (s : State) (p : Params) : State :=
  let m := s.focus.msg
  let idle := bit p.p2.toNat 31
  if !s.fromKernel m ∨ bits p.p2.toNat 29 20 ≠ 0 ∨ p.p3 ≠ 0 ∨ 16 ≤ m.inst ∨ (idle ∧ bits p.p2.toNat 30 0 ≠ 0) then s.refuse m 0x0306
  else
    let v : Option AlmSlot := if idle then none else some ⟨bit p.p2.toNat 30, .ofNat 20 (bits p.p2.toNat 19 0)⟩
    s.onRing m.at_ fun r => { r with palmw := r.palmw ++ [(m, .ofNat 64 (p.p1.toNat * 2 ^ 32 + p.p0.toNat), v)] }

/-- PALMW (05 R208, R218). -/
def execPalmw (p : Params) (s : State) : Result := .next (s.palmw p)

/-- PALMR: the job's exclusive slots, and the lowest of them. -/
def State.palmr (s : State) (p : Params) : State :=
  let m := s.focus.msg
  if p ≠ ⟨0, 0, 0, 0⟩ ∨ 16 ≤ m.inst then s.refuse m 0x0306
  else
    let own := (s.ring m.at_).almanac.filter fun a => a.2.pasid == m.pasid && !a.2.shared
    s.answer m 0 own.length ((own.head?.map Prod.fst).getD 0xFFFFFFFF)

/-- PALMR (05 R218). -/
def execPalmr (p : Params) (s : State) : Result := .next (s.palmr p)

/-! ### Writes that wait: the weight store and the resource table (05 R206, 03 R95) -/

/-- A readable SPACE 0 entry of the sender's job that holds `n` bytes from an offset. -/
def State.sourceRes (s : State) (m : Msg) (ridx off n : Nat) : Option Res :=
  (s.resource m.pasid none ridx).filter fun r => r.usable && r.space == 0 && r.canRead && decide (off + n ≤ r.extent)

/-- PWSW: it is performed at the next boundary of the window's job. Of several refusals the source's comes first, then the key's, then the window's; a
window that is not valid, and tiles past its COUNT, are PROC_WS_RANGE (log 59). -/
def State.pwsw (s : State) (p : Params) : State :=
  let m := s.focus.msg
  let count := bits p.p3.toNat 17 0
  let key := bits p.p3.toNat 29 18
  let off := 64 * p.p1.toNat
  let w := tabGet WsWin.zero (bits p.p0.toNat 15 10) (s.die m.at_.die).wswin
  let tile := bits p.p2.toNat 17 0
  if !s.fromKernel m ∨ bits p.p0.toNat 9 0 ≠ 0 ∨ bits p.p2.toNat 31 18 ≠ 0 ∨ bits p.p3.toNat 31 30 ≠ 0 ∨ count = 0 ∨ 16 ≤ m.inst then
    s.refuse m 0x0306
  else
    match s.sourceRes m (bits p.p0.toNat 31 16) off (4096 * count) with
    | none => s.refuse m 0x0306
    | some r =>
      if key = 0 ∨ (s.keyOf key).isNone then s.refuse m 0x030B
      else if !w.valid ∨ 196608 < w.base.toNat + w.count.toNat ∨ w.count.toNat < tile + count then s.refuse m 0x0305
      else s.onDie m.at_.die fun x => { x with pwsw := x.pwsw ++ [⟨m, w.pasid, w.base.toNat + tile, count, .ofNat 12 key, r, off⟩] }

/-- PWSW (05 R206, R218). -/
def execPwsw (p : Params) (s : State) : Result := .next (s.pwsw p)

/-- The regions of a job, as (ring number, first page). -/
def State.jobRegions (s : State) (pasid : BitVec 20) : List (Nat × Nat) :=
  allRings.flatMap fun r => ((s.ring r).regions.filter fun g => g.pasid == pasid).map fun g => (r.num, g.page.val)

/-- The version-table counters of an entry's granules are set to zero (03 R115, 04 R147). -/
def State.clearVersions (s : State) (d : Fin 4) (pasid : BitVec 20) (r : Res) : State :=
  { s with
    versions := s.versions.filter fun v => !(List.range ((r.base % 64 + r.extent + 63) / 64)).any fun i =>
      s.locOf d pasid (vaOf (r.base - r.base % 64) (64 * i)) false == some (.hbm (64 * v.1)) }

/-- PRSW: the entry is rewritten with the next RELGEN. Regions that stand keep the old entry until their next equinox. A source that needs a key and
names slot 0 or an empty one is PROC_BAD_KEY (log 59). -/
def State.prsw (s : State) (p : Params) : State :=
  let m := s.focus.msg
  let d := m.at_.die
  let pasid : BitVec 20 := .ofNat 20 p.p0.toNat
  let n := p.p1.toNat
  let off := 64 * p.p3.toNat
  if !s.fromKernel m ∨ bits p.p0.toNat 31 20 ≠ 0 ∨ bits p.p1.toNat 31 16 ≠ 0 ∨ bits p.p2.toNat 15 0 ≠ 0 ∨ 16 ≤ m.inst then s.refuse m 0x0306
  else
    match tabFind pasid.toNat s.jobs, s.sourceRes m (bits p.p2.toNat 31 16) off 64 with
    | some j, some r =>
      let site := { FRec.zero with plane := 3, die := .ofNat 2 d.val, pasid := m.pasid }
      if j.rtcnt.toNat < n then s.refuse m 0x0306
      else
        match s.cRead d m.pasid r off 64 none none site with
        | .wait s => s.holdMsg m
        | .addr va => (s.takeFault d none none 0 (fltAddr va) site).refuse m 3
        | .noKey => s.refuse m 0x030B
        | .bytes bs =>
          let old := s.entryBytes j n
          let gen := ((resOf (bytesNat old)).relgen + 1) % 65536
          let x := bytesNat bs
          let new := x - bits x 375 360 * 2 ^ 360 + gen * 2 ^ 360
          let e := resOf new
          match if e.vers ∧ e.space = 0 ∧ e.extent ≠ 0 then s.missVa d pasid (vaOf e.base 0) e.extent false else none with
          | some va => (s.walkFor d pasid va false none none none site none).holdMsg m
          | none =>
            let s := if e.vers ∧ e.space = 0 then s.clearVersions d pasid e else s
            let s := s.hbmWrite s.devKey (j.rtbase.toNat + 64 * n) (natBytes 64 new)
            let left := s.jobRegions pasid
            let words (y : Nat) : Vector Dword 8 := Vector.ofFn fun i => .ofNat 64 (bits y (64 * i.val + 63) (64 * i.val))
            let w : Prsw := ⟨m, pasid, .ofNat 16 n, words new, words (bytesNat old), left⟩
            if left.isEmpty then s.answer m 0 gen 0 else { s with jobs := tabPut pasid.toNat { j with prsws := j.prsws ++ [w] } s.jobs }
    | _, _ => s.refuse m 0x0306

/-- PRSW (03 R95, 05 R218). -/
def execPrsw (p : Params) (s : State) : Result := .next (s.prsw p)

/-! ### Prefetch (03 R100, 05 R187) -/

/-- Bytes that a prefetch may read (03 R100): within the extent, of a prefetchable entry and prefetchable pages. None where it stops; a miss waits. -/
inductive AheadRead where
  | bytes (bs : List Byte)
  | wait (s : State)
  | stop

def State.readAhead (s : State) (d : Fin 4) (pasid : BitVec 20) (e : Res) (off n : Nat) : AheadRead :=
  let va := vaOf e.base off
  if e.extent < off + n ∨ !e.pref ∨ (badVa va n).isSome then .stop
  else
    match s.ahead d pasid va n with
    | .stop => .stop
    | .wait s => .wait s
    | .ready => match s.cRead d pasid e off n none none FRec.zero with | .bytes bs => .bytes bs | _ => .stop

/-- Cache `n` images from stage `k` on until one cannot be: the images cached, or none while a page is walked for. -/
def State.prefetch (s : State) (r : RingAt) (x : Launch) (g : Option Region) (e : Res) : Nat → Nat → Nat → State × Option Nat
  | 0, _, done => (s, some done)
  | n + 1, k, done =>
    let page := (g.map fun g => g.page.val).getD 0
    let key := s.cacheKey x r.die (g.map fun _ => (r.num, page)) k page
    let noted (im : Image) : Launch := { x with notes := tabPut k (stageNote im) x.notes }
    if x.stages ≤ k then (s, some done)
    else
      match (s.ring r).cache.find? key.same with
      | some c => if (lineFault x k c.words).isSome then (s, some done) else State.prefetch s r (noted c.words) g e n (k + 1) (done + 1)
      | none =>
        match s.readAhead r.die x.pasid e (x.ioff.toNat + 64 + 3072 * k) 3072 with
        | .stop => (s, some done)
        | .wait s => (s, none)
        | .bytes bs =>
          let im := imageWords bs
          if (fetchFault x k im).isSome then (s, some done)
          else
            let base := (((s.die r.die).window x.pasid).map Prod.fst).getD 0
            State.prefetch (s.cachePut r { key with words := placeImage (Config.pageUnits * page) base im }) r (noted im) g e n (k + 1) (done + 1)

/-- The region whose placement a prefetch serves: the sender's, or for a relay the job's first on the ring. -/
def State.prefetchRegion (s : State) (m : Msg) : Option Region :=
  let y := s.ring m.at_
  match m.sender with
  | .elem _ ical _ _ _ _ => if ical ∨ m.ring ≠ m.at_ then y.regions.find? fun g => g.pasid == m.pasid else y.regionOf m.el.at_.stripe.val
  | .relay _ _ => y.regions.find? fun g => g.pasid == m.pasid

/-- PPREF: it obeys the limits of 03 R100, and its faults are suppressed; it waits, behind the messages after it, for the pages that it walks for. An
image entry, as the region that it serves has it (03 R95), that path C cannot use is a breach of its parameters (log 54). -/
def State.ppref (s : State) (p : Params) : State :=
  let m := s.focus.msg
  let r := m.at_
  let ioff := 64 * p.p1.toNat
  if bits p.p2.toNat 31 11 ≠ 0 ∨ p.p3 ≠ 0 ∨ 16 ≤ m.inst then s.refuse m 0x0306
  else
    match imageRes (s.resource m.pasid ((s.prefetchRegion m).map fun g => (r.num, g.page.val)) (bits p.p0.toNat 31 16)) with
    | none => s.refuse m 0x0306
    | some e =>
      let later (s : State) : State := s.onRing r fun y => { y with procIn := y.procIn ++ [m] }
      match s.readAhead r.die m.pasid e ioff 64 with
      | .stop => s.answer m 0 0 0
      | .wait s => later s
      | .bytes hb =>
        let h := procHead hb
        let x := { Launch.zero with
          pasid := m.pasid, iridx := .ofNat 16 (bits p.p0.toNat 31 16), ioff := .ofNat 48 ioff, stages := if h.good then h.stages else 0
          pages := h.pages, nstate := h.nstate }
        match s.prefetch r x (s.prefetchRegion m) e (bits p.p2.toNat 10 0 + 1) (bits p.p0.toNat 15 0) 0 with
        | (s, some n) => s.answer m 0 n 0
        | (s, none) => later s

/-- PPREF (03 R100, 05 R218). -/
def execPpref (p : Params) (s : State) : Result := .next (s.ppref p)

/-! ### Waits and status -/

/-- PEQWAIT: it is answered at the next equinox of the launch's region, for a chained launch that of its first segment (log 61). -/
def State.peqwait (s : State) (p : Params) : State :=
  let m := s.focus.msg
  if bits p.p0.toNat 31 24 ≠ 0 ∨ p.p1 ≠ 0 ∨ p.p2 ≠ 0 ∨ p.p3 ≠ 0 ∨ !m.namesDie p.p0.toNat then s.refuse m 0x0306
  else
    match s.jobLaunch m p.p0.toNat with
    | none => s.refuse m 0x0307
    | some l =>
      match (s.launch l).segs.head? with
      | none => s.refuse m 0x0308
      | some g =>
        let r : RingAt := ⟨g.die, g.ring⟩
        let own : Bool := match m.sender with
          | .elem _ false _ _ _ _ => (s.launch l).segs.any fun k =>
            m.ring == ⟨k.die, k.ring⟩ && ((s.ring m.ring).regionOf m.el.at_.stripe.val).any fun (h : Region) => h.page == k.page
          | _ => false
        if (s.launch l).ical then s.refuse m 0x0308
        else if own then s.refuse m 0x0306
        else s.onRegion r g.page fun h => { h with reqs := h.reqs ++ [EqReq.peqwait m] }

/-- PEQWAIT (05 R197, R218). -/
def execPeqwait (p : Params) (s : State) : Result := .next (s.peqwait p)

/-- Where a stage of a launch is held: physical stripe 5:0 and plane 9:8. -/
def State.stageHeld (s : State) (l stage : Nat) : Option Nat :=
  (s.launch l).segs.findSome? fun g =>
    let r : RingAt := ⟨g.die, g.ring⟩
    (List.range 32).findSome? fun n =>
      let st := s.stripe ⟨r, Fin.ofNat 32 n⟩
      let is (c : Option Cfg) : Bool := c.any fun c => c.launch == l && c.stage.toNat == stage
      let at_ (plane : Nat) : Option Nat := some ((s.ring r).phys n + plane * 256)
      if is st.active then at_ 0 else if is st.ical then at_ 1 else if is st.shadow then at_ 2 else none

/-- PSTAT. -/
def State.pstat (s : State) (p : Params) : State :=
  let m := s.focus.msg
  let stage := bits p.p1.toNat 15 0
  if bits p.p0.toNat 31 24 ≠ 0 ∨ bits p.p1.toNat 30 16 ≠ 0 ∨ p.p2 ≠ 0 ∨ p.p3 ≠ 0 ∨ !m.namesDie p.p0.toNat then s.refuse m 0x0306
  else
    match s.jobLaunch m p.p0.toNat with
    | none => s.refuse m 0x0307
    | some l =>
      if bit p.p1.toNat 31 then
        if (s.launch l).stages ≤ stage then s.refuse m 0x0306 else s.answer m 0 (s.regionWord l) ((s.stageHeld l stage).getD 0xFFFFFFFF)
      else s.answer m 0 (s.regionWord l) 0

/-- PSTAT (05 R218). -/
def execPstat (p : Params) (s : State) : Result := .next (s.pstat p)

end Sys2Proof.Machine
end

