-- ==== Sys2Proof/Machine/Packets.lean ====
section
/-! DEFINITION. The command packets (04 R142-R156): how the firmware of a queue's home die takes its next packet, and what each packet does. -/

namespace Sys2Proof.Machine

/-! ### Reading a queue's memory -/

/-- Bytes that the front end reads for a queue: the rings of the bootstrap queue in the carve-out, any other address under the queue's PASID.
None while a page is not translated. -/
def State.qBytes (s : State) (qid : BitVec 20) (q : Queue) (va n : Nat) : Option (List Byte) :=
  if q.boot (localIx qid) then some (s.hbmRead s.devKey va n)
  else if (s.fBlock (homeDie qid) q.pasid va n false none).isSome then none
  else some (s.fRead (homeDie qid) q.pasid va n)

/-- What such an access that cannot be made comes to. -/
def State.qWalk (s : State) (qid : BitVec 20) (q : Queue) (va n : Nat) (write : Bool) : State :=
  (s.fBlock (homeDie qid) q.pasid va n write none).getD s

/-- The address of the slot of a sequence number. -/
def Queue.slot (q : Queue) (e : Latch) (seq : BitVec 16) : Nat := q.rbase.toNat + 64 * (seq.toNat % 2 ^ e.rsize.toNat)

/-! ### WAIT (04 R146, R156) -/

/-- OP of a WAIT packet, and of a watch. -/
def waitMet (op : Nat) (word value : Nat) : Bool :=
  if op = 0 then word != value else if op = 1 then word == value else op == 2 && decide ((word + 2 ^ 64 - value) % 2 ^ 64 < 2 ^ 63)

/-- Change the hart that serves a queue. -/
def State.onServer (s : State) (qid : BitVec 20) (f : Hart → Hart) : State :=
  match s.server qid with
  | some h => s.onHart (homeDie qid) h f
  | none => s

/-- A WAIT whose word has met OP completes, and the watch of its hart is met. -/
def State.endWait (s : State) (qid : BitVec 20) (w : QWait) (v : Nat) : State :=
  let s := s.onServer qid fun h => { h.disarm with arm := false, met := true }
  State.finish (s.onQueue qid fun x => { x with wait := none }) qid w.seq 0 v false

/-- Read the word of a queue's unmet WAIT, mapped or not: a word that meets OP completes the packet, or, of a queue that no hart holds, is noted
until one does (04 R158, R170). -/
def State.pollWait (s : State) (qid : BitVec 20) : State :=
  match s.queue qid with
  | none => s
  | some q =>
    match q.wait with
    | none => s
    | some w =>
      match w.found with
      | some v => if s.serving qid then s.endWait qid w v.toNat else s
      | none =>
        match s.fBlock (homeDie qid) q.pasid w.addr.toNat 8 false none with
        | some s => s
        | none =>
          let v := bytesNat (s.fRead (homeDie qid) q.pasid w.addr.toNat 8)
          if !waitMet w.op.toNat v w.value.toNat then s
          else if s.serving qid then s.endWait qid w v
          else s.onQueue qid fun x => { x with wait := some { w with found := some (.ofNat 64 v) } }

/-! ### Taking a packet (04 R149, R154) -/

/-- What the firmware finds at a queue: a packet to perform, or nothing more. -/
inductive Taken where
  | idle (s : State)
  | packet (s : State) (i : Instr)

/-- LEVEL 3 of CANCEL and COUNT, the relay packets of a kernel-only message, and the types from 0x11 on are kernel-only (04 R144, R146, R147). -/
def kernelOnly (type level : Nat) : Bool :=
  decide (0x11 ≤ type) || ((type == 4 || type == 5) && level == 3) ||
    (decide (6 ≤ type) && decide (type ≤ 13) && type != 0x0B)

/-- Note a LAUNCH packet of a queue, and whether it is refused or cancelled. -/
def State.notePast (s : State) (qid : BitVec 20) (seq : BitVec 16) (void : Bool) : State :=
  s.onQueue qid fun q => { q with past := tabPut seq.toNat void q.past }

/-- Claim a packet: it is taken, and open until it completes. -/
def State.claimPkt (s : State) (qid : BitVec 20) (seq : BitVec 16) (type : BitVec 8) (cmpl : Bool) : State :=
  let s := s.onLatch qid fun e => { e with taken := seq }
  s.onQueue qid fun q =>
    { q with
      opens := q.opens ++ [⟨seq, type, cmpl⟩],
      past := if type = 1 then tabPut seq.toNat false q.past else tabDel seq.toNat q.past }

/-- A packet that must wait is taken later: its claim is given back (log 55). -/
def State.untake (s : State) (qid : BitVec 20) (seq : BitVec 16) : State :=
  (s.onLatch qid fun e => { e with taken := seq - 1 }).onQueue qid fun q => { q with opens := q.opens.filter fun p => p.seq != seq }

/-- Refuse a packet: it has no effect, and always posts. -/
def State.refusePkt (s : State) (qid : BitVec 20) (seq : BitVec 16) (type status : Nat) : State :=
  State.finish (if type = 1 then s.notePast qid seq true else s) qid seq status 0 true

/-- Take the packet whose words are read: the checks of 04 R149 in their order, after the header's sequence. -/
def State.takeWords (s : State) (qid : BitVec 20) (q : Queue) (seq : BitVec 16) (ws : List Dword) : Taken :=
  let h := (ws.getD 0 0).toNat
  let type := bits h 63 56
  if bits h 47 32 ≠ seq.toNat then
    let s := s.onLatch qid fun e => { e with stop := true }
    .idle (s.postRec qid fun q => completionRec 0 type 0x0206 seq.toNat 0 qid.toNat q.pasid.toNat 0)
  else if bit h 30 ∧ !q.opens.isEmpty then .idle s
  else
    let s := s.claimPkt qid seq (.ofNat 8 type) (bit h 31)
    let refuse (status : Nat) : Taken := .idle (s.refusePkt qid seq type status)
    if bits h 55 48 ≠ 1 then refuse 0x0202
    else if bits h 26 16 ≠ 0 then refuse 0x0203
    else if 0x14 < type then refuse 0x0201
    else if kernelOnly type (bits (ws.getD 1 0).toNat 2 0) ∧ !q.kernel then refuse 0x0205
    else
      match decodePacket ws with
      | .ok i => .packet s i
      | .error e => refuse e.status

/-- The firmware of a queue's home die takes its next packet, when it has mapped the queue and one is there. A queue that waits reads its word. -/
def State.takePacket (s : State) (qid : BitVec 20) : Taken :=
  let e := s.latch qid
  match s.queue qid with
  | none => .idle s
  | some q =>
    if !s.serving qid ∨ e.stop ∨ !e.valid then .idle s
    else if q.wait.isSome then .idle (s.pollWait qid)
    else if seqAfter e.lseq e.taken then
      let seq := e.taken + 1
      let a := q.slot e seq
      match s.qBytes qid q a 64 with
      | none => .idle (s.qWalk qid q a 64 false)
      | some bs => s.takeWords qid q seq ((List.range 8).map fun i => .ofNat 64 (bytesNat ((bs.drop (8 * i)).take 8)))
    else .idle s

/-! ### The packets -/

/-- The queue in focus, whose packet is performed. -/
def State.here (s : State) : Option Queue := s.queue s.focus.queue

/-- NOP completes when it is taken. -/
def State.pktNop (s : State) (h : PktHead) : State := s.finish s.focus.queue h.seq 0 0 false

/-- NOP packet (04 R144). -/
def execPktNop (h : PktHead) (s : State) : Result := .next (s.pktNop h)

/-- The launch of a LAUNCH packet that is still in the table of a die. -/
def Die.launchOf (d : Die) (qid : BitVec 20) (seq : BitVec 16) : Option (Nat × Launch) :=
  (d.launches.filter fun p => p.2.qid == qid && p.2.pseq == seq && !p.2.device && decide (p.2.state ≠ .free)).foldl
    (fun best p => match best with | none => some p | some b => if b.2.order < p.2.order then some p else some b) none

/-- The valid DEPn of a body with their EARLY bits. -/
def depsOf (b : LaunchBody) : List (BitVec 16 × Bool) :=
  ([b.dep0, b.dep1, b.dep2, b.dep3].zipIdx.filter fun p => b.depv.getLsbD p.2).map fun p => (p.1, b.early.getLsbD p.2)

/-- A DEPn names an earlier LAUNCH packet of the queue. -/
def Queue.named (q : Queue) (seq dep : BitVec 16) : Bool :=
  decide (1 ≤ seqDist seq dep) && decide (seqDist seq dep ≤ 32767) && (tabFind dep.toNat q.past).isSome

/-- LAUNCH: it is presented to the dispatcher of the queue's die, and stays open until its launch completes. -/
def State.pktLaunch (s : State) (h : PktHead) (b : LaunchBody) : State :=
  let qid := s.focus.queue
  match s.here with
  | none => s
  | some q =>
    let d := homeDie qid
    if (depsOf b).any fun p => !q.named h.seq p.1 then s.refusePkt qid h.seq 1 0x0207
    else
      let deps := (depsOf b).filterMap fun p => ((s.die d).launchOf qid p.1).map fun e => (⟨e.1, e.2.serial, p.2⟩ : Dep)
      let f := (s.die d).phase q.pasid
      let p : Present :=
        { pasid := q.pasid, qid := qid, pseq := h.seq, device := false, parent := none, graph := b.graph, phase := f.num + f.pend.length,
          prio := b.prio, rscope := h.rscope, deps := deps, parentOps := [], iridx := b.iridx, ioff := b.ioff, aridx := b.aridx, aoff := b.aoff,
          void := (depsOf b).any fun p => tabFind p.1.toNat q.past == some true }
      match s.present d p with
      | .wait s => s.untake qid h.seq
      | .fault s => s
      | .refused st => s.refusePkt qid h.seq 1 st
      | .taken s _ => s

/-- LAUNCH packet (04 R145). -/
def execPktLaunch (h : PktHead) (b : LaunchBody) (s : State) : Result := .next (s.pktLaunch h b)

/-- The hart of a queue that waits arms its watch, and its vigil timer (04 R157, R170). -/
def State.armWait (s : State) (qid : BitVec 20) (w : QWait) : State :=
  s.onServer qid fun h =>
    { h with
      waddr := .ofNat 61 (w.addr.toNat / 8), wval := w.value, wop := .ofNat 2 w.op.toNat, arm := true, met := false, watchHit := false,
      vigilArmed := true, vigilExpired := false, remain := (s.die (homeDie qid)).feVigil }

/-- WAIT: it holds its queue until a read of the word meets OP. -/
def State.pktWait (s : State) (h : PktHead) (addr value : Dword) (op : BitVec 3) : State :=
  let w : QWait := ⟨addr, value, op, h.seq, h.cmpl, none⟩
  State.pollWait ((s.onQueue s.focus.queue fun q => { q with wait := some w }).armWait s.focus.queue w) s.focus.queue

/-- WAIT packet (04 R146, R156). -/
def execPktWait (h : PktHead) (addr value : Dword) (op : BitVec 3) (s : State) : Result := .next (s.pktWait h addr value op)

/-- SIGNAL: one atomic access to its word. -/
def State.pktSignal (s : State) (h : PktHead) (addr value : Dword) (op : BitVec 3) : State :=
  let qid := s.focus.queue
  match s.here with
  | none => s
  | some q =>
    let d := homeDie qid
    let a := addr.toNat
    if (s.fBlock d q.pasid a 8 false none).isSome then (s.untake qid h.seq).qWalk qid q a 8 false
    else if (s.fBlock d q.pasid a 8 true none).isSome then (s.untake qid h.seq).qWalk qid q a 8 true
    else
      let old := bytesNat (s.fRead d q.pasid a 8)
      let new := if op = 0 then value.toNat else old + value.toNat
      State.finish (s.fWrite d q.pasid a (natBytes 8 new)) qid h.seq 0 old false

/-- SIGNAL packet (04 R146). -/
def execPktSignal (h : PktHead) (addr value : Dword) (op : BitVec 3) (s : State) : Result := .next (s.pktSignal h addr value op)

/-! ### CANCEL and COUNT (01 R31-R34; 04 R146) -/

/-- The item of a LEVEL 1 packet: its launch, none when it has completed or was refused, or no LAUNCH packet at all. -/
def State.pktItem (s : State) (qid : BitVec 20) (q : Queue) (seq lseq : BitVec 16) : Option (Option Nat) :=
  if q.named seq lseq then
    some ((((s.die (homeDie qid)).launchOf qid lseq).filter fun p => p.2.open_ && tabFind lseq.toNat q.past != some true).map fun p =>
      launchKey (homeDie qid) p.1)
  else none

/-- A job cancel discards the packets of its queue that are kicked and not yet taken; those with CMPL set post CANCELLED. -/
def State.discard (qid : BitVec 20) : Nat → State → State
  | 0, s => s
  | n + 1, s =>
    let e := s.latch qid
    match s.queue qid with
    | none => s
    | some q =>
      if seqAfter e.lseq e.taken then
        let seq := e.taken + 1
        let h := bytesNat ((s.qBytes qid q (q.slot e seq) 8).getD [])
        let s := s.onLatch qid fun e => { e with taken := seq }
        let s := if bits h 63 56 = 1 then s.notePast qid seq true else s
        let s := if bit h 31 then s.postRec qid fun q => completionRec 0 (bits h 63 56) 1 seq.toNat 0 qid.toNat q.pasid.toNat 0 else s
        State.discard qid n s
      else s

/-- The first packet kicked and not yet taken whose slot cannot be read. -/
def State.darkSlot (s : State) (qid : BitVec 20) (q : Queue) : Option Nat :=
  let e := s.latch qid
  ((List.range (seqDist e.lseq e.taken)).map fun i => q.slot e (e.taken + 1 + .ofNat 16 i)).find? fun a => (s.qBytes qid q a 8).isNone

/-- CANCEL completes when the cancel is taken. -/
def State.pktCancel (s : State) (h : PktHead) (level : BitVec 3) (lseq : BitVec 16) (id : Word) : State :=
  let qid := s.focus.queue
  match s.here with
  | none => s
  | some q =>
    if level = 1 then
      match s.pktItem qid q h.seq lseq with
      | none => s.refusePkt qid h.seq 4 0x0204
      | some none => s.finish qid h.seq 2 0 false
      | some (some l) => State.finish (s.cancelLaunch l) qid h.seq 0 0 false
    else if level = 4 then
      match s.darkSlot qid q with
      | some a => (s.untake qid h.seq).qWalk qid q a 64 false
      | none =>
        let t := s.cancelItems (homeDie qid) q.pasid 4 0
        let e := s.latch qid
        State.discard qid (seqDist e.lseq e.taken) (t.1.finish qid h.seq t.2 0 false)
    else
      let t := s.cancelItems (homeDie qid) q.pasid level.toNat id.toNat
      t.1.finish qid h.seq t.2 0 false

/-- CANCEL packet (04 R146; 01 R33, R34). -/
def execPktCancel (h : PktHead) (level : BitVec 3) (lseq : BitVec 16) (id : Word) (s : State) : Result := .next (s.pktCancel h level lseq id)

/-- COUNT: its VALUE is the counter; that of a launch is the exit tokens owed. -/
def State.pktCount (s : State) (h : PktHead) (level : BitVec 3) (lseq : BitVec 16) (id : Word) : State :=
  let qid := s.focus.queue
  match s.here with
  | none => s
  | some q =>
    if level = 1 then
      match s.pktItem qid q h.seq lseq with
      | none => s.refusePkt qid h.seq 5 0x0204
      | some none => s.finish qid h.seq 0 0 false
      | some (some l) => s.finish qid h.seq 0 (s.exitsOwed l) false
    else
      let t := s.countItems (homeDie qid) q.pasid level.toNat id.toNat
      s.finish qid h.seq t.2.2 t.1 false

/-- COUNT packet (04 R146; 01 R31). -/
def execPktCount (h : PktHead) (level : BitVec 3) (lseq : BitVec 16) (id : Word) (s : State) : Result := .next (s.pktCount h level lseq id)

/-! ### Relay packets (04 R147) -/

/-- Send a controller message on behalf of the queue's job, with the job's CTX on the target ring stamped; the packet completes on the reply. -/
def State.relay (s : State) (mop : Nat) (h : PktHead) (ti : BitVec 8) (p : Params) : State :=
  let qid := s.focus.queue
  match s.here with
  | none => s
  | some q =>
    let r := RingAt.ofNum ti.toNat
    let ctx := (s.ring r).ctxOf q.pasid
    if ctx.isNone then s.refusePkt qid h.seq (mop + 2) 0x0204
    else
      let m : Msg := ⟨s.opCtr, .ofNat 32 (mop * 2 ^ 24 + 6 * 2 ^ 20 + ti.toNat * 2 ^ 12 + (ctx.getD 0).toNat * 2 ^ 6), p, q.pasid, ctx.getD 0,
        .relay qid h.seq, none, none, []⟩
      State.onRing { s with opCtr := s.opCtr + 1 } r fun x => { x with procIn := x.procIn ++ [m] }

/-- PHASE packet (04 R147). -/
def execPhase (h : PktHead) (tinst : BitVec 8) (p : Params) (s : State) : Result := .next (s.relay 4 h tinst p)
/-- EVICT packet (04 R147). -/
def execEvict (h : PktHead) (tinst : BitVec 8) (p : Params) (s : State) : Result := .next (s.relay 5 h tinst p)
/-- RESTORE packet (04 R147). -/
def execRestore (h : PktHead) (tinst : BitVec 8) (p : Params) (s : State) : Result := .next (s.relay 6 h tinst p)
/-- COMPACT packet (04 R147). -/
def execCompact (h : PktHead) (tinst : BitVec 8) (p : Params) (s : State) : Result := .next (s.relay 7 h tinst p)
/-- ALMANAC packet (04 R147). -/
def execAlmanac (h : PktHead) (tinst : BitVec 8) (p : Params) (s : State) : Result := .next (s.relay 8 h tinst p)
/-- ALMREAD packet (04 R147). -/
def execAlmread (h : PktHead) (tinst : BitVec 8) (p : Params) (s : State) : Result := .next (s.relay 9 h tinst p)
/-- WSWRITE packet (04 R147). -/
def execWswrite (h : PktHead) (tinst : BitVec 8) (p : Params) (s : State) : Result := .next (s.relay 10 h tinst p)
/-- RESWRITE packet (04 R147); the counters of a versioned entry's granules are set to zero with the rewrite (03 R115). -/
def execReswrite (h : PktHead) (tinst : BitVec 8) (p : Params) (s : State) : Result := .next (s.relay 11 h tinst p)
/-- PREFETCH packet (04 R147). -/
def execPrefetch (h : PktHead) (tinst : BitVec 8) (p : Params) (s : State) : Result := .next (s.relay 12 h tinst p)
/-- EQWAIT packet (04 R147). -/
def execEqwait (h : PktHead) (tinst : BitVec 8) (p : Params) (s : State) : Result := .next (s.relay 13 h tinst p)
/-- STATUS packet (04 R147). -/
def execStatus (h : PktHead) (tinst : BitVec 8) (p : Params) (s : State) : Result := .next (s.relay 14 h tinst p)

/-! ### Contexts and queues (04 R148) -/

/-- A range lies in the firmware carve-out, which ends with HBM (16 R477). -/
def inCarve (a n : Nat) : Bool := decide (Config.carveBase ≤ a) && decide (a + n ≤ Config.hbmBytes)

/-- A new job is in phase 0 and has no graphs. -/
def Die.newJob (pasid : BitVec 20) (d : Die) : Die :=
  { d with phases := tabDel pasid.toNat d.phases, graphs := d.graphs.filter fun g => g.1 != pasid.toNat }

/-- CTXNEW: the job's context, with a resource table of zeros. -/
def State.ctxnew (s : State) (h : PktHead) (pasid : BitVec 20) (rtcnt : BitVec 16) (rtbase sabase sasize : Dword) : State :=
  let qid := s.focus.queue
  let n := 64 * (rtcnt.toNat + 1)
  if !inCarve rtbase.toNat n ∨ !inCarve sabase.toNat sasize.toNat ∨ sabase.toNat % 65536 ≠ 0 ∨ sasize.toNat % 65536 ≠ 0 then
    s.refusePkt qid h.seq 0x11 0x0204
  else if (tabFind pasid.toNat s.jobs).isSome then s.refusePkt qid h.seq 0x11 0x0208
  else
    let s := s.sealArea rtbase.toNat n
    let s := { s with jobs := tabPut pasid.toNat ⟨rtbase, rtcnt, sabase, sasize, [], false⟩ s.jobs, dies := s.dies.map (Die.newJob pasid) }
    State.finish s qid h.seq 0 0 false

/-- CTXNEW packet (04 R148). -/
def execCtxnew (h : PktHead) (pasid : BitVec 20) (rtcnt : BitVec 16) (rtbase sabase sasize : Dword) (s : State) : Result :=
  .next (s.ctxnew h pasid rtcnt rtbase sabase sasize)

/-- The packets of a job that are not complete, but for one of a queue. -/
def State.otherPackets (s : State) (pasid qid : BitVec 20) : Nat :=
  s.jobPackets pasid - if (s.queue qid).any fun q => q.pasid == pasid then 1 else 0

/-- CTXFREE: the context, its idle regions and its places on the rings. The next job under its PASID is another job, so no page is its own (03 R90). -/
def State.ctxfree (s : State) (h : PktHead) (pasid : BitVec 20) : State :=
  let qid := s.focus.queue
  let live := s.allLaunches.any fun p => p.2.pasid == pasid && p.2.open_ && !p.2.device
  if s.otherPackets pasid qid ≠ 0 ∨ live then s.refusePkt qid h.seq 0x12 0x0208
  else
    let idle := allRings.flatMap fun r => ((s.ring r).regions.filter fun g => g.pasid == pasid && g.launches.isEmpty).map fun g => (r, g.page)
    let s := (s.reclaim idle).onRings allRings fun _ x => { x with owners := x.owners.filter fun o => o.2 != pasid }
    State.finish { s with jobs := tabDel pasid.toNat s.jobs } qid h.seq 0 0 false

/-- CTXFREE packet (04 R148). -/
def execCtxfree (h : PktHead) (pasid : BitVec 20) (s : State) : Result := .next (s.ctxfree h pasid)

/-- A queue and its latch entry, with the sequences of its first packet and its first record. -/
def State.makeQueue (s : State) (qid : BitVec 20) (q : Queue) (rsize csize : BitVec 4) (seq0 cseq0 : BitVec 16) : State :=
  let s := s.onDie (homeDie qid) fun d => { d with queues := tabPut (localIx qid) q d.queues }
  s.onLatch qid fun e =>
    { e with
      valid := true, stop := false, rsize := rsize, csize := csize, lseq := seq0 - 1, taken := seq0 - 1, cpost := cseq0 - 1, cack := cseq0 - 1 }

/-- QNEW: the queue on its home die. -/
def State.qnew (s : State) (h : PktHead) (b : QnewBody) : State :=
  let qid := s.focus.queue
  let size (n : BitVec 4) : Bool := decide (4 ≤ n.toNat)
  if (s.latch b.qid).valid ∨ (tabFind b.pasid.toNat s.jobs).isNone ∨ !size b.rsize ∨ !size b.csize then s.refusePkt qid h.seq 0x13 0x0209
  else State.finish (s.makeQueue b.qid ⟨b.pasid, b.kernel, b.rbase, b.cbase, none, [], [], []⟩ b.rsize b.csize b.seq0 b.cseq0) qid h.seq 0 0 false

/-- QNEW packet (04 R148). -/
def execQnew (h : PktHead) (b : QnewBody) (s : State) : Result := .next (s.qnew h b)

/-- The hart that serves a queue gives it up (04 R166, R170). -/
def State.demap (s : State) (qid : BitVec 20) : State :=
  (s.onServer qid fun h => { h.disarm with mapped := false, arm := false }).onLatch qid fun e => { e with mapped := false }

/-- QFREE: the latch entry is invalid, and the queue is no more. -/
def State.qfree (s : State) (h : PktHead) (q : BitVec 20) : State :=
  let qid := s.focus.queue
  if s.allLaunches.any fun p => p.2.qid == q && p.2.open_ then s.refusePkt qid h.seq 0x14 0x0208
  else
    let s := s.finish qid h.seq 0 0 false
    let s := if s.served q then s.demap q else s
    (s.onLatch q fun e => { e with valid := false }).onDie (homeDie q) fun d => { d with queues := tabDel (localIx q) d.queues }

/-- QFREE packet (04 R148). -/
def execQfree (h : PktHead) (qid : BitVec 20) (s : State) : Result := .next (s.qfree h qid)

end Sys2Proof.Machine
end

