-- ==== Sys2Proof/Machine/Registers.lean ====
section
/-! DEFINITION. The registers: what each reads as, and the writes that only set fields (00 R8, R10; 04 R138, R141, R157, R159; 05 R219, R220;
06 R233; 07 R272; 08 R310; 11 R377; 12 R407; 13 R438; 14 R457; 15 R473; 16 R475, R476). Reserved fields read zero and ignore writes. -/

namespace Sys2Proof.Machine

/-- A flag at a bit position. -/
def flagAt (b : Bool) (n : Nat) : Nat := b.toNat * 2 ^ n

/-! ### A ring's blocks -/

/-- The scroll holds in this fc: something holds the ring, or its head stripe is due and not drained (01 R37, R38). -/
def State.holding (s : State) (r : RingAt) : Bool := !(s.ring r).scrolls || (s.headOf r).any fun x => !s.drained x.1 x.2

/-- PROC_STATUS. -/
def State.procStatus (s : State) (r : RingAt) : Nat :=
  let y := s.ring r
  let head := ((y.schedule.head?).map fun n => y.phys n.val).getD 63
  flagAt (s.holding r) 63 + flagAt y.occupied 62 + y.freeMask * 2 ^ 48 + head * 2 ^ 40 + y.ctxs.length * 2 ^ 32

/-- A skip of PROC_DEFECT: its valid bit and the physical stripe. -/
def skipField (k : Option (Fin 34)) : Nat := match k with | some n => 128 + n.val | none => 0

def Ring.defect (y : Ring) : Nat := skipField y.skip1 * 256 + skipField y.skip0

def Ring.icalReg (y : Ring) : Nat := flagAt y.icalValid 63 + y.icalPasid.toNat

/-- PROC_ALMSLOT n. -/
def Ring.almReg (y : Ring) (n : Nat) : Nat :=
  match tabFind n y.almanac with
  | none => 0
  | some a =>
    let c := y.ctxOf a.pasid
    flagAt true 31 + flagAt a.shared 30 + flagAt c.isSome 29 + (c.getD 0).toNat * 2 ^ 23 + a.pasid.toNat

/-- PROC_PLACE n, by physical stripe: a skipped stripe or an idle spare is presented nowhere. -/
def State.placeReg (s : State) (r : RingAt) (n : Nat) : Nat :=
  let y := s.ring r
  match lowest (fun i => y.phys i == n) 32 with
  | none => flagAt true 61 + 15 * 256
  | some i =>
    let page := if (y.regionOf i).isSome then i / 4 else 15
    match (s.stripe ⟨r, Fin.ofNat 32 i⟩).active with
    | none => page * 256
    | some c =>
      flagAt true 63 + flagAt (c.stateful != 0) 62 + c.stage.toNat * 2 ^ 42 + c.ctx.toNat * 2 ^ 36 +
        launchNumber c.launch (s.launch c.launch) * 2 ^ 12 + page * 256

/-- SCL_STATUS. -/
def Scl.status (c : Scl) : Nat := flagAt (!c.waits.isEmpty) 63 + (64 - c.books.length) * 2 ^ 16 + c.free % 4096

/-- SCL_CBOWN n. -/
def Scl.owner (c : Scl) (n : Nat) : Nat := match tabFind n c.books with | some b => 256 + b.1.toNat | none => 0

/-- STRM_STATUS. -/
def Ring.strmStatus (y : Ring) : Nat := (64 - y.ports.length) * 2 ^ 40 + (64 - y.fifos.length) * 2 ^ 32 + y.streamLoad

/-- STRM_FIFO n. -/
def Ring.fifoReg (y : Ring) (n : Nat) : Nat :=
  match tabFind n y.fifos with
  | none => 0
  | some f =>
    flagAt true 63 + flagAt f.scaled 62 + flagAt f.closed 61 + f.ctx.toNat * 2 ^ 55 + (f.size - 1) % 4096 * 2 ^ 43 +
      (f.slots.filter Option.isSome).length * 2 ^ 30

/-- STRM_PORT n. -/
def State.portReg (s : State) (r : RingAt) (n : Nat) : Nat :=
  match tabFind n (s.ring r).ports with
  | none => 63 * 2 ^ 32
  | some p =>
    flagAt true 63 + flagAt p.ended 62 + launchNumber p.launch (s.launch p.launch) * 2 ^ 38 +
      ((p.fifo.map Fin.val).getD 63) * 2 ^ 32 + p.next % 2 ^ 32

/-- Whether an offset lies in an array of `n` registers of 8 bytes. -/
def inArray (off base n : Nat) : Bool := decide (base ≤ off) && decide (off < base + 8 * n)

/-- A register of a ring, by its offset in the ring's part of BAR 0; every other offset reads zero. -/
def State.ringReg (s : State) (r : RingAt) (off : Nat) : Nat :=
  let y := s.ring r
  match off with
  | 0x0000 => s.procStatus r
  | 0x0008 => y.holdfc.toNat
  | 0x0010 => y.defect
  | 0x0018 => y.icalReg
  | 0x0020 => y.eqcnt.toNat
  | 0x1000 => y.scl.status
  | 0x1008 => y.scl.ctxmax.toNat
  | 0x1010 => y.scl.allocs.toNat
  | 0x1018 => y.scl.leaked.toNat
  | 0x2000 => y.elSquashed.toNat
  | 0x2008 => y.elAgeforced.toNat
  | 0x2010 => y.elThrottle.toNat
  | 0x2018 => y.elKilldrop.toNat
  | 0x2020 => y.elSteered.toNat
  | 0x3000 => y.mxRows.toNat
  | 0x3008 => y.mxAlmwait.toNat
  | 0x3010 => y.mxWbwait.toNat
  | 0x3018 => y.mxRefwait.toNat
  | 0x4000 => y.watches.length
  | 0x4008 => y.monmax.toNat
  | 0x4010 => y.jnWakes.toNat
  | 0x4018 => y.jnSpurious.toNat
  | 0x4020 => y.jnParked.toNat
  | 0x4028 => y.jnIsbstall.toNat
  | 0x4030 => y.waveBuf.length
  | 0x5000 => y.strmStatus
  | 0x5008 => y.strmRd.toNat
  | 0x5010 => y.strmWr.toNat
  | 0x5018 => y.strmWait.toNat
  | 0x6000 => y.window.length * 2 ^ 32 + y.sparseLoad
  | 0x6008 => y.sueUpdates.toNat
  | 0x6010 => y.sueMerged.toNat
  | 0x6018 => y.sueRmw.toNat
  | 0x6020 => y.sueBadidx.toNat
  | _ =>
    if off % 8 ≠ 0 then 0
    else if inArray off 0x0100 64 then y.almReg ((off - 0x0100) / 8)
    else if inArray off 0x0400 34 then s.placeReg r ((off - 0x0400) / 8)
    else if inArray off 0x1100 64 then y.scl.owner ((off - 0x1100) / 8)
    else if inArray off 0x5100 64 then y.fifoReg ((off - 0x5100) / 8)
    else if inArray off 0x5400 64 then s.portReg r ((off - 0x5400) / 8)
    else 0

/-- PROC_ICAL is written only while no intercalary launch is bound. -/
def Ring.putIcal (y : Ring) (v : Dword) : Ring :=
  if y.icalLaunch.isSome then y else { y with icalValid := v.getLsbD 63, icalPasid := .ofNat 20 v.toNat }

/-- A write to a register of a ring. -/
def Ring.put (off : Nat) (v : Dword) (y : Ring) : Ring :=
  match off with
  | 0x0008 => { y with holdfc := v }
  | 0x0018 => y.putIcal v
  | 0x1008 => { y with scl := { y.scl with ctxmax := .ofNat 12 v.toNat } }
  | 0x1010 => { y with scl := { y.scl with allocs := v } }
  | 0x1018 => { y with scl := { y.scl with leaked := v } }
  | 0x2000 => { y with elSquashed := v }
  | 0x2008 => { y with elAgeforced := v }
  | 0x2010 => { y with elThrottle := v }
  | 0x2018 => { y with elKilldrop := v }
  | 0x2020 => { y with elSteered := v }
  | 0x3000 => { y with mxRows := v }
  | 0x3008 => { y with mxAlmwait := v }
  | 0x3010 => { y with mxWbwait := v }
  | 0x3018 => { y with mxRefwait := v }
  | 0x4008 => { y with monmax := .ofNat 10 v.toNat }
  | 0x4010 => { y with jnWakes := v }
  | 0x4018 => { y with jnSpurious := v }
  | 0x4020 => { y with jnParked := v }
  | 0x4028 => { y with jnIsbstall := v }
  | 0x5008 => { y with strmRd := v }
  | 0x5010 => { y with strmWr := v }
  | 0x5018 => { y with strmWait := v }
  | 0x6008 => { y with sueUpdates := v }
  | 0x6010 => { y with sueMerged := v }
  | 0x6018 => { y with sueRmw := v }
  | 0x6020 => { y with sueBadidx := v }
  | _ => y

/-! ### A die's blocks -/

/-- PROC_WSWIN n. -/
def WsWin.reg (w : WsWin) : Nat := flagAt w.valid 63 + w.pasid.toNat * 2 ^ 43 + w.base.toNat * 2 ^ 25 + w.count.toNat * 2 ^ 7

def WsWin.ofReg (v : Dword) : WsWin :=
  ⟨v.getLsbD 63, .ofNat 20 (bits v.toNat 62 43), .ofNat 18 (bits v.toNat 42 25), .ofNat 18 (bits v.toNat 24 7)⟩

/-- The chained regions that an endpoint of a die serves: those of launches with a segment here and one beyond it (15 R467, R473). -/
def State.linkRegions (s : State) (d : Fin 4) (ep : Nat) : Nat :=
  ((dieRings d).flatMap fun r => (s.ring r).regions.filter fun g =>
    g.launches.any fun l => (s.launch l).segs.any fun x => if ep = 1 then decide (x.die.val = d.val + 1) else decide (x.die.val + 1 = d.val)).length

/-- LNK_STATUS. -/
def State.linkStatus (s : State) (d : Fin 4) (ep : Nat) : Nat :=
  let k := (s.die d).links[ep % 2]'(Nat.mod_lt _ (by decide))
  flagAt k.up 63 + flagAt k.retrain 62 + flagAt k.external 61 + flagAt k.failed 60 + k.txseq.toNat * 2 ^ 48 + k.rxseq.toNat * 2 ^ 36 +
    s.linkRegions d ep % 128 * 2 ^ 29

/-- DUTY of a junction temperature in 1/16 °C: 8 for each whole degree above 100 °C, up to 56 (16 R480). -/
def duty (tj : Nat) : Nat := min 56 (8 * ((tj - 1600) / 16))

/-- A key command of a die is in progress (16 R476, R483). -/
def State.keyBusy (s : State) (d : Fin 4) : Bool := s.keyCmds.any fun c => decide (c.1 = d)

/-- A register of a die, by its offset in the die's part of BAR 0. -/
def State.dieReg (s : State) (d : Fin 4) (off : Nat) : Nat :=
  let x := s.die d
  match off with
  | 0x0000 => x.devMaxgen.toNat * 65536 + x.devMingen.toNat
  | 0x0010 => x.bootRbase.toNat * 64 + x.bootRsize.toNat
  | 0x0018 => x.bootCbase.toNat * 64 + x.bootCsize.toNat
  | 0x0020 => x.keySlot.toNat * 2 ^ 50 + flagAt (s.keyBusy d) 49 + flagAt x.keyErr 48
  | 0x0028 => x.ecccor.toNat
  | 0x0030 => duty x.tj.toNat * 65536 + x.tj.toNat
  | 0x10200 => (x.launches.filter fun p => decide (p.2.state ≠ .free)).length
  | 0x20000 => s.fc % 40000
  | 0x20008 => x.mxWsread.toNat
  | 0x30000 => s.linkStatus d 0
  | 0x30008 => x.links[0].retrains.toNat
  | 0x30010 => x.links[0].replayed.toNat
  | 0x30018 => x.links[0].holdfc.toNat
  | 0x30040 => s.linkStatus d 1
  | 0x30048 => x.links[1].retrains.toNat
  | 0x30050 => x.links[1].replayed.toNat
  | 0x30058 => x.links[1].holdfc.toNat
  | _ =>
    if off % 8 ≠ 0 then 0
    else if inArray off 0x0200 96 then flagAt (x.island ((off - 0x0200) / 8)).forceon 8 + (x.island ((off - 0x0200) / 8)).state.toNat
    else if inArray off 0x10000 64 then (tabGet WsWin.zero ((off - 0x10000) / 8) x.wswin).reg
    else if inArray off 0x20100 32 then 40000 * 2 ^ 32 + 256 * 2 ^ 16 + 1250 * ((off - 0x20100) / 8)
    else if 0x100000 ≤ off ∧ off < 0x200000 then s.ringReg ⟨d, Fin.ofNat 4 ((off - 0x100000) / 0x40000)⟩ ((off - 0x100000) % 0x40000)
    else 0

/-- A link counter is written. -/
def Die.onLink (n : Fin 2) (f : Link → Link) (x : Die) : Die := { x with links := x.links.set n (f x.links[n]) }

/-- A write to a register of a die that only sets fields. -/
def Die.put (off : Nat) (v : Dword) (x : Die) : Die :=
  match off with
  | 0x0010 => { x with bootRbase := .ofNat 58 (v.toNat / 64), bootRsize := .ofNat 4 v.toNat }
  | 0x0018 => { x with bootCbase := .ofNat 58 (v.toNat / 64), bootCsize := .ofNat 4 v.toNat }
  | 0x0028 => { x with ecccor := v }
  | 0x20008 => { x with mxWsread := v }
  | 0x30008 => x.onLink 0 fun k => { k with retrains := v }
  | 0x30010 => x.onLink 0 fun k => { k with replayed := v }
  | 0x30018 => x.onLink 0 fun k => { k with holdfc := v }
  | 0x30048 => x.onLink 1 fun k => { k with retrains := v }
  | 0x30050 => x.onLink 1 fun k => { k with replayed := v }
  | 0x30058 => x.onLink 1 fun k => { k with holdfc := v }
  | _ =>
    if off % 8 ≠ 0 then x
    else if inArray off 0x0100 9 then { x with keyData := x.keyData.set ((off - 0x0100) / 8 % 9) v (Nat.mod_lt _ (by decide)) }
    else if inArray off 0x0200 96 then
      { x with islands := tabMod ⟨false, 0⟩ ((off - 0x0200) / 8) (fun i => { i with forceon := v.getLsbD 8 }) x.islands }
    else if inArray off 0x10000 64 then { x with wswin := tabPut ((off - 0x10000) / 8) (WsWin.ofReg v) x.wswin }
    else x

/-! ### The kick pages (04 R138) -/

/-- A register of a queue's kick page. -/
def State.kickReg (s : State) (q : BitVec 20) (off : Nat) : Nat :=
  let e := s.latch q
  match off with
  | 0x008 => e.cack.toNat
  | 0x010 =>
    e.lseq.toNat * 2 ^ 48 + e.taken.toNat * 2 ^ 32 + e.cpost.toNat * 2 ^ 16 + flagAt e.valid 15 + flagAt e.stop 14 + flagAt e.badkick 13 +
      flagAt e.mapped 12 + flagAt (s.die (homeDie q)).feFwup 11
  | 0x018 => 0x10000
  | _ => 0

/-! ### The wake latch (04 R141) -/

/-- The two words of an entry, the lower first. -/
def Latch.words (e : Latch) : Nat × Nat :=
  (e.lseq.toNat * 2 ^ 48 + e.taken.toNat * 2 ^ 32 + e.cpost.toNat * 2 ^ 16 + e.cack.toNat,
   flagAt e.valid 63 + flagAt e.stop 62 + flagAt e.badkick 61 + flagAt e.mapped 60 + flagAt e.attn 59 + e.rsize.toNat * 2 ^ 52 +
     e.csize.toNat * 2 ^ 48)

/-- Write the lower word of an entry. -/
def Latch.putLo (v : Dword) (e : Latch) : Latch :=
  let x := v.toNat
  { e with lseq := .ofNat 16 (bits x 63 48), taken := .ofNat 16 (bits x 47 32), cpost := .ofNat 16 (bits x 31 16), cack := .ofNat 16 x }

/-- Write the upper word: BADKICK clears where 1 is written, and MAPPED stays. -/
def Latch.putHi (v : Dword) (e : Latch) : Latch :=
  let x := v.toNat
  { e with
    valid := bit x 63, stop := bit x 62, badkick := e.badkick && !bit x 61, attn := bit x 59, rsize := .ofNat 4 (bits x 55 52),
    csize := .ofNat 4 (bits x 51 48) }

/-! ### Hart windows and die registers (04 R157, R159) -/

/-- A register of a hart's window. -/
def Hart.window (h : Hart) (off : Nat) : Nat :=
  match off with
  | 0x000 => flagAt h.mapped 63 + h.pasid.toNat * 2 ^ 20 + h.qid.toNat
  | 0x008 => h.rbase.toNat * 64 + h.rsize.toNat
  | 0x010 => h.cbase.toNat * 64 + h.csize.toNat
  | 0x018 => h.waddr.toNat * 8
  | 0x020 => h.wval.toNat
  | 0x028 => flagAt h.arm 63 + flagAt h.met 62 + h.wop.toNat
  | 0x030 => flagAt h.vigilArmed 63 + flagAt h.vigilExpired 62 + h.remain.toNat
  | _ => 0

/-- FE_HWCTL: ARM written 1 clears MET, and with OP 3 leaves ARM 0. A watch newly armed has not been seen to be met. -/
def Hart.putWctl (v : Dword) (h : Hart) : Hart :=
  let op := BitVec.ofNat 2 v.toNat
  let one := v.getLsbD 63
  { h with arm := one && op != 3, met := h.met && !one, wop := op, watchHit := h.watchHit && !one }

/-- A write to a hart's window. -/
def Hart.putWindow (off : Nat) (v : Dword) (h : Hart) : Hart :=
  match off with
  | 0x000 => { h with pasid := .ofNat 20 (v.toNat / 2 ^ 20) }
  | 0x008 => { h with rbase := .ofNat 58 (v.toNat / 64), rsize := .ofNat 4 v.toNat }
  | 0x010 => { h with cbase := .ofNat 58 (v.toNat / 64), csize := .ofNat 4 v.toNat }
  | 0x018 => { h with waddr := .ofNat 61 (v.toNat / 8) }
  | 0x020 => { h with wval := v }
  | 0x028 => h.putWctl v
  | _ => h

/-- A die register of the hart map. -/
def Die.feReg (x : Die) (off : Nat) : Nat :=
  match off with
  | 0x000 => x.feVigil.toNat
  | 0x008 => x.feRunq.toNat
  | 0x010 => x.feKickerr.toNat
  | 0x018 => x.feFloglost.toNat
  | 0x020 => flagAt x.feRestart 1 + flagAt x.feFwup 0
  | _ => 0

/-- A write to a die register of the hart map. -/
def Die.putFe (off : Nat) (v : Dword) (x : Die) : Die :=
  match off with
  | 0x000 => { x with feVigil := .ofNat 32 v.toNat }
  | 0x008 => { x with feRunq := .ofNat 20 v.toNat }
  | 0x010 => { x with feKickerr := .ofNat 32 v.toNat }
  | 0x018 => { x with feFloglost := .ofNat 32 v.toNat }
  | 0x020 => { x with feFwup := v.getLsbD 0 }
  | _ => x

end Sys2Proof.Machine
end

