-- ==== Sys2Proof/Machine/Faults.lean ====
section
/-! DEFINITION. Fault records in the fault buffer and on the completion rings (01 R40; 04 R152). -/

namespace Sys2Proof.Machine

/-! ### The record (01 R40) -/

/-- A record as a 256-bit number; a field whose valid bit is 0 holds zero. -/
def FRec.pack (r : FRec) : Nat :=
  let loc (n : Nat) : Nat := if r.locValid then n else 0
  let slot (n : Nat) : Nat := if r.slotValid then n else 0
  r.time.toNat * 2 ^ 192 + r.aux.toNat * 2 ^ 128 + r.seq.toNat * 2 ^ 96 + (if r.ctxValid then r.ctx.toNat else 0) * 2 ^ 90 + r.disp.toNat * 2 ^ 88 +
    (if r.ctxValid then r.pasid.toNat else 0) * 2 ^ 64 + loc r.vstage.toNat * 2 ^ 48 + (if r.iterValid then r.iter.toNat else 0) * 2 ^ 36 +
    flagAt r.iterValid 35 + flagAt r.ctxValid 34 + r.plane.toNat * 2 ^ 32 + r.code.toNat * 2 ^ 24 + r.engine.toNat * 2 ^ 20 +
    loc r.die.toNat * 2 ^ 18 + loc r.ring.toNat * 2 ^ 16 + loc r.pstripe.toNat * 2 ^ 10 + slot r.elem.toNat * 2 ^ 6 + slot r.islot.toNat * 4 +
    flagAt r.locValid 1 + flagAt r.slotValid 0

/-- What the fault buffer reads as: an entry that holds no record reads zero. -/
def Die.fbufBytes (x : Die) : List Byte :=
  (List.range 64).flatMap fun i => natBytes 32 (((tabFind i x.fbuf).map fun e => e.rec_.pack).getD 0)

/-- One record is older than another. -/
def FRec.older (a b : FRec) : Bool := decide (a.time < b.time) || (a.time == b.time && decide ((b.seq - a.seq).toNat < 2 ^ 31))

/-- The oldest entry of a die's buffer that satisfies a condition, with its index. -/
def Die.oldestFault (x : Die) (p : FbEntry → Bool) : Option (Nat × FbEntry) :=
  (x.fbuf.filter fun e => p e.2).foldl (fun best e =>
    match best with | none => some e | some b => if e.2.rec_.older b.2.rec_ then some e else some b) none

/-! ### Delivery (04 R152) -/

/-- FAULT_RESUMABLE for a record of DISP 0, else FAULTED. -/
def FRec.status (r : FRec) : Nat := if r.disp = 0 then 4 else 3

/-- Mark a delivery made; an entry whose deliveries are both made is free. -/
def Die.delivered (i : Nat) (f : FbEntry → FbEntry) (x : Die) : Die :=
  match tabFind i x.fbuf with
  | none => x
  | some e => { x with fbuf := if (f e).toJob || (f e).toLog then tabPut i (f e) x.fbuf else tabDel i x.fbuf }

/-- The VALUE of a record of a LAUNCH packet: its launch number (04 R150), zero once that is no more in the table. -/
def State.launchValue (s : State) (q : BitVec 20) (seq : BitVec 16) : Nat :=
  (((s.die (homeDie q)).launchOf q seq).map fun e => launchNumber (launchKey (homeDie q) e.1) e.2).getD 0

/-- Deliver an entry to its job's queue. An entry for a queue that is no more has nowhere to go; one that no serving hart takes is kept, and sets
ATTN. -/
def State.jobRecord (s : State) (d : Fin 4) (i : Nat) (e : FbEntry) : State :=
  match e.toJob, e.queue with
  | true, some (q, seq) =>
    let done (s : State) : State := s.onDie d (Die.delivered i fun e => { e with toJob := false })
    match s.queue q with
    | none => done s
    | some x =>
      if s.serving q then
        done (s.postRec q fun _ => completionRec 1 1 e.rec_.status seq.toNat (s.launchValue q seq) q.toNat x.pasid.toNat e.rec_.pack)
      else s.raise q
  | true, none => s.onDie d (Die.delivered i fun e => { e with toJob := false })
  | false, _ => s

/-- The die in whose buffer an entry stands, and whose fault log takes it: the home die of the job's queue, whose harts read it, or the die that raised
the fault (log 41). -/
def FbEntry.home (d : Fin 4) (e : FbEntry) : Fin 4 := (e.queue.map fun k => homeDie k.1).getD d

/-- Deliver an entry to the fault log of its die; a record that finds the log full is dropped and counted. -/
def State.logRecord (s : State) (d : Fin 4) (i : Nat) (e : FbEntry) : State :=
  let q := qidOf d 0
  match e.toLog, s.queue q with
  | true, some x =>
    let l := s.latch q
    let pkt := (e.queue.map fun k => (1, k.2.toNat, s.launchValue k.1 k.2)).getD (0, 0, 0)
    if s.serving q then
      let s := s.onDie d (Die.delivered i fun e => { e with toLog := false })
      if !x.outbox.isEmpty ∨ 2 ^ l.csize.toNat ≤ seqDist l.cpost l.cack then s.onDie d fun y => { y with feFloglost := y.feFloglost + 1 }
      else s.postRec q fun _ => completionRec 1 pkt.1 e.rec_.status pkt.2.1 pkt.2.2 q.toNat x.pasid.toNat e.rec_.pack
    else s.raise q
  | _, _ => s

/-- The record that terminates a job is still to reach its queue. -/
def State.jobRecordDue (s : State) (pasid : BitVec 20) : Bool :=
  s.dies.toList.any fun x => (x.fbuf.map Prod.snd ++ x.faultWait).any fun e =>
    e.toJob && e.rec_.disp == 1 && e.queue.any fun k => ((s.queue k.1).map Queue.pasid) == some pasid

/-- Every incomplete packet of a queue with CMPL set posts FAULTED; the VALUE of a LAUNCH is its launch number (04 R150, R152). -/
def State.failOpen (s : State) (q : BitVec 20) : State :=
  match s.queue q with
  | none => s
  | some x =>
    let value (p : OpenPkt) : Nat := if p.type = 1 then s.launchValue q p.seq else 0
    let recs := (x.opens.filter OpenPkt.cmpl).map fun p => completionRec 0 p.type.toNat 3 p.seq.toNat (value p) q.toNat x.pasid.toNat 0
    State.flush 64 (s.onQueue q fun y => { y with wait := none, opens := [], outbox := y.outbox ++ recs }) q

/-- The firmware of a queue's home die posts records of it: one that it serves, or that no hart holds. -/
def State.keeps (s : State) (q : BitVec 20) : Bool :=
  let x := s.die (homeDie q)
  s.serving q || (x.feFwup && !x.gated && !x.unowned.isEmpty && !(s.latch q).mapped)

/-- The packets of terminated jobs on a die, once the record of the fault has been posted (log 41). -/
def State.failPackets (s : State) (d : Fin 4) : State :=
  (s.die d).queues.foldl (fun s p =>
    let q := qidOf d p.1
    if s.keeps q && (tabGet Job.zero p.2.pasid.toNat s.jobs).terminated && !p.2.opens.isEmpty && !s.jobRecordDue p.2.pasid then s.failOpen q else s) s

/-- Deliver what a die's buffer holds, oldest first, to the queues that firmware serves; then fail the packets of terminated jobs. -/
def State.deliverFrom : Nat → List Nat → State → Fin 4 → State
  | 0, _, s, _ => s
  | n + 1, seen, s, d =>
    match (List.range 64).filterMap (fun i => if seen.contains i then none else (tabFind i (s.die d).fbuf).map fun e => (i, e)) with
    | [] => s
    | e :: es =>
      let b := es.foldl (fun b e => if e.2.rec_.older b.2.rec_ then e else b) e
      State.deliverFrom n (b.1 :: seen) ((s.jobRecord d b.1 b.2).logRecord d b.1 b.2) d

def State.deliverFaults (s : State) (d : Fin 4) : State :=
  let s := State.deliverFrom 64 [] s d
  (List.range 4).foldl (fun s k => s.failPackets (Fin.ofNat 4 k)) s

/-- The record of a page request has entered the buffer: the hold of one whose response has come is released (04 R152). -/
def State.pageEntered (s : State) (d : Fin 4) (r : FRec) : State :=
  let vpage := r.aux.toNat / 4096
  if r.code = 0x90 ∧ !(s.die d).walks.any (fun w => w.pri && w.pasid == r.pasid && decide (w.vpage = vpage)) then
    s.onRings (dieRings d) fun _ y =>
      { y with fholds := y.fholds.filter fun h => !(h.page == vpage + 1 && h.ctx == r.ctx && y.job h.ctx == r.pasid) }
  else s

/-- The lowest free place of the buffer of a die (log 45). -/
def Die.faultPlace (x : Die) : Option Nat := lowest (fun i => (tabFind i x.fbuf).isNone) 64

/-- The oldest record that waits on a die and whose buffer has room enters it; those of one fc are numbered first (01 R41). -/
def State.faultBufferEnter (s : State) (d : Fin 4) : State :=
  match (s.die d).faultWait.find? fun e => e.rec_.time != .ofNat 64 s.fc && (s.die (e.home d)).faultPlace.isSome with
  | some e =>
    let h := e.home d
    let i := ((s.die h).faultPlace).getD 0
    let s := s.onDie d fun x => { x with faultWait := x.faultWait.erase e }
    State.deliverFaults ((s.onDie h fun x => { x with fbuf := tabPut i e x.fbuf }).pageEntered d e.rec_) h
  | none => s

/-- FAULT_BUFFER_ENTER on the focus die (04 R152). -/
def execFaultBufferEnter (s : State) : Result := .next (s.faultBufferEnter s.focus.ring.die)

end Sys2Proof.Machine
end

