-- ==== Sys2Proof/Machine/Device.lean ====
section
/-! DEFINITION. Device services (16 R475-R486): keys, the host view of HBM, islands and gating, thermal limits, firmware trust, attestation,
reset and bring-up. -/

namespace Sys2Proof.Machine

/-! ### Key slots (16 R483) -/

/-- Commands that no unwrap or retire carries out: one of OP 3 is refused when it is taken. -/
def settleKeys : List (Fin 4 × BitVec 2 × BitVec 12) → State → State
  | [], s => { s with keyCmds := [] }
  | c :: cs, s => if c.2.1 = 3 then settleKeys cs (s.onDie c.1 fun x => { x with keyErr := true }) else { s with keyCmds := c :: cs }

/-- A write to DEV_KEYCMD: SLOT is set, and a command is taken after those that came before it. -/
def State.keyCommand (s : State) (d : Fin 4) (v : Dword) : State :=
  let op := BitVec.ofNat 2 (bits v.toNat 63 62)
  let slot := BitVec.ofNat 12 (bits v.toNat 61 50)
  let s := s.onDie d fun x => { x with keySlot := slot }
  if op = 0 then s else settleKeys (s.keyCmds ++ [(d, op, slot)]) s

/-- A command ends: the next may be taken. -/
def State.keyDone (s : State) (d : Fin 4) (err : Bool) : State :=
  settleKeys (s.keyCmds.drop 1) (s.onDie d fun x => { x with keyErr := err })

/-- Take a load that is the oldest command: the keys of the wrapped data under the session most recently finished. -/
def State.keyLoad (s : State) (d : Fin 4) (slot : BitVec 12) : State :=
  if s.keyCmds.head? ≠ some (d, 1, slot) then s
  else if slot = 0 ∨ (s.keyOf slot.toNat).isSome then s.keyDone d true
  else
    match s.spdm.finished.bind fun n => Config.unwrapKey n (s.die d).keyData with
    | none => s.keyDone d true
    | some k => State.keyDone { s with keys := tabPut slot.toNat k s.keys } d false

/-- KEY_LOAD (16 R483). -/
def execKeyLoad (die : Fin 4) (slot : BitVec 12) (s : State) : Result := .next (s.keyLoad die slot)

/-- An access in flight that uses a key slot. -/
def State.keyInUse (s : State) (slot : Nat) : Bool :=
  let by_ (r : Option Res) : Bool := r.any fun x => x.space == 0 && x.keyidx == slot
  let ends (x : Option SEnd) : Bool := by_ (x.map SEnd.res)
  allRings.any fun r =>
    let y := s.ring r
    let op (o : MemOp) : Bool := by_ (s.opRes (ElemAt.ofKey o.elem) o.launch o.w0)
    (y.arriving ++ y.waveBuf ++ y.linked).any op || ((s.ringElems r).any fun e => (s.elem e).isb.any fun | .held o => op o | .parked _ _ _ _ _ => false) ||
    (y.transfers.any fun t => t.ready.isNone && (ends t.src || ends t.dst || ends t.idx)) ||
    (y.sparse.any fun m => ends m.dst || ends m.src || ends m.idx) || (y.window.any fun w => w.place == 0 && w.keyidx.toNat == slot) ||
    (s.die r.die).pwsw.any fun w => w.keyidx.toNat == slot || by_ (some w.res)

/-- Take a retire that is the oldest command, once no access in flight uses its slot. -/
def State.keyRetire (s : State) (d : Fin 4) (slot : BitVec 12) : State :=
  if s.keyCmds.head? ≠ some (d, 2, slot) then s
  else if slot = 0 ∨ (s.keyOf slot.toNat).isNone then s.keyDone d true
  else if s.keyInUse slot.toNat then s
  else State.keyDone { s with keys := tabDel slot.toNat s.keys } d false

/-- KEY_RETIRE (16 R483). -/
def execKeyRetire (die : Fin 4) (slot : BitVec 12) (s : State) : Result := .next (s.keyRetire die slot)

/-! ### The host view of HBM (16 R478) -/

/-- The decoder can be committed: one way, a size that is a multiple of 256 MiB, and at most 560 GiB. -/
def hdmGood (size : Dword) (ways : BitVec 4) : Bool := ways == 1 && decide (size.toNat % 2 ^ 28 = 0) && decide (size.toNat ≤ Config.carveBase)

/-- The decoder holds what software programs; its granularity means nothing to the one way that it supports. -/
def State.hdmCommit (s : State) (base size : Dword) (v : Interleave) : State :=
  if s.recovery then s
  else { s with hdmBase := base, hdmSize := size, hdmWays := v.ways, hdmGran := v.gran, hdmOn := hdmGood size v.ways, hdmErr := !hdmGood size v.ways }

/-- HDM_COMMIT (16 R478). -/
def execHdmCommit (base size : Dword) (ways : Interleave) (s : State) : Result := .next (s.hdmCommit base size ways)

/-- An access within the committed range, under key slot 1; with that slot empty a read returns zero and a write is dropped. -/
def State.hostHbm (s : State) (a : HostAcc) : State :=
  let n := a.len.val
  match s.locate a.addr.toNat, s.locate (a.addr.toNat + (n - 1)) with
  | .hbm m, .hbm _ =>
    if s.recovery ∨ !s.hdmOn then s
    else
      match a.write, s.keyOf 1 with
      | true, some k => s.hbmWrite k m (natBytes n a.data.toNat)
      | true, none => s
      | false, some k => { s with hostView := .ofNat 64 (bytesNat (s.hbmRead k m n)) }
      | false, none => { s with hostView := 0 }
  | _, _ => s

/-- HOST_HBM_ACCESS (16 R478). -/
def execHostHbmAccess (a : HostAcc) (s : State) : Result := .next (s.hostHbm a)

/-! ### Power islands (16 R479) -/

/-- A page's island enters retention when the page has been free for 65,000 fc. -/
def State.islandRetention (s : State) (r : RingAt) (page : Fin 8) : State :=
  let i := (s.die r.die).island (pageIsland r.ring page)
  if i.state = 0 ∧ !i.forceon ∧ 65000 ≤ (s.ring r).freeFor[page] then s.onDie r.die (Die.setIsland (pageIsland r.ring page) 1) else s

/-- ISLAND_RETENTION (16 R479). -/
def execIslandRetention (r : RingAt) (page : Fin 8) (s : State) : Result := .next (s.islandRetention r page)

/-- An eDRAM or scratchpad bank-group island, which enters retention only. -/
def retains (n : Nat) : Bool := decide (36 ≤ n ∧ n < 52) || decide (64 ≤ n ∧ n < 80)

/-- A free page counts its fc; one that is placed wakes its island. -/
def State.pageClock (s : State) (r : RingAt) : State :=
  let y := s.ring r
  let free := y.freePages
  (s.setRing r { y with freeFor := Vector.ofFn fun q => if free.contains q.val then min 65000 (y.freeFor[q] + 1) else 0 }).wakePages r

/-- Every island of a die takes a state. -/
def Die.allIslands (st : Nat → Island → BitVec 2) (x : Die) : Die :=
  { x with islands := (List.range 96).foldl (fun t n => tabMod ⟨false, 0⟩ n (fun i => { i with state := st n i }) t) x.islands }

/-- A die holds no region, no bound launch and no mapped queue. -/
def State.quiet (s : State) (d : Fin 4) : Bool :=
  (dieRings d).all (fun r => (s.ring r).regions.isEmpty && (s.ring r).icalLaunch.isNone) &&
  !(s.allLaunches.any fun p => p.2.segs.any fun g => decide (g.die = d)) && !((s.die d).latch.any fun e => e.2.mapped)

/-- A request to gate a die: its islands turn off, but for those forced on and those that only retain, and its front end with them. -/
def State.gate (s : State) (d : Fin 4) : State :=
  if s.quiet d ∧ !(s.die d).gated then
    s.onDie d fun x => { x.allIslands (fun n i => if i.forceon then 0 else if retains n then 1 else 2) with gated := true, feFwup := false }
  else s

/-- GATE on the focus die (16 R479). -/
def execGate (s : State) : Result := .next (s.gate s.focus.ring.die)

/-- A kick starts the wake of a gated die (04 R139, R142). -/
def State.startWake (s : State) (d : Fin 4) : State :=
  if (s.die d).gated then s.onDie d fun x => { x.allIslands (fun _ i => if i.state = 1 ∨ i.state = 2 then 3 else i.state) with waking := true } else s

/-- The wake ends: every island is on, and the firmware runs. -/
def State.dieWake (s : State) (d : Fin 4) : State :=
  if (s.die d).waking then s.onDie d fun x => { x.allIslands (fun _ _ => 0) with gated := false, waking := false, feFwup := true } else s

/-- DIE_WAKE on the focus die (16 R479). -/
def execDieWake (s : State) : Result := .next (s.dieWake s.focus.ring.die)

/-! ### Thermal limits (16 R480) -/

/-- The rings of a die hold for DUTY fc of every 64. -/
def State.setThrottle (s : State) (d : Fin 4) : State :=
  let on := decide (s.fc % 64 < duty (s.die d).tj.toNat)
  s.onRings (dieRings d) fun _ y => { y with throttle := on }

/-- A die's hottest junction reads anew. -/
def State.thermal (s : State) (d : Fin 4) (tj : BitVec 16) : State :=
  State.setThrottle (s.onDie d fun x => { x with tj := tj, hot := if tj.toNat < 1760 then 0 else x.hot }) d

/-- THERMAL_THROTTLE (16 R480). -/
def execThermalThrottle (die : Fin 4) (tj : BitVec 16) (s : State) : Result := .next (s.thermal die tj)

/-- The PASIDs of the contexts with a region on a die. -/
def State.regionJobs (s : State) (d : Fin 4) : List (BitVec 20) := (dieRings d).flatMap fun r => (s.ring r).regions.map Region.pasid

/-- 110 °C for 1,300 fc: a device fault, the rings stop, and every context with a region on the die is terminated. -/
def State.devThermal (s : State) (d : Fin 4) : State :=
  let x := s.die d
  if 1300 ≤ x.hot ∧ !(s.ring ⟨d, 0⟩).stopped then
    let s := s.takeFault d none none 0 ⟨0xA0, 9, 2, x.tj.toNat⟩ { FRec.zero with plane := 3 }
    let s := s.onRings (dieRings d) fun _ y => { y with stopped := true }
    (s.regionJobs d).foldl State.terminateJob s
  else s

/-- DEV_THERMAL on the focus die (16 R480). -/
def execDevThermal (s : State) : Result := .next (s.devThermal s.focus.ring.die)

/-! ### Firmware trust (16 R481) -/

/-- The public keys of an image match the digests fused; while none is fused for the owner, any owner key passes (log 16). -/
def State.keysMatch (s : State) (i : FwImage) : Bool := i.vendorKey == s.vendorDigest && s.ownerDigest.all fun k => i.ownerKey == k

/-- What is wrong with a firmware image: AUX of DEV_FW_AUTH, or none (log 16). -/
def State.imageFault (s : State) (i : FwImage) : Option Nat :=
  if !s.keysMatch i ∨ !Config.rsaVerifies i.image i.vendorKey i.ownerKey then some 1
  else if s.ownerPq ∧ !Config.mldsaVerifies i.image i.vendorKey i.ownerKey then some 2
  else if i.version < s.antiRollback then some 3
  else none

/-- The owner key digest is fused, which can be done once; no row of the table does it (log 16). -/
def State.fuseOwner (s : State) (k : BitVec 512) : State := { s with ownerDigest := s.ownerDigest.or (some k) }

/-- A new image is staged in flash. -/
def State.stageImage (s : State) (img : FwImage) : State := { s with fwStaged := some img }

/-- PLDM_FIRMWARE_UPDATE (16 R481, R485). -/
def execPldmFirmwareUpdate (img : FwImage) (s : State) : Result := .next (s.stageImage img)

/-- The image in flash: the one staged, or the one that runs. -/
def State.flash (s : State) : Option FwImage := s.fwStaged.or s.fwRunning

/-- FWRESTART verifies the image in flash; RESTART then sets and FWUP clears on every die (04 R171). In recovery it does nothing (16 R477). -/
def State.fwrestart (s : State) (d : Fin 4) : State :=
  match s.flash.filter fun _ => !s.recovery with
  | none => s
  | some i =>
    match s.imageFault i with
    | some n => s.takeFault d none none 0 ⟨0xA2, 9, 2, n⟩ { FRec.zero with plane := 3 }
    | none =>
      { s with
        fwRunning := some i, fwStaged := none,
        dies := s.dies.map fun x => { x with feRestart := true, feFwup := false, restarted := x.unowned } }

/-- FWRESTART on the focus die (16 R481). -/
def execFwrestart (s : State) : Result := .next (s.fwrestart s.focus.ring.die)

/-- The bytes of an image, which local SRAM holds from the reset vector (04 R133, R171; log 26). -/
def fwBytes (i : FwImage) : List Byte := natBytes (min 0x80000 (i.image.log2 / 8 + 1)) i.image

/-- A die's front end starts an image: it writes DEV_NATIVEGEN, then sets FWUP (06 R233, 16 R477). -/
def Die.startFw (i : FwImage) (x : Die) : Die :=
  { x with devMaxgen := i.maxgen, devMingen := i.mingen, devGenSet := true, feFwup := true, sram := writeBytes 0 (fwBytes i) x.sram }

/-! ### Reset and bring-up (16 R477) -/

/-- What a cold reset does not touch: fuses, flash, host memory, and the model's own fields. -/
def State.cold (s : State) : State :=
  let defects : Ring → Ring → Ring := fun z y => { z with skip0 := y.skip0, skip1 := y.skip1 }
  { State.reset with
    agenda := s.agenda, focus := s.focus, freeCtr := s.freeCtr, opCtr := s.opCtr, hostMem := s.hostMem, fwRunning := s.fwRunning, fwStaged := s.fwStaged,
    ownerPq := s.ownerPq, antiRollback := s.antiRollback, vendorDigest := s.vendorDigest, ownerDigest := s.ownerDigest, rings := s.rings.map (defects Ring.reset) }

/-- COLD_RESET: reset, verify the image in flash, and start it on every die; an image that fails leaves the module in recovery. -/
def State.coldReset (s : State) : State :=
  let s := s.cold
  match s.flash.filter fun i => (s.imageFault i).isNone with
  | none => { s with recovery := true }
  | some i => { s with fwRunning := some i, fwStaged := none, dies := s.dies.map (Die.startFw i) }

/-- COLD_RESET (16 R477). -/
def execColdReset (s : State) : Result := .next s.coldReset

/-- BOOTGO: queue 0 of a die as a kernel queue, unless it exists, a size is outside 4-15, or the module is in recovery. -/
def State.bootgo (s : State) (d : Fin 4) : State :=
  let x := s.die d
  let q := qidOf d 0
  if s.recovery ∨ (s.latch q).valid ∨ x.bootRsize.toNat < 4 ∨ x.bootCsize.toNat < 4 then s
  else
    State.deliverFaults
      (s.makeQueue q ⟨0, true, .ofNat 64 (x.bootRbase.toNat * 64), .ofNat 64 (x.bootCbase.toNat * 64), none, [], [], []⟩ x.bootRsize x.bootCsize 0 0) d

/-- BOOTGO on the focus die (16 R477). -/
def execBootgo (s : State) : Result := .next (s.bootgo s.focus.ring.die)

/-- A write to DEV_CTL performs the actions of its bits, the lowest first. -/
def State.control (s : State) (d : Fin 4) (v : Dword) : State :=
  let s := if v.getLsbD 0 then s.bootgo d else s
  let s := if v.getLsbD 1 then s.fwrestart d else s
  if v.getLsbD 2 then s.gate d else s

/-- A write to a register of a die, by its offset in the die's part of BAR 0. DEV_NATIVEGEN takes the first write of a hart after a firmware start
(06 R233). -/
def State.writeDie (s : State) (d : Fin 4) (hart : Bool) (off : Nat) (v : Dword) : State :=
  if off = 0x0000 then
    if hart then
      s.onDie d fun x =>
        if x.devGenSet then x else { x with devGenSet := true, devMaxgen := .ofNat 16 (v.toNat / 65536), devMingen := .ofNat 16 v.toNat }
    else s
  else if off = 0x0008 then s.control d v
  else if off = 0x0020 then s.keyCommand d v
  else if 0x100000 ≤ off ∧ off < 0x200000 then
    s.onRing ⟨d, Fin.ofNat 4 ((off - 0x100000) / 0x40000)⟩ (Ring.put ((off - 0x100000) % 0x40000) v)
  else s.onDie d (Die.put off v)

/-! ### Attestation (16 R482) -/

/-- The stage of a requester: 1 after GET_VERSION, 2 after GET_CAPABILITIES, 3 after NEGOTIATE_ALGORITHMS; a request out of order is answered with an
error. `code` is the request code of DMTF SPDM (log 17). -/
def State.spdmAnswer (s : State) (need code : Nat) (args : List Nat) (f : Spdm → Spdm) : State :=
  if s.spdm.stage < need then { s with hostView := .ofNat 64 (Config.spdmContent 0x7F [code]) }
  else { s with spdm := f s.spdm, hostView := .ofNat 64 (Config.spdmContent code args) }

def State.spdmGetVersion (s : State) : State := s.spdmAnswer 0 0x84 [] fun p => { p with stage := 1, algs := none, session := none }
/-- SPDM GET_VERSION (16 R482): it begins a connection anew. -/
def execSpdmGetVersion (s : State) : Result := .next s.spdmGetVersion

def State.spdmGetCapabilities (s : State) : State := s.spdmAnswer 1 0xE1 [] fun p => { p with stage := max p.stage 2 }
/-- SPDM GET_CAPABILITIES (16 R482). -/
def execSpdmGetCapabilities (s : State) : Result := .next s.spdmGetCapabilities

/-- The device selects TPM_ALG_RSASSA_4096 and TPM_ALG_SHA_512. -/
def State.spdmNegotiateAlgorithms (s : State) : State := s.spdmAnswer 2 0xE3 [] fun p => { p with stage := 3, algs := some (.rsassa4096, .sha512) }
/-- SPDM NEGOTIATE_ALGORITHMS (16 R482). -/
def execSpdmNegotiateAlgorithms (s : State) : Result := .next s.spdmNegotiateAlgorithms

def State.spdmGetDigests (s : State) : State := s.spdmAnswer 3 0x81 [] id
/-- SPDM GET_DIGESTS (16 R482). -/
def execSpdmGetDigests (s : State) : Result := .next s.spdmGetDigests

def State.spdmGetCertificate (s : State) (slot : Fin 8) : State := s.spdmAnswer 3 0x82 [slot.val] id
/-- SPDM GET_CERTIFICATE (16 R482). -/
def execSpdmGetCertificate (slot : Fin 8) (s : State) : Result := .next (s.spdmGetCertificate slot)

def State.spdmChallenge (s : State) (nonce : Nat) : State := s.spdmAnswer 3 0x83 [nonce] id
/-- SPDM CHALLENGE (16 R482). -/
def execSpdmChallenge (nonce : Nat) (s : State) : Result := .next (s.spdmChallenge nonce)

/-- The fuse configuration (16 R477, R481): the key digests, OWNERPQ, the anti-rollback counter and the rings' defect maps. -/
def State.fuses (s : State) : List Nat :=
  let skip (x : Option (Fin 34)) : Nat := (x.map fun n => n.val + 1).getD 0
  [s.vendorDigest.toNat, (s.ownerDigest.map BitVec.toNat).getD 0, s.ownerDigest.isSome.toNat, s.ownerPq.toNat, s.antiRollback.toNat] ++
    s.rings.toList.flatMap fun y => [skip y.skip0, skip y.skip1]

/-- What a measurement measures: the boot ROM, the firmware that runs, the fuses, the owner key digest. -/
def State.measured (s : State) (index : Nat) : Option (List Nat) :=
  if index = 1 then some []
  else if index = 2 then some [(s.fwRunning.map FwImage.image).getD 0]
  else if index = 3 then some s.fuses
  else if index = 4 then some [(s.ownerDigest.map BitVec.toNat).getD 0]
  else none

def State.spdmGetMeasurements (s : State) (index : BitVec 8) : State :=
  match s.measured index.toNat with
  | some m => s.spdmAnswer 3 0xE0 (index.toNat :: m) id
  | none => { s with hostView := .ofNat 64 (Config.spdmContent 0x7F [0xE0]) }
/-- SPDM GET_MEASUREMENTS (16 R482). -/
def execSpdmGetMeasurements (index : BitVec 8) (s : State) : Result := .next (s.spdmGetMeasurements index)

def State.spdmKeyExchange (s : State) (exchange : Nat) : State := s.spdmAnswer 3 0xE4 [exchange] fun p => { p with session := some exchange }
/-- SPDM KEY_EXCHANGE (16 R482): a session that FINISH is to finish. -/
def execSpdmKeyExchange (exchange : Nat) (s : State) : Result := .next (s.spdmKeyExchange exchange)

/-- FINISH makes the session of the last key exchange the one most recently finished (16 R483). -/
def State.spdmFinish (s : State) (proof : Nat) : State :=
  match s.spdm.session with
  | some n =>
    if Config.spdmFinishes n proof then s.spdmAnswer 3 0xE5 [proof] fun p => { p with session := none, finished := some n }
    else { s with hostView := .ofNat 64 (Config.spdmContent 0x7F [0xE5]) }
  | none => { s with hostView := .ofNat 64 (Config.spdmContent 0x7F [0xE5]) }
/-- SPDM FINISH (16 R482, R483). -/
def execSpdmFinish (proof : Nat) (s : State) : Result := .next (s.spdmFinish proof)

/-! ### Sensors (16 R485) -/

/-- What a sensor reads as: the state where it holds it; a temperature or power that it does not hold is a free value (log 22). -/
def State.sensor (s : State) (n : Sensor) : State :=
  match n with
  | .junction d => { s with hostView := .ofNat 64 (s.die d).tj.toNat }
  | .eccCor d => { s with hostView := (s.die d).ecccor }
  | _ => { s with hostView := .ofNat 64 ((Config.freeValue s.freeCtr).toNat % 65536), freeCtr := s.freeCtr + 1 }

/-- PLDM_SENSOR_READ (16 R485). -/
def execPldmSensorRead (n : Sensor) (s : State) : Result := .next (s.sensor n)

end Sys2Proof.Machine
end

