-- ==== Sys2Proof/Machine/FrontEnd.lean ====
section
/-! DEFINITION. The front end's harts and the kick pages: the hart map, path F, the custom instructions, kicks, watches, the vigil timer and a
firmware restart (04 R132-R142, R157-R172; 16 R475). -/

namespace Sys2Proof.Machine

/-! ### The hart map (04 R133) -/

/-- What stands at an address of a hart: the region and the offset in it. -/
inductive HPlace where
  | sram (a : Nat)
  | window (h : Fin 64) (off : Nat)
  | dieRegs (off : Nat)
  | faults (off : Nat)
  | latch (i off : Nat)
  | bar (off : Nat)
  | virt (va : Nat)
  | carve (a : Nat)
  | nowhere
  deriving DecidableEq, Repr

/-- An address that bits 56:0 name, with bits 63:57 from bit 56 (04 R134). -/
def virtOf (a : Nat) : Nat := a + if bit a 56 then 127 * 2 ^ 57 else 0

/-- Where an access of `n` bytes lies; it is nowhere unless one region holds it. -/
def hartPlace (addr n : Nat) : HPlace :=
  let within (lo size : Nat) : Bool := decide (lo ≤ addr) && decide (addr + n ≤ lo + size)
  if within 0 0x80000 then .sram addr
  else if within 0x1000_0000 0x40000 ∧ addr % 4096 + n ≤ 4096 then .window (Fin.ofNat 64 ((addr - 0x1000_0000) / 4096)) (addr % 4096)
  else if within 0x2000_0000 0x1000 then .dieRegs (addr - 0x2000_0000)
  else if within 0x2000_1000 0x800 then .faults (addr - 0x2000_1000)
  else if within 0x2100_0000 0x40_0000 then .latch ((addr - 0x2100_0000) / 16) (addr % 16)
  else if within 0x3000_0000 0x100_0000 then .bar (addr - 0x3000_0000)
  else if within 0x4000_0000_0000_0000 (2 ^ 57) then .virt (virtOf (addr - 0x4000_0000_0000_0000))
  else if within (0x5000_0000_0000_0000 + Config.carveBase) (Config.hbmBytes - Config.carveBase) then .carve (addr - 0x5000_0000_0000_0000)
  else .nowhere

/-- The 8-byte register at a place, if it is one of registers. -/
def State.hartReg (s : State) (d : Fin 4) : HPlace → Option Nat
  | .window h off => some ((s.hart d h).window (off / 8 * 8))
  | .dieRegs off => some ((s.die d).feReg (off / 8 * 8))
  | .latch i off => let w := (tabGet Latch.zero i (s.die d).latch).words; some (if off < 8 then w.1 else w.2)
  | .bar off => some (s.dieReg d (off / 8 * 8))
  | _ => none

/-- Write a word of a latch entry; the list of queues with ATTN follows the bit. -/
def Die.putLatch (i : Nat) (hi : Bool) (v : Dword) (x : Die) : Die :=
  let e := (if hi then Latch.putHi v else Latch.putLo v) (tabGet Latch.zero i x.latch)
  { x with
    latch := tabPut i e x.latch,
    attn := if e.attn then (if x.attn.contains i then x.attn else x.attn ++ [i]) else x.attn.filter fun k => k != i }

/-- Write the 8-byte register at a place. A place that is no register, and one that is read only, takes nothing. -/
def State.putHartReg (s : State) (d : Fin 4) (p : HPlace) (v : Dword) : State :=
  match p with
  | .window h off => s.onHart d h (Hart.putWindow (off / 8 * 8) v)
  | .dieRegs off => s.onDie d (Die.putFe (off / 8 * 8) v)
  | .latch i off => s.onDie d (Die.putLatch i (decide (8 ≤ off)) v)
  | .bar off => s.writeDie d true (off / 8 * 8) v
  | _ => s

/-- The offset of a register access in its word, when it is aligned. -/
def HPlace.off : HPlace → Nat
  | .window _ o => o
  | .dieRegs o => o
  | .faults o => o
  | .latch _ o => o
  | .bar o => o
  | _ => 0

/-! ### Path F (04 R134) -/

/-- What an access of a hart comes to: its bytes and the state after it; the access-fault exception; or a walk that blocks the hart. -/
inductive HAccess where
  | done (s : State) (bs : List Byte)
  | fault
  | miss (s : State)

/-- The walk that blocks a hart. -/
def State.hartWalk (s : State) (d : Fin 4) (h : Fin 64) (va : Nat) (write : Bool) : State := fWalk s d (s.hart d h).pasid va write (some h) none

/-- A load of `n` bytes. -/
def State.hartRead (s : State) (d : Fin 4) (h : Fin 64) (addr n : Nat) : HAccess :=
  let p := hartPlace addr n
  match p with
  | .sram a => .done s (readBytes a n (s.die d).sram)
  | .faults off => .done s (((s.die d).fbufBytes.drop off).take n)
  | .carve a => .done s (s.hbmRead s.devKey a n)
  | .virt va =>
    match s.missVa d (s.hart d h).pasid va n false with
    | some m => .miss (s.hartWalk d h m false)
    | none => .done s (s.fRead d (s.hart d h).pasid va n)
  | _ =>
    match s.hartReg d p with
    | some w => if p.off % n = 0 then .done s (((natBytes 8 w).drop (p.off % 8)).take n) else .fault
    | none => .fault

/-- The word that a store of some bytes of a register writes: the other bytes as they read, with BADKICK, which a 1 would clear, as 0. -/
def mergeReg (p : HPlace) (old : Nat) (bs : List Byte) : Nat :=
  let old := match p with | .latch _ off => if 8 ≤ off ∧ bit old 61 then old - 2 ^ 61 else old | _ => old
  let ws := natBytes 8 old
  bytesNat (ws.take (p.off % 8) ++ bs ++ ws.drop (p.off % 8 + bs.length))

/-- A store to local SRAM takes the reservations that other harts hold on its granules (log 12). -/
def Die.unreserve (h : Fin 64) (a n : Nat) (x : Die) : Die :=
  { x with
    harts := Vector.ofFn fun k =>
      let y := x.harts[k]
      if k ≠ h ∧ y.resv.any (fun g => decide (a < 8 * g + 8) && decide (8 * g < a + n)) then { y with resv := none } else y }

/-- A store of bytes. -/
def State.hartWrite (s : State) (d : Fin 4) (h : Fin 64) (addr : Nat) (bs : List Byte) : HAccess :=
  let n := bs.length
  let p := hartPlace addr n
  match p with
  | .sram a => .done (s.onDie d fun x => { x.unreserve h a n with sram := writeBytes a bs x.sram }) []
  | .faults _ => .done s []
  | .carve a => .done (s.hbmWrite s.devKey a bs) []
  | .virt va =>
    match s.missVa d (s.hart d h).pasid va n true with
    | some m => .miss (s.hartWalk d h m true)
    | none => .done (s.fWrite d (s.hart d h).pasid va bs) []
  | _ =>
    match s.hartReg d p with
    | some w => if p.off % n = 0 then .done (s.putHartReg d p (.ofNat 64 (mergeReg p w bs))) [] else .fault
    | none => .fault

/-- A loaded value in a register: zero- or sign-extended. -/
def extend (bs : List Byte) (signed : Bool) : Dword :=
  let v := bytesNat bs
  let n := 8 * bs.length
  if signed ∧ bit v (n - 1) then .ofNat 64 (v + 2 ^ 64 - 2 ^ n) else .ofNat 64 v

/-- An instruction of some bytes completes: the pc moves on, and minstret counts it. -/
def Hart.advance (n : Nat) (h : Hart) : Hart :=
  { h with pc := h.pc + .ofNat 64 n, block := .running, ilen := 0, minstret := if h.haltInstret then h.minstret else h.minstret + 1 }

/-- A hart's access is made: the base instruction that made it, if one did, completes. -/
def Hart.ready (h : Hart) : Hart := if h.ilen = 0 then { h with block := .running } else h.advance h.ilen.toNat

/-- What an atomic act of `n` bytes writes, from the old value and the operand (log 12). -/
def amoValue (op : AmoOp) (n old data : Nat) : Nat :=
  let m := 2 ^ (8 * n)
  let b := data % m
  let signed (v : Nat) : Int := if m / 2 ≤ v then (v : Int) - m else v
  match op with
  | .lr => old
  | .sc => b
  | .swap => b
  | .add => (old + b) % m
  | .xor => old ^^^ b
  | .and => old &&& b
  | .or => old ||| b
  | .min => if signed old ≤ signed b then old else b
  | .max => if signed old ≤ signed b then b else old
  | .minu => min old b
  | .maxu => max old b

/-- An access that goes on, once made, as `k` says. An access fault traps. A walk blocks the hart until it makes the access again. -/
def State.pathGo (s : State) (d : Fin 4) (h : Fin 64) (a : FAccess) (r : HAccess) (cause : Nat) (addr : Dword) (k : State → List Byte → State) :
    State :=
  match r with
  | .done s bs => k s bs
  | .fault => s.onHart d h fun x => Hart.trap { x with ilen := 0 } cause addr
  | .miss s => s.onHart d h fun x => { x with block := .pathF a }

/-- An atomic act (log 12): a misaligned address traps; a reservation is one of local SRAM, and SC without it writes nothing. -/
def State.amo (s : State) (d : Fin 4) (h : Fin 64) (op : AmoOp) (rd : BitVec 5) (addr : Dword) (double : Bool) (data : Dword) : State :=
  let n := if double then 8 else 4
  let a := addr.toNat
  let go := s.pathGo d h (.amo op rd addr double data)
  let ends (v : Dword) (resv : Option Nat) (s : State) : State := s.onHart d h fun x => Hart.ready { x.setReg rd v with resv := resv }
  let local_ : Bool := match hartPlace a n with | .sram _ => true | _ => false
  if a % n ≠ 0 then s.onHart d h fun x => Hart.trap { x with ilen := 0 } (if op = .lr then 4 else 6) addr
  else
    match op with
    | .lr => go (s.hartRead d h a n) 5 addr fun s bs => ends (extend bs true) (if local_ then some (a / 8) else none) s
    | .sc =>
      if local_ ∧ (s.hart d h).resv = some (a / 8) then go (s.hartWrite d h a (natBytes n data.toNat)) 7 addr fun s _ => ends 0 none s
      else if hartPlace a n = .nowhere then go .fault 7 addr fun s _ => s
      else ends 1 none s
    | _ =>
      go (s.hartRead d h a n) 7 addr fun s bs =>
        s.pathGo d h (.amo op rd addr double data) (s.hartWrite d h a (natBytes n (amoValue op n (bytesNat bs) data.toNat))) 7 addr fun s _ =>
          ends (extend bs true) (s.hart d h).resv s

/-- An access that a hart's load, store, atomic act or FENCE makes. An access fault traps: 5 for a load, 7 for a store. -/
def State.pathF (s : State) (d : Fin 4) (h : Fin 64) (a : FAccess) : State :=
  match a with
  | .load rd addr size signed =>
    s.pathGo d h a (s.hartRead d h addr.toNat (2 ^ size.val)) 5 addr fun s bs => s.onHart d h fun x => (x.setReg rd (extend bs signed)).ready
  | .store addr size data =>
    s.pathGo d h a (s.hartWrite d h addr.toNat (natBytes (2 ^ size.val) data.toNat)) 7 addr fun s _ => s.onHart d h Hart.ready
  | .amo op rd addr double data => s.amo d h op rd addr double data
  | .fence => s.onHart d h Hart.ready

/-- PATH_F_ACCESS (04 R133, R134). -/
def execPathFAccess (die : Fin 4) (hart : Fin 64) (a : FAccess) (s : State) : Result := .next (s.pathF die hart a)

/-- A write of a register by the host through BAR 0, or by a hart through its map. -/
def State.registerWrite (s : State) (who : RegWriter) (addr value : Dword) : State :=
  let a := addr.toNat
  match who with
  | .host => if s.recovery ∨ a % 8 ≠ 0 ∨ 2 ^ 26 ≤ a then s else s.writeDie (Fin.ofNat 4 (a / 2 ^ 24)) false (a % 2 ^ 24) value
  | .hart d _ => if a % 8 ≠ 0 then s else s.putHartReg d (hartPlace a 8) value

/-- REGISTER_WRITE (00 R8). -/
def execRegisterWrite (who : RegWriter) (addr value : Dword) (s : State) : Result := .next (s.registerWrite who addr value)

/-! ### The custom instructions (04 R160) -/

/-- The hart in focus, and its die. -/
def State.me (s : State) : Hart := s.hart s.focus.ring.die s.focus.hart
def State.onMe (s : State) (f : Hart → Hart) : State := s.onHart s.focus.ring.die s.focus.hart f

/-- The instruction completes: its result, and the next pc. -/
def State.retireF (s : State) (rd : BitVec 5) (v : Nat) : State :=
  s.onMe fun h => (h.setReg rd (.ofNat 64 v)).advance 4

/-- The hart blocks at its instruction. -/
def State.blockF (s : State) (b : HBlock) : State := s.onMe fun h => { h with block := b }

/-- The encoding of a custom instruction. -/
def customWord (funct3 : Nat) (rd rs1 rs2 : BitVec 5) : Nat :=
  rs2.toNat * 2 ^ 20 + rs1.toNat * 2 ^ 15 + funct3 * 2 ^ 12 + rd.toNat * 2 ^ 7 + 0x0B

/-- The illegal-instruction exception. -/
def State.illegal (s : State) (w : Nat) : State := s.onMe fun h => h.trap 2 (.ofNat 64 w)

/-- ILLEGAL_INSTRUCTION (01 R78, 04 R132). -/
def execIllegalInstruction (w : Word) (s : State) : Result := .next (s.illegal w.toNat)

/-- A register argument that is a QID, a hart number or an address of 64 bytes of SRAM. -/
def argQid (v : Dword) : Option (BitVec 20) := if v.toNat < 2 ^ 20 then some (.ofNat 20 v.toNat) else none
def argHart (v : Dword) : Option (Fin 64) := if v.toNat < 64 then some (Fin.ofNat 64 v.toNat) else none
def argSram (v : Dword) : Option Nat := if v.toNat % 64 = 0 ∧ v.toNat < 0x80000 then some v.toNat else none

/-- A QID homed on the die. -/
def argHome (d : Fin 4) (v : Dword) : Option (BitVec 20) := (argQid v).filter fun q => decide (homeDie q = d)

/-! ### FWAIT (04 R161) -/

/-- An event word. -/
def fevent (code arg status : Nat) : Nat := 2 ^ 63 + status % 65536 * 2 ^ 32 + arg % 2 ^ 24 * 256 + code

/-- A fault delivery that a queue's hart is owed: of an entry of the queue, and for the bootstrap queue of every entry of the die. -/
def FbEntry.owes (q : BitVec 20) (e : FbEntry) : Bool :=
  (e.toJob && (e.queue.map Prod.fst) == some q) || (localIx q == 0 && e.toLog)

/-- The delivery made by one FAULT event. -/
def FbEntry.take (q : BitVec 20) (e : FbEntry) : FbEntry :=
  if e.toJob ∧ (e.queue.map Prod.fst) = some q then { e with toJob := false } else { e with toLog := false }

/-- Take the report that FWAIT returns: the entry of its launch is free. -/
def State.takeReport (s : State) (d : Fin 4) (r : Report) : State :=
  let s := s.onDie d fun x => { x with reports := x.reports.erase r }
  match s.findLaunch r.launch.toNat with
  | some l => (s.onLaunch l fun x => if x.state = .done then { x with state := .free } else x).freeNamed (Fin.ofNat 4 (l / 4096))
  | none => s

/-- An unmapped hart that takes attention events: the lowest-numbered free hart blocked in FWAIT. -/
def Die.attends (x : Die) (h : Fin 64) : Bool :=
  !((List.range h.val).any fun k =>
    let y := x.harts[k % 64]'(Nat.mod_lt _ (by decide))
    !y.mapped && match y.block with | .fwait _ => true | _ => false)

/-- FWAIT of a mapped hart, once no restart is asked for. -/
def State.fwaitMapped (s : State) (rd : BitVec 5) : State :=
  let d := s.focus.ring.die
  let x := s.die d
  let h := s.me
  let q := h.qid
  let e := s.latch q
  match x.oldestFault (FbEntry.owes q) with
  | some (i, _) => State.retireF (s.onDie d (Die.delivered i (FbEntry.take q))) rd (fevent 0x06 i 0)
  | none =>
    match x.reports.find? fun r => r.qid == q with
    | some r => (s.takeReport d r).retireF rd (fevent 0x04 r.launch.toNat r.status.toNat)
    | none =>
      if h.arm ∧ h.watchHit then
        State.retireF (s.onMe fun h => { h.disarm with arm := false, met := true, watchHit := false }) rd (fevent 0x01 0 0)
      else if !h.arm ∧ !e.stop ∧ seqAfter e.lseq e.taken then
        State.retireF (s.onMe Hart.disarm) rd ((e.taken + 1).toNat % 2 ^ e.rsize.toNat)
      else if h.vigilExpired ∧ x.feRunq ≠ 0 then s.retireF rd (fevent 0x02 0 0)
      else s.blockF (.fwait rd)

/-- FWAIT: the first case that holds, or the hart blocks. -/
def State.fwait (s : State) (rd : BitVec 5) : State :=
  let d := s.focus.ring.die
  let x := s.die d
  if rd = 0 then s.illegal (customWord 0 rd 0 0)
  else if x.feRestart then
    State.retireF (s.onDie d fun x => { x with restarted := if x.restarted.contains s.focus.hart.val then x.restarted else x.restarted ++ [s.focus.hart.val] })
      rd (fevent 0x05 0 0)
  else if s.me.mapped then s.fwaitMapped rd
  else
    match x.attn with
    | i :: rest =>
      if x.attends s.focus.hart then
        let s := s.onDie d fun x => { x with attn := rest, latch := tabMod Latch.zero i (fun e => { e with attn := false }) x.latch }
        s.retireF rd (fevent 0x03 (qidOf d i).toNat 0)
      else s.blockF (.fwait rd)
    | [] => s.blockF (.fwait rd)

/-- FWAIT (04 R161). -/
def execFwait (rd : BitVec 5) (s : State) : Result := .next (s.fwait rd)

/-- FLATCH: LSEQ, whether packets are pending, and whether the queue exists. -/
def State.flatch (s : State) (rd rs1 : BitVec 5) : State :=
  match argQid (s.me.reg rs1) with
  | none => s.illegal (customWord 1 rd rs1 0)
  | some q =>
    let e := s.latch q
    if e.valid ∧ homeDie q = s.focus.ring.die then
      s.retireF rd (e.lseq.toNat + flagAt (seqAfter e.lseq e.taken) 16 + flagAt e.valid 17)
    else s.retireF rd 0

/-- FLATCH (04 R162). -/
def execFlatch (rd rs1 : BitVec 5) (s : State) : Result := .next (s.flatch rd rs1)

/-- FPOST: the record at rs1 goes to its entry of the completion ring; it blocks while the ring is full. -/
def State.fpost (s : State) (rs1 rs2 : BitVec 5) : State :=
  let d := s.focus.ring.die
  let h := s.me
  let e := s.latch h.qid
  let c := BitVec.ofNat 16 (h.reg rs2).toNat
  match (argSram (h.reg rs1)).filter fun _ => h.mapped && decide ((h.reg rs2).toNat = (e.cpost + 1).toNat) with
  | none => s.illegal (customWord 2 0 rs1 rs2)
  | some a =>
    if 2 ^ e.csize.toNat ≤ seqDist e.cpost e.cack then s.blockF (.fpost (h.reg rs1) c)
    else
      let bs := (readBytes a 64 (s.die d).sram).take 6 ++ natBytes 2 c.toNat ++ (readBytes a 64 (s.die d).sram).drop 8
      let at_ := h.cbase.toNat * 64 + 64 * (c.toNat % 2 ^ h.csize.toNat)
      let posted (s : State) : State := State.retireF (s.onLatch h.qid fun l => { l with cpost := c }) 0 0
      if localIx h.qid = 0 ∧ h.pasid = 0 then posted (s.hbmWrite s.devKey at_ bs)
      else
        match s.fBlock d h.pasid at_ 64 true (some s.focus.hart) with
        | some s => s.blockF (.fpost (h.reg rs1) c)
        | none => posted (s.fWrite d h.pasid at_ bs)

/-- FPOST (04 R164). -/
def execFpost (rs1 rs2 : BitVec 5) (s : State) : Result := .next (s.fpost rs1 rs2)

/-- FQMAP: hart rs2 owns queue rs1. -/
def State.fqmap (s : State) (rs1 rs2 : BitVec 5) : State :=
  let d := s.focus.ring.die
  match argHome d (s.me.reg rs1), argHart (s.me.reg rs2) with
  | some q, some k =>
    let e := s.latch q
    let y := s.hart d k
    if !e.valid ∨ e.mapped ∨ y.mapped ∨ y.rsize ≠ e.rsize ∨ y.csize ≠ e.csize then s.illegal (customWord 3 0 rs1 rs2)
    else
      let s := s.onHart d k fun y => { y.disarm with mapped := true, qid := q, arm := false, met := false, watchHit := false }
      State.retireF (s.onLatch q fun e => { e with mapped := true }) 0 0
  | _, _ => s.illegal (customWord 3 0 rs1 rs2)

/-- FQMAP (04 R165). -/
def execFqmap (rs1 rs2 : BitVec 5) (s : State) : Result := .next (s.fqmap rs1 rs2)

/-- FQDEMAP: hart rs1 gives up its queue, once it is the caller or blocked in FWAIT. -/
def State.fqdemap (s : State) (rd rs1 : BitVec 5) : State :=
  let d := s.focus.ring.die
  match argHart (s.me.reg rs1) with
  | none => s.illegal (customWord 4 rd rs1 0)
  | some k =>
    let y := s.hart d k
    let waits := match y.block with | .fwait _ => true | _ => false
    if k ≠ s.focus.hart ∧ !waits then s.blockF (.fqdemap rd k)
    else if y.mapped then
      let s := s.onHart d k fun y => { y.disarm with mapped := false, arm := false }
      State.retireF (s.onLatch y.qid fun e => { e with mapped := false }) rd y.qid.toNat
    else s.retireF rd (2 ^ 64 - 1)

/-- FQDEMAP (04 R166). -/
def execFqdemap (rd rs1 : BitVec 5) (s : State) : Result := .next (s.fqdemap rd rs1)

/-- FSEQCHK: 1 a duplicate, 0 expected and claimed, 2 a gap. -/
def State.fseqchk (s : State) (rd rs1 rs2 : BitVec 5) : State :=
  let v := (s.me.reg rs2).toNat
  match (argHome s.focus.ring.die (s.me.reg rs1)).filter fun _ => decide (v < 65536) with
  | none => s.illegal (customWord 5 rd rs1 rs2)
  | some q =>
    let e := s.latch q
    let n := seqDist (.ofNat 16 v) e.taken
    if n = 0 ∨ 32768 ≤ n then s.retireF rd 1
    else if n = 1 ∧ !seqAfter (.ofNat 16 v) e.lseq then State.retireF (s.onLatch q fun e => { e with taken := .ofNat 16 v }) rd 0
    else s.retireF rd 2

/-- FSEQCHK (04 R163). -/
def execFseqchk (rd rs1 rs2 : BitVec 5) (s : State) : Result := .next (s.fseqchk rd rs1 rs2)

/-! ### FLAUNCH (04 R167) -/

/-- The launch that a descriptor presents; its predecessors are the launches of the queue that the table of the die still holds. -/
def State.descLaunch (s : State) (d : Fin 4) (h : Hart) (seq : BitVec 16) (b : LaunchBody) : Present :=
  let f := (s.die d).phase h.pasid
  let past := ((s.queue h.qid).map Queue.past).getD []
  { pasid := h.pasid, qid := h.qid, pseq := seq, device := false, parent := none, graph := b.graph, phase := f.num + f.pend.length, prio := b.prio,
    rscope := 0,
    deps := (depsOf b).filterMap fun p => ((s.die d).launchOf h.qid p.1).map fun e => (⟨e.1, e.2.serial, p.2⟩ : Dep),
    parentOps := [], iridx := b.iridx, ioff := b.ioff, aridx := b.aridx, aoff := b.aoff,
    void := (depsOf b).any fun p =>
      tabFind p.1.toNat past == some true || ((s.die d).launchOf h.qid p.1).any fun e => e.2.state == .done && e.2.status != 0 }

/-- FLAUNCH: rd takes the launch number, or bit 63 and the status of the refusal. -/
def State.flaunch (s : State) (rd rs1 : BitVec 5) : State :=
  let d := s.focus.ring.die
  let h := s.me
  match (argSram (h.reg rs1)).filter fun _ => h.mapped with
  | none => s.illegal (customWord 6 rd rs1 0)
  | some a =>
    let bs := readBytes a 64 (s.die d).sram
    let ws : List Dword := (List.range 8).map fun i => .ofNat 64 (bytesNat ((bs.drop (8 * i)).take 8))
    let w := bytesNat (bs.take 8)
    let seq := BitVec.ofNat 16 w
    let refused (s : State) (st : Nat) : State := State.retireF (s.notePast h.qid seq true) rd (2 ^ 63 + st)
    if bits w 35 16 ≠ h.qid.toNat ∨ bits w 55 36 ≠ h.pasid.toNat then s.illegal (customWord 6 rd rs1 0)
    else
      match decodePacket (.ofNat 64 (bits w 63 56 * 2 ^ 56 + 2 ^ 48 + seq.toNat * 2 ^ 32) :: ws.drop 1) with
      | .ok (.pktLaunch _ b) =>
        match s.present d (s.descLaunch d h seq b) with
        | .wait s => s.blockF (.flaunch rd (h.reg rs1))
        | .fault s => refused s 3
        | .refused st => refused s st
        | .taken s l => State.retireF (s.notePast h.qid seq false) rd (launchNumber l (s.launch l))
      | .ok _ => refused s 0x0201
      | .error e => refused s e.status

/-- FLAUNCH (04 R167). -/
def execFlaunch (rd rs1 : BitVec 5) (s : State) : Result := .next (s.flaunch rd rs1)

/-- FVIGIL: arm the timer of hart rs1, or read it. -/
def State.fvigil (s : State) (rd rs1 : BitVec 5) : State :=
  let d := s.focus.ring.die
  match argHart (s.me.reg rs1) with
  | none => s.illegal (customWord 7 rd rs1 0)
  | some k =>
    if (s.hart d k).vigilArmed then s.retireF rd (s.hart d k).remain.toNat
    else
      let n := (s.die d).feVigil
      State.retireF (s.onHart d k fun y => { y with vigilArmed := true, vigilExpired := false, remain := n }) rd n.toNat

/-- FVIGIL (04 R168). -/
def execFvigil (rd rs1 : BitVec 5) (s : State) : Result := .next (s.fvigil rd rs1)

/-! ### Kicks (04 R138-R142) -/

/-- A kick-page write that is dropped is counted. -/
def State.kickErr (s : State) (q : BitVec 20) : State := s.onDie (homeDie q) fun x => { x with feKickerr := x.feKickerr + 1 }

/-- A write to FE_KICK. -/
def State.kick (s : State) (q : BitVec 20) (single : Bool) (w : Dword) : State :=
  let e := s.latch q
  let x := w.toNat
  let n := BitVec.ofNat 16 (bits x 63 48)
  if s.recovery then s
  else if !single ∨ !e.valid ∨ bits x 47 16 ≠ 0 then s.kickErr q
  else if bits x 15 0 ≠ (n.toNat + 1) % 2 ^ e.rsize.toNat ∨ 2 ^ e.rsize.toNat < seqDist n e.taken then
    State.kickErr (s.onLatch q fun e => { e with badkick := true }) q
  else if seqAfter n e.lseq then State.startWake (State.raise (s.onLatch q fun e => { e with lseq := n }) q) (homeDie q)
  else s

/-- FE_KICK (04 R139). -/
def execFeKick (q : BitVec 20) (single : Bool) (w : Dword) (s : State) : Result := .next (s.kick q single w)

/-- A write to FE_CACK. -/
def State.ack (s : State) (q : BitVec 20) (single : Bool) (w : Dword) : State :=
  let e := s.latch q
  let v := BitVec.ofNat 16 w.toNat
  if s.recovery then s
  else if !single then s.kickErr q
  else if seqDist v e.cack ≤ seqDist e.cpost e.cack then s.onLatch q fun e => { e with cack := v }
  else s.onLatch q fun e => { e with badkick := true }

/-- FE_CACK (04 R140). -/
def execFeCack (q : BitVec 20) (single : Bool) (w : Dword) (s : State) : Result := .next (s.ack q single w)

/-! ### Watches, the vigil timer and a restart (04 R158, R168, R171) -/

/-- An armed watch reads its word; one that satisfies OP is met. -/
def State.checkWatch (s : State) (d : Fin 4) (k : Fin 64) : State :=
  let h := s.hart d k
  let va := h.waddr.toNat * 8
  if !h.arm ∨ h.watchHit then s
  else
    match s.fBlock d h.pasid va 8 false (some k) with
    | some s => s
    | none =>
      if waitMet h.wop.toNat (bytesNat (s.fRead d h.pasid va 8)) h.wval.toNat then s.onHart d k fun y => { y with watchHit := true } else s

/-- WATCH_MET (04 R158). -/
def execWatchMet (die : Fin 4) (hart : Fin 64) (s : State) : Result := .next (s.checkWatch die hart)

/-- A vigil timer that has reached zero expires; INTERVAL 0, as it stands then, disables expiry (log 56). -/
def State.vigilExpire (s : State) (d : Fin 4) (k : Fin 64) : State :=
  s.onHart d k fun h => if h.vigilArmed ∧ h.remain = 0 ∧ (s.die d).feVigil ≠ 0 then { h with vigilExpired := true } else h

/-- VIGIL_EXPIRY (04 R168). -/
def execVigilExpiry (die : Fin 4) (hart : Fin 64) (s : State) : Result := .next (s.vigilExpire die hart)

/-- An fc of a hart: mcycle counts, and a vigil timer that runs counts down. -/
def Hart.clock (h : Hart) : Hart :=
  let h := if h.haltCycle then h else { h with mcycle := h.mcycle + 1 }
  if h.vigilArmed ∧ h.remain ≠ 0 then { h with remain := h.remain - 1 } else h

/-- The harts of a die pass an fc. -/
def Die.hartClock (x : Die) : Die := { x with harts := x.harts.map Hart.clock }

/-- Every hart has taken the RESTART event: the harts are reset, and the new image starts. The latch is untouched (04 R141, R171): the manual's firmware
has given up its queues by FQDEMAP (log 26). -/
def State.restartReset (s : State) (d : Fin 4) : State :=
  let x := s.die d
  if x.feRestart ∧ (List.range 64).all fun k => x.restarted.contains k then
    let s := ((x.unowned.map (Fin.ofNat 64)).filter fun k => (s.hart d k).mapped).foldl (fun s k => s.demap (s.hart d k).qid) s
    s.onDie d fun x =>
      let x := { x with harts := Vector.replicate 64 Hart.reset, restarted := [], feRestart := false, devGenSet := false }
      match s.fwRunning with
      | some i => x.startFw i
      | none => x
  else s

/-- FIRMWARE_RESTART_RESET on the focus die (04 R171). -/
def execFirmwareRestartReset (s : State) : Result := .next (s.restartReset s.focus.ring.die)

/-! ### Mapping (04 R169, R170; log 26) -/

/-- A queue that no hart holds is runnable: packets to take and no unmet wait, a report or a fault kept for it, or its wait found met. One that is
stopped has no packets to take (log 61). -/
def Die.runnable (x : Die) (d : Fin 4) (i : Nat) (q : Queue) : Bool :=
  let e := tabGet Latch.zero i x.latch
  let qid := qidOf d i
  e.valid && !e.mapped &&
    ((q.wait.isNone && !e.stop && seqAfter e.lseq e.taken) || (x.reports.any fun r => r.qid == qid) || q.wait.any (fun w => w.found.isSome) ||
      x.fbuf.any fun p => p.2.owes qid)

/-- Keep the runnable queues, oldest first. -/
def Die.noteRunnable (d : Fin 4) (x : Die) : Die :=
  let now := (x.queues.filter fun p => x.runnable d p.1 p.2).map Prod.fst
  { x with runq := (x.runq.filter now.contains) ++ now.filter fun i => !x.runq.contains i }

/-- A mapped queue that its hart gives up at once for a runnable one: no claimed packet, no watch and no launch in flight (04 R170). -/
def State.spare (s : State) (q : BitVec 20) : Bool := localIx q ≠ 0 && (s.queue q).all fun x => x.opens.isEmpty && x.wait.isNone

/-- The hart onto which the firmware maps a queue: a free one, or one whose queue is spare, or one whose vigil timer has expired; none of those `used`. -/
def State.seat (s : State) (d : Fin 4) (used : List (Fin 64)) : Option (Fin 64) :=
  let hs := (s.die d).harts
  let fw := (List.finRange 64).filter fun k => !hs[k].own && !used.contains k
  (fw.find? fun k => !hs[k].mapped).or
    ((fw.find? fun k => s.spare hs[k].qid).or (fw.find? fun k => hs[k].vigilExpired && localIx hs[k].qid != 0))

/-- Map a queue onto a hart (04 R165), whose queue, if it holds one, is demapped; a wait that is not met is watched again. -/
def State.mapQueue (s : State) (d : Fin 4) (k : Fin 64) (i : Nat) : State :=
  let qid := qidOf d i
  match s.queue qid with
  | none => s
  | some q =>
    let s := if (s.hart d k).mapped then s.demap (s.hart d k).qid else s
    let e := s.latch qid
    let s := s.onHart d k fun h =>
      { h.disarm with
        mapped := true, qid := qid, pasid := q.pasid, rbase := .ofNat 58 (q.rbase.toNat / 64), rsize := e.rsize,
        cbase := .ofNat 58 (q.cbase.toNat / 64), csize := e.csize, arm := false, met := false, watchHit := false }
    let s := s.onLatch qid fun e => { e with mapped := true, attn := false }
    let s := s.onDie d fun x => { x with attn := x.attn.erase i, runq := x.runq.erase i }
    match q.wait.filter fun w => w.found.isNone with
    | some w => s.armWait qid w
    | none => s

/-- Map queues in order while there are harts for them: no hart takes two queues in one fc. -/
def State.mapEach (d : Fin 4) : List Nat → List (Fin 64) → State → State
  | [], _, s => s
  | i :: is, used, s =>
    match s.seat d used with
    | some k => State.mapEach d is (k :: used) (s.mapQueue d k i)
    | none => s

/-- Map the oldest runnable queues; those given up for them may be runnable in turn. -/
def State.mapOldest (s : State) (d : Fin 4) : State :=
  let s := s.onDie d (Die.noteRunnable d)
  (State.mapEach d (s.die d).runq [] s).onDie d (Die.noteRunnable d)

/-- The firmware of a die keeps the bootstrap queue mapped (04 R152), reads the words that demapped queues wait for, maps runnable queues, and keeps
FE_RUNQ. -/
def State.mapQueues (s : State) (d : Fin 4) : State :=
  let x := s.die d
  if !x.feFwup ∨ x.gated ∨ x.unowned.isEmpty then s
  else
    let s := x.queues.foldl (fun s p => s.pollWait (qidOf d p.1)) s
    let s := if x.queues.any (fun p => p.1 == 0) && !(s.latch (qidOf d 0)).mapped then
        match s.seat d [] with
        | some k => s.mapQueue d k 0
        | none => s
      else s
    State.onDie (s.mapOldest d) d fun x => { x with feRunq := .ofNat 20 x.runq.length }

/-- Reports kept for queues that firmware serves complete their packets (04 R161). -/
def State.serveReports (s : State) (d : Fin 4) : State :=
  (s.die d).reports.foldl (fun s r =>
    if s.serving r.qid then State.finish (s.takeReport d r) r.qid r.pseq r.status.toNat r.launch.toNat false else s) s

end Sys2Proof.Machine
end

