-- ==== Sys2Proof/Machine/Rv.lean ====
section
/-! DEFINITION. The base instructions of the harts: RV64IMAC with Zicsr and Zifencei in machine mode (04 R132), as the RISC-V unprivileged and
privileged specifications give them, to which the manual leaves them (log 12). -/

namespace Sys2Proof.Machine

/-! ### Instructions -/

inductive RvAlu where
  | add | sub | sll | slt | sltu | xor | srl | sra | or | and
  | mul | mulh | mulhsu | mulhu | div | divu | rem | remu
  deriving DecidableEq, Repr

inductive RvCond where
  | eq | ne | lt | ge | ltu | geu
  deriving DecidableEq, Repr

/-- The second operand of an ALU instruction, and the operand of a CSR instruction: a register or an immediate. -/
inductive RvSrc where
  | reg (r : BitVec 5)
  | imm (v : Dword)
  deriving DecidableEq, Repr

/-- A base instruction; `word` marks the forms that work on the low 32 bits and sign-extend. -/
inductive Rv where
  | lui (rd : BitVec 5) (imm : Dword)
  | auipc (rd : BitVec 5) (imm : Dword)
  | jal (rd : BitVec 5) (off : Dword)
  | jalr (rd rs1 : BitVec 5) (off : Dword)
  | branch (c : RvCond) (rs1 rs2 : BitVec 5) (off : Dword)
  | load (rd rs1 : BitVec 5) (off : Dword) (size : Fin 4) (signed : Bool)
  | store (rs1 rs2 : BitVec 5) (off : Dword) (size : Fin 4)
  | alu (op : RvAlu) (word : Bool) (rd rs1 : BitVec 5) (b : RvSrc)
  | amo (op : AmoOp) (rd rs1 rs2 : BitVec 5) (double : Bool)
  /-- `act` is 1 to write, 2 to set and 3 to clear bits -/
  | csr (act : Nat) (rd : BitVec 5) (src : RvSrc) (n : BitVec 12)
  | fence
  | fenceI
  | ecall
  | ebreak
  | mret
  | wfi
  deriving DecidableEq, Repr

/-! ### The 32-bit encodings -/

/-- The `n`-bit two's complement value of a number, as a doubleword. -/
def sx (n v : Nat) : Dword := (BitVec.ofNat n v).signExtend 64

def rvReg (w lo : Nat) : BitVec 5 := .ofNat 5 (bits w (lo + 4) lo)
def rvImmI (w : Nat) : Dword := sx 12 (bits w 31 20)
def rvImmS (w : Nat) : Dword := sx 12 (bits w 31 25 * 32 + bits w 11 7)
def rvImmB (w : Nat) : Dword := sx 13 (bits w 31 31 * 4096 + bits w 7 7 * 2048 + bits w 30 25 * 32 + bits w 11 8 * 2)
def rvImmU (w : Nat) : Dword := sx 32 (bits w 31 12 * 4096)
def rvImmJ (w : Nat) : Dword := sx 21 (bits w 31 31 * 2 ^ 20 + bits w 19 12 * 4096 + bits w 20 20 * 2048 + bits w 30 21 * 2)

def rvCond (f3 : Nat) : Option RvCond :=
  match f3 with
  | 0 => some .eq
  | 1 => some .ne
  | 4 => some .lt
  | 5 => some .ge
  | 6 => some .ltu
  | 7 => some .geu
  | _ => none

/-- A load of funct3: its size, and whether it sign-extends. -/
def rvLoad (f3 : Nat) : Option (Fin 4 × Bool) :=
  if f3 < 4 then some (Fin.ofNat 4 f3, true) else if f3 < 7 then some (Fin.ofNat 4 (f3 - 4), false) else none

/-- The operation of funct3 with an immediate; bit 30 makes the right shift arithmetic. -/
def rvOpImm (f3 : Nat) (high : Bool) : RvAlu :=
  match f3 with
  | 0 => .add
  | 1 => .sll
  | 2 => .slt
  | 3 => .sltu
  | 4 => .xor
  | 5 => if high then .sra else .srl
  | 6 => .or
  | _ => .and

/-- An immediate operation; the bits above a shift amount are 0, or 0b010000 for the arithmetic right shift. -/
def rvImmOp (w f3 : Nat) (word : Bool) : Option Rv :=
  let top := if word then 25 else 26
  let high := bits w 31 top * 2 ^ (top - 25)
  let op := rvOpImm f3 (high == 32)
  let shift := f3 == 1 || f3 == 5
  let rd := rvReg w 7
  let rs1 := rvReg w 15
  if shift then
    if high = 0 ∨ (f3 = 5 ∧ high = 32) then some (.alu op word rd rs1 (.imm (.ofNat 64 (bits w (top - 1) 20)))) else none
  else if word ∧ f3 ≠ 0 then none
  else some (.alu op word rd rs1 (.imm (rvImmI w)))

/-- A register operation of funct7 and funct3. -/
def rvRegOp (f7 f3 : Nat) (word : Bool) : Option RvAlu :=
  match f7, f3 with
  | 0, 0 => some .add
  | 32, 0 => some .sub
  | 0, 1 => some .sll
  | 0, 5 => some .srl
  | 32, 5 => some .sra
  | 0, n => if word then none else some (rvOpImm n false)
  | 1, 0 => some .mul
  | 1, 1 => if word then none else some .mulh
  | 1, 2 => if word then none else some .mulhsu
  | 1, 3 => if word then none else some .mulhu
  | 1, 4 => some .div
  | 1, 5 => some .divu
  | 1, 6 => some .rem
  | 1, 7 => some .remu
  | _, _ => none

def rvAmo (f5 : Nat) : Option AmoOp :=
  match f5 with
  | 0 => some .add
  | 1 => some .swap
  | 2 => some .lr
  | 3 => some .sc
  | 4 => some .xor
  | 8 => some .or
  | 12 => some .and
  | 16 => some .min
  | 20 => some .max
  | 24 => some .minu
  | 28 => some .maxu
  | _ => none

def rvSystem (w : Nat) : Option Rv :=
  let f3 := bits w 14 12
  if f3 = 0 then
    if w = 0x73 then some .ecall
    else if w = 0x0010_0073 then some .ebreak
    else if w = 0x3020_0073 then some .mret
    else if w = 0x1050_0073 then some .wfi
    else none
  else if f3 = 4 then none
  else
    let src : RvSrc := if f3 < 4 then .reg (rvReg w 15) else .imm (.ofNat 64 (bits w 19 15))
    some (.csr (f3 % 4) (rvReg w 7) src (.ofNat 12 (bits w 31 20)))

/-- The base instruction of a 32-bit word; none for every other word, which is an illegal instruction. -/
def decodeRv (w : Nat) : Option Rv :=
  let f3 := bits w 14 12
  let rd := rvReg w 7
  let rs1 := rvReg w 15
  let rs2 := rvReg w 20
  match bits w 6 0 with
  | 0x37 => some (.lui rd (rvImmU w))
  | 0x17 => some (.auipc rd (rvImmU w))
  | 0x6F => some (.jal rd (rvImmJ w))
  | 0x67 => if f3 = 0 then some (.jalr rd rs1 (rvImmI w)) else none
  | 0x63 => (rvCond f3).map fun c => .branch c rs1 rs2 (rvImmB w)
  | 0x03 => (rvLoad f3).map fun p => .load rd rs1 (rvImmI w) p.1 p.2
  | 0x23 => if f3 < 4 then some (.store rs1 rs2 (rvImmS w) (Fin.ofNat 4 f3)) else none
  | 0x13 => rvImmOp w f3 false
  | 0x1B => rvImmOp w f3 true
  | 0x33 => (rvRegOp (bits w 31 25) f3 false).map fun op => .alu op false rd rs1 (.reg rs2)
  | 0x3B => (rvRegOp (bits w 31 25) f3 true).map fun op => .alu op true rd rs1 (.reg rs2)
  | 0x2F =>
    if f3 = 2 ∨ f3 = 3 then
      (rvAmo (bits w 31 27)).bind fun op => if op = .lr ∧ rs2 ≠ 0 then none else some (.amo op rd rs1 rs2 (f3 == 3))
    else none
  | 0x0F => if f3 = 0 then some .fence else if f3 = 1 then some .fenceI else none
  | 0x73 => rvSystem w
  | _ => none

/-! ### The 16-bit encodings -/

/-- x8 to x15. -/
def rvcReg (w lo : Nat) : BitVec 5 := .ofNat 5 (8 + bits w (lo + 2) lo)

/-- The 6-bit immediate of CI forms. -/
def rvcImm (w : Nat) : Nat := bits w 12 12 * 32 + bits w 6 2

/-- Quadrant 0: C.ADDI4SPN, C.LW, C.LD, C.SW, C.SD. -/
def decodeC0 (w : Nat) : Option Rv :=
  let rd := rvcReg w 2
  let rs1 := rvcReg w 7
  let word : Dword := .ofNat 64 (bits w 5 5 * 64 + bits w 12 10 * 8 + bits w 6 6 * 4)
  let double : Dword := .ofNat 64 (bits w 6 5 * 64 + bits w 12 10 * 8)
  let spn : Dword := .ofNat 64 (bits w 10 7 * 64 + bits w 12 11 * 16 + bits w 5 5 * 8 + bits w 6 6 * 4)
  match bits w 15 13 with
  | 0 => if spn = 0 then none else some (.alu .add false rd 2 (.imm spn))
  | 2 => some (.load rd rs1 word 2 true)
  | 3 => some (.load rd rs1 double 3 true)
  | 6 => some (.store rs1 rd word 2)
  | 7 => some (.store rs1 rd double 3)
  | _ => none

/-- C.SRLI, C.SRAI, C.ANDI and the register forms C.SUB, C.XOR, C.OR, C.AND, C.SUBW, C.ADDW. -/
def decodeCArith (w : Nat) : Option Rv :=
  let rd := rvcReg w 7
  let reg (op : RvAlu) (word : Bool) : Option Rv := some (.alu op word rd rd (.reg (rvcReg w 2)))
  match bits w 11 10 with
  | 0 => some (.alu .srl false rd rd (.imm (.ofNat 64 (rvcImm w))))
  | 1 => some (.alu .sra false rd rd (.imm (.ofNat 64 (rvcImm w))))
  | 2 => some (.alu .and false rd rd (.imm (sx 6 (rvcImm w))))
  | _ =>
    match bits w 12 12 * 4 + bits w 6 5 with
    | 0 => reg .sub false
    | 1 => reg .xor false
    | 2 => reg .or false
    | 3 => reg .and false
    | 4 => reg .sub true
    | 5 => reg .add true
    | _ => none

/-- Quadrant 1: C.ADDI (C.NOP), C.ADDIW, C.LI, C.ADDI16SP, C.LUI, arithmetic, C.J, C.BEQZ, C.BNEZ. -/
def decodeC1 (w : Nat) : Option Rv :=
  let rd := rvReg w 7
  let imm := sx 6 (rvcImm w)
  let sp := sx 10 (bits w 12 12 * 512 + bits w 4 3 * 128 + bits w 5 5 * 64 + bits w 2 2 * 32 + bits w 6 6 * 16)
  let jump := sx 12 (bits w 12 12 * 2048 + bits w 8 8 * 1024 + bits w 10 9 * 256 + bits w 6 6 * 128 + bits w 7 7 * 64 + bits w 2 2 * 32 +
    bits w 11 11 * 16 + bits w 5 3 * 2)
  let off := sx 9 (bits w 12 12 * 256 + bits w 6 5 * 64 + bits w 2 2 * 32 + bits w 11 10 * 8 + bits w 4 3 * 2)
  match bits w 15 13 with
  | 0 => some (.alu .add false rd rd (.imm imm))
  | 1 => if rd = 0 then none else some (.alu .add true rd rd (.imm imm))
  | 2 => some (.alu .add false rd 0 (.imm imm))
  | 3 => if rvcImm w = 0 then none else if rd = 2 then some (.alu .add false 2 2 (.imm sp)) else some (.lui rd (sx 18 (rvcImm w * 4096)))
  | 4 => decodeCArith w
  | 5 => some (.jal 0 jump)
  | 6 => some (.branch .eq (rvcReg w 7) 0 off)
  | _ => some (.branch .ne (rvcReg w 7) 0 off)

/-- Quadrant 2: C.SLLI, C.LWSP, C.LDSP, C.JR, C.MV, C.EBREAK, C.JALR, C.ADD, C.SWSP, C.SDSP. -/
def decodeC2 (w : Nat) : Option Rv :=
  let rd := rvReg w 7
  let rs2 := rvReg w 2
  match bits w 15 13 with
  | 0 => some (.alu .sll false rd rd (.imm (.ofNat 64 (rvcImm w))))
  | 2 => if rd = 0 then none else some (.load rd 2 (.ofNat 64 (bits w 3 2 * 64 + bits w 12 12 * 32 + bits w 6 4 * 4)) 2 true)
  | 3 => if rd = 0 then none else some (.load rd 2 (.ofNat 64 (bits w 4 2 * 64 + bits w 12 12 * 32 + bits w 6 5 * 8)) 3 true)
  | 4 =>
    if rs2 ≠ 0 then some (.alu .add false rd (if bits w 12 12 = 1 then rd else 0) (.reg rs2))
    else if rd ≠ 0 then some (.jalr (if bits w 12 12 = 1 then 1 else 0) rd 0)
    else if bits w 12 12 = 1 then some .ebreak
    else none
  | 6 => some (.store 2 rs2 (.ofNat 64 (bits w 8 7 * 64 + bits w 12 9 * 4)) 2)
  | 7 => some (.store 2 rs2 (.ofNat 64 (bits w 9 7 * 64 + bits w 12 10 * 8)) 3)
  | _ => none

def decodeRvc (w : Nat) : Option Rv :=
  match w % 4 with
  | 0 => decodeC0 w
  | 1 => decodeC1 w
  | 2 => decodeC2 w
  | _ => none

/-! ### Arithmetic -/

/-- Quotient and remainder round toward zero; by zero they are -1 and the dividend. -/
def rvDiv (n : Nat) (x y : BitVec n) : BitVec n := if y = 0 then -1 else x.sdiv y
def rvRem (n : Nat) (x y : BitVec n) : BitVec n := if y = 0 then x else x.srem y
def rvDivu (n : Nat) (x y : BitVec n) : BitVec n := if y = 0 then -1 else x / y
def rvRemu (n : Nat) (x y : BitVec n) : BitVec n := if y = 0 then x else x % y

/-- The high half of a product of two integers. -/
def rvHigh (n : Nat) (p : Int) : BitVec n := .ofInt n (p / 2 ^ n)

/-- An ALU operation on `n` bits; a shift takes the low 5 or 6 bits of its amount. -/
def rvAlu (n : Nat) (op : RvAlu) (x y : BitVec n) : BitVec n :=
  let k := y.toNat % n
  let one (b : Bool) : BitVec n := .ofNat n b.toNat
  match op with
  | .add => x + y
  | .sub => x - y
  | .sll => x <<< k
  | .slt => one (x.slt y)
  | .sltu => one (x.ult y)
  | .xor => x ^^^ y
  | .srl => x >>> k
  | .sra => x.sshiftRight k
  | .or => x ||| y
  | .and => x &&& y
  | .mul => x * y
  | .mulh => rvHigh n (x.toInt * y.toInt)
  | .mulhsu => rvHigh n (x.toInt * y.toNat)
  | .mulhu => rvHigh n (x.toNat * y.toNat)
  | .div => rvDiv n x y
  | .divu => rvDivu n x y
  | .rem => rvRem n x y
  | .remu => rvRemu n x y

def RvCond.holds (c : RvCond) (x y : Dword) : Bool :=
  match c with
  | .eq => x == y
  | .ne => x != y
  | .lt => x.slt y
  | .ge => !x.slt y
  | .ltu => x.ult y
  | .geu => !x.ult y

/-! ### Control and status registers (Zicsr; machine mode) -/

/-- misa: RV64 with A, C, I and M. -/
def misa : Nat := 2 ^ 63 + 0x1105

/-- A machine counter register or event selector beyond mcycle and minstret: it reads zero. -/
def rvHpm (n : Nat) : Bool := (decide (0xB03 ≤ n) && decide (n ≤ 0xB1F)) || (decide (0x323 ≤ n) && decide (n ≤ 0x33F))

/-- What a CSR reads as; none if the hart has no such register. No interrupt is pending. -/
def Hart.csr (h : Hart) (id n : Nat) : Option Nat :=
  match n with
  | 0x300 => some (h.mstatus.toNat ||| 0x1800)
  | 0x301 => some misa
  | 0x304 => some h.mie.toNat
  | 0x305 => some h.mtvec.toNat
  | 0x320 => some (flagAt h.haltInstret 2 + h.haltCycle.toNat)
  | 0x340 => some h.mscratch.toNat
  | 0x341 => some h.mepc.toNat
  | 0x342 => some h.mcause.toNat
  | 0x343 => some h.mtval.toNat
  | 0x344 => some 0
  | 0xB00 => some h.mcycle.toNat
  | 0xB02 => some h.minstret.toNat
  | 0xF11 => some 0
  | 0xF12 => some 0
  | 0xF13 => some 0
  | 0xF14 => some id
  | 0xF15 => some 0
  | n => if rvHpm n then some 0 else none

/-- Write a CSR; a field that holds only some values takes one of them. -/
def Hart.putCsr (n : Nat) (v : Dword) (h : Hart) : Hart :=
  match n with
  | 0x300 => { h with mstatus := .ofNat 64 (flagAt (v.getLsbD 3) 3 + flagAt (v.getLsbD 7) 7 + 0x1800) }
  | 0x304 => { h with mie := v &&& 0x888 }
  | 0x305 => { h with mtvec := v &&& (-3) }
  | 0x320 => { h with haltCycle := v.getLsbD 0, haltInstret := v.getLsbD 2 }
  | 0x340 => { h with mscratch := v }
  | 0x341 => { h with mepc := v &&& (-2) }
  | 0x342 => { h with mcause := v }
  | 0x343 => { h with mtval := v }
  | 0xB00 => { h with mcycle := v }
  | 0xB02 => { h with minstret := v }
  | _ => h

/-! ### Execution -/

def RvSrc.value (h : Hart) : RvSrc → Dword
  | .reg r => h.reg r
  | .imm v => v

/-- A CSR instruction writes unless it sets or clears with x0 or a zero immediate. -/
def RvSrc.writes (act : Nat) : RvSrc → Bool
  | .reg r => act == 1 || r != 0
  | .imm v => act == 1 || v != 0

/-- A CSR instruction: none when the register does not exist, or is read only and written. -/
def Hart.csrOp (h : Hart) (id act : Nat) (rd : BitVec 5) (src : RvSrc) (n : BitVec 12) (len : Nat) : Option Hart :=
  match h.csr id n.toNat with
  | none => none
  | some old =>
    let o : Dword := .ofNat 64 old
    let v := src.value h
    let new := if act = 1 then v else if act = 2 then o ||| v else o &&& ~~~v
    let done := (h.setReg rd o).advance len
    if !src.writes act then some done
    else if 0xC00 ≤ n.toNat then none
    else some (done.putCsr n.toNat new)

/-- A jump: rd takes the address of the next instruction. -/
def Hart.jump (rd : BitVec 5) (target : Dword) (len : Nat) (h : Hart) : Hart :=
  { (h.setReg rd (h.pc + .ofNat 64 len)).advance len with pc := target }

/-- An instruction that makes no access, of `len` bytes whose word is `w`. -/
def Hart.rv (id : Nat) (i : Rv) (w len : Nat) (h : Hart) : Hart :=
  match i with
  | .lui rd imm => (h.setReg rd imm).advance len
  | .auipc rd imm => (h.setReg rd (h.pc + imm)).advance len
  | .jal rd off => h.jump rd (h.pc + off) len
  | .jalr rd rs1 off => h.jump rd ((h.reg rs1 + off) &&& (-2)) len
  | .branch c rs1 rs2 off => if c.holds (h.reg rs1) (h.reg rs2) then h.jump 0 (h.pc + off) len else h.advance len
  | .alu op false rd rs1 b => (h.setReg rd (rvAlu 64 op (h.reg rs1) (b.value h))).advance len
  | .alu op true rd rs1 b =>
    (h.setReg rd ((rvAlu 32 op ((h.reg rs1).setWidth 32) ((b.value h).setWidth 32)).signExtend 64)).advance len
  | .csr act rd src n => (h.csrOp id act rd src n len).getD (h.trap 2 (.ofNat 64 w))
  | .ecall => h.trap 11 0
  | .ebreak => h.trap 3 h.pc
  | .mret => { h.trapReturn.advance 0 with pc := h.mepc }
  | .load .. => h
  | .store .. => h
  | .amo .. => h
  | .fence => h.advance len
  | .fenceI => h.advance len
  | .wfi => h.advance len

/-- The access that a base instruction makes (04 R133, R134). -/
def Rv.access (h : Hart) : Rv → Option FAccess
  | .load rd rs1 off size signed => some (.load rd (h.reg rs1 + off) size signed)
  | .store rs1 rs2 off size => some (.store (h.reg rs1 + off) size (h.reg rs2))
  | .amo op rd rs1 rs2 double => some (.amo op rd (h.reg rs1) double (h.reg rs2))
  | .fence => some .fence
  | _ => none

end Sys2Proof.Machine
end

