-- ==== Sys2Proof/Machine/Links.lean ====
section
/-! DEFINITION. The chain links inside the package: receiving flits, retraining, and the grants that cross them (15 R463-R471). -/

namespace Sys2Proof.Machine

/-- The endpoint at the other end of a link: endpoint 1 of a die faces endpoint 0 of the die above. A chain port has none in this package. -/
def peerOf (d : Fin 4) (ep : Fin 2) : Option (Fin 4 × Fin 2) :=
  if ep = 1 then (if d.val < 3 then some (d + 1, 0) else none) else if 0 < d.val then some (d - 1, 1) else none

/-- Change both ends of a link. -/
def State.onEnds (s : State) (d : Fin 4) (ep : Fin 2) (f : Link → Link) : State :=
  let s := s.onLink d ep f
  match peerOf d ep with
  | some p => s.onLink p.1 p.2 f
  | none => s

/-! ### Flits (15 R463) -/

/-- A slot that has arrived at a die: for a segment here, or forwarded towards its die without entering a ring (15 R468). A count goes to the segment
that sends into the buffer it names. -/
def State.routeSlot (s : State) (d : Fin 4) (ep : Fin 2) (x : Slot) : State :=
  match s.segPlace x.launch (x.dest (s.launch x.launch).segs.length) with
  | none => s
  | some g => if g.die = d then s.takeSlot d ep g x else s.sendSlot d g.die x

/-- A flit arrives at an endpoint. The next expected number is accepted, and acknowledged to the sender, whose retry buffer gives it up; any other flit
is discarded, and the sender replays from the next expected number. -/
def State.arriveFlit (s : State) (d : Fin 4) (ep : Fin 2) (f : Flit) : State :=
  let y := (s.die d).link ep
  if f.seq = y.rxseq + 1 then
    let s := s.onLink d ep fun y => { y with rxseq := f.seq }
    let s := match peerOf d ep with
      | some p => s.onLink p.1 p.2 fun z => Link.flush z.queue.length { z with retry := z.retry.filter fun x => x.seq != f.seq }
      | none => s
    f.slots.foldl (fun s x => s.routeSlot d ep x) s
  else
    match peerOf d ep with
    | some p => s.onLink p.1 p.2 fun z => { z with wire := z.retry, replayed := z.replayed + .ofNat 64 z.retry.length }
    | none => s

/-- The oldest flit on its way to the focus endpoint arrives. -/
def State.flitReceive (s : State) (d : Fin 4) (ep : Fin 2) : State :=
  match peerOf d ep with
  | none => s
  | some p =>
    match ((s.die p.1).link p.2).wire with
    | [] => s
    | f :: rest => State.arriveFlit (s.onLink p.1 p.2 fun z => { z with wire := rest }) d ep f

/-- FLIT_RECEIVE (15 R463). -/
def execFlitReceive (s : State) : Result := .next (s.flitReceive s.focus.ring.die s.focus.ep)

/-! ### Retraining (15 R465, R466) -/

/-- The regions of a die that an endpoint serves, with their rings. -/
def State.served_ (s : State) (d : Fin 4) (ep : Fin 2) : List (RingAt × Region) :=
  (dieRings d).flatMap fun r => ((s.ring r).regions.filter fun g =>
    g.launches.any fun l => (s.launch l).segs.any fun x => if ep = 1 then decide (x.die.val = d.val + 1) else decide (x.die.val + 1 = d.val)).map fun g => (r, g)

/-- The rings on either side of a link with a region that it serves. -/
def State.linkRings (s : State) (d : Fin 4) (ep : Fin 2) : List RingAt :=
  let far := match peerOf d ep with | some p => s.served_ p.1 p.2 | none => []
  ((s.served_ d ep ++ far).map Prod.fst).eraseDups

/-- A retrain begins at both ends; what was on its way is lost, and stays in the retry buffers. -/
def State.linkRetrain (s : State) (d : Fin 4) (ep : Fin 2) : State :=
  let y := (s.die d).link ep
  if (y.up ∨ y.failed) ∧ !y.retrain then
    s.onEnds d ep fun z => { z with retrain := true, failed := false, retrains := z.retrains + 1, wire := [], since := s.fc }
  else s

/-- LINK_RETRAIN (15 R465). -/
def execLinkRetrain (s : State) : Result := .next (s.linkRetrain s.focus.ring.die s.focus.ep)

/-- Tokens of a buffer in the flits to be replayed. -/
def Link.replayTokens (key : Nat) (k : Link) : Nat :=
  ((k.retry.flatMap Flit.slots).filter fun | .token l g _ _ _ => segKey l g == key | _ => false).length

/-- The reports of the far end reach a sender: it replays what was not accepted, and its counts are the free slots reported less the tokens
replayed. A buffer that lies beyond the far die keeps its count. -/
def State.resume (s : State) (d : Fin 4) (ep : Fin 2) : State :=
  match peerOf d ep with
  | none => s
  | some p =>
    let far := (s.die p.1).link p.2
    let here (key : Nat) : Bool := (s.segPlace (key / 4) (key % 4)).any fun g => decide (g.die = p.1)
    s.onLink d ep fun y =>
      { y with
        wire := y.retry, replayed := y.replayed + .ofNat 64 y.retry.length,
        free := tabMap (fun key n => if here key then 64 - (tabGet [] key far.rx).length - y.replayTokens key else n) y.free }

/-- A link holds its rings: from the 2,601st fc of a retrain (15 R466). -/
def State.linkHolds (s : State) (d : Fin 4) (ep : Fin 2) : Bool :=
  let y := (s.die d).link ep
  y.retrain && decide (y.since + 2600 ≤ s.fc)

/-- The rings that links hold. -/
def State.heldByLinks (s : State) : List RingAt :=
  (List.range 8).flatMap fun n =>
    let d : Fin 4 := Fin.ofNat 4 (n / 2)
    let ep : Fin 2 := Fin.ofNat 2 n
    if s.linkHolds d ep then s.linkRings d ep else []

/-- Note which rings links hold. -/
def State.holdLinks (s : State) : State :=
  let rs := s.heldByLinks
  s.onRings allRings fun r y => { y with linkHold := rs.contains r }

/-- The counts that the far end of a link has not delivered to a sender on die `d` are part of the absolute counts that it reports (15 R465). -/
def State.absorbCounts (s : State) (d : Fin 4) (ep : Fin 2) : State :=
  match peerOf d ep with
  | none => s
  | some p =>
    let told : Slot → Bool
      | .count l k _ =>
        (s.segPlace l k).any (fun g => decide (g.die = p.1)) && (s.segPlace l (segBefore (s.launch l).segs.length k)).any fun g => decide (g.die = d)
      | _ => false
    s.onLink p.1 p.2 fun z =>
      { z with queue := z.queue.filter fun x => !told x, retry := z.retry.map fun f => { f with slots := f.slots.filter fun x => !told x } }

/-- Training completes: at first, or after a retrain that has not failed, with its replay. What waited to be sent follows. -/
def State.retrainComplete (s : State) (d : Fin 4) (ep : Fin 2) : State :=
  let y := (s.die d).link ep
  let both (f : State → Fin 4 → Fin 2 → State) (s : State) : State :=
    let s := f s d ep
    match peerOf d ep with | some p => f s p.1 p.2 | none => s
  if (y.retrain ∧ s.fc < y.since + 1300000) ∨ (!y.retrain ∧ !y.up ∧ !y.failed) then
    let s := s.onEnds d ep fun z => { z with up := true, retrain := false }
    let s := both State.resume (both State.absorbCounts s)
    State.holdLinks (s.onEnds d ep fun z => Link.flush z.queue.length z)
  else s

/-- RETRAIN_COMPLETE (15 R465). -/
def execRetrainComplete (s : State) : Result := .next (s.retrainComplete s.focus.ring.die s.focus.ep)

/-- From the 2,601st fc of a retrain, the rings that the link serves hold. -/
def State.retrainHold (s : State) (d : Fin 4) (ep : Fin 2) : State := if s.linkHolds d ep then s.holdLinks else s

/-- RETRAIN_HOLD (15 R466). -/
def execRetrainHold (s : State) : Result := .next (s.retrainHold s.focus.ring.die s.focus.ep)

/-- The first of each job's regions. -/
def firstOfJob : List (RingAt × Region) → List (RingAt × Region) :=
  List.foldl (fun q x => if q.any fun y => y.2.pasid == x.2.pasid then q else q ++ [x]) []

/-- LNK_CHAIN_LOST, one for each context with a region of a die that an endpoint serves. -/
def State.chainLost (s : State) (d : Fin 4) (ep : Fin 2) : State :=
  (firstOfJob (s.served_ d ep)).foldl (fun s x =>
    let l := (x.2.launches.head?).getD 0
    s.takeFault d (some x.1.ring) (s.launchQueue l) 0 ⟨0x81, 7, 1, segOf l d⟩
      ((s.place ⟨regionStripe x.1 x.2.page 0, 0⟩ false none).tags x.2.pasid x.2.ctx none)) s

/-- A retrain that has not completed after 1,300,000 fc has failed: a device fault on each side, and the contexts it serves are lost. -/
def State.retrainFail (s : State) (d : Fin 4) (ep : Fin 2) : State :=
  let y := (s.die d).link ep
  let fail (s : State) (d : Fin 4) (ep : Fin 2) : State :=
    State.chainLost (s.takeFault d none none 0 ⟨0x80, 7, 2, 256 * ep.val + d.val⟩ { FRec.zero with plane := 3 }) d ep
  if y.retrain ∧ y.since + 1300000 ≤ s.fc then
    let s := s.onEnds d ep fun z => { z with up := false, retrain := false, failed := true }
    let s := s.holdLinks
    let s := fail s d ep
    match peerOf d ep with
    | some p => fail s p.1 p.2
    | none => s
  else s

/-- LNK_RETRAIN_FAIL (15 R466, R474). -/
def execLnkRetrainFail (s : State) : Result := .next (s.retrainFail s.focus.ring.die s.focus.ep)

/-- The receive buffers of an endpoint move a token to each target that takes one (15 R464, R465). -/
def State.drainLink (s : State) (d : Fin 4) (ep : Fin 2) : State :=
  ((s.die d).link ep).rx.foldl (fun s q => ((q.2.map RxTok.target).eraseDups).foldl (fun s c => (s.drainRx (q.1 / 4) (q.1 % 4) c).getD s) s) s

/-- What an fc changes at an endpoint: buffered tokens move on, and the fc in which the link holds rings are counted (15 R473). -/
def State.linkClock (s : State) (d : Fin 4) (ep : Fin 2) : State :=
  let s := s.drainLink d ep
  if s.linkHolds d ep ∧ s.linkRings d ep ≠ [] then s.onLink d ep fun z => { z with holdfc := z.holdfc + 1 } else s

/-! ### Grants that cross the links (15 R469) -/

/-- Whether an allocating firing of a launch's segment on a die waits only for a grant. -/
def State.asksGrant (s : State) (l : Nat) (d : Fin 4) : Bool :=
  ((s.launchElems l).filter fun e => decide (e.at_.ring.die = d)).any fun e => decide (0 < s.refused e false)

/-- Every link between two dies is trained, and none retrains. -/
def State.linked (s : State) (a b : Fin 4) : Bool :=
  (List.range 3).all fun n =>
    let k := (s.die (Fin.ofNat 4 n)).link 1
    decide (n < min a.val b.val) || decide (max a.val b.val ≤ n) || (k.up && !k.retrain)

/-- Segment 0's allocator gives one of its grants of the fc to the segment on the focus die, which asks for one over the links; grants on their way
count as allocated. -/
def State.grantRemote (s : State) (l : Nat) (d : Fin 4) : State :=
  let x := s.launch l
  match x.seg d with
  | none => s
  | some g =>
    let out := (x.segs.map Seg.grants).foldl (· + ·) 0
    if d.val = l / 4096 ∨ g.grants ≠ 0 ∨ x.window ≤ x.span + out ∨ x.grantsLeft s.fc = 0 ∨ !s.linked d (Fin.ofNat 4 (l / 4096)) ∨ !s.asksGrant l d then s
    else s.onLaunch l fun y => (y.grant s.fc).onSeg d fun z => { z with grants := z.grants + 1 }

/-- ALLOC_GRANT_REMOTE (15 R469). -/
def execAllocGrantRemote (die : Fin 4) (entry : BitVec 12) (s : State) : Result :=
  .next (s.grantRemote (launchKey die entry.toNat) s.focus.ring.die)

end Sys2Proof.Machine
end

