-- ==== Sys2Proof/Machine/Sparse.lean ====
section
/-! DEFINITION. The sparse-update engine (14 R443-R459): its messages, their expansion into address tokens, the reordering window, its issue and
the replies. -/

namespace Sys2Proof.Machine

/-! ### Elements (14 R444, R445) -/

/-- Bytes of an element: B16 and H16 are 2 bytes wide. -/
def Fmt.bytes (f : Fmt) : Nat := if f = .b16 ∨ f = .h16 then 2 else 4

/-- The first value to enter an entry: UFADD converts it exactly to F32, UADD with SAT 1 holds it as an exact integer. -/
def WinKey.first (k : WinKey) (v : Nat) : WinVal :=
  if k.mop = 1 ∧ k.sat = true then .exact (toInt 32 v)
  else if k.mop = 2 ∧ k.fmt ≠ .f32 then .bits (roundTo .f32 0 false 0 (valueOf k.fmt v))
  else .bits v

/-- The larger or the smaller of two elements. -/
def pickSigned (f : Fmt) (less : Bool) (a b : Nat) : Nat :=
  if f = .i32 then (if less = decide (toInt 32 a ≤ toInt 32 b) then a else b) else pickElem f less a b

/-- merge(p, v). -/
def WinKey.merge (k : WinKey) (p : WinVal) (v : Nat) : WinVal :=
  match p with
  | .exact z => .exact (z + toInt 32 v)
  | .cas e n => .cas e n
  | .bits p =>
    .bits (if k.mop = 1 then (p + v) % 2 ^ 32
      else if k.mop = 2 then roundTo .f32 0 false 0 (Exact.add false (valueOf .f32 p) (valueOf k.fmt v))
      else if k.mop = 3 then pickSigned k.fmt false p v
      else if k.mop = 4 then pickSigned k.fmt true p v
      else if k.mop = 5 then p ||| v
      else if k.mop = 6 then p &&& v
      else v)

/-- apply(m, p). -/
def WinKey.apply (k : WinKey) (m : Nat) (p : WinVal) : Nat :=
  match p with
  | .exact z => ofInt 32 (max (-(2 ^ 31)) (min (2 ^ 31 - 1) (toInt 32 m + z)))
  | .cas e n => if m = e then n else m
  | .bits p =>
    if k.mop = 1 then (m + p) % 2 ^ 32
    else if k.mop = 2 then roundTo k.fmt k.rnd false 0 (Exact.add (k.rnd == 3) (valueOf k.fmt m) (valueOf .f32 p))
    else if k.mop = 3 then pickSigned k.fmt false m p
    else if k.mop = 4 then pickSigned k.fmt true m p
    else if k.mop = 5 then m ||| p
    else if k.mop = 6 then m &&& p
    else p

/-! ### Acceptance (14 R443, R444, R446) -/

/-- The operands of an update message. -/
structure UpdOf where
  key : WinKey
  imm : Bool
  /-- bytes of a row of the destination, and of a row of values -/
  row : Nat
  vrow : Nat
  count : Nat
  voff : Nat
  ioff : Nat
  off : Nat

def updOf (mop : Nat) (p : Params) : UpdOf :=
  let w := p.p0.toNat
  let row := 4 * (bits w 7 0 + 1)
  { key := ⟨mop, Fmt.ofCode (bits w 15 13), bit w 12, bits w 11 10⟩, imm := bits w 9 8 == 1, row := row, vrow := if mop = 8 then 2 * row else row,
    count := bits p.p2.toNat 11 0 + 1, voff := 64 * bits p.p2.toNat 31 12, ioff := 4 * p.p3.toNat, off := p.p1.toNat }

/-- The formats of an operator. -/
def updFmtOk (mop f : Nat) : Bool := if mop = 1 then f == 0 else if mop = 2 then f == 1 || f == 2 || f == 3 else decide (f ≤ 3)

/-- Step 7 of 14 R446. -/
def updBad (m : Msg) (mop : Nat) (p : Params) (u : UpdOf) : Bool :=
  decide (2 ≤ bits p.p0.toNat 9 8) || !m.ownInst || (u.key.sat && mop != 1) || (u.key.rnd != 0 && mop != 2) ||
    (u.imm && (bits p.p0.toNat 7 0 != 0 || p.p1.toNat % 4 != 0 || (mop != 8 && p.p3 != 0)))

/-- Put an accepted message behind the others; its launch's mode is the present one. -/
def State.pushUpd (s : State) (x : SparseMsg) : State :=
  s.onRing x.msg.ring fun r => { r with sparse := r.sparse ++ [{ x with ord := r.ordered.contains x.msg.launch }] }

def SparseMsg.of (m : Msg) : SparseMsg := ⟨m, none, none, none, false, 0, [], false, 0, none, 0, false, 0, 0⟩

/-- A refused message changes nothing but its answer, which follows the replies to its sender's earlier messages (14 R454). -/
def State.turnAwayUpd (s : State) (m : Msg) (status : Nat) : State :=
  if (s.ring m.ring).sparse.any fun x => x.msg.sameSender m then s.pushUpd { SparseMsg.of m with expanded := true, refused := some status }
  else s.refuse m status

/-- Accept an update message, or refuse it at the first failure. -/
def State.update (s : State) (mop : Nat) (p : Params) : State :=
  let m := s.focus.msg
  let u := updOf mop p
  let list := !u.imm
  let dst := s.mEnd m (bits p.p0.toNat 31 16) anySpace Res.canUpdate
  let src := if list then s.mEnd m (bits p.p1.toNat 31 16) anySpace Res.canRead else none
  let idx := if list then s.mEnd m (bits p.p1.toNat 15 0) anySpace Res.canRead else none
  match firstOf
    [(dst.isNone || (list && (src.isNone || idx.isNone)), 0x0702),
     (if u.imm then !s.mRange m dst u.off 4 else !s.mRange m idx u.ioff (4 * u.count) || !s.mRange m src u.voff (u.vrow * u.count), 0x0703),
     (versioned dst, 0x0704), (!updFmtOk mop (bits p.p0.toNat 15 13), 0x0705), (updBad m mop p u, 0x0701)] with
  | some st => s.turnAwayUpd m st
  | none => s.pushUpd { SparseMsg.of m with dst := dst, src := src, idx := idx }

/-- UADD (14 R445). -/
def execUadd (p : Params) (s : State) : Result := .next (s.update 1 p)
/-- UFADD (14 R445). -/
def execUfadd (p : Params) (s : State) : Result := .next (s.update 2 p)
/-- UMAX (14 R445). -/
def execUmax (p : Params) (s : State) : Result := .next (s.update 3 p)
/-- UMIN (14 R445). -/
def execUmin (p : Params) (s : State) : Result := .next (s.update 4 p)
/-- UOR (14 R445). -/
def execUor (p : Params) (s : State) : Result := .next (s.update 5 p)
/-- UAND (14 R445). -/
def execUand (p : Params) (s : State) : Result := .next (s.update 6 p)
/-- UXCHG (14 R445). -/
def execUxchg (p : Params) (s : State) : Result := .next (s.update 7 p)
/-- UCAS (14 R445). -/
def execUcas (p : Params) (s : State) : Result := .next (s.update 8 p)

/-- UORDER: the mode of the sender's launch for the messages after it. -/
def State.uorder (s : State) (p : Params) : State :=
  let m := s.focus.msg
  if !m.ownInst ∨ bits p.p0.toNat 31 1 ≠ 0 ∨ p.p1 ≠ 0 ∨ p.p2 ≠ 0 ∨ p.p3 ≠ 0 then s.turnAwayUpd m 0x0701
  else
    let old := (s.ring m.ring).ordered.contains m.launch
    let s := s.pushUpd { SparseMsg.of m with expanded := true, lane0 := if old then 1 else 0 }
    s.onRing m.ring fun r =>
      let rest := r.ordered.filter fun k => k != m.launch
      { r with ordered := if bit p.p0.toNat 0 then rest ++ [m.launch] else rest }

/-- UORDER (14 R451). -/
def execUorder (p : Params) (s : State) : Result := .next (s.uorder p)

/-- UFLUSH: it takes effect when expansion reaches it. -/
def State.uflush (s : State) (p : Params) : State :=
  let m := s.focus.msg
  if !m.ownInst ∨ p ≠ ⟨0, 0, 0, 0⟩ then s.turnAwayUpd m 0x0701 else s.pushUpd (SparseMsg.of m)

/-- UFLUSH (14 R452). -/
def execUflush (p : Params) (s : State) : Result := .next (s.uflush p)

/-! ### Expansion (14 R447, R448) -/

/-- Where a byte of a destination lies: the place and the address. None when no translation serves it. -/
def State.updAt (s : State) (m : Msg) (x : SEnd) (off : Nat) : Option (Nat × Nat) :=
  if x.res.space = 1 then some (2, (x.base + off) % spadBytes)
  else
    match s.locOf m.ring.die m.pasid (vaOf x.res.base off) true with
    | some (.hbm a) => some (0, a)
    | some (.host h) => some (1, h)
    | none => none

/-- Add an element to the token of its granule; tokens stay in ascending order of address. -/
def addElem (place a : Nat) (v : WinVal) (pages : List (BitVec 20 × Nat)) : List AddrTok → List AddrTok
  | [] => [⟨place, a / 64, [(a % 64, v)], pages⟩]
  | t :: ts =>
    if t.place = place ∧ t.gran = a / 64 then { t with vals := tabPut (a % 64) v t.vals, pages := (t.pages ++ pages).dedup } :: ts
    else t :: addElem place a v pages ts

/-- The tokens of an update of `n` bytes at an offset; element `i` has the value `val i`. -/
def State.tokensOf (s : State) (m : Msg) (x : SEnd) (off n : Nat) (w : Nat) (val : Nat → WinVal) : List AddrTok :=
  let pages (o : Nat) : List (BitVec 20 × Nat) := if x.res.space = 1 then [] else [(m.pasid, vaOf x.res.base o / 4096)]
  (List.range (n / w)).foldl (fun ts i =>
    match s.updAt m x (off + w * i) with | some (p, a) => addElem p a (val i) (pages (off + w * i)) ts | none => ts) []

/-- The open entry of a token's granule, key and context; an intercalary launch has its own (14 R448, R456). -/
def WinEntry.takes (e : WinEntry) (t : AddrTok) (k : WinKey) (m : Msg) : Bool :=
  e.open_ && e.place == t.place && e.addr == t.gran && decide (e.key = k) && e.ctx == m.ctx && e.ical == m.plane

/-- The same key slot, which matters for HBM alone (03 R101). -/
def WinEntry.sameSlot (e : WinEntry) (slot : Nat) : Bool := e.place != 0 || decide (e.keyidx.toNat = slot)

/-- Fold a token into an entry. -/
def WinEntry.fold (e : WinEntry) (t : AddrTok) (id : Nat) : WinEntry :=
  let raw : WinVal → Nat | .bits v => v | .exact z => ofInt 32 z | .cas _ n => n
  let vals := t.vals.foldl (fun vs p =>
    tabPut p.1 (match tabFind p.1 vs with | some q => e.key.merge q (raw p.2) | none => e.key.first (raw p.2)) vs) e.vals
  { e with
    vals := vals, absorbed := e.absorbed + 1, open_ := decide (e.absorbed + 1 < 4096), owners := e.owners ++ [id], pages := (e.pages ++ t.pages).dedup }

/-- take(t): merge, or allocate an entry while the window has room; none while it has not. `t` holds raw element bits. An entry of HBM is written under one
key (03 R101): a token of another key slot closes it and takes an entry of its own (log 61). -/
def Ring.takeTok (r : Ring) (x : SparseMsg) (u : UpdOf) (slot : Nat) (t : AddrTok) : Option Ring :=
  let single := u.imm || x.ord || u.key.mop == 8
  let fits (e : WinEntry) : Bool := e.takes t u.key x.msg
  let r := { r with sueUpdates := r.sueUpdates + 1 }
  if !single ∧ r.window.any fun e => fits e && e.sameSlot slot then
    let i := r.window.findIdx fun e => fits e && e.sameSlot slot
    some { r with window := r.window.modify i fun e => e.fold t x.msg.id, sueMerged := r.sueMerged + 1 }
  else if 1024 ≤ r.window.length then none
  else
    let first : WinVal → WinVal | .bits v => u.key.first v | v => v
    let window := if single then r.window else r.window.map fun e => if fits e then { e with open_ := false } else e
    some { r with
      window := window ++
        [⟨t.gran, t.place, u.key, x.msg.ctx, x.msg.plane, .ofNat 12 slot, t.vals.map fun p => (p.1, first p.2), !single, u.imm, 1, [x.msg.id], t.pages⟩] }

/-- The window takes tokens in order until it is full; those that are left wait. -/
def Ring.takeToks (x : SparseMsg) (u : UpdOf) (slot : Nat) : List AddrTok → Ring → Ring × List AddrTok
  | [], r => (r, [])
  | t :: ts, r =>
    match r.takeTok x u slot t with
    | some r => Ring.takeToks x u slot ts r
    | none => (r, t :: ts)

/-- Change a message of the engine. -/
def State.onUpd (s : State) (r : RingAt) (id : Nat) (f : SparseMsg → SparseMsg) : State :=
  s.onRing r fun y => { y with sparse := y.sparse.map fun x => if x.msg.id = id then f x else x }

/-- A message has emitted all: an immediate one its token, a list those of its last index. -/
def SparseMsg.over (u : UpdOf) (x : SparseMsg) : Bool := x.toks.isEmpty && decide ((if u.imm then 1 else u.count) ≤ x.nextIdx)

/-- The next index of a list message is done with. -/
def SparseMsg.step (u : UpdOf) (x : SparseMsg) : SparseMsg :=
  let x := { x with nextIdx := x.nextIdx + 1 }
  { x with expanded := x.over u }

/-- The tokens of a message go to the window while it takes them (14 R448). -/
def State.emitOn (s : State) (r : RingAt) (x : SparseMsg) (u : UpdOf) (ts : List AddrTok) : State :=
  let slot := (x.dst.map fun d => d.res.keyidx).getD 0
  let y := Ring.takeToks x u slot ts (s.ring r)
  (s.setRing r y.1).onUpd r x.msg.id fun z => let z := { z with toks := y.2 }; { z with expanded := z.over u }

/-- Emit the tokens of an update, with which an index is done; those that would reach HBM without a key are skipped (14 R446). -/
def State.emit (s : State) (r : RingAt) (x : SparseMsg) (u : UpdOf) (ts : List AddrTok) : State :=
  let slot := (x.dst.map fun d => d.res.keyidx).getD 0
  let dark (t : AddrTok) : Bool := t.place == 0 && (slot == 0 || (s.keyOf slot).isNone)
  let go := ts.filter fun t => !dark t
  State.emitOn (s.onUpd r x.msg.id fun y =>
    { y with nextIdx := y.nextIdx + 1, outstanding := y.outstanding + go.length, noKey := y.noKey || ts.any dark }) r x u go

/-- Expand an immediate message, or the next index of a list, once the window has taken every token before it. A message whose sender is gone ends where its
page can no longer be had (log 61). -/
def State.expandOne (s : State) (r : RingAt) (x : SparseMsg) : State :=
  let m := x.msg
  let u := updOf m.mop m.p
  let id := m.id
  let w := u.key.fmt.bytes
  let dst := x.dst.getD fifoEnd
  let src := x.src.getD fifoEnd
  let idx := x.idx.getD fifoEnd
  let ends (s : State) : State := s.onUpd r id fun y => { y with expanded := true }
  let fault (va : Nat) : State := ends (s.takeFault r.die (some r.ring) (s.launchQueue m.launch) 0 (fltAddr va) (s.msgSite m))
  let skip (s : State) : State := s.onUpd r id (SparseMsg.step u)
  let dark : State := s.onUpd r id fun y => { SparseMsg.step u y with noKey := true }
  if !x.toks.isEmpty then s.emitOn r x u x.toks
  else if u.imm then
    if s.lost m dst true u.off 4 then ends s
    else
      match s.spans m [(dst, true, u.off, 4)] with
      | .wait s => s
      | .addr va => fault va
      | .ok =>
        let val (i : Nat) : WinVal :=
          let v := m.p.p2.toNat / 2 ^ (8 * w * i) % 2 ^ (8 * w)
          if u.key.mop = 8 then .cas (m.p.p3.toNat / 2 ^ (8 * w * i) % 2 ^ (8 * w)) v else .bits v
        s.emit r x u (s.tokensOf m dst u.off 4 w val)
  else if s.lost m idx false (u.ioff + 4 * x.nextIdx) 4 then ends s
  else
    match s.endRead m idx (u.ioff + 4 * x.nextIdx) 4 with
    | .wait s => s
    | .addr va => fault va
    | .noKey => dark
    | .bytes ib =>
      let off := u.row * bytesNat ib
      if !s.mRange m x.dst off u.row then
        (skip s).onRing r (fun y => { y with sueBadidx := y.sueBadidx + 1 }) |>.onUpd r id fun y => { y with bad := y.bad + 1 }
      else if s.lost m src false (u.voff + u.vrow * x.nextIdx) u.vrow ∨ s.lost m dst true off u.row then ends s
      else
        match s.endRead m src (u.voff + u.vrow * x.nextIdx) u.vrow with
        | .wait s => s
        | .addr va => fault va
        | .noKey => dark
        | .bytes vb =>
          match s.spans m [(dst, true, off, u.row)] with
          | .wait s => s
          | .addr va => fault va
          | .ok =>
            let at_ (i : Nat) : Nat := bytesNat ((vb.drop (w * i)).take w)
            let n := u.row / w
            let val (i : Nat) : WinVal := if u.key.mop = 8 then .cas (at_ i) (at_ (n + i)) else .bits (at_ i)
            s.emit r x u (s.tokensOf m dst off u.row w val)

/-- The first message of a ring that is not expanded goes on; UFLUSH closes the open entries of its context. -/
def State.expand (s : State) (r : RingAt) : State :=
  match (s.ring r).sparse.find? fun x => !x.expanded with
  | none => s
  | some x =>
    if x.msg.mop = 10 then
      (s.onRing r fun y => { y with window := y.window.map fun e => if e.ctx = x.msg.ctx then { e with open_ := false } else e }).onUpd r x.msg.id
        fun y => { y with expanded := true }
    else s.expandOne r x

/-- UPDATE_EXPAND (14 R447, R448) on the focus ring. -/
def execUpdateExpand (s : State) : Result := .next (s.expand s.focus.ring)

/-! ### Issue (14 R449, R450, R453) -/

/-- Bytes of a granule or scratchpad unit under a key. -/
def State.granBytes (s : State) (r : RingAt) (e : WinEntry) (key : Key) (off n : Nat) : List Byte :=
  let a := 64 * e.addr + off
  if e.place = 0 then s.hbmRead key a n else if e.place = 1 then readBytes a n s.hostMem else spadRead (s.ring r).spad a n

def State.granWrite (s : State) (r : RingAt) (e : WinEntry) (key : Key) (off : Nat) (bs : List Byte) : State :=
  let a := 64 * e.addr + off
  if e.place = 0 then s.hbmWrite key a bs
  else if e.place = 1 then { s with hostMem := writeBytes a bs s.hostMem }
  else s.onRing r fun y => { y with spad := spadWrite y.spad a bs }

/-- One read-modify-write: apply every pending element of an entry. -/
def State.rmw (s : State) (r : RingAt) (e : WinEntry) (key : Key) : State :=
  let w := e.key.fmt.bytes
  e.vals.foldl (fun s p => s.granWrite r e key p.1 (natBytes w (e.key.apply (bytesNat (s.granBytes r e key p.1 w)) p.2))) s

/-- Perform an entry, and note it in its messages. One whose key slot has become empty writes nothing. -/
def State.issueEntry (s : State) (r : RingAt) (e : WinEntry) : State :=
  let key := s.keyOf e.keyidx.toNat
  let dark := e.place == 0 && key.isNone
  let k := key.getD s.devKey
  let word := (e.vals.head?.map Prod.fst).getD 0 / 4 * 4
  let before := bytesNat (s.granBytes r e k word 4)
  let s := if dark then s else s.rmw r e k
  let after := bytesNat (s.granBytes r e k word 4)
  s.onRing r fun y =>
    { y with
      window := y.window.erase e, sueRmw := if dark then y.sueRmw else y.sueRmw + 1,
      sparse := y.sparse.map fun x =>
        if e.owners.contains x.msg.id then
          { x with
            outstanding := x.outstanding - e.owners.count x.msg.id, noKey := x.noKey || dark,
            lane0 := if e.imm then before else x.lane0, lane1 := if e.imm then after else x.lane1 }
        else x }

/-- Whether two entries are of one granule. -/
def WinEntry.same (a b : WinEntry) : Bool := a.place == b.place && a.addr == b.addr

/-- The entries that the window picks: the oldest, at most `n`, each with no older entry of its granule. -/
def pickEntries : Nat → List WinEntry → List WinEntry → List WinEntry
  | 0, _, _ => []
  | _ + 1, _, [] => []
  | n + 1, older, e :: es => if older.any e.same then pickEntries (n + 1) older es else e :: pickEntries n (e :: older) es

/-- An entry whose granule is uncorrectable is not performed: its read ends the job (01 R44, 14 R458). -/
def State.badIssue (s : State) (r : RingAt) (e : WinEntry) : State :=
  let owner := (s.ring r).sparse.find? fun x => e.owners.contains x.msg.id
  let s := match owner with
    | some x => s.takeFault r.die (some r.ring) (s.launchQueue x.msg.launch) 0 ⟨0x61, 5, 1, 64 * e.addr⟩ (s.msgSite x.msg)
    | none => s
  s.onRing r fun y =>
    { y with
      window := y.window.erase e,
      sparse := y.sparse.map fun x => { x with outstanding := x.outstanding - e.owners.count x.msg.id } }

/-- WINDOW_ISSUE on a ring: the window picks up to four entries and performs them. -/
def State.windowIssue (s : State) (r : RingAt) : State := (pickEntries 4 [] (s.ring r).window).foldl (fun s e =>
  if e.place = 0 ∧ s.badAt (64 * e.addr) then s.badIssue r e else s.issueEntry r e) s

/-- WINDOW_ISSUE (14 R449) on the focus ring. -/
def execWindowIssue (s : State) : Result := .next (s.windowIssue s.focus.ring)

/-! ### Replies (14 R443, R446, R451-R454) -/

/-- A message has been performed, after those before it in the list. -/
def SparseMsg.done (before : List SparseMsg) (x : SparseMsg) : Bool :=
  x.expanded && x.outstanding == 0 &&
    if x.refused.isSome then true
    else if x.msg.mop = 9 then !before.any fun y => y.msg.launch == x.msg.launch && (!y.expanded || y.outstanding != 0)
    else if x.msg.mop = 10 then !before.any fun y => y.msg.ctx == x.msg.ctx && (!y.expanded || y.outstanding != 0)
    else true

/-- The reply of a performed message. A list's lane 0, and the lanes of an immediate update that was skipped, are free values (log 22). -/
def State.updReply (s : State) (x : SparseMsg) : State :=
  let m := x.msg
  let u := updOf m.mop m.p
  let st := if x.noKey then 0x0707 else if x.bad ≠ 0 then 0x0706 else 0
  if x.refused.isSome then s.refuse m (x.refused.getD 0)
  else if m.mop = 9 ∨ m.mop = 10 then s.answer m 0 x.lane0 0
  else if u.imm then if st = 0 then s.answer m 0 x.lane0 x.lane1 else s.refuse m st
  else State.answer { s with freeCtr := s.freeCtr + 1 } m st ((Config.freeValue s.freeCtr).toNat % 2 ^ 32) x.bad

/-- Send every reply that is due, those of one sender in the order of acceptance; `kept` are the messages that stay. -/
def sendUpds (s : State) (kept : List SparseMsg) : List SparseMsg → State × List SparseMsg
  | [] => (s, kept)
  | x :: xs =>
    if x.done kept ∧ !kept.any fun y => y.msg.sameSender x.msg then sendUpds (s.updReply x) kept xs else sendUpds s (kept ++ [x]) xs

def State.sendUpdates (s : State) (r : RingAt) : State :=
  let t := sendUpds s [] (s.ring r).sparse
  t.1.onRing r fun y => { y with sparse := t.2 }

/-- SPARSE_UPDATE_PERFORMED (14 R454) on the focus ring. -/
def execSparseUpdatePerformed (s : State) : Result := .next (s.sendUpdates s.focus.ring)

end Sys2Proof.Machine
end

