-- ==== Sys2Proof/Machine/Translation.lean ====
section
/-! DEFINITION. Address translation, exhausted scale files and memory errors (01 R44; 03 R97-R99, R130; 07 R255, R273; 16 R484, R486). -/

namespace Sys2Proof.Machine

/-! ### Walks (03 R97, R98, R130) -/

def Walk.is (w : Walk) (pasid : BitVec 20) (vpage : Nat) (pri : Bool) : Bool := w.pasid == pasid && w.vpage == vpage && w.pri == pri

/-- Translation faults: XLT_NOT_PRESENT, XLT_PRI_FAIL, XLT_PASID, XLT_ATS_ERROR, XLT_TIMEOUT. -/
def xltFlt (code disp : Nat) (u : Waiter) : Flt := ⟨code, 8, disp, u.site.aux.toNat⟩

/-- The fault of a walk, against each ring and hart that waits for it; `page` is 0, or the virtual page of a request plus one. -/
def State.walkFaults (s : State) (d : Fin 4) (page code disp : Nat) (us : List Waiter) : State :=
  us.foldl (fun s u => s.takeFault d u.ring u.queue page (xltFlt code disp u) u.site) s

/-- The fault of a prefetch is suppressed (03 R100); a page whose fault ends its job is not asked for again by what is left of it. -/
def State.quietFail (s : State) (d : Fin 4) (w : Walk) (ends : Bool) : State :=
  s.onDie d fun x => { x with quietFails := if w.waiters.isEmpty || ends then (w.pasid, w.vpage) :: x.quietFails else x.quietFails }

/-- A walk ends in a fault; a ring that waits holds until its context is removed. -/
def State.failWalk (s : State) (d : Fin 4) (w : Walk) (code disp : Nat) : State :=
  ((s.dropWalk d w).quietFail d w (disp == 1)).walkFaults d 0 code disp w.waiters

/-- The page is absent or lacks the permission: resumable records, holds, and a PRI request (03 R98); a prefetch asks for nothing. -/
def State.askPage (s : State) (d : Fin 4) (w : Walk) : State :=
  if w.waiters.isEmpty then (s.dropWalk d w).quietFail d w false
  else
    (s.onDie d fun x => { x with walks := x.walks.map fun v => if v = w then { w with pri := true } else v }).walkFaults d (w.vpage + 1) 0x90 0
      w.waiters

/-- The host completes a translation request; a watch that waited for it is installed (12 R397). -/
def State.translate (s : State) (d : Fin 4) (w : Walk) (ans : XltAnswer) : State :=
  match ans with
  | .present hpage size r wr noPref =>
    if (if w.write then wr else r) then
      ((s.dropWalk d w).onDie d fun x => { x with xlts := x.xlts ++ [⟨w.pasid, w.vpage, hpage.toNat, size, r, wr, noPref⟩] }).installDue d
    else s.askPage d w
  | .absent => s.askPage d w
  | .badPasid => s.failWalk d w 0x92 1
  | .error => s.failWalk d w 0x93 1

/-- TRANSLATION_COMPLETE (03 R98). -/
def execTranslationComplete (die : Fin 4) (pasid : BitVec 20) (vpage : BitVec 52) (ans : XltAnswer) (s : State) : Result :=
  .next (match (s.die die).walksOut.find? fun w => w.is pasid vpage.toNat false with
    | some w => s.translate die w ans
    | none => s)

/-- Whether the record of a page request still waits in its engine. -/
def Die.pageRecordWaits (x : Die) (pasid : BitVec 20) (vpage : Nat) : Bool :=
  x.faultWait.any fun f => f.rec_.code == 0x90 && f.rec_.pasid == pasid && decide (f.rec_.aux.toNat / 4096 = vpage)

/-- Release the holds that a page request took on the rings that wait, once its records have entered the fault buffer (04 R152). -/
def State.releasePage (s : State) (d : Fin 4) (w : Walk) : State :=
  if (s.die d).pageRecordWaits w.pasid w.vpage then s
  else
    w.waiters.foldl (fun s u =>
      match u.ring with
      | some k => s.onRing ⟨d, k⟩ fun r => { r with fholds := r.fholds.filter fun h => !(h.ctx == u.site.ctx && h.page == w.vpage + 1) }
      | none => s) s

/-- The response to a page request (03 R98): on success the access translates again. -/
def State.pageResponse (s : State) (d : Fin 4) (w : Walk) (ok : Bool) : State :=
  let s := s.releasePage d w
  if ok then s.dropWalk d w else s.failWalk d w 0x91 1

/-- PRI_RESPONSE (03 R98). -/
def execPriResponse (die : Fin 4) (pasid : BitVec 20) (vpage : BitVec 52) (ok : Bool) (s : State) : Result :=
  .next (match (s.die die).walksOut.find? fun w => w.is pasid vpage.toNat true with
    | some w => s.pageResponse die w ok
    | none => s)

/-- A pending update of a die's windows has used one of the translations. Every other operation uses its translation in the step that performs it. -/
def State.xltsUsed (s : State) (d : Fin 4) (ts : List Xlt) : Bool :=
  (dieRings d).any fun r =>
    ((s.ring r).window.flatMap WinEntry.pages ++ (s.ring r).sparse.flatMap fun x => x.toks.flatMap AddrTok.pages).any fun p => ts.any fun t => t.covers p.1 p.2

/-- ATS_INVALIDATION (03 R99): the translations of the page leave the cache at once; the completion is returned when what has used them is performed. -/
def execAtsInvalidation (die : Fin 4) (pasid : BitVec 20) (vpage : BitVec 52) (s : State) : Result :=
  .next (
    let gone := (s.die die).xlts.filter fun t => t.covers pasid vpage.toNat
    s.onDie die fun x =>
      { x with
        xlts := x.xlts.filter fun t => !t.covers pasid vpage.toNat,
        invals := if s.xltsUsed die gone then x.invals ++ [(pasid, vpage.toNat, gone)] else x.invals })

/-- The completions of invalidations that are due are returned. -/
def State.invalsDone (s : State) (d : Fin 4) : State := s.onDie d fun x => { x with invals := x.invals.filter fun q => s.xltsUsed d q.2.2 }

/-- XLT_TIMEOUT on the focus die (03 R130): a request without completion for the long wait. -/
def execXltTimeout (s : State) : Result :=
  let d := s.focus.ring.die
  .next (match (s.die d).walksOut.find? fun w => !w.pri && decide (w.since + Config.longWait ≤ s.fc) with
    | some w => s.failWalk d w 0x95 2
    | none => s)

/-! ### Exhausted scale files (07 R255) -/

/-- SCL_EXHAUSTED on a ring: the oldest allocation that has waited the long wait. -/
def State.exhaustScl (s : State) (r : RingAt) : State :=
  let c := (s.ring r).scl
  match c.waits.find? fun w => decide (w.since + Config.longWait ≤ s.fc) with
  | none => s
  | some w =>
    let e := ElemAt.ofKey w.elem
    let iter := w.who.slot?.map fun _ => w.iter
    State.siteFault (s.onRing r fun x => { x with scl := c.waitOff w.elem w.ical w.who }) e w.ical w.who.slot? w.ctx iter (sclFlt 0x25 (c.held w.ctx))

/-- SCL_EXHAUSTED (07 R255). -/
def execSclExhausted (s : State) : Result := .next (s.exhaustScl s.focus.ring)

/-! ### Memory errors (01 R44) -/

/-- An error at an element of a plane: the plane's context owns what is lost. -/
def State.errAt (s : State) (e : ElemAt) (ical : Bool) (slot : Option (Fin 16)) (f : Flt) : State :=
  s.siteFault e ical slot ((s.stripe e.at_).conf ical).ctx none f

/-- The queue of the launch that runs on a ring under a CTX. -/
def State.ctxQueue (s : State) (r : RingAt) (ctx : BitVec 6) : Option (BitVec 20 × BitVec 16) :=
  let y := s.ring r
  let runs (l : Nat) : Bool := (s.launch l).segs.any fun g => g.die == r.die && g.ring == r.ring && g.ctx == ctx
  ((y.regions.flatMap Region.launches ++ y.icalLaunch.toList).find? runs).bind s.launchQueue

/-- The place of a port's error: region stripe 0 of the element's region (13 R439). -/
def State.portPlace (s : State) (e : ElemAt) (ical : Bool) : ElemAt :=
  let r := e.at_.ring
  ⟨if ical then ⟨r, 0⟩ else (((s.ring r).regionOf e.at_.stripe.val).map fun g => regionStripe r g.page 0).getD e.at_, 0⟩

/-- An uncorrectable error stops the ring at the stripe that detects it and terminates the owning context. A granule that nothing has written since the cold
reset raises none (16 R477). -/
def State.uncorrectable (s : State) (x : ErrSite) : State :=
  match x with
  | .memoryRead e ical islot dpa => if (s.granuleKey (dpa.toNat / 64)).isNone then s else s.errAt e ical (some islot) ⟨0x47, 3, 1, dpa.toNat⟩
  | .element e ical shared => s.errAt e ical none ⟨0x08, elemClass e, 1, shared.toNat + e.slot.val * 2 ^ 32⟩
  | .scale e ical islot index => s.errAt e ical (some islot) ⟨0x26, 1, 1, index.toNat⟩
  | .matrix e ical desc wsAddr =>
    if wsAddr ≠ 0 ∧ tabGet none (wsAddr.toNat / 4096) (s.die e.at_.ring.die).wsEnc = none then s
    else s.errAt e ical (desc.map fun d => Fin.ofNat 16 d.val) ⟨0x35, 2, 1, wsAddr.toNat + if desc.isSome then 0 else e.slot.val * 2 ^ 32⟩
  | .junction e ical monitor index => s.errAt e ical none ⟨0x4B, 3, 1, index.toNat + monitor.toNat * 2 ^ 15⟩
  | .stream e ical islot unit => s.errAt (if islot.isNone then s.portPlace e ical else e) ical islot ⟨0x52, 4, 1, unit.toNat⟩
  | .sparse e ical islot unit => s.errAt e ical (some islot) ⟨0x61, 5, 1, unit.toNat⟩
  | .plane p ical => s.errAt ⟨p, 0⟩ ical none ⟨0x75, 6, 1, (s.ring p.ring).phys p.stripe.val⟩
  | .cache r ctx index =>
    s.takeFault r.die (some r.ring) (s.ctxQueue r ctx) 0 ⟨0x75, 6, 1, index.toNat⟩ ({ FRec.zero with plane := 3 }.tags ((s.ring r).job ctx) ctx none)
  | .link die _ flit ring ctx =>
    let r : RingAt := ⟨die, ring⟩
    match (s.ring r).regions.find? fun g => g.ctx == ctx with
    | some g => s.siteFault ⟨regionStripe r g.page 0, 0⟩ false none ctx none ⟨0x82, 7, 1, flit.toNat⟩
    | none => s

/-- UNCORRECTABLE_ERROR (01 R44). -/
def execUncorrectableError (site : ErrSite) (s : State) : Result := .next (s.uncorrectable site)

/-- PATROL_SCRUB (16 R484): corrected data are written back as they read; an uncorrectable granule is recorded in every die's fault log,
and stands as it is. -/
def execPatrolScrub (bad : Option Dword) (s : State) : Result :=
  .next (match bad with
    | none => s
    | some a =>
      (List.range 4).foldl (fun s d => s.takeFault (Fin.ofNat 4 d) none none 0 ⟨0xA1, 9, 2, a.toNat⟩ { FRec.zero with plane := 3 })
        { s with badGrans := (s.badGrans ++ [a.toNat / 64]).dedup })

/-- ECC_CORRECTED on the focus die (16 R484): data are corrected and counted. -/
def execEccCorrected (s : State) : Result := .next (s.onDie s.focus.ring.die fun d => { d with ecccor := d.ecccor + 1 })

end Sys2Proof.Machine
end

