-- ==== Sys2Proof/Machine/Dispatch.lean ====
section
/-! DEFINITION. One arm per constructor of Instr: each a call of its meaning. -/

namespace Sys2Proof.Machine

def exec (i : Instr) (s : State) : Host.Outcome State Fault Refusal :=
  match i with
  | .mov a d t q => Sys2Proof.Machine.execMov a d t q s
  | .mov2 a d e t q => Sys2Proof.Machine.execMov2 a d e t q s
  | .movp a b d e t q => Sys2Proof.Machine.execMovp a b d e t q s
  | .sel a b d t q => Sys2Proof.Machine.execSel a b d t q s
  | .setvl a b d t q => Sys2Proof.Machine.execSetvl a b d t q s
  | .bcast a b d t q => Sys2Proof.Machine.execBcast a b d t q s
  | .add a b d t q => Sys2Proof.Machine.execAdd a b d t q s
  | .sub a b d t q => Sys2Proof.Machine.execSub a b d t q s
  | .mul a b d t q => Sys2Proof.Machine.execMul a b d t q s
  | .mulh a b d t q => Sys2Proof.Machine.execMulh a b d t q s
  | .mad a b d t q => Sys2Proof.Machine.execMad a b d t q s
  | .neg a d t q => Sys2Proof.Machine.execNeg a d t q s
  | .abs a d t q => Sys2Proof.Machine.execAbs a d t q s
  | .min a b d t q => Sys2Proof.Machine.execMin a b d t q s
  | .max a b d t q => Sys2Proof.Machine.execMax a b d t q s
  | .andV a b d t q => Sys2Proof.Machine.execAndV a b d t q s
  | .orV a b d t q => Sys2Proof.Machine.execOrV a b d t q s
  | .xorV a b d t q => Sys2Proof.Machine.execXorV a b d t q s
  | .andn a b d t q => Sys2Proof.Machine.execAndn a b d t q s
  | .notV a d t q => Sys2Proof.Machine.execNotV a d t q s
  | .shl a b d t q => Sys2Proof.Machine.execShl a b d t q s
  | .shr a b d t q => Sys2Proof.Machine.execShr a b d t q s
  | .sar a b d t q => Sys2Proof.Machine.execSar a b d t q s
  | .popc a d t q => Sys2Proof.Machine.execPopc a d t q s
  | .clz a d t q => Sys2Proof.Machine.execClz a d t q s
  | .cmpeq a b d t q => Sys2Proof.Machine.execCmpeq a b d t q s
  | .cmpne a b d t q => Sys2Proof.Machine.execCmpne a b d t q s
  | .cmplt a b d t q => Sys2Proof.Machine.execCmplt a b d t q s
  | .cmple a b d t q => Sys2Proof.Machine.execCmple a b d t q s
  | .cmpltu a b d t q => Sys2Proof.Machine.execCmpltu a b d t q s
  | .anynz a d t q => Sys2Proof.Machine.execAnynz a d t q s
  | .allnz a d t q => Sys2Proof.Machine.execAllnz a d t q s
  | .fadd a b d t q => Sys2Proof.Machine.execFadd a b d t q s
  | .fsub a b d t q => Sys2Proof.Machine.execFsub a b d t q s
  | .fmul a b d t q => Sys2Proof.Machine.execFmul a b d t q s
  | .fma a b d t q => Sys2Proof.Machine.execFma a b d t q s
  | .fnma a b d t q => Sys2Proof.Machine.execFnma a b d t q s
  | .fmin a b d t q => Sys2Proof.Machine.execFmin a b d t q s
  | .fmax a b d t q => Sys2Proof.Machine.execFmax a b d t q s
  | .fabs a d t q => Sys2Proof.Machine.execFabs a d t q s
  | .fneg a d t q => Sys2Proof.Machine.execFneg a d t q s
  | .rcp a d t q => Sys2Proof.Machine.execRcp a d t q s
  | .rsq a d t q => Sys2Proof.Machine.execRsq a d t q s
  | .sqrt a d t q => Sys2Proof.Machine.execSqrt a d t q s
  | .exp2 a d t q => Sys2Proof.Machine.execExp2 a d t q s
  | .log2 a d t q => Sys2Proof.Machine.execLog2 a d t q s
  | .tanh a d t q => Sys2Proof.Machine.execTanh a d t q s
  | .sigm a d t q => Sys2Proof.Machine.execSigm a d t q s
  | .rsum a d t q => Sys2Proof.Machine.execRsum a d t q s
  | .rmax a d t q => Sys2Proof.Machine.execRmax a d t q s
  | .rmin a d t q => Sys2Proof.Machine.execRmin a d t q s
  | .ramax a d t q => Sys2Proof.Machine.execRamax a d t q s
  | .shuf a b d t q => Sys2Proof.Machine.execShuf a b d t q s
  | .rot a b d t q => Sys2Proof.Machine.execRot a b d t q s
  | .extr a b d t q => Sys2Proof.Machine.execExtr a b d t q s
  | .ins a b d t q => Sys2Proof.Machine.execIns a b d t q s
  | .cvt a d t q => Sys2Proof.Machine.execCvt a d t q s
  | .qnt a d t q => Sys2Proof.Machine.execQnt a d t q s
  | .dqnt a d t q => Sys2Proof.Machine.execDqnt a d t q s
  | .sbind a b d t q => Sys2Proof.Machine.execSbind a b d t q s
  | .srel a t q => Sys2Proof.Machine.execSrel a t q s
  | .spow2 a b d t q => Sys2Proof.Machine.execSpow2 a b d t q s
  | .sadde a b d t q => Sys2Proof.Machine.execSadde a b d t q s
  | .smax a b d t q => Sys2Proof.Machine.execSmax a b d t q s
  | .sprod a b d t q => Sys2Proof.Machine.execSprod a b d t q s
  | .srenorm a b d t q => Sys2Proof.Machine.execSrenorm a b d t q s
  | .sldcb a b t q => Sys2Proof.Machine.execSldcb a b t q s
  | .amaxrd d t => Sys2Proof.Machine.execAmaxrd d t s
  | .amaxclr t => Sys2Proof.Machine.execAmaxclr t s
  | .exit a d t q => Sys2Proof.Machine.execExit a d t q s
  | .drop a b t q => Sys2Proof.Machine.execDrop a b t q s
  | .trap a t q => Sys2Proof.Machine.execTrap a t q s
  | .seed a t q => Sys2Proof.Machine.execSeed a t q s
  | .rand d t => Sys2Proof.Machine.execRand d t s
  | .ld a d m t q => Sys2Proof.Machine.execLd a d m t q s
  | .st a b d m t q => Sys2Proof.Machine.execSt a b d m t q s
  | .ldv a b d m t q => Sys2Proof.Machine.execLdv a b d m t q s
  | .stv a b d m t q => Sys2Proof.Machine.execStv a b d m t q s
  | .recl a b d m t q => Sys2Proof.Machine.execRecl a b d m t q s
  | .gath a d m t q => Sys2Proof.Machine.execGath a d m t q s
  | .scat a b d m t q => Sys2Proof.Machine.execScat a b d m t q s
  | .pref a m t q => Sys2Proof.Machine.execPref a m t q s
  | .fence d m t => Sys2Proof.Machine.execFence d m t s
  | .fencex d m t => Sys2Proof.Machine.execFencex d m t s
  | .waita a b d m t q => Sys2Proof.Machine.execWaita a b d m t q s
  | .waitc a d m t q => Sys2Proof.Machine.execWaitc a d m t q s
  | .launch a d m t q => Sys2Proof.Machine.execLaunch a d m t q s
  | .signal a b d m t q => Sys2Proof.Machine.execSignal a b d m t q s
  | .tkt a d t q => Sys2Proof.Machine.execTkt a d t q s
  | .grant a d t q => Sys2Proof.Machine.execGrant a d t q s
  | .reply a d t q => Sys2Proof.Machine.execReply a d t q s
  | .send a d m t q => Sys2Proof.Machine.execSend a d m t q s
  | .sendn a m t q => Sys2Proof.Machine.execSendn a m t q s
  | .jMov a d t q => Sys2Proof.Machine.execJMov a d t q s
  | .jMov2 a d e t q => Sys2Proof.Machine.execJMov2 a d e t q s
  | .jAdd a b d t q => Sys2Proof.Machine.execJAdd a b d t q s
  | .jSub a b d t q => Sys2Proof.Machine.execJSub a b d t q s
  | .jAnd a b d t q => Sys2Proof.Machine.execJAnd a b d t q s
  | .jShl a b d t q => Sys2Proof.Machine.execJShl a b d t q s
  | .jCmpeq a b d t q => Sys2Proof.Machine.execJCmpeq a b d t q s
  | .jCmplt a b d t q => Sys2Proof.Machine.execJCmplt a b d t q s
  | .jExit a d t q => Sys2Proof.Machine.execJExit a d t q s
  | .jDrop a b t q => Sys2Proof.Machine.execJDrop a b t q s
  | .jTrap a t q => Sys2Proof.Machine.execJTrap a t q s
  | .fwait rd => Sys2Proof.Machine.execFwait rd s
  | .flatch rd rs1 => Sys2Proof.Machine.execFlatch rd rs1 s
  | .fpost rs1 rs2 => Sys2Proof.Machine.execFpost rs1 rs2 s
  | .fqmap rs1 rs2 => Sys2Proof.Machine.execFqmap rs1 rs2 s
  | .fqdemap rd rs1 => Sys2Proof.Machine.execFqdemap rd rs1 s
  | .fseqchk rd rs1 rs2 => Sys2Proof.Machine.execFseqchk rd rs1 rs2 s
  | .flaunch rd rs1 => Sys2Proof.Machine.execFlaunch rd rs1 s
  | .fvigil rd rs1 => Sys2Proof.Machine.execFvigil rd rs1 s
  | .feKick q single w => Sys2Proof.Machine.execFeKick q single w s
  | .feCack q single w => Sys2Proof.Machine.execFeCack q single w s
  | .pktNop h => Sys2Proof.Machine.execPktNop h s
  | .pktLaunch h b => Sys2Proof.Machine.execPktLaunch h b s
  | .pktWait h addr value op => Sys2Proof.Machine.execPktWait h addr value op s
  | .pktSignal h addr value op => Sys2Proof.Machine.execPktSignal h addr value op s
  | .pktCancel h level lseq id => Sys2Proof.Machine.execPktCancel h level lseq id s
  | .pktCount h level lseq id => Sys2Proof.Machine.execPktCount h level lseq id s
  | .phase h tinst p => Sys2Proof.Machine.execPhase h tinst p s
  | .evict h tinst p => Sys2Proof.Machine.execEvict h tinst p s
  | .restore h tinst p => Sys2Proof.Machine.execRestore h tinst p s
  | .compact h tinst p => Sys2Proof.Machine.execCompact h tinst p s
  | .almanac h tinst p => Sys2Proof.Machine.execAlmanac h tinst p s
  | .almread h tinst p => Sys2Proof.Machine.execAlmread h tinst p s
  | .wswrite h tinst p => Sys2Proof.Machine.execWswrite h tinst p s
  | .reswrite h tinst p => Sys2Proof.Machine.execReswrite h tinst p s
  | .prefetch h tinst p => Sys2Proof.Machine.execPrefetch h tinst p s
  | .eqwait h tinst p => Sys2Proof.Machine.execEqwait h tinst p s
  | .status h tinst p => Sys2Proof.Machine.execStatus h tinst p s
  | .ctxnew h pasid rtcnt rtbase sabase sasize => Sys2Proof.Machine.execCtxnew h pasid rtcnt rtbase sabase sasize s
  | .ctxfree h pasid => Sys2Proof.Machine.execCtxfree h pasid s
  | .qnew h b => Sys2Proof.Machine.execQnew h b s
  | .qfree h qid => Sys2Proof.Machine.execQfree h qid s
  | .watchMet die hart => Sys2Proof.Machine.execWatchMet die hart s
  | .vigilExpiry die hart => Sys2Proof.Machine.execVigilExpiry die hart s
  | .plaunch p => Sys2Proof.Machine.execPlaunch p s
  | .pcancel p => Sys2Proof.Machine.execPcancel p s
  | .pcount p => Sys2Proof.Machine.execPcount p s
  | .pphase p => Sys2Proof.Machine.execPphase p s
  | .pevict p => Sys2Proof.Machine.execPevict p s
  | .prestore p => Sys2Proof.Machine.execPrestore p s
  | .pcompact p => Sys2Proof.Machine.execPcompact p s
  | .palmw p => Sys2Proof.Machine.execPalmw p s
  | .palmr p => Sys2Proof.Machine.execPalmr p s
  | .pwsw p => Sys2Proof.Machine.execPwsw p s
  | .prsw p => Sys2Proof.Machine.execPrsw p s
  | .ppref p => Sys2Proof.Machine.execPpref p s
  | .peqwait p => Sys2Proof.Machine.execPeqwait p s
  | .pstat p => Sys2Proof.Machine.execPstat p s
  | .ingressListCheck die entry => Sys2Proof.Machine.execIngressListCheck die entry s
  | .ingressFirstToken die entry => Sys2Proof.Machine.execIngressFirstToken die entry s
  | .configFetch r entry stage => Sys2Proof.Machine.execConfigFetch r entry stage s
  | .configLoad p => Sys2Proof.Machine.execConfigLoad p s
  | .stateSave p => Sys2Proof.Machine.execStateSave p s
  | .stateRestore p => Sys2Proof.Machine.execStateRestore p s
  | .cohortEntry r entry => Sys2Proof.Machine.execCohortEntry r entry s
  | .equinox r page => Sys2Proof.Machine.execEquinox r page s
  | .phaseBoundary die pasid => Sys2Proof.Machine.execPhaseBoundary die pasid s
  | .launchComplete die entry => Sys2Proof.Machine.execLaunchComplete die entry s
  | .cancelComplete die entry => Sys2Proof.Machine.execCancelComplete die entry s
  | .tokenArrival h ical => Sys2Proof.Machine.execTokenArrival h ical s
  | .steerDelivery e => Sys2Proof.Machine.execSteerDelivery e s
  | .killAbsorb c ical => Sys2Proof.Machine.execKillAbsorb c ical s
  | .matchStep c ical => Sys2Proof.Machine.execMatchStep c ical s
  | .iterKillSweep die entry iter => Sys2Proof.Machine.execIterKillSweep die entry iter s
  | .windowAdvance die entry => Sys2Proof.Machine.execWindowAdvance die entry s
  | .storePark e ical => Sys2Proof.Machine.execStorePark e ical s
  | .parkedStoreIssue e ical => Sys2Proof.Machine.execParkedStoreIssue e ical s
  | .quantumCommit die entry => Sys2Proof.Machine.execQuantumCommit die entry s
  | .jnIsbDeadlock e ical => Sys2Proof.Machine.execJnIsbDeadlock e ical s
  | .translationComplete die pasid vpage ans => Sys2Proof.Machine.execTranslationComplete die pasid vpage ans s
  | .priResponse die pasid vpage ok => Sys2Proof.Machine.execPriResponse die pasid vpage ok s
  | .atsInvalidation die pasid vpage => Sys2Proof.Machine.execAtsInvalidation die pasid vpage s
  | .memoryReply r op => Sys2Proof.Machine.execMemoryReply r op s
  | .ldvVersionMet r op => Sys2Proof.Machine.execLdvVersionMet r op s
  | .watchCheck r n => Sys2Proof.Machine.execWatchCheck r n s
  | .messageAccept e => Sys2Proof.Machine.execMessageAccept e s
  | .uncorrectableError site => Sys2Proof.Machine.execUncorrectableError site s
  | .patrolScrub bad => Sys2Proof.Machine.execPatrolScrub bad s
  | .slabLoad e ical => Sys2Proof.Machine.execSlabLoad e ical s
  | .slabPiece e ical => Sys2Proof.Machine.execSlabPiece e ical s
  | .mxRowPick e ical => Sys2Proof.Machine.execMxRowPick e ical s
  | .mxRowCommit e ical => Sys2Proof.Machine.execMxRowCommit e ical s
  | .mxRowDrain e ical => Sys2Proof.Machine.execMxRowDrain e ical s
  | .mxKillAbsorb e ical => Sys2Proof.Machine.execMxKillAbsorb e ical s
  | .mxcfg p => Sys2Proof.Machine.execMxcfg p s
  | .mxtile p => Sys2Proof.Machine.execMxtile p s
  | .mxkcnt p => Sys2Proof.Machine.execMxkcnt p s
  | .mxdrain p => Sys2Proof.Machine.execMxdrain p s
  | .mxclracc p => Sys2Proof.Machine.execMxclracc p s
  | .mxcb p => Sys2Proof.Machine.execMxcb p s
  | .mxamax p => Sys2Proof.Machine.execMxamax p s
  | .mxrdacc p => Sys2Proof.Machine.execMxrdacc p s
  | .mxfill p => Sys2Proof.Machine.execMxfill p s
  | .mxfmt p => Sys2Proof.Machine.execMxfmt p s
  | .mxrnd p => Sys2Proof.Machine.execMxrnd p s
  | .mxstat p => Sys2Proof.Machine.execMxstat p s
  | .sopen p => Sys2Proof.Machine.execSopen p s
  | .sclose p => Sys2Proof.Machine.execSclose p s
  | .srdh p => Sys2Proof.Machine.execSrdh p s
  | .swrh p => Sys2Proof.Machine.execSwrh p s
  | .scopy p => Sys2Proof.Machine.execScopy p s
  | .sstride p => Sys2Proof.Machine.execSstride p s
  | .sgath p => Sys2Proof.Machine.execSgath p s
  | .sscat p => Sys2Proof.Machine.execSscat p s
  | .sldbs p => Sys2Proof.Machine.execSldbs p s
  | .ssync p => Sys2Proof.Machine.execSsync p s
  | .ssyncw p => Sys2Proof.Machine.execSsyncw p s
  | .singress p => Sys2Proof.Machine.execSingress p s
  | .sstat p => Sys2Proof.Machine.execSstat p s
  | .sabort p => Sys2Proof.Machine.execSabort p s
  | .ssyncMet r n => Sys2Proof.Machine.execSsyncMet r n s
  | .streamTransferDone r n => Sys2Proof.Machine.execStreamTransferDone r n s
  | .portDeliver r port => Sys2Proof.Machine.execPortDeliver r port s
  | .uadd p => Sys2Proof.Machine.execUadd p s
  | .ufadd p => Sys2Proof.Machine.execUfadd p s
  | .umax p => Sys2Proof.Machine.execUmax p s
  | .umin p => Sys2Proof.Machine.execUmin p s
  | .uor p => Sys2Proof.Machine.execUor p s
  | .uand p => Sys2Proof.Machine.execUand p s
  | .uxchg p => Sys2Proof.Machine.execUxchg p s
  | .ucas p => Sys2Proof.Machine.execUcas p s
  | .uorder p => Sys2Proof.Machine.execUorder p s
  | .uflush p => Sys2Proof.Machine.execUflush p s
  | .allocGrantRemote die entry => Sys2Proof.Machine.execAllocGrantRemote die entry s
  | .keyLoad die slot => Sys2Proof.Machine.execKeyLoad die slot s
  | .keyRetire die slot => Sys2Proof.Machine.execKeyRetire die slot s
  | .hdmCommit base size ways => Sys2Proof.Machine.execHdmCommit base size ways s
  | .hostHbmAccess a => Sys2Proof.Machine.execHostHbmAccess a s
  | .islandRetention r page => Sys2Proof.Machine.execIslandRetention r page s
  | .thermalThrottle die tj => Sys2Proof.Machine.execThermalThrottle die tj s
  | .pldmFirmwareUpdate img => Sys2Proof.Machine.execPldmFirmwareUpdate img s
  | .spdmGetCertificate slot => Sys2Proof.Machine.execSpdmGetCertificate slot s
  | .spdmChallenge nonce => Sys2Proof.Machine.execSpdmChallenge nonce s
  | .spdmGetMeasurements index => Sys2Proof.Machine.execSpdmGetMeasurements index s
  | .spdmKeyExchange exchange => Sys2Proof.Machine.execSpdmKeyExchange exchange s
  | .spdmFinish proof => Sys2Proof.Machine.execSpdmFinish proof s
  | .pldmSensorRead n => Sys2Proof.Machine.execPldmSensorRead n s
  | .registerWrite who addr value => Sys2Proof.Machine.execRegisterWrite who addr value s
  | .pathFAccess die hart a => Sys2Proof.Machine.execPathFAccess die hart a s
  | .illegalInstruction w => Sys2Proof.Machine.execIllegalInstruction w s
  | .faultBufferEnter => Sys2Proof.Machine.execFaultBufferEnter s
  | .firmwareRestartReset => Sys2Proof.Machine.execFirmwareRestartReset s
  | .dieWake => Sys2Proof.Machine.execDieWake s
  | .dispatchBind => Sys2Proof.Machine.execDispatchBind s
  | .stripeSwap => Sys2Proof.Machine.execStripeSwap s
  | .procStrayToken => Sys2Proof.Machine.execProcStrayToken s
  | .procMissingExit => Sys2Proof.Machine.execProcMissingExit s
  | .almanacUpdate => Sys2Proof.Machine.execAlmanacUpdate s
  | .intercalarySwitch => Sys2Proof.Machine.execIntercalarySwitch s
  | .intercalaryReturn => Sys2Proof.Machine.execIntercalaryReturn s
  | .sclExhausted => Sys2Proof.Machine.execSclExhausted s
  | .xltTimeout => Sys2Proof.Machine.execXltTimeout s
  | .waveLink => Sys2Proof.Machine.execWaveLink s
  | .memWave => Sys2Proof.Machine.execMemWave s
  | .eccCorrected => Sys2Proof.Machine.execEccCorrected s
  | .updateExpand => Sys2Proof.Machine.execUpdateExpand s
  | .windowIssue => Sys2Proof.Machine.execWindowIssue s
  | .flitReceive => Sys2Proof.Machine.execFlitReceive s
  | .linkRetrain => Sys2Proof.Machine.execLinkRetrain s
  | .retrainComplete => Sys2Proof.Machine.execRetrainComplete s
  | .retrainHold => Sys2Proof.Machine.execRetrainHold s
  | .lnkRetrainFail => Sys2Proof.Machine.execLnkRetrainFail s
  | .coldReset => Sys2Proof.Machine.execColdReset s
  | .bootgo => Sys2Proof.Machine.execBootgo s
  | .fwrestart => Sys2Proof.Machine.execFwrestart s
  | .gate => Sys2Proof.Machine.execGate s
  | .devThermal => Sys2Proof.Machine.execDevThermal s
  | .spdmGetVersion => Sys2Proof.Machine.execSpdmGetVersion s
  | .spdmGetCapabilities => Sys2Proof.Machine.execSpdmGetCapabilities s
  | .spdmNegotiateAlgorithms => Sys2Proof.Machine.execSpdmNegotiateAlgorithms s
  | .spdmGetDigests => Sys2Proof.Machine.execSpdmGetDigests s
  | .sparseUpdatePerformed => Sys2Proof.Machine.execSparseUpdatePerformed s

end Sys2Proof.Machine
end

