-- ==== Sys2Proof/Machine/Fetch.lean ====
section
/-! DEFINITION. What a cue of the agenda comes to: an instruction to run with its focus set, or none; the passing of an fc; and the state in which a
given word is the next instruction (logs 1, 3). -/

namespace Sys2Proof.Machine

/-- What a step finds to do. -/
inductive Fetched where
  | run (s : State) (i : Instr)
  | idle (s : State)

/-! ### Pickers (08 R285, R295) -/

/-- The part of 07 R260 that an instruction has in the scale file: 0 for uses alone, 1 where it allocates, 2 for a codebook write; none for one that
does not act on it. -/
def scaleStep : Instr → Option Nat
  | .qnt .. => some 1
  | .sbind .. => some 1
  | .spow2 .. => some 1
  | .sadde .. => some 1
  | .smax .. => some 1
  | .sprod .. => some 1
  | .srenorm .. => some 1
  | .sldcb .. => some 2
  | .dqnt .. => some 0
  | .srel .. => some 0
  | .drop .. => some 0
  | .mov2 .. => some 0
  | .jMov2 .. => some 0
  | .jDrop .. => some 0
  | .st .. => some 0
  | .stv .. => some 0
  | .scat .. => some 0
  | .signal .. => some 0
  | _ => none

/-- Whether an instruction picked in a slot stalls there for want of a scale entry (07 R255): it leaves its wait, and does not fire. -/
def State.allocWaits (s : State) (e : ElemAt) (ical : Bool) (i : Fin 16) (x : Instr) : Bool :=
  scaleStep x == some 1 &&
    match exec x (s.focusPick e ical i) with
    | .next t => t.stalledSlot e ical == some i
    | _ => false

/-- The picker of an element fires one slot an fc, unless a parked store is due (12 R395). An M-element has none (11 R352). A slot that stalls takes the
fc's pick but does not fire, so no age changes (08 R285). -/
def State.fetchPick (s : State) (e : ElemAt) (ical : Bool) : Fetched :=
  if !s.live e ical ∨ (s.elem e).lastPick = s.fc + 1 ∨ (10 ≤ e.slot.val ∧ e.slot.val < 14) ∨ (s.dueStore e ical).isSome then .idle s
  else
    let n := s.refused e ical
    let s := if n = 0 then s else s.countOnce e 0 fun r => { r with elThrottle := r.elThrottle + .ofNat 64 n }
    match s.pickSlot e ical with
    | none => .idle s
    | some (i, aged) =>
      match s.slotInstr e ical i with
      | some x => .run (State.focusPick (if s.allocWaits e ical i x then s else s.agePick e ical i aged) e ical i) x
      | none => .idle s

/-! ### Harts (04 R132, R78) -/

/-- A base instruction of `len` bytes (log 12): it makes its access, or completes; every other word is an illegal instruction. -/
def State.runRv (s : State) (d : Fin 4) (h : Fin 64) (w len : Nat) (i : Option Rv) : Fetched :=
  match i with
  | none => .run s (.illegalInstruction (.ofNat 32 w))
  | some i =>
    match i.access (s.hart d h) with
    | some a => .run (s.onHart d h fun y => { y with ilen := .ofNat 3 len }) (.pathFAccess d h a)
    | none => .idle (s.onHart d h (Hart.rv h.val i w len))

/-- The instruction of a hart whose first 16 bits are read: a compressed one, or one of 32 bits, whose other half is read too. -/
def State.issueHart (s : State) (d : Fin 4) (h : Fin 64) (lo : Nat) : Fetched :=
  let pc := (s.hart d h).pc
  if lo % 4 ≠ 3 then s.runRv d h lo 2 (decodeRvc lo)
  else
    match s.hartRead d h (pc + 2).toNat 2 with
    | .fault => .idle (s.onHart d h fun y => y.trap 1 (pc + 2))
    | .miss s => .idle s
    | .done s bs =>
      let w := lo + bytesNat bs * 2 ^ 16
      match decodeFe (.ofNat 32 w) with
      | .ok i => .run s i
      | .error _ => s.runRv d h w 4 (decodeRv w)

/-- A hart issues the instruction at its pc, and runs a program of its own from then on (log 26). One that path F blocks makes its access again; a
custom instruction that blocks is issued again. -/
def State.fetchHart (s : State) (d : Fin 4) (h : Fin 64) : Fetched :=
  let s := { s with focus := { s.focus with ring := ⟨d, 0⟩, hart := h } }
  if (s.die d).gated ∨ s.recovery then .idle s
  else
    let s := s.onHart d h fun y => { y with own := true }
    match (s.hart d h).block with
    | .pathF a => .run s (.pathFAccess d h a)
    | _ =>
      match s.hartRead d h (s.hart d h).pc.toNat 2 with
      | .fault => .idle (s.onHart d h fun y => y.trap 1 y.pc)
      | .miss s => .idle s
      | .done s bs => s.issueHart d h (bytesNat bs)

/-! ### Messages (12 R400, 13 R435, 14 R443, 05 R215) -/

/-- The instruction that a message stands for. -/
def Msg.instr (m : Msg) : Option Instr := decodeMsg m.cls m.mop m.p

/-- Run a message that has left its queue. -/
def State.runMsg (s : State) (m : Msg) : Fetched :=
  match m.instr with
  | some i => .run { s with focus := { s.focus with msg := m } } i
  | none => .idle s

/-- An engine of a ring takes the head of its queue. -/
def State.fetchMessage (s : State) (r : RingAt) (cls : Fin 16) : Fetched :=
  let y := s.ring r
  let s := { s with focus := { s.focus with ring := r } }
  if cls = 4 then match y.streamIn with | [] => .idle s | m :: q => State.runMsg (s.onRing r fun z => { z with streamIn := q }) m
  else if cls = 5 then match y.sparseIn with | [] => .idle s | m :: q => State.runMsg (s.onRing r fun z => { z with sparseIn := q }) m
  else if cls = 6 then match y.procIn with | [] => .idle s | m :: q => State.runMsg (s.onRing r fun z => { z with procIn := q }) m
  else .idle s

/-- An M-element takes the head of a plane's message queue: one an fc, and none of a frozen plane (11 R370, R372). -/
def State.fetchMx (s : State) (e : ElemAt) (ical : Bool) : Fetched :=
  let x := s.elem e
  let s := { s with focus := { s.focus with ring := e.at_.ring, elem := e, ical := ical } }
  if !s.moving e.at_ ical ∨ x.lastMsg = s.fc + 1 then .idle s
  else
    match if ical then x.msgqI else x.msgq with
    | [] => .idle s
    | m :: q =>
      let y := { x with lastMsg := s.fc + 1 }
      State.runMsg (s.setElem e (if ical then { y with msgqI := q } else { y with msgq := q })) m

/-! ### Time -/

/-- An allocation of a scale entry still waits: its launch goes on where it waits; a port is still open, and a slot, unless its element is held or
frozen, would still fire for the same iteration (07 R255, R272). -/
def State.sclWaits (s : State) (r : RingAt) (w : SclWait) : Bool :=
  let e := ElemAt.ofKey w.elem
  let x := s.launch w.launch
  !x.cancelled && !x.faulted && ((s.ring r).regions.flatMap Region.launches ++ (s.ring r).icalLaunch.toList).contains w.launch &&
    match w.who with
    | .slot i =>
      ((s.stripe e.at_).cfg w.ical).any (fun c => c.launch == w.launch) &&
        (!s.live e w.ical || (s.eligible e w.ical i && (s.firingAt e w.ical i).iter == w.iter))
    | .port n => (tabFind n (s.ring r).ports).any fun p => p.launch == w.launch
    | .link _ => true

/-- The elements that a full iteration store buffer stalls, each once an fc (12 R407). -/
def State.countStalls (s : State) (r : RingAt) : State :=
  let y := s.ring r
  (y.arriving ++ y.waveBuf).foldl (fun s o =>
    if o.stalled ≠ 0 ∧ s.isbFull o then s.countOnce (ElemAt.ofKey o.elem) 1 fun x => { x with jnIsbstall := x.jnIsbstall + 1 } else s) s

/-- What an fc changes on a ring: a late stripe is noted, results and replies are tried again, transfers go on, waves are planned and stripes become due, waits that are no more
and idle regions of terminated jobs are dropped, and stalls, holds and free pages are counted. -/
def State.ringClock (s : State) (r : RingAt) : State :=
  let s := (((((s.noteLate r).retryResults r).retryReplies r).streamClock r).planRing r).schedule r
  let s := s.onRing r fun y => { y with scl := { y.scl with waits := y.scl.waits.filter (s.sclWaits r) } }
  let s := ((s.countStalls r).recount r).removeIdle r
  let s := if s.holding r then s.onRing r fun y => { y with holdfc := y.holdfc + 1 } else s
  s.pageClock r

/-- What an fc changes on a die: vigil timers and temperature, the links' counters, invalidations that are done, the fault buffer, and what the firmware serves. -/
def State.dieClock (s : State) (d : Fin 4) : State :=
  let s := s.onDie d fun x => { x.hartClock with hot := if 1760 ≤ x.tj.toNat then x.hot + 1 else 0 }
  let s := ((s.setThrottle d).linkClock d 0).linkClock d 1
  let s := (s.invalsDone d).mapQueues d
  let s := s.deliverFaults d
  let s := s.serveReports d
  let s := ((s.die d).queues.filter fun p => !p.2.outbox.isEmpty).foldl (fun s p => State.flush 64 s (qidOf d p.1)) s
  s.promote d

/-- An fc passes. -/
def State.tick (s : State) : State :=
  let s := State.holdLinks { s with fc := s.fc + 1 }
  let s := allRings.foldl State.ringClock s
  (List.range 4).foldl (fun s d => s.dieClock (Fin.ofNat 4 d)) s

/-! ### Cues -/

/-- The host's stores to its own memory; those that the decoder claims for HBM are HOST_HBM_ACCESS. -/
def State.hostStore (s : State) (addr : Nat) : List Byte → State
  | [] => s
  | b :: bs =>
    State.hostStore (match s.locate addr with | .host h => { s with hostMem := cellPut h b s.hostMem } | .hbm _ => s) (addr + 1) bs

/-- Whether a step is an event of an engine, which stands in no word, packet or message; the illegal-instruction exception is a hart's. -/
def isEvent (i : Instr) : Bool :=
  match i with
  | .illegalInstruction _ => false
  | _ => i.page == .event

/-- What a cue comes to. -/
def State.fetch (s : State) (c : Cue) : Fetched :=
  match c with
  | .pick e ical => s.fetchPick e ical
  | .hart d h => s.fetchHart d h
  | .packet q =>
    match s.takePacket q with
    | .idle s => .idle s
    | .packet s i => .run { s with focus := { s.focus with queue := q } } i
  | .message r cls => s.fetchMessage r cls
  | .mxMessage e ical => s.fetchMx e ical
  | .event r ep i => if isEvent i then .run { s with focus := { s.focus with ring := r, ep := ep } } i else .idle s
  | .tick => .idle s.tick
  | .hostStore a bs => .idle (s.hostStore a.toNat bs)
  | .chainIn d ep f => .idle (if (peerOf d ep).isNone then s.arriveFlit d ep f else s)

/-! ### The order of what falls in one fc (01 R36; 07 R260; 08 R295; 11 R372; 13 R424) -/

/-- The slot and the word that a picker would fire. -/
def State.pickWord (s : State) (e : ElemAt) (ical : Bool) : Option (Fin 16 × Word) :=
  (s.pickSlot e ical).map fun p => (p.1, ((s.elem e).plane ical).iw[p.1])

/-- The endpoint over which the next token of a hop crosses a link with its scale record (15 R470). -/
def State.scaleCrosses (s : State) (h : Hop) (ical : Bool) : Option (Fin 2) :=
  match s.hopTarget h ical, takeFirst ical (s.hopTokens h) with
  | .chain l k _, some (t, _) =>
    ((s.segPlace l k).filter fun _ => t.tok.body.fmt.scaled && !t.tok.kill).map fun g => endpointTo (hopStripe h).ring.die g.die
  | _, _ => none

/-- A cue's act on the scale file of a ring: its class, and its place among the elements, then the links, then the ports. Class 0 acts in its place: an
allocation that finds an entry takes the head of the free list, which no release changes. One that would wait, class 1, comes after the releases of the
fc, and a codebook write, class 2, after everything (07 R260). -/
def State.scaleAct (s : State) : Cue → Option (RingAt × Nat × Nat)
  | .pick e ical =>
    (s.pickWord e ical).bind fun p => (s.slotInstr e ical p.1).bind fun x => (scaleStep x).map fun k =>
      (e.at_.ring, (if k = 1 ∧ !s.allocWaits e ical p.1 x then 0 else k), e.key)
  | .event _ _ (.mxRowCommit e _) => some (e.at_.ring, 0, e.key)
  | .event _ _ (.parkedStoreIssue e _) => some (e.at_.ring, 0, e.key)
  | .event _ _ (.tokenArrival h ical) => (s.scaleCrosses h ical).map fun n => ((hopStripe h).ring, 0, 2 ^ 16 + n.val)
  | .event _ _ (.portDeliver r n) => some (r, 1, 2 ^ 16 + 2 + n.val)
  | _ => none

/-- A cue's request for an iteration value: the launch that it asks, and its place. -/
def State.grantAct (s : State) : Cue → Option (Nat × Nat)
  | .pick e ical =>
    ((s.pickWord e ical).filter fun p => bits p.2.toNat 4 1 == 3 || bits p.2.toNat 4 1 == 4).map fun _ =>
      (((s.stripe e.at_).conf ical).launch, e.key)
  | .event _ _ (.parkedStoreIssue e ical) =>
    ((s.dueStore e ical).filter fun p => p.tag == 3 || p.tag == 4).map fun _ => (((s.stripe e.at_).conf ical).launch, e.key)
  | .event _ _ (.portDeliver r n) => (tabFind n.val (s.ring r).ports).map fun p => (p.launch, 2 ^ 16 + n.val)
  | _ => none

/-- The ring of an error that stops a stripe. -/
def errRing : ErrSite → Option RingAt
  | .memoryRead e _ _ _ => some e.at_.ring
  | .element e _ _ => some e.at_.ring
  | .scale e _ _ _ => some e.at_.ring
  | .matrix e _ _ _ => some e.at_.ring
  | .junction e _ _ _ => some e.at_.ring
  | .stream e _ _ _ => some e.at_.ring
  | .sparse e _ _ _ => some e.at_.ring
  | .plane p _ => some p.ring
  | .cache r _ _ => some r
  | .link die _ _ ring _ => some ⟨die, ring⟩

/-- The launches that a cue would cancel: those of a PCANCEL at the head of its queue, or of a CANCEL packet that is next on its queue. -/
def State.cancels (s : State) : Cue → List Nat
  | .message r cls =>
    ((s.ring r).procIn.head?.filter fun _ => cls == 6).toList.flatMap fun m =>
      match m.instr with
      | some (.pcancel p) => if itemParams m p then (s.levelItems m.at_.die m.pasid (bits p.p0.toNat 2 0) p.p1.toNat).getD [] else []
      | _ => []
  | .packet qid =>
    match s.takePacket qid, s.queue qid with
    | .packet t (.pktCancel h level lseq id), some q =>
      if level = 1 then ((t.pktItem qid q h.seq lseq).bind fun l => l).toList
      else (t.levelItems (homeDie qid) q.pasid level.toNat id.toNat).getD []
    | _, _ => []
  | .event _ _ (.cancelComplete d l) => [launchKey d l.toNat]
  | _ => []

/-- The precedence of 01 R36 on a ring: an error, firings, a switch, a cancel, a swap, a cohort entry. A cancel acts where its launches stand. -/
def State.ringAct (s : State) (c : Cue) : List (RingAt × Nat) :=
  ((s.cancels c).flatMap fun l => (s.launch l).segs.map fun g => (⟨g.die, g.ring⟩, 3)) ++
    match c with
    | .event _ _ (.uncorrectableError x) => ((errRing x).map fun r => (r, 0)).toList
    | .pick e _ => [(e.at_.ring, 1)]
    | .event _ _ (.parkedStoreIssue e _) => [(e.at_.ring, 1)]
    | .event _ _ (.mxRowPick e _) => [(e.at_.ring, 1)]
    | .event _ _ (.mxRowCommit e _) => [(e.at_.ring, 1)]
    | .event r _ .intercalarySwitch => [(r, 2)]
    | .event r _ .stripeSwap => [(r, 4)]
    | .event _ _ (.cohortEntry r _) => [(r, 5)]
    | _ => []

/-- The order of an M-element's acts on a plane in one fc (11 R372, R376): the pick of a row, a message, the commit of a row. -/
def mxAct : Cue → Option (ElemAt × Bool × Nat)
  | .event _ _ (.mxRowPick e ical) => some (e, ical, 0)
  | .mxMessage e ical => some (e, ical, 1)
  | .event _ _ (.mxRowCommit e ical) => some (e, ical, 2)
  | _ => none

/-- One place is before another, on the same thing. -/
def placedBefore {α : Type} [DecidableEq α] (a b : List (α × Nat)) : Bool :=
  a.any fun x => b.any fun y => decide (x.1 = y.1) && decide (x.2 < y.2)

/-- Of two cues of one fc, the first acts before the second. Who asks for an iteration value first has its grant at its pick, whatever the scale file then
says. -/
def State.precedes (s : State) (a b : Cue) : Bool :=
  let scale (c : Cue) := ((s.scaleAct c).map fun x => (x.1, x.2.1 * 2 ^ 20 + x.2.2)).toList
  let mx (c : Cue) := ((mxAct c).map fun x => ((x.1, x.2.1), x.2.2)).toList
  let grant (c : Cue) := (s.grantAct c).toList
  placedBefore (s.ringAct a) (s.ringAct b) || placedBefore (mx a) (mx b) || placedBefore (grant a) (grant b) ||
    (placedBefore (scale a) (scale b) && !placedBefore (grant b) (grant a))

/-- The cue to act on: of those that come before the fc passes, the first that no other precedes. -/
def State.nextCue (s : State) : Option Cue :=
  match s.agenda.takeWhile fun c => decide (c ≠ .tick) with
  | [] => s.agenda.head?
  | c :: cs => some (((c :: cs).find? fun x => !(c :: cs).any fun y => decide (y ≠ x) && s.precedes y x).getD c)

/-! ### A word to run next -/

/-- Place a word where the front end fetches it: at the pc of hart 0 of die 0, which runs. -/
def State.placeFe (s : State) (w : Word) : State :=
  let pc : Dword := if (s.hart 0 0).pc.toNat + 4 ≤ 0x80000 then (s.hart 0 0).pc else 0
  let s := s.onHart 0 0 fun h => { h with pc := pc, block := .running, ilen := 0 }
  let s := s.onDie 0 fun d => { d with sram := writeBytes pc.toNat (natBytes 4 w.toNat) d.sram, gated := false }
  { s with recovery := false, agenda := .hart 0 0 :: .tick :: s.agenda }

/-- An SFMT that a word admits. -/
def placedFmt (j : Bool) (x : Fields) : Nat := (lowest (fun n => fmtOk j x.opc n) 9).getD 0

/-- What the registers and tokens of a placed word hold: zeros of its SFMT. -/
def placedReg (f : Nat) : Reg := { Reg.zero with fmt := Fmt.ofCode f }

/-- A token of the launch that runs a placed word. -/
def placedTok (f : Nat) : Token := ⟨placedReg f, 0, 0, false, false, false⟩

/-- The trigger that offers a word the channels it reads: none, one, or a pair. -/
def placedTrig (x : Fields) : Nat :=
  let a := chanSel x.a
  let b := chanSel x.b
  if a ∧ b ∧ x.a ≠ x.b then 0x80000000 + (x.a - 8) * 2 ^ 11 + (x.b - 8) * 2 ^ 8 + 2 * 64
  else if a then 0x80000000 + (x.a - 8) * 2 ^ 11 + 64
  else if b then 0x80000000 + (x.b - 8) * 2 ^ 11 + 64
  else 0x80000000

/-- A plane whose slot 0 holds a word, under an SFMT that it admits, with one exit, and a ticket or a grant for the words that need one. -/
def placedPlane (j : Bool) (w : Word) : Plane :=
  let z := Plane.empty 0x80000000
  let x := fieldsOf w
  let f := placedFmt j x
  { z with
    iw := z.iw.set 0 w, tw := z.tw.set 0 (.ofNat 32 (placedTrig x)), hdr := .ofNat 256 (f * 2 ^ 82 + 2 ^ 239), d := Vector.replicate 8 (placedReg f),
    tickets := if x.opc = 0x11 then [⟨placedTok f, 0, 0⟩] else [], grants := if x.opc = 0x12 then [⟨0, 0, 0⟩] else [] }

/-- The element that runs a placed word. -/
def placedElem (j : Bool) (w : Word) : Elem :=
  let z := Elem.empty 0x80000000
  let t := trigOf (.ofNat 32 (placedTrig (fieldsOf w)))
  let k := placedTok (placedFmt j (fieldsOf w))
  { z with
    active := placedPlane j w,
    inq := if t.mode = 1 then z.inq.set t.cha.val [k] else z.inq,
    ready := if t.mode = 2 then [⟨false, t.cha, t.chb, k, k⟩] else [] }

/-- The launch that it runs for: a job of PASID 1 on page 0 of ring 0 of die 0, with one stage. -/
def placedLaunch : Launch :=
  { Launch.zero with
    state := .running, pasid := 1, pages := 1, stages := 1, window := 8, woken := true, triggered := true, segs := [⟨0, 0, 0, 0, Alloc.start, 0⟩] }

/-- Place a word in slot 0 of element 0 (V) or 14 (J) of the first stripe, where its picker finds it. -/
def State.placeWord (s : State) (j : Bool) (w : Word) : State :=
  let e : ElemAt := ⟨⟨⟨0, 0⟩, 0⟩, if j then 14 else 0⟩
  let s := s.onDie 0 fun d => { d with launches := tabPut 0 placedLaunch d.launches }
  let g : Region :=
    { page := 0, pages := 1, pasid := 1, ctx := 0, launches := [0], reqs := [], plan := [(some 0, 0)], cohorts := 0, predSwaps := 0, stage0At := 0,
      cohortOpen := false, counted := false, aside := [] }
  let s := s.onRing ⟨0, 0⟩ fun r =>
    { r with ctxs := tabPut 0 1 r.ctxs, regions := [g], fholds := [], occupied := false, stopped := false }
  let s := s.setStripe e.at_ { Stripe.empty with active := some { Cfg.zero with pasid := 1, present := 0xFFFF }, swaps := 1 }
  { s.setElem e (placedElem j w) with agenda := .pick e false :: .tick :: s.agenda }

/-- The state with a word of the opcode table where the next step fetches its instruction. -/
def State.placeNext (s : State) (nbits w : Nat) : State :=
  match decodeTableWord nbits w with
  | none => s
  | some i =>
    match i.page with
    | .v => s.placeWord false (.ofNat 32 w)
    | .j => s.placeWord true (.ofNat 32 w)
    | _ => s.placeFe (.ofNat 32 w)

end Sys2Proof.Machine
end

