-- ==== Sys2Proof/Machine/Step.lean ====
section
/-! DEFINITION. The step: the next cue of the agenda, or an fc when the agenda is empty (log 1). -/

namespace Sys2Proof.Machine

def step (s : State) : Host.Outcome State Fault Refusal :=
  match s.nextCue with
  | none => .next s.tick
  | some c =>
    match State.fetch { s with agenda := s.agenda.erase c } c with
    | .run s i => exec i s
    | .idle s => .next s

/-- The state in which the next step runs the instruction of a word of the opcode table (log 3). -/
def State.withFetchWord (s : State) (nbits w : Nat) : State := s.placeNext nbits w

end Sys2Proof.Machine
end

