-- ==== Sys2Proof/Laws/PerInstr.lean ====
section
/-! SUPPORT. Decoding the encoding of a well-formed instruction, one lemma per constructor of Instr. -/

namespace Sys2Proof

set_option Elab.async false

/-! ### Fields of words -/

theorem fieldsOf_mkWord {opc a b d e t q : Nat} (h0 : opc < 128) (ha : a < 32) (hb : b < 32) (hd : d < 32) (he : e < 32) (ht : t < 16) (hq : q < 2) :
    fieldsOf (mkWord opc a b d e t q) = ⟨opc, a, b, d, e, t, q⟩ := by
  simp only [fieldsOf, mkWord, fld, BitVec.toNat_ofNat, Fields.mk.injEq]
  omega

theorem Fields.a5_toNat (o : Nat) (a : BitVec 5) (b d e t q : Nat) : (Fields.mk o a.toNat b d e t q).a5 = a := by simp [Fields.a5]
theorem Fields.b5_toNat (o a : Nat) (b : BitVec 5) (d e t q : Nat) : (Fields.mk o a b.toNat d e t q).b5 = b := by simp [Fields.b5]
theorem Fields.d5_toNat (o a b : Nat) (d : BitVec 5) (e t q : Nat) : (Fields.mk o a b d.toNat e t q).d5 = d := by simp [Fields.d5]
theorem Fields.e5_toNat (o a b d : Nat) (e : BitVec 5) (t q : Nat) : (Fields.mk o a b d e.toNat t q).e5 = e := by simp [Fields.e5]
theorem Fields.m2_toNat (o a b d : Nat) (m : BitVec 2) (t q : Nat) : (Fields.mk o a b d m.toNat t q).m2 = m := by simp [Fields.m2]
theorem Fields.a3_toNat (o : Nat) (a : BitVec 3) (b d e t q : Nat) : (Fields.mk o (a.toNat + 8) b d e t q).a3 = a := by simp [Fields.a3]
theorem Fields.d3_toNat (o a b : Nat) (d : BitVec 3) (e t q : Nat) : (Fields.mk o a b (d.toNat + 8) e t q).d3 = d := by simp [Fields.d3]
theorem Fields.t4_toNat (o a b d e : Nat) (t : BitVec 4) (q : Nat) : (Fields.mk o a b d e t.toNat q).t4 = t := by simp [Fields.t4]
theorem Fields.q1_toNat (o a b d e t : Nat) (q : Bool) : (Fields.mk o a b d e t q.toNat).q1 = q := by cases q <;> rfl

/-! ### Words -/

/-- A word of fields in their ranges decodes to the row of its opcode, when the row's form does not refuse them. -/
theorem ofRow_mkWord {r : Fields → Option (Form × Instr)} {opc a b d e t q : Nat} {f : Form} {i : Instr} (h0 : opc < 128) (ha : a < 32) (hb : b < 32)
    (hd : d < 32) (he : e < 32) (ht : t < 16) (hq : q < 2) (hr : r ⟨opc, a, b, d, e, t, q⟩ = some (f, i))
    (hf : f.refusal ⟨opc, a, b, d, e, t, q⟩ = none) : ofRow (fieldsOf (mkWord opc a b d e t q)) (r (fieldsOf (mkWord opc a b d e t q))) = .ok i := by
  simp only [fieldsOf_mkWord h0 ha hb hd he ht hq, hr, ofRow, hf]

/-- What a form refuses. -/
theorem refusal_none {f : Form} {o a b d e t q : Nat} (h1 : a ≤ 28) (h2 : b ≤ 28) (h3 : d ≤ 24) (h4 : f.e = .desc ∨ f.e = .msg ∨ e ≤ 24)
    (ha : f.a.ok a = true) (hb : f.b = true ∨ b = 24) (hd : f.d.ok d = true) (he : f.e.ok e = true)
    (hq : q = 0 ∨ (f.a ≠ .none ∧ chanSel a = true) ∨ (f.b = true ∧ chanSel b = true)) (ht : t < 14) :
    f.refusal ⟨o, a, b, d, e, t, q⟩ = none := by
  have hs : f.selectOk ⟨o, a, b, d, e, t, q⟩ = true := by
    simp only [Form.selectOk, Bool.and_eq_true, Bool.or_eq_true, decide_eq_true_eq]; tauto
  have ho : f.operandOk ⟨o, a, b, d, e, t, q⟩ = true := by
    simp only [Form.operandOk, Bool.and_eq_true, Bool.or_eq_true, decide_eq_true_eq]; tauto
  simp [Form.refusal, hs, ho, ht]

theorem peek_ok {q : Bool} {a b : BitVec 5} (h : peekWf q a b = true) : q.toNat = 0 ∨ chanSel a.toNat = true ∨ chanSel b.toNat = true := by
  cases q <;> simp_all [peekWf, isChan, chanSel]

theorem peek_ok1 {q : Bool} {a : BitVec 5} (h : peekWf q a 24 = true) : q.toNat = 0 ∨ chanSel a.toNat = true := by
  cases q <;> simp_all [peekWf, isChan, chanSel]

/-! ### The forms of operands (02 R57, R58, R68) -/

section Forms
variable {r : Fields → Option (Form × Instr)} {o : Nat} {t : BitVec 4} {q : Bool} {i : Instr}

theorem Form.a_ {a : BitVec 5} {d : BitVec 5} (ho : o < 128) (hr : r ⟨o, a.toNat, 24, d.toNat, 24, t.toNat, q.toNat⟩ = some (⟨.any, false, .any, .none⟩, i))
    (h : (srcWf a && dstWf d && tagWf t && peekWf q a 24) = true) :
    ofRow (fieldsOf (mkWord o a.toNat 24 d.toNat 24 t.toNat q.toNat)) (r (fieldsOf (mkWord o a.toNat 24 d.toNat 24 t.toNat q.toNat))) = .ok i := by
  simp only [Bool.and_eq_true, srcWf, dstWf, tagWf, decide_eq_true_eq] at h
  obtain ⟨⟨⟨h0, h1⟩, h2⟩, h3⟩ := h
  refine ofRow_mkWord ho (by omega) (by omega) (by omega) (by omega) (by omega) (by cases q <;> decide) hr
    (refusal_none (by omega) (by omega) (by omega) (.inr (.inr (by omega))) rfl (.inr rfl) rfl rfl ?_ (by omega))
  rcases peek_ok1 h3 with k | k <;> simp [k]

theorem Form.two {a : BitVec 5} {d : BitVec 5} {e : BitVec 5} (ho : o < 128) (hr : r ⟨o, a.toNat, 24, d.toNat, e.toNat, t.toNat, q.toNat⟩ = some (⟨.any, false, .any, .any⟩, i))
    (h : (srcWf a && dstWf d && dstWf e && tagWf t && peekWf q a 24) = true) :
    ofRow (fieldsOf (mkWord o a.toNat 24 d.toNat e.toNat t.toNat q.toNat)) (r (fieldsOf (mkWord o a.toNat 24 d.toNat e.toNat t.toNat q.toNat))) = .ok i := by
  simp only [Bool.and_eq_true, srcWf, dstWf, tagWf, decide_eq_true_eq] at h
  obtain ⟨⟨⟨⟨h0, h1⟩, h2⟩, h3⟩, h4⟩ := h
  refine ofRow_mkWord ho (by omega) (by omega) (by omega) (by omega) (by omega) (by cases q <;> decide) hr
    (refusal_none (by omega) (by omega) (by omega) (.inr (.inr (by omega))) rfl (.inr rfl) rfl rfl ?_ (by omega))
  rcases peek_ok1 h4 with k | k <;> simp [k]

theorem Form.four {a : BitVec 5} {b : BitVec 5} {d : BitVec 5} {e : BitVec 5} (ho : o < 128) (hr : r ⟨o, a.toNat, b.toNat, d.toNat, e.toNat, t.toNat, q.toNat⟩ = some (⟨.any, true, .any, .any⟩, i))
    (h : (srcWf a && srcWf b && dstWf d && dstWf e && tagWf t && peekWf q a b) = true) :
    ofRow (fieldsOf (mkWord o a.toNat b.toNat d.toNat e.toNat t.toNat q.toNat)) (r (fieldsOf (mkWord o a.toNat b.toNat d.toNat e.toNat t.toNat q.toNat))) = .ok i := by
  simp only [Bool.and_eq_true, srcWf, dstWf, tagWf, decide_eq_true_eq] at h
  obtain ⟨⟨⟨⟨⟨h0, h1⟩, h2⟩, h3⟩, h4⟩, h5⟩ := h
  refine ofRow_mkWord ho (by omega) (by omega) (by omega) (by omega) (by omega) (by cases q <;> decide) hr
    (refusal_none (by omega) (by omega) (by omega) (.inr (.inr (by omega))) rfl (.inl rfl) rfl rfl ?_ (by omega))
  rcases peek_ok h5 with k | k | k <;> simp [k]

theorem Form.ab {a : BitVec 5} {b : BitVec 5} {d : BitVec 5} (ho : o < 128) (hr : r ⟨o, a.toNat, b.toNat, d.toNat, 24, t.toNat, q.toNat⟩ = some (⟨.any, true, .any, .none⟩, i))
    (h : (srcWf a && srcWf b && dstWf d && tagWf t && peekWf q a b) = true) :
    ofRow (fieldsOf (mkWord o a.toNat b.toNat d.toNat 24 t.toNat q.toNat)) (r (fieldsOf (mkWord o a.toNat b.toNat d.toNat 24 t.toNat q.toNat))) = .ok i := by
  simp only [Bool.and_eq_true, srcWf, dstWf, tagWf, decide_eq_true_eq] at h
  obtain ⟨⟨⟨⟨h0, h1⟩, h2⟩, h3⟩, h4⟩ := h
  refine ofRow_mkWord ho (by omega) (by omega) (by omega) (by omega) (by omega) (by cases q <;> decide) hr
    (refusal_none (by omega) (by omega) (by omega) (.inr (.inr (by omega))) rfl (.inl rfl) rfl rfl ?_ (by omega))
  rcases peek_ok h4 with k | k | k <;> simp [k]

theorem Form.acc {a : BitVec 5} {b : BitVec 5} {d : BitVec 5} (ho : o < 128) (hr : r ⟨o, a.toNat, b.toNat, d.toNat, 24, t.toNat, q.toNat⟩ = some (⟨.any, true, .acc, .none⟩, i))
    (h : (srcWf a && srcWf b && accWf d && tagWf t && peekWf q a b) = true) :
    ofRow (fieldsOf (mkWord o a.toNat b.toNat d.toNat 24 t.toNat q.toNat)) (r (fieldsOf (mkWord o a.toNat b.toNat d.toNat 24 t.toNat q.toNat))) = .ok i := by
  simp only [Bool.and_eq_true, srcWf, accWf, tagWf, decide_eq_true_eq] at h
  obtain ⟨⟨⟨⟨h0, h1⟩, h2⟩, h3⟩, h4⟩ := h
  refine ofRow_mkWord ho (by omega) (by omega) (by omega) (by omega) (by omega) (by cases q <;> decide) hr
    (refusal_none (by omega) (by omega) (by omega) (.inr (.inr (by omega))) rfl (.inl rfl) (by simp only [DstUse.ok, decide_eq_true_eq]; omega) rfl ?_ (by omega))
  rcases peek_ok h4 with k | k | k <;> simp [k]

theorem Form.src {a : BitVec 5} (ho : o < 128) (hr : r ⟨o, a.toNat, 24, 24, 24, t.toNat, q.toNat⟩ = some (⟨.any, false, .none, .none⟩, i))
    (h : (srcWf a && tagWf t && peekWf q a 24) = true) :
    ofRow (fieldsOf (mkWord o a.toNat 24 24 24 t.toNat q.toNat)) (r (fieldsOf (mkWord o a.toNat 24 24 24 t.toNat q.toNat))) = .ok i := by
  simp only [Bool.and_eq_true, srcWf, tagWf, decide_eq_true_eq] at h
  obtain ⟨⟨h0, h1⟩, h2⟩ := h
  refine ofRow_mkWord ho (by omega) (by omega) (by omega) (by omega) (by omega) (by cases q <;> decide) hr
    (refusal_none (by omega) (by omega) (by omega) (.inr (.inr (by omega))) rfl (.inr rfl) rfl rfl ?_ (by omega))
  rcases peek_ok1 h2 with k | k <;> simp [k]

theorem Form.srcs {a : BitVec 5} {b : BitVec 5} (ho : o < 128) (hr : r ⟨o, a.toNat, b.toNat, 24, 24, t.toNat, q.toNat⟩ = some (⟨.any, true, .none, .none⟩, i))
    (h : (srcWf a && srcWf b && tagWf t && peekWf q a b) = true) :
    ofRow (fieldsOf (mkWord o a.toNat b.toNat 24 24 t.toNat q.toNat)) (r (fieldsOf (mkWord o a.toNat b.toNat 24 24 t.toNat q.toNat))) = .ok i := by
  simp only [Bool.and_eq_true, srcWf, tagWf, decide_eq_true_eq] at h
  obtain ⟨⟨⟨h0, h1⟩, h2⟩, h3⟩ := h
  refine ofRow_mkWord ho (by omega) (by omega) (by omega) (by omega) (by omega) (by cases q <;> decide) hr
    (refusal_none (by omega) (by omega) (by omega) (.inr (.inr (by omega))) rfl (.inl rfl) rfl rfl ?_ (by omega))
  rcases peek_ok h3 with k | k | k <;> simp [k]

theorem Form.dst {d : BitVec 5} (ho : o < 128) (hr : r ⟨o, 24, 24, d.toNat, 24, t.toNat, 0⟩ = some (⟨.none, false, .any, .none⟩, i))
    (h : (dstWf d && tagWf t) = true) :
    ofRow (fieldsOf (mkWord o 24 24 d.toNat 24 t.toNat 0)) (r (fieldsOf (mkWord o 24 24 d.toNat 24 t.toNat 0))) = .ok i := by
  simp only [Bool.and_eq_true, dstWf, tagWf, decide_eq_true_eq] at h
  obtain ⟨h0, h1⟩ := h
  refine ofRow_mkWord ho (by omega) (by omega) (by omega) (by omega) (by omega) (by omega) hr
    (refusal_none (by omega) (by omega) (by omega) (.inr (.inr (by omega))) rfl (.inr rfl) rfl rfl ?_ (by omega))
  exact .inl rfl

theorem Form.bare  (ho : o < 128) (hr : r ⟨o, 24, 24, 24, 24, t.toNat, 0⟩ = some (⟨.none, false, .none, .none⟩, i))
    (h : (tagWf t) = true) :
    ofRow (fieldsOf (mkWord o 24 24 24 24 t.toNat 0)) (r (fieldsOf (mkWord o 24 24 24 24 t.toNat 0))) = .ok i := by
  simp only [tagWf, decide_eq_true_eq] at h
  refine ofRow_mkWord ho (by omega) (by omega) (by omega) (by omega) (by omega) (by omega) hr
    (refusal_none (by omega) (by omega) (by omega) (.inr (.inr (by omega))) rfl (.inr rfl) rfl rfl ?_ (by omega))
  exact .inl rfl

theorem Form.desc {a : BitVec 5} {d : BitVec 5} {m : BitVec 2} (ho : o < 128) (hr : r ⟨o, a.toNat, 24, d.toNat, m.toNat, t.toNat, q.toNat⟩ = some (⟨.any, false, .any, .desc⟩, i))
    (h : (srcWf a && dstWf d && tagWf t && peekWf q a 24) = true) :
    ofRow (fieldsOf (mkWord o a.toNat 24 d.toNat m.toNat t.toNat q.toNat)) (r (fieldsOf (mkWord o a.toNat 24 d.toNat m.toNat t.toNat q.toNat))) = .ok i := by
  simp only [Bool.and_eq_true, srcWf, dstWf, tagWf, decide_eq_true_eq] at h
  obtain ⟨⟨⟨h0, h1⟩, h2⟩, h3⟩ := h
  refine ofRow_mkWord ho (by omega) (by omega) (by omega) (by omega) (by omega) (by cases q <;> decide) hr
    (refusal_none (by omega) (by omega) (by omega) (.inl rfl) rfl (.inr rfl) rfl (by simp only [DstbUse.ok, decide_eq_true_eq]; omega) ?_ (by omega))
  rcases peek_ok1 h3 with k | k <;> simp [k]

theorem Form.abDesc {a : BitVec 5} {b : BitVec 5} {d : BitVec 5} {m : BitVec 2} (ho : o < 128) (hr : r ⟨o, a.toNat, b.toNat, d.toNat, m.toNat, t.toNat, q.toNat⟩ = some (⟨.any, true, .any, .desc⟩, i))
    (h : (srcWf a && srcWf b && dstWf d && tagWf t && peekWf q a b) = true) :
    ofRow (fieldsOf (mkWord o a.toNat b.toNat d.toNat m.toNat t.toNat q.toNat)) (r (fieldsOf (mkWord o a.toNat b.toNat d.toNat m.toNat t.toNat q.toNat))) = .ok i := by
  simp only [Bool.and_eq_true, srcWf, dstWf, tagWf, decide_eq_true_eq] at h
  obtain ⟨⟨⟨⟨h0, h1⟩, h2⟩, h3⟩, h4⟩ := h
  refine ofRow_mkWord ho (by omega) (by omega) (by omega) (by omega) (by omega) (by cases q <;> decide) hr
    (refusal_none (by omega) (by omega) (by omega) (.inl rfl) rfl (.inl rfl) rfl (by simp only [DstbUse.ok, decide_eq_true_eq]; omega) ?_ (by omega))
  rcases peek_ok h4 with k | k | k <;> simp [k]

theorem Form.srcDesc {a : BitVec 5} {m : BitVec 2} (ho : o < 128) (hr : r ⟨o, a.toNat, 24, 24, m.toNat, t.toNat, q.toNat⟩ = some (⟨.any, false, .none, .desc⟩, i))
    (h : (srcWf a && tagWf t && peekWf q a 24) = true) :
    ofRow (fieldsOf (mkWord o a.toNat 24 24 m.toNat t.toNat q.toNat)) (r (fieldsOf (mkWord o a.toNat 24 24 m.toNat t.toNat q.toNat))) = .ok i := by
  simp only [Bool.and_eq_true, srcWf, tagWf, decide_eq_true_eq] at h
  obtain ⟨⟨h0, h1⟩, h2⟩ := h
  refine ofRow_mkWord ho (by omega) (by omega) (by omega) (by omega) (by omega) (by cases q <;> decide) hr
    (refusal_none (by omega) (by omega) (by omega) (.inl rfl) rfl (.inr rfl) rfl (by simp only [DstbUse.ok, decide_eq_true_eq]; omega) ?_ (by omega))
  rcases peek_ok1 h2 with k | k <;> simp [k]

theorem Form.dstDesc {d : BitVec 5} {m : BitVec 2} (ho : o < 128) (hr : r ⟨o, 24, 24, d.toNat, m.toNat, t.toNat, 0⟩ = some (⟨.none, false, .any, .desc⟩, i))
    (h : (dstWf d && tagWf t) = true) :
    ofRow (fieldsOf (mkWord o 24 24 d.toNat m.toNat t.toNat 0)) (r (fieldsOf (mkWord o 24 24 d.toNat m.toNat t.toNat 0))) = .ok i := by
  simp only [Bool.and_eq_true, dstWf, tagWf, decide_eq_true_eq] at h
  obtain ⟨h0, h1⟩ := h
  refine ofRow_mkWord ho (by omega) (by omega) (by omega) (by omega) (by omega) (by omega) hr
    (refusal_none (by omega) (by omega) (by omega) (.inl rfl) rfl (.inr rfl) rfl (by simp only [DstbUse.ok, decide_eq_true_eq]; omega) ?_ (by omega))
  exact .inl rfl

theorem Form.outDesc {a : BitVec 5} {b : BitVec 5} {d : BitVec 3} {m : BitVec 2} (ho : o < 128) (hr : r ⟨o, a.toNat, b.toNat, (8 + d.toNat), m.toNat, t.toNat, q.toNat⟩ = some (⟨.any, true, .out, .desc⟩, i))
    (h : (srcWf a && srcWf b && tagWf t && peekWf q a b) = true) :
    ofRow (fieldsOf (mkWord o a.toNat b.toNat (8 + d.toNat) m.toNat t.toNat q.toNat)) (r (fieldsOf (mkWord o a.toNat b.toNat (8 + d.toNat) m.toNat t.toNat q.toNat))) = .ok i := by
  simp only [Bool.and_eq_true, srcWf, tagWf, decide_eq_true_eq] at h
  obtain ⟨⟨⟨h0, h1⟩, h2⟩, h3⟩ := h
  refine ofRow_mkWord ho (by omega) (by omega) (by omega) (by omega) (by omega) (by cases q <;> decide) hr
    (refusal_none (by omega) (by omega) (by omega) (.inl rfl) rfl (.inl rfl) (by simp only [DstUse.ok, Bool.and_eq_true, decide_eq_true_eq]; omega) (by simp only [DstbUse.ok, decide_eq_true_eq]; omega) ?_ (by omega))
  rcases peek_ok h3 with k | k | k <;> simp [k]

theorem Form.msg {a : BitVec 5} {d : BitVec 5} {m : BitVec 2} (ho : o < 128) (hr : r ⟨o, a.toNat, 24, d.toNat, m.toNat, t.toNat, q.toNat⟩ = some (⟨.any, false, .any, .msg⟩, i))
    (h : (srcWf a && dstWf d && msgWf m && tagWf t && peekWf q a 24) = true) :
    ofRow (fieldsOf (mkWord o a.toNat 24 d.toNat m.toNat t.toNat q.toNat)) (r (fieldsOf (mkWord o a.toNat 24 d.toNat m.toNat t.toNat q.toNat))) = .ok i := by
  simp only [Bool.and_eq_true, srcWf, dstWf, msgWf, tagWf, decide_eq_true_eq] at h
  obtain ⟨⟨⟨⟨h0, h1⟩, h2⟩, h3⟩, h4⟩ := h
  refine ofRow_mkWord ho (by omega) (by omega) (by omega) (by omega) (by omega) (by cases q <;> decide) hr
    (refusal_none (by omega) (by omega) (by omega) (.inr (.inl rfl)) rfl (.inr rfl) rfl (by simp only [DstbUse.ok, decide_eq_true_eq]; omega) ?_ (by omega))
  rcases peek_ok1 h4 with k | k <;> simp [k]

theorem Form.head {a : BitVec 3} {d : BitVec 5} (ho : o < 128) (hr : r ⟨o, (8 + a.toNat), 24, d.toNat, 24, t.toNat, q.toNat⟩ = some (⟨.chan, false, .any, .none⟩, i))
    (h : (dstWf d && tagWf t) = true) :
    ofRow (fieldsOf (mkWord o (8 + a.toNat) 24 d.toNat 24 t.toNat q.toNat)) (r (fieldsOf (mkWord o (8 + a.toNat) 24 d.toNat 24 t.toNat q.toNat))) = .ok i := by
  simp only [Bool.and_eq_true, dstWf, tagWf, decide_eq_true_eq] at h
  obtain ⟨h0, h1⟩ := h
  refine ofRow_mkWord ho (by omega) (by omega) (by omega) (by omega) (by omega) (by cases q <;> decide) hr
    (refusal_none (by omega) (by omega) (by omega) (.inr (.inr (by omega))) (by simp only [SrcUse.ok, Bool.and_eq_true, decide_eq_true_eq]; omega) (.inr rfl) rfl rfl ?_ (by omega))
  exact .inr (.inl ⟨by simp, by simp only [chanSel, Bool.and_eq_true, decide_eq_true_eq]; omega⟩)

theorem Form.out {a : BitVec 5} {d : BitVec 3} (ho : o < 128) (hr : r ⟨o, a.toNat, 24, (8 + d.toNat), 24, t.toNat, q.toNat⟩ = some (⟨.any, false, .out, .none⟩, i))
    (h : (srcWf a && tagWf t && peekWf q a 24) = true) :
    ofRow (fieldsOf (mkWord o a.toNat 24 (8 + d.toNat) 24 t.toNat q.toNat)) (r (fieldsOf (mkWord o a.toNat 24 (8 + d.toNat) 24 t.toNat q.toNat))) = .ok i := by
  simp only [Bool.and_eq_true, srcWf, tagWf, decide_eq_true_eq] at h
  obtain ⟨⟨h0, h1⟩, h2⟩ := h
  refine ofRow_mkWord ho (by omega) (by omega) (by omega) (by omega) (by omega) (by cases q <;> decide) hr
    (refusal_none (by omega) (by omega) (by omega) (.inr (.inr (by omega))) rfl (.inr rfl) (by simp only [DstUse.ok, Bool.and_eq_true, decide_eq_true_eq]; omega) rfl ?_ (by omega))
  rcases peek_ok1 h2 with k | k <;> simp [k]

theorem Form.srcMsg {a : BitVec 5} {m : BitVec 2} (ho : o < 128) (hr : r ⟨o, a.toNat, 24, 24, m.toNat, t.toNat, q.toNat⟩ = some (⟨.any, false, .none, .msg⟩, i))
    (h : (srcWf a && msgWf m && tagWf t && peekWf q a 24) = true) :
    ofRow (fieldsOf (mkWord o a.toNat 24 24 m.toNat t.toNat q.toNat)) (r (fieldsOf (mkWord o a.toNat 24 24 m.toNat t.toNat q.toNat))) = .ok i := by
  simp only [Bool.and_eq_true, srcWf, msgWf, tagWf, decide_eq_true_eq] at h
  obtain ⟨⟨⟨h0, h1⟩, h2⟩, h3⟩ := h
  refine ofRow_mkWord ho (by omega) (by omega) (by omega) (by omega) (by omega) (by cases q <;> decide) hr
    (refusal_none (by omega) (by omega) (by omega) (.inr (.inl rfl)) rfl (.inr rfl) rfl (by simp only [DstbUse.ok, decide_eq_true_eq]; omega) ?_ (by omega))
  rcases peek_ok1 h3 with k | k <;> simp [k]

end Forms

/-! ### Front-end words and packets -/

section Fe
variable {rs2 rs1 f3 rd : Nat} (h1 : rs2 < 32) (h2 : rs1 < 32) (h3 : f3 < 8) (h4 : rd < 32)
include h1 h2 h3 h4

theorem mkFe_fields : fld (mkFe rs2 rs1 f3 rd).toNat 0 7 = 0x0B ∧ fld (mkFe rs2 rs1 f3 rd).toNat 25 7 = 0 ∧ fld (mkFe rs2 rs1 f3 rd).toNat 20 5 = rs2 ∧
    fld (mkFe rs2 rs1 f3 rd).toNat 15 5 = rs1 ∧ fld (mkFe rs2 rs1 f3 rd).toNat 12 3 = f3 ∧ fld (mkFe rs2 rs1 f3 rd).toNat 7 5 = rd := by
  simp only [mkFe, fld, BitVec.toNat_ofNat]
  omega

end Fe

theorem packHead_fields (ty : Nat) (h : PktHead) (ht : ty < 256) (hw : h.wf = true) :
    fld (packHead ty h).toNat 48 8 = 1 ∧ fld (packHead ty h).toNat 16 11 = 0 ∧ fld (packHead ty h).toNat 56 8 = ty ∧
      fld (packHead ty h).toNat 0 16 = 0 ∧ unpackHead (packHead ty h).toNat = h := by
  obtain ⟨seq, cmpl, barrier, rscope, feat⟩ := h
  simp only [PktHead.wf, Bool.and_eq_true, decide_eq_true_eq] at hw
  obtain ⟨rfl, hr⟩ := hw
  have hs := seq.isLt
  have hc := Bool.toNat_lt cmpl
  have hb := Bool.toNat_lt barrier
  have f0 : (0 : BitVec 11).toNat = 0 := rfl
  have e : (packHead ty ⟨seq, cmpl, barrier, rscope, 0⟩).toNat =
      ty * 2 ^ 56 + 2 ^ 48 + seq.toNat * 2 ^ 32 + cmpl.toNat * 2 ^ 31 + barrier.toNat * 2 ^ 30 + rscope.toNat * 2 ^ 27 := by
    simp only [packHead, BitVec.toNat_ofNat, f0]
    omega
  rw [e]
  refine ⟨by simp only [fld]; omega, by simp only [fld]; omega, by simp only [fld]; omega, by simp only [fld]; omega, ?_⟩
  simp only [unpackHead, PktHead.mk.injEq]
  refine ⟨?_, ?_, ?_, ?_, ?_⟩
  · apply BitVec.eq_of_toNat_eq; simp only [fld, BitVec.toNat_ofNat]; omega
  · cases cmpl <;> cases barrier <;> simp only [fld, beq_iff_eq, beq_eq_false_iff_ne, Bool.toNat_true, Bool.toNat_false] <;> omega
  · cases cmpl <;> cases barrier <;> simp only [fld, beq_iff_eq, beq_eq_false_iff_ne, Bool.toNat_true, Bool.toNat_false] <;> omega
  · apply BitVec.eq_of_toNat_eq; simp only [fld, BitVec.toNat_ofNat]; omega
  · apply BitVec.eq_of_toNat_eq; simp only [fld, BitVec.toNat_ofNat, f0]; omega

/-- A packet with a good head decodes by its type to the instruction whose fields its words hold. -/
theorem decodePacket_mk {ty : Nat} {h : PktHead} {w1 w2 w3 w4 w5 : Dword} {i : Instr} (ht : ty < 256) (hw : h.wf = true)
    (hr : packetRow ty h w1.toNat w2.toNat w3.toNat w4.toNat w5.toNat = some i)
    (hz : ∀ w0, fld w0 0 16 = 0 → packetReserved ty w0 w1.toNat w2.toNat w3.toNat w4.toNat w5.toNat 0 0 = true) (hi : i.wf = true) :
    decodePacket [packHead ty h, w1, w2, w3, w4, w5, 0, 0] = .ok i := by
  obtain ⟨e1, e2, e3, e4, e5⟩ := packHead_fields ty h ht hw
  have z := hz _ e4
  simp only [decodePacket, decodePacketNat, e1, e2, e3, e5, hr]
  simp [z, hi]


/-! ### Bodies of packets -/

theorem ofNat_self {n : Nat} (x : BitVec n) : BitVec.ofNat n x.toNat = x := by simp

theorem relay_ti (ti : BitVec 8) : BitVec.ofNat 8 (fld (BitVec.ofNat 64 ti.toNat).toNat 0 8) = ti := by
  apply BitVec.eq_of_toNat_eq; simp only [fld, BitVec.toNat_ofNat]; omega

theorem relay_params (p : Params) :
    paramsOf (BitVec.ofNat 64 (p.p1.toNat * 2 ^ 32 + p.p0.toNat)).toNat (BitVec.ofNat 64 (p.p3.toNat * 2 ^ 32 + p.p2.toNat)).toNat = p := by
  obtain ⟨p0, p1, p2, p3⟩ := p
  simp only [paramsOf, Params.mk.injEq]
  refine ⟨?_, ?_, ?_, ?_⟩ <;> (apply BitVec.eq_of_toNat_eq; simp only [fld, BitVec.toNat_ofNat]; omega)

theorem launch_body (b : LaunchBody) :
    launchBodyOf (BitVec.ofNat 64 (b.iridx.toNat * 2 ^ 48 + b.ioff.toNat)).toNat (BitVec.ofNat 64 (b.aridx.toNat * 2 ^ 48 + b.aoff.toNat)).toNat
      (BitVec.ofNat 64 b.graph.toNat).toNat
      (BitVec.ofNat 64 (b.dep3.toNat * 2 ^ 48 + b.dep2.toNat * 2 ^ 32 + b.dep1.toNat * 2 ^ 16 + b.dep0.toNat)).toNat
      (BitVec.ofNat 64 (b.prio.toNat * 2 ^ 8 + b.early.toNat * 2 ^ 4 + b.depv.toNat)).toNat = b := by
  obtain ⟨iridx, ioff, aridx, aoff, graph, d0, d1, d2, d3, depv, early, prio⟩ := b
  simp only [launchBodyOf, LaunchBody.mk.injEq]
  refine ⟨?_, ?_, ?_, ?_, ?_, ?_, ?_, ?_, ?_, ?_, ?_, ?_⟩ <;> (apply BitVec.eq_of_toNat_eq; simp only [fld, BitVec.toNat_ofNat]; omega)

theorem launch_reserved {w0 w1 w2 w4 : Nat} {g : Word} {p : BitVec 8} {e v : BitVec 4} (z : fld w0 0 16 = 0) :
    packetReserved 1 w0 w1 w2 (BitVec.ofNat 64 g.toNat).toNat w4 (BitVec.ofNat 64 (p.toNat * 2 ^ 8 + e.toNat * 2 ^ 4 + v.toNat)).toNat 0 0 = true := by
  simp only [fld] at z
  simp [packetReserved, fld]; omega

theorem qnew_body (b : QnewBody) :
    qnewBodyOf (BitVec.ofNat 64 (b.csize.toNat * 2 ^ 45 + b.rsize.toNat * 2 ^ 41 + b.kernel.toNat * 2 ^ 40 + b.pasid.toNat * 2 ^ 20 + b.qid.toNat)).toNat
      b.rbase.toNat b.cbase.toNat (BitVec.ofNat 64 (b.cseq0.toNat * 2 ^ 16 + b.seq0.toNat)).toNat = b := by
  obtain ⟨qid, pasid, kernel, rsize, csize, rbase, cbase, seq0, cseq0⟩ := b
  simp only [qnewBodyOf, QnewBody.mk.injEq, ofNat_self, true_and]
  refine ⟨?_, ?_, ?_, ?_, ?_, ?_, ?_⟩
  pick_goal 3
  · cases kernel <;> simp only [fld, beq_iff_eq, beq_eq_false_iff_ne, Bool.toNat_true, Bool.toNat_false, BitVec.toNat_ofNat] <;> omega
  all_goals (cases kernel <;> (apply BitVec.eq_of_toNat_eq; simp only [fld, BitVec.toNat_ofNat, Bool.toNat_true, Bool.toNat_false]; omega))

theorem qnew_reserved {w0 w2 w3 : Nat} {c r : BitVec 4} {k : Bool} {p q : BitVec 20} {a s : BitVec 16} (z : fld w0 0 16 = 0) :
    packetReserved 19 w0 (BitVec.ofNat 64 (c.toNat * 2 ^ 45 + r.toNat * 2 ^ 41 + k.toNat * 2 ^ 40 + p.toNat * 2 ^ 20 + q.toNat)).toNat w2 w3
      (BitVec.ofNat 64 (a.toNat * 2 ^ 16 + s.toNat)).toNat 0 0 0 = true := by
  simp only [fld] at z
  cases k <;> simp [packetReserved, fld] <;> omega

namespace Laws.Round

/-- A well-formed instruction of any encoding is what the decoder reads from its encoding. -/
def Statement (i : Instr) : Prop := i.page ≠ .event → i.wf = true → decode i.page (encode i) = .ok i

theorem mov (a : BitVec 5) (d : BitVec 5) (t : BitVec 4) (q : Bool) : Statement (.mov a d t q) := fun _ h =>
  Form.a_ (r := vRow) (by decide) (by simp [vRow, Fields.a5, Fields.d5, Fields.t4, Fields.q1_toNat]) h
theorem mov2 (a : BitVec 5) (d : BitVec 5) (e : BitVec 5) (t : BitVec 4) (q : Bool) : Statement (.mov2 a d e t q) := fun _ h =>
  Form.two (r := vRow) (by decide) (by simp [vRow, Fields.a5, Fields.d5, Fields.e5, Fields.t4, Fields.q1_toNat]) h
theorem movp (a : BitVec 5) (b : BitVec 5) (d : BitVec 5) (e : BitVec 5) (t : BitVec 4) (q : Bool) : Statement (.movp a b d e t q) := fun _ h =>
  Form.four (r := vRow) (by decide) (by simp [vRow, Fields.a5, Fields.b5, Fields.d5, Fields.e5, Fields.t4, Fields.q1_toNat]) h
theorem sel (a : BitVec 5) (b : BitVec 5) (d : BitVec 5) (t : BitVec 4) (q : Bool) : Statement (.sel a b d t q) := fun _ h =>
  Form.ab (r := vRow) (by decide) (by simp [vRow, Fields.a5, Fields.b5, Fields.d5, Fields.t4, Fields.q1_toNat]) h
theorem setvl (a : BitVec 5) (b : BitVec 5) (d : BitVec 5) (t : BitVec 4) (q : Bool) : Statement (.setvl a b d t q) := fun _ h =>
  Form.ab (r := vRow) (by decide) (by simp [vRow, Fields.a5, Fields.b5, Fields.d5, Fields.t4, Fields.q1_toNat]) h
theorem bcast (a : BitVec 5) (b : BitVec 5) (d : BitVec 5) (t : BitVec 4) (q : Bool) : Statement (.bcast a b d t q) := fun _ h =>
  Form.ab (r := vRow) (by decide) (by simp [vRow, Fields.a5, Fields.b5, Fields.d5, Fields.t4, Fields.q1_toNat]) h
theorem add (a : BitVec 5) (b : BitVec 5) (d : BitVec 5) (t : BitVec 4) (q : Bool) : Statement (.add a b d t q) := fun _ h =>
  Form.ab (r := vRow) (by decide) (by simp [vRow, Fields.a5, Fields.b5, Fields.d5, Fields.t4, Fields.q1_toNat]) h
theorem sub (a : BitVec 5) (b : BitVec 5) (d : BitVec 5) (t : BitVec 4) (q : Bool) : Statement (.sub a b d t q) := fun _ h =>
  Form.ab (r := vRow) (by decide) (by simp [vRow, Fields.a5, Fields.b5, Fields.d5, Fields.t4, Fields.q1_toNat]) h
theorem mul (a : BitVec 5) (b : BitVec 5) (d : BitVec 5) (t : BitVec 4) (q : Bool) : Statement (.mul a b d t q) := fun _ h =>
  Form.ab (r := vRow) (by decide) (by simp [vRow, Fields.a5, Fields.b5, Fields.d5, Fields.t4, Fields.q1_toNat]) h
theorem mulh (a : BitVec 5) (b : BitVec 5) (d : BitVec 5) (t : BitVec 4) (q : Bool) : Statement (.mulh a b d t q) := fun _ h =>
  Form.ab (r := vRow) (by decide) (by simp [vRow, Fields.a5, Fields.b5, Fields.d5, Fields.t4, Fields.q1_toNat]) h
theorem mad (a : BitVec 5) (b : BitVec 5) (d : BitVec 5) (t : BitVec 4) (q : Bool) : Statement (.mad a b d t q) := fun _ h =>
  Form.acc (r := vRow) (by decide) (by simp [vRow, Fields.a5, Fields.b5, Fields.d5, Fields.t4, Fields.q1_toNat]) h
theorem neg (a : BitVec 5) (d : BitVec 5) (t : BitVec 4) (q : Bool) : Statement (.neg a d t q) := fun _ h =>
  Form.a_ (r := vRow) (by decide) (by simp [vRow, Fields.a5, Fields.d5, Fields.t4, Fields.q1_toNat]) h
theorem abs (a : BitVec 5) (d : BitVec 5) (t : BitVec 4) (q : Bool) : Statement (.abs a d t q) := fun _ h =>
  Form.a_ (r := vRow) (by decide) (by simp [vRow, Fields.a5, Fields.d5, Fields.t4, Fields.q1_toNat]) h
theorem min (a : BitVec 5) (b : BitVec 5) (d : BitVec 5) (t : BitVec 4) (q : Bool) : Statement (.min a b d t q) := fun _ h =>
  Form.ab (r := vRow) (by decide) (by simp [vRow, Fields.a5, Fields.b5, Fields.d5, Fields.t4, Fields.q1_toNat]) h
theorem max (a : BitVec 5) (b : BitVec 5) (d : BitVec 5) (t : BitVec 4) (q : Bool) : Statement (.max a b d t q) := fun _ h =>
  Form.ab (r := vRow) (by decide) (by simp [vRow, Fields.a5, Fields.b5, Fields.d5, Fields.t4, Fields.q1_toNat]) h
theorem andV (a : BitVec 5) (b : BitVec 5) (d : BitVec 5) (t : BitVec 4) (q : Bool) : Statement (.andV a b d t q) := fun _ h =>
  Form.ab (r := vRow) (by decide) (by simp [vRow, Fields.a5, Fields.b5, Fields.d5, Fields.t4, Fields.q1_toNat]) h
theorem orV (a : BitVec 5) (b : BitVec 5) (d : BitVec 5) (t : BitVec 4) (q : Bool) : Statement (.orV a b d t q) := fun _ h =>
  Form.ab (r := vRow) (by decide) (by simp [vRow, Fields.a5, Fields.b5, Fields.d5, Fields.t4, Fields.q1_toNat]) h
theorem xorV (a : BitVec 5) (b : BitVec 5) (d : BitVec 5) (t : BitVec 4) (q : Bool) : Statement (.xorV a b d t q) := fun _ h =>
  Form.ab (r := vRow) (by decide) (by simp [vRow, Fields.a5, Fields.b5, Fields.d5, Fields.t4, Fields.q1_toNat]) h
theorem andn (a : BitVec 5) (b : BitVec 5) (d : BitVec 5) (t : BitVec 4) (q : Bool) : Statement (.andn a b d t q) := fun _ h =>
  Form.ab (r := vRow) (by decide) (by simp [vRow, Fields.a5, Fields.b5, Fields.d5, Fields.t4, Fields.q1_toNat]) h
theorem notV (a : BitVec 5) (d : BitVec 5) (t : BitVec 4) (q : Bool) : Statement (.notV a d t q) := fun _ h =>
  Form.a_ (r := vRow) (by decide) (by simp [vRow, Fields.a5, Fields.d5, Fields.t4, Fields.q1_toNat]) h
theorem shl (a : BitVec 5) (b : BitVec 5) (d : BitVec 5) (t : BitVec 4) (q : Bool) : Statement (.shl a b d t q) := fun _ h =>
  Form.ab (r := vRow) (by decide) (by simp [vRow, Fields.a5, Fields.b5, Fields.d5, Fields.t4, Fields.q1_toNat]) h
theorem shr (a : BitVec 5) (b : BitVec 5) (d : BitVec 5) (t : BitVec 4) (q : Bool) : Statement (.shr a b d t q) := fun _ h =>
  Form.ab (r := vRow) (by decide) (by simp [vRow, Fields.a5, Fields.b5, Fields.d5, Fields.t4, Fields.q1_toNat]) h
theorem sar (a : BitVec 5) (b : BitVec 5) (d : BitVec 5) (t : BitVec 4) (q : Bool) : Statement (.sar a b d t q) := fun _ h =>
  Form.ab (r := vRow) (by decide) (by simp [vRow, Fields.a5, Fields.b5, Fields.d5, Fields.t4, Fields.q1_toNat]) h
theorem popc (a : BitVec 5) (d : BitVec 5) (t : BitVec 4) (q : Bool) : Statement (.popc a d t q) := fun _ h =>
  Form.a_ (r := vRow) (by decide) (by simp [vRow, Fields.a5, Fields.d5, Fields.t4, Fields.q1_toNat]) h
theorem clz (a : BitVec 5) (d : BitVec 5) (t : BitVec 4) (q : Bool) : Statement (.clz a d t q) := fun _ h =>
  Form.a_ (r := vRow) (by decide) (by simp [vRow, Fields.a5, Fields.d5, Fields.t4, Fields.q1_toNat]) h
theorem cmpeq (a : BitVec 5) (b : BitVec 5) (d : BitVec 5) (t : BitVec 4) (q : Bool) : Statement (.cmpeq a b d t q) := fun _ h =>
  Form.ab (r := vRow) (by decide) (by simp [vRow, Fields.a5, Fields.b5, Fields.d5, Fields.t4, Fields.q1_toNat]) h
theorem cmpne (a : BitVec 5) (b : BitVec 5) (d : BitVec 5) (t : BitVec 4) (q : Bool) : Statement (.cmpne a b d t q) := fun _ h =>
  Form.ab (r := vRow) (by decide) (by simp [vRow, Fields.a5, Fields.b5, Fields.d5, Fields.t4, Fields.q1_toNat]) h
theorem cmplt (a : BitVec 5) (b : BitVec 5) (d : BitVec 5) (t : BitVec 4) (q : Bool) : Statement (.cmplt a b d t q) := fun _ h =>
  Form.ab (r := vRow) (by decide) (by simp [vRow, Fields.a5, Fields.b5, Fields.d5, Fields.t4, Fields.q1_toNat]) h
theorem cmple (a : BitVec 5) (b : BitVec 5) (d : BitVec 5) (t : BitVec 4) (q : Bool) : Statement (.cmple a b d t q) := fun _ h =>
  Form.ab (r := vRow) (by decide) (by simp [vRow, Fields.a5, Fields.b5, Fields.d5, Fields.t4, Fields.q1_toNat]) h
theorem cmpltu (a : BitVec 5) (b : BitVec 5) (d : BitVec 5) (t : BitVec 4) (q : Bool) : Statement (.cmpltu a b d t q) := fun _ h =>
  Form.ab (r := vRow) (by decide) (by simp [vRow, Fields.a5, Fields.b5, Fields.d5, Fields.t4, Fields.q1_toNat]) h
theorem anynz (a : BitVec 5) (d : BitVec 5) (t : BitVec 4) (q : Bool) : Statement (.anynz a d t q) := fun _ h =>
  Form.a_ (r := vRow) (by decide) (by simp [vRow, Fields.a5, Fields.d5, Fields.t4, Fields.q1_toNat]) h
theorem allnz (a : BitVec 5) (d : BitVec 5) (t : BitVec 4) (q : Bool) : Statement (.allnz a d t q) := fun _ h =>
  Form.a_ (r := vRow) (by decide) (by simp [vRow, Fields.a5, Fields.d5, Fields.t4, Fields.q1_toNat]) h
theorem fadd (a : BitVec 5) (b : BitVec 5) (d : BitVec 5) (t : BitVec 4) (q : Bool) : Statement (.fadd a b d t q) := fun _ h =>
  Form.ab (r := vRow) (by decide) (by simp [vRow, Fields.a5, Fields.b5, Fields.d5, Fields.t4, Fields.q1_toNat]) h
theorem fsub (a : BitVec 5) (b : BitVec 5) (d : BitVec 5) (t : BitVec 4) (q : Bool) : Statement (.fsub a b d t q) := fun _ h =>
  Form.ab (r := vRow) (by decide) (by simp [vRow, Fields.a5, Fields.b5, Fields.d5, Fields.t4, Fields.q1_toNat]) h
theorem fmul (a : BitVec 5) (b : BitVec 5) (d : BitVec 5) (t : BitVec 4) (q : Bool) : Statement (.fmul a b d t q) := fun _ h =>
  Form.ab (r := vRow) (by decide) (by simp [vRow, Fields.a5, Fields.b5, Fields.d5, Fields.t4, Fields.q1_toNat]) h
theorem fma (a : BitVec 5) (b : BitVec 5) (d : BitVec 5) (t : BitVec 4) (q : Bool) : Statement (.fma a b d t q) := fun _ h =>
  Form.acc (r := vRow) (by decide) (by simp [vRow, Fields.a5, Fields.b5, Fields.d5, Fields.t4, Fields.q1_toNat]) h
theorem fnma (a : BitVec 5) (b : BitVec 5) (d : BitVec 5) (t : BitVec 4) (q : Bool) : Statement (.fnma a b d t q) := fun _ h =>
  Form.acc (r := vRow) (by decide) (by simp [vRow, Fields.a5, Fields.b5, Fields.d5, Fields.t4, Fields.q1_toNat]) h
theorem fmin (a : BitVec 5) (b : BitVec 5) (d : BitVec 5) (t : BitVec 4) (q : Bool) : Statement (.fmin a b d t q) := fun _ h =>
  Form.ab (r := vRow) (by decide) (by simp [vRow, Fields.a5, Fields.b5, Fields.d5, Fields.t4, Fields.q1_toNat]) h
theorem fmax (a : BitVec 5) (b : BitVec 5) (d : BitVec 5) (t : BitVec 4) (q : Bool) : Statement (.fmax a b d t q) := fun _ h =>
  Form.ab (r := vRow) (by decide) (by simp [vRow, Fields.a5, Fields.b5, Fields.d5, Fields.t4, Fields.q1_toNat]) h
theorem fabs (a : BitVec 5) (d : BitVec 5) (t : BitVec 4) (q : Bool) : Statement (.fabs a d t q) := fun _ h =>
  Form.a_ (r := vRow) (by decide) (by simp [vRow, Fields.a5, Fields.d5, Fields.t4, Fields.q1_toNat]) h
theorem fneg (a : BitVec 5) (d : BitVec 5) (t : BitVec 4) (q : Bool) : Statement (.fneg a d t q) := fun _ h =>
  Form.a_ (r := vRow) (by decide) (by simp [vRow, Fields.a5, Fields.d5, Fields.t4, Fields.q1_toNat]) h
theorem rcp (a : BitVec 5) (d : BitVec 5) (t : BitVec 4) (q : Bool) : Statement (.rcp a d t q) := fun _ h =>
  Form.a_ (r := vRow) (by decide) (by simp [vRow, Fields.a5, Fields.d5, Fields.t4, Fields.q1_toNat]) h
theorem rsq (a : BitVec 5) (d : BitVec 5) (t : BitVec 4) (q : Bool) : Statement (.rsq a d t q) := fun _ h =>
  Form.a_ (r := vRow) (by decide) (by simp [vRow, Fields.a5, Fields.d5, Fields.t4, Fields.q1_toNat]) h
theorem sqrt (a : BitVec 5) (d : BitVec 5) (t : BitVec 4) (q : Bool) : Statement (.sqrt a d t q) := fun _ h =>
  Form.a_ (r := vRow) (by decide) (by simp [vRow, Fields.a5, Fields.d5, Fields.t4, Fields.q1_toNat]) h
theorem exp2 (a : BitVec 5) (d : BitVec 5) (t : BitVec 4) (q : Bool) : Statement (.exp2 a d t q) := fun _ h =>
  Form.a_ (r := vRow) (by decide) (by simp [vRow, Fields.a5, Fields.d5, Fields.t4, Fields.q1_toNat]) h
theorem log2 (a : BitVec 5) (d : BitVec 5) (t : BitVec 4) (q : Bool) : Statement (.log2 a d t q) := fun _ h =>
  Form.a_ (r := vRow) (by decide) (by simp [vRow, Fields.a5, Fields.d5, Fields.t4, Fields.q1_toNat]) h
theorem tanh (a : BitVec 5) (d : BitVec 5) (t : BitVec 4) (q : Bool) : Statement (.tanh a d t q) := fun _ h =>
  Form.a_ (r := vRow) (by decide) (by simp [vRow, Fields.a5, Fields.d5, Fields.t4, Fields.q1_toNat]) h
theorem sigm (a : BitVec 5) (d : BitVec 5) (t : BitVec 4) (q : Bool) : Statement (.sigm a d t q) := fun _ h =>
  Form.a_ (r := vRow) (by decide) (by simp [vRow, Fields.a5, Fields.d5, Fields.t4, Fields.q1_toNat]) h
theorem rsum (a : BitVec 5) (d : BitVec 5) (t : BitVec 4) (q : Bool) : Statement (.rsum a d t q) := fun _ h =>
  Form.a_ (r := vRow) (by decide) (by simp [vRow, Fields.a5, Fields.d5, Fields.t4, Fields.q1_toNat]) h
theorem rmax (a : BitVec 5) (d : BitVec 5) (t : BitVec 4) (q : Bool) : Statement (.rmax a d t q) := fun _ h =>
  Form.a_ (r := vRow) (by decide) (by simp [vRow, Fields.a5, Fields.d5, Fields.t4, Fields.q1_toNat]) h
theorem rmin (a : BitVec 5) (d : BitVec 5) (t : BitVec 4) (q : Bool) : Statement (.rmin a d t q) := fun _ h =>
  Form.a_ (r := vRow) (by decide) (by simp [vRow, Fields.a5, Fields.d5, Fields.t4, Fields.q1_toNat]) h
theorem ramax (a : BitVec 5) (d : BitVec 5) (t : BitVec 4) (q : Bool) : Statement (.ramax a d t q) := fun _ h =>
  Form.a_ (r := vRow) (by decide) (by simp [vRow, Fields.a5, Fields.d5, Fields.t4, Fields.q1_toNat]) h
theorem shuf (a : BitVec 5) (b : BitVec 5) (d : BitVec 5) (t : BitVec 4) (q : Bool) : Statement (.shuf a b d t q) := fun _ h =>
  Form.ab (r := vRow) (by decide) (by simp [vRow, Fields.a5, Fields.b5, Fields.d5, Fields.t4, Fields.q1_toNat]) h
theorem rot (a : BitVec 5) (b : BitVec 5) (d : BitVec 5) (t : BitVec 4) (q : Bool) : Statement (.rot a b d t q) := fun _ h =>
  Form.ab (r := vRow) (by decide) (by simp [vRow, Fields.a5, Fields.b5, Fields.d5, Fields.t4, Fields.q1_toNat]) h
theorem extr (a : BitVec 5) (b : BitVec 5) (d : BitVec 5) (t : BitVec 4) (q : Bool) : Statement (.extr a b d t q) := fun _ h =>
  Form.ab (r := vRow) (by decide) (by simp [vRow, Fields.a5, Fields.b5, Fields.d5, Fields.t4, Fields.q1_toNat]) h
theorem ins (a : BitVec 5) (b : BitVec 5) (d : BitVec 5) (t : BitVec 4) (q : Bool) : Statement (.ins a b d t q) := fun _ h =>
  Form.acc (r := vRow) (by decide) (by simp [vRow, Fields.a5, Fields.b5, Fields.d5, Fields.t4, Fields.q1_toNat]) h
theorem cvt (a : BitVec 5) (d : BitVec 5) (t : BitVec 4) (q : Bool) : Statement (.cvt a d t q) := fun _ h =>
  Form.a_ (r := vRow) (by decide) (by simp [vRow, Fields.a5, Fields.d5, Fields.t4, Fields.q1_toNat]) h
theorem qnt (a : BitVec 5) (d : BitVec 5) (t : BitVec 4) (q : Bool) : Statement (.qnt a d t q) := fun _ h =>
  Form.a_ (r := vRow) (by decide) (by simp [vRow, Fields.a5, Fields.d5, Fields.t4, Fields.q1_toNat]) h
theorem dqnt (a : BitVec 5) (d : BitVec 5) (t : BitVec 4) (q : Bool) : Statement (.dqnt a d t q) := fun _ h =>
  Form.a_ (r := vRow) (by decide) (by simp [vRow, Fields.a5, Fields.d5, Fields.t4, Fields.q1_toNat]) h
theorem sbind (a : BitVec 5) (b : BitVec 5) (d : BitVec 5) (t : BitVec 4) (q : Bool) : Statement (.sbind a b d t q) := fun _ h =>
  Form.ab (r := vRow) (by decide) (by simp [vRow, Fields.a5, Fields.b5, Fields.d5, Fields.t4, Fields.q1_toNat]) h
theorem srel (a : BitVec 5) (t : BitVec 4) (q : Bool) : Statement (.srel a t q) := fun _ h =>
  Form.src (r := vRow) (by decide) (by simp [vRow, Fields.a5, Fields.t4, Fields.q1_toNat]) h
theorem spow2 (a : BitVec 5) (b : BitVec 5) (d : BitVec 5) (t : BitVec 4) (q : Bool) : Statement (.spow2 a b d t q) := fun _ h =>
  Form.ab (r := vRow) (by decide) (by simp [vRow, Fields.a5, Fields.b5, Fields.d5, Fields.t4, Fields.q1_toNat]) h
theorem sadde (a : BitVec 5) (b : BitVec 5) (d : BitVec 5) (t : BitVec 4) (q : Bool) : Statement (.sadde a b d t q) := fun _ h =>
  Form.ab (r := vRow) (by decide) (by simp [vRow, Fields.a5, Fields.b5, Fields.d5, Fields.t4, Fields.q1_toNat]) h
theorem smax (a : BitVec 5) (b : BitVec 5) (d : BitVec 5) (t : BitVec 4) (q : Bool) : Statement (.smax a b d t q) := fun _ h =>
  Form.ab (r := vRow) (by decide) (by simp [vRow, Fields.a5, Fields.b5, Fields.d5, Fields.t4, Fields.q1_toNat]) h
theorem sprod (a : BitVec 5) (b : BitVec 5) (d : BitVec 5) (t : BitVec 4) (q : Bool) : Statement (.sprod a b d t q) := fun _ h =>
  Form.ab (r := vRow) (by decide) (by simp [vRow, Fields.a5, Fields.b5, Fields.d5, Fields.t4, Fields.q1_toNat]) h
theorem srenorm (a : BitVec 5) (b : BitVec 5) (d : BitVec 5) (t : BitVec 4) (q : Bool) : Statement (.srenorm a b d t q) := fun _ h =>
  Form.ab (r := vRow) (by decide) (by simp [vRow, Fields.a5, Fields.b5, Fields.d5, Fields.t4, Fields.q1_toNat]) h
theorem sldcb (a : BitVec 5) (b : BitVec 5) (t : BitVec 4) (q : Bool) : Statement (.sldcb a b t q) := fun _ h =>
  Form.srcs (r := vRow) (by decide) (by simp [vRow, Fields.a5, Fields.b5, Fields.t4, Fields.q1_toNat]) h
theorem amaxrd (d : BitVec 5) (t : BitVec 4) : Statement (.amaxrd d t) := fun _ h =>
  Form.dst (r := vRow) (by decide) (by simp [vRow, Fields.d5, Fields.t4]) h
theorem amaxclr (t : BitVec 4) : Statement (.amaxclr t) := fun _ h =>
  Form.bare (r := vRow) (by decide) (by simp [vRow, Fields.t4]) h
theorem exit (a : BitVec 5) (d : BitVec 5) (t : BitVec 4) (q : Bool) : Statement (.exit a d t q) := fun _ h =>
  Form.a_ (r := vRow) (by decide) (by simp [vRow, Fields.a5, Fields.d5, Fields.t4, Fields.q1_toNat]) h
theorem drop (a : BitVec 5) (b : BitVec 5) (t : BitVec 4) (q : Bool) : Statement (.drop a b t q) := fun _ h =>
  Form.srcs (r := vRow) (by decide) (by simp [vRow, Fields.a5, Fields.b5, Fields.t4, Fields.q1_toNat]) h
theorem trap (a : BitVec 5) (t : BitVec 4) (q : Bool) : Statement (.trap a t q) := fun _ h =>
  Form.src (r := vRow) (by decide) (by simp [vRow, Fields.a5, Fields.t4, Fields.q1_toNat]) h
theorem seed (a : BitVec 5) (t : BitVec 4) (q : Bool) : Statement (.seed a t q) := fun _ h =>
  Form.src (r := vRow) (by decide) (by simp [vRow, Fields.a5, Fields.t4, Fields.q1_toNat]) h
theorem rand (d : BitVec 5) (t : BitVec 4) : Statement (.rand d t) := fun _ h =>
  Form.dst (r := vRow) (by decide) (by simp [vRow, Fields.d5, Fields.t4]) h
theorem ld (a : BitVec 5) (d : BitVec 5) (m : BitVec 2) (t : BitVec 4) (q : Bool) : Statement (.ld a d m t q) := fun _ h =>
  Form.desc (r := jRow) (by decide) (by simp [jRow, Fields.a5, Fields.d5, Fields.m2, Fields.t4, Fields.q1_toNat]) h
theorem st (a : BitVec 5) (b : BitVec 5) (d : BitVec 5) (m : BitVec 2) (t : BitVec 4) (q : Bool) : Statement (.st a b d m t q) := fun _ h =>
  Form.abDesc (r := jRow) (by decide) (by simp [jRow, Fields.a5, Fields.b5, Fields.d5, Fields.m2, Fields.t4, Fields.q1_toNat]) h
theorem ldv (a : BitVec 5) (b : BitVec 5) (d : BitVec 5) (m : BitVec 2) (t : BitVec 4) (q : Bool) : Statement (.ldv a b d m t q) := fun _ h =>
  Form.abDesc (r := jRow) (by decide) (by simp [jRow, Fields.a5, Fields.b5, Fields.d5, Fields.m2, Fields.t4, Fields.q1_toNat]) h
theorem stv (a : BitVec 5) (b : BitVec 5) (d : BitVec 5) (m : BitVec 2) (t : BitVec 4) (q : Bool) : Statement (.stv a b d m t q) := fun _ h =>
  Form.abDesc (r := jRow) (by decide) (by simp [jRow, Fields.a5, Fields.b5, Fields.d5, Fields.m2, Fields.t4, Fields.q1_toNat]) h
theorem recl (a : BitVec 5) (b : BitVec 5) (d : BitVec 5) (m : BitVec 2) (t : BitVec 4) (q : Bool) : Statement (.recl a b d m t q) := fun _ h =>
  Form.abDesc (r := jRow) (by decide) (by simp [jRow, Fields.a5, Fields.b5, Fields.d5, Fields.m2, Fields.t4, Fields.q1_toNat]) h
theorem gath (a : BitVec 5) (d : BitVec 5) (m : BitVec 2) (t : BitVec 4) (q : Bool) : Statement (.gath a d m t q) := fun _ h =>
  Form.desc (r := jRow) (by decide) (by simp [jRow, Fields.a5, Fields.d5, Fields.m2, Fields.t4, Fields.q1_toNat]) h
theorem scat (a : BitVec 5) (b : BitVec 5) (d : BitVec 5) (m : BitVec 2) (t : BitVec 4) (q : Bool) : Statement (.scat a b d m t q) := fun _ h =>
  Form.abDesc (r := jRow) (by decide) (by simp [jRow, Fields.a5, Fields.b5, Fields.d5, Fields.m2, Fields.t4, Fields.q1_toNat]) h
theorem pref (a : BitVec 5) (m : BitVec 2) (t : BitVec 4) (q : Bool) : Statement (.pref a m t q) := fun _ h =>
  Form.srcDesc (r := jRow) (by decide) (by simp [jRow, Fields.a5, Fields.m2, Fields.t4, Fields.q1_toNat]) h
theorem fence (d : BitVec 5) (m : BitVec 2) (t : BitVec 4) : Statement (.fence d m t) := fun _ h =>
  Form.dstDesc (r := jRow) (by decide) (by simp [jRow, Fields.d5, Fields.m2, Fields.t4]) h
theorem fencex (d : BitVec 5) (m : BitVec 2) (t : BitVec 4) : Statement (.fencex d m t) := fun _ h =>
  Form.dstDesc (r := jRow) (by decide) (by simp [jRow, Fields.d5, Fields.m2, Fields.t4]) h
theorem waita (a : BitVec 5) (b : BitVec 5) (d : BitVec 3) (m : BitVec 2) (t : BitVec 4) (q : Bool) : Statement (.waita a b d m t q) := fun _ h =>
  Form.outDesc (r := jRow) (by decide) (by simp [jRow, Fields.a5, Fields.b5, Fields.d3, Fields.m2, Fields.t4, Fields.q1_toNat]) h
theorem waitc (a : BitVec 5) (d : BitVec 5) (m : BitVec 2) (t : BitVec 4) (q : Bool) : Statement (.waitc a d m t q) := fun _ h =>
  Form.desc (r := jRow) (by decide) (by simp [jRow, Fields.a5, Fields.d5, Fields.m2, Fields.t4, Fields.q1_toNat]) h
theorem launch (a : BitVec 5) (d : BitVec 5) (m : BitVec 2) (t : BitVec 4) (q : Bool) : Statement (.launch a d m t q) := fun _ h =>
  Form.msg (r := jRow) (by decide) (by simp [jRow, Fields.a5, Fields.d5, Fields.m2, Fields.t4, Fields.q1_toNat]) h
theorem signal (a : BitVec 5) (b : BitVec 5) (d : BitVec 5) (m : BitVec 2) (t : BitVec 4) (q : Bool) : Statement (.signal a b d m t q) := fun _ h =>
  Form.abDesc (r := jRow) (by decide) (by simp [jRow, Fields.a5, Fields.b5, Fields.d5, Fields.m2, Fields.t4, Fields.q1_toNat]) h
theorem tkt (a : BitVec 3) (d : BitVec 5) (t : BitVec 4) (q : Bool) : Statement (.tkt a d t q) := fun _ h =>
  Form.head (r := jRow) (by decide) (by simp [jRow, Fields.a3, Fields.d5, Fields.t4, Fields.q1_toNat]) h
theorem grant (a : BitVec 5) (d : BitVec 5) (t : BitVec 4) (q : Bool) : Statement (.grant a d t q) := fun _ h =>
  Form.a_ (r := jRow) (by decide) (by simp [jRow, Fields.a5, Fields.d5, Fields.t4, Fields.q1_toNat]) h
theorem reply (a : BitVec 5) (d : BitVec 3) (t : BitVec 4) (q : Bool) : Statement (.reply a d t q) := fun _ h =>
  Form.out (r := jRow) (by decide) (by simp [jRow, Fields.a5, Fields.d3, Fields.t4, Fields.q1_toNat]) h
theorem send (a : BitVec 5) (d : BitVec 5) (m : BitVec 2) (t : BitVec 4) (q : Bool) : Statement (.send a d m t q) := fun _ h =>
  Form.msg (r := jRow) (by decide) (by simp [jRow, Fields.a5, Fields.d5, Fields.m2, Fields.t4, Fields.q1_toNat]) h
theorem sendn (a : BitVec 5) (m : BitVec 2) (t : BitVec 4) (q : Bool) : Statement (.sendn a m t q) := fun _ h =>
  Form.srcMsg (r := jRow) (by decide) (by simp [jRow, Fields.a5, Fields.m2, Fields.t4, Fields.q1_toNat]) h
theorem jMov (a : BitVec 5) (d : BitVec 5) (t : BitVec 4) (q : Bool) : Statement (.jMov a d t q) := fun _ h =>
  Form.a_ (r := jRow) (by decide) (by simp [jRow, Fields.a5, Fields.d5, Fields.t4, Fields.q1_toNat]) h
theorem jMov2 (a : BitVec 5) (d : BitVec 5) (e : BitVec 5) (t : BitVec 4) (q : Bool) : Statement (.jMov2 a d e t q) := fun _ h =>
  Form.two (r := jRow) (by decide) (by simp [jRow, Fields.a5, Fields.d5, Fields.e5, Fields.t4, Fields.q1_toNat]) h
theorem jAdd (a : BitVec 5) (b : BitVec 5) (d : BitVec 5) (t : BitVec 4) (q : Bool) : Statement (.jAdd a b d t q) := fun _ h =>
  Form.ab (r := jRow) (by decide) (by simp [jRow, Fields.a5, Fields.b5, Fields.d5, Fields.t4, Fields.q1_toNat]) h
theorem jSub (a : BitVec 5) (b : BitVec 5) (d : BitVec 5) (t : BitVec 4) (q : Bool) : Statement (.jSub a b d t q) := fun _ h =>
  Form.ab (r := jRow) (by decide) (by simp [jRow, Fields.a5, Fields.b5, Fields.d5, Fields.t4, Fields.q1_toNat]) h
theorem jAnd (a : BitVec 5) (b : BitVec 5) (d : BitVec 5) (t : BitVec 4) (q : Bool) : Statement (.jAnd a b d t q) := fun _ h =>
  Form.ab (r := jRow) (by decide) (by simp [jRow, Fields.a5, Fields.b5, Fields.d5, Fields.t4, Fields.q1_toNat]) h
theorem jShl (a : BitVec 5) (b : BitVec 5) (d : BitVec 5) (t : BitVec 4) (q : Bool) : Statement (.jShl a b d t q) := fun _ h =>
  Form.ab (r := jRow) (by decide) (by simp [jRow, Fields.a5, Fields.b5, Fields.d5, Fields.t4, Fields.q1_toNat]) h
theorem jCmpeq (a : BitVec 5) (b : BitVec 5) (d : BitVec 5) (t : BitVec 4) (q : Bool) : Statement (.jCmpeq a b d t q) := fun _ h =>
  Form.ab (r := jRow) (by decide) (by simp [jRow, Fields.a5, Fields.b5, Fields.d5, Fields.t4, Fields.q1_toNat]) h
theorem jCmplt (a : BitVec 5) (b : BitVec 5) (d : BitVec 5) (t : BitVec 4) (q : Bool) : Statement (.jCmplt a b d t q) := fun _ h =>
  Form.ab (r := jRow) (by decide) (by simp [jRow, Fields.a5, Fields.b5, Fields.d5, Fields.t4, Fields.q1_toNat]) h
theorem jExit (a : BitVec 5) (d : BitVec 5) (t : BitVec 4) (q : Bool) : Statement (.jExit a d t q) := fun _ h =>
  Form.a_ (r := jRow) (by decide) (by simp [jRow, Fields.a5, Fields.d5, Fields.t4, Fields.q1_toNat]) h
theorem jDrop (a : BitVec 5) (b : BitVec 5) (t : BitVec 4) (q : Bool) : Statement (.jDrop a b t q) := fun _ h =>
  Form.srcs (r := jRow) (by decide) (by simp [jRow, Fields.a5, Fields.b5, Fields.t4, Fields.q1_toNat]) h
theorem jTrap (a : BitVec 5) (t : BitVec 4) (q : Bool) : Statement (.jTrap a t q) := fun _ h =>
  Form.src (r := jRow) (by decide) (by simp [jRow, Fields.a5, Fields.t4, Fields.q1_toNat]) h
theorem fwait (rd : BitVec 5) : Statement (.fwait rd) := fun _ _ => by
  obtain ⟨e1, e2, e3, e4, e5, e6⟩ := mkFe_fields (rs2 := 0) (rs1 := 0) (f3 := 0) (rd := rd.toNat) (by omega) (by omega) (by omega) (by omega)
  simp [decode, encode, Instr.page, decodeFe, feFieldsOk, feRow, e1, e2, e3, e4, e5, e6]
theorem flatch (rd : BitVec 5) (rs1 : BitVec 5) : Statement (.flatch rd rs1) := fun _ _ => by
  obtain ⟨e1, e2, e3, e4, e5, e6⟩ := mkFe_fields (rs2 := 0) (rs1 := rs1.toNat) (f3 := 1) (rd := rd.toNat) (by omega) (by omega) (by omega) (by omega)
  simp [decode, encode, Instr.page, decodeFe, feFieldsOk, feRow, e1, e2, e3, e4, e5, e6]
theorem fpost (rs1 : BitVec 5) (rs2 : BitVec 5) : Statement (.fpost rs1 rs2) := fun _ _ => by
  obtain ⟨e1, e2, e3, e4, e5, e6⟩ := mkFe_fields (rs2 := rs2.toNat) (rs1 := rs1.toNat) (f3 := 2) (rd := 0) (by omega) (by omega) (by omega) (by omega)
  simp [decode, encode, Instr.page, decodeFe, feFieldsOk, feRow, e1, e2, e3, e4, e5, e6]
theorem fqmap (rs1 : BitVec 5) (rs2 : BitVec 5) : Statement (.fqmap rs1 rs2) := fun _ _ => by
  obtain ⟨e1, e2, e3, e4, e5, e6⟩ := mkFe_fields (rs2 := rs2.toNat) (rs1 := rs1.toNat) (f3 := 3) (rd := 0) (by omega) (by omega) (by omega) (by omega)
  simp [decode, encode, Instr.page, decodeFe, feFieldsOk, feRow, e1, e2, e3, e4, e5, e6]
theorem fqdemap (rd : BitVec 5) (rs1 : BitVec 5) : Statement (.fqdemap rd rs1) := fun _ _ => by
  obtain ⟨e1, e2, e3, e4, e5, e6⟩ := mkFe_fields (rs2 := 0) (rs1 := rs1.toNat) (f3 := 4) (rd := rd.toNat) (by omega) (by omega) (by omega) (by omega)
  simp [decode, encode, Instr.page, decodeFe, feFieldsOk, feRow, e1, e2, e3, e4, e5, e6]
theorem fseqchk (rd : BitVec 5) (rs1 : BitVec 5) (rs2 : BitVec 5) : Statement (.fseqchk rd rs1 rs2) := fun _ _ => by
  obtain ⟨e1, e2, e3, e4, e5, e6⟩ := mkFe_fields (rs2 := rs2.toNat) (rs1 := rs1.toNat) (f3 := 5) (rd := rd.toNat) (by omega) (by omega) (by omega) (by omega)
  simp [decode, encode, Instr.page, decodeFe, feFieldsOk, feRow, e1, e2, e3, e4, e5, e6]
theorem flaunch (rd : BitVec 5) (rs1 : BitVec 5) : Statement (.flaunch rd rs1) := fun _ _ => by
  obtain ⟨e1, e2, e3, e4, e5, e6⟩ := mkFe_fields (rs2 := 0) (rs1 := rs1.toNat) (f3 := 6) (rd := rd.toNat) (by omega) (by omega) (by omega) (by omega)
  simp [decode, encode, Instr.page, decodeFe, feFieldsOk, feRow, e1, e2, e3, e4, e5, e6]
theorem fvigil (rd : BitVec 5) (rs1 : BitVec 5) : Statement (.fvigil rd rs1) := fun _ _ => by
  obtain ⟨e1, e2, e3, e4, e5, e6⟩ := mkFe_fields (rs2 := 0) (rs1 := rs1.toNat) (f3 := 7) (rd := rd.toNat) (by omega) (by omega) (by omega) (by omega)
  simp [decode, encode, Instr.page, decodeFe, feFieldsOk, feRow, e1, e2, e3, e4, e5, e6]
theorem feKick (q : BitVec 20) (single : Bool) (w : Dword) : Statement (.feKick q single w) := fun h _ => absurd rfl h
theorem feCack (q : BitVec 20) (single : Bool) (w : Dword) : Statement (.feCack q single w) := fun h _ => absurd rfl h
theorem pktNop (h : PktHead) : Statement (.pktNop h) := by
  intro _ k
  exact decodePacket_mk (ty := 0) (by decide) k rfl (fun w0 z => by simp [packetReserved, z]) k
theorem pktLaunch (h : PktHead) (b : LaunchBody) : Statement (.pktLaunch h b) := by
  intro _ k
  have hw : h.wf = true := by simp only [Instr.wf, Bool.and_eq_true] at k; exact k.1
  refine decodePacket_mk (ty := 1) (by decide) hw ?_ ?_ k
  · simp only [packetRow, launch_body]
  · exact fun w0 z => launch_reserved z
theorem pktWait (h : PktHead) (addr value : Dword) (op : BitVec 3) : Statement (.pktWait h addr value op) := by
  intro _ k
  have hw : h.wf = true := by simp only [Instr.wf, Bool.and_eq_true] at k; exact k.1.1
  refine decodePacket_mk (ty := 2) (by decide) hw ?_ ?_ k
  · simp only [packetRow, Option.some.injEq, Instr.pktWait.injEq, true_and, ofNat_self]
    apply BitVec.eq_of_toNat_eq
    simp only [fld, BitVec.toNat_ofNat]
    omega
  · intro w0 z
    simp only [fld] at z
    simp [packetReserved, fld]; omega
theorem pktSignal (h : PktHead) (addr value : Dword) (op : BitVec 3) : Statement (.pktSignal h addr value op) := by
  intro _ k
  have hw : h.wf = true := by simp only [Instr.wf, Bool.and_eq_true] at k; exact k.1.1
  refine decodePacket_mk (ty := 3) (by decide) hw ?_ ?_ k
  · simp only [packetRow, Option.some.injEq, Instr.pktSignal.injEq, true_and, ofNat_self]
    apply BitVec.eq_of_toNat_eq
    simp only [fld, BitVec.toNat_ofNat]
    omega
  · intro w0 z
    simp only [fld] at z
    simp [packetReserved, fld]; omega
theorem pktCancel (h : PktHead) (level : BitVec 3) (lseq : BitVec 16) (id : Word) : Statement (.pktCancel h level lseq id) := by
  intro _ k
  have hw : h.wf = true := by simp only [Instr.wf, Bool.and_eq_true] at k; exact k.1
  refine decodePacket_mk (ty := 4) (by decide) hw ?_ ?_ k
  · simp only [packetRow, Option.some.injEq, Instr.pktCancel.injEq, true_and]
    refine ⟨?_, ?_, ?_⟩ <;> (apply BitVec.eq_of_toNat_eq; simp only [fld, BitVec.toNat_ofNat]; omega)
  · intro w0 z
    simp only [fld] at z
    simp [packetReserved, fld]; omega
theorem pktCount (h : PktHead) (level : BitVec 3) (lseq : BitVec 16) (id : Word) : Statement (.pktCount h level lseq id) := by
  intro _ k
  have hw : h.wf = true := by simp only [Instr.wf, Bool.and_eq_true] at k; exact k.1
  refine decodePacket_mk (ty := 5) (by decide) hw ?_ ?_ k
  · simp only [packetRow, Option.some.injEq, Instr.pktCount.injEq, true_and]
    refine ⟨?_, ?_, ?_⟩ <;> (apply BitVec.eq_of_toNat_eq; simp only [fld, BitVec.toNat_ofNat]; omega)
  · intro w0 z
    simp only [fld] at z
    simp [packetReserved, fld]; omega
theorem phase (h : PktHead) (tinst : BitVec 8) (p : Params) : Statement (.phase h tinst p) := by
  intro _ k
  have hw : h.wf = true := by simp only [Instr.wf, Bool.and_eq_true] at k; exact k.1
  exact decodePacket_mk (ty := 6) (by decide) hw (by
    simp only [packetRow, relayRow, relay_ti, relay_params]) (fun w0 z => by
    simp only [fld] at z
    simp [packetReserved, fld]; omega) k
theorem evict (h : PktHead) (tinst : BitVec 8) (p : Params) : Statement (.evict h tinst p) := by
  intro _ k
  have hw : h.wf = true := by simp only [Instr.wf, Bool.and_eq_true] at k; exact k.1
  exact decodePacket_mk (ty := 7) (by decide) hw (by
    simp only [packetRow, relayRow, relay_ti, relay_params]) (fun w0 z => by
    simp only [fld] at z
    simp [packetReserved, fld]; omega) k
theorem restore (h : PktHead) (tinst : BitVec 8) (p : Params) : Statement (.restore h tinst p) := by
  intro _ k
  have hw : h.wf = true := by simp only [Instr.wf, Bool.and_eq_true] at k; exact k.1
  exact decodePacket_mk (ty := 8) (by decide) hw (by
    simp only [packetRow, relayRow, relay_ti, relay_params]) (fun w0 z => by
    simp only [fld] at z
    simp [packetReserved, fld]; omega) k
theorem compact (h : PktHead) (tinst : BitVec 8) (p : Params) : Statement (.compact h tinst p) := by
  intro _ k
  have hw : h.wf = true := by simp only [Instr.wf, Bool.and_eq_true] at k; exact k.1
  exact decodePacket_mk (ty := 9) (by decide) hw (by
    simp only [packetRow, relayRow, relay_ti, relay_params]) (fun w0 z => by
    simp only [fld] at z
    simp [packetReserved, fld]; omega) k
theorem almanac (h : PktHead) (tinst : BitVec 8) (p : Params) : Statement (.almanac h tinst p) := by
  intro _ k
  have hw : h.wf = true := by simp only [Instr.wf, Bool.and_eq_true] at k; exact k.1
  exact decodePacket_mk (ty := 10) (by decide) hw (by
    simp only [packetRow, relayRow, relay_ti, relay_params]) (fun w0 z => by
    simp only [fld] at z
    simp [packetReserved, fld]; omega) k
theorem almread (h : PktHead) (tinst : BitVec 8) (p : Params) : Statement (.almread h tinst p) := by
  intro _ k
  have hw : h.wf = true := by simp only [Instr.wf, Bool.and_eq_true] at k; exact k.1
  exact decodePacket_mk (ty := 11) (by decide) hw (by
    simp only [packetRow, relayRow, relay_ti, relay_params]) (fun w0 z => by
    simp only [fld] at z
    simp [packetReserved, fld]; omega) k
theorem wswrite (h : PktHead) (tinst : BitVec 8) (p : Params) : Statement (.wswrite h tinst p) := by
  intro _ k
  have hw : h.wf = true := by simp only [Instr.wf, Bool.and_eq_true] at k; exact k.1
  exact decodePacket_mk (ty := 12) (by decide) hw (by
    simp only [packetRow, relayRow, relay_ti, relay_params]) (fun w0 z => by
    simp only [fld] at z
    simp [packetReserved, fld]; omega) k
theorem reswrite (h : PktHead) (tinst : BitVec 8) (p : Params) : Statement (.reswrite h tinst p) := by
  intro _ k
  have hw : h.wf = true := by simp only [Instr.wf, Bool.and_eq_true] at k; exact k.1
  exact decodePacket_mk (ty := 13) (by decide) hw (by
    simp only [packetRow, relayRow, relay_ti, relay_params]) (fun w0 z => by
    simp only [fld] at z
    simp [packetReserved, fld]; omega) k
theorem prefetch (h : PktHead) (tinst : BitVec 8) (p : Params) : Statement (.prefetch h tinst p) := by
  intro _ k
  have hw : h.wf = true := by simp only [Instr.wf, Bool.and_eq_true] at k; exact k.1
  exact decodePacket_mk (ty := 14) (by decide) hw (by
    simp only [packetRow, relayRow, relay_ti, relay_params]) (fun w0 z => by
    simp only [fld] at z
    simp [packetReserved, fld]; omega) k
theorem eqwait (h : PktHead) (tinst : BitVec 8) (p : Params) : Statement (.eqwait h tinst p) := by
  intro _ k
  have hw : h.wf = true := by simp only [Instr.wf, Bool.and_eq_true] at k; exact k.1
  exact decodePacket_mk (ty := 15) (by decide) hw (by
    simp only [packetRow, relayRow, relay_ti, relay_params]) (fun w0 z => by
    simp only [fld] at z
    simp [packetReserved, fld]; omega) k
theorem status (h : PktHead) (tinst : BitVec 8) (p : Params) : Statement (.status h tinst p) := by
  intro _ k
  have hw : h.wf = true := by simp only [Instr.wf, Bool.and_eq_true] at k; exact k.1
  exact decodePacket_mk (ty := 16) (by decide) hw (by
    simp only [packetRow, relayRow, relay_ti, relay_params]) (fun w0 z => by
    simp only [fld] at z
    simp [packetReserved, fld]; omega) k
theorem ctxnew (h : PktHead) (pasid : BitVec 20) (rtcnt : BitVec 16) (rtbase sabase sasize : Dword) : Statement (.ctxnew h pasid rtcnt rtbase sabase sasize) := by
  intro _ k
  have hw : h.wf = true := by simp only [Instr.wf, Bool.and_eq_true] at k; exact k.1
  refine decodePacket_mk (ty := 17) (by decide) hw ?_ ?_ k
  · simp only [packetRow, Option.some.injEq, Instr.ctxnew.injEq, true_and, ofNat_self, and_true]
    refine ⟨?_, ?_⟩ <;> (apply BitVec.eq_of_toNat_eq; simp only [fld, BitVec.toNat_ofNat]; omega)
  · intro w0 z
    simp only [fld] at z
    simp [packetReserved, fld]; omega
theorem ctxfree (h : PktHead) (pasid : BitVec 20) : Statement (.ctxfree h pasid) := by
  intro _ k
  have hw : h.wf = true := k
  refine decodePacket_mk (ty := 18) (by decide) hw ?_ ?_ k
  · simp only [packetRow, Option.some.injEq, Instr.ctxfree.injEq, true_and]
    apply BitVec.eq_of_toNat_eq
    simp only [fld, BitVec.toNat_ofNat]
    omega
  · intro w0 z
    simp only [fld] at z
    simp [packetReserved, fld]; omega
theorem qnew (h : PktHead) (b : QnewBody) : Statement (.qnew h b) := by
  intro _ k
  have hw : h.wf = true := by simp only [Instr.wf, Bool.and_eq_true] at k; exact k.1
  refine decodePacket_mk (ty := 19) (by decide) hw ?_ ?_ k
  · simp only [packetRow, qnew_body]
  · exact fun w0 z => qnew_reserved z
theorem qfree (h : PktHead) (qid : BitVec 20) : Statement (.qfree h qid) := by
  intro _ k
  have hw : h.wf = true := k
  refine decodePacket_mk (ty := 20) (by decide) hw ?_ ?_ k
  · simp only [packetRow, Option.some.injEq, Instr.qfree.injEq, true_and]
    apply BitVec.eq_of_toNat_eq
    simp only [fld, BitVec.toNat_ofNat]
    omega
  · intro w0 z
    simp only [fld] at z
    simp [packetReserved, fld]; omega
theorem watchMet (die : Fin 4) (hart : Fin 64) : Statement (.watchMet die hart) := fun h _ => absurd rfl h
theorem vigilExpiry (die : Fin 4) (hart : Fin 64) : Statement (.vigilExpiry die hart) := fun h _ => absurd rfl h
theorem plaunch (p : Params) : Statement (.plaunch p) := fun _ _ => rfl
theorem pcancel (p : Params) : Statement (.pcancel p) := fun _ _ => rfl
theorem pcount (p : Params) : Statement (.pcount p) := fun _ _ => rfl
theorem pphase (p : Params) : Statement (.pphase p) := fun _ _ => rfl
theorem pevict (p : Params) : Statement (.pevict p) := fun _ _ => rfl
theorem prestore (p : Params) : Statement (.prestore p) := fun _ _ => rfl
theorem pcompact (p : Params) : Statement (.pcompact p) := fun _ _ => rfl
theorem palmw (p : Params) : Statement (.palmw p) := fun _ _ => rfl
theorem palmr (p : Params) : Statement (.palmr p) := fun _ _ => rfl
theorem pwsw (p : Params) : Statement (.pwsw p) := fun _ _ => rfl
theorem prsw (p : Params) : Statement (.prsw p) := fun _ _ => rfl
theorem ppref (p : Params) : Statement (.ppref p) := fun _ _ => rfl
theorem peqwait (p : Params) : Statement (.peqwait p) := fun _ _ => rfl
theorem pstat (p : Params) : Statement (.pstat p) := fun _ _ => rfl
theorem ingressListCheck (die : Fin 4) (entry : BitVec 12) : Statement (.ingressListCheck die entry) := fun h _ => absurd rfl h
theorem ingressFirstToken (die : Fin 4) (entry : BitVec 12) : Statement (.ingressFirstToken die entry) := fun h _ => absurd rfl h
theorem configFetch (r : RingAt) (entry : BitVec 12) (stage : BitVec 16) : Statement (.configFetch r entry stage) := fun h _ => absurd rfl h
theorem configLoad (s : StripeAt) : Statement (.configLoad s) := fun h _ => absurd rfl h
theorem stateSave (s : StripeAt) : Statement (.stateSave s) := fun h _ => absurd rfl h
theorem stateRestore (s : StripeAt) : Statement (.stateRestore s) := fun h _ => absurd rfl h
theorem cohortEntry (r : RingAt) (entry : BitVec 12) : Statement (.cohortEntry r entry) := fun h _ => absurd rfl h
theorem equinox (r : RingAt) (page : Fin 8) : Statement (.equinox r page) := fun h _ => absurd rfl h
theorem phaseBoundary (die : Fin 4) (pasid : BitVec 20) : Statement (.phaseBoundary die pasid) := fun h _ => absurd rfl h
theorem launchComplete (die : Fin 4) (entry : BitVec 12) : Statement (.launchComplete die entry) := fun h _ => absurd rfl h
theorem cancelComplete (die : Fin 4) (entry : BitVec 12) : Statement (.cancelComplete die entry) := fun h _ => absurd rfl h
theorem tokenArrival (h : Hop) (ical : Bool) : Statement (.tokenArrival h ical) := fun h _ => absurd rfl h
theorem steerDelivery (e : ElemAt) : Statement (.steerDelivery e) := fun h _ => absurd rfl h
theorem killAbsorb (c : ChanAt) (ical : Bool) : Statement (.killAbsorb c ical) := fun h _ => absurd rfl h
theorem matchStep (c : ChanAt) (ical : Bool) : Statement (.matchStep c ical) := fun h _ => absurd rfl h
theorem iterKillSweep (die : Fin 4) (entry iter : BitVec 12) : Statement (.iterKillSweep die entry iter) := fun h _ => absurd rfl h
theorem windowAdvance (die : Fin 4) (entry : BitVec 12) : Statement (.windowAdvance die entry) := fun h _ => absurd rfl h
theorem storePark (e : ElemAt) (ical : Bool) : Statement (.storePark e ical) := fun h _ => absurd rfl h
theorem parkedStoreIssue (e : ElemAt) (ical : Bool) : Statement (.parkedStoreIssue e ical) := fun h _ => absurd rfl h
theorem quantumCommit (die : Fin 4) (entry : BitVec 12) : Statement (.quantumCommit die entry) := fun h _ => absurd rfl h
theorem jnIsbDeadlock (e : ElemAt) (ical : Bool) : Statement (.jnIsbDeadlock e ical) := fun h _ => absurd rfl h
theorem translationComplete (die : Fin 4) (pasid : BitVec 20) (vpage : BitVec 52) (ans : XltAnswer) : Statement (.translationComplete die pasid vpage ans) := fun h _ => absurd rfl h
theorem priResponse (die : Fin 4) (pasid : BitVec 20) (vpage : BitVec 52) (ok : Bool) : Statement (.priResponse die pasid vpage ok) := fun h _ => absurd rfl h
theorem atsInvalidation (die : Fin 4) (pasid : BitVec 20) (vpage : BitVec 52) : Statement (.atsInvalidation die pasid vpage) := fun h _ => absurd rfl h
theorem memoryReply (r : RingAt) (op : Nat) : Statement (.memoryReply r op) := fun h _ => absurd rfl h
theorem ldvVersionMet (r : RingAt) (op : Nat) : Statement (.ldvVersionMet r op) := fun h _ => absurd rfl h
theorem watchCheck (r : RingAt) (n : Fin 512) : Statement (.watchCheck r n) := fun h _ => absurd rfl h
theorem messageAccept (e : ElemAt) : Statement (.messageAccept e) := fun h _ => absurd rfl h
theorem uncorrectableError (site : ErrSite) : Statement (.uncorrectableError site) := fun h _ => absurd rfl h
theorem patrolScrub (bad : Option Dword) : Statement (.patrolScrub bad) := fun h _ => absurd rfl h
theorem slabLoad (e : ElemAt) (ical : Bool) : Statement (.slabLoad e ical) := fun h _ => absurd rfl h
theorem slabPiece (e : ElemAt) (ical : Bool) : Statement (.slabPiece e ical) := fun h _ => absurd rfl h
theorem mxRowPick (e : ElemAt) (ical : Bool) : Statement (.mxRowPick e ical) := fun h _ => absurd rfl h
theorem mxRowCommit (e : ElemAt) (ical : Bool) : Statement (.mxRowCommit e ical) := fun h _ => absurd rfl h
theorem mxRowDrain (e : ElemAt) (ical : Bool) : Statement (.mxRowDrain e ical) := fun h _ => absurd rfl h
theorem mxKillAbsorb (e : ElemAt) (ical : Bool) : Statement (.mxKillAbsorb e ical) := fun h _ => absurd rfl h
theorem mxcfg (p : Params) : Statement (.mxcfg p) := fun _ _ => rfl
theorem mxtile (p : Params) : Statement (.mxtile p) := fun _ _ => rfl
theorem mxkcnt (p : Params) : Statement (.mxkcnt p) := fun _ _ => rfl
theorem mxdrain (p : Params) : Statement (.mxdrain p) := fun _ _ => rfl
theorem mxclracc (p : Params) : Statement (.mxclracc p) := fun _ _ => rfl
theorem mxcb (p : Params) : Statement (.mxcb p) := fun _ _ => rfl
theorem mxamax (p : Params) : Statement (.mxamax p) := fun _ _ => rfl
theorem mxrdacc (p : Params) : Statement (.mxrdacc p) := fun _ _ => rfl
theorem mxfill (p : Params) : Statement (.mxfill p) := fun _ _ => rfl
theorem mxfmt (p : Params) : Statement (.mxfmt p) := fun _ _ => rfl
theorem mxrnd (p : Params) : Statement (.mxrnd p) := fun _ _ => rfl
theorem mxstat (p : Params) : Statement (.mxstat p) := fun _ _ => rfl
theorem sopen (p : Params) : Statement (.sopen p) := fun _ _ => rfl
theorem sclose (p : Params) : Statement (.sclose p) := fun _ _ => rfl
theorem srdh (p : Params) : Statement (.srdh p) := fun _ _ => rfl
theorem swrh (p : Params) : Statement (.swrh p) := fun _ _ => rfl
theorem scopy (p : Params) : Statement (.scopy p) := fun _ _ => rfl
theorem sstride (p : Params) : Statement (.sstride p) := fun _ _ => rfl
theorem sgath (p : Params) : Statement (.sgath p) := fun _ _ => rfl
theorem sscat (p : Params) : Statement (.sscat p) := fun _ _ => rfl
theorem sldbs (p : Params) : Statement (.sldbs p) := fun _ _ => rfl
theorem ssync (p : Params) : Statement (.ssync p) := fun _ _ => rfl
theorem ssyncw (p : Params) : Statement (.ssyncw p) := fun _ _ => rfl
theorem singress (p : Params) : Statement (.singress p) := fun _ _ => rfl
theorem sstat (p : Params) : Statement (.sstat p) := fun _ _ => rfl
theorem sabort (p : Params) : Statement (.sabort p) := fun _ _ => rfl
theorem ssyncMet (r : RingAt) (n : Nat) : Statement (.ssyncMet r n) := fun h _ => absurd rfl h
theorem streamTransferDone (r : RingAt) (n : Nat) : Statement (.streamTransferDone r n) := fun h _ => absurd rfl h
theorem portDeliver (r : RingAt) (port : Fin 64) : Statement (.portDeliver r port) := fun h _ => absurd rfl h
theorem uadd (p : Params) : Statement (.uadd p) := fun _ _ => rfl
theorem ufadd (p : Params) : Statement (.ufadd p) := fun _ _ => rfl
theorem umax (p : Params) : Statement (.umax p) := fun _ _ => rfl
theorem umin (p : Params) : Statement (.umin p) := fun _ _ => rfl
theorem uor (p : Params) : Statement (.uor p) := fun _ _ => rfl
theorem uand (p : Params) : Statement (.uand p) := fun _ _ => rfl
theorem uxchg (p : Params) : Statement (.uxchg p) := fun _ _ => rfl
theorem ucas (p : Params) : Statement (.ucas p) := fun _ _ => rfl
theorem uorder (p : Params) : Statement (.uorder p) := fun _ _ => rfl
theorem uflush (p : Params) : Statement (.uflush p) := fun _ _ => rfl
theorem allocGrantRemote (die : Fin 4) (entry : BitVec 12) : Statement (.allocGrantRemote die entry) := fun h _ => absurd rfl h
theorem keyLoad (die : Fin 4) (slot : BitVec 12) : Statement (.keyLoad die slot) := fun h _ => absurd rfl h
theorem keyRetire (die : Fin 4) (slot : BitVec 12) : Statement (.keyRetire die slot) := fun h _ => absurd rfl h
theorem hdmCommit (base size : Dword) (ways : Interleave) : Statement (.hdmCommit base size ways) := fun h _ => absurd rfl h
theorem hostHbmAccess (a : HostAcc) : Statement (.hostHbmAccess a) := fun h _ => absurd rfl h
theorem islandRetention (r : RingAt) (page : Fin 8) : Statement (.islandRetention r page) := fun h _ => absurd rfl h
theorem thermalThrottle (die : Fin 4) (tj : BitVec 16) : Statement (.thermalThrottle die tj) := fun h _ => absurd rfl h
theorem pldmFirmwareUpdate (img : FwImage) : Statement (.pldmFirmwareUpdate img) := fun h _ => absurd rfl h
theorem spdmGetCertificate (slot : Fin 8) : Statement (.spdmGetCertificate slot) := fun h _ => absurd rfl h
theorem spdmChallenge (nonce : Nat) : Statement (.spdmChallenge nonce) := fun h _ => absurd rfl h
theorem spdmGetMeasurements (index : BitVec 8) : Statement (.spdmGetMeasurements index) := fun h _ => absurd rfl h
theorem spdmKeyExchange (exchange : Nat) : Statement (.spdmKeyExchange exchange) := fun h _ => absurd rfl h
theorem spdmFinish (proof : Nat) : Statement (.spdmFinish proof) := fun h _ => absurd rfl h
theorem pldmSensorRead (n : Sensor) : Statement (.pldmSensorRead n) := fun h _ => absurd rfl h
theorem registerWrite (who : RegWriter) (addr value : Dword) : Statement (.registerWrite who addr value) := fun h _ => absurd rfl h
theorem pathFAccess (die : Fin 4) (hart : Fin 64) (a : FAccess) : Statement (.pathFAccess die hart a) := fun h _ => absurd rfl h
theorem illegalInstruction (w : Word) : Statement (.illegalInstruction w) := fun h _ => absurd rfl h
theorem faultBufferEnter : Statement .faultBufferEnter := fun h _ => absurd rfl h
theorem firmwareRestartReset : Statement .firmwareRestartReset := fun h _ => absurd rfl h
theorem dieWake : Statement .dieWake := fun h _ => absurd rfl h
theorem dispatchBind : Statement .dispatchBind := fun h _ => absurd rfl h
theorem stripeSwap : Statement .stripeSwap := fun h _ => absurd rfl h
theorem procStrayToken : Statement .procStrayToken := fun h _ => absurd rfl h
theorem procMissingExit : Statement .procMissingExit := fun h _ => absurd rfl h
theorem almanacUpdate : Statement .almanacUpdate := fun h _ => absurd rfl h
theorem intercalarySwitch : Statement .intercalarySwitch := fun h _ => absurd rfl h
theorem intercalaryReturn : Statement .intercalaryReturn := fun h _ => absurd rfl h
theorem sclExhausted : Statement .sclExhausted := fun h _ => absurd rfl h
theorem xltTimeout : Statement .xltTimeout := fun h _ => absurd rfl h
theorem waveLink : Statement .waveLink := fun h _ => absurd rfl h
theorem memWave : Statement .memWave := fun h _ => absurd rfl h
theorem eccCorrected : Statement .eccCorrected := fun h _ => absurd rfl h
theorem updateExpand : Statement .updateExpand := fun h _ => absurd rfl h
theorem windowIssue : Statement .windowIssue := fun h _ => absurd rfl h
theorem flitReceive : Statement .flitReceive := fun h _ => absurd rfl h
theorem linkRetrain : Statement .linkRetrain := fun h _ => absurd rfl h
theorem retrainComplete : Statement .retrainComplete := fun h _ => absurd rfl h
theorem retrainHold : Statement .retrainHold := fun h _ => absurd rfl h
theorem lnkRetrainFail : Statement .lnkRetrainFail := fun h _ => absurd rfl h
theorem coldReset : Statement .coldReset := fun h _ => absurd rfl h
theorem bootgo : Statement .bootgo := fun h _ => absurd rfl h
theorem fwrestart : Statement .fwrestart := fun h _ => absurd rfl h
theorem gate : Statement .gate := fun h _ => absurd rfl h
theorem devThermal : Statement .devThermal := fun h _ => absurd rfl h
theorem spdmGetVersion : Statement .spdmGetVersion := fun h _ => absurd rfl h
theorem spdmGetCapabilities : Statement .spdmGetCapabilities := fun h _ => absurd rfl h
theorem spdmNegotiateAlgorithms : Statement .spdmNegotiateAlgorithms := fun h _ => absurd rfl h
theorem spdmGetDigests : Statement .spdmGetDigests := fun h _ => absurd rfl h
theorem sparseUpdatePerformed : Statement .sparseUpdatePerformed := fun h _ => absurd rfl h

end Laws.Round
end Sys2Proof
end

