-- ==== Sys2Proof/Safety.lean ====
section
/-! DEFINITION. What counts as a safe run of the machine, and the vocabulary of the claims: what a firing delivers, the canonical form of every
memory, and the invariants. -/

namespace Sys2Proof.Machine

/-! ### Safe states -/

/-- Slot 0 of the key table holds a key: the device key of 16 R477, which no retire can take (16 R483). -/
def State.deviceKeyed (s : State) : Prop := (tabFind 0 s.keys).isSome = true

/-- Every memory stands in its canonical form. -/
def State.memWf (s : State) : Prop :=
  Memory.wf s.hbm = true ∧ Memory.wf s.hostMem = true ∧ (∀ d, Memory.wf (s.die d).sram = true) ∧ (∀ d, Memory.wf (s.die d).ws = true) ∧
    ∀ r, Memory.wf (s.ring r).spad = true

/-- A step is safe when the machine goes on: it answers a next state. -/
def State.safe (s : State) : Prop := ∃ t, step s = .next t

/-! ### Firings -/

/-- The firing of the focus meets no fault of its tags (08 R292, R295, R297): its iterations are allocated, `ctx.lit` names a context of its
job, and an allocation is not exhausted. `b` is operand B and `out` tells whether it writes an out channel. -/
def State.tagsFit (s : State) (tag : BitVec 4) (b : Reg) (out : Bool) : Prop := s.tagFaults s.firing tag b out = []

/-- A source select reads an element operand of format `f`: one from a data register or a channel carries it (09 R315). -/
def Firing.carries (x : Firing) (f : Fmt) (sel : BitVec 5) : Prop := sel.toNat < 16 → (x.src sel).fmt = f

/-- What destination `d` of the firing of `s` holds in `t` of a result `r` (02 R57, 08 R291): a data register takes it whole, a predicate bit 0
of its lane 0, an out channel a token of its body at the end of its staging; select 24 takes nothing. Under `kill` the token is a KILL token. -/
def Delivered (s t : State) (d : BitVec 5) (tag : BitVec 4) (r : Reg) : Prop :=
  let x := s.firing
  (∀ n : Fin 8, d.toNat = n.val → ((t.elem x.el).plane x.ical).d[n] = r) ∧
  (∀ n : Fin 8, d.toNat = 8 + n.val →
    ∃ k : LinkTok, (t.elem x.el).out[n] = (s.elem x.el).out[n] ++ [k] ∧ (tag ≠ 7 → k.tok.body = r) ∧ k.tok.kill = decide (tag = 7)) ∧
  (∀ n : Fin 8, d.toNat = 16 + n.val → ((t.elem x.el).plane x.ical).p[n] = bit (r.lane 0).toNat 0)

/-- An instruction completes with result `r` at destination `d`. -/
def Gives (s : State) (i : Instr) (d : BitVec 5) (tag : BitVec 4) (r : Reg) : Prop :=
  ∃ t, exec i s = .next t ∧ Delivered s t d tag r

/-- The same by elements of format `g`: FMT `f`, VLEN `v`, no binding, each valid element as given and every other one zero (09 R316, R317). -/
def GivesElems (s : State) (i : Instr) (d : BitVec 5) (tag : BitVec 4) (f g : Fmt) (v : Nat) (e : Nat → Nat) : Prop :=
  ∃ r, Gives s i d tag r ∧ r.fmt = f ∧ r.vlen.val = v ∧ r.bind = 0 ∧ r.bgen = 0 ∧
    ∀ j < g.elems, Lanes.elem r.lanes g.width j = if j < validCount g v then e j else 0

/-- An exact integer brought to 32 bits: saturated under SSAT 1, else wrapped (09 R317 ires). -/
def toI32 (ssat : Bool) (z : Int) : Word := BitVec.ofInt 32 (if ssat then min (max z (-2 ^ 31)) (2 ^ 31 - 1) else z)

/-- The LFSR after `n` steps (07 R249). -/
def lfsrAfter : Nat → Word → Word
  | 0, l => l
  | n + 1, l => lfsrAfter n (lfsrStep l)

/-- Element `j` of a result in format `f`: the exact value rounded once with the slot's SRND under SSAT 0 (09 R316, R328). -/
def Firing.rounded (x : Firing) (f : Fmt) (j : Nat) (z : Exact) : Nat :=
  roundTo f x.srnd false (if x.srnd = 4 then (lfsrAfter (j + 1) x.pl.lfsr).toNat else 0) z

/-- From `x` to `y` a die has one record more, `e`, of fc `fc` (01 R40, R41): the records of other fcs wait as before, and one that is alone in
its fc stands behind them with the die's next number. -/
def Waits (x y : Die) (fc : Nat) (e : FbEntry) : Prop :=
  let now := fun f : FbEntry => f.rec_.time == .ofNat 64 fc
  e ∈ y.faultWait ∧ e.rec_.time = .ofNat 64 fc ∧ y.faultSeq = nextSeq x.faultSeq ∧ y.faultWait.length = x.faultWait.length + 1 ∧
    (y.faultWait.filter fun f => !now f) = (x.faultWait.filter fun f => !now f) ∧
    (x.faultWait.any now = false → y.faultWait = x.faultWait ++ [e] ∧ e.rec_.seq = nextSeq x.faultSeq)

/-- A firing ends in a fault that terminates its job (01 R39-R43): its record waits in the element, the ring holds for its context, and no element,
stripe or memory changes. -/
def FaultTaken (s : State) (o : Result) (code aux : Nat) : Prop :=
  let x := s.firing
  let d := x.el.at_.ring.die
  ∃ t e, o = .next t ∧ t.elems = s.elems ∧ t.stripes = s.stripes ∧ t.hbm = s.hbm ∧ t.hostMem = s.hostMem ∧
    Waits (s.die d) (t.die d) s.fc e ∧ (t.ring x.el.at_.ring).holds x.ctx = true ∧
    e.rec_.code = .ofNat 8 code ∧ e.rec_.aux = .ofNat 64 aux ∧ e.rec_.disp = 1 ∧ e.rec_.ctxValid = true ∧ e.rec_.ctx = x.ctx ∧ e.rec_.pasid = (s.ring x.el.at_.ring).job x.ctx ∧
    e.rec_.iterValid = true ∧ e.rec_.iter = x.iter ∧ e.rec_.slotValid = true ∧ e.rec_.elem = .ofNat 4 x.el.slot.val ∧
    e.rec_.islot = .ofNat 4 x.slot.val

/-- One fault record more, of a code, an auxiliary word and a DISP, waits on die `d` (01 R40, R41). -/
def Records (s t : State) (d : Fin 4) (code aux disp : Nat) : Prop :=
  ∃ e, Waits (s.die d) (t.die d) s.fc e ∧ e.rec_.code = .ofNat 8 code ∧ e.rec_.aux = .ofNat 64 aux ∧ e.rec_.disp = .ofNat 2 disp

/-- What the firing of the focus leaves alone when it completes: memory, keys, contexts, harts, every element but its own. -/
def FiringFrame (s t : State) : Prop :=
  t.hbm = s.hbm ∧ t.hostMem = s.hostMem ∧ t.keys = s.keys ∧ t.jobs = s.jobs ∧ t.stripes = s.stripes ∧ t.fc = s.fc ∧
    (∀ d h, t.hart d h = s.hart d h) ∧ (∀ d, (t.die d).sram = (s.die d).sram) ∧ (∀ d, (t.die d).ws = (s.die d).ws) ∧
    (∀ r, (t.ring r).spad = (s.ring r).spad) ∧ ∀ e, e ≠ s.firing.el → t.elem e = s.elem e

/-- A memory, wait or fence form meets no fault at its commit (12 R387, R388): the checks of its resource entry, its out channel's iteration, the
FMT of the data of ST, STV and SCAT, and the binding of block-scaled data. -/
def State.memFits (s : State) (k : MemKind) (a b d : BitVec 5) (m : BitVec 2) (t : BitVec 4) : Prop :=
  let x := s.firing
  let B := x.src b
  s.memFlts x k (x.pl.k[2 * m.toNat]'(by omega)) (x.src a) B = [] ∧ x.outAlias d t B = [] ∧ s.tagsFit t B false ∧
    (k = .st ∨ k = .stv ∨ k = .scat →
      (x.sfmt ≤ 7 → x.carries (Fmt.ofCode x.sfmt) b) ∧ (B.fmt.scaled = true → (s.scl x.el).read x.ctx B = []))

/-- The form issues its request (12 R385): the operation arrives at the memory interface of its ring with its operands and its descriptor words,
its result is owed under the firing's tags, and no memory changes. `carried` is what a fence returns, else operand A. A WAITA whose word can be reached
then installs its watch (12 R397). -/
def Issues (s : State) (i : Instr) (k : MemKind) (carried : Reg) (b d : BitVec 5) (m : BitVec 2) (t : BitVec 4) : Prop :=
  let x := s.firing
  let r := x.el.at_.ring
  ∃ u o, exec i s = .next (if k = .waita then u.watchAtCommit o else u) ∧ (u.ring r).arriving = (s.ring r).arriving ++ [o] ∧ u.opCtr = s.opCtr + 1 ∧
    o.id = s.opCtr ∧ o.kind = k ∧ o.elem = x.el.key ∧ o.ical = x.ical ∧ o.islot = x.slot ∧ o.launch = x.launch ∧ o.ctx = x.ctx ∧ o.iter = x.iter ∧
    o.a = carried ∧ o.b = x.src b ∧ o.w0 = x.pl.k[2 * m.toNat]'(by omega) ∧ o.w1 = x.pl.k[2 * m.toNat + 1]'(by omega) ∧ o.dst = d ∧
    o.rctx = x.outCtx t ∧ o.riter = x.outIter t (s.launch x.launch).alloc0.next (x.src b) ∧
    (d ≠ 24 → (u.elem x.el).pend = (s.elem x.el).pend ++ [⟨s.opCtr, x.ical, d, o.rctx, o.riter⟩]) ∧
    u.hbm = s.hbm ∧ u.hostMem = s.hostMem ∧ u.versions = s.versions ∧ ∀ r, (u.ring r).spad = (s.ring r).spad

/-- The result `k` that the firing `op` of an element is owed has been delivered (12 R385): a data register takes its body, an out channel the token,
and it is owed no more. The ring keeps that of a frozen victim (08 R307), and that of an out channel whose staging holds two tokens (08 R275). -/
def Settles (s t : State) (e : ElemAt) (ical : Bool) (op : Nat) (k : Token) : Prop :=
  ∀ p, ((s.elem e).pend.find? fun p => p.op == op) = some p →
    let full := ∃ n : Fin 8, p.dst.toNat = 8 + n.val ∧ 2 ≤ (s.elem e).staged ical n
    (s.moving e.at_ ical = true → ¬full →
      (∀ q ∈ (t.elem e).pend, q.op ≠ op) ∧ (∀ n : Fin 8, p.dst.toNat = n.val → ((t.elem e).plane ical).d[n] = k.body) ∧
        ∀ n : Fin 8, p.dst.toNat = 8 + n.val → (t.elem e).out[n] = (s.elem e).out[n] ++ [⟨k, (s.stripe e.at_).parity ical, ical⟩]) ∧
    (s.moving e.at_ ical = false ∨ full → (t.ring e.at_.ring).heldResults = (s.ring e.at_.ring).heldResults ++ [⟨e.key, ical, op, k⟩])

/-- A message changes nothing but its own element: memory, rings, dies and every other element stay. -/
def OnlyElem (s t : State) (e : ElemAt) : Prop :=
  t.hbm = s.hbm ∧ t.hostMem = s.hostMem ∧ t.dies = s.dies ∧ t.rings = s.rings ∧ t.stripes = s.stripes ∧ t.keys = s.keys ∧ t.jobs = s.jobs ∧
    ∀ f, f ≠ e → t.elem f = s.elem f

/-- A matrix message completes: it answers status 0 with its two lanes, from a state in which only its own element has changed (05 R217). -/
def MxAnswers (s : State) (i : Instr) (lane0 lane1 : Nat) (P : State → Prop) : Prop :=
  ∃ u : State, exec i s = .next (u.answer s.focus.msg 0 lane0 lane1) ∧ OnlyElem s u s.focus.elem ∧ P u

/-- Descriptor `c` of the focus's M-element is `d` in `u`, the others as before; `drop` tells whether its slabs left the buffer (11 R359). -/
def DescIs (s : State) (c : Fin 4) (d : Desc) (drop : Bool) (u : State) : Prop :=
  let x := s.mxMsg
  let y := u.mxMsg
  y.pl.m.descs = x.pl.m.descs.set c d ∧ y.part.rows = x.part.rows ∧ y.part.array = x.part.array ∧ y.part.drains = x.part.drains ∧
    y.part.slabs = (if drop then x.part.slabs.filter fun b => b.desc != c else x.part.slabs)

/-- A stream message performed at its acceptance: its reply, of status 0 and two lanes, takes its turn among its sender's (13 R435). -/
def StrmReplies (s : State) (i : Instr) (lane0 lane1 : Nat) (P : State → Prop) : Prop :=
  ∃ u : State, exec i s = .next (u.reply s.focus.msg 0 lane0 lane1) ∧ P u

/-- A stream message accepted as transfer `t` (13 R413). Into a FIFO of the sender that is open and of the kind `scaled`, it reserves its `n` slots
behind those reserved before; while too few are free, it waits before the next message of its sender (13 R419). -/
def StrmTakes (s : State) (i : Instr) (scaled : Bool) (fifo : Option (Nat × Nat)) (t : Transfer) : Prop :=
  let m := s.focus.msg
  match fifo with
  | none => exec i s = .next (s.push t)
  | some (f, n) =>
    ∀ x, s.fifo m f = some x → x.launch = m.launch → x.ctx = m.ctx → x.closed = false → x.scaled = scaled →
      (x.slots.length + n ≤ x.size →
        ∃ u : State, exec i s = .next (u.push { t with fifo := some (Fin.ofNat 64 f, x.delivered + x.slots.length, n), buf := (x.base, x.size) }) ∧ u.elems = s.elems ∧
          tabFind (f % 64) (u.ring m.ring).fifos = some { x with slots := x.slots ++ List.replicate n none } ∧
          (u.ring m.ring).transfers = (s.ring m.ring).transfers) ∧
      (x.size < x.slots.length + n → exec i s = .next (s.requeue m))

/-- A token body whose lanes up to `v` are given, and zero above (09 R316, R317). -/
def laneReg (f : Fmt) (v : Nat) (g : Nat → Word) : Reg := ⟨Lanes.ofFn fun i => if i ≤ v then g i else 0, f, vlenOf v, 0, 0⟩

/-! ### Magnitudes -/

/-- Among the values that `p` names no finite one is other than zero. -/
def NoMagnitude (v : Nat → Exact) (p : Nat → Prop) : Prop := ∀ j, p j → ∀ s m e, v j = .fin s m e false → m = 0

/-- `top` is floor(log2) of the largest finite magnitude among the values that `p` names: one of them reaches 2^top, and none 2^(top + 1). -/
def TopLog (v : Nat → Exact) (p : Nat → Prop) (top : Int) : Prop :=
  (∃ j s m e, p j ∧ v j = .fin s m e false ∧ (Exact.fin false m e false).cmp (.fin false 1 top false) ≠ .lt) ∧
    ∀ j, p j → ∀ s m e, v j = .fin s m e false → (Exact.fin false m e false).cmp (.fin false 1 (top + 1) false) = .lt

/-! ### Harts and links -/

/-- A custom instruction completes on the hart in focus (04 R160): its result in x[rd], which x0 drops, the next pc, and no element, stripe or other
register of the hart changed. -/
def Retires (s t : State) (rd : BitVec 5) (v : Nat) : Prop :=
  t.me.pc = s.me.pc + 4 ∧ t.me.block = .running ∧ (rd ≠ 0 → t.me.reg rd = .ofNat 64 v) ∧ (∀ k, k ≠ rd → t.me.reg k = s.me.reg k) ∧
    t.elems = s.elems ∧ t.stripes = s.stripes

/-- The hart in focus stays at its instruction, and nothing else changes. -/
def Stays (s : State) (i : Instr) (b : HBlock) : Prop := exec i s = .next (s.onMe fun h => { h with block := b })

/-- The hart in focus takes the illegal-instruction exception (01 R78; log 11), and nothing else changes. -/
def Traps (s : State) (i : Instr) (w : Nat) : Prop := exec i s = .next (s.onMe fun h => h.trap 2 (.ofNat 64 w))

/-! ### Frames of register forms -/

/-- The forms that act on registers, tokens and scale entries alone: the V page and the shared opcodes of the J page (02 R66, R67). -/
def registerForm (i : Instr) : Bool :=
  match i with
  | .jMov .. => true
  | .jMov2 .. => true
  | .jAdd .. => true
  | .jSub .. => true
  | .jAnd .. => true
  | .jShl .. => true
  | .jCmpeq .. => true
  | .jCmplt .. => true
  | .jExit .. => true
  | .jDrop .. => true
  | .jTrap .. => true
  | i => i.page == .v

/-- The destination selects of an instruction word (02 R57). -/
def destsOf (i : Instr) : List (BitVec 5) :=
  match encode i with
  | .word w => [(fieldsOf w).d5, (fieldsOf w).e5]
  | _ => []

/-- What a register form leaves alone of its own element: registers, predicates and out channels that its word does not name, the program and its
constants, tickets and grants, the matrix part, the other planes, and what the element owes. -/
def ElemFrame (s t : State) (ds : List (BitVec 5)) : Prop :=
  let x := s.firing
  let e := s.elem x.el
  let f := t.elem x.el
  let p := e.plane x.ical
  let q := f.plane x.ical
  (∀ n : Fin 8, (∀ d ∈ ds, d.toNat ≠ n.val) → q.d[n] = p.d[n]) ∧ (∀ n : Fin 8, (∀ d ∈ ds, d.toNat ≠ 16 + n.val) → q.p[n] = p.p[n]) ∧
    (∀ n : Fin 8, (∀ d ∈ ds, d.toNat ≠ 8 + n.val) → f.out[n] = e.out[n]) ∧ q.iw = p.iw ∧ q.tw = p.tw ∧ q.k = p.k ∧ q.hdr = p.hdr ∧
    q.tickets = p.tickets ∧ q.grants = p.grants ∧ q.m = p.m ∧ f.plane (!x.ical) = e.plane (!x.ical) ∧ f.shadow = e.shadow ∧ f.pend = e.pend ∧
    f.isb = e.isb ∧ f.port = e.port ∧ f.main = e.main ∧ f.part = e.part

end Sys2Proof.Machine
end

