-- ==== Sys2Proof/Certificates/Slice0/Obligations.lean ====
section
/-! DEFINITION. The statements for the provers. A `Claim` is one part; each `Obligations.<Name>` is a statement, of one part or of several that belong together. -/

open Sys2Proof Sys2Proof.Machine

/-! ### The V page -/

/-- R323, R324: over I32 each valid lane is the exact signed result brought to 32 bits, wrapped or with SSAT 1 saturated; MULH is the upper half
of the product, MIN and MAX choose. MAD's accumulator takes part in the VLEN. -/
def Claim.IntegerBinaryResults : Prop :=
  ∀ (s : State) (a b d : BitVec 5) (t : BitVec 4) (q : Bool),
    let x := s.firing
    let A := x.src a
    let B := x.src b
    let C := x.acc d
    let S := x.ssat
    let v := min A.vlen.val B.vlen.val
    x.opFmt A = .i32 → x.carries .i32 a → x.carries .i32 b → s.tagsFit t B (isOut d) →
    Gives s (.add a b d t q) d t (laneReg .i32 v fun i => toI32 S ((A.lane i).toInt + (B.lane i).toInt)) ∧
    Gives s (.sub a b d t q) d t (laneReg .i32 v fun i => toI32 S ((A.lane i).toInt - (B.lane i).toInt)) ∧
    Gives s (.mul a b d t q) d t (laneReg .i32 v fun i => toI32 S ((A.lane i).toInt * (B.lane i).toInt)) ∧
    Gives s (.mulh a b d t q) d t (laneReg .i32 v fun i => BitVec.ofInt 32 ((A.lane i).toInt * (B.lane i).toInt / 2 ^ 32)) ∧
    Gives s (.mad a b d t q) d t
      (laneReg .i32 (min v C.vlen.val) fun i => toI32 S ((A.lane i).toInt * (B.lane i).toInt + (C.lane i).toInt)) ∧
    Gives s (.min a b d t q) d t (laneReg .i32 v fun i => if (A.lane i).toInt ≤ (B.lane i).toInt then A.lane i else B.lane i) ∧
    Gives s (.max a b d t q) d t (laneReg .i32 v fun i => if (A.lane i).toInt ≤ (B.lane i).toInt then B.lane i else A.lane i)

/-- R324, R325: NEG and ABS under ires; POPC counts 1 bits and CLZ leading zeros, 32 for zero. -/
def Claim.IntegerUnaryResults : Prop :=
  ∀ (s : State) (a d : BitVec 5) (t : BitVec 4) (q : Bool),
    let x := s.firing
    let A := x.src a
    let v := A.vlen.val
    x.opFmt A = .i32 → x.carries .i32 a → s.tagsFit t Reg.zero (isOut d) →
    Gives s (.neg a d t q) d t (laneReg .i32 v fun i => toI32 x.ssat (-(A.lane i).toInt)) ∧
    Gives s (.abs a d t q) d t (laneReg .i32 v fun i => toI32 x.ssat (A.lane i).toInt.natAbs) ∧
    Gives s (.popc a d t q) d t
      (laneReg .i32 v fun i => BitVec.ofNat 32 ((List.range 32).filter fun k => (A.lane i).getLsbD k).length) ∧
    Gives s (.clz a d t q) d t (laneReg .i32 v fun i => (A.lane i).clz)

/-- Integer forms give the exact result of each valid lane, wrapped or saturated; NEG, ABS, POPC and CLZ act on one operand. -/
def Obligations.IntegerResults : Prop := Claim.IntegerBinaryResults ∧ Claim.IntegerUnaryResults

/-- R325: logic acts on the lanes of A and raw B in the formats I32, F32, B16 and H16; shifts over I32 take the low 5 bits of B's lane. -/
def Claim.LogicAndShiftResults : Prop :=
  ∀ (s : State) (a b d : BitVec 5) (t : BitVec 4) (q : Bool),
    let x := s.firing
    let A := x.src a
    let B := x.src b
    let f := x.opFmt A
    let v := min A.vlen.val B.vlen.val
    let c := fun i => (B.lane i).toNat % 32
    x.carries f a → s.tagsFit t B (isOut d) → s.tagsFit t Reg.zero (isOut d) →
    (setW f = true →
      Gives s (.andV a b d t q) d t (laneReg f v fun i => A.lane i &&& B.lane i) ∧
      Gives s (.orV a b d t q) d t (laneReg f v fun i => A.lane i ||| B.lane i) ∧
      Gives s (.xorV a b d t q) d t (laneReg f v fun i => A.lane i ^^^ B.lane i) ∧
      Gives s (.andn a b d t q) d t (laneReg f v fun i => A.lane i &&& ~~~B.lane i) ∧
      Gives s (.notV a d t q) d t (laneReg f A.vlen.val fun i => ~~~A.lane i)) ∧
    (f = .i32 →
      Gives s (.shl a b d t q) d t (laneReg .i32 v fun i => A.lane i <<< c i) ∧
      Gives s (.shr a b d t q) d t (laneReg .i32 v fun i => A.lane i >>> c i) ∧
      Gives s (.sar a b d t q) d t (laneReg .i32 v fun i => (A.lane i).sshiftRight (c i)))

/-- R326: each element of a compare is all ones of f's width when the relation holds and zero otherwise, FMT I32. A NaN operand makes =, < and ≤
false and "not =" true; CMPLTU compares I32 as unsigned. -/
def Claim.CompareResults : Prop :=
  ∀ (s : State) (a b d : BitVec 5) (t : BitVec 4) (q : Bool),
    let x := s.firing
    let A := x.src a
    let B := x.src b
    let f := x.opFmt A
    let v := min A.vlen.val B.vlen.val
    let ea := fun j => Lanes.elem A.lanes f.width j
    let eb := fun j => Lanes.elem B.lanes f.width j
    let nan := fun j => (valueOf f (ea j)).isNan || (valueOf f (eb j)).isNan
    let cmp := fun j => (valueOf f (ea j)).cmp (valueOf f (eb j))
    let mask := fun p : Bool => if p then 2 ^ f.width - 1 else 0
    setW f = true → x.carries f a → x.carries f b → s.tagsFit t B (isOut d) →
    GivesElems s (.cmpeq a b d t q) d t .i32 f v (fun j => mask (!nan j && cmp j == .eq)) ∧
    GivesElems s (.cmpne a b d t q) d t .i32 f v (fun j => mask (nan j || cmp j != .eq)) ∧
    GivesElems s (.cmplt a b d t q) d t .i32 f v (fun j => mask (!nan j && cmp j == .lt)) ∧
    GivesElems s (.cmple a b d t q) d t .i32 f v (fun j => mask (!nan j && cmp j != .gt)) ∧
    (f = .i32 → GivesElems s (.cmpltu a b d t q) d t .i32 f v fun j => mask (decide (ea j < eb j)))

/-- R327: ANYNZ and ALLNZ give lane 0 of a new I32 token of VLEN 0: 1 when some, or every, valid element is nonzero. -/
def Claim.TestResults : Prop :=
  ∀ (s : State) (a d : BitVec 5) (t : BitVec 4) (q : Bool),
    let x := s.firing
    let A := x.src a
    let f := x.opFmt A
    let nz := fun j => if f = .i32 then Lanes.elem A.lanes 32 j ≠ 0 else Lanes.elem A.lanes f.width j % 2 ^ (f.width - 1) ≠ 0
    let n := validCount f A.vlen.val
    setW f = true → x.carries f a → s.tagsFit t Reg.zero (isOut d) →
    (∀ r, (r = 1 ∧ (∃ j < n, nz j) ∨ r = 0 ∧ ∀ j < n, ¬nz j) → Gives s (.anynz a d t q) d t (laneReg .i32 0 fun _ => r)) ∧
    (∀ r, (r = 1 ∧ (∀ j < n, nz j) ∨ r = 0 ∧ ∃ j < n, ¬nz j) → Gives s (.allnz a d t q) d t (laneReg .i32 0 fun _ => r))

/-- Logic and shifts act on the lanes, compares give all ones or zero, and ANYNZ and ALLNZ test the valid elements. -/
def Obligations.LogicShiftAndCompareResults : Prop := Claim.LogicAndShiftResults ∧ Claim.CompareResults ∧ Claim.TestResults

/-- R328: FADD to FNMA form the exact result of each valid element and round it once in f with the slot's SRND under SSAT 0; with SRND 4 element j
rounds with the (j+1)-th LFSR state. FMA and FNMA never round the product. -/
def Claim.FloatArithmeticResults : Prop :=
  ∀ (s : State) (a b d : BitVec 5) (t : BitVec 4) (q : Bool),
    let x := s.firing
    let A := x.src a
    let B := x.src b
    let C := x.acc d
    let f := x.opFmt A
    let v := min A.vlen.val B.vlen.val
    let ea := fun j => valueOf f (Lanes.elem A.lanes f.width j)
    let eb := fun j => valueOf f (Lanes.elem B.lanes f.width j)
    let ec := fun j => valueOf f (Lanes.elem C.lanes f.width j)
    let dn := x.srnd == 3
    f.floating = true → x.carries f a → x.carries f b → s.tagsFit t B (isOut d) →
    GivesElems s (.fadd a b d t q) d t f f v (fun j => x.rounded f j ((ea j).add dn (eb j))) ∧
    GivesElems s (.fsub a b d t q) d t f f v (fun j => x.rounded f j ((ea j).add dn (eb j).neg)) ∧
    GivesElems s (.fmul a b d t q) d t f f v (fun j => x.rounded f j ((ea j).mul (eb j))) ∧
    GivesElems s (.fma a b d t q) d t f f (min v C.vlen.val) (fun j => x.rounded f j (((ea j).mul (eb j)).add dn (ec j))) ∧
    GivesElems s (.fnma a b d t q) d t f f (min v C.vlen.val) (fun j => x.rounded f j ((ec j).add dn ((ea j).mul (eb j)).neg))

/-- R330, R331: FMIN and FMAX choose per element without rounding; FABS clears and FNEG inverts each sign bit, a NaN giving the canonical NaN. -/
def Claim.FloatChoiceResults : Prop :=
  ∀ (s : State) (a b d : BitVec 5) (t : BitVec 4) (q : Bool),
    let x := s.firing
    let A := x.src a
    let B := x.src b
    let f := x.opFmt A
    let w := f.width
    let ea := fun j => Lanes.elem A.lanes w j
    let eb := fun j => Lanes.elem B.lanes w j
    let nan := fun e => (valueOf f e).isNan
    f.floating = true → x.carries f a → x.carries f b → s.tagsFit t B (isOut d) → s.tagsFit t Reg.zero (isOut d) →
    GivesElems s (.fmin a b d t q) d t f f (min A.vlen.val B.vlen.val) (fun j => pickElem f true (ea j) (eb j)) ∧
    GivesElems s (.fmax a b d t q) d t f f (min A.vlen.val B.vlen.val) (fun j => pickElem f false (ea j) (eb j)) ∧
    GivesElems s (.fabs a d t q) d t f f A.vlen.val (fun j => if nan (ea j) then f.float.nanEnc else ea j % 2 ^ (w - 1)) ∧
    GivesElems s (.fneg a d t q) d t f f A.vlen.val (fun j => if nan (ea j) then f.float.nanEnc else (ea j + 2 ^ (w - 1)) % 2 ^ w)

/-- R330: what FMIN and FMAX choose for operands of which one is NaN: the other one, bit for bit, and the canonical NaN for two. -/
def Claim.PickPrefersNumbers : Prop :=
  ∀ (f : Fmt) (less : Bool) (a b : Nat), f.floating = true →
    ((valueOf f a).isNan = true → (valueOf f b).isNan = false → pickElem f less a b = b) ∧
    ((valueOf f a).isNan = false → (valueOf f b).isNan = true → pickElem f less a b = a) ∧
    ((valueOf f a).isNan = true → (valueOf f b).isNan = true → pickElem f less a b = f.float.nanEnc)

/-- Floating arithmetic rounds its exact result once; FMIN and FMAX choose without rounding; FABS and FNEG act on the sign. -/
def Obligations.FloatResults : Prop := Claim.FloatArithmeticResults ∧ Claim.FloatChoiceResults ∧ Claim.PickPrefersNumbers

/-- R332: each special function is elementwise in f and rounds its exact value once. -/
def Claim.SpecialFunctionResults : Prop :=
  ∀ (s : State) (a d : BitVec 5) (t : BitVec 4) (q : Bool),
    let x := s.firing
    let A := x.src a
    let f := x.opFmt A
    let v := A.vlen.val
    let e := fun j => valueOf f (Lanes.elem A.lanes f.width j)
    f.floating = true → x.carries f a → s.tagsFit t Reg.zero (isOut d) →
    GivesElems s (.rcp a d t q) d t f f v (fun j => x.rounded f j (rcpExact (e j))) ∧
    GivesElems s (.rsq a d t q) d t f f v (fun j => x.rounded f j (rsqExact (e j))) ∧
    GivesElems s (.sqrt a d t q) d t f f v (fun j => x.rounded f j (sqrtExact (e j))) ∧
    GivesElems s (.exp2 a d t q) d t f f v (fun j => x.rounded f j (exp2Exact (e j))) ∧
    GivesElems s (.log2 a d t q) d t f f v (fun j => x.rounded f j (log2Exact (e j))) ∧
    GivesElems s (.tanh a d t q) d t f f v (fun j => x.rounded f j (tanhExact (e j))) ∧
    GivesElems s (.sigm a d t q) d t f f v (fun j => x.rounded f j (sigmExact (e j)))

/-- R333: the special inputs of the functions, in every format, rounding mode and LFSR state. -/
def Claim.SpecialInputs : Prop :=
  ∀ (f : Fmt) (srnd r : Nat), f.floating = true →
    let g := f.float
    let out := fun z => roundTo f srnd false r z
    let val := fun e => valueOf f e
    let pInf := g.infEnc
    let nInf := g.signBit + g.infEnc
    let nZero := g.signBit
    let one := g.bias * 2 ^ g.fbits
    let half := (g.bias - 1) * 2 ^ g.fbits
    (∀ e, (val e).isNan = true → ∀ h ∈ [rcpExact, rsqExact, sqrtExact, exp2Exact, log2Exact, tanhExact, sigmExact], out (h (val e)) = g.nanEnc) ∧
    [rcpExact, rsqExact, sqrtExact, exp2Exact, log2Exact, tanhExact, sigmExact].map (fun h => out (h (val 0)))
      = [pInf, pInf, 0, one, nInf, 0, half] ∧
    [rcpExact, rsqExact, sqrtExact, exp2Exact, log2Exact, tanhExact, sigmExact].map (fun h => out (h (val nZero)))
      = [nInf, nInf, nZero, one, nInf, nZero, half] ∧
    [rcpExact, rsqExact, sqrtExact, exp2Exact, log2Exact, tanhExact, sigmExact].map (fun h => out (h (val pInf)))
      = [0, 0, pInf, pInf, pInf, one, one] ∧
    [rcpExact, rsqExact, sqrtExact, exp2Exact, log2Exact, tanhExact, sigmExact].map (fun h => out (h (val nInf)))
      = [nZero, g.nanEnc, g.nanEnc, 0, g.nanEnc, g.signBit + one, 0] ∧
    ∀ m e, m ≠ 0 → [rsqExact, sqrtExact, log2Exact].map (fun h => out (h (.fin true m e false))) = [g.nanEnc, g.nanEnc, g.nanEnc]

/-- The special functions round their exact value once (at the precision of log 20) and give the special inputs their stated results. -/
def Obligations.SpecialFunctions : Prop := Claim.SpecialFunctionResults ∧ Claim.SpecialInputs

/-- R334: a reduction evaluates its tree over the valid elements of A and leaves the root in element 0, VLEN 0, every other element zero. Over I32
the root of RSUM is the wrapped sum of the valid lanes, that of RMAX their greatest and that of RMIN their least. -/
def Claim.ReductionResults : Prop :=
  ∀ (s : State) (a d : BitVec 5) (t : BitVec 4) (q : Bool),
    let x := s.firing
    let A := x.src a
    let f := x.opFmt A
    let es := validElems f A.lanes A.vlen.val
    x.carries f a → s.tagsFit t Reg.zero (isOut d) →
    (f = .i32 →
      Gives s (.rsum a d t q) d t (laneReg .i32 0 fun _ => ((List.range (A.vlen.val + 1)).map A.lane).foldl (· + ·) 0) ∧
      (∀ k ≤ A.vlen.val, (∀ i ≤ A.vlen.val, (A.lane i).toInt ≤ (A.lane k).toInt) → Gives s (.rmax a d t q) d t (laneReg .i32 0 fun _ => A.lane k)) ∧
      (∀ k ≤ A.vlen.val, (∀ i ≤ A.vlen.val, (A.lane k).toInt ≤ (A.lane i).toInt) → Gives s (.rmin a d t q) d t (laneReg .i32 0 fun _ => A.lane k))) ∧
    (f.floating = true →
      Gives s (.rsum a d t q) d t (mkReg f 0 (treeReduce (sumNode (x.opIn a 24 24)) 5 (es.map (canonElem f)) x.pl.lfsr).1) ∧
      Gives s (.rmax a d t q) d t (mkReg f 0 (treeReduce (pickNode f false) 5 (es.map (canonElem f)) x.pl.lfsr).1) ∧
      Gives s (.rmin a d t q) d t (mkReg f 0 (treeReduce (pickNode f true) 5 (es.map (canonElem f)) x.pl.lfsr).1) ∧
      Gives s (.ramax a d t q) d t
        (mkReg f 0 (treeReduce (pickNode f false) 5 (es.map fun e => if (valueOf f e).isNan then f.float.nanEnc else e % f.float.signBit) x.pl.lfsr).1))

/-- R253, R334: the tree of a reduction. A list of at most 2^k elements has one root at k levels; one level more passes it through when the second
half is absent and else combines the roots of the two halves. The nodes of a level are taken in order, and stochastic RSUM steps the LFSR at each. The
node of a floating RSUM is the exact sum rounded in f, that of RMAX, RMIN and RAMAX is pick. -/
def Claim.ReductionTree : Prop :=
  (∀ (g : Nat → Nat → Nat) (k : Nat) (xs : List Nat) (l : Word),
    let op := fun a b (l : Word) => (g a b, l)
    let root := fun (k : Nat) (xs : List Nat) => (treeReduce op k xs l).1
    (xs ≠ [] → xs.length ≤ 2 ^ k → ∃ a, root k xs = [a]) ∧ (∀ a, root 0 [a] = [a]) ∧
    (xs.length ≤ 2 ^ k → root (k + 1) xs = root k xs) ∧
    (2 ^ k < xs.length → xs.length ≤ 2 ^ (k + 1) →
      ∀ a b, root k (xs.take (2 ^ k)) = [a] → root k (xs.drop (2 ^ k)) = [b] → root (k + 1) xs = [g a b])) ∧
  (∀ (op : Nat → Nat → Word → Nat × Word) (a b c d : Nat) (l : Word),
    let p := op a b l
    let q := op c d p.2
    let r := op p.1 q.1 q.2
    treeReduce op 2 [a, b, c, d] l = ([r.1], r.2)) ∧
  ∀ (x : OpIn) (a b : Nat) (l : Word), x.f.floating = true →
    let z := (valueOf x.f a).add x.down (valueOf x.f b)
    (x.srnd ≠ 4 → sumNode x a b l = (roundTo x.f x.srnd false 0 z, l)) ∧
    (x.srnd = 4 → sumNode x a b l = (roundTo x.f 4 false (lfsrStep l).toNat z, lfsrStep l)) ∧
    ∀ less, pickNode x.f less a b l = (pickElem x.f less a b, l)

/-- A reduction evaluates its tree over the valid elements, level by level, and leaves the root in element 0. -/
def Obligations.ReductionResults : Prop := Claim.ReductionResults ∧ Claim.ReductionTree

/-- R318 to R322: the moves carry A whole under FMT f, MOV2 to two destinations and MOVP with B beside it under its own FMT; SEL clears the lanes
where B's is zero, SETVL sets the VLEN and clears what lies beyond, BCAST repeats one lane. -/
def Claim.MoveResults : Prop :=
  ∀ (s : State) (a b d e : BitVec 5) (t : BitVec 4) (q : Bool),
    let x := s.firing
    let A := x.src a
    let B := x.src b
    let f := x.opFmt A
    let k := (B.lane 0).toNat % 16
    x.carries f a →
    (s.tagsFit t Reg.zero (isOut d) → Gives s (.mov a d t q) d t { A with fmt := f }) ∧
    (s.tagsFit t Reg.zero (isOut d || isOut e) → d ≠ e → ((s.scl x.el).entry A.bind.toNat).refcnt ≠ 4095 →
      ∃ u, exec (.mov2 a d e t q) s = .next u ∧ Delivered s u d t { A with fmt := f } ∧ Delivered s u e t { A with fmt := f }) ∧
    (s.tagsFit t B (isOut d || isOut e) → d ≠ e →
      ∃ u, exec (.movp a b d e t q) s = .next u ∧ Delivered s u d t { A with fmt := f } ∧ Delivered s u e t B) ∧
    (s.tagsFit t B (isOut d) →
      Gives s (.sel a b d t q) d t { A with fmt := f, lanes := Lanes.ofFn fun i => if B.lane i = 0 then 0 else A.lane i } ∧
      Gives s (.setvl a b d t q) d t { A with fmt := f, vlen := vlenOf k, lanes := Lanes.ofFn fun i => if i ≤ k then A.lane i else 0 } ∧
      (setW f = true → Gives s (.bcast a b d t q) d t (laneReg f 15 fun _ => if k ≤ A.vlen.val then A.lane k else 0)))

/-- R335, R336: SHUF, ROT, EXTR and INS move whole lanes; one of A above its VLEN reads zero. -/
def Claim.LaneMoveResults : Prop :=
  ∀ (s : State) (a b d : BitVec 5) (t : BitVec 4) (q : Bool),
    let x := s.firing
    let A := x.src a
    let B := x.src b
    let C := x.acc d
    let f := x.opFmt A
    let k := (B.lane 0).toNat % 16
    let up := fun i => if i ≤ A.vlen.val then A.lane i else 0
    setW f = true → x.carries f a → s.tagsFit t B (isOut d) →
    Gives s (.shuf a b d t q) d t (laneReg f B.vlen.val fun i => up ((B.lane i).toNat % 16)) ∧
    Gives s (.rot a b d t q) d t (laneReg f A.vlen.val fun i => up ((i + k) % 16)) ∧
    Gives s (.extr a b d t q) d t (laneReg f 0 fun _ => up k) ∧
    Gives s (.ins a b d t q) d t ⟨Lanes.ofFn fun i => if i = k then A.lane 0 else C.lane i, f, vlenOf (max C.vlen.val k), 0, 0⟩

/-- Moves carry their operands, SEL, SETVL and BCAST act per lane, and SHUF, ROT, EXTR and INS move whole lanes. -/
def Obligations.MoveAndLaneMoveResults : Prop := Claim.MoveResults ∧ Claim.LaneMoveResults

/-- R264: CVT rounds each used element of A in format f with the slot's SRND and SSAT; widening uses the first sixteen. AMAX takes every valid element
of a floating A (R262); from a speculative iteration, unless it is the one that confirms it, they are held until it is confirmed (R299), and any
value stands behind an AMAXCLR that is held. -/
def Claim.CvtResult : Prop :=
  ∀ (s : State) (a d : BitVec 5) (t : BitVec 4) (q : Bool),
    let x := s.firing
    let A := x.src a
    let f := x.opFmt A
    let n := validCount A.fmt A.vlen.val
    let n' := if f.width = 32 then min n 16 else n
    let at' := fun j => if x.srnd = 4 then (lfsrAfter (j + 1) x.pl.lfsr).toNat else 0
    setW f = true → setW A.fmt = true → s.tagsFit t Reg.zero (isOut d) →
    ∃ u r, exec (.cvt a d t q) s = .next u ∧ Delivered s u d t r ∧ r.fmt = f ∧ r.vlen.val = (n' * f.width + 31) / 32 - 1 ∧
      (∀ j < f.elems, Lanes.elem r.lanes f.width j =
        if j < n' then roundTo f x.srnd x.ssat (at' j) (valueOf A.fmt (Lanes.elem A.lanes A.fmt.width j)) else 0) ∧
      let p := (u.elem x.el).plane x.ical
      let held := x.alloc.isSpec x.iter && t != 10
      let kept := A.fmt.floating && (held || x.pl.amaxHeld.any AmaxHeld.clear)
      ((p.amax, p.amaxNan) = if A.fmt.floating && !kept then amaxUpdate A (x.pl.amax, x.pl.amaxNan) else (x.pl.amax, x.pl.amaxNan)) ∧
        p.amaxHeld = x.pl.amaxHeld ++
          if kept then [⟨x.ctx, x.iter, none, (amaxUpdate A (0, false)).1, (amaxUpdate A (0, false)).2, false, !held⟩] else []

/-- R265, R255: QNT quantises A under the block mode and codebook of k7 into a new binding: the head entry of the free list, with a new generation,
one use, the firing's out tags and the blocks' scales. -/
def Claim.QntResult : Prop :=
  ∀ (s : State) (a d : BitVec 5) (t : BitVec 4) (q : Bool),
    let x := s.firing
    let A := x.src a
    let f := x.opFmt A
    let k7 := x.pl.k[7].toNat
    let c := s.scl x.el
    let book := BitVec.ofNat 6 (bits k7 11 6)
    let o := opQnt (bits k7 13 12) (c.bookNats book) (x.opIn a 24 24)
    setF A.fmt = true → (f = .c4 → c.bookUse x.ctx book = []) → c.canAlloc (x.outCtx t) = true → s.tagsFit t Reg.zero (isOut d) →
    ∃ u n, c.head = some n ∧ exec (.qnt a d t q) s = .next u ∧
      Delivered s u d t { o.1 with bind := .ofNat 11 n, bgen := (c.entry n).gen + 1 } ∧
      (u.scl x.el).entry n =
        { bound := true, ctx := x.outCtx t, gen := (c.entry n).gen + 1, refcnt := 1, fmt := f, blk := .ofNat 2 (bits k7 13 12), cbook := book,
          oiter := x.outIter t (s.launch x.launch).alloc0.next Reg.zero, olaunch := .ofNat 12 x.launch, scale := o.2.1.map (BitVec.ofNat 8) }

/-- R265: QNT's table. A block of the source has scale 255 when I8 or C4 meets a NaN, 127 when no finite value but zero stands in it, and else
floor(log2 of its largest finite magnitude) - emax + 127 within 0 to 254, where emax is 8 for E4, 15 for E5, 6 for I8 and the codebook's own for C4.
Under SRND 0 to 3 an element is 0 under scale 255, a code of the codebook for C4, and else the value scaled and rounded. -/
def Claim.QntFollowsTheTable : Prop :=
  ∀ (blk : Nat) (cb : List Nat) (x : OpIn), setF x.a.fmt = true → setN x.f = true → blk ≤ 2 → cb.length = 16 →
    let o := opQnt blk cb x
    let n := validCount x.a.fmt x.a.vlen.val
    let v := fun j => valueOf x.a.fmt (Lanes.elem x.a.lanes x.a.fmt.width j)
    let b := blkElems blk
    let scale := fun i => o.2.1.getD i 0
    let entry := fun k => decodeFloat Fmt.b16.float (cb.getD k 0)
    let emax := fun z : Int =>
      (x.f = .e4 → z = 8) ∧ (x.f = .e5 → z = 15) ∧ (x.f = .i8 → z = 6) ∧
        (x.f = .c4 → NoMagnitude entry (· < 16) ∧ z = 0 ∨ TopLog entry (· < 16) z)
    o.1.fmt = x.f ∧ o.1.vlen.val = (n * x.f.width + 31) / 32 - 1 ∧ o.2.1.length = (if x.f = .c4 then 128 else 64) / b ∧
    (∀ i < o.2.1.length,
      let inBlk := fun j => b * i ≤ j ∧ j < b * i + b ∧ j < n
      let nan := (x.f = .i8 ∨ x.f = .c4) ∧ ∃ j, inBlk j ∧ v j = .nan
      (nan → scale i = 255) ∧ (¬nan → NoMagnitude v inBlk → scale i = 127) ∧
        (¬nan → ∀ top, TopLog v inBlk top → ∃ z, emax z ∧ scale i = (min (max (top - z + 127) 0) 254).toNat)) ∧
    ∀ j < n, x.srnd < 4 →
      let y := (v j).scale (127 - (scale (j / b) : Int))
      Lanes.elem o.1.lanes x.f.width j =
        if scale (j / b) = 255 then 0 else if x.f = .c4 then c4Code cb y else roundTo x.f x.srnd x.ssat 0 y

/-- R265: c4_code. A finite y takes the lowest of the nearest finite entries, and without one the infinity of its sign, or else the other; an infinite
y takes its own infinity, or else the outermost finite entry on its side, or else the other infinity; without any entry but NaNs the code is 0. -/
def Claim.CodebookCodes : Prop :=
  ∀ (cb : List Nat) (y : Exact), cb.length = 16 →
    let entry := fun k => decodeFloat Fmt.b16.float (cb.getD k 0)
    let finite := fun k => k < 16 ∧ ∃ s m e, entry k = .fin s m e false
    let first := fun k (z : Exact) => entry k = z ∧ ∀ i < k, entry i ≠ z
    let k := c4Code cb y
    k < 16 ∧ ((∀ i < 16, entry i = .nan) → k = 0) ∧
    (∀ s m e, y = .fin s m e false →
      ((∃ i, finite i) → finite k ∧
        ∀ i, finite i → (distFin (entry k) y).cmp (distFin (entry i) y) ≠ .gt ∧
          (i < k → (distFin (entry k) y).cmp (distFin (entry i) y) = .lt)) ∧
      ((∀ i, ¬finite i) → (∃ i < 16, entry i = .inf s) → first k (.inf s)) ∧
      ((∀ i, ¬finite i) → (∀ i < 16, entry i ≠ .inf s) → (∃ i < 16, entry i = .inf (!s)) → first k (.inf (!s)))) ∧
    ∀ s, y = .inf s →
      ((∃ i < 16, entry i = .inf s) → first k (.inf s)) ∧
      ((∀ i < 16, entry i ≠ .inf s) →
        ((∃ i, finite i) → finite k ∧
          ∀ i, finite i → (entry i).cmp (entry k) ≠ (if s then .lt else .gt) ∧
            (i < k → (entry i).cmp (entry k) = if s then .gt else .lt)) ∧
        ((∀ i, ¬finite i) → (∃ i < 16, entry i = .inf (!s)) → first k (.inf (!s))))

/-- R266: a DQNT part gives scaled values rounded under SSAT 0. A part before the last moves the slot's part counter on and leaves A queued; the last
returns it to zero. -/
def Claim.DqntParts : Prop :=
  ∀ (s : State) (a d : BitVec 5) (t : BitVec 4) (q : Bool),
    let x := s.firing
    let A := x.src a
    let f := x.opFmt A
    let c := s.scl x.el
    let e := c.entry A.bind.toNat
    let k := x.pl.part[x.slot].toNat
    let last := decide (dqntParts f A ≤ k + 1)
    let t' := if last || everyPart t then t else 0
    setN A.fmt = true → c.read x.ctx A = [] → s.tagsFit t' Reg.zero (isOut d) →
    ∃ u, exec (.dqnt a d t q) s = .next u ∧
      Delivered s u d t' (opDqnt k e.blk.toNat e.bytes (c.bookNats e.cbook) (x.opIn a 24 24)).1 ∧
      ((u.elem x.el).plane x.ical).part[x.slot] = (if last then 0 else BitVec.ofNat 3 (k + 1)) ∧
      (last = false → u.scl x.el = c ∧ ∀ ch, (u.elem x.el).queue x.ical ch = (s.elem x.el).queue x.ical ch)

/-- R245, R266: DQNT's part k takes elements k·c to min(n, (k+1)c) - 1 of A. Under SRND 0 to 3 each is its value times 2^(e - 127), e its scale byte,
rounded under SSAT 0; a C4 code stands for its codebook entry, and scale byte 255 gives a NaN. -/
def Claim.DqntFollowsTheTable : Prop :=
  ∀ (k blk : Nat) (scales cb : List Nat) (x : OpIn),
    setN x.a.fmt = true → setF x.f = true → x.srnd < 4 → k * x.f.elems < validCount x.a.fmt x.a.vlen.val →
    let o := (opDqnt k blk scales cb x).1
    let count := min x.f.elems (validCount x.a.fmt x.a.vlen.val - k * x.f.elems)
    o.fmt = x.f ∧ o.vlen.val = (count * x.f.width + 31) / 32 - 1 ∧
    ∀ j < x.f.elems,
      let i := k * x.f.elems + j
      let e := scales.getD (i / blkElems blk) 0
      let code := Lanes.elem x.a.lanes x.a.fmt.width i
      let v := if x.a.fmt = .c4 then decodeFloat Fmt.b16.float (cb.getD code 0) else valueOf x.a.fmt code
      Lanes.elem o.lanes x.f.width j =
        if count ≤ j then 0 else if e = 255 then x.f.float.nanEnc else roundTo x.f x.srnd false 0 (v.scale ((e : Int) - 127))

/-- CVT rounds into a format, QNT quantises into a new scale binding, and DQNT gives the scaled values part by part. -/
def Obligations.ConversionResults : Prop := Claim.CvtResult ∧ Claim.QntResult ∧ Claim.QntFollowsTheTable ∧ Claim.CodebookCodes ∧ Claim.DqntParts ∧ Claim.DqntFollowsTheTable

/-- R267, R268: SBIND, SPOW2, SADDE, SMAX, SPROD and SRENORM give A's body under a new binding whose entry copies A's with one use and the scale
bytes of the tables; B's binding is read after A's use (R260). -/
def Claim.BindingResults : Prop :=
  ∀ (s : State) (a b d : BitVec 5) (t : BitVec 4) (q : Bool),
    let x := s.firing
    let A := x.src a
    let B := x.src b
    let f := x.opFmt A
    let c := s.scl x.el
    let ea := c.entry A.bind.toNat
    let eb := c.entry B.bind.toNat
    let n := bytesInUse ea.fmt ea.blk.toNat
    let sa := fun i => ea.bytes.getD i 0
    let sb := fun i => eb.bytes.getD i 0
    let clamp := fun z : Int => (min (max z 0) 254).toNat
    let nan2 := fun (u v w : Nat) => if u = 255 ∨ v = 255 then 255 else w
    let made := fun (i : Instr) (useB : Bool) (bytes : List Nat) =>
      (c.bindUses useB q A B).canAlloc (x.outCtx t) = true →
      ∃ u m, (c.bindUses useB q A B).head = some m ∧ exec i s = .next u ∧
        Delivered s u d t { A with fmt := f, bind := .ofNat 11 m, bgen := ((c.bindUses useB q A B).entry m).gen + 1 } ∧
        (u.scl x.el).entry m =
          { ea with bound := true, ctx := x.outCtx t, gen := ((c.bindUses useB q A B).entry m).gen + 1, refcnt := 1,
                    oiter := x.outIter t (s.launch x.launch).alloc0.next B, olaunch := .ofNat 12 x.launch, scale := bytes.map (BitVec.ofNat 8) }
    setN f = true → x.carries f a → c.read x.ctx A = [] → s.tagsFit t B (isOut d) →
    made (.sbind a b d t q) false ((List.range n).map fun i => (Lanes.byte B.lanes i).toNat) ∧
    made (.spow2 a b d t q) false ((List.range n).map fun i => if sa i = 255 then 255 else clamp (sa i + (B.lane 0).toInt)) ∧
    made (.srenorm a b d t q) false (srenormBytes x.srnd B (ea.bytes.take n) x.pl.lfsr).1 ∧
    (B.fmt.scaled = true → (if q then c else c.use A.bind.toNat).read x.ctx B = [] →
      made (.sprod a b d t q) true ((List.range n).map fun i => nan2 (sa i) (sb 0) (clamp (sa i + sb 0 - 127))) ∧
      (ea.blk = eb.blk → n = bytesInUse eb.fmt eb.blk.toNat →
        made (.sadde a b d t q) true ((List.range n).map fun i => nan2 (sa i) (sb i) (clamp (sa i + sb i - 127))) ∧
        made (.smax a b d t q) true ((List.range n).map fun i => nan2 (sa i) (sb i) (max (sa i) (sb i)))))

/-- R268: SRENORM's table. With a = |lane 0 of B| from 2^E to below 2^(E + 1), d is E or E + 1 as SRND says, and each scale byte but a NaN becomes
s - d within 0 to 254; a zero a changes none, an infinite one sets 0 and a NaN 255. -/
def Claim.SrenormFollowsTheTable : Prop :=
  ∀ (srnd : Nat) (b : Reg) (sa : List Nat) (l : Word), srnd ≤ 4 → (∀ z ∈ sa, z ≤ 255) →
    let a := decodeFloat Fmt.f32.float (b.lane 0).toNat
    let o := (srenormBytes srnd b sa l).1
    let below := fun y z : Exact => y.cmp z = .lt
    (a = .nan → o = sa.map fun _ => 255) ∧ (∀ s, a = .inf s → o = sa.map fun _ => 0) ∧ (∀ s e, a = .fin s 0 e false → o = sa) ∧
    ∀ s m e E, a = .fin s m e false → m ≠ 0 → ¬below (.fin false m e false) (.fin false 1 E false) →
      below (.fin false m e false) (.fin false 1 (E + 1) false) →
      let one := (Exact.fin false m e false).cmp (.fin false 1 E false) = .eq
      let d : Int → Prop := fun d =>
        (srnd = 0 → (below (.fin false (m * m) (2 * e) false) (.fin false 1 (2 * E + 1) false) ∧ d = E) ∨
          (¬below (.fin false (m * m) (2 * e) false) (.fin false 1 (2 * E + 1) false) ∧ d = E + 1)) ∧
        (srnd = 1 → ((0 ≤ E ∨ one) ∧ d = E) ∨ (E < 0 ∧ ¬one ∧ d = E + 1)) ∧
        (srnd = 2 → (one ∧ d = E) ∨ (¬one ∧ d = E + 1)) ∧ (srnd = 3 → d = E) ∧
        (srnd = 4 →
          let r := (lfsrStep l).toNat
          let small := ¬below (.fin false m (e + 32) false) (.fin false (r + 2 ^ 32) E false)
          (small ∧ d = E + 1) ∨ (¬small ∧ d = E))
      ∃ z, d z ∧ o = sa.map fun s => if s = 255 then 255 else (min (max ((s : Int) - z) 0) 254).toNat

/-- R257, R269, R339: SREL takes one use of A's binding and DROP one for each block-scaled source, none with Q = 1; nothing is written. -/
def Claim.ReleaseUses : Prop :=
  ∀ (s : State) (a b : BitVec 5) (t : BitVec 4) (q : Bool),
    let x := s.firing
    let A := x.src a
    let B := x.src b
    let c := s.scl x.el
    let n := A.bind.toNat
    (setN (x.opFmt A) = true → x.carries (x.opFmt A) a → c.read x.ctx A = [] → s.tagsFit t Reg.zero false →
      ∃ u, exec (.srel a t q) s = .next u ∧ u.scl x.el = if q then c else c.use n) ∧
    (s.tagsFit t B false →
      ∃ u, exec (.drop a b t q) s = .next u ∧
        u.scl x.el =
          (if q then c
           else
            let c := if A.fmt.scaled then c.use n else c
            if b ≠ 24 ∧ B.fmt.scaled = true then c.use B.bind.toNat else c)) ∧
    (∀ e : SclEntry, c.entry n = e → e.bound = true → 1 < e.refcnt.toNat → (c.use n).entry n = { e with refcnt := e.refcnt - 1 }) ∧
    (∀ e : SclEntry, c.entry n = e → e.bound = true → e.refcnt.toNat = 1 →
      (c.use n).entry n = { e with bound := false, refcnt := 0 } ∧ (c.use n).freed = c.freed ++ [n])

/-- R269: SLDCB loads a codebook that is free or the context's own with elements 0 to 15 of a B16 A, zero where not valid. -/
def Claim.SldcbResult : Prop :=
  ∀ (s : State) (a b : BitVec 5) (t : BitVec 4) (q : Bool),
    let x := s.firing
    let A := x.src a
    let B := x.src b
    let n : BitVec 6 := (B.lane 0).setWidth 6
    x.opFmt A = .b16 → x.carries .b16 a → s.tagsFit t B false → (∀ p, tabFind n.toNat (s.scl x.el).books = some p → p.1 = x.ctx) →
    ∃ u, exec (.sldcb a b t q) s = .next u ∧
      tabFind n.toNat (u.scl x.el).books =
        some (x.ctx, (List.range 16).map fun j => BitVec.ofNat 16 (if j < validCount .b16 A.vlen.val then Lanes.elem A.lanes 16 j else 0))

/-- The scale forms bind A under new scales, SREL and DROP release uses, and SLDCB loads a codebook. -/
def Obligations.ScaleFormResults : Prop := Claim.BindingResults ∧ Claim.SrenormFollowsTheTable ∧ Claim.ReleaseUses ∧ Claim.SldcbResult

/-- R270, R299, R341: AMAXRD writes an F32 token of VLEN 1 with AMAX and its flag as 1.0 or 0.0. What a speculative or killed iteration gave does not
count, and what one confirmed gave does. AMAXCLR clears both, and drops what is held for them; that of a speculative iteration is held. SEED sets the LFSR, a zero becoming 0x8000_0000, and RAND writes sixteen successive states. -/
def Claim.AmaxAndLfsr : Prop :=
  ∀ (s : State) (a d : BitVec 5) (t : BitVec 4) (q : Bool),
    let x := s.firing
    let A := x.src a
    let p := fun u : State => (u.elem x.el).plane x.ical
    let r := x.pl.readAmax x.alloc
    let held := x.alloc.isSpec x.iter && t != 10
    (s.tagsFit t Reg.zero (isOut d) →
      Gives s (.amaxrd d t) d t (laneReg .f32 1 fun i => if i = 0 then r.1 else if r.2 then 0x3F800000 else 0)) ∧
    ((∀ h ∈ x.pl.amaxHeld, h.fixed = false ∧ (x.alloc.isSpec h.iter = true ∨ x.alloc.isKilled h.iter = true)) → r = (x.pl.amax, x.pl.amaxNan)) ∧
    (∀ h, x.pl.amaxHeld = [h] → h.desc = none → h.clear = false → x.alloc.isSpec h.iter = false → x.alloc.isKilled h.iter = false →
      r = amaxJoin (x.pl.amax, x.pl.amaxNan) (h.amax, h.nan)) ∧
    (s.tagsFit t Reg.zero false → held = false →
      ∃ u, exec (.amaxclr t) s = .next u ∧ (p u).amax = 0 ∧ (p u).amaxNan = false ∧ ∀ h ∈ (p u).amaxHeld, h.desc ≠ none) ∧
    (s.tagsFit t Reg.zero false → held = true →
      ∃ u, exec (.amaxclr t) s = .next u ∧ (p u).amax = x.pl.amax ∧ (p u).amaxNan = x.pl.amaxNan ∧
        (p u).amaxHeld = x.pl.amaxHeld ++ [⟨x.ctx, x.iter, none, 0, false, true, false⟩]) ∧
    (s.tagsFit t Reg.zero false →
      ∃ u, exec (.seed a t q) s = .next u ∧ (p u).lfsr = if A.lane 0 = 0 then 0x80000000 else A.lane 0) ∧
    (s.tagsFit t Reg.zero (isOut d) →
      ∃ u, exec (.rand d t) s = .next u ∧ Delivered s u d t (laneReg .i32 15 fun i => lfsrAfter (i + 1) x.pl.lfsr) ∧
        (p u).lfsr = lfsrAfter 16 x.pl.lfsr)

/-- R338: EXIT writes A under FMT f and adds one to the exit count of the firing's context; where that would pass EXITS it raises EL_EXIT_EXCESS
(0x06) and counts nothing. -/
def Claim.ExitCounts : Prop :=
  ∀ (s : State) (a d : BitVec 5) (t : BitVec 4) (q : Bool),
    let x := s.firing
    let A := x.src a
    let f := x.opFmt A
    x.carries f a → s.tagsFit t Reg.zero (isOut d) →
    (x.pl.exitCount x.ctx + 1 ≤ Hdr.exits x.pl.hdr →
      ∃ u, exec (.exit a d t q) s = .next u ∧ Delivered s u d t { A with fmt := f } ∧
        ((u.elem x.el).plane x.ical).exitCount x.ctx = x.pl.exitCount x.ctx + 1) ∧
    (Hdr.exits x.pl.hdr < x.pl.exitCount x.ctx + 1 → FaultTaken s (exec (.exit a d t q) s) 0x06 (Hdr.exits x.pl.hdr))

/-- AMAXRD, AMAXCLR, SEED and RAND act on their counters, and EXIT counts an exit token or faults beyond EXITS. -/
def Obligations.CounterAndExitResults : Prop := Claim.AmaxAndLfsr ∧ Claim.ExitCounts

/-- R340: TRAP raises EL_TRAP (0x07) with lane 0 of A in AUX. -/
def Claim.TrapFaults : Prop :=
  ∀ (s : State) (a : BitVec 5) (t : BitVec 4) (q : Bool), s.tagsFit t Reg.zero false →
    FaultTaken s (exec (.trap a t q) s) 0x07 ((s.firing.src a).lane 0).toNat

/-- R315: an operating format outside the instruction's set, or an element operand of another FMT, raises EL_FORMAT (0x00) with the select and the FMT
found in AUX, and nothing is written; said of ADD. -/
def Claim.FormatFault : Prop :=
  ∀ (s : State) (a b d : BitVec 5) (t : BitVec 4) (q : Bool),
    let x := s.firing
    let A := x.src a
    let B := x.src b
    (x.opFmt A ≠ .i32 → FaultTaken s (exec (.add a b d t q) s) 0x00 (a.toNat * 256 + (x.opFmt A).code)) ∧
    (x.opFmt A = .i32 → x.carries .i32 a → ¬x.carries .i32 b → FaultTaken s (exec (.add a b d t q) s) 0x00 (b.toNat * 256 + B.fmt.code))

/-- R129, R93: a descriptor whose index names no usable entry raises MEM_BAD_RESOURCE (0x40) with the index in AUX, and nothing is issued; said of LD. -/
def Claim.BadResourceFaults : Prop :=
  ∀ (s : State) (a d : BitVec 5) (m : BitVec 2) (t : BitVec 4) (q : Bool),
    let x := s.firing
    let w0 := x.pl.k[2 * m.toNat]'(by omega)
    (∀ r, s.opRes x.el x.launch w0 = some r → r.usable = false) → x.outAlias d t Reg.zero = [] → s.tagsFit t Reg.zero false →
    FaultTaken s (exec (.ld a d m t q) s) 0x40 (bits w0.toNat 31 16)

/-- TRAP raises EL_TRAP, an operand of another format EL_FORMAT, and an index without a usable entry MEM_BAD_RESOURCE. -/
def Obligations.FaultingForms : Prop := Claim.TrapFaults ∧ Claim.FormatFault ∧ Claim.BadResourceFaults

/-! ### The J page -/

/-- R385, R387: every memory, wait and fence form that meets no fault issues its request at commit. -/
def Obligations.MemoryFormsIssue : Prop :=
  ∀ (s : State) (a b d : BitVec 5) (c : BitVec 3) (m : BitVec 2) (t : BitVec 4) (q : Bool),
    let x := s.firing
    let A := x.src a
    let guarded := (x.heads.map fun p => p.1.body).getD Reg.zero
    (s.memFits .ld a 24 d m t → Issues s (.ld a d m t q) .ld A 24 d m t) ∧
    (s.memFits .st a b d m t → Issues s (.st a b d m t q) .st A b d m t) ∧
    (s.memFits .ldv a b d m t → Issues s (.ldv a b d m t q) .ldv A b d m t) ∧
    (s.memFits .stv a b d m t → Issues s (.stv a b d m t q) .stv A b d m t) ∧
    (s.memFits .recl a b d m t → Issues s (.recl a b d m t q) .recl A b d m t) ∧
    (s.memFits .gath a 24 d m t → Issues s (.gath a d m t q) .gath A 24 d m t) ∧
    (s.memFits .scat a b d m t → Issues s (.scat a b d m t q) .scat A b d m t) ∧
    (s.memFits .pref a 24 24 m t → Issues s (.pref a m t q) .pref A 24 24 m t) ∧
    (s.memFits .fence 24 24 d m t → Issues s (.fence d m t) .fence guarded 24 d m t) ∧
    (s.memFits .fencex 24 24 d m t → Issues s (.fencex d m t) .fencex guarded 24 d m t) ∧
    (s.memFits .waita a b (.ofNat 5 (8 + c.toNat)) m t → Issues s (.waita a b c m t q) .waita A b (.ofNat 5 (8 + c.toNat)) m t) ∧
    (s.memFits .waitc a 24 d m t → Issues s (.waitc a d m t q) .waitc A 24 d m t) ∧
    (s.memFits .signal a b d m t → Issues s (.signal a b d m t q) .signal A b d m t)

/-- R389: the reply of an LD of an unversioned scratchpad resource delivers, for a launch that is not deterministic and holds no writes, the words of
its window from the offset in lane 0 of A; the reply of an ST writes the bytes of B there and no other byte, and its acknowledgement is B. -/
def Obligations.ScratchpadAccess : Prop :=
  ∀ (s : State) (r : RingAt) (o : MemOp) (e : Res),
    let n := (o.a.lane 0).toNat
    let base := s.spadBase o e
    s.opRes (ElemAt.ofKey o.elem) o.launch o.w0 = some e → e.space = 1 → e.vers = false →
    (o.kind = .ld → s.heldBefore o = [] →
      s.perform o = .done s ⟨Lanes.ofFn fun i => if i ≤ o.a.vlen.val then .ofNat 32 (spadWord (s.ring (ElemAt.ofKey o.elem).at_.ring).spad (base + n + 4 * i)) else 0,
        o.f, o.a.vlen, 0, 0⟩) ∧
    (o.kind = .st → o.b.fmt.scaled = false → r = (ElemAt.ofKey o.elem).at_.ring →
      base + n + 4 * (o.b.vlen.val + 1) ≤ spadBytes → (∀ d, Memory.wf (s.ring d).spad = true) →
      ∃ t, s.perform o = .done t { o.b with bind := 0, bgen := 0 } ∧ t.hbm = s.hbm ∧ t.hostMem = s.hostMem ∧
        (∀ i < 4 * (o.b.vlen.val + 1), spadGet (t.ring r).spad (base + n + i) = Lanes.byte o.b.lanes i) ∧
        ∀ a < spadBytes, a < base + n ∨ base + n + 4 * (o.b.vlen.val + 1) ≤ a → spadGet (t.ring r).spad a = spadGet (s.ring r).spad a)

/-- R400, R401: SEND, SENDN and LAUNCH enter their message, substituted and stamped, at the end of the element's port; SEND and LAUNCH owe the sent
token to dA until the target accepts. A message of no use raises JN_MSG_INVALID (0x49, R408) with its header and the reason. -/
def Claim.MessagesEnterPort : Prop :=
  ∀ (s : State) (a d : BitVec 5) (m : BitVec 2) (t : BitVec 4) (q : Bool),
    let x := s.firing
    let A := x.src a
    let b := m.toNat
    let v := (s.launch x.launch).alloc0.next
    let fits := fun (launch : Bool) (d : BitVec 5) =>
      msgReason (x.target b launch).1 (bits (x.header b launch).toNat 31 24) (x.target b launch).2 launch = 0 ∧ x.outAlias d t Reg.zero = [] ∧
        s.tagsFit t Reg.zero false
    let sends := fun (i : Instr) (launch : Bool) (d : BitVec 5) =>
      ∃ u msg, exec i s = .next u ∧ (u.elem x.el).port = (s.elem x.el).port ++ [msg] ∧ msg.hdr = x.header b launch ∧
        msg.p = ⟨x.pl.param b 0, x.pl.param b 1, x.pl.param b 2, x.pl.param b 3⟩ ∧ msg.ctx = x.ctx ∧ msg.pasid = (s.launch x.launch).pasid ∧
        msg.sender = .elem x.el.key x.ical x.slot x.launch x.ctx x.iter ∧
        (d = 24 → msg.sent = none) ∧
        (d ≠ 24 → (∃ k, msg.sent = some (s.opCtr, k) ∧ (t ≠ 7 → k.body = A)) ∧
          (u.elem x.el).pend = (s.elem x.el).pend ++ [⟨s.opCtr, x.ical, d, x.outCtx t, x.outIter t v Reg.zero⟩])
    (fits false d → sends (.send a d m t q) false d) ∧
    (fits false 24 → sends (.sendn a m t q) false 24) ∧
    (fits true d → sends (.launch a d m t q) true d) ∧
    let why := fun launch : Bool => msgReason (x.target b launch).1 (bits (x.header b launch).toNat 31 24) (x.target b launch).2 launch
    let refused := fun (i : Instr) (launch : Bool) (d : BitVec 5) =>
      why launch ≠ 0 → x.outAlias d t Reg.zero = [] → s.tagsFit t Reg.zero false →
        FaultTaken s (exec i s) 0x49 ((x.header b launch).toNat * 2 ^ 32 + why launch)
    refused (.send a d m t q) false d ∧ refused (.sendn a m t q) false 24 ∧ refused (.launch a d m t q) true d

/-- R400, R401: the oldest message of the port goes to the queue of the engine that its header names, when that has room: an M-element's queue of 4, the
stream engine of 128, the sparse-update engine of 64, or the controller; the sent token then goes to the firing's destination. A message without room
stays, and nothing changes. -/
def Claim.PortMessageAccepted : Prop :=
  ∀ (s : State) (e : ElemAt) (m : Msg) (rest : List Msg),
    let r := RingAt.ofNum m.inst
    let x := s.ring r
    let M := e.mate (10 + m.inst % 4)
    let ical := match m.sender with
      | .elem _ i _ _ _ _ => i
      | .relay _ _ => false
    let msgs := fun u : State => if ical then (u.elem M).msgqI else (u.elem M).msgq
    let full := m.cls = 2 ∧ 4 ≤ (msgs s).length ∨ m.cls = 4 ∧ 128 ≤ x.streamIn.length + x.transfers.length ∨
      m.cls = 5 ∧ 64 ≤ x.sparseIn.length + x.sparse.length
    (s.elem e).port = m :: rest →
    (s.portHolds m = true ∨ full → exec (.messageAccept e) s = .next s) ∧
    (s.portHolds m = false → ¬full →
      ∃ t, exec (.messageAccept e) s = .next t ∧ (t.elem e).port = rest ∧
        (m.cls = 2 → msgs t = msgs s ++ [m]) ∧ (m.cls = 4 → (t.ring r).streamIn = x.streamIn ++ [m]) ∧
        (m.cls = 5 → (t.ring r).sparseIn = x.sparseIn ++ [m]) ∧ (m.cls = 6 → (t.ring r).procIn = x.procIn ++ [m]) ∧
        ∀ op k, m.sent = some (op, k) → Settles s t e ical op k)

/-- SEND, SENDN and LAUNCH enter the element's port, and the oldest message of the port goes to its engine when that has room. -/
def Obligations.MessagesEnterEngines : Prop := Claim.MessagesEnterPort ∧ Claim.PortMessageAccepted

/-- R403: TKT appends (ticket, arc, token), counts, and writes its ticket; GRANT removes the oldest entry, writes its token and opens its grant; REPLY
sends A on out((b + c) mod 8) under the oldest open grant's tags and pops it. -/
def Claim.TicketedArbiter : Prop :=
  ∀ (s : State) (a d : BitVec 5) (c base : BitVec 3) (t : BitVec 4) (q : Bool),
    let x := s.firing
    let p := fun u : State => (u.elem x.el).plane x.ical
    (∀ k, x.chan c.toNat = some k → s.tagsFit t Reg.zero (isOut d) →
      ∃ u, exec (.tkt c d t q) s = .next u ∧ Delivered s u d t (laneReg .i32 0 fun _ => x.pl.tcount.setWidth 32) ∧
        (p u).tickets = x.pl.tickets ++ [⟨k, Fin.ofNat 8 c.toNat, x.pl.tcount⟩] ∧ (p u).tcount = x.pl.tcount + 1) ∧
    (∀ k rest, x.pl.tickets = k :: rest → s.tagsFit t Reg.zero false → ({ x with ctx := k.tok.ctx, iter := k.tok.iter } : Firing).outAlias d t Reg.zero = [] →
      ∃ u, exec (.grant a d t q) s = .next u ∧ (p u).tickets = rest ∧ (p u).grants = x.pl.grants ++ [⟨k.arc, k.tok.ctx, k.tok.iter⟩] ∧
        (∀ n : Fin 8, d.toNat = n.val → (p u).d[n] = k.tok.body) ∧
        ∀ n : Fin 8, d.toNat = 8 + n.val → ∃ y : LinkTok, (u.elem x.el).out[n] = (s.elem x.el).out[n] ++ [y] ∧ (t ≠ 7 → y.tok.body = k.tok.body) ∧
          (t = 0 → y.tok.ctx = k.tok.ctx ∧ y.tok.iter = k.tok.iter)) ∧
    (∀ g rest, x.pl.grants = g :: rest → s.tagsFit t Reg.zero false →
      ({ x with ctx := g.ctx, iter := g.iter } : Firing).outAlias (.ofNat 5 (8 + (base.toNat + g.arc.val) % 8)) t Reg.zero = [] →
      ∃ u, exec (.reply a base t q) s = .next u ∧ (p u).grants = rest ∧
        let n : Fin 8 := Fin.ofNat 8 (base.toNat + g.arc.val)
        ∃ y : LinkTok, (u.elem x.el).out[n] = (s.elem x.el).out[n] ++ [y] ∧ (t ≠ 7 → y.tok.body = x.src a) ∧
          (t = 0 → y.tok.ctx = g.ctx ∧ y.tok.iter = g.iter))

/-- R404: each form that shares a V mnemonic has the V effect; the arithmetic and compares require I32. -/
def Claim.SharedFormResults : Prop :=
  ∀ (s : State) (a b d e : BitVec 5) (t : BitVec 4) (q : Bool),
    let x := s.firing
    let A := x.src a
    let B := x.src b
    let f := x.opFmt A
    let v := min A.vlen.val B.vlen.val
    let mask := fun p : Bool => if p then (0xFFFFFFFF : Word) else 0
    (x.carries f a → s.tagsFit t Reg.zero (isOut d) → Gives s (.jMov a d t q) d t { A with fmt := f }) ∧
    (x.carries f a → s.tagsFit t Reg.zero (isOut d || isOut e) → d ≠ e → ((s.scl x.el).entry A.bind.toNat).refcnt ≠ 4095 →
      ∃ u, exec (.jMov2 a d e t q) s = .next u ∧ Delivered s u d t { A with fmt := f } ∧ Delivered s u e t { A with fmt := f }) ∧
    (f = .i32 → x.carries f a → s.tagsFit t B (isOut d) →
      Gives s (.jAnd a b d t q) d t (laneReg .i32 v fun i => A.lane i &&& B.lane i) ∧
      Gives s (.jShl a b d t q) d t (laneReg .i32 v fun i => A.lane i <<< ((B.lane i).toNat % 32)) ∧
      (x.carries f b →
        Gives s (.jAdd a b d t q) d t (laneReg .i32 v fun i => toI32 x.ssat ((A.lane i).toInt + (B.lane i).toInt)) ∧
        Gives s (.jSub a b d t q) d t (laneReg .i32 v fun i => toI32 x.ssat ((A.lane i).toInt - (B.lane i).toInt)) ∧
        Gives s (.jCmpeq a b d t q) d t (laneReg .i32 v fun i => mask (A.lane i == B.lane i)) ∧
        Gives s (.jCmplt a b d t q) d t (laneReg .i32 v fun i => mask (decide ((A.lane i).toInt < (B.lane i).toInt))))) ∧
    (x.carries f a → s.tagsFit t Reg.zero (isOut d) → x.pl.exitCount x.ctx + 1 ≤ Hdr.exits x.pl.hdr →
      ∃ u, exec (.jExit a d t q) s = .next u ∧ Delivered s u d t { A with fmt := f } ∧
        ((u.elem x.el).plane x.ical).exitCount x.ctx = x.pl.exitCount x.ctx + 1) ∧
    (s.tagsFit t B false → ∃ u, exec (.jDrop a b t q) s = .next u ∧ u.scl x.el =
      (if q then s.scl x.el
       else
        let c := if A.fmt.scaled then (s.scl x.el).use A.bind.toNat else s.scl x.el
        if b ≠ 24 ∧ B.fmt.scaled = true then c.use B.bind.toNat else c)) ∧
    (s.tagsFit t Reg.zero false → FaultTaken s (exec (.jTrap a t q) s) 0x07 (A.lane 0).toNat)

/-- TKT, GRANT and REPLY keep the ticketed arbiter, and the shared mnemonics have the V effect. -/
def Obligations.JunctionRegisterForms : Prop := Claim.TicketedArbiter ∧ Claim.SharedFormResults

/-! ### Elements between firings -/

/-- R279, R278: what the hop of the oldest token of its plane does. Towards an input queue that admits it and has a free entry, a KILL token or a token
that the channel accepts enters the queue, one of another format is set aside to be steered and EL_STEERED counts it, and one of a killed iteration
is dropped, counted, and leaves an EOS|KILL token when it ended a cohort without speculation. Towards an empty pass register that admits it, it enters
the register. A token that is frozen, not admitted or without credit stays, and nothing changes. -/
def Claim.TokenArrives : Prop :=
  ∀ (s : State) (h : Hop) (ical : Bool) (k : LinkTok) (rest : List LinkTok),
    let tg := s.hopTarget h ical
    takeFirst ical (s.hopTokens h) = some (k, rest) →
    (s.moving (hopStripe h) ical = false → exec (.tokenArrival h ical) s = .next s) ∧
    (s.moving (hopStripe h) ical = true →
      (∀ (e : ElemAt) (ch : Fin 8), tg = .elem e ch →
        let al := (s.launch ((s.stripe e.at_).conf ical).launch).alloc e.at_.ring.die
        let ok := Hdr.accepts ((s.elem e).plane ical).hdr ch.val k.tok.body.fmt
        let adm := s.admits e.at_ ical (s.wraps h ical tg) k.par
        (adm = false ∨ s.queueFree e ical ch = 0 → exec (.tokenArrival h ical) s = .next s) ∧
        (adm = true → s.queueFree e ical ch ≠ 0 →
          ∃ t, exec (.tokenArrival h ical) s = .next t ∧ t.hopTokens h = rest ∧
            (k.tok.kill = true ∨ al.isKilled k.tok.iter = false ∧ ok = true →
              (t.elem e).queue ical ch = (s.elem e).queue ical ch ++ [k.tok]) ∧
            (k.tok.kill = false → al.isKilled k.tok.iter = false → ok = false →
              (t.elem e).queue ical ch = (s.elem e).queue ical ch ∧ (t.elem e).steer = (s.elem e).steer ++ [⟨ical, ch, k.tok⟩] ∧
                (t.ring e.at_.ring).elSteered = (s.ring e.at_.ring).elSteered + 1) ∧
            (k.tok.kill = false → al.isKilled k.tok.iter = true →
              (t.elem e).queue ical ch = (s.elem e).queue ical ch ++ dropped al k.tok ∧
                (t.ring e.at_.ring).elKilldrop = (s.ring e.at_.ring).elKilldrop + 1))) ∧
      (∀ (p : StripeAt) (n : Fin 16), tg = .pass p n →
        let adm := s.admits p ical (s.wraps h ical tg) k.par
        (adm = false ∨ (s.stripe p).pass[n] ≠ [] → exec (.tokenArrival h ical) s = .next s) ∧
        (adm = true → (s.stripe p).pass[n] = [] →
          ∃ t, exec (.tokenArrival h ical) s = .next t ∧ t.hopTokens h = rest ∧
            (t.stripe p).pass[n] = [{ k with par := (s.stripe p).parity ical }])))

/-- R279 case 4: of the steered tokens of planes that move, each the oldest of its channel, the first whose target has room goes to the same channel of
the element that STEER names: it enters the queue when that channel accepts it, and else raises EL_STEER_REJECT (0x01). While none has room, nothing
changes. -/
def Claim.SteeredTokenArrives : Prop :=
  ∀ (s : State) (e : ElemAt),
    let target := fun t : Steered => e.mate (Hdr.steer ((s.elem e).plane t.ical).hdr)
    let oldest := fun t : Steered => (s.elem e).steer.find? fun u => u.ical == t.ical && u.chan == t.chan
    let goes := fun t : Steered => s.moving e.at_ t.ical && oldest t == some t && decide (s.queueFree (target t) t.ical t.chan ≠ 0)
    ((s.elem e).steer.find? goes = none → exec (.steerDelivery e) s = .next s) ∧
    (∀ k, (s.elem e).steer.find? goes = some k → k.tok.kill = false →
      let g := target k
      let al := (s.launch ((s.stripe g.at_).conf k.ical).launch).alloc g.at_.ring.die
      al.isKilled k.tok.iter = false →
      ∃ t, exec (.steerDelivery e) s = .next t ∧ (t.elem e).steer = (s.elem e).steer.erase k ∧
        (Hdr.accepts ((s.elem g).plane k.ical).hdr k.chan.val k.tok.body.fmt = true →
          (t.elem g).queue k.ical k.chan = (s.elem g).queue k.ical k.chan ++ [k.tok]) ∧
        (Hdr.accepts ((s.elem g).plane k.ical).hdr k.chan.val k.tok.body.fmt = false →
          Records s t g.at_.ring.die 0x01 (k.tok.body.fmt.code * 2 ^ 8 + g.slot.val * 2 ^ 32 + k.chan.val * 2 ^ 36) 1))

/-- A token whose hop is complete enters its queue or pass register, is steered, is dropped, or stays. -/
def Obligations.TokensArrive : Prop := Claim.TokenArrives ∧ Claim.SteeredTokenArrives

/-- R280: a KILL token at the head of a queue is absorbed; one with EOS that is not speculative first sends one EOS|KILL token of its tags on every out
channel written by the slots that its channel guards, and on no other, once each has credit; until then it stays. -/
def Claim.KillTokenAbsorbed : Prop :=
  ∀ (s : State) (c : ChanAt) (ical : Bool) (k : Token) (rest : List Token),
    let outs := if k.eos && !k.spec then ((s.elem c.el).plane ical).killOuts (decide (14 ≤ c.el.slot.val)) c.chan else []
    (s.elem c.el).queue ical c.chan = k :: rest → k.kill = true →
    (s.moving c.el.at_ ical = false ∨ (∃ o ∈ outs, s.outFree c.el ical o = 0) → exec (.killAbsorb c ical) s = .next s) ∧
    (s.moving c.el.at_ ical = true → (∀ o ∈ outs, 1 ≤ s.outFree c.el ical o) →
      ∃ t, exec (.killAbsorb c ical) s = .next t ∧ (t.elem c.el).queue ical c.chan = rest ∧
        (∀ o ∈ outs, ∃ y : LinkTok, (t.elem c.el).out[o] = (s.elem c.el).out[o] ++ [y] ∧ y.ical = ical ∧ y.tok.kill = true ∧ y.tok.eos = true ∧
          y.tok.spec = false ∧ y.tok.ctx = k.ctx ∧ y.tok.iter = k.iter) ∧
        ∀ o : Fin 8, o ∉ outs → (t.elem c.el).out[o] = (s.elem c.el).out[o])

/-- R368: a KILL token at the head of in0 is absorbed; one with EOS that is not speculative, of a context that a descriptor serves, first sends EOS|KILL on
each channel that the descriptor drains on, once each has credit, and is counted as an exit, up to EXITS; until then it stays. -/
def Claim.MatrixKillAbsorbed : Prop :=
  ∀ (s : State) (e : ElemAt) (ical : Bool) (k : Token) (rest : List Token),
    let x := s.elem e
    let p := x.plane ical
    let sel := if k.eos && !k.spec then p.m.select ((s.stripe e.at_).conf ical).ctx k.ctx else none
    let outs := (sel.map fun d => if p.m.descs[d].drfmt then [0, 1] else [0, 1, 2, 3]).getD []
    x.queue ical 0 = k :: rest → k.kill = true →
    (s.moving e.at_ ical = false ∨ (∃ q ∈ outs, s.outFree e ical (Fin.ofNat 8 q) = 0) → exec (.mxKillAbsorb e ical) s = .next s) ∧
    (s.moving e.at_ ical = true → (∀ q ∈ outs, 1 ≤ s.outFree e ical (Fin.ofNat 8 q)) →
      ∃ t, exec (.mxKillAbsorb e ical) s = .next t ∧ (t.elem e).queue ical 0 = rest ∧
        (∀ q ∈ outs, ∃ y : LinkTok, (t.elem e).out[Fin.ofNat 8 q] = x.out[Fin.ofNat 8 q] ++ [y] ∧ y.tok.kill = true ∧ y.tok.eos = true ∧
          y.tok.ctx = k.ctx ∧ y.tok.iter = k.iter) ∧
        ((t.elem e).plane ical).exitCount k.ctx =
          (if outs ≠ [] ∧ p.exitCount k.ctx < Hdr.exits p.hdr then p.exitCount k.ctx + 1 else p.exitCount k.ctx))

/-- R298: the sweep of a killed iteration leaves, on the ring of each segment that has marked it killed, no non-KILL token of it in the queues, the
matching store, the staging or the parked stores of the launch's elements, and no scale entry bound for it (R258). A segment that has not marked it,
of a launch that is not cancelled, is not swept, nor a frozen victim (R307): with no other, nothing changes. -/
def Claim.KilledIterationSwept : Prop :=
  ∀ (s : State) (die : Fin 4) (entry v : BitVec 12),
    let l := launchKey die entry.toNat
    let ical := (s.launch l).ical
    (∃ t, exec (.iterKillSweep die entry v) s = .next t ∧
      ∀ g ∈ (s.launch l).segs, g.alloc.isKilled v = true → s.frozenAt l ⟨g.die, g.ring⟩ = false →
        let mine := fun k : Token => k.ctx = g.ctx ∧ k.iter = v ∧ k.kill = false
        (∀ e ∈ s.launchElems l, e.at_.ring = ⟨g.die, g.ring⟩ →
          (∀ c, ∀ k ∈ (t.elem e).queue ical c, ¬mine k) ∧ (∀ h ∈ (t.elem e).halves, h.ical = ical → ¬mine h.tok) ∧
          (∀ p ∈ (t.elem e).ready, p.ical = ical → ¬mine p.a ∧ ¬mine p.b) ∧ (∀ c : Fin 8, ∀ k ∈ (t.elem e).out[c], k.ical = ical → ¬mine k.tok) ∧
          (∀ i a b hs, .parked ical i a b hs ∈ (t.elem e).isb → ¬mine a)) ∧
        ∀ n, let y := (t.ring ⟨g.die, g.ring⟩).scl.entry n
          y.bound = true → ¬(y.ctx = g.ctx ∧ y.oiter = v ∧ y.olaunch = BitVec.ofNat 12 l)) ∧
    ((∀ g ∈ (s.launch l).segs, g.alloc.isKilled v = false ∧ (s.launch l).cancelled = false ∨ s.frozenAt l ⟨g.die, g.ring⟩ = true) → exec (.iterKillSweep die entry v) s = .next s)

/-- R296: every segment advances its own base in turn. While the value at a base is retired or killed and its unit counter is zero, the base passes it, up
to 4 values an fc; a killed value is swept first (R298). A base that cannot pass, as none of a frozen victim can (R307), stays, and with
it, unless it is killed or its launch cancelled, everything else. -/
def Claim.WindowAdvances : Prop :=
  ∀ (s : State) (die : Fin 4) (entry : BitVec 12) (l : Nat) (g : Seg),
    (exec (.windowAdvance die entry) s =
      .next ((s.launch (launchKey die entry.toNat)).segs.foldl (fun s g => s.advanceSeg (launchKey die entry.toNat) g.die) s)) ∧
    ((s.launch l).seg g.die = some g →
      ((s.sweepBase l g.die).canPass l g.die = true →
        ∃ h k, ((s.advanceSeg l g.die).launch l).seg g.die = some h ∧ 1 ≤ k ∧ k ≤ 4 ∧ h.alloc.base = g.alloc.base + .ofNat 12 k ∧
          h.alloc.span = g.alloc.span - k ∧ ∀ i < k, Alloc.gone (g.alloc.mark (g.alloc.base + .ofNat 12 i)) = true) ∧
      (s.canPass l g.die = false → g.alloc.isKilled g.alloc.base = false → (s.launch l).cancelled = false → s.advanceSeg l g.die = s))

/-- KILL tokens are absorbed and sent on, a killed iteration is swept, and base passes what has ended. -/
def Obligations.KillsAndTheWindow : Prop := Claim.KillTokenAbsorbed ∧ Claim.MatrixKillAbsorbed ∧ Claim.KilledIterationSwept ∧ Claim.WindowAdvances

/-- R282: the head of a paired channel finds the waiting half of its CTX and ITER (one less for CHB of a loop pair) and the pair joins the ready list;
with none it waits in the store while there is room, and else in its queue; a second half of one channel and iteration raises EL_MATCH_DUP (0x02), and a
value outside the window EL_TAG_ALIAS (0x03, R297). -/
def Obligations.PairsMatch : Prop :=
  ∀ (s : State) (c : ChanAt) (ical : Bool) (k : Token) (rest : List Token) (pr : Fin 8 × Fin 8 × Nat),
    let x := s.elem c.el
    let al := (s.launch ((s.stripe c.el.at_).conf ical).launch).alloc c.el.at_.ring.die
    let it := if c.chan = pr.2.1 ∧ pr.2.2 = 3 then k.iter - 1 else k.iter
    let other := if c.chan = pr.1 then pr.2.1 else pr.1
    let is := fun (ch : Fin 8) (h : Half) => h.ical == ical && h.chan == ch && h.ctx == k.ctx && h.iter == it
    let at_ := c.el.slot.val * 2 ^ 32 + c.chan.val * 2 ^ 36
    x.queue ical c.chan = k :: rest → k.kill = false → (x.plane ical).pairOf c.chan = some pr → s.moving c.el.at_ ical = true →
    (al.alias_ k.iter = true →
      ∃ t, exec (.matchStep c ical) s = .next t ∧ Records s t c.el.at_.ring.die 0x03 (k.iter.toNat * 2 ^ 16 + al.base.toNat + at_) 1) ∧
    (al.alias_ k.iter = false →
      (∀ h, x.halves.any (is c.chan) = false → x.halves.find? (is other) = some h →
        ∃ t, exec (.matchStep c ical) s = .next t ∧ (t.elem c.el).queue ical c.chan = rest ∧ (t.elem c.el).halves = x.halves.erase h ∧
          (t.elem c.el).ready = x.ready ++ [if c.chan = pr.1 then ⟨ical, pr.1, pr.2.1, k, h.tok⟩ else ⟨ical, pr.1, pr.2.1, h.tok, k⟩]) ∧
      (x.halves.any (is c.chan) = false → x.halves.find? (is other) = none → x.stored ical < storeCap (s.ring c.el.at_.ring).icalValid ical →
        ∃ t, exec (.matchStep c ical) s = .next t ∧ (t.elem c.el).queue ical c.chan = rest ∧
          (t.elem c.el).halves = x.halves ++ [⟨ical, c.chan, other, k.ctx, it, k⟩]) ∧
      (x.halves.any (is c.chan) = false → x.halves.find? (is other) = none → storeCap (s.ring c.el.at_.ring).icalValid ical ≤ x.stored ical →
        exec (.matchStep c ical) s = .next s) ∧
      (x.halves.any (is c.chan) = true →
        ∃ t, exec (.matchStep c ical) s = .next t ∧ Records s t c.el.at_.ring.die 0x02 (k.iter.toNat * 2 ^ 16 + at_) 1))

/-- R394: in an fc in which the picker fires nothing and no parked store is due (R395), the lowest parkable slot is parked: its tokens are claimed as a firing claims them, its operands enter
the store buffer and JN_PARKED counts one; no memory changes and no second slot is parked in that fc. Otherwise nothing changes. -/
def Claim.StoreParks : Prop :=
  ∀ (s : State) (e : ElemAt) (ical : Bool),
    (s.live e ical = false ∨ (s.elem e).lastPick = s.fc + 1 ∨ (s.pickSlot e ical).isSome = true ∨ s.dueStore e ical ≠ none →
      exec (.storePark e ical) s = .next s) ∧
    ∀ (i : Fin 16) (k : MemKind) (a b d : BitVec 5) (m : BitVec 2) (tg : BitVec 4) (q : Bool),
      let x := s.firingAt e ical i
      s.live e ical = true → (s.elem e).lastPick ≠ s.fc + 1 → (s.pickSlot e ical).isSome = false → s.dueStore e ical = none →
      ((List.range 16).find? fun n => s.parkable e ical (Fin.ofNat 16 n)) = some i.val →
      (s.slotInstr e ical i).bind storeForm = some (k, a, b, d, m, tg, q) →
      ∃ t pa pb, exec (.storePark e ical) s = .next t ∧ (t.elem e).isb = (s.elem e).isb ++ [.parked ical i pa pb (x.claimed q)] ∧ pa.body = x.src a ∧ pb.body = x.src b ∧
        pa.ctx = x.ctx ∧ pa.iter = x.iter ∧ (∀ c, (t.elem e).queue ical c = ((s.claim x q).elem e).queue ical c) ∧
        (t.elem e).ready = ((s.claim x q).elem e).ready ∧ (t.elem e).lastPick = s.fc + 1 ∧
        (t.ring e.at_.ring).jnParked = (s.ring e.at_.ring).jnParked + 1 ∧ t.hbm = s.hbm ∧ t.hostMem = s.hostMem

/-- R395: the oldest parked store whose iteration is no longer speculative, once it has its out credit and its grant, issues as a firing of its slot, one
per fc: its operation arrives with the parked operands, the entry leaves the buffer, and no memory changes. With none due, or in an fc that has had its
firing, nothing changes. -/
def Claim.ParkedStoreIssues : Prop :=
  ∀ (s : State) (e : ElemAt) (ical : Bool),
    (s.dueStore e ical = none ∨ (s.elem e).lastPick = s.fc + 1 → exec (.parkedStoreIssue e ical) s = .next s) ∧
    ∀ (p : DueStore),
      let x := s.dueFiring e ical p
      let B := p.b.body
      s.dueStore e ical = some p → (s.elem e).lastPick ≠ s.fc + 1 →
      s.memFlts x p.kind (x.pl.k[2 * p.m.toNat]'(by omega)) p.a.body B = [] → x.outAlias p.dst p.tag B = [] → s.tagFaults x p.tag B false = [] →
      ((p.kind = .st ∨ p.kind = .stv ∨ p.kind = .scat) →
        (x.sfmt ≤ 7 → p.srcB.toNat < 16 → B.fmt = Fmt.ofCode x.sfmt) ∧ (B.fmt.scaled = true → (s.scl e).read p.a.ctx B = [])) →
      (s.elem e).isb.any (fun b => b == .parked ical p.slot p.a p.b p.heads) = true ∧
      ∃ t o, exec (.parkedStoreIssue e ical) s = .next t ∧ (t.ring e.at_.ring).arriving = (s.ring e.at_.ring).arriving ++ [o] ∧ o.kind = p.kind ∧
        o.a = p.a.body ∧ o.b = B ∧ o.ctx = p.a.ctx ∧ o.iter = p.a.iter ∧ o.dst = p.dst ∧ (t.elem e).isb = (s.elem e).isb.erase (.parked ical p.slot p.a p.b p.heads) ∧
        (t.elem e).lastPick = s.fc + 1 ∧ t.hbm = s.hbm ∧ t.hostMem = s.hostMem

/-- A speculative store parks in the store buffer and issues once its iteration is no longer speculative. -/
def Obligations.StoresPark : Prop := Claim.StoreParks ∧ Claim.ParkedStoreIssues

/-- R110, R123: the first operation that can follow its chain's tail, and whose element's store buffer has room if it is a write to be held, links and
becomes the tail: it joins the linked operations, or, a store of a deterministic launch, the store buffer of its element. With none, the oldest
arriving operation goes to the wave buffer of 256, and stalls its element while that is full. -/
def Claim.WavesLink : Prop :=
  ∀ (s : State) (o : MemOp),
    let r := s.focus.ring
    let x := s.ring r
    let next := x.waiting.filter x.follows ++ x.fresh.filter fun o => !(x.chain o).wrong o.w1 && x.follows o
    ((next.find? fun o => !s.isbFull o) = some o →
      ∃ t, exec .waveLink s = .next t ∧ ((t.ring r).chain o).tail = some o.w1 ∧ ((t.ring r).chain o).seqs = (x.chain o).seqs ++ [bits o.w1.toNat 31 24] ∧
        (∀ p ∈ (t.ring r).arriving ++ (t.ring r).waveBuf, p.id ≠ o.id) ∧ t.hbm = s.hbm ∧ t.hostMem = s.hostMem ∧
        (s.holds o = false → (t.ring r).linked = x.linked ++ [{ o with seq := s.opCtr, ready := o.kind != .ldv, stalled := 0 }]) ∧
        (s.holds o = true → (t.ring r).linked = x.linked ∧
          (t.elem (ElemAt.ofKey o.elem)).isb = (s.elem (ElemAt.ofKey o.elem)).isb ++ [.held { o with held := true, seq := s.opCtr, stalled := 0 }])) ∧
    (next = [] → (x.fresh.find? fun o => !(x.chain o).wrong o.w1) = some o → x.waveBuf.length < 256 →
      ∃ t, exec .waveLink s = .next t ∧ (t.ring r).waveBuf = x.waveBuf ++ [o] ∧ (∀ p ∈ (t.ring r).arriving, p.id ≠ o.id) ∧
        (t.ring r).linked = x.linked ∧ t.hbm = s.hbm ∧ t.hostMem = s.hostMem) ∧
    (next = [] → (x.fresh.find? fun o => !(x.chain o).wrong o.w1) = some o → 256 ≤ x.waveBuf.length →
      ∃ t, exec .waveLink s = .next t ∧ (∃ p ∈ (t.ring r).arriving, p.id = o.id ∧ p.stalled = s.fc + 1) ∧ (t.ring r).linked = x.linked ∧
        t.hbm = s.hbm ∧ t.hostMem = s.hostMem)

/-- R112: an arriving operation that breaks its chain, or else a waiting one that nothing can link any longer, is not performed and raises MEM_WAVE (0x45)
with its wave word and the tail's. Without such an operation nothing changes. -/
def Claim.BrokenWaveFaults : Prop :=
  ∀ (s : State) (o : MemOp),
    let r := s.focus.ring
    let x := s.ring r
    let bad := (x.fresh.find? fun o => (x.chain o).wrong o.w1).or (x.waveBuf.find? fun o => s.neverLinks r o)
    (bad = none → exec .memWave s = .next s) ∧
    (bad = some o →
      ∃ t, exec .memWave s = .next t ∧
        Records s t (ElemAt.ofKey o.elem).at_.ring.die 0x45 (o.w1.toNat + (((x.chain o).tail.map BitVec.toNat).getD 0) * 2 ^ 32) 1 ∧
        (∀ p ∈ (t.ring r).arriving ++ (t.ring r).waveBuf, p.id ≠ o.id) ∧ (t.ring r).linked = x.linked ∧ t.hbm = s.hbm ∧ t.hostMem = s.hostMem)

/-- Operations link into their chain in wave order, and one that breaks its chain faults. -/
def Obligations.WavesOrderMemory : Prop := Claim.WavesLink ∧ Claim.BrokenWaveFaults

/-- R111, R117 to R119, R385: a linked operation that no earlier one of its chain keeps back is performed, leaves the chain, and its result is delivered;
WAITA's stays owed. One that is kept back stays: every one behind an LDV or a fence of its iteration, and a fence or a release behind any other. One whose
access faults leaves the chain and its record waits. -/
def Claim.MemoryRepliesDeliver : Prop :=
  ∀ (s : State) (r : RingAt) (o : MemOp),
    let drop := fun w : State => w.onRing r fun x => { x with linked := x.linked.filter fun p => p.id != o.id }
    let el := ElemAt.ofKey o.elem
    ((s.ring r).linked.find? fun p => p.id == o.id) = some o →
    (s.performable r o = false → exec (.memoryReply r o.id) s = .next s) ∧
    (∀ p ∈ (s.ring r).linked, p.launch = o.launch → p.ctx = o.ctx → p.iter = o.iter → p.seq < o.seq →
      p.kind ∈ [.ldv, .fence, .fencex] ∨ o.kind ∈ [.fence, .fencex, .stv, .recl, .signal] → exec (.memoryReply r o.id) s = .next s) ∧
    (s.performable r o = true →
      (∀ u v, s.perform o = .done u v →
        ∃ t, exec (.memoryReply r o.id) s = .next t ∧ (∀ p ∈ (t.ring r).linked, p.id ≠ o.id) ∧ t.hbm = u.hbm ∧ t.hostMem = u.hostMem ∧
          t.versions = u.versions ∧ (o.kind = .waita → t = drop u) ∧ (o.kind ≠ .waita → Settles u t el o.ical o.id (o.token v))) ∧
      (∀ u, s.perform o = .wait u → exec (.memoryReply r o.id) s = .next u) ∧
      (∀ f : Flt, s.perform o = .fail f →
        ∃ t, exec (.memoryReply r o.id) s = .next t ∧ (∀ p ∈ (t.ring r).linked, p.id ≠ o.id) ∧ Records s t el.at_.ring.die f.code f.aux f.disp ∧
          t.hbm = s.hbm ∧ t.hostMem = s.hostMem))

/-- R115: an LDV waits until its resource's version is the one it names or a later one; then it is ready to be performed, and the other operations stay as
they are. -/
def Claim.VersionedLoadReady : Prop :=
  ∀ (s : State) (r : RingAt) (o : MemOp) (e : Res),
    ((s.ring r).linked.find? fun p => p.id == o.id && p.kind == .ldv) = some o → s.opRes (ElemAt.ofKey o.elem) o.launch o.w0 = some e →
    (s.ldvMet o e = true →
      ∃ t, exec (.ldvVersionMet r o.id) s = .next t ∧
        (t.ring r).linked = (s.ring r).linked.map fun p => if p.id = o.id then { p with ready := true } else p) ∧
    (s.ldvMet o e = false →
      (e.space = 1 → exec (.ldvVersionMet r o.id) s = .next s) ∧
      ∃ t, exec (.ldvVersionMet r o.id) s = .next t ∧ (t.ring r).linked = (s.ring r).linked ∧ t.hbm = s.hbm ∧ t.hostMem = s.hostMem)

/-- R397: a WAITA of a ring whose table has room, for its context too, and whose word can be reached enters a watch at the table's end with operand A as its
token and the version that the word has then; no element and no memory changes. -/
def Claim.WatchesInstall : Prop :=
  ∀ (s : State) (o : MemOp) (e : Res) (key : Key),
    let el := ElemAt.ofKey o.elem
    let r := el.at_.ring
    let va := vaOf e.base (o.a.lane 0).toNat
    o.kind = .waita → o.watched = false → s.opRes el o.launch o.w0 = some e →
    (e.space = 1 ∧ key = s.devKey ∨
      e.space ≠ 1 ∧ s.missVa r.die (s.opPasid o) va 4 false = none ∧ s.vaBad r.die (s.opPasid o) va 4 false = none ∧ e.keyidx ≠ 0 ∧
        s.keyOf e.keyidx = some key) →
    ((s.ring r).watches.filter fun w => w.op.ctx == o.ctx).length < (s.ring r).monmaxOf → (s.ring r).watches.length < 512 →
    let t := s.watchAtCommit o
    (t.ring r).watches = (s.ring r).watches ++ [⟨{ o with watched := true }, o.token o.a, (s.watchRead o e key).2⟩] ∧ t.elems = s.elems ∧
      t.hbm = s.hbm ∧ t.hostMem = s.hostMem

/-- R397: a watch wakes when its word differs from the expected value, or its version from the one first read: its wake token, operand A, is delivered, and
it leaves the table. One whose word and version are as they were stays, and nothing changes. Said of every space and version of a resource whose page is
cached, whose granule has no error (R44) and whose key slot holds a key; the word of an unversioned scratchpad resource is the one in the window, its version 0. -/
def Claim.WatchesWake : Prop :=
  ∀ (s : State) (r : RingAt) (n : Fin 512) (w : Watch) (e : Res) (key : Key),
    let el := ElemAt.ofKey w.op.elem
    let off := (w.op.a.lane 0).toNat
    let y := s.watchRead w.op e key
    (e.space = 1 → e.vers = false → y = (spadWord (s.ring el.at_.ring).spad (s.spadBase w.op e + off), 0)) ∧
    ((s.ring r).watches[n.val]? = some w → s.opRes el w.op.launch w.op.w0 = some e →
      (e.space = 1 ∧ key = s.devKey ∨
        e.space ≠ 1 ∧ s.missVa el.at_.ring.die (s.opPasid w.op) (vaOf e.base off) 4 false = none ∧
          s.vaBad el.at_.ring.die (s.opPasid w.op) (vaOf e.base off) 4 false = none ∧ e.keyidx ≠ 0 ∧ s.keyOf e.keyidx = some key) →
      (y.1 ≠ (w.op.b.lane 0).toNat ∨ y.2 ≠ w.v0 →
        ∃ t, exec (.watchCheck r n) s = .next t ∧ (∀ v ∈ (t.ring r).watches, v.op.id ≠ w.op.id) ∧ (t.ring r).jnWakes = (s.ring r).jnWakes + 1 ∧
          Settles s t el w.op.ical w.op.id w.tok) ∧
      (y.1 = (w.op.b.lane 0).toNat → y.2 = w.v0 → exec (.watchCheck r n) s = .next s))

/-- A linked operation that nothing of its chain keeps back is performed and delivers its result; a versioned load waits; a watch wakes when its word differs. -/
def Obligations.RepliesDeliver : Prop := Claim.MemoryRepliesDeliver ∧ Claim.VersionedLoadReady ∧ Claim.WatchesInstall ∧ Claim.WatchesWake

/-- R122: the oldest uncommitted quantum of a deterministic launch, once every iteration of it is retired or killed in every segment, commits its held
writes one at a time, by iteration and then in chain order, each once nothing before it in its chain keeps it back (R111), and the next quantum opens; a launch that is not deterministic changes nothing. -/
def Claim.QuantumCommits : Prop :=
  ∀ (s : State) (die : Fin 4) (entry : BitVec 12),
    let l := launchKey die entry.toNat
    let x := s.launch l
    let q := x.alloc0.quanta
    (x.det = false → exec (.quantumCommit die entry) s = .next s) ∧
    (x.det = true → x.segs ≠ [] → (∀ g ∈ x.segs, s.quantumDone l g.die q = true) → q * x.quantum < x.alloc0.num →
      ∀ u v, s.commitHeld (s.heldOf l q) = .done u v → (u.launch l).segs ≠ [] →
        ∃ t, exec (.quantumCommit die entry) s = .next t ∧ (∀ g ∈ (t.launch l).segs, g.alloc.quanta = q + 1) ∧ (t.launch l).alloc0.quanta = q + 1 ∧
          t.hbm = u.hbm ∧ t.hostMem = u.hostMem) ∧
    (s.commitHeld [] = .done s Reg.zero ∧ ∀ o rest u v, s.chainFree (ElemAt.ofKey o.elem).at_.ring o = true → s.perform o = .done u v → s.commitHeld (o :: rest) =
      (u.onElem (ElemAt.ofKey o.elem) fun e => { e with isb := e.isb.filter fun
        | .held p => p.id != o.id
        | _ => true }).commitHeld rest)

/-- R393: a held write that has stalled for 1,048,576 fc on a buffer filled by writes of the oldest uncommitted quantum raises JN_ISB_DEADLOCK (0x48). One
that has not stalled so long, or on a buffer that holds another write, faults nothing. -/
def Claim.StoreBufferDeadlockFaults : Prop :=
  ∀ (s : State) (e : ElemAt) (ical : Bool),
    let r := s.ring e.at_.ring
    let stuck := (r.arriving ++ r.waveBuf).find? fun o => o.elem == e.key && o.ical == ical && o.stalled != 0 && s.isbFull o && r.follows o &&
      decide (o.stalled - 1 + 1048576 ≤ s.fc)
    let q := fun o : MemOp => ((s.launch o.launch).alloc e.at_.ring.die).quanta
    let mine := fun (o : MemOp) (b : IsbEntry) => b.ical = ical → ∃ p, b = .held p ∧ p.num / (s.launch o.launch).quantum = q o
    (stuck = none → exec (.jnIsbDeadlock e ical) s = .next s) ∧
    ∀ o, stuck = some o →
      ((∃ b ∈ (s.elem e).isb, ¬mine o b) → exec (.jnIsbDeadlock e ical) s = .next s) ∧
      ((∀ b ∈ (s.elem e).isb, mine o b) → ∃ t, exec (.jnIsbDeadlock e ical) s = .next t ∧ Records s t e.at_.ring.die 0x48 (q o) 1)

/-- A quantum commits its held writes, and a stall of 1,048,576 fc on a full buffer faults. -/
def Obligations.QuantaCommit : Prop := Claim.QuantumCommits ∧ Claim.StoreBufferDeadlockFaults

/-! ### The matrix junction -/

/-- R373: the messages that change fields of a valid descriptor write them, drop its slabs (MXRND keeps them) and answer status 0, when no row uses the
descriptor, it serves the sender's CTX and the changed descriptor is one that the loader accepts. A busy descriptor is refused with 0x502, one that is not
valid with 0x506, one of another CTX with 0x503, and one that would not fit with 0x505; a message with a bit that the table does not name with 0x501. -/
def Obligations.MatrixFieldMessages : Prop :=
  ∀ (s : State) (c : Fin 4) (v w : Word),
    let x := s.mxMsg
    let d := x.desc c
    let n : Word := .ofNat 32 c.val
    let forms : List (Instr × Desc × Bool × Bool) :=
      [(.mxtile ⟨n, v, w, 0⟩, { d with tilebase := .ofNat 32 (x.pl.m.wbase.toNat + v.toNat), tilecnt := .ofNat 16 w.toNat }, decide (w.toNat < 2 ^ 16), true),
       (.mxkcnt ⟨n, v, 0, 0⟩, { d with kcount := .ofNat 12 v.toNat }, decide (v.toNat < 2 ^ 12), true),
       (.mxcb ⟨n, v, 0, 0⟩, { d with cbook := .ofNat 6 v.toNat }, decide (v.toNat < 2 ^ 6), true),
       (.mxfmt ⟨n, v, 0, 0⟩, { d with afmt := .ofNat 3 (bits v.toNat 8 6), bfmt := .ofNat 3 (bits v.toNat 5 3), comp := .ofNat 2 (bits v.toNat 1 0) },
        decide (v.toNat < 2 ^ 9) && !bit v.toNat 2, true),
       (.mxrnd ⟨n, v, 0, 0⟩, { d with drfmt := bit v.toNat 3, round := .ofNat 3 (bits v.toNat 2 0) }, decide (v.toNat < 2 ^ 4), false)]
    (∀ p : Params, 4 ≤ p.p0.toNat ∨ p.p3 ≠ 0 →
      exec (.mxtile p) s = .next (s.refuse x.m 0x501) ∧ exec (.mxkcnt p) s = .next (s.refuse x.m 0x501) ∧
      exec (.mxcb p) s = .next (s.refuse x.m 0x501) ∧ exec (.mxfmt p) s = .next (s.refuse x.m 0x501) ∧
      exec (.mxrnd p) s = .next (s.refuse x.m 0x501)) ∧
    (∀ p : Params, p.p2 ≠ 0 →
      exec (.mxkcnt p) s = .next (s.refuse x.m 0x501) ∧ exec (.mxcb p) s = .next (s.refuse x.m 0x501) ∧
      exec (.mxfmt p) s = .next (s.refuse x.m 0x501) ∧ exec (.mxrnd p) s = .next (s.refuse x.m 0x501)) ∧
    ∀ f ∈ forms,
      (f.2.2.1 = true → x.busy c = false → d.serves x.cb x.m.ctx = true → x.fits c f.2.1 = true →
        MxAnswers s f.1 0 0 (DescIs s c f.2.1 f.2.2.2)) ∧
      (f.2.2.1 = false → exec f.1 s = .next (s.refuse x.m 0x501)) ∧
      (f.2.2.1 = true → x.busy c = true → exec f.1 s = .next (s.refuse x.m 0x502)) ∧
      (f.2.2.1 = true → x.busy c = false → d.valid = false → exec f.1 s = .next (s.refuse x.m 0x506)) ∧
      (f.2.2.1 = true → x.busy c = false → d.valid = true → d.serves x.cb x.m.ctx = false → exec f.1 s = .next (s.refuse x.m 0x503)) ∧
      (f.2.2.1 = true → x.busy c = false → d.serves x.cb x.m.ctx = true → x.fits c f.2.1 = false → exec f.1 s = .next (s.refuse x.m 0x505))

/-- R373, R374: MXFILL stages four words for the sender's CTX; MXCFG makes the staged words the descriptor, its TILEBASE counted from the window, or with
VALID 0 clears it, drops its slabs, empties the staging and answers VALID, and without staging of the CTX replies 0x504; MXAMAX reads the drain AMAX with
its flag, what iterations that are speculative no more gave among it (R299), and clears them; MXSTAT reads VALID, CTXV, the number of open rows and the
reference time, and changes nothing. -/
def Claim.MatrixDescriptorMessages : Prop :=
  ∀ (s : State) (c : Fin 4) (p : Params),
    let x := s.mxMsg
    let d := x.desc c
    let n : Word := .ofNat 32 c.val
    let cfg := Instr.mxcfg ⟨n, 0, 0, 0⟩
    let settled := x.pl.settleAmax ((s.launch ((s.stripe x.e.at_).conf x.ical).launch).alloc x.e.at_.ring.die)
    (MxAnswers s (.mxfill p) 0 0 fun u => u.mxMsg.pl.m = { x.pl.m with fill := some (x.m.ctx, #v[p.p0, p.p1, p.p2, p.p3]) } ∧ u.mxMsg.part = x.part) ∧
    (x.busy c = true → exec cfg s = .next (s.refuse x.m 0x502)) ∧
    (x.busy c = false → (∀ w, x.pl.m.fill ≠ some (x.m.ctx, w)) → exec cfg s = .next (s.refuse x.m 0x504)) ∧
    (∀ w, x.pl.m.fill = some (x.m.ctx, w) → x.busy c = false → (d.valid = true → d.serves x.cb x.m.ctx = true) →
      let d' := descOf (w[0].toNat * 2 ^ 160 + w[1].toNat * 2 ^ 128 + w[2].toNat * 2 ^ 96 + w[3].toNat * 2 ^ 64)
      let dw : Desc := { d' with tilebase := .ofNat 32 (d'.tilebase.toNat + x.pl.m.wbase.toNat) }
      (d'.valid = true → d'.ctxv = x.m.ctx - x.cb → bits w[2].toNat 8 0 = 0 → w[3] = 0 → d'.tilebase.toNat + x.pl.m.wbase.toNat < 2 ^ 32 →
        x.fits c dw = true → MxAnswers s cfg 1 0 fun u => DescIs s c dw true u ∧ u.mxMsg.pl.m.fill = none) ∧
      (d'.valid = false → x.fits c Desc.zero = true →
        MxAnswers s cfg 0 0 fun u => DescIs s c Desc.zero true u ∧ u.mxMsg.pl.m.fill = none)) ∧
    (d.serves x.cb x.m.ctx = true →
      MxAnswers s (.mxamax ⟨n, 0, 0, 0⟩) settled.m.damax[c].1.toNat settled.m.damax[c].2.toNat fun u =>
        u.mxMsg.pl = { settled with m := { settled.m with damax := settled.m.damax.set c (0, false) } } ∧ u.mxMsg.part = x.part) ∧
    (x.pl.amaxHeld = [] → settled = x.pl) ∧
    ((d.valid = true → d.serves x.cb x.m.ctx = true) →
      exec (.mxstat ⟨n, 0, 0, 0⟩) s =
        .next (s.answer x.m 0 (d.valid.toNat * 2 ^ 31 + d.ctxv.toNat * 2 ^ 25 + (x.part.rows.filter fun r => r.2.desc == c).length) (s.fc % 40000)))

/-- R373, R374: on rows that the sender's CTX holds and that are not in the array, MXCLRACC closes those named and answers how many were open, MXDRAIN
moves an open row into the drain queue without EOS and answers its count, and MXRDACC answers sixteen of a row's committed values, +0 for a closed row. A
row of another CTX is answered 0x503, one with a row in the array 0x502 (MXRDACC reads a row that commits in this fc, R376), and MXDRAIN 0x502 when the
drain queue is full. -/
def Claim.MatrixRowMessages : Prop :=
  ∀ (s : State) (row q : Nat) (m : Dword),
    let x := s.mxMsg
    let rows := (List.range 64).filter fun i => m.getLsbD i
    let clr := Instr.mxclracc ⟨m.setWidth 32, (m >>> 32).setWidth 32, 0, 0⟩
    let drain := Instr.mxdrain ⟨.ofNat 32 row, 0, 0, 0⟩
    let read := Instr.mxrdacc ⟨.ofNat 32 (row + 256 * q), 0, 0, 0⟩
    row < 64 → q < 4 →
    (x.rowStatus false rows = 0 →
      MxAnswers s clr (rows.filter fun r => (tabFind r x.part.rows).isSome).length 0 fun u =>
        u.mxMsg.part = { x.part with rows := x.part.rows.filter fun r => !rows.contains r.1 } ∧ u.mxMsg.pl = x.pl) ∧
    (∀ w, x.rowStatus false [row] = 0 → x.part.draining x.pl.m < 2 → tabFind row x.part.rows = some w →
      MxAnswers s drain w.count 0 fun u =>
        tabFind row u.mxMsg.part.rows = none ∧
        ∃ e : Drain, u.mxMsg.part.drains = x.part.drains ++ [e] ∧ e.ctx = w.ctx ∧ e.iter = w.iter ∧ e.desc = w.desc ∧ e.eos = false ∧ e.kill = false ∧
          e.acc = w.acc) ∧
    (x.rowStatus false [row] = 0 → x.part.draining x.pl.m < 2 → tabFind row x.part.rows = none → exec drain s = .next (s.answer x.m 0 0 0)) ∧
    (x.rowStatus false [row] = 0 → 2 ≤ x.part.draining x.pl.m → exec drain s = .next (s.refuse x.m 0x502)) ∧
    (x.rowStatus true [row] = 0 →
      ∃ r : Reg, exec read s = .next (s.answerWith x.m 0 r) ∧ r.fmt = .f32 ∧ r.vlen = 15 ∧
        ∀ i : Fin 16, r.lane i.val = (((tabFind row x.part.rows).map fun w => w.acc[16 * q + i.val]?.getD 0)).getD 0) ∧
    (x.rowStatus false rows ≠ 0 → exec clr s = .next (s.refuse x.m (x.rowStatus false rows))) ∧
    (x.rowStatus false [row] ≠ 0 → exec drain s = .next (s.refuse x.m (x.rowStatus false [row]))) ∧
    (x.rowStatus true [row] ≠ 0 → exec read s = .next (s.refuse x.m (x.rowStatus true [row]))) ∧
    (x.ical = true → 16 ≤ row → x.rowStatus false [row] = 0x501 ∧ x.rowStatus true [row] = 0x501) ∧
    (x.ical = false → (∀ a, tabFind row x.part.rows = some a → a.ctx ≠ x.m.ctx → x.rowStatus false [row] = 0x503 ∧ x.rowStatus true [row] = 0x503) ∧
      ((∀ a, tabFind row x.part.rows = some a → a.ctx = x.m.ctx) → (∃ a ∈ x.part.array, a.row = row) → x.rowStatus false [row] = 0x502) ∧
      ((∀ a, tabFind row x.part.rows = some a → a.ctx = x.m.ctx ∧ a.count ≤ (x.desc a.desc).kcount.toNat) →
        (∀ a ∈ x.part.array, a.row = row → a.picked + 8 ≤ x.fc) → x.rowStatus true [row] = 0))

/-- The messages that fill, make and read descriptors, and those that close, drain and read rows (order of refusals: log 43, DEDUCED). -/
def Obligations.MatrixMessages : Prop := Claim.MatrixDescriptorMessages ∧ Claim.MatrixRowMessages

/-- R359, R360, R377: the row at the head of in0 starts the load of the slab of its next k-step when that is neither there nor on its way and the buffer has
room; the oldest load that no refresh window holds reads its next 256 bytes of the weight store, and a whole slab enters the buffer with its codebook.
Each load held by a window counts once in the fc. A tile whose key slot holds no key raises 0x36, a granule found uncorrectable 0x35, and an index pair
out of order 0x33 (R378). A frozen victim starts no load (R370). -/
def Obligations.SlabsLoad : Prop :=
  ∀ (s : State) (e : ElemAt) (ical : Bool),
    let x := s.elem e
    let m := x.mpart ical
    let p := (x.plane ical).m
    let cb := ((s.stripe e.at_).conf ical).ctx
    let dn := e.at_.ring.die
    let held := fun b : Slab => p.heldPiece s.fc b
    let mark := fun b : Slab => if held b && b.waitAt != s.fc + 1 then { b with waitAt := s.fc + 1 } else b
    let waiting := m.loading.map mark
    (∀ (k : Token) (d : Fin 4),
      let row := k.iter.toNat % (if ical then 16 else 64)
      let c := ((tabFind row m.rows).map AccRow.count).getD 0 + (m.array.filter fun r => r.row == row).length
      headToken (x.queue ical 0) = some k → p.select cb k.ctx = some d → c ≤ p.descs[d].kcount.toNat → m.resident d c = none →
      (∀ b ∈ m.loading, ¬(b.desc = d ∧ b.kstep = c)) → m.used + p.descs[d].slabSize ≤ (if ical then 10240 else 20480) → s.moving e.at_ ical = true →
      ∃ t, exec (.slabLoad e ical) s = .next t ∧ OnlyElem s t e ∧
        (t.elem e).mpart ical = { m with loading := m.loading ++ [⟨d, c, p.descs[d].slabSize, 0, [], [], 0⟩] }) ∧
    (∀ b : Slab, held b = (tilesOf (4096 * p.descs[b.desc].tilebase.toNat + b.kstep * p.descs[b.desc].slabSize + b.got) (min 256 (b.size - b.got))).any
      fun tile => decide ((s.fc % 40000 + 40000 - 1250 * (tile % 32)) % 40000 < 256)) ∧
    ((∀ b ∈ m.loading, held b = true) →
      ∃ t, exec (.slabPiece e ical) s = .next t ∧ (t.elem e).mpart ical = { m with loading := waiting } ∧
        (t.ring e.at_.ring).mxRefwait = (s.ring e.at_.ring).mxRefwait + .ofNat 64 (m.loading.filter fun b => b.waitAt != s.fc + 1).length) ∧
    ∀ (b : Slab),
      let d := p.descs[b.desc]
      let a := 4096 * d.tilebase.toNat + b.kstep * d.slabSize + b.got
      let n := min 256 (b.size - b.got)
      let bytes := b.bytes ++ (List.range n).map fun i => s.wsByte dn (a + i)
      (m.loading.find? fun b => !held b) = some b →
      ((∀ tile ∈ tilesOf a n, (s.keyOf ((s.die dn).tileSlot tile)).isSome = true) → (∀ i < n, s.wsBad dn (a + i) = false) →
        (b.got + 256 < b.size →
          ∃ t, exec (.slabPiece e ical) s = .next t ∧
            (t.elem e).mpart ical =
              { m with loading := waiting.map fun c => if c = b then { b with got := b.got + 256, bytes := bytes } else c } ∧
            (t.die dn).mxWsread = (s.die dn).mxWsread + 256) ∧
        (b.size ≤ b.got + 256 → (d.coded = true → (s.scl e).bookUse (cb + d.ctxv) d.cbook = []) → d.badIndex bytes = none →
          ∃ t, exec (.slabPiece e ical) s = .next t ∧
            (t.elem e).mpart ical =
              { m with loading := waiting.erase b,
                       slabs := m.slabs ++ [{ b with got := b.got + n, bytes := bytes, cb := if d.coded then (s.scl e).book d.cbook else [] }] } ∧
            (t.die dn).mxWsread = (s.die dn).mxWsread + .ofNat 64 n) ∧
        (b.size ≤ b.got + 256 → d.coded = false → ∀ j, d.badIndex bytes = some j →
          ∃ t, exec (.slabPiece e ical) s = .next t ∧ Records s t dn 0x33 (4096 * d.tilebase.toNat + b.kstep * d.slabSize + d.scalePart + j / 2) 1 ∧
            ((t.elem e).mpart ical).slabs = m.slabs)) ∧
      ((∀ tile ∈ tilesOf a n, (s.keyOf ((s.die dn).tileSlot tile)).isSome = true) →
        ∀ i, ((List.range n).find? fun i => s.wsBad dn (a + i)) = some i →
          ∃ t, exec (.slabPiece e ical) s = .next t ∧ Records s t dn 0x35 (a + i) 1 ∧ (t.elem e).mpart ical = { m with loading := waiting.erase b }) ∧
      ∀ tile, ((tilesOf a n).find? fun t => (s.keyOf ((s.die dn).tileSlot t)).isNone) = some tile →
        ∃ t, exec (.slabPiece e ical) s = .next t ∧ Records s t dn 0x36 (4096 * tile) 1 ∧ (t.elem e).mpart ical = { m with loading := waiting.erase b }

/-- R362: the head of in0 is picked when the almanac grants its context, its format is the descriptor's, its accumulator row is free or its own, its slab is
in the buffer and a completing row has a place in the drain queue: it leaves the queue, opens its row and enters the array. A row of a context that no
descriptor serves raises 0x31, one of another format 0x30, and one whose accumulator row another iteration holds 0x32 (R378); one whose slab is not there
waits, counted in MX_WBWAIT once in the fc, and one that the almanac does not grant waits. -/
def Claim.MatrixRowPicked : Prop :=
  ∀ (s : State) (e : ElemAt) (ical : Bool) (k : Token),
    let x := s.elem e
    let m := x.mpart ical
    let p := (x.plane ical).m
    let sel := p.select ((s.stripe e.at_).conf ical).ctx k.ctx
    let row := k.iter.toNat % (if ical then 16 else 64)
    let c := ((tabFind row m.rows).map AccRow.count).getD 0 + (m.array.filter fun r => r.row == row).length
    let dn := e.at_.ring.die
    x.queue ical 0 = k :: (x.queue ical 0).tail → k.kill = false → s.live e ical = true → x.lastPick ≠ s.fc + 1 →
    (s.almanacGrants e.at_.ring ical k.ctx = false → ∃ t, exec (.mxRowPick e ical) s = .next t ∧ (t.elem e).queue ical 0 = x.queue ical 0 ∧
      (t.elem e).mpart ical = m ∧ (t.elem e).lastPick = x.lastPick) ∧
    (s.almanacGrants e.at_.ring ical k.ctx = true →
      (sel = none → ∃ t, exec (.mxRowPick e ical) s = .next t ∧ Records s t dn 0x31 (k.ctx.toNat + e.slot.val * 2 ^ 32) 1) ∧
      ∀ d, sel = some d →
        (k.body.fmt.code ≠ p.descs[d].afmt.toNat →
          ∃ t, exec (.mxRowPick e ical) s = .next t ∧ Records s t dn 0x30 (p.descs[d].afmt.toNat * 256 + k.body.fmt.code) 1) ∧
        (k.body.fmt.code = p.descs[d].afmt.toNat →
          (∀ a, tabFind row m.rows = some a → ¬(a.ctx = k.ctx ∧ a.iter = k.iter ∧ a.desc = d) →
            ∃ t, exec (.mxRowPick e ical) s = .next t ∧ Records s t dn 0x32 (a.ctx.toNat * 2 ^ 32 + a.iter.toNat * 2 ^ 16 + row) 1) ∧
          ((∀ a, tabFind row m.rows = some a → a.ctx = k.ctx ∧ a.iter = k.iter ∧ a.desc = d) →
            (m.resident d c = none → x.counted[(3 : Fin 4)] ≠ s.fc + 1 →
              ∃ t, exec (.mxRowPick e ical) s = .next t ∧ (t.elem e).queue ical 0 = x.queue ical 0 ∧ (t.elem e).mpart ical = m ∧
                (t.ring e.at_.ring).mxWbwait = (s.ring e.at_.ring).mxWbwait + 1) ∧
            (∀ b, m.resident d c = some b → (c = p.descs[d].kcount.toNat → m.draining p < 2) →
              ∃ t, exec (.mxRowPick e ical) s = .next t ∧ OnlyElem s t e ∧ (t.elem e).queue ical 0 = (x.queue ical 0).tail ∧
                ((t.elem e).mpart ical).array = m.array ++ [⟨k, row, d, c, s.fc⟩] ∧ (t.elem e).lastPick = s.fc + 1 ∧
                ∃ a, tabFind row ((t.elem e).mpart ical).rows = some a ∧ a.ctx = k.ctx ∧ a.iter = k.iter ∧ a.desc = d ∧
                  (tabFind row m.rows = none → a.count = 0 ∧ a.acc = Vector.replicate 64 0)))))

/-- R363, R365: the oldest row of the array commits: each of its 64 accumulators takes, group of sixteen K values by group, the group's exact sum of products
rounded to F32 and added with one rounding; the row's count rises by one and MX_ROWS counts it. A row of a killed iteration leaves the array as a dropped
token (R298), and a faulting scale read ends the firing with its record and returns the other rows to in0 (R288). -/
def Claim.MatrixRowCommits : Prop :=
  ∀ (s : State) (e : ElemAt) (ical : Bool) (r : ArrRow) (rest : List ArrRow) (b : Slab) (w : AccRow),
    let x := s.elem e
    let m := x.mpart ical
    let d := (x.plane ical).m.descs[r.desc]
    let k := r.tok.body
    let en := (s.scl e).entry k.bind.toNat
    let cb := (s.scl e).bookNats en.cbook
    let rne := fun z => roundTo .f32 0 false 0 z
    let al := (s.launch ((s.stripe e.at_).conf ical).launch).alloc e.at_.ring.die
    m.array = r :: rest → s.moving e.at_ ical = true →
    (al.isKilled r.tok.iter = true →
      ∃ t, exec (.mxRowCommit e ical) s = .next t ∧ ((t.elem e).mpart ical).array = rest ∧ ((t.elem e).mpart ical).rows = m.rows ∧
        (t.elem e).queue ical 0 = dropped al r.tok ++ x.queue ical 0 ∧ (t.ring e.at_.ring).elKilldrop = (s.ring e.at_.ring).elKilldrop + 1) ∧
    (al.isKilled r.tok.iter = false → k.fmt.scaled = true → ∀ f, lowestFlt ((s.scl e).read r.tok.ctx k) = some f →
      ∃ t, exec (.mxRowCommit e ical) s = .next t ∧ Records s t e.at_.ring.die f.code f.aux f.disp ∧ ((t.elem e).mpart ical).array = [] ∧
        (t.elem e).queue ical 0 = m.array.map ArrRow.tok ++ x.queue ical 0) ∧
    (al.isKilled r.tok.iter = false →
      (k.fmt.scaled = true → (s.scl e).read r.tok.ctx k = []) → m.resident r.desc r.kstep = some b → tabFind r.row m.rows = some w →
    ∃ t v, exec (.mxRowCommit e ical) s = .next t ∧ ((t.elem e).mpart ical).array = rest ∧
      tabFind r.row ((t.elem e).mpart ical).rows = some v ∧ v.count = w.count + 1 ∧ v.ctx = w.ctx ∧ v.iter = w.iter ∧
      (t.ring e.at_.ring).mxRows = (s.ring e.at_.ring).mxRows + 1 ∧ t.hbm = s.hbm ∧ t.hostMem = s.hostMem ∧ t.dies = s.dies ∧
      ∀ n : Fin 64, v.acc[n] = (List.range (d.krow / 16)).foldl
        (fun a g => BitVec.ofNat 32 (rne ((valueOf .f32 a.toNat).add false (valueOf .f32 (rne (groupSum k en cb d b g n.val)))))) w.acc[n])

/-- R366: a completed row, the drain queue being empty, enters it and drains: one token on each of its channels, out0 to out3 of sixteen F32 values each or
out0 and out1 of thirty-two B16 values rounded once under ROUND, in column order, with the row's CTX, ITER and EOS; the row closes. An entry sends
on the channels that have credit and keeps the others, and leaves with its last token; one behind it sends on the channels on which it does not wait. -/
def Claim.MatrixRowDrains : Prop :=
  (∀ (s : State) (e : ElemAt) (ical : Bool) (row : Nat) (w : AccRow) (rest : Tab AccRow),
    let x := s.elem e
    let m := x.mpart ical
    let d := (x.plane ical).m.descs[w.desc]
    let chans := if d.drfmt then [0, 1] else [0, 1, 2, 3]
    let g := if d.drfmt then Fmt.b16 else .f32
    m.rows = (row, w) :: rest → d.kcount.toNat < w.count → m.drains = [] → s.moving e.at_ ical = true →
    (∀ q ∈ chans, 1 ≤ s.outFree e ical (Fin.ofNat 8 q)) →
    ∃ t, exec (.mxRowDrain e ical) s = .next t ∧ ((t.elem e).mpart ical).rows = tabDel row m.rows ∧ ((t.elem e).mpart ical).drains = [] ∧
      t.hbm = s.hbm ∧ t.hostMem = s.hostMem ∧
      ∀ q ∈ chans, ∃ k : LinkTok, (t.elem e).out[Fin.ofNat 8 q] = x.out[Fin.ofNat 8 q] ++ [k] ∧ k.tok.ctx = w.ctx ∧ k.tok.iter = w.iter ∧
        k.tok.eos = w.eos ∧ k.tok.kill = false ∧ k.tok.body.fmt = g ∧ k.tok.body.vlen = 15 ∧
        ∀ j < g.elems, Lanes.elem k.tok.body.lanes g.width j =
          let a := (w.acc[g.elems * q + j]?.getD 0).toNat
          if d.drfmt then roundTo .b16 d.round.toNat false 0 (valueOf .f32 a) else a) ∧
  (∀ (s : State) (e : ElemAt) (ical : Bool) (d : Drain),
    let x := s.elem e
    let m := x.mpart ical
    let free := fun q : Nat => decide (1 ≤ s.outFree e ical (Fin.ofNat 8 q))
    let left := d.left.filter fun q => !free q
    m.drains = [d] → (∀ r ∈ m.rows, r.2.count ≤ (x.plane ical).m.descs[r.2.desc].kcount.toNat) → d.left.Nodup → (∀ q ∈ d.left, q < 8) →
    (s.moving e.at_ ical = false → exec (.mxRowDrain e ical) s = .next s) ∧
    (s.moving e.at_ ical = true →
      ∃ t, exec (.mxRowDrain e ical) s = .next t ∧ ((t.elem e).mpart ical).rows = m.rows ∧
        ((t.elem e).mpart ical).drains = (if left = [] then [] else [{ d with left := left }]) ∧
        (∀ q ∈ d.left, free q = false → (t.elem e).out[Fin.ofNat 8 q] = x.out[Fin.ofNat 8 q]) ∧
        ∀ q ∈ d.left, free q = true → ∃ k : LinkTok, (t.elem e).out[Fin.ofNat 8 q] = x.out[Fin.ofNat 8 q] ++ [k] ∧ k.tok.ctx = d.ctx ∧
          k.tok.iter = d.iter ∧ k.tok.eos = d.eos ∧ k.tok.kill = d.kill)) ∧
  ∀ (s : State) (e : ElemAt) (ical : Bool) (d f : Drain),
    let x := s.elem e
    let m := x.mpart ical
    let free := fun q : Nat => decide (1 ≤ s.outFree e ical (Fin.ofNat 8 q))
    let left := d.left.filter fun q => !free q
    m.drains = [d, f] → (∀ r ∈ m.rows, r.2.count ≤ (x.plane ical).m.descs[r.2.desc].kcount.toNat) → d.left.Nodup → f.left.Nodup →
    (∀ q ∈ d.left ++ f.left, q < 8) → s.moving e.at_ ical = true →
    ∃ t kept, exec (.mxRowDrain e ical) s = .next t ∧
      ((t.elem e).mpart ical).drains = (if left = [] then [] else [{ d with left := left }]) ++ (if kept = [] then [] else [{ f with left := kept }]) ∧
        (∀ q ∈ f.left, q ∈ left → q ∈ kept) ∧ (∀ q ∈ f.left, q ∉ d.left → (q ∈ kept ↔ free q = false)) ∧
        (∀ q ∈ f.left, free q = false → (t.elem e).out[Fin.ofNat 8 q] = x.out[Fin.ofNat 8 q]) ∧
        ∀ q ∈ f.left, q ∉ d.left → free q = true → ∃ k : LinkTok, (t.elem e).out[Fin.ofNat 8 q] = x.out[Fin.ofNat 8 q] ++ [k] ∧ k.tok.ctx = f.ctx ∧
          k.tok.iter = f.iter ∧ k.tok.eos = f.eos ∧ k.tok.kill = f.kill

/-- A row is picked, accumulates its groups of sixteen products rounded once each, and drains in column order. -/
def Obligations.MatrixRowsRun : Prop := Claim.MatrixRowPicked ∧ Claim.MatrixRowCommits ∧ Claim.MatrixRowDrains

/-! ### Streams and sparse updates -/

/-- R217, R33: the answer to an element's message is an I32 token of VLEN 3, its lanes the two results, the status and the MOP, with the tags of the message;
it enters the channel that the message names where that admits it and has room and no earlier reply of its engine to its sender waits (13 R435, 14
R454), and waits there otherwise. The answer of a sender that is gone is
discarded; a refusal without a route raises the engine's fault, at the M-element and descriptor for a matrix message (11 R378), and an item found
complete is none (R34); a relay packet's answer completes it. -/
def Claim.AnswersReachTheirSenders : Prop :=
  ∀ (s : State) (m : Msg) (status lane0 lane1 k l : Nat) (ical : Bool) (islot : Fin 16) (ctx : BitVec 6) (iter : BitVec 12),
    let el := ElemAt.ofKey k
    let t := s.answer m status lane0 lane1
    (m.sender = .elem k ical islot l ctx iter → s.senderGone l = false →
      (∀ target c, m.reply = some (target, c) →
        let e := ElemAt.ofKey target
        let al := (s.launch ((s.stripe e.at_).conf ical).launch).alloc e.at_.ring.die
        let wrap := s.crossing el.at_ ical && decide (e.at_ ≠ el.at_)
        let fits := s.moving e.at_ ical && s.admits e.at_ ical wrap ((s.stripe el.at_).parity ical) && decide (s.queueFree e ical c ≠ 0)
        let ahead := (s.ring e.at_.ring).heldReplies.any fun h => h.sender == k && h.ical == ical && h.cls == m.cls
        (fits = true → ahead = false → al.alias_ iter = false → al.isKilled iter = false → Hdr.accepts ((s.elem e).plane ical).hdr c.val .i32 = true →
          ∃ y : Token, (t.elem e).queue ical c = (s.elem e).queue ical c ++ [y] ∧ y.ctx = ctx ∧ y.iter = iter ∧ y.eos = false ∧ y.kill = false ∧
            y.body.fmt = .i32 ∧ y.body.vlen = 3 ∧ y.body.lane 0 = .ofNat 32 lane0 ∧ y.body.lane 1 = .ofNat 32 lane1 ∧
            y.body.lane 2 = .ofNat 32 (status % 2 ^ 16) ∧ y.body.lane 3 = .ofNat 32 (bits m.hdr.toNat 31 24)) ∧
        (fits = false ∨ ahead = true → ∃ h, (t.ring e.at_.ring).heldReplies = (s.ring e.at_.ring).heldReplies ++ [h] ∧ h.target = target ∧ h.chan = c)) ∧
      (m.reply = none → status = 0 ∨ m.cls = 6 ∧ status = 2 → t = s.paid el ical l) ∧
      (m.reply = none → status ≠ 0 → ¬(m.cls = 6 ∧ status = 2) →
        Records s t el.at_.ring.die (if m.cls = 2 then 0x34 else if m.cls = 4 then 0x50 else if m.cls = 5 then 0x60 else 0x74)
          (m.hdr.toNat * 2 ^ 32 + status) 1)) ∧
    (m.sender = .elem k ical islot l ctx iter → s.senderGone l = true → t = s.paid el ical l) ∧
    ∀ qid seq, m.sender = .relay qid seq → t = s.finish qid seq status (lane0 % 2 ^ 32 + lane1 % 2 ^ 32 * 2 ^ 32) false

/-- R435: replies of one sender leave in the order of acceptance. A transfer accepted while none is due joins the end of the list; a reply that is due waits
for every earlier transfer of its sender, and leaves at once when there is none. -/
def Claim.StreamRepliesInOrder : Prop :=
  ∀ (s : State) (t : Transfer) (m : Msg) (status a b : Nat),
    (∀ u ∈ (s.ring t.msg.ring).transfers, u.ready = none) → t.ready = none → m.ring = t.msg.ring →
    ((s.push t).ring t.msg.ring).transfers = (s.ring t.msg.ring).transfers ++ [t] ∧
    ((∃ u ∈ (s.ring t.msg.ring).transfers, u.msg.sameSender m = true) →
      ((s.reply m status a b).ring m.ring).transfers = (s.ring m.ring).transfers ++ [{ Transfer.of m with ready := some (status, a, b) }]) ∧
    ((∀ u ∈ (s.ring t.msg.ring).transfers, u.msg.sameSender m = false) → ((s.reply m status a b).ring m.ring).transfers = (s.ring m.ring).transfers)

/-- R418, R423, R433: SOPEN binds a FIFO to its sender over scratchpad slots; SINGRESS binds a further port of the launch to a FIFO in the lowest port that is
free; SSTAT reads a FIFO or a port of the sender's launch and changes nothing. -/
def Claim.StreamBindingMessages : Prop :=
  ∀ (s : State) (p : Params),
    let m := s.focus.msg
    let r := s.ring m.ring
    let f := bits p.p0.toNat 5 0
    m.inst = m.ring.num →
    (∀ x : SEnd,
      let scaled := bit p.p0.toNat 8
      let size := bits p.p1.toNat 11 0 + 1
      let n := (if scaled then 96 else 64) * size
      s.mEnd m (bits p.p1.toNat 31 16) space1 (fun r => r.canRead && r.canWrite) = some x → s.mRange m (some x) (64 * p.p2.toNat) n = true →
      x.res.vers = false → bits p.p0.toNat 7 6 = 0 → bits p.p0.toNat 15 9 = 0 → bits p.p0.toNat 31 28 = 0 → bits p.p1.toNat 15 12 = 0 → p.p3 = 0 →
      (scaled = true ↔ bits p.p0.toNat 27 16 ≠ 0) → tabFind f r.fifos = none →
      StrmReplies s (.sopen p) n 0 fun u =>
        tabFind f (u.ring m.ring).fifos =
          some ⟨m.launch, m.ctx, scaled, false, .ofNat 12 (bits p.p0.toNat 27 16), size, x.base + 64 * p.p2.toNat, [], 0⟩ ∧ u.elems = s.elems) ∧
    (∀ (y : Fifo) (k : Nat),
      let fifo := bits p.p0.toNat 13 8
      p.p0.toNat < 2 ^ 28 → bits p.p0.toNat 7 4 = 0 → bits p.p0.toNat 15 14 = 0 → p.p1.toNat < 2 ^ 7 → p.p2 = 0 → p.p3 = 0 →
      tabFind fifo r.fifos = some y → y.launch = m.launch →
      (∀ q ∈ r.ports, ¬(q.2.launch = m.launch ∧ q.2.num = bits p.p0.toNat 3 0) ∧ (q.2.fifo = some (Fin.ofNat 64 fifo) → q.2.ended = true)) →
      lowest (fun i => (tabFind i r.ports).isNone) 64 = some k →
      StrmReplies s (.singress p) 0 0 fun u =>
        ∃ z, tabFind k (u.ring m.ring).ports = some z ∧ z.launch = m.launch ∧ z.num = bits p.p0.toNat 3 0 ∧ z.fifo = some (Fin.ofNat 64 fifo) ∧
          z.next = 0 ∧ z.ended = false ∧ z.gm1 = bits p.p0.toNat 27 16 ∧ z.slot = Fin.ofNat 16 (bits p.p1.toNat 3 0) ∧
          z.chan = Fin.ofNat 8 (bits p.p1.toNat 6 4)) ∧
    (p.p0.toNat < 64 → p.p1 = 0 → p.p2 = 0 → p.p3 = 0 →
      (tabFind f r.fifos = none → exec (.sstat p) s = .next (s.reply m 0 0 0)) ∧
      ∀ y, tabFind f r.fifos = some y →
        (y.launch = m.launch →
          exec (.sstat p) s = .next (s.reply m 0 ((y.slots.filter Option.isSome).length % 2 ^ 13 + y.closed.toNat * 2 ^ 16 + 2 ^ 17)
            (r.transfers.filter fun t => t.ready.isNone && t.fifo.any fun y => y.1.val == f).length)) ∧
        (y.launch ≠ m.launch → exec (.sstat p) s = .next (s.turnAway m 0x0606))) ∧
    (p.p0.toNat / 256 = 1 → bits p.p0.toNat 7 6 = 0 → p.p1 = 0 → p.p2 = 0 → p.p3 = 0 → ∀ z, tabFind f r.ports = some z → z.launch = m.launch →
      exec (.sstat p) s = .next (s.reply m 0 (z.next % 2 ^ 32) (z.ended.toNat + 2)))

/-- R415 to R417, R428, R432: SSYNC and SSYNCW are accepted on an aligned scratchpad word; SCLOSE closes its FIFO to further transfers and waits for those
before it; SABORT answers how many transfers of the sender's context it abandons, and each becomes due with STRM_ABORTED and the bytes that it has
moved. -/
def Claim.StreamControlMessages : Prop :=
  ∀ (s : State) (p : Params),
    let m := s.focus.msg
    let r := s.ring m.ring
    m.inst = m.ring.num →
    (∀ x : SEnd, s.mRange m (some x) (8 * p.p1.toNat) 8 = true → x.res.vers = false → x.base % 8 = 0 → bits p.p3.toNat 31 16 = 0 →
      (s.mEnd m (bits p.p0.toNat 31 16) space1 Res.canRead = some x → exec (.ssync p) s = .next (s.push { Transfer.of m with dst := some x })) ∧
      (s.mEnd m (bits p.p0.toNat 31 16) space1 Res.canWrite = some x → bits p.p0.toNat 15 1 = 0 →
        exec (.ssyncw p) s = .next (s.push { Transfer.of m with dst := some x }))) ∧
    (∀ x : Fifo, p.p0.toNat < 64 → p.p1 = 0 → p.p2 = 0 → p.p3 = 0 → tabFind p.p0.toNat r.fifos = some x → x.launch = m.launch → x.ctx = m.ctx →
      x.closed = false →
      ∃ u : State, exec (.sclose p) s = .next (u.push (Transfer.of m)) ∧ tabFind p.p0.toNat (u.ring m.ring).fifos = some { x with closed := true } ∧
        (u.ring m.ring).transfers = r.transfers) ∧
    (let f := p.p1.toNat
     let hit := fun t : Transfer => t.ready.isNone && t.msg.ctx == m.ctx && t.msg.pasid == m.pasid && [3, 4, 5, 7, 8, 9, 10].contains t.msg.mop &&
       (if p.p0 = 0 then t.msg.el == m.el && t.msg.plane == m.plane else if p.p0 = 1 then t.fifo.any fun y => y.1.val == f else true)
     p.p0.toNat < 3 → f < 64 → p.p2 = 0 → p.p3 = 0 → (p.p0 = 1 → ∃ x, tabFind f r.fifos = some x ∧ x.launch = m.launch ∧ x.ctx = m.ctx) →
      StrmReplies s (.sabort p) (r.transfers.filter hit).length 0 fun u =>
        (u.ring m.ring).transfers = r.transfers.map fun t => if hit t then { t with ready := some (0x060B, t.moved, 0) } else t)

/-- Answers reach their senders in order; FIFOs and ports (the lowest free: log 45) are bound, read and closed, transfers aborted. -/
def Obligations.StreamControl : Prop := Claim.AnswersReachTheirSenders ∧ Claim.StreamRepliesInOrder ∧ Claim.StreamBindingMessages ∧ Claim.StreamControlMessages

/-- R428 to R431: the transfers. Each is accepted when its entries are usable, of the spaces and rights that its message asks, its ranges lie in them, and its
spare bits are zero; it keeps the entries as they stand. A destination index 0 names a FIFO. -/
def Claim.StreamTransfersAccepted : Prop :=
  ∀ (s : State) (p : Params) (a b c : SEnd),
    let m := s.focus.msg
    let hi := bits p.p0.toNat 31 16
    let di := bits p.p0.toNat 15 0
    let ff := decide (di = 0)
    let f := bits p.p2.toNat 5 0
    let n := 4 * bits p.p3.toNat 29 0
    let tb := 4 * (bits p.p2.toNat 11 8 + 1)
    let row := 64 * (bits p.p1.toNat 15 0 + 1)
    let k := bits p.p3.toNat 31 20 + 1
    let fvOk := bits p.p2.toNat 31 12 = 0 ∧ bits p.p2.toNat 7 6 = 0
    m.inst = m.ring.num →
    (s.mEnd m hi space0 Res.canRead = some a → s.mRange m (some a) (64 * p.p1.toNat) n = true → a.res.fmt < 4 → bits p.p3.toNat 31 30 = 0 → n ≠ 0 →
      (ff = false → s.mEnd m di space1 Res.canWrite = some b → s.mRange m (some b) (64 * p.p2.toNat) n = true → b.res.vers = false →
        StrmTakes s (.srdh p) false none { Transfer.of m with src := some a, dst := some b }) ∧
      (ff = true → fvOk → StrmTakes s (.srdh p) false (some (f, (n + tb - 1) / tb)) { Transfer.of m with src := some a })) ∧
    (s.mEnd m hi space1 Res.canRead = some a → s.mEnd m di space0 Res.canWrite = some b → s.mRange m (some a) (64 * p.p1.toNat) n = true →
      s.mRange m (some b) (64 * p.p2.toNat) n = true → b.res.vers = false → a.res.fmt < 4 → bits p.p3.toNat 31 30 = 0 →
      StrmTakes s (.swrh p) false none { Transfer.of m with src := some a, dst := some b }) ∧
    (s.mEnd m hi anySpace Res.canRead = some a → s.mEnd m (bits p.p1.toNat 31 16) anySpace Res.canRead = some c →
      s.mRange m (some c) (4 * p.p2.toNat) (4 * k) = true → a.res.fmt < 4 →
      (ff = false → s.mEnd m di anySpace Res.canWrite = some b → s.mRange m (some b) (64 * bits p.p3.toNat 19 0) (k * row) = true → b.res.vers = false →
        StrmTakes s (.sgath p) false none { Transfer.of m with src := some a, dst := some b, idx := some c }) ∧
      (ff = true → bits p.p3.toNat 19 6 = 0 →
        StrmTakes s (.sgath p) false (some (bits p.p3.toNat 5 0, k * row / 64)) { Transfer.of m with src := some a, idx := some c })) ∧
    (s.mEnd m hi space1 Res.canRead = some a → s.mEnd m di anySpace Res.canWrite = some b →
      s.mEnd m (bits p.p1.toNat 31 16) anySpace Res.canRead = some c → s.mRange m (some a) (64 * bits p.p3.toNat 19 0) (k * row) = true →
      s.mRange m (some c) (4 * p.p2.toNat) (4 * k) = true → b.res.vers = false → a.res.fmt < 4 →
      StrmTakes s (.sscat p) false none { Transfer.of m with src := some a, dst := some b, idx := some c }) ∧
    (let t := bits p.p3.toNat 31 16 + 1
     let blk := bits p.p3.toNat 9 8
     s.mEnd m hi space0 Res.canRead = some a → s.mEnd m di space0 Res.canRead = some c → s.mRange m (some a) (64 * p.p1.toNat) (64 * t) = true →
      s.mRange m (some c) p.p2.toNat (t * bytesInUse (Fmt.ofCode a.res.fmt) blk) = true → 4 ≤ a.res.fmt → blk ≠ 3 → bits p.p3.toNat 7 6 = 0 →
      StrmTakes s (.sldbs p) true (some (bits p.p3.toNat 5 0, t)) { Transfer.of m with src := some a, idx := some c })

/-- R429, R430: SSTRIDE loads a table of sixteen dimensions whose counts are not zero and whose product fits 32 bits, and answers that product, once no SSYNC
of its sender before it is unmet (R417); SCOPY under two tables of one element count is accepted when every element lies in its entry and, within one entry,
the spans do not meet. -/
def Claim.StrideTablesAndCopies : Prop :=
  ∀ (s : State) (p : Params),
    let m := s.focus.msg
    m.inst = m.ring.num →
    (∀ (x : SEnd) (bs : List Byte),
      let k := bits p.p0.toNat 5 0
      let ds := (dimsOf bs).map fun d => (d.1, d.2.2)
      s.mEnd m (bits p.p1.toNat 31 16) anySpace Res.canRead = some x → s.mRange m (some x) (64 * p.p2.toNat) 256 = true → p.p0.toNat < 63 →
      bits p.p1.toNat 15 0 = 0 → p.p3 = 0 → s.endRead m x (64 * p.p2.toNat) 256 = .bytes bs →
      (∀ d ∈ dimsOf bs, d.1 ≠ 0 ∧ d.2.1 = 0) → tabCount ds < 2 ^ 32 → (∀ q, tabFind k (s.ring m.ring).strides = some q → q.1 = m.launch) →
      (s.syncBefore m = true → exec (.sstride p) s = .next (s.requeue m)) ∧ (s.syncBefore m = false →
      StrmReplies s (.sstride p) (tabCount ds) 0 fun u => tabFind k (u.ring m.ring).strides = some (m.launch, ds))) ∧
    ∀ (a b : SEnd) (ta tb : List (Nat × Int)),
      let si := bits p.p0.toNat 31 16
      let di := bits p.p0.toNat 15 0
      let st := bits p.p3.toNat 5 0
      let dt := bits p.p3.toNat 13 8
      let es := 2 ^ bits p.p3.toNat 17 16
      let tk := 4 * (bits p.p2.toNat 11 8 + 1)
      let offs := fun (t : List (Nat × Int)) (o : Nat) => (List.range (tabCount t)).map fun i => (o : Int) + tabOff t i
      s.mEnd m si anySpace Res.canRead = some a → p.p3.toNat < 3 * 2 ^ 16 → bits p.p3.toNat 15 14 = 0 → bits p.p3.toNat 7 6 = 0 →
      (st = 63 → a.res.layout = 0) → s.strideTab m st (some a) es = some ta → p.p1.toNat % es = 0 →
      (∀ o ∈ offs ta p.p1.toNat, 0 ≤ o ∧ s.mRange m (some a) o.toNat es = true) → a.res.fmt < 4 →
      (di ≠ 0 → s.mEnd m di anySpace Res.canWrite = some b → b.res.vers = false → (dt = 63 → b.res.layout = 0) →
        s.strideTab m dt (some b) es = some tb → tabCount tb = tabCount ta → p.p2.toNat % es = 0 →
        (∀ o ∈ offs tb p.p2.toNat, 0 ≤ o ∧ s.mRange m (some b) o.toNat es = true) →
        (si = di → spansMeet es (offs ta p.p1.toNat) (offs tb p.p2.toNat) = false) →
        StrmTakes s (.scopy p) false none { Transfer.of m with src := some a, dst := some b, srcTab := ta, dstTab := tb }) ∧
      (di = 0 → dt = 63 → bits p.p2.toNat 31 12 = 0 → bits p.p2.toNat 7 6 = 0 →
        StrmTakes s (.scopy p) false (some (bits p.p2.toNat 5 0, (tabCount ta * es + tk - 1) / tk)) { Transfer.of m with src := some a, srcTab := ta })

/-- Transfers are accepted when their entries, ranges and spare bits are good, and stride tables are loaded and checked. -/
def Obligations.StreamTransfersAccepted : Prop := Claim.StreamTransfersAccepted ∧ Claim.StrideTablesAndCopies

/-- R416, R417, R427, R435: a transfer reads its index list, moves what is left of its pieces and becomes due with its lanes, here shown byte by byte for
SRDH into the scratchpad. It waits for an earlier unmet SSYNC of its sender, and for the writes of its sender that it would overtake; SSYNCW waits for
its sender's transfers and synchronisations before it; SCLOSE becomes due with the tokens of its FIFO's stream once no transfer into it is left; SSYNCW adds to its word, or with
SET starts a new generation, answers the word, and wakes every watch on it when TOTAL changes (R415); an SSYNC whose word meets it becomes due and one
whose word does not changes nothing. -/
def Obligations.StreamTransfersPerform : Prop :=
  ∀ (s : State) (r : RingAt) (k : Nat) (t : Transfer),
    let p := t.msg.p
    let wide := p.p2.toNat + bits p.p3.toNat 15 0 * 2 ^ 32
    let word := fun (u : State) (x : SEnd) => bytesNat (spadRead (u.ring r).spad (x.base + 8 * p.p1.toNat) 8)
    (s.ring r).transfers[k]? = some t → t.ready = none → t.msg.ring = r → Memory.wf (s.ring r).spad = true →
    (∀ (a b : SEnd) (bs : Nat → Byte),
      let n := 4 * bits p.p3.toNat 29 0
      t.msg.mop = 3 → t.moved = 0 → s.senderGone t.msg.launch = false → t.fifo = none → t.src = some a → t.dst = some b → a.res.space = 0 → b.res.space = 1 → n ≤ spadBytes →
      (∀ u ∈ (s.ring r).transfers.take k, u.ready = none → u.msg.sameSender t.msg = false) →
      s.spans t.msg [(a, false, 64 * p.p1.toNat, n)] = .ok → (∀ i < n, s.endByte t.msg a (64 * p.p1.toNat + i) = some (bs i)) →
      ∃ u : State, exec (.streamTransferDone r k) s = .next (u.due r k (0, n, 0)) ∧
        (∀ i < n, cellGet ((b.base + 64 * p.p2.toNat + i) % spadBytes) (u.ring r).spad = bs i) ∧ u.hbm = s.hbm ∧ u.hostMem = s.hostMem ∧
        (u.ring r).strmRd = (s.ring r).strmRd + .ofNat 64 n ∧ (u.ring r).strmWr = (s.ring r).strmWr + .ofNat 64 n) ∧
    (∀ (ixs : List Nat),
      let rest := skipBytes t.moved (s.pieces t ixs)
      let x := State.movePieces t rest s 0 0
      let rows := bits p.p3.toNat 31 20 + 1
      let row := 64 * (bits p.p1.toNat 15 0 + 1)
      let bad := (ixs.filter fun i => s.badRow t.msg (if t.msg.mop = 7 then t.src else t.dst) row i).length
      t.msg.isTransfer = true → s.senderGone t.msg.launch = false →
      (∀ u ∈ (s.ring r).transfers.take k, u.ready = none → u.msg.mop = 10 → u.msg.sameSender t.msg = false) →
      ([7, 8].contains t.msg.mop = true → t.ixs = none → ∀ bs, s.endRead t.msg (t.srcEnd 1) (4 * p.p2.toNat) (4 * rows) = .bytes bs →
        ixs = (bytesWords rows bs).map BitVec.toNat → exec (.streamTransferDone r k) s =
          exec (.streamTransferDone r k) (s.putTransfer r k { t with ixs := some ixs } (4 * rows) 0)) ∧
      ([3, 4, 5, 9].contains t.msg.mop = true ∧ t.ixs = none ∧ ixs = [] ∨ [7, 8].contains t.msg.mop = true ∧ t.ixs = some ixs →
      (s.overtakes r k t rest = true → exec (.streamTransferDone r k) s = .next s) ∧
      (s.overtakes r k t rest = false →
      s.spans t.msg (((rest.filter fun y => y.from_ ≠ 2).map fun y => (t.srcEnd y.from_, false, y.src, y.len)) ++
        rest.map fun y => (t.dstEnd, true, y.dst, y.len)) = .ok →
      (x.2.2.2 = true →
        ∃ u : State, exec (.streamTransferDone r k) s = .next (u.due r k (t.lanes bad)) ∧ u.hbm = x.1.hbm ∧ u.hostMem = x.1.hostMem ∧
          (u.ring r).spad = (x.1.ring r).spad ∧ (u.ring r).strmRd = (x.1.ring r).strmRd + .ofNat 64 x.2.2.1 ∧
          (u.ring r).strmWr = (x.1.ring r).strmWr + .ofNat 64 x.2.1) ∧
      (x.2.2.2 = false → ∃ u : State, exec (.streamTransferDone r k) s = .next (u.due r k (0x060F, t.moved + x.2.1, 0)) ∧ u.hbm = x.1.hbm)))) ∧
    ((∃ u ∈ (s.ring r).transfers.take k, u.ready = none ∧ u.msg.sameSender t.msg = true ∧
        (u.msg.mop = 10 ∧ t.msg.isTransfer = true ∨ t.msg.mop = 11 ∧ u.msg.mop ≠ 2)) →
      exec (.streamTransferDone r k) s = .next s) ∧
    (∀ x : Fifo,
      let f := bits p.p0.toNat 5 0
      t.msg.mop = 2 → tabFind f (s.ring r).fifos = some x →
      (∀ u ∈ (s.ring r).transfers.take k, u.ready = none → ∀ y, u.fifo = some y → y.1.val ≠ f) →
      exec (.streamTransferDone r k) s =
        .next (State.onRing (s.due r k (0, (x.delivered + x.slots.length) % 2 ^ 32, 0)) r (Ring.reap f))) ∧
    (∀ x : SEnd, t.msg.mop = 11 → t.dst = some x →
      (∀ u ∈ (s.ring r).transfers.take k, u.ready = none → u.msg.mop = 2 ∨ u.msg.sameSender t.msg = false) →
      let w := word s x
      let y := if bit p.p0.toNat 0 then (w / 2 ^ 48 + 1) % 2 ^ 16 * 2 ^ 48 + wide else w / 2 ^ 48 * 2 ^ 48 + (w + wide) % 2 ^ 48
      ∃ u : State, exec (.streamTransferDone r k) s = .next (u.due r k (0, y % 2 ^ 32, y / 2 ^ 32)) ∧ word u x = y ∧ u.hbm = s.hbm ∧
        (y % 2 ^ 48 ≠ w % 2 ^ 48 → ∀ v ∈ (s.ring r).watches, ∀ e, s.opRes (ElemAt.ofKey v.op.elem) v.op.launch v.op.w0 = some e → e.space = 1 →
          (s.spadBase v.op e + (v.op.a.lane 0).toNat) % spadBytes = (x.base + 8 * p.p1.toNat) % spadBytes →
          ∀ z ∈ (u.ring r).watches, z.op.id ≠ v.op.id)) ∧
    ∀ x : SEnd, t.msg.mop = 10 → t.dst = some x → s.senderGone t.msg.launch = false →
      let w := word s x
      let met := w / 2 ^ 48 = bits p.p0.toNat 15 0 ∧ wide ≤ w % 2 ^ 48 ∨
        seqAfter (.ofNat 16 (w / 2 ^ 48)) (.ofNat 16 (bits p.p0.toNat 15 0)) = true
      (met → exec (.ssyncMet r k) s = .next (s.due r k (0, w % 2 ^ 32, w / 2 ^ 32))) ∧ (¬met → exec (.ssyncMet r k) s = .next s)

/-- R420, R424, R425: a port delivers its next token under the iteration that its launch's map gives its index, or a new one that a grant allocates, with
EOS when it is its stream's last, or ends a cohort of a launch that is not resident; a block-scaled token is bound to a new scale entry, and waits while
there is none. A port whose stream has ended puts an EOS|KILL token for a further cohort. A port that may not deliver in its cohort, or finds no credit
or no grant, changes nothing; the first delivery to an element that takes none raises STRM_NO_TARGET (0x51). -/
def Claim.PortsDeliver : Prop :=
  ∀ (s : State) (r : RingAt) (n : Fin 64) (p : Port),
    let x := s.launch p.launch
    let e := s.portElem r p
    let g := (s.stripe e.at_).conf x.ical
    let i := p.next / (p.gm1 + 1)
    let go := exec (.portDeliver r n) s
    let al := fun u : State => (u.launch g.launch).alloc e.at_.ring.die
    let body := fun y : PortTok => wordsReg y.fmt y.vlen (bytesWords (y.vlen.val + 1) y.data)
    let ends := fun y : PortTok => y.last || (!x.resident && (p.next + 1) % x.dwell == 0)
    let takes := fun (u : State) (y : PortTok) (v : BitVec 12) =>
      (al u).alias_ v = false ∧ (al u).isKilled v = false ∧ Hdr.accepts ((s.elem e).plane x.ical).hdr p.chan.val y.fmt = true
    tabFind n.val (s.ring r).ports = some p →
    (x.cancelled = true ∨ x.faulted = true ∨ s.cohortFor r p = false → go = .next s) ∧
    (x.cancelled = false → x.faulted = false → s.cohortFor r p = true →
      (∀ u, p.ended = false → s.portRead r p = .wait u → go = .next u) ∧
      (s.hasTarget r p = false → p.ended = true ∨ (∃ y, s.portRead r p = .tok y) →
        ∃ t, go = .next t ∧ Records s t r.die 0x51 (p.num * 2 ^ 8 + p.slot.val * 2 ^ 4 + p.chan.val) 1) ∧
      (s.hasTarget r p = true →
        (∀ (y : PortTok) (v : BitVec 12), p.ended = false → s.portRead r p = .tok y → y.scale = none → tabFind i x.idxMap = some v →
          (s.queueFree e x.ical p.chan = 0 → go = .next s) ∧
          (s.queueFree e x.ical p.chan ≠ 0 → takes s y v →
            ∃ t q, go = .next t ∧
              (t.elem e).queue x.ical p.chan = (s.elem e).queue x.ical p.chan ++ [⟨body y, g.ctx, v, ends y, false, false⟩] ∧
              tabFind n.val (t.ring r).ports = some q ∧ q.next = p.next + 1 ∧ q.ended = y.last ∧ q.lastIter = v ∧
              (t.ring r).strmRd = (s.ring r).strmRd + .ofNat 64 y.data.length)) ∧
        (∀ (y : PortTok) (v : BitVec 12) b cb u sc, p.ended = false → s.portRead r p = .tok y → y.scale = some (b, cb, u, sc) →
          tabFind i x.idxMap = some v → s.queueFree e x.ical p.chan ≠ 0 →
          let c := (s.ring r).scl
          let a := c.alloc ⟨true, g.ctx, 0, u, y.fmt, b, cb, v, .ofNat 12 p.launch, sc⟩
          (c.canAlloc g.ctx = true → takes s y v →
            ∃ t, go = .next t ∧
              (t.elem e).queue x.ical p.chan =
                (s.elem e).queue x.ical p.chan ++ [⟨{ body y with bind := .ofNat 11 a.1, bgen := a.2.1 }, g.ctx, v, ends y, false, false⟩] ∧
              (t.ring r).scl.entry a.1 = a.2.2.entry a.1) ∧
          (c.canAlloc g.ctx = false → ∃ t, go = .next t ∧ t.elems = s.elems ∧ tabFind n.val (t.ring r).ports = some p)) ∧
        (∀ (y : PortTok), p.ended = false → s.portRead r p = .tok y → tabFind i x.idxMap = none →
          (x.canGrant p.launch r.die s.fc = false → go = .next s) ∧
          (x.canGrant p.launch r.die s.fc = true → y.scale = none → s.queueFree e x.ical p.chan ≠ 0 →
            takes (s.allocIter p.launch r.die false) y x.alloc0.next →
            ∃ t q, go = .next t ∧
              (t.elem e).queue x.ical p.chan = (s.elem e).queue x.ical p.chan ++ [⟨body y, g.ctx, x.alloc0.next, ends y, false, false⟩] ∧
              tabFind n.val (t.ring r).ports = some q ∧ q.next = p.next + 1 ∧ q.lastIter = x.alloc0.next)) ∧
        (p.ended = true ∨ s.portRead r p = .over → s.queueFree e x.ical p.chan ≠ 0 →
          ∃ t q k, go = .next t ∧ (t.elem e).queue x.ical p.chan = (s.elem e).queue x.ical p.chan ++ [k] ∧ k.kill = true ∧
            k.eos = true ∧ k.ctx = g.ctx ∧ k.iter = p.lastIter ∧ tabFind n.val (t.ring r).ports = some q ∧ q.ended = true ∧
            q.marked = s.cohortsOf r p.launch)))

/-- R421, R422, R426: a READY launch without an ingress list needs none; one with a list has it read entry by entry up to its end entry, at most 17, and
checked, and ends with the status of the first entry that fails. The first token of a port, or the end of its stream, wakes a bound launch, also where
another port of it waits; a launch that is not bound, or awake, is left as it is. -/
def Claim.IngressListsChecked : Prop :=
  ∀ (s : State) (die : Fin 4) (entry : BitVec 12),
    let l := launchKey die entry.toNat
    let x := s.launch l
    let w := x.args[15].toNat
    (x.state = .ready → x.ingress = none → x.cancelled = false → x.faulted = false →
      (bits w 31 16 = 0 → ∃ t, exec (.ingressListCheck die entry) s = .next t ∧ (t.launch l).ingress = some [] ∧ (t.launch l).state = .ready) ∧
      (bits w 31 16 ≠ 0 → ((s.resource x.pasid none (bits w 31 16)).filter fun r => r.usable && r.space == 0 && r.canRead) = none →
        exec (.ingressListCheck die entry) s = .next (s.doneLaunch l 0x0602)) ∧
      ∀ (r : Res),
        let off := 64 * bits w 15 0
        let rd := fun o => s.cRead die x.pasid r o 32 none (s.launchQueue l) { FRec.zero with plane := 3, die := .ofNat 2 die.val, pasid := x.pasid }
        let es := listRead rd r.extent off 17 0 []
        let u := fun n : Nat => s.onRing ⟨die, 0⟩ fun y => { y with strmRd := y.strmRd + .ofNat 64 (32 * n) }
        bits w 31 16 ≠ 0 → s.resource x.pasid none (bits w 31 16) = some r → r.usable = true → r.space = 0 → r.canRead = true →
        (∀ (n : Nat) (b : Nat → List Byte),
          let kind := fun i => bits ((bytesWords 8 (b i)).getD 0 0).toNat 31 30
          n ≤ 16 → (∀ i < n, rd (off + 32 * i) = .bytes (b i) ∧ kind i ≠ 0 ∧ off + 32 * (i + 1) ≤ r.extent) →
          (r.extent < off + 32 * (n + 1) → es = .range) ∧
          (rd (off + 32 * n) = .bytes (b n) → kind n = 0 ∨ n = 16 → off + 32 * (n + 1) ≤ r.extent →
            es = .entries ((List.range (n + 1)).map fun i => bytesWords 8 (b i)))) ∧
        (es = .range → exec (.ingressListCheck die entry) s = .next (s.doneLaunch l 0x0603)) ∧
        ∀ ws, es = .entries ws →
          (∀ ps, s.listCheck x.pasid ws [] = .inr ps →
            exec (.ingressListCheck die entry) s = .next ((u ws.length).onLaunch l fun y => { y with ingress := some ps })) ∧
          ∀ st, s.listCheck x.pasid ws [] = .inl st → exec (.ingressListCheck die entry) s = .next ((u ws.length).doneLaunch l st)) ∧
    (x.state ≠ .bound ∨ x.woken = true → exec (.ingressFirstToken die entry) s = .next s) ∧
    ∀ (g : Seg) (rest : List Seg),
      let r : RingAt := ⟨g.die, g.ring⟩
      let ps := ((s.ring r).ports.map Prod.snd).filter fun p => p.launch == l && p.next == 0 && !p.ended
      let wakes := fun (u : State) (p : Port) => u.portRead r p = .over ∨ ∃ y, u.portRead r p = .tok y
      let woken := fun u : State => u.onLaunch l fun y => { y with woken := true }
      x.state = .bound → x.woken = false → x.segs = g :: rest →
      (∀ p, ps = [p] → (wakes s p → exec (.ingressFirstToken die entry) s = .next (woken s)) ∧
        ∀ u, s.portRead r p = .wait u → exec (.ingressFirstToken die entry) s = .next u) ∧
      ∀ p q u, ps = [p, q] → s.portRead r p = .wait u → wakes u q → exec (.ingressFirstToken die entry) s = .next (woken u)

/-- A port delivers its tokens under the iterations of its launch, and an ingress list is read and checked before binding. -/
def Obligations.PortsDeliver : Prop := Claim.PortsDeliver ∧ Claim.IngressListsChecked

/-- R444, R446, R451, R452: an update message is accepted when its destination grants update and holds no versions, its format is one of its operator's and
its ranges and parameters are good: immediate with one word, or over a list of rows. UORDER sets the mode of its launch and answers the old one; UFLUSH
waits for its place in the order. A destination that is no usable entry with the update right is refused with 0x0702, once its sender's earlier messages
have replied (R454). -/
def Claim.SparseMessagesAccepted : Prop :=
  ∀ (s : State) (p : Params) (a b c : SEnd),
    let m := s.focus.msg
    let old := s.ring m.ring
    let w := p.p0.toNat
    let row := 4 * (bits w 7 0 + 1)
    let n := bits p.p2.toNat 11 0 + 1
    let into := fun (i : Instr) (x : SparseMsg) => ∃ t, exec i s = .next t ∧ t.elems = s.elems ∧ t.hbm = s.hbm ∧
      (t.ring m.ring).sparse = old.sparse ++ [{ x with ord := old.ordered.contains m.launch }] ∧ (t.ring m.ring).spad = old.spad
    m.inst = m.ring.num →
    (∀ f ∈ ([(.uadd p, 1), (.ufadd p, 2), (.umax p, 3), (.umin p, 4), (.uor p, 5), (.uand p, 6), (.uxchg p, 7), (.ucas p, 8)] : List (Instr × Nat)),
      (s.mEnd m (bits w 31 16) anySpace Res.canUpdate = none →
        ((∀ x ∈ old.sparse, x.msg.sameSender m = false) → exec f.1 s = .next (s.refuse m 0x0702)) ∧
        ((∃ x ∈ old.sparse, x.msg.sameSender m = true) → into f.1 { SparseMsg.of m with expanded := true, refused := some 0x0702 })) ∧
      (s.mEnd m (bits w 31 16) anySpace Res.canUpdate = some a → a.res.vers = false → updFmtOk f.2 (bits w 15 13) = true →
      (bit w 12 = true → f.2 = 1) → (bits w 11 10 ≠ 0 → f.2 = 2) →
      (bits w 9 8 = 1 → bits w 7 0 = 0 → p.p1.toNat % 4 = 0 → (f.2 ≠ 8 → p.p3 = 0) → s.mRange m (some a) p.p1.toNat 4 = true →
        into f.1 { SparseMsg.of m with dst := some a }) ∧
      (bits w 9 8 = 0 → s.mEnd m (bits p.p1.toNat 31 16) anySpace Res.canRead = some b → s.mEnd m (bits p.p1.toNat 15 0) anySpace Res.canRead = some c →
        s.mRange m (some c) (4 * p.p3.toNat) (4 * n) = true →
        s.mRange m (some b) (64 * bits p.p2.toNat 31 12) ((if f.2 = 8 then 2 * row else row) * n) = true →
        into f.1 { SparseMsg.of m with dst := some a, src := some b, idx := some c }))) ∧
    (p.p0.toNat < 2 → p.p1 = 0 → p.p2 = 0 → p.p3 = 0 →
      ∃ t, exec (.uorder p) s = .next t ∧ (t.ring m.ring).ordered.contains m.launch = decide (p.p0 = 1) ∧
        (∀ l, l ≠ m.launch → (t.ring m.ring).ordered.contains l = old.ordered.contains l) ∧
        ∃ x, (t.ring m.ring).sparse = old.sparse ++ [x] ∧ x.msg = m ∧ x.expanded = true ∧ x.lane0 = (old.ordered.contains m.launch).toNat) ∧
    into (.uflush ⟨0, 0, 0, 0⟩) (SparseMsg.of m)

/-- R445, R447 to R450, R454: an immediate I32 update of a scratchpad word becomes one window entry; the window's oldest entry applies its operator to the word
in one read-modify-write and counts in SUE_RMW; a message that is expanded and owes nothing replies with the word before and after, or with the
status of what it could not do or was refused with. A list's bad index is counted and passed over, a UFLUSH closes the open entries of its context, and with nothing to
expand or to issue nothing changes. -/
def Claim.SparseUpdatesPerform : Prop :=
  ∀ (s : State) (x : SparseMsg),
    let r := s.focus.ring
    let old := s.ring r
    let p := x.msg.p
    let w := p.p0.toNat
    (∀ a : SEnd,
      let at_ := (a.base + p.p1.toNat) % spadBytes
      (old.sparse.find? fun x => !x.expanded) = some x → x.msg.ring = r → bits w 9 8 = 1 → bits w 15 13 = 0 → x.dst = some a → a.res.space = 1 →
      1 ≤ x.msg.mop → x.msg.mop ≤ 8 → x.msg.mop ≠ 2 → x.toks = [] → old.window.length < 1024 →
      ∃ t e, exec .updateExpand s = .next t ∧ (t.ring r).window = old.window ++ [e] ∧ (t.ring r).sueUpdates = old.sueUpdates + 1 ∧ e.place = 2 ∧
        e.addr = at_ / 64 ∧ e.imm = true ∧ e.open_ = false ∧ e.ctx = x.msg.ctx ∧ e.owners = [x.msg.id] ∧
        (∃ v, e.vals = [(at_ % 64, v)] ∧
          v = if x.msg.mop = 8 then .cas p.p3.toNat p.p2.toNat else if x.msg.mop = 1 ∧ bit w 12 = true then .exact p.p2.toInt else .bits p.p2.toNat) ∧
        (t.ring r).sparse = old.sparse.map (fun y =>
          if y.msg.id = x.msg.id then { y with outstanding := y.outstanding + 1, nextIdx := y.nextIdx + 1, toks := [], expanded := true } else y) ∧
        (t.ring r).spad = old.spad) ∧
    (∀ (e : WinEntry) (b : Nat) (v : WinVal),
      let word := fun u : State => bytesNat (spadRead (u.ring r).spad (64 * e.addr + b) 4)
      let m := word s
      let sg := fun n : Nat => (BitVec.ofNat 32 n).toInt
      old.window = [e] → e.place = 2 → e.vals = [(b, v)] → e.key.fmt = .i32 → Memory.wf old.spad = true →
      ∃ t, exec .windowIssue s = .next t ∧ (t.ring r).window = [] ∧ (t.ring r).sueRmw = old.sueRmw + 1 ∧ t.hbm = s.hbm ∧ t.hostMem = s.hostMem ∧
        (∀ n, v = .bits n → n < 2 ^ 32 →
          (e.key.mop = 1 → word t = (m + n) % 2 ^ 32) ∧
          (e.key.mop = 3 → sg (word t) = max (sg m) (sg n)) ∧ (e.key.mop = 4 → sg (word t) = min (sg m) (sg n)) ∧
          (e.key.mop = 5 → word t = m ||| n) ∧ (e.key.mop = 6 → word t = m &&& n) ∧ (e.key.mop = 7 → word t = n)) ∧
        (∀ z, v = .exact z → sg (word t) = max (-2 ^ 31) (min (2 ^ 31 - 1) (sg m + z))) ∧
        ∀ o n, v = .cas o n → n < 2 ^ 32 → word t = if m = o then n else m) ∧
    ((∀ y ∈ old.sparse, y.expanded = true) → exec .updateExpand s = .next s) ∧
    ((old.sparse.find? fun x => !x.expanded) = some x → x.msg.mop = 10 →
      ∃ t, exec .updateExpand s = .next t ∧ (t.ring r).window = old.window.map (fun e => if e.ctx = x.msg.ctx then { e with open_ := false } else e) ∧
        (t.ring r).sparse = old.sparse.map fun y => if y.msg.id = x.msg.id then { y with expanded := true } else y) ∧
    (∀ ib : List Byte,
      let u := updOf x.msg.mop p
      (old.sparse.find? fun x => !x.expanded) = some x → x.msg.mop ≠ 10 → u.imm = false → x.toks = [] → x.msg.ring = r →
      s.lost x.msg (x.idx.getD fifoEnd) false (u.ioff + 4 * x.nextIdx) 4 = false →
      s.endRead x.msg (x.idx.getD fifoEnd) (u.ioff + 4 * x.nextIdx) 4 = .bytes ib → s.mRange x.msg x.dst (u.row * bytesNat ib) u.row = false →
      ∃ t, exec .updateExpand s = .next t ∧ (t.ring r).window = old.window ∧ (t.ring r).sueBadidx = old.sueBadidx + 1 ∧
        (t.ring r).sparse = old.sparse.map fun y =>
          if y.msg.id = x.msg.id then { y with bad := y.bad + 1, nextIdx := y.nextIdx + 1, expanded := y.toks.isEmpty && decide (u.count ≤ y.nextIdx + 1) } else y) ∧
    (old.window = [] → exec .windowIssue s = .next s) ∧
    (∀ st, old.sparse = [x] → x.expanded = true → x.outstanding = 0 → x.refused = some st → ∃ u, exec .sparseUpdatePerformed s = .next u ∧
      u = State.onRing (s.refuse x.msg st) r fun y => { y with sparse := [] }) ∧
    (old.sparse = [x] → x.expanded = true → x.outstanding = 0 → x.refused = none →
      (x.msg.mop = 9 ∨ x.msg.mop = 10 → ∃ u, exec .sparseUpdatePerformed s = .next u ∧
        u = State.onRing (s.answer x.msg 0 x.lane0 0) r fun y => { y with sparse := [] }) ∧
      (1 ≤ x.msg.mop → x.msg.mop ≤ 8 → bits w 9 8 = 1 → x.noKey = true → ∃ u, exec .sparseUpdatePerformed s = .next u ∧
        u = State.onRing (s.refuse x.msg 0x0707) r fun y => { y with sparse := [] }) ∧
      (1 ≤ x.msg.mop → x.msg.mop ≤ 8 → bits w 9 8 = 0 → ∃ (u v : State) (free : Nat), exec .sparseUpdatePerformed s = .next u ∧
        v.elems = s.elems ∧ v.rings = s.rings ∧ v.hbm = s.hbm ∧
        u = State.onRing (v.answer x.msg (if x.noKey then 0x0707 else if x.bad ≠ 0 then 0x0706 else 0) free x.bad) r fun y => { y with sparse := [] })) ∧
    (old.sparse = [x] → x.expanded = true → x.outstanding = 0 → x.refused = none → 1 ≤ x.msg.mop → x.msg.mop ≤ 8 → bits w 9 8 = 1 → x.noKey = false → x.bad = 0 →
      ∃ u, exec .sparseUpdatePerformed s = .next u ∧
        u = State.onRing (s.answer x.msg 0 x.lane0 x.lane1) r fun y => { y with sparse := [] })

/-- Update messages are accepted over good entries, and the window applies each operator in one read-modify-write. -/
def Obligations.SparseUpdates : Prop := Claim.SparseMessagesAccepted ∧ Claim.SparseUpdatesPerform

/-! ### Packets and the controller -/

/-- R150, R154, R164: a packet that completes with CMPL, or is refused, posts one record in the next slot of its completion ring: STATUS, TYPE, SEQ and the new
CSEQ in its first word and VALUE in its second, on a bootstrap queue in the carve-out, on any other through the queue's PASID. Without CMPL nothing is posted;
while the ring is full, or its page is not translated, the record waits. -/
def Obligations.CompletionRecords : Prop :=
  ∀ (s : State) (qid : BitVec 20) (q : Queue) (p : OpenPkt) (status value : Nat) (always : Bool),
    let e := s.latch qid
    let t := s.finish qid p.seq status value always
    let c := e.cpost + 1
    let a := q.cbase.toNat + 64 * (c.toNat % 2 ^ e.csize.toNat)
    let word := status % 2 ^ 16 + p.type.toNat * 2 ^ 24 + p.seq.toNat * 2 ^ 32 + c.toNat * 2 ^ 48
    let boot := q.boot (localIx qid)
    let post := p.cmpl || always
    let room := seqDist e.cpost e.cack < 2 ^ e.csize.toNat
    s.queue qid = some q → (q.opens.find? fun o => o.seq == p.seq) = some p → q.outbox = [] → Memory.wf s.hbm = true →
    (boot = true → post = true → room →
      (t.latch qid).cpost = c ∧ bytesNat (t.hbmRead s.devKey a 8) = word ∧ bytesNat (t.hbmRead s.devKey (a + 8) 8) = value % 2 ^ 64) ∧
    (boot = false → post = true → room → s.fBlock (homeDie qid) q.pasid a 64 true none = none →
      ∃ bs, bs.length = 64 ∧ bytesNat (bs.take 8) = word ∧ bytesNat ((bs.drop 8).take 8) = value % 2 ^ 64 ∧
        (t.latch qid).cpost = c ∧ t.hbm = (s.fWrite (homeDie qid) q.pasid a bs).hbm ∧ t.hostMem = (s.fWrite (homeDie qid) q.pasid a bs).hostMem) ∧
    (post = true → 2 ^ e.csize.toNat ≤ seqDist e.cpost e.cack →
      (t.latch qid).cpost = e.cpost ∧ t.hbm = s.hbm ∧ ∃ y r, t.queue qid = some y ∧ y.outbox = [r]) ∧
    (boot = false → post = true → (s.missVa (homeDie qid) q.pasid a 64 true).isSome = true → badVa a 64 = none →
      (t.latch qid).cpost = e.cpost ∧ t.hbm = s.hbm ∧ ∃ y r, t.queue qid = some y ∧ y.outbox = [r]) ∧
    (post = false → t.latch qid = e ∧ t.hbm = s.hbm ∧ ∃ y, t.queue qid = some y ∧ y.opens = q.opens.filter fun o => o.seq != p.seq)

/-- R144, R146, R156, R157, R170: NOP completes when it is taken. SIGNAL stores its value or adds it, and its VALUE is the word before; on a page that is not
translated it is given back and taken later. WAIT completes with the word read when that meets its OP; otherwise it holds its queue, its hart's watch and vigil
timer armed. -/
def Claim.QueuePackets : Prop :=
  ∀ (s : State) (h : PktHead) (q : Queue) (addr value : Dword) (op : BitVec 3),
    let qid := s.focus.queue
    let d := homeDie qid
    let a := addr.toNat
    let word := bytesNat (s.fRead d q.pasid a 8)
    let met := op = 0 ∧ word ≠ value.toNat ∨ op = 1 ∧ word = value.toNat ∨ op = 2 ∧ 0 ≤ (BitVec.ofNat 64 word - value).toInt
    s.queue qid = some q →
    exec (.pktNop h) s = .next (s.finish qid h.seq 0 0 false) ∧
    (s.fBlock d q.pasid a 8 false none = none → s.fBlock d q.pasid a 8 true none = none →
      exec (.pktSignal h addr value op) s =
        .next ((s.fWrite d q.pasid a (natBytes 8 (if op = 0 then value.toNat else word + value.toNat))).finish qid h.seq 0 word false)) ∧
    ((s.fBlock d q.pasid a 8 false none).isSome = true →
      exec (.pktSignal h addr value op) s = .next ((s.untake qid h.seq).qWalk qid q a 8 false)) ∧
    (s.fBlock d q.pasid a 8 false none = none → (s.fBlock d q.pasid a 8 true none).isSome = true →
      exec (.pktSignal h addr value op) s = .next ((s.untake qid h.seq).qWalk qid q a 8 true)) ∧
    (s.fBlock d q.pasid a 8 false none = none → met → s.serving qid = true →
      ∃ (u : State) (y : Queue), exec (.pktWait h addr value op) s = .next (u.finish qid h.seq 0 word false) ∧ u.queue qid = some y ∧ y.wait = none ∧
        y.opens = q.opens ∧ u.hbm = s.hbm) ∧
    (s.fBlock d q.pasid a 8 false none = none → met → s.serving qid = false →
      ∃ (u : State) (y : Queue), exec (.pktWait h addr value op) s = .next u ∧ u.queue qid = some y ∧
        y.wait = some ⟨addr, value, op, h.seq, h.cmpl, some (.ofNat 64 word)⟩ ∧ y.opens = q.opens ∧ u.hbm = s.hbm) ∧
    (s.fBlock d q.pasid a 8 false none = none → ¬met →
      ∃ (u : State) (y : Queue), exec (.pktWait h addr value op) s = .next u ∧ u.queue qid = some y ∧
        y.wait = some ⟨addr, value, op, h.seq, h.cmpl, none⟩ ∧ y.opens = q.opens ∧ u.hbm = s.hbm ∧
        ∀ k, s.server qid = some k →
          let x := (u.die d).harts[k]
          x.arm = true ∧ x.met = false ∧ x.waddr.toNat = a / 8 ∧ x.wval = value ∧ x.vigilArmed = true ∧ x.vigilExpired = false ∧ x.remain = (s.die d).feVigil) ∧
    ((s.fBlock d q.pasid a 8 false none).isSome = true →
      ∃ (v t : State) (y : Queue), exec (.pktWait h addr value op) s = .next t ∧ v.fBlock d q.pasid a 8 false none = some t ∧ v.queue qid = some y ∧
        y.wait = some ⟨addr, value, op, h.seq, h.cmpl, none⟩ ∧ y.opens = q.opens ∧ v.hbm = s.hbm)

/-- R146, R31 to R34: CANCEL of a launch of the queue cancels it, of one that has completed answers status 2, and of no LAUNCH packet is refused; CANCEL of a
graph, a phase or a job cancels every launch of it that is open, and of a job the packets not yet taken too. COUNT answers the exit tokens that a launch still
owes, the open launches of a graph, the graphs of a phase or the packets of the job. -/
def Claim.CancelAndCountPackets : Prop :=
  ∀ (s : State) (h : PktHead) (q : Queue) (level : BitVec 3) (lseq : BitVec 16) (id : Word),
    let qid := s.focus.queue
    let d := homeDie qid
    let e := s.latch qid
    let open_ := fun l : Nat => decide ((s.launch l).state ≠ .free) && decide ((s.launch l).state ≠ .done)
    let all (ls : List Nat) : State × Nat := ((ls.filter open_).foldl State.cancelLaunch s, if ls.filter open_ = [] then 2 else 0)
    s.queue qid = some q →
    (s.pktItem qid q h.seq lseq = none →
      exec (.pktCancel h 1 lseq id) s = .next (s.refusePkt qid h.seq 4 0x0204) ∧ exec (.pktCount h 1 lseq id) s = .next (s.refusePkt qid h.seq 5 0x0204)) ∧
    (s.pktItem qid q h.seq lseq = some none →
      exec (.pktCancel h 1 lseq id) s = .next (s.finish qid h.seq 2 0 false) ∧ exec (.pktCount h 1 lseq id) s = .next (s.finish qid h.seq 0 0 false)) ∧
    (∀ l, s.pktItem qid q h.seq lseq = some (some l) →
      exec (.pktCancel h 1 lseq id) s = .next ((s.cancelLaunch l).finish qid h.seq 0 0 false) ∧
      exec (.pktCount h 1 lseq id) s = .next (s.finish qid h.seq 0 (s.exitsOwed l) false)) ∧
    (level ≠ 1 → s.levelItems d q.pasid level.toNat id.toNat = none →
      (level.toNat < 4 → exec (.pktCancel h level lseq id) s = .next (s.finish qid h.seq 0x0307 0 false)) ∧
      exec (.pktCount h level lseq id) s = .next (s.finish qid h.seq 0x0307 0 false)) ∧
    (∀ ls, s.levelItems d q.pasid level.toNat id.toNat = some ls →
      (level = 2 ∨ level = 3 → exec (.pktCancel h level lseq id) s = .next ((all ls).1.finish qid h.seq (all ls).2 0 false)) ∧
      (level = 2 → exec (.pktCount h level lseq id) s = .next (s.finish qid h.seq 0 (ls.filter open_).length false)) ∧
      (level = 3 → exec (.pktCount h level lseq id) s =
        .next (s.finish qid h.seq 0 ((ls.filter open_).map fun l => (s.launch l).graph.toNat).dedup.length false))) ∧
    exec (.pktCount h 4 lseq id) s = .next (s.finish qid h.seq 0 (s.jobPackets q.pasid) false) ∧
    (∀ ls, s.levelItems d q.pasid 4 0 = some ls → s.darkSlot qid q = none →
      exec (.pktCancel h 4 lseq id) s = .next (State.discard qid (seqDist e.lseq e.taken)
        ((all ls).1.finish qid h.seq (if s.jobPackets q.pasid = 0 then (all ls).2 else 0) 0 false))) ∧
    ∀ a, s.darkSlot qid q = some a → exec (.pktCancel h 4 lseq id) s = .next ((s.untake qid h.seq).qWalk qid q a 64 false)

/-- R145, R198, R199, R231: a LAUNCH packet whose predecessors are named and whose header, argument block and placement words are good takes the lowest FREE
entry, which holds what the packet, the header and the argument block say: it is READY, HELD while an earlier phase runs, and in WAIT while a predecessor is not
met; it is cancelled when a predecessor was cancelled or refused. A DEPn that names no earlier LAUNCH, and a status of the dispatcher, refuse it; one that must
wait is given back, and taken later. -/
def Claim.LaunchPackets : Prop :=
  ∀ (s : State) (h : PktHead) (b : LaunchBody) (q : Queue),
    let qid := s.focus.queue
    let d := homeDie qid
    let site := { FRec.zero with plane := 3, die := .ofNat 2 d.val, pasid := q.pasid }
    let f := (s.die d).phase q.pasid
    let deps := (depsOf b).filterMap fun p => ((s.die d).launchOf qid p.1).map fun e => (⟨e.1, e.2.serial, p.2⟩ : Dep)
    let void := (depsOf b).any fun p => tabFind p.1.toNat q.past == some true
    let x : Present := ⟨q.pasid, qid, h.seq, false, none, b.graph, f.num + f.pend.length, b.prio, h.rscope, deps, [], b.iridx, b.ioff, b.aridx, b.aoff, void⟩
    s.queue qid = some q →
    ((∃ p ∈ depsOf b, q.named h.seq p.1 = false) → exec (.pktLaunch h b) s = .next (s.refusePkt qid h.seq 1 0x0207)) ∧
    ((∀ p ∈ depsOf b, q.named h.seq p.1 = true) →
      (∀ st, s.present d x = .refused st → exec (.pktLaunch h b) s = .next (s.refusePkt qid h.seq 1 st)) ∧
      (∀ u, s.present d x = .wait u → exec (.pktLaunch h b) s = .next (u.untake qid h.seq)) ∧
      (∀ u, s.present d x = .fault u → exec (.pktLaunch h b) s = .next u) ∧
      ∀ (img arg : Res) (hb ab : List Byte) (e : Nat),
        let g := procHead hb
        let w := bytesWords 16 ab
        let chain := (w.getD 14 0).toNat
        imageRes (s.resource q.pasid none b.iridx.toNat) = some img → argsRes (s.resource q.pasid none b.aridx.toNat) b.aoff.toNat = some arg →
        b.ioff.toNat + 64 + 3072 * g.stages ≤ img.extent →
        s.cRead d q.pasid img b.ioff.toNat 64 none (some (qid, h.seq)) site = .bytes hb →
        s.cRead d q.pasid arg b.aoff.toNat 64 none (some (qid, h.seq)) site = .bytes ab →
        lowest (fun e => (tabGet Launch.zero e (s.die d).launches).state = .free) 4096 = some e →
        g.good = true → (s.die d).devMingen.toNat ≤ g.nativegen.toNat → g.nativegen.toNat ≤ (s.die d).devMaxgen.toNat → 1 ≤ g.pages → g.pages ≤ 8 →
        chain < 16 → d.val + chain + 1 ≤ 4 →
        (b.prio = 255 → chain = 0 ∧ ∃ r ∈ dieRings d, (s.ring r).icalValid = true ∧ (s.ring r).icalPasid = q.pasid) →
        ∃ t, exec (.pktLaunch h b) s = .next t ∧
          let y := t.launch (launchKey d e)
          y.state = (if void = true ∨ deps.all (s.die d).depMet = false then .wait else if f.pend = [] then .ready else .held) ∧
          y.cancelled = void ∧ y.pasid = q.pasid ∧ y.qid = qid ∧ y.pseq = h.seq ∧ y.device = false ∧ y.graph = b.graph ∧ y.prio = b.prio ∧
          y.ical = decide (b.prio = 255) ∧ y.rscope = h.rscope ∧ y.phase = f.num + f.pend.length ∧ y.pages = g.pages ∧ y.stages = g.stages ∧
          y.window = g.window ∧ y.dwell = g.dwell ∧ y.nseg = chain + 1 ∧ ∀ i : Fin 16, y.args[i] = w.getD i.val 0)

/-- NOP, SIGNAL, WAIT, CANCEL, COUNT and LAUNCH packets have their meaning (readings: logs 27, 28, 55, DEDUCED). -/
def Obligations.PacketMeanings : Prop := Claim.QueuePackets ∧ Claim.CancelAndCountPackets ∧ Claim.LaunchPackets

/-- R147: a relay packet (PHASE, EVICT, RESTORE, COMPACT, ALMANAC, ALMREAD, WSWRITE, RESWRITE, PREFETCH, EQWAIT, STATUS) sends its controller message to the
ring that it names with the job's PASID and CTX, and completes on the reply; a job without a CTX on that ring is refused. -/
def Claim.RelayPackets : Prop :=
  ∀ (s : State) (h : PktHead) (ti : BitVec 8) (p : Params) (q : Queue),
    let qid := s.focus.queue
    let r := RingAt.ofNum ti.toNat
    s.queue qid = some q →
    ∀ f ∈ ([(.phase h ti p, 4), (.evict h ti p, 5), (.restore h ti p, 6), (.compact h ti p, 7), (.almanac h ti p, 8), (.almread h ti p, 9),
        (.wswrite h ti p, 10), (.reswrite h ti p, 11), (.prefetch h ti p, 12), (.eqwait h ti p, 13), (.status h ti p, 14)] : List (Instr × Nat)),
      (∀ c, (s.ring r).ctxOf q.pasid = some c →
        ∃ t m, exec f.1 s = .next t ∧ (t.ring r).procIn = (s.ring r).procIn ++ [m] ∧ bits m.hdr.toNat 31 24 = f.2 ∧ bits m.hdr.toNat 23 20 = 6 ∧
          bits m.hdr.toNat 19 12 = ti.toNat ∧ m.p = p ∧ m.pasid = q.pasid ∧ m.ctx = c ∧ m.sender = .relay qid h.seq ∧ m.reply = none ∧
          t.dies = s.dies ∧ t.hbm = s.hbm ∧ ∀ k, k ≠ r → (t.ring k).procIn = (s.ring k).procIn) ∧
      ((s.ring r).ctxOf q.pasid = none → exec f.1 s = .next (s.refusePkt qid h.seq (f.2 + 2) 0x0204))

/-- R148: CTXNEW makes the job's context over a resource table of zeros in the carve-out; CTXFREE removes it, and its pages
are zeroed for the next job (R90); QNEW makes a queue and its latch entry, its
counters just below the first packet and record; QFREE makes the entry invalid. Each is refused when its operands are bad, or the item stands or is in use. -/
def Claim.ContextAndQueuePackets : Prop :=
  ∀ (s : State) (h : PktHead) (pasid qid' : BitVec 20) (rtcnt : BitVec 16) (rtbase sabase sasize : Dword) (b : QnewBody) (q : Queue),
    let qid := s.focus.queue
    let n := 64 * (rtcnt.toNat + 1)
    let area := inCarve rtbase.toNat n = true ∧ inCarve sabase.toNat sasize.toNat = true ∧ sabase.toNat % 65536 = 0 ∧ sasize.toNat % 65536 = 0
    let busy := s.otherPackets pasid qid ≠ 0 ∨ ∃ p ∈ s.allLaunches, p.2.pasid = pasid ∧ p.2.device = false ∧ p.2.state ≠ .free ∧ p.2.state ≠ .done
    let goodQ := (s.latch b.qid).valid = false ∧ (tabFind b.pasid.toNat s.jobs).isSome = true ∧ 4 ≤ b.rsize.toNat ∧ 4 ≤ b.csize.toNat
    let used := ∃ p ∈ s.allLaunches, p.2.qid = qid' ∧ p.2.state ≠ .free ∧ p.2.state ≠ .done
    s.queue qid = some q →
    (area → tabFind pasid.toNat s.jobs = none →
      ∃ u : State, exec (.ctxnew h pasid rtcnt rtbase sabase sasize) s = .next (u.finish qid h.seq 0 0 false) ∧
        tabFind pasid.toNat u.jobs = some ⟨rtbase, rtcnt, sabase, sasize, [], false⟩ ∧
        (∀ a, rtbase.toNat ≤ a → a < rtbase.toNat + n → cellGet a u.hbm = 0)) ∧
    (¬area → exec (.ctxnew h pasid rtcnt rtbase sabase sasize) s = .next (s.refusePkt qid h.seq 0x11 0x0204)) ∧
    (area → (tabFind pasid.toNat s.jobs).isSome = true →
      exec (.ctxnew h pasid rtcnt rtbase sabase sasize) s = .next (s.refusePkt qid h.seq 0x11 0x0208)) ∧
    (¬busy → ∃ u : State, exec (.ctxfree h pasid) s = .next (u.finish qid h.seq 0 0 false) ∧ tabFind pasid.toNat u.jobs = none ∧
      ((∀ r : RingAt, ∀ g ∈ (s.ring r).regions, g.pasid ≠ pasid) →
        ∀ r, u.ring r = { s.ring r with owners := (s.ring r).owners.filter fun o => o.2 != pasid })) ∧
    (busy → exec (.ctxfree h pasid) s = .next (s.refusePkt qid h.seq 0x12 0x0208)) ∧
    (goodQ →
      ∃ u : State, exec (.qnew h b) s = .next (u.finish qid h.seq 0 0 false) ∧
        u.queue b.qid = some ⟨b.pasid, b.kernel, b.rbase, b.cbase, none, [], [], []⟩ ∧
        (u.latch b.qid).valid = true ∧ (u.latch b.qid).stop = false ∧ (u.latch b.qid).rsize = b.rsize ∧ (u.latch b.qid).csize = b.csize ∧
        (u.latch b.qid).lseq = b.seq0 - 1 ∧ (u.latch b.qid).taken = b.seq0 - 1 ∧ (u.latch b.qid).cpost = b.cseq0 - 1 ∧
        (u.latch b.qid).cack = b.cseq0 - 1) ∧
    (¬goodQ → exec (.qnew h b) s = .next (s.refusePkt qid h.seq 0x13 0x0209)) ∧
    (¬used → ∃ t, exec (.qfree h qid') s = .next t ∧ (t.latch qid').valid = false ∧ t.queue qid' = none ∧
      ((s.finish qid h.seq 0 0 false).served qid' = true → (t.latch qid').mapped = false)) ∧
    (used → exec (.qfree h qid') s = .next (s.refusePkt qid h.seq 0x14 0x0208))

/-- Relay packets send their message and complete on the reply; CTXNEW, CTXFREE, QNEW and QFREE make and remove contexts and queues (log 32). -/
def Obligations.RelayAndContextPackets : Prop := Claim.RelayPackets ∧ Claim.ContextAndQueuePackets

/-- R204, R218: PCANCEL cancels the open launches of the item that it names and answers 0, or 2 when all of it is complete; PCOUNT answers the exit tokens owed
by a launch with whether it has writes pending, the open launches of a graph, or the packets of a job; PALMR answers how many exclusive almanac slots the job
holds and the lowest; PSTAT answers the region word of a launch and where a stage is held. An unknown item is refused with 0x0307, other parameters with 0x0306.
A cancel marks a launch that has not ended. -/
def Claim.ItemMessages : Prop :=
  ∀ (s : State) (p : Params) (n : Nat),
    let m := s.focus.msg
    let level := p.p0.toNat
    let open_ := fun l : Nat => decide ((s.launch l).state ≠ .free) && decide ((s.launch l).state ≠ .done)
    let own := (s.ring (RingAt.ofNum m.inst)).almanac.filter fun a => decide (a.2.pasid = m.pasid) && !a.2.shared
    let items := s.levelItems (RingAt.ofNum m.inst).die m.pasid level p.p1.toNat
    let good := (level = 1 ∨ level = 2 ∨ level = 4) ∧ p.p2 = 0 ∧ p.p3 = 0 ∧ (level = 1 → p.p1.toNat / 2 ^ 22 = m.inst / 4 ∧ m.inst % 4 = 0)
    let goodStat := p.p0.toNat / 2 ^ 22 = m.inst / 4 ∧ m.inst % 4 = 0 ∧ bits p.p1.toNat 30 16 = 0 ∧ p.p2 = 0 ∧ p.p3 = 0
    let stage := bits p.p1.toNat 15 0
    m.inst < 16 →
    ((s.launch n).state ≠ .free → (s.launch n).state ≠ .done → ((s.cancelLaunch n).launch n).cancelled = true) ∧
    (¬good → exec (.pcancel p) s = .next (s.refuse m 0x0306) ∧ exec (.pcount p) s = .next (s.refuse m 0x0306)) ∧
    (good → items = none → exec (.pcancel p) s = .next (s.refuse m 0x0307) ∧ exec (.pcount p) s = .next (s.refuse m 0x0307)) ∧
    (good → ∀ ls, items = some ls →
      exec (.pcancel p) s = .next (((ls.filter open_).foldl State.cancelLaunch s).answer m
        (if ls.filter open_ = [] ∧ (level < 4 ∨ s.jobPackets m.pasid = 0) then 2 else 0) 0 0) ∧
      (level = 1 → ∀ l, ls = [l] → exec (.pcount p) s = .next (if open_ l = true
        then s.answer m 0 (s.exitsOwed l) (if s.writesPending l then 1 else 0) else s.answer m 0 0 0)) ∧
      (level = 2 → exec (.pcount p) s = .next (s.answer m 0 (ls.filter open_).length 0)) ∧
      (level = 4 → exec (.pcount p) s = .next (s.answer m 0 (s.jobPackets m.pasid) 0))) ∧
    (p = ⟨0, 0, 0, 0⟩ → exec (.palmr p) s = .next (s.answer m 0 own.length ((own.head?.map Prod.fst).getD 0xFFFFFFFF))) ∧
    (p ≠ ⟨0, 0, 0, 0⟩ → exec (.palmr p) s = .next (s.refuse m 0x0306)) ∧
    (¬goodStat → exec (.pstat p) s = .next (s.refuse m 0x0306)) ∧
    (goodStat → s.jobLaunch m p.p0.toNat = none → exec (.pstat p) s = .next (s.refuse m 0x0307)) ∧
    (goodStat → ∀ l, s.findLaunch p.p0.toNat = some l → (s.launch l).pasid = m.pasid →
      (p.p1.toNat < 2 ^ 31 → exec (.pstat p) s = .next (s.answer m 0 (s.regionWord l) 0)) ∧
      (2 ^ 31 ≤ p.p1.toNat → stage < (s.launch l).stages →
        exec (.pstat p) s = .next (s.answer m 0 (s.regionWord l) ((s.stageHeld l stage).getD 0xFFFFFFFF))) ∧
      (2 ^ 31 ≤ p.p1.toNat → (s.launch l).stages ≤ stage → exec (.pstat p) s = .next (s.refuse m 0x0306)) ∧
      ∀ g, (s.launch l).segs = [g] → (s.launch l).ical = false →
        s.regionWord l = (s.launch l).state.code * 2 ^ 28 + l / 4096 * 2 ^ 26 + (g.ring.val * 2 ^ 24 + g.page.val * 2 ^ 21 + g.ctx.toNat * 2 ^ 11) +
          (s.launch l).pages * 2 ^ 17)

/-- R199, R203: PLAUNCH presents a launch for the sender's job, in its graph and phase, and answers the launch number once it is accepted, or refuses it with
the status of its refusal; it waits while the table is full. -/
def Claim.LaunchMessages : Prop :=
  ∀ (s : State) (p : Params) (k l : Nat) (ical : Bool) (islot : Fin 16) (ctx : BitVec 6) (iter : BitVec 12),
    let m := s.focus.msg
    let x := s.launch l
    let d := (ElemAt.ofKey k).at_.ring.die
    let q : Present :=
      { pasid := x.pasid, qid := x.qid, pseq := x.pseq, device := true, parent := some l, graph := x.graph, phase := x.phase,
        prio := .ofNat 8 (bits p.p3.toNat 7 0), rscope := .ofNat 3 (bits p.p3.toNat 10 8), deps := [], parentOps := m.ops,
        iridx := .ofNat 16 (bits p.p0.toNat 31 16), ioff := .ofNat 48 (64 * p.p1.toNat), aridx := .ofNat 16 (bits p.p0.toNat 15 0),
        aoff := .ofNat 48 (64 * p.p2.toNat), void := false }
    let good := p.p3.toNat < 2 ^ 11 ∧ bits p.p3.toNat 10 8 < 6 ∧ m.inst = 4 * d.val
    m.sender = .elem k ical islot l ctx iter →
    (¬good → exec (.plaunch p) s = .next (s.refuse m 0x0306)) ∧
    (good →
      (∀ u j, s.present d q = .taken u j → exec (.plaunch p) s = .next (u.answer m 0 (launchNumber j (u.launch j)) 0)) ∧
      (∀ st, s.present d q = .refused st → exec (.plaunch p) s = .next (s.refuse m st)) ∧
      (∀ u, s.present d q = .fault u → exec (.plaunch p) s = .next (u.refuse m 3)) ∧
      ∀ u, s.present d q = .wait u → exec (.plaunch p) s = .next (u.holdMsg m))

/-- PCANCEL, PCOUNT, PALMR, PSTAT and PLAUNCH act on launches and answer (readings: logs 31, 53). -/
def Obligations.ItemAndLaunchMessages : Prop := Claim.ItemMessages ∧ Claim.LaunchMessages

/-- R205 to R208, R211, R214, R218: the messages that a boundary, a frame or an equinox answers. PPHASE asks every region of its job on the die, PEVICT every
region of its launch, whose due stripes leave the schedule with FORCE; PALMW waits for the next frame, PWSW for the window's job; PEQWAIT waits for its region's
equinox; PCOMPACT asks the lowest region that can move, and with none answers the free pages. All but PEQWAIT, and PRESTORE and PRSW too, are refused unless a
kernel queue sends them. -/
def Claim.WaitingMessages : Prop :=
  ∀ (s : State) (p : Params),
    let m := s.focus.msg
    let r := RingAt.ofNum m.inst
    let kernel := ∃ (qid : BitVec 20) (seq : BitVec 16) (q : Queue), m.sender = .relay qid seq ∧ s.queue qid = some q ∧ q.kernel = true
    let named := p.p0.toNat / 2 ^ 22 = m.inst / 4 ∧ m.inst % 4 = 0 ∧ p.p2 = 0 ∧ p.p3 = 0
    m.inst < 16 →
    (¬kernel → ∀ i ∈ [Instr.pphase p, .pevict p, .prestore p, .pcompact p, .palmw p, .pwsw p, .prsw p], exec i s = .next (s.refuse m 0x0306)) ∧
    (let pasid : BitVec 20 := .ofNat 20 p.p0.toNat
     let good := p.p0.toNat < 2 ^ 20 ∧ p.p1 = 0 ∧ p.p2 = 0 ∧ p.p3 = 0 ∧ (tabFind pasid.toNat s.jobs).isSome = true
     (kernel → good → ∃ t, exec (.pphase p) s = .next t ∧ ((t.die r.die).phase pasid).pend = ((s.die r.die).phase pasid).pend ++ [m] ∧
        ((t.die r.die).phase pasid).num = ((s.die r.die).phase pasid).num ∧
        ∀ k : Fin 4, ∀ g ∈ (t.ring ⟨r.die, k⟩).regions, g.pasid = pasid → EqReq.pphase ∈ g.reqs) ∧
     (¬good → exec (.pphase p) s = .next (s.refuse m 0x0306))) ∧
    (let x := fun l => s.launch l
     let at_ := fun g : Seg => (s.ring ⟨g.die, g.ring⟩).atPage g.page
     let held := fun l => (x l).segs = [] ∨ (x l).ical = true ∨ (x l).cancelled = true ∨ (x l).faulted = true ∨
       ∃ g ∈ (x l).segs, ∃ h, at_ g = some h ∧ ∃ e ∈ h.reqs, e.isEvict = true
     (¬(named ∧ p.p1.toNat < 2) → exec (.pevict p) s = .next (s.refuse m 0x0306)) ∧
     (kernel → named → p.p1.toNat < 2 → s.jobLaunch m p.p0.toNat = none → exec (.pevict p) s = .next (s.refuse m 0x0307)) ∧
     ∀ l, kernel → named → p.p1.toNat < 2 → s.findLaunch p.p0.toNat = some l → (x l).pasid = m.pasid →
      (held l → exec (.pevict p) s = .next (s.refuse m 0x0308)) ∧
      (¬held l → ∃ t, exec (.pevict p) s = .next t ∧ ∀ g ∈ (x l).segs,
        (∀ h ∈ (t.ring ⟨g.die, g.ring⟩).regions, h.page = g.page → EqReq.pevict m (decide (p.p1 = 1)) ∈ h.reqs) ∧
        (p.p1 = 1 → ∀ h, at_ g = some h → ∀ y ∈ h.places ⟨g.die, g.ring⟩, y.stripe ∉ (t.ring ⟨g.die, g.ring⟩).schedule))) ∧
    (¬(named ∧ p.p1 = 0) → exec (.peqwait p) s = .next (s.refuse m 0x0306)) ∧
    (named → p.p1 = 0 → s.jobLaunch m p.p0.toNat = none → exec (.peqwait p) s = .next (s.refuse m 0x0307)) ∧
    (∀ l, named → p.p1 = 0 → s.findLaunch p.p0.toNat = some l → (s.launch l).pasid = m.pasid →
      ((s.launch l).segs = [] ∨ (s.launch l).ical = true → exec (.peqwait p) s = .next (s.refuse m 0x0308)) ∧
      ∀ g gs, (s.launch l).segs = g :: gs → (s.launch l).ical = false →
        let own := ∃ k islot li ctx iter h, ∃ g' ∈ (s.launch l).segs, m.sender = .elem k false islot li ctx iter ∧ m.ring = ⟨g'.die, g'.ring⟩ ∧
          (s.ring m.ring).regionOf m.el.at_.stripe.val = some h ∧ h.page = g'.page
        (own → exec (.peqwait p) s = .next (s.refuse m 0x0306)) ∧
        (¬own → ∃ t, exec (.peqwait p) s = .next t ∧
          (t.ring ⟨g.die, g.ring⟩).regions = (s.ring ⟨g.die, g.ring⟩).regions.map fun h =>
            if h.page = g.page then { h with reqs := h.reqs ++ [.peqwait m] } else h)) ∧
    (let slot := bits p.p2.toNat 31 31 = 0 ∧ bits p.p2.toNat 29 20 = 0
     (kernel → p.p3 = 0 → ∀ v, (slot ∧ v = some ⟨bit p.p2.toNat 30, .ofNat 20 p.p2.toNat⟩ ∨ p.p2 = 0x80000000 ∧ v = none) →
       ∃ t, exec (.palmw p) s = .next t ∧ (t.ring r).almanac = (s.ring r).almanac ∧
        (t.ring r).palmw = (s.ring r).palmw ++ [(m, .ofNat 64 (p.p1.toNat * 2 ^ 32 + p.p0.toNat), v)]) ∧
     (¬((slot ∨ p.p2 = 0x80000000) ∧ p.p3 = 0) → exec (.palmw p) s = .next (s.refuse m 0x0306))) ∧
    (let count := bits p.p3.toNat 17 0
     let w := tabGet WsWin.zero (bits p.p0.toNat 15 10) (s.die r.die).wswin
     let good := bits p.p0.toNat 9 0 = 0 ∧ p.p2.toNat < 2 ^ 18 ∧ p.p3.toNat < 2 ^ 30 ∧ count ≠ 0
     let key := bits p.p3.toNat 29 18 ≠ 0 ∧ (s.keyOf (bits p.p3.toNat 29 18)).isSome = true
     let fits := w.valid = true ∧ w.base.toNat + w.count.toNat ≤ 196608 ∧ p.p2.toNat + count ≤ w.count.toNat
     let source := s.sourceRes m (bits p.p0.toNat 31 16) (64 * p.p1.toNat) (4096 * count)
     (¬good ∨ source = none → exec (.pwsw p) s = .next (s.refuse m 0x0306)) ∧
     ∀ e : Res, kernel → good → source = some e →
      (¬key → exec (.pwsw p) s = .next (s.refuse m 0x030B)) ∧
      (key → ¬fits → exec (.pwsw p) s = .next (s.refuse m 0x0305)) ∧
      (key → fits → ∃ t, exec (.pwsw p) s = .next t ∧ (t.die r.die).ws = (s.die r.die).ws ∧
        (t.die r.die).pwsw = (s.die r.die).pwsw ++
          [⟨m, w.pasid, w.base.toNat + p.p2.toNat, count, .ofNat 12 (bits p.p3.toNat 29 18), e, 64 * p.p1.toNat⟩])) ∧
    (p ≠ ⟨0, 0, 0, 0⟩ → exec (.pcompact p) s = .next (s.refuse m 0x0306)) ∧
    (let can := fun q : Fin 8 => ∃ g, (s.ring r).atPage q = some g ∧ ((s.ring r).lowerPage g).isSome = true ∧ ∀ e ∈ g.reqs, e.isEvict = false
     kernel → p = ⟨0, 0, 0, 0⟩ →
      ((∀ q, ¬can q) → exec (.pcompact p) s = .next (s.answer m 0 (s.ring r).freeMask 0)) ∧
      ∀ q, can q → (∀ q', q' < q → ¬can q') → ∃ t, exec (.pcompact p) s = .next t ∧
        (t.ring r).regions = (s.ring r).regions.map fun h => if h.page = q then { h with reqs := h.reqs ++ [.pcompact m] } else h)

/-- R95, R100, R192, R200, R213, R218: PRESTORE of an evicted launch places every segment again and answers its region word once it runs; it waits without a
place or behind another binding, and a record that software has altered raises PROC_RESTORE. PRSW rewrites a table entry under the next RELGEN and answers it,
at once when no region of the job stands. PPREF answers how many images it cached, none of an entry without PREF, and waits for the pages it walks for. -/
def Claim.TableAndRestoreMessages : Prop :=
  ∀ (s : State) (p : Params),
    let m := s.focus.msg
    let r := RingAt.ofNum m.inst
    let kernel := ∃ (qid : BitVec 20) (seq : BitVec 16) (q : Queue), m.sender = .relay qid seq ∧ s.queue qid = some q ∧ q.kernel = true
    let named := p.p0.toNat / 2 ^ 22 = m.inst / 4 ∧ m.inst % 4 = 0 ∧ p.p1 = 0 ∧ p.p2 = 0 ∧ p.p3 = 0
    let later (u : State) : State := u.onRing r fun y => { y with procIn := y.procIn ++ [m] }
    m.inst < 16 →
    (¬named → exec (.prestore p) s = .next (s.refuse m 0x0306)) ∧
    (kernel → named → s.jobLaunch m p.p0.toNat = none → exec (.prestore p) s = .next (s.refuse m 0x0307)) ∧
    (∀ l, kernel → named → s.findLaunch p.p0.toNat = some l → (s.launch l).pasid = m.pasid →
      let d : Fin 4 := Fin.ofNat 4 (l / 4096)
      let gone := (s.launch l).state ≠ .evicted ∨ (s.launch l).cancelled = true ∨ (s.launch l).faulted = true
      let due := (s.die d).lastBind ≠ s.fc + 1
      (gone → exec (.prestore p) s = .next (s.refuse m 0x0308)) ∧
      (¬gone → ¬due → exec (.prestore p) s = .next (later s)) ∧
      (∀ v, ¬gone → due → s.spoilt l = some v → exec (.prestore p) s = .next ((s.restoreFault l v).refuse m 3)) ∧
      (¬gone → due → s.spoilt l = none → State.restoreAll (s.launch l) (s.evictedOf l) s = none → exec (.prestore p) s = .next (later s)) ∧
      ∀ u, ¬gone → due → s.spoilt l = none → State.restoreAll (s.launch l) (s.evictedOf l) s = some u →
        ((u.launch l).state ≠ .running → ∃ v : State, exec (.prestore p) s = .next v ∧ v.rings = u.rings ∧ v.elems = u.elems ∧
          v.launch l = { u.launch l with restoring := (u.launch l).restoring ++ [m] }) ∧
        ((u.launch l).state = .running → (u.launch l).restoring = [] →
          ∃ v : State, exec (.prestore p) s = .next (v.answer m 0 (v.regionWord l) 0) ∧ v.rings = u.rings ∧ v.elems = u.elems ∧ v.launch l = u.launch l)) ∧
    (let pasid : BitVec 20 := .ofNat 20 p.p0.toNat
     let n := p.p1.toNat
     let off := 64 * p.p3.toNat
     let site := { FRec.zero with plane := 3, die := .ofNat 2 r.die.val, pasid := m.pasid }
     let good := p.p0.toNat < 2 ^ 20 ∧ p.p1.toNat < 2 ^ 16 ∧ bits p.p2.toNat 15 0 = 0
     let source := s.sourceRes m (bits p.p2.toNat 31 16) off 64
     (¬good ∨ tabFind pasid.toNat s.jobs = none ∨ source = none → exec (.prsw p) s = .next (s.refuse m 0x0306)) ∧
     ∀ (j : Job) (e : Res), kernel → good → tabFind pasid.toNat s.jobs = some j → source = some e →
      (j.rtcnt.toNat < n → exec (.prsw p) s = .next (s.refuse m 0x0306)) ∧
      (n ≤ j.rtcnt.toNat →
        let c := s.cRead r.die m.pasid e off 64 none none site
        (∀ u, c = .wait u → exec (.prsw p) s = .next (u.holdMsg m)) ∧
        (∀ va, c = .addr va → exec (.prsw p) s = .next ((s.takeFault r.die none none 0 (fltAddr va) site).refuse m 3)) ∧
        (c = .noKey → exec (.prsw p) s = .next (s.refuse m 0x030B)) ∧
        ∀ bs, c = .bytes bs →
          let gen := ((resOf (bytesNat (s.entryBytes j n))).relgen + 1) % 65536
          let x := resOf (bytesNat bs)
          let miss := if x.vers = true ∧ x.space = 0 ∧ x.extent ≠ 0 then s.missVa r.die pasid (vaOf x.base 0) x.extent false else none
          (∀ va, miss = some va → exec (.prsw p) s = .next ((s.walkFor r.die pasid va false none none none site none).holdMsg m)) ∧
          (miss = none → Memory.wf s.hbm = true →
            (s.jobRegions pasid = [] → ∃ u : State, exec (.prsw p) s = .next (u.answer m 0 gen 0) ∧
              resOf (bytesNat (u.entryBytes j n)) = { x with relgen := gen }) ∧
            (s.jobRegions pasid ≠ [] → ∃ (u : State) (w : Prsw), exec (.prsw p) s = .next u ∧
              tabFind pasid.toNat u.jobs = some { j with prsws := j.prsws ++ [w] } ∧ w.msg = m ∧ w.entry.toNat = n ∧ w.left = s.jobRegions pasid ∧
              resOf (bytesNat (u.entryBytes j n)) = { x with relgen := gen })))) ∧
    (let off := 64 * p.p1.toNat
     let image := imageRes (s.resource m.pasid ((s.prefetchRegion m).map fun g => (r.num, g.page.val)) (bits p.p0.toNat 31 16))
     let good := p.p2.toNat < 2 ^ 11 ∧ p.p3 = 0
     (¬good ∨ image = none → exec (.ppref p) s = .next (s.refuse m 0x0306)) ∧
     ∀ e : Res, good → image = some e →
      (e.pref = false → exec (.ppref p) s = .next (s.answer m 0 0 0)) ∧
      (s.readAhead r.die m.pasid e off 64 = .stop → exec (.ppref p) s = .next (s.answer m 0 0 0)) ∧
      (∀ u, s.readAhead r.die m.pasid e off 64 = .wait u → exec (.ppref p) s = .next (later u)) ∧
      ∀ hb : List Byte,
        let h := procHead hb
        let x := { Launch.zero with
          pasid := m.pasid, iridx := .ofNat 16 (bits p.p0.toNat 31 16), ioff := .ofNat 48 off, stages := if h.good then h.stages else 0,
          pages := h.pages, nstate := h.nstate }
        let t := s.prefetch r x (s.prefetchRegion m) e (p.p2.toNat + 1) (bits p.p0.toNat 15 0) 0
        s.readAhead r.die m.pasid e off 64 = .bytes hb →
        (∀ n, t.2 = some n → exec (.ppref p) s = .next (t.1.answer m 0 n 0)) ∧ (t.2 = none → exec (.ppref p) s = .next (later t.1)))

/-- The messages that wait for a boundary, a frame or an equinox, and those that restore, rewrite and prefetch (readings: logs 31, 54, 59). -/
def Obligations.WaitingAndTableMessages : Prop := Claim.WaitingMessages ∧ Claim.TableAndRestoreMessages

/-! ### The procession -/

/-- R100, R187, R232: CONFIG_FETCH. A stage image that the cache lacks is read through its entry. A good one enters the cache under its key, as placed; one
that the loader refuses raises PROC_CFG_FETCH with its stage and status, and an entry or address that cannot be read the memory fault of that failure, at the
stripe (log 29). A stage that no stripe takes next is a prefetch, whose faults of entry and address are suppressed. Nothing happens for an image that is cached,
or of a launch that is not there, has no such stage, has not been woken or is gone. -/
def Claim.ImagesFetched : Prop :=
  ∀ (s : State) (r : RingAt) (entry : BitVec 12) (stage : BitVec 16),
    let n := stage.toNat
    ((s.ring r).launchAt entry.toNat = none → exec (.configFetch r entry stage) s = .next s) ∧
    ∀ l : Nat, (s.ring r).launchAt entry.toNat = some l →
      let x := s.launch l
      let key := s.stageKey r l n
      let off := x.ioff.toNat + 64 + 3072 * n
      let site := s.loadSite r l n 0 0 false
      let wanted := s.wanted r l n = true
      let skip := x.cancelled = true ∨ x.faulted = true ∨ x.stages ≤ n ∨ (x.ical = false ∧ x.woken = false) ∨ (s.ring r).cache.any key.same = true
      let faults := fun (code aux : Nat) =>
        (wanted → ∃ t, exec (.configFetch r entry stage) s = .next t ∧ Records s t r.die code aux 1) ∧
          (¬wanted → exec (.configFetch r entry stage) s = .next s)
      let entry? := (s.resource x.pasid ((s.imagePlace r l).map fun g => (r.num, g.page.val)) x.iridx.toNat).filter Res.usable
      (skip → exec (.configFetch r entry stage) s = .next s) ∧
      (¬skip → entry? = none → faults 0x40 x.iridx.toNat) ∧
      ∀ e, ¬skip → entry? = some e →
        (e.extent < off + 3072 → faults 0x41 off) ∧
        (off + 3072 ≤ e.extent → ¬(e.space = 0 ∧ e.canFetch = true) → faults 0x42 off) ∧
        (off + 3072 ≤ e.extent → e.space = 0 → e.canFetch = true →
          let got := s.imageBytes r x e off (!s.wanted r l n) (s.launchQueue l) site
          (∀ u, got = .wait u → exec (.configFetch r entry stage) s = .next u) ∧
          (∀ va, got = .addr va → faults 0x94 va) ∧
          (got = .noKey → faults 0x46 e.keyidx) ∧
          ∀ bs, got = .bytes bs →
            let im := imageWords bs
            (∀ f, fetchFault x n im = some f →
              ∃ t, exec (.configFetch r entry stage) s = .next t ∧ Records s t r.die 0x73 (n * 65536 + f.status) 1) ∧
            (fetchFault x n im = none →
              ∃ t c, exec (.configFetch r entry stage) s = .next t ∧ (t.ring r).cache.getLast? = some c ∧ c.same key = true ∧
                c.words = s.placed r l im ∧ t.elems = s.elems ∧ t.stripes = s.stripes ∧ t.hbm = s.hbm))

/-- R182, R187, R189, R209: CONFIG_LOAD. When the image that a stripe hosts next is cached, a load puts its planes into the elements' shadow planes and makes
the stripe's shadow ready; the empty image makes it ready too. The active planes stay. While an intercalary launch loads, its next stage goes into the
intercalary planes. A shadow that stands, a stripe that hosts nothing next and an image that is not cached are left as they are. -/
def Claim.ShadowsLoad : Prop :=
  ∀ (s : State) (p : StripeAt),
    let u := (s.wakePages p.ring).planRing p.ring
    let y := u.ring p.ring
    let icalDue := fun l : Nat => y.icalLaunch = some l ∧ y.occupied = false ∧ y.icalLoaded = p.stripe.val ∧ p.stripe.val < (u.launch l).stages ∧
      u.goneLaunch l = false
    ((∀ l, ¬icalDue l) → y.regionOf p.stripe.val = none → exec (.configLoad p) s = .next u) ∧
    (∀ g, (∀ l, ¬icalDue l) → y.regionOf p.stripe.val = some g →
      let what := g.next u p.ring (g.indexOf p.stripe.val)
      (u.shadowOk p = true ∨ what = none → exec (.configLoad p) s = .next u) ∧
      (∀ l stage, u.shadowOk p = false → what = some (some (l, stage)) →
        let line := y.cache.find? (u.stageKey p.ring l stage).same
        (line = none → exec (.configLoad p) s = .next u) ∧
        (∀ c f, line = some c → lineFault (u.launch l) stage c.words = some f →
          ∃ t, exec (.configLoad p) s = .next t ∧ Records s t p.ring.die 0x73 (stage % 65536 * 65536 + f.status) 1) ∧
        ∀ c, line = some c → lineFault (u.launch l) stage c.words = none →
          ∃ t, exec (.configLoad p) s = .next t ∧ (t.stripe p).shadow = some (c.cfg l g.ctx g.pasid) ∧ (t.stripe p).shadowReady = true ∧
            (t.stripe p).active = (s.stripe p).active ∧
            ∀ n : Fin 16, (t.elem ⟨p, n⟩).active = (s.elem ⟨p, n⟩).active ∧
              (imgPresent c.words n.val = true → (t.elem ⟨p, n⟩).shadow = u.planeOf p.ring.die g.pasid c.words n.val)) ∧
      (u.shadowOk p = false → what = some none →
        ∃ t, exec (.configLoad p) s = .next t ∧ (t.stripe p).shadow = none ∧ (t.stripe p).shadowReady = true ∧
          (t.stripe p).active = (s.stripe p).active)) ∧
    ∀ l, icalDue l →
      let x := u.launch l
      let ctx := ((x.segs.head?).map Seg.ctx).getD 0
      let line := y.cache.find? (u.stageKey p.ring l p.stripe.val).same
      (line = none → exec (.configLoad p) s = .next u) ∧
      ∀ c, line = some c → lineFault x p.stripe.val c.words = none →
        ∃ t, exec (.configLoad p) s = .next t ∧ (t.stripe p).ical = some (c.cfg l ctx x.pasid) ∧ (t.ring p.ring).icalLoaded = y.icalLoaded + 1 ∧
          (t.stripe p).active = (s.stripe p).active ∧ ∀ n : Fin 16, (t.elem ⟨p, n⟩).active = (s.elem ⟨p, n⟩).active ∧
            (n.val < 14 → imgPresent c.words n.val = true → (t.elem ⟨p, n⟩).ical = u.planeOf p.ring.die x.pasid c.words n.val) ∧
            (14 ≤ n.val → (c.cfg l ctx x.pasid).stage = 0 → (c.cfg l ctx x.pasid).present.getLsbD n.val = true →
              (t.elem ⟨p, n⟩).ical.d[7] = argReg x.args)

/-- A stage image is fetched into the cache under its checks and loaded into the shadow planes (the fault of a failed read: log 29, DEDUCED). -/
def Obligations.ImagesLoad : Prop := Claim.ImagesFetched ∧ Claim.ShadowsLoad

/-- R37, R187 to R191: STRIPE_SWAP. The head of a ring's schedule swaps when it is drained, the ring scrolls and no stripe of it has swapped in this fc: the
shadow becomes active in every element, with the saved state of a stage that is restored, the parity flips, and stage 0 receives the launch's arguments in d7 of
its junctions. Otherwise the schedule is brought up to date and nothing swaps; a head that is not drained is noted as late. -/
def Claim.StripesSwap : Prop :=
  ∀ s : State,
    let r := s.focus.ring
    let u := (s.planRing r).schedule r
    (u.headOf r = none → exec .stripeSwap s = .next u) ∧
    ∀ (g : Region) (p : StripeAt), u.headOf r = some (g, p) →
      let can := (u.ring r).scrolls = true ∧ (u.ring r).lastSwap ≠ s.fc + 1 ∧ u.drained g p = true
      (¬can → ∃ t, exec .stripeSwap s = .next t ∧ t.stripes = u.stripes ∧ t.elems = u.elems ∧ (t.ring r).schedule = (u.ring r).schedule ∧
        (u.drained g p = false → (t.ring r).late = some p.stripe)) ∧
      (can → ∃ t, exec .stripeSwap s = .next t ∧
        (t.stripe p).active = (u.stripe p).shadow ∧ (t.stripe p).shadow = none ∧ (t.stripe p).shadowReady = false ∧ (t.stripe p).par = !(u.stripe p).par ∧
        (t.stripe p).swaps = (u.stripe p).swaps + 1 ∧ (t.ring r).lastSwap = s.fc + 1 ∧
        ∀ n : Fin 16,
          let was := u.elem ⟨p, n⟩
          let saved := (u.stripe p).restored.bind fun v => tabFind n.val v.elems
          let plane : Plane := match saved with
            | none => was.shadow
            | some y => { y.active with iw := was.shadow.iw, tw := was.shadow.tw, k := was.shadow.k, hdr := was.shadow.hdr }
          let args := ∃ c, (u.stripe p).shadow = some c ∧ c.stage = 0 ∧ 14 ≤ n.val ∧ c.present.getLsbD n.val = true
          (saved = none ∨ (tabFind (⟨p, n⟩ : ElemAt).key u.elems).isSome = true →
            (¬args → (t.elem ⟨p, n⟩).active = plane) ∧
            (∀ c, (u.stripe p).shadow = some c → args →
              (t.elem ⟨p, n⟩).active = { plane with d := plane.d.set 7 (argReg (s.launch c.launch).args) }) ∧
            ∀ y, saved = some y → (t.elem ⟨p, n⟩).inq = y.inq))

/-- R192 to R194, R261: STATE_SAVE and STATE_RESTORE. A due stripe that is otherwise drained saves its stateful elements in the record of its stage; a stage
that returns takes its record beside its image, with its bindings under new entries, and one that has been altered raises PROC_RESTORE. Nothing else is saved or
restored. -/
def Claim.StatefulStages : Prop :=
  ∀ (s : State) (p : StripeAt),
    let st := s.stripe p
    let c := st.conf false
    let d := p.ring.die
    let region := (s.ring p.ring).regionOf p.stripe.val
    (region = none → exec (.stateSave p) s = .next s ∧ exec (.stateRestore p) s = .next s) ∧
    ∀ g, region = some g →
      let saves := st.active.isSome = true ∧ c.stateful ≠ 0 ∧ st.saved = false ∧ s.goneLaunch c.launch = false ∧
        s.due_ p.ring g (g.indexOf p.stripe.val) = true ∧ s.d2 p = true ∧ s.d3 p false = true ∧ s.d4 p false = true ∧ s.d6 p false = true ∧
        (s.ring p.ring).occupied = false
      let what := g.next s p.ring (g.indexOf p.stripe.val)
      (¬saves → exec (.stateSave p) s = .next s) ∧
      (saves → ∃ t v, exec (.stateSave p) s = .next t ∧ (t.stripe p).saved = true ∧ v ∈ (t.die d).saves ∧ v.launch = c.launch ∧ v.stage = c.stage ∧
        (∀ n : Fin 16, tabFind n.val v.elems = if c.stateful.getLsbD n.val then some (s.elem ⟨p, n⟩).saved else none) ∧ t.elems = s.elems) ∧
      ((∀ l stage, what ≠ some (some (l, stage))) → exec (.stateRestore p) s = .next s) ∧
      ∀ l stage, what = some (some (l, stage)) →
        let j := tabGet Job.zero g.pasid.toNat s.jobs
        let ready := s.shadowOk p = true ∧ st.restored = none
        (s.recordOf d l stage = none ∨ ¬ready → exec (.stateRestore p) s = .next s) ∧
        ∀ v, s.recordOf d l stage = some v → ready →
          (s.altered (recordAt j v.block) (65536 * v.blocks) = true →
            ∃ t, exec (.stateRestore p) s = .next t ∧ Records s t d 0x72 (65536 * v.block) 1) ∧
          (s.altered (recordAt j v.block) (65536 * v.blocks) = false →
            (rebindAll g.ctx v.scales (s.ring p.ring).scl [] = none → exec (.stateRestore p) s = .next s) ∧
            ∀ k m, rebindAll g.ctx v.scales (s.ring p.ring).scl [] = some (k, m) →
              ∃ t, exec (.stateRestore p) s = .next t ∧ (t.ring p.ring).scl = k ∧
                (t.stripe p).restored = some (v.mapAll (fun t => { t with body := rebindReg k m t.body }) (rebindReg k m)) ∧
                ∀ w ∈ (t.die d).saves, w.launch = l → w.stage.toNat ≠ stage)

/-- A drained stripe at the head of the schedule swaps, and stateful stages save and return (readings: log 29). -/
def Obligations.StripesSwapAndSave : Prop := Claim.StripesSwap ∧ Claim.StatefulStages

/-- R190, R221: a head stripe that can never drain raises PROC_STRAY_TOKEN for the token that stands in it, or PROC_MISSING_EXIT for the exit tokens that an
element owes; no other stripe raises either. -/
def Claim.StuckStripesFault : Prop :=
  ∀ s : State,
    let r := s.focus.ring
    (s.stuckHead r = none → exec .procStrayToken s = .next s ∧ exec .procMissingExit s = .next s) ∧
    ∀ p, s.stuckHead r = some p →
      let c := (s.stripe p).conf false
      ((s.standing p).1 = [] ∨ s.d3 p false = false → exec .procStrayToken s = .next s) ∧
      (∀ f fs, (s.standing p).1 = f :: fs → s.d3 p false = true →
        ∃ t, exec .procStrayToken s = .next t ∧ Records s t r.die 0x70 (f.kind * 2 ^ 32 + f.num) 1) ∧
      (s.owesExit p false = none ∨ s.d2 p = false → exec .procMissingExit s = .next s) ∧
      ∀ e, s.owesExit p false = some e → s.d2 p = true →
        ∃ t, exec .procMissingExit s = .next t ∧
          Records s t r.die 0x71 (Hdr.exits (s.elem e).active.hdr * 65536 + (s.elem e).active.exitCount c.ctx) 1

/-- R37, R184: COHORT_ENTRY. A cohort enters the region whose stripe 0 holds stage 0 of the launch, unless one has entered since the swap, an equinox is asked
for, or the ring does not scroll; a BOUND launch is then RUNNING (the event of that change: log 51). -/
def Claim.CohortsEnter : Prop :=
  ∀ (s : State) (r : RingAt) (entry : BitVec 12),
    let found := (s.ring r).regions.find? fun g =>
      g.launches.any fun l => l % 4096 == entry.toNat && ((s.stripe (regionStripe r g.page 0)).conf false).launch == l
    (found = none → exec (.cohortEntry r entry) s = .next s) ∧
    ∀ g, found = some g →
      let p := regionStripe r g.page 0
      let c := (s.stripe p).conf false
      let enters := (s.stripe p).active.isSome = true ∧ c.stage = 0 ∧ g.cohortOpen = false ∧ g.stage0At ≤ s.fc ∧ s.asked r g = false ∧
        s.goneLaunch c.launch = false ∧ (s.ring r).scrolls = true ∧
        ∀ h q, s.headOf r = some (h, q) → s.drained h q = true ∧ (s.ring r).late ≠ some q.stripe
      (¬enters → exec (.cohortEntry r entry) s = .next s) ∧
      (enters → ∃ u : State, exec (.cohortEntry r entry) s = .next (u.running c.launch) ∧ u.elems = s.elems ∧ u.dies = s.dies ∧
        (u.ring r).regions = (s.ring r).regions.map (fun h =>
          if h.page = g.page then { h with cohortOpen := true, cohorts := h.cohorts + 1, counted := false } else h) ∧
        ((s.launch c.launch).restoring = [] →
          (u.running c.launch).rings = u.rings ∧ (u.running c.launch).elems = s.elems ∧
          ((u.running c.launch).launch c.launch).state = (if (s.launch c.launch).state = .bound then .running else (s.launch c.launch).state)))

/-- R196, R197: EQUINOX. At an equinox of a region the ring counts it once, and the messages that wait for it are answered with the count; a region that is not
at one is left as it is, and one at the end of its job's phase takes the phase boundary. -/
def Claim.EquinoxesCount : Prop :=
  ∀ (s : State) (r : RingAt) (q : Fin 8),
    ((s.ring r).atPage q = none → exec (.equinox r q) s = .next s) ∧
    ∀ g, (s.ring r).atPage q = some g → (∀ m, EqReq.pevict m true ∉ g.reqs) →
      let ends := ((s.die r.die).phase g.pasid).pend ≠ [] ∧ s.phaseOver r.die g.pasid = true
      let n := if g.counted then (s.ring r).eqcnt else (s.ring r).eqcnt + 1
      (s.atEquinox r g = false → exec (.equinox r q) s = .next s) ∧
      (s.atEquinox r g = true → ends → exec (.equinox r q) s = exec (.phaseBoundary r.die g.pasid) s) ∧
      ∀ ms : List Msg, s.atEquinox r g = true → ¬ends → g.reqs = ms.map .peqwait → (tabGet Job.zero g.pasid.toNat s.jobs).prsws = [] →
        (∀ h ∈ (s.ring r).regions, h.page ≠ q → h.reqs = []) →
        ∃ u : State, exec (.equinox r q) s = .next (ms.foldl (fun v m => v.answer m 0 (n.toNat % 2 ^ 32) 0) u) ∧
          (u.ring r).eqcnt = n ∧ u.elems = s.elems ∧ u.dies = s.dies ∧ u.hbm = s.hbm ∧
          ∀ h ∈ (u.ring r).regions, h.page = q → h.counted = true ∧ ∀ m, EqReq.peqwait m ∉ h.reqs

/-- R197, R205, R206: PHASE_BOUNDARY. When every launch of a job's current phase on a die has ended and its regions stand at an equinox, the oldest PPHASE opens
the next phase and is answered with its number. The weights of a PWSW are written there first, as they were read, after the first step of the equinoxes; a page
of theirs that is not translated holds the boundary. -/
def Claim.PhasesEnd : Prop :=
  ∀ (s : State) (d : Fin 4) (pasid : BitVec 20),
    let f := (s.die d).phase pasid
    let v := s.onJobRegions d pasid State.equinoxFirst
    (f.pend = [] ∨ s.phaseOver d pasid = false → exec (.phaseBoundary d pasid) s = .next s) ∧
    ∀ m rest, f.pend = m :: rest → s.phaseOver d pasid = true →
      (((v.die d).pwsw.find? fun w => w.job == pasid) = none →
        ∃ u : State, exec (.phaseBoundary d pasid) s = .next (u.answer m 0 ((f.num + 1) % 2 ^ 32) 0) ∧ (u.die d).phase pasid = ⟨f.num + 1, rest⟩ ∧
          ((∀ k, ∀ g ∈ (s.ring ⟨d, k⟩).regions, g.pasid ≠ pasid) → u.rings = s.rings ∧ u.elems = s.elems)) ∧
      ∀ w, (s.die d).pwsw = [w] → (v.die d).pwsw = [w] → w.job = pasid →
        (∀ bs, v.writeTiles d w = .bytes bs →
          ∃ t, exec (.phaseBoundary d pasid) s = .next t ∧ (t.die d).ws = writeBytes (4096 * w.tile) bs (v.die d).ws ∧ (t.die d).pwsw = []) ∧
        ∀ u, v.writeTiles d w = .wait u → exec (.phaseBoundary d pasid) s = .next u

/-- Stuck stripes fault, cohorts enter, equinoxes count and phases end (readings: logs 29, 51). -/
def Obligations.ProcessionRules : Prop := Claim.StuckStripesFault ∧ Claim.CohortsEnter ∧ Claim.EquinoxesCount ∧ Claim.PhasesEnd

/-- R31 to R33, R39, R204: LAUNCH_COMPLETE and CANCEL_COMPLETE. A launch that is complete, and a cancelled or terminated one that nothing holds any longer,
ends: its entry is DONE or FREE, it has no segment, and no region lists it. A launch that is not complete goes on; a cancel takes back what is withdrawn and, of
a terminated launch whose records are written, the regions; it waits for what the launch is owed, for the engines that still perform its messages (log 61), for its
stripes, and while the launch is a frozen victim. -/
def Claim.LaunchesEnd : Prop :=
  ∀ (s : State) (d : Fin 4) (entry : BitVec 12),
    let l := launchKey d entry.toNat
    let x := s.launch l
    let ends := fun t : State => ((t.launch l).state = .free ∨ (t.launch l).state = .done) ∧ (t.launch l).segs = [] ∧
      ∀ r, ∀ g ∈ (t.ring r).regions, l ∉ g.launches
    let stays := x.state = .free ∨ x.state = .done ∨ (x.cancelled = false ∧ x.faulted = false) ∨
      (x.ical = false ∧ ∃ g ∈ x.segs, (s.ring ⟨g.die, g.ring⟩).occupied = true) ∨ (x.faulted = true ∧ s.recordWaits x.pasid = true)
    let u := x.segs.foldl (fun s g => s.withdraw l g) (s.cancelLaunch l)
    let v := if x.faulted then u.removeRegions l else u
    let finished := (x.state ≠ .bound ∧ x.state ≠ .running) ∨
      ((v.launch l).owed = 0 ∧ v.enginesOwe l = false ∧ (x.faulted = true ∨ x.ical = true ∨ v.swappedAway l false = true))
    (s.complete l = true → ∃ t, exec (.launchComplete d entry) s = .next t ∧ ends t) ∧
    (s.complete l = false → exec (.launchComplete d entry) s = .next s) ∧
    (stays → exec (.cancelComplete d entry) s = .next s) ∧
    (¬stays → finished → ∃ t, exec (.cancelComplete d entry) s = .next t ∧ ends t) ∧
    (¬stays → ¬finished → exec (.cancelComplete d entry) s = .next v)

/-- R200, R201, R209: DISPATCH_BIND. One launch of a die is bound in an fc: the first in priority and age that finds a place. It takes a free span of pages as a
region of its job, for each of its segments, after the idle regions there are reclaimed at their equinox; or it joins a region of the job, or the ring of the
intercalary job. One that the checks of placement refuse ends with the status; one whose images cannot be read yet waits. -/
def Claim.LaunchesBind : Prop :=
  ∀ s : State,
    let d := s.focus.ring.die
    let first := (s.die d).readyLaunches.findSome? fun e => (s.spot d (s.launch (launchKey d e))).map fun t => (launchKey d e, t)
    ((s.die d).lastBind = s.fc + 1 ∨ first = none → exec .dispatchBind s = .next s) ∧
    ∀ (l : Nat) (sp : Spot),
      let x := s.launch l
      (s.die d).lastBind ≠ s.fc + 1 → x.ical = (match sp with | .ical _ _ => true | _ => false) → first = some (l, sp) →
      (s.reclaimable sp.reclaims = false → exec .dispatchBind s = .next s) ∧
      (s.reclaimable sp.reclaims = true →
        (∀ u, s.placing d x = .wait u → exec .dispatchBind s = .next u) ∧
        (∀ u st, s.placing d x = .refuse u st →
          ∃ t, exec .dispatchBind s = .next t ∧ ((t.launch l).state = .free ∨ (t.launch l).state = .done) ∧ (t.launch l).segs = []) ∧
        ∀ saves, s.placing d x = .ok saves →
          (∀ at_ ks, sp = .fresh at_ ks →
            ∃ t, exec .dispatchBind s = .next t ∧ (t.die d).lastBind = s.fc + 1 ∧ (t.launch l).state = .bound ∧ (t.launch l).saveAt = saves ∧
              (t.launch l).segs = (at_.map fun p => ⟨p.1.die, p.1.ring, Fin.ofNat 8 p.2.1, p.2.2, Alloc.start, 0⟩) ∧
              ∀ r q c, at_ = [(r, q, c)] → tabFind c.toNat (t.ring r).ctxs = some x.pasid ∧
                ∃ g ∈ (t.ring r).regions, g.page = Fin.ofNat 8 q ∧ g.pages = x.pages ∧ g.pasid = x.pasid ∧ g.ctx = c ∧ g.launches = [l]) ∧
          (∀ r q g, sp = .join r q → (s.ring r).atPage q = some g →
            ∃ t, exec .dispatchBind s = .next t ∧ (t.launch l).state = .bound ∧ (t.launch l).woken = true ∧
              (t.launch l).segs = [⟨r.die, r.ring, q, g.ctx, Alloc.start, 0⟩] ∧ ∃ h ∈ (t.ring r).regions, h.page = q ∧ h.launches = g.launches ++ [l]) ∧
          ∀ r c, sp = .ical r c →
            ∃ t, exec .dispatchBind s = .next t ∧ (t.launch l).state = .bound ∧ (t.ring r).icalLaunch = some l ∧ (t.ring r).icalLoaded = 0 ∧
              tabFind c.toNat (t.ring r).ctxs = some x.pasid ∧ (t.ring r).regions = (s.ring r).regions)

/-- A complete launch ends and leaves no region, and one launch is bound in an fc where it finds a place (engines that owe: log 61). -/
def Obligations.LaunchLifecycle : Prop := Claim.LaunchesEnd ∧ Claim.LaunchesBind

/-- R208: ALMANAC_UPDATE. At a frame's start an unoccupied ring applies the almanac writes that wait, in order and slot by slot, and answers them; at no other
time. -/
def Claim.AlmanacUpdates : Prop :=
  ∀ s : State,
    let r := s.focus.ring
    let ws := (s.ring r).palmw
    (s.fc % 64 ≠ 0 ∨ (s.ring r).occupied = true → exec .almanacUpdate s = .next s) ∧
    (s.fc % 64 = 0 → (s.ring r).occupied = false →
      ∃ u : State, exec .almanacUpdate s = .next (ws.foldl (fun v w => v.answer w.1 0 0 0) u) ∧ (u.ring r).palmw = [] ∧ u.elems = s.elems ∧ u.dies = s.dies ∧
        ∀ n < 64, tabFind n (u.ring r).almanac =
          ws.foldl (fun (a : Option AlmSlot) w => if w.2.1.getLsbD n then w.2.2 else a) (tabFind n (s.ring r).almanac))

/-- R210, R306, R308: INTERCALARY_SWITCH and INTERCALARY_RETURN. An intercalary launch whose images are loaded and which has been woken occupies its ring, whose
arrays are then empty, and is RUNNING from then on (the event of that change: log 51); when it has ended, the ring returns to its regions and holds no intercalary
launch. -/
def Claim.IntercalarySwitches : Prop :=
  ∀ s : State,
    let r := s.focus.ring
    let y := s.ring r
    (y.icalLaunch = none → exec .intercalarySwitch s = .next s ∧ exec .intercalaryReturn s = .next s) ∧
    ∀ l, y.icalLaunch = some l →
      let x := s.launch l
      let due := y.occupied = false ∧ y.icalLoaded = x.stages ∧ x.woken = true ∧ x.state = .bound ∧ s.goneLaunch l = false
      let ended := y.occupied = true ∧ (x.segs = [] ∨ x.ical = false) ∧ ∀ k ∈ s.terminated r, s.recordWaits (s.launch k).pasid = false ∧
        s.enginesOwe k = false
      (¬due → exec .intercalarySwitch s = .next s) ∧
      (due → ∃ t, exec .intercalarySwitch s = .next t ∧ (t.ring r).occupied = true ∧ (t.launch l).state = .running ∧
        ((∀ e ∈ s.ringElems r, isMSlot e.slot.val = true → (s.elem e).main.array = []) → t.elems = s.elems ∧ t.stripes = s.stripes)) ∧
      (¬ended → exec .intercalaryReturn s = .next s) ∧
      (ended → y.heldResults = [] → s.terminated r = [] →
        ∃ t, exec .intercalaryReturn s = .next t ∧ (t.ring r).occupied = false ∧ (t.ring r).icalLaunch = none ∧ (t.ring r).regions = y.regions)

/-- Almanac writes apply at a frame, and an intercalary launch takes its ring and gives it back (RUNNING at the switch: log 51, DESIGN CHOICE). -/
def Obligations.AlmanacAndIntercalary : Prop := Claim.AlmanacUpdates ∧ Claim.IntercalarySwitches

/-- R97, R98, R130: TRANSLATION_COMPLETE and PRI_RESPONSE. A translation that permits the access ends its walk and enters the cache, and a watch that waited
for it is installed (log 39); a page that is absent or
lacks the permission leaves, for each that waits, a resumable XLT_NOT_PRESENT, and a page request; a bad PASID and an error terminate the jobs that wait. A page
response ends the request: the access translates again, or XLT_PRI_FAIL. The faults of a prefetch, on which nobody waits, are suppressed. -/
def Claim.TranslationsComplete : Prop :=
  ∀ (s : State) (d : Fin 4) (pasid : BitVec 20) (vpage : BitVec 52),
    let done := fun a : XltAnswer => exec (.translationComplete d pasid vpage a) s
    let walk := (s.die d).walksOut.find? fun w => w.is pasid vpage.toNat false
    let page := (s.die d).walksOut.find? fun w => w.is pasid vpage.toNat true
    let ended := fun (w : Walk) (t : State) => (t.die d).walks.map (fun v => (v.pasid, v.vpage, v.write, v.pri, v.waiters)) =
      ((s.die d).walks.erase w).map fun v => (v.pasid, v.vpage, v.write, v.pri, v.waiters)
    let each := fun (w : Walk) (t : State) (code disp : Nat) => (t.die d).faultWait.length = (s.die d).faultWait.length + w.waiters.length ∧
      ∀ u ∈ w.waiters, ∃ e ∈ (t.die d).faultWait, e.rec_.code = .ofNat 8 code ∧ e.rec_.aux = u.site.aux ∧ e.rec_.disp = .ofNat 2 disp ∧
        e.rec_.time = .ofNat 64 s.fc
    (walk = none → ∀ a, done a = .next s) ∧
    (page = none → ∀ ok, exec (.priResponse d pasid vpage ok) s = .next s) ∧
    (∀ w, walk = some w →
      (∀ hpage size r wr np, (if w.write then wr else r) = true →
        ∃ t : State, done (.present hpage size r wr np) = .next (t.installDue d) ∧
          (t.die d).xlts = (s.die d).xlts ++ [⟨w.pasid, w.vpage, hpage.toNat, size, r, wr, np⟩] ∧ ended w t ∧
          t.rings = s.rings ∧ (t.die d).faultWait = (s.die d).faultWait ∧
          ((∀ k : Fin 4, ∀ o ∈ (s.ring ⟨d, k⟩).arriving ++ (s.ring ⟨d, k⟩).waveBuf ++ (s.ring ⟨d, k⟩).linked, o.kind = .waita → o.watched = true) →
            t.installDue d = t)) ∧
      (∀ a, a = .absent ∨ (∃ hpage size r wr np, a = .present hpage size r wr np ∧ (if w.write then wr else r) = false) →
        ∃ t, done a = .next t ∧ each w t 0x90 0 ∧ (t.die d).xlts = (s.die d).xlts ∧
          (w.waiters ≠ [] → { w with pri := true } ∈ (t.die d).walks) ∧ (w.waiters = [] → ended w t ∧ t.rings = s.rings)) ∧
      (∃ t, done .badPasid = .next t ∧ each w t 0x92 1 ∧ ended w t) ∧
      ∃ t, done .error = .next t ∧ each w t 0x93 1 ∧ ended w t) ∧
    ∀ w, page = some w →
      (∃ t, exec (.priResponse d pasid vpage true) s = .next t ∧ ended w t ∧ (t.die d).faultWait = (s.die d).faultWait) ∧
      ∃ t, exec (.priResponse d pasid vpage false) s = .next t ∧ each w t 0x91 1 ∧ ended w t

/-- R99: an invalidation removes the translations of its page from the die's cache, and no other; its completion is pending while an update of the die's windows
that has used one of them is. -/
def Claim.InvalidationsApply : Prop :=
  ∀ (s : State) (d : Fin 4) (pasid : BitVec 20) (vpage : BitVec 52),
    ∃ t, exec (.atsInvalidation d pasid vpage) s = .next t ∧ (∀ x ∈ (t.die d).xlts, x.covers pasid vpage.toNat = false) ∧
      (∀ x ∈ (s.die d).xlts, x.covers pasid vpage.toNat = false → x ∈ (t.die d).xlts) ∧ t.rings = s.rings ∧ t.elems = s.elems ∧ t.hbm = s.hbm ∧
      let gone := (s.die d).xlts.filter fun x => x.covers pasid vpage.toNat
      (t.die d).invals = if s.xltsUsed d gone = true then (s.die d).invals ++ [(pasid, vpage.toNat, gone)] else (s.die d).invals

/-- R130, R255: a translation request without completion for the long wait raises XLT_TIMEOUT for each that waits, and an allocation of a scale entry that has
waited the long wait raises SCL_EXHAUSTED with the entries that its context holds; nothing happens before. -/
def Claim.LongWaitsEnd : Prop :=
  ∀ s : State,
    let d := s.focus.ring.die
    let c := (s.ring s.focus.ring).scl
    (∀ w, ((s.die d).walksOut.find? fun w => !w.pri && decide (w.since + Config.longWait ≤ s.fc)) = some w →
      ∃ t, exec .xltTimeout s = .next t ∧ (t.die d).faultWait.length = (s.die d).faultWait.length + w.waiters.length ∧
        ∀ u ∈ w.waiters, ∃ e ∈ (t.die d).faultWait, e.rec_.code = 0x95 ∧ e.rec_.aux = u.site.aux ∧ e.rec_.disp = 2) ∧
    ((∀ w ∈ (s.die d).walksOut, w.pri = false → s.fc < w.since + Config.longWait) → exec .xltTimeout s = .next s) ∧
    (∀ w, (c.waits.find? fun w => decide (w.since + Config.longWait ≤ s.fc)) = some w → (ElemAt.ofKey w.elem).at_.ring = s.focus.ring →
      ∃ t, exec .sclExhausted s = .next t ∧ Records s t d 0x25 (c.held w.ctx) 1 ∧ w ∉ (t.ring s.focus.ring).scl.waits) ∧
    ((∀ w ∈ c.waits, s.fc < w.since + Config.longWait) → exec .sclExhausted s = .next s)

/-- R44, R477, R484: an uncorrectable error at a unit stops the job of the context that owns what is lost, with the code of the unit that detects it; a granule
of memory, or a tile of the weight store, that nothing has written since the cold reset raises none. A patrol scrub records an uncorrectable granule as a device
fault on every die, and the granule stays bad; a corrected error is counted and nothing else. -/
def Claim.MemoryErrors : Prop :=
  ∀ (s : State) (e : ElemAt) (ical : Bool) (islot : Fin 16) (port : Option (Fin 16)) (dpa : Dword) (shared monitor : Bool) (index : BitVec 11) (slot : BitVec 9) (unit : Word)
      (ws : Word) (desc : Fin 4) (p : StripeAt) (u64 : Dword) (r : RingAt) (d : Fin 4),
    let ends := fun (site : ErrSite) (d : Fin 4) (code aux : Nat) => ∃ t, exec (.uncorrectableError site) s = .next t ∧ Records s t d code aux 1
    let here := e.at_.ring.die
    let written := ws = 0 ∨ tabGet none (ws.toNat / 4096) (s.die here).wsEnc ≠ none
    (s.granuleKey (dpa.toNat / 64) ≠ none → ends (.memoryRead e ical islot dpa) here 0x47 dpa.toNat) ∧
    (s.granuleKey (dpa.toNat / 64) = none → exec (.uncorrectableError (.memoryRead e ical islot dpa)) s = .next s) ∧
    (¬written → ∀ q, exec (.uncorrectableError (.matrix e ical q ws)) s = .next s) ∧
    ends (.element e ical shared) here 0x08 ((if shared then 1 else 0) + e.slot.val * 2 ^ 32) ∧
    ends (.scale e ical islot index) here 0x26 index.toNat ∧
    (written → ends (.matrix e ical (some desc) ws) here 0x35 ws.toNat ∧ ends (.matrix e ical none ws) here 0x35 (ws.toNat + e.slot.val * 2 ^ 32)) ∧
    ends (.junction e ical monitor slot) here 0x4B (slot.toNat + (if monitor then 2 ^ 15 else 0)) ∧
    ends (.stream e ical port unit) here 0x52 unit.toNat ∧
    ends (.sparse e ical islot u64) here 0x61 u64.toNat ∧
    ends (.plane p ical) p.ring.die 0x75 ((s.ring p.ring).phys p.stripe.val) ∧
    (∀ ctx, ends (.cache r ctx index) r.die 0x75 index.toNat) ∧
    (∀ ep flit ctx, (∃ g ∈ (s.ring r).regions, g.ctx = ctx) → ends (.link r.die ep flit r.ring ctx) r.die 0x82 flit.toNat) ∧
    (∀ ep flit ctx, (∀ g ∈ (s.ring r).regions, g.ctx ≠ ctx) → exec (.uncorrectableError (.link r.die ep flit r.ring ctx)) s = .next s) ∧
    exec (.patrolScrub none) s = .next s ∧
    (∃ t, exec (.patrolScrub (some dpa)) s = .next t ∧ Records s t d 0xA1 dpa.toNat 2 ∧ dpa.toNat / 64 ∈ t.badGrans ∧ t.rings = s.rings ∧ t.elems = s.elems) ∧
    ∃ t, exec .eccCorrected s = .next t ∧ (t.die s.focus.ring.die).ecccor = (s.die s.focus.ring.die).ecccor + 1 ∧ t.rings = s.rings ∧ t.elems = s.elems ∧
      t.hbm = s.hbm

/-- Translations complete or fault, invalidations apply, long waits end and memory errors stop their job. -/
def Obligations.TranslationRules : Prop := Claim.TranslationsComplete ∧ Claim.InvalidationsApply ∧ Claim.LongWaitsEnd ∧ Claim.MemoryErrors

/-! ### The front end -/

/-- R161: FWAIT answers a restart first; a mapped hart then takes a fault, a launch report, a met watch, the next packet of its queue or an expired vigil
timer, in this order, and blocks without any; a hart without a queue takes the attention of one. -/
def Obligations.HartsWait : Prop :=
  ∀ (s : State) (rd : BitVec 5),
    let d := s.focus.ring.die
    let x := s.die d
    let h := s.me
    let e := s.latch h.qid
    let gives := fun (v : Nat) (P : State → Prop) => ∃ t, exec (.fwait rd) s = .next t ∧ Retires s t rd v ∧ P t
    (rd = 0 → Traps s (.fwait rd) 0x0B) ∧
    (rd ≠ 0 → x.feRestart = true → gives (fevent 5 0 0) fun t => s.focus.hart.val ∈ (t.die d).restarted) ∧
    (rd ≠ 0 → x.feRestart = false → h.mapped = true →
      (∀ i f, x.oldestFault (FbEntry.owes h.qid) = some (i, f) → gives (fevent 6 i 0) fun t => (t.die d).fbuf = (x.delivered i (FbEntry.take h.qid)).fbuf) ∧
      (x.oldestFault (FbEntry.owes h.qid) = none →
        (∀ r, (x.reports.find? fun r => r.qid == h.qid) = some r →
          gives (fevent 4 r.launch.toNat r.status.toNat) fun t => (t.die d).reports = x.reports.erase r) ∧
        ((x.reports.find? fun r => r.qid == h.qid) = none →
          (h.arm = true → h.watchHit = true → gives (fevent 1 0 0) fun t => t.me.arm = false ∧ t.me.met = true ∧ t.me.vigilArmed = false) ∧
          (h.arm = false → e.stop = false → seqAfter e.lseq e.taken = true →
            gives ((e.taken + 1).toNat % 2 ^ e.rsize.toNat) fun t => t.me.vigilArmed = false) ∧
          (¬(h.arm = true ∧ h.watchHit = true) → ¬(h.arm = false ∧ e.stop = false ∧ seqAfter e.lseq e.taken = true) →
            (h.vigilExpired = true → x.feRunq ≠ 0 → gives (fevent 2 0 0) fun _ => True) ∧
            (h.vigilExpired = false ∨ x.feRunq = 0 → Stays s (.fwait rd) (.fwait rd)))))) ∧
    (rd ≠ 0 → x.feRestart = false → h.mapped = false →
      (∀ i rest, x.attn = i :: rest → x.attends s.focus.hart = true →
        gives (fevent 3 (qidOf d i).toNat 0) fun t => (t.die d).attn = rest ∧ (tabGet Latch.zero i (t.die d).latch).attn = false) ∧
      (x.attn = [] ∨ x.attends s.focus.hart = false → Stays s (.fwait rd) (.fwait rd)))

/-- What an instruction of the front end leaves when it retires: its result and the next pc, and the rest of the hart as it was. -/
def Claim.RetireIsResultAndPc : Prop :=
  ∀ (s : State) (rd : BitVec 5) (v : Nat),
    let t := s.retireF rd v
    Retires s t rd v ∧ t.hbm = s.hbm ∧ t.rings = s.rings ∧ (∀ q, t.latch q = s.latch q) ∧ t.me.reg 0 = 0 ∧
      ∀ d k, (d, k) ≠ (s.focus.ring.die, s.focus.hart) → t.hart d k = s.hart d k

/-- R160, R168: FVIGIL arms the timer of a hart, or reads it while it runs. An argument of FLATCH, FSEQCHK or FVIGIL that names nothing is an illegal
instruction. FLATCH of a queue of another die reads 0 (log 13). -/
def Claim.TimerAndArguments : Prop :=
  ∀ (s : State) (rd rs1 rs2 : BitVec 5),
    let d := s.focus.ring.die
    let v := (s.me.reg rs2).toNat
    (∀ q, argQid (s.me.reg rs1) = some q → homeDie q ≠ d → exec (.flatch rd rs1) s = .next (s.retireF rd 0)) ∧
    (argQid (s.me.reg rs1) = none → Traps s (.flatch rd rs1) (customWord 1 rd rs1 0)) ∧
    (argHome d (s.me.reg rs1) = none ∨ 65536 ≤ v → Traps s (.fseqchk rd rs1 rs2) (customWord 5 rd rs1 rs2)) ∧
    (∀ k, argHart (s.me.reg rs1) = some k →
      ∃ t, exec (.fvigil rd rs1) s = .next t ∧ (t.hart d k).vigilArmed = true ∧
        ((s.hart d k).vigilArmed = true → Retires s t rd (s.hart d k).remain.toNat ∧ (t.hart d k).remain = (s.hart d k).remain) ∧
        ((s.hart d k).vigilArmed = false → Retires s t rd (s.die d).feVigil.toNat ∧ (t.hart d k).remain = (s.die d).feVigil ∧
          (t.hart d k).vigilExpired = false)) ∧
    (argHart (s.me.reg rs1) = none → Traps s (.fvigil rd rs1) (customWord 7 rd rs1 0))

/-- R165: FQMAP gives a valid queue of its die that no hart holds to a hart that holds none, when their sizes agree, and disarms the hart; anything else is an
illegal instruction. -/
def Claim.QueuesMap : Prop :=
  ∀ (s : State) (rs1 rs2 : BitVec 5),
    let d := s.focus.ring.die
    (∀ q k, argHome d (s.me.reg rs1) = some q → argHart (s.me.reg rs2) = some k →
      let e := s.latch q
      let y := s.hart d k
      let fits := e.valid = true ∧ e.mapped = false ∧ y.mapped = false ∧ y.rsize = e.rsize ∧ y.csize = e.csize
      (fits → ∃ t, exec (.fqmap rs1 rs2) s = .next t ∧ Retires s t 0 0 ∧ (t.hart d k).mapped = true ∧ (t.hart d k).qid = q ∧
        (t.hart d k).arm = false ∧ (t.hart d k).met = false ∧ (t.hart d k).vigilArmed = false ∧ t.latch q = { e with mapped := true }) ∧
      (¬fits → Traps s (.fqmap rs1 rs2) (customWord 3 0 rs1 rs2))) ∧
    (argHome d (s.me.reg rs1) = none ∨ argHart (s.me.reg rs2) = none → Traps s (.fqmap rs1 rs2) (customWord 3 0 rs1 rs2))

/-- R160: FQDEMAP of an argument that is no hart number is an illegal instruction. -/
def Claim.DemapArguments : Prop :=
  ∀ (s : State) (rd rs1 : BitVec 5), argHart (s.me.reg rs1) = none → Traps s (.fqdemap rd rs1) (customWord 4 rd rs1 0)

/-- FQMAP maps, FVIGIL arms, an argument that names nothing is illegal, and FLATCH of another die's queue reads 0 (log 13). -/
def Obligations.FrontEndArguments : Prop := Claim.RetireIsResultAndPc ∧ Claim.TimerAndArguments ∧ Claim.QueuesMap ∧ Claim.DemapArguments

/-- R166: FQDEMAP waits until the hart that it names is its own or is blocked in FWAIT; it then answers the hart's queue and clears MAPPED in the hart and in
the latch, ARM and the timer, and a hart without a queue answers all ones and nothing changes. The queue keeps its launches and the rest of its latch entry,
the claimed position among it. -/
def Obligations.QueuesDemap : Prop :=
  ∀ (s : State) (rd rs1 : BitVec 5) (k : Fin 64),
    let d := s.focus.ring.die
    let y := s.hart d k
    let free := k = s.focus.hart ∨ ∃ r, y.block = .fwait r
    argHart (s.me.reg rs1) = some k →
    (¬free → Stays s (.fqdemap rd rs1) (.fqdemap rd k)) ∧
    (free → y.mapped = true →
      ∃ t, exec (.fqdemap rd rs1) s = .next t ∧ Retires s t rd y.qid.toNat ∧ (t.hart d k).mapped = false ∧ (t.hart d k).arm = false ∧
        (t.hart d k).vigilArmed = false ∧ t.latch y.qid = { s.latch y.qid with mapped := false } ∧ (∀ p, p ≠ y.qid → t.latch p = s.latch p) ∧
        ∀ e, (t.die e).launches = (s.die e).launches) ∧
    (free → y.mapped = false → exec (.fqdemap rd rs1) s = .next (s.retireF rd 0xFFFF_FFFF_FFFF_FFFF))

/-- R162, R163: FLATCH reads LSEQ with whether packets are pending and whether the queue exists, a queue that does not exist reads 0, and nothing but rd and
the pc changes; FSEQCHK tells a duplicate from the packet expected, which it claims in the same act, and from a gap. The queue is homed on the hart's
die. -/
def Obligations.LatchReads : Prop :=
  ∀ (s : State) (rd rs1 rs2 : BitVec 5) (q : BitVec 20),
    let d := s.focus.ring.die
    let e := s.latch q
    let v := (s.me.reg rs2).toNat
    let n := seqDist (.ofNat 16 v) e.taken
    argHome d (s.me.reg rs1) = some q →
    (exec (.flatch rd rs1) s = .next (s.retireF rd
        (if e.valid = true then e.lseq.toNat + (if seqAfter e.lseq e.taken then 2 ^ 16 else 0) + 2 ^ 17 else 0))) ∧
    (v < 65536 →
      (n = 0 ∨ 32768 ≤ n → exec (.fseqchk rd rs1 rs2) s = .next (s.retireF rd 1)) ∧
      (n = 1 → seqAfter (.ofNat 16 v) e.lseq = false →
        ∃ t, exec (.fseqchk rd rs1 rs2) s = .next t ∧ Retires s t rd 0 ∧ t.latch q = { e with taken := .ofNat 16 v } ∧
          ∀ p, p ≠ q → t.latch p = s.latch p) ∧
      (n < 32768 → 1 < n ∨ n = 1 ∧ seqAfter (.ofNat 16 v) e.lseq = true → exec (.fseqchk rd rs1 rs2) s = .next (s.retireF rd 2)))

/-- R139, by its pseudocode: a kick whose words fit the queue sets LSEQ when its sequence is after it, raises the attention of a queue that no hart holds and
starts the wake of a gated home die; any other sequence that fits changes nothing. One that does not fit sets BADKICK and is counted, and so does a sequence before
TAKEN, of which the rule's prose says that it has no effect (log 62). One that is malformed, for no valid queue or no single 8-byte write is dropped and counted.
In recovery a kick is dropped (R477; log 36, DEDUCED). -/
def Obligations.KickUpdatesLatch : Prop :=
  ∀ (s : State) (q : BitVec 20) (single : Bool) (w : Dword),
    let e := s.latch q
    let n := BitVec.ofNat 16 (bits w.toNat 63 48)
    let home := homeDie q
    let formed := single = true ∧ e.valid = true ∧ bits w.toNat 47 16 = 0
    let fits := bits w.toNat 15 0 = (n.toNat + 1) % 2 ^ e.rsize.toNat ∧ seqDist n e.taken ≤ 2 ^ e.rsize.toNat
    let counted := fun t : State => (t.die home).feKickerr = (s.die home).feKickerr + 1
    (s.recovery = true → exec (.feKick q single w) s = .next s) ∧
    (s.recovery = false →
    (formed → fits → seqAfter n e.lseq = true →
      ∃ t, exec (.feKick q single w) s = .next t ∧ t.latch q = { e with lseq := n, attn := e.attn || !e.mapped } ∧
        (e.mapped = false → localIx q ∈ (t.die home).attn) ∧ (e.mapped = true → (t.die home).attn = (s.die home).attn) ∧
        (t.die home).waking = ((s.die home).waking || (s.die home).gated) ∧ (t.die home).feKickerr = (s.die home).feKickerr) ∧
    (formed → fits → seqAfter n e.lseq = false → exec (.feKick q single w) s = .next s) ∧
    (formed → ¬fits → ∃ t, exec (.feKick q single w) s = .next t ∧ t.latch q = { e with badkick := true } ∧ counted t) ∧
    (¬formed → ∃ t, exec (.feKick q single w) s = .next t ∧ t.latch q = e ∧ counted t) ∧
    (single = false → ∃ t, exec (.feCack q single w) s = .next t ∧ t.latch q = e ∧ counted t))

/-- R140: an acknowledgement sets CACK as far as the last record posted; one beyond it sets BADKICK and leaves CACK. It is a single 8-byte write; in
recovery it is dropped (R477; log 36, DEDUCED). -/
def Obligations.AcknowledgementMovesCack : Prop :=
  ∀ (s : State) (q : BitVec 20) (w : Dword),
    let e := s.latch q
    let v := BitVec.ofNat 16 w.toNat
    (s.recovery = true → exec (.feCack q true w) s = .next s) ∧
    (s.recovery = false → seqDist v e.cack ≤ seqDist e.cpost e.cack → ∃ t, exec (.feCack q true w) s = .next t ∧ t.latch q = { e with cack := v } ∧ ∀ p, p ≠ q → t.latch p = s.latch p) ∧
    (s.recovery = false → seqDist e.cpost e.cack < seqDist v e.cack → ∃ t, exec (.feCack q true w) s = .next t ∧ t.latch q = { e with badkick := true } ∧
      ∀ p, p ≠ q → t.latch p = s.latch p)

/-- R164: FPOST writes the record at rs1, with its CSEQ, to the next entry of the completion ring and advances CPOST; it waits while the ring is full, and a
CSEQ that is not the next one is an illegal instruction. A page that cannot be written blocks the hart at the instruction. -/
def Claim.RecordsPost : Prop :=
  ∀ (s : State) (rs1 rs2 : BitVec 5) (a : Nat),
    let d := s.focus.ring.die
    let h := s.me
    let e := s.latch h.qid
    let c := e.cpost + 1
    let bs := (readBytes a 64 (s.die d).sram).take 6 ++ natBytes 2 c.toNat ++ (readBytes a 64 (s.die d).sram).drop 8
    let place := h.cbase.toNat * 64 + 64 * (c.toNat % 2 ^ h.csize.toNat)
    (argSram (h.reg rs1) = some a → h.mapped = true → (h.reg rs2).toNat = c.toNat →
      (2 ^ e.csize.toNat ≤ seqDist e.cpost e.cack → Stays s (.fpost rs1 rs2) (.fpost (h.reg rs1) c)) ∧
      (seqDist e.cpost e.cack < 2 ^ e.csize.toNat →
        (localIx h.qid = 0 → h.pasid = 0 →
          ∃ t, exec (.fpost rs1 rs2) s = .next t ∧ Retires s t 0 0 ∧ (t.latch h.qid).cpost = c ∧ t.hbm = (s.hbmWrite s.devKey place bs).hbm) ∧
        (¬(localIx h.qid = 0 ∧ h.pasid = 0) →
          (s.fBlock d h.pasid place 64 true (some s.focus.hart) = none →
            ∃ t, exec (.fpost rs1 rs2) s = .next t ∧ Retires s t 0 0 ∧ (t.latch h.qid).cpost = c ∧ t.hbm = (s.fWrite d h.pasid place bs).hbm) ∧
          ∀ u, s.fBlock d h.pasid place 64 true (some s.focus.hart) = some u →
            exec (.fpost rs1 rs2) s = .next (u.onMe fun x => { x with block := .fpost (h.reg rs1) c })))) ∧
    (argSram (h.reg rs1) = none ∨ h.mapped = false ∨ (h.reg rs2).toNat ≠ c.toNat → Traps s (.fpost rs1 rs2) (customWord 2 0 rs1 rs2))

/-- R167: FLAUNCH presents the launch of a descriptor in SRAM that names the hart's queue and job: rd takes the launch number, or bit 63 with the status of the
refusal; it waits where acceptance waits. A descriptor that is no LAUNCH, or is malformed, is refused too. -/
def Claim.DescriptorsLaunch : Prop :=
  ∀ (s : State) (rd rs1 : BitVec 5) (a : Nat),
    let d := s.focus.ring.die
    let h := s.me
    let bs := readBytes a 64 (s.die d).sram
    let w := bytesNat (bs.take 8)
    let seq := BitVec.ofNat 16 w
    let pkt : List Dword := .ofNat 64 (bits w 63 56 * 2 ^ 56 + 2 ^ 48 + seq.toNat * 2 ^ 32) :: ((List.range 8).map fun i => .ofNat 64 (bytesNat ((bs.drop (8 * i)).take 8))).drop 1
    let mine := argSram (h.reg rs1) = some a ∧ h.mapped = true ∧ bits w 35 16 = h.qid.toNat ∧ bits w 55 36 = h.pasid.toNat
    let refuses := fun st : Nat => ∃ t, exec (.flaunch rd rs1) s = .next t ∧ Retires s t rd (2 ^ 63 + st)
    (mine → (∀ e, decodePacket pkt = .error e → refuses e.status) ∧
      ∀ i, decodePacket pkt = .ok i → (∀ hd b, i ≠ .pktLaunch hd b) → refuses 0x0201) ∧
    (mine → ∀ hd b, decodePacket pkt = .ok (.pktLaunch hd b) →
      let p := s.descLaunch d h seq b
      (∀ u l, s.present d p = .taken u l →
        ∃ t, exec (.flaunch rd rs1) s = .next t ∧ Retires s t rd (launchNumber l (u.launch l)) ∧ t.launch l = u.launch l) ∧
      (∀ st, s.present d p = .refused st → refuses st) ∧
      (∀ u, s.present d p = .fault u → refuses 3) ∧
      ∀ u, s.present d p = .wait u → ∃ t, exec (.flaunch rd rs1) s = .next t ∧ t.me = { u.me with block := .flaunch rd (h.reg rs1) }) ∧
    (argSram (h.reg rs1) = none ∨ h.mapped = false → Traps s (.flaunch rd rs1) (customWord 6 rd rs1 0)) ∧
    (argSram (h.reg rs1) = some a → h.mapped = true → bits w 35 16 ≠ h.qid.toNat ∨ bits w 55 36 ≠ h.pasid.toNat → Traps s (.flaunch rd rs1) (customWord 6 rd rs1 0))

/-- R40, R41, R152: the oldest record of an earlier fc that waits on a die, and whose buffer has room, enters the lowest free place (the choice of the place: log
45, DESIGN CHOICE) of the fault buffer of its queue's home die, or of this die (log 41). One for a queue that no firmware serves is kept there, and sets ATTN. One for the bootstrap queue that the die's firmware serves is posted in the queue's
next completion, in its last 32 bytes, and so is one for the fault log of the die; a log that is full drops it, and counts. -/
def Claim.FaultRecordsEnter : Prop :=
  ∀ (s : State) (e : FbEntry) (young rest : List FbEntry) (i : Nat),
    let d := s.focus.ring.die
    let x := s.die d
    let q := qidOf d 0
    let room := fun (h : Fin 4) (i : Nat) => i < 64 ∧ tabFind i (s.die h).fbuf = none ∧ ∀ j < i, (tabFind j (s.die h).fbuf).isSome = true
    let ready := fun e : FbEntry => e.rec_.time ≠ .ofNat 64 s.fc ∧ ∃ i, room (e.home d) i
    ((∀ e ∈ x.faultWait, ¬ready e) → exec .faultBufferEnter s = .next s) ∧
    (x.faultWait = young ++ e :: rest → (∀ e ∈ young, ¬ready e) → ready e → room (e.home d) i →
      (∀ k seq, (∀ j, s.serving j = false) → (s.queue k).isSome = true → e.queue = some (k, seq) → e.toJob = true →
        ∃ t, exec .faultBufferEnter s = .next t ∧ (t.die d).faultWait = x.faultWait.erase e ∧ tabFind i (t.die (homeDie k)).fbuf = some e ∧
          ((s.latch k).mapped = false → (t.latch k).attn = true)) ∧
      ∀ y l,
        let a := y.cbase.toNat + 64 * ((l.cpost + 1).toNat % 2 ^ l.csize.toNat)
        let posted := ∃ t, exec .faultBufferEnter s = .next t ∧ (t.die d).faultWait = x.faultWait.erase e ∧ (t.die d).fbuf = [] ∧
          (t.latch q).cpost = l.cpost + 1 ∧ t.hbmRead s.devKey (a + 32) 32 = natBytes 32 e.rec_.pack
        x.fbuf = [] → (∀ j ∈ s.jobs, j.2.terminated = false) → s.serving q = true → s.queue q = some y → y.pasid = 0 → y.outbox = [] → s.latch q = l →
        Memory.wf s.hbm = true →
        (∀ seq, seqDist l.cpost l.cack < 2 ^ l.csize.toNat → e.queue = some (q, seq) → e.toJob = true → e.toLog = false → posted) ∧
        (seqDist l.cpost l.cack < 2 ^ l.csize.toNat → e.home d = d → e.toJob = false → e.toLog = true → posted) ∧
        (2 ^ l.csize.toNat ≤ seqDist l.cpost l.cack → e.home d = d → e.toJob = false → e.toLog = true →
          ∃ t, exec .faultBufferEnter s = .next t ∧ (t.die d).fbuf = [] ∧ (t.die d).feFloglost = x.feFloglost + 1 ∧ (t.latch q).cpost = l.cpost))

/-- FPOST posts a record, FLAUNCH presents a launch, and fault records enter the fault buffer (readings: logs 41, 45). -/
def Obligations.RecordsAndDescriptors : Prop := Claim.RecordsPost ∧ Claim.DescriptorsLaunch ∧ Claim.FaultRecordsEnter

/-- R158, R168, R171: an armed watch is met when the word that it names satisfies its condition; a vigil timer at zero expires, unless the interval is 0 (read at
the expiry: log 56, DEDUCED); once every hart has taken the restart, the harts are reset and the new image runs, and the latch stays, but for the queues that the
manual's firmware gives up by FQDEMAP (log 26). -/
def Claim.HartEvents : Prop :=
  ∀ (s : State) (d : Fin 4) (k : Fin 64),
    let h := s.hart d k
    let va := h.waddr.toNat * 8
    let f := s.focus.ring.die
    let taken := (s.die f).feRestart = true ∧ ∀ n : Fin 64, n.val ∈ (s.die f).restarted
    let dark := s.fBlock d h.pasid va 8 false (some k)
    (∀ u, h.arm = true → h.watchHit = false → dark = some u → exec (.watchMet d k) s = .next u) ∧
    (h.arm = true → h.watchHit = false → dark = none →
      ∃ t, exec (.watchMet d k) s = .next t ∧
        t.hart d k = { h with watchHit := waitMet h.wop.toNat (bytesNat (s.fRead d h.pasid va 8)) h.wval.toNat } ∧ t.hbm = s.hbm) ∧
    (h.arm = false ∨ h.watchHit = true → exec (.watchMet d k) s = .next s) ∧
    (∃ t, exec (.vigilExpiry d k) s = .next t ∧
      t.hart d k = if h.vigilArmed = true ∧ h.remain = 0 ∧ (s.die d).feVigil ≠ 0 then { h with vigilExpired := true } else h) ∧
    (taken → ∃ t, exec .firmwareRestartReset s = .next t ∧ (t.die f).feRestart = false ∧ (t.die f).restarted = [] ∧ (∀ n, t.hart f n = Hart.reset) ∧
      (∀ q, t.latch q = { s.latch q with mapped := (t.latch q).mapped } ∧
        ((∀ n : Fin 64, n.val ∈ (s.die f).unowned → (s.hart f n).mapped = true → (s.hart f n).qid ≠ q) → t.latch q = s.latch q)) ∧
      ∀ i, s.fwRunning = some i → (t.die f).devMaxgen = i.maxgen ∧ (t.die f).devMingen = i.mingen ∧ (t.die f).feFwup = true) ∧
    (¬taken → exec .firmwareRestartReset s = .next s)

/-- R132 to R134: a load puts its bytes in a register, zero- or sign-extended, and a store writes its bytes; an atomic act reads and writes the bytes of local
SRAM, and SC writes them only under its hart's reservation (log 12). A register region gives and takes the bytes of its 8-byte register when the access is
aligned, a narrow store merging its bytes, and a misaligned one is an access fault (log 38, DEDUCED); so is an address that no region holds, and a page without
a translation blocks the hart. FENCE completes. A base instruction that
made the access then completes too. -/
def Claim.HartAccesses : Prop :=
  ∀ (s : State) (d : Fin 4) (k : Fin 64) (rd : BitVec 5) (addr : Dword) (size : Fin 4) (signed double : Bool) (data : Dword) (op : AmoOp),
    let n := 2 ^ size.val
    let bs := natBytes n data.toNat
    let ld : FAccess := .load rd addr size signed
    let sto : FAccess := .store addr size data
    let m := if double then 8 else 4
    let act := fun op : AmoOp => exec (.pathFAccess d k (.amo op rd addr double data)) s
    let h := s.hart d k
    let trapped := fun (cause : Nat) => State.onHart s d k fun y => Hart.trap { y with ilen := 0 } cause addr
    let got := fun b : List Byte => (h.setReg rd (extend b signed)).ready
    (∀ a, hartPlace addr.toNat n = .sram a →
      (∃ t, exec (.pathFAccess d k ld) s = .next t ∧ t.hart d k = got (readBytes a n (s.die d).sram) ∧ (t.die d).sram = (s.die d).sram) ∧
      ∃ t, exec (.pathFAccess d k sto) s = .next t ∧ (t.die d).sram = writeBytes a bs (s.die d).sram ∧ t.hart d k = h.ready) ∧
    (∀ a, hartPlace addr.toNat n = .carve a →
      (∃ t, exec (.pathFAccess d k ld) s = .next t ∧ t.hart d k = got (s.hbmRead s.devKey a n) ∧ t.hbm = s.hbm) ∧
      ∃ t, exec (.pathFAccess d k sto) s = .next t ∧ t.hbm = (s.hbmWrite s.devKey a bs).hbm ∧ t.hart d k = h.ready) ∧
    (∀ va, hartPlace addr.toNat n = .virt va →
      (s.missVa d h.pasid va n false = none → ∃ t, exec (.pathFAccess d k ld) s = .next t ∧ t.hart d k = got (s.fRead d h.pasid va n) ∧ t.hbm = s.hbm) ∧
      (s.missVa d h.pasid va n true = none → ∃ t, exec (.pathFAccess d k sto) s = .next t ∧ t.hbm = (s.fWrite d h.pasid va bs).hbm ∧ t.hart d k = h.ready) ∧
      (∀ v, s.missVa d h.pasid va n false = some v → ∃ t, exec (.pathFAccess d k ld) s = .next t ∧ t.hart d k = { h with block := .pathF ld }) ∧
      ∀ v, s.missVa d h.pasid va n true = some v → ∃ t, exec (.pathFAccess d k sto) s = .next t ∧ t.hart d k = { h with block := .pathF sto }) ∧
    (∀ off, hartPlace addr.toNat n = .faults off →
      (∃ t, exec (.pathFAccess d k ld) s = .next t ∧ t.hart d k = got (((s.die d).fbufBytes.drop off).take n)) ∧
      ∃ t, exec (.pathFAccess d k sto) s = .next t ∧ t.hart d k = h.ready ∧ (t.die d).fbuf = (s.die d).fbuf) ∧
    (∀ w, s.hartReg d (hartPlace addr.toNat n) = some w →
      let p := hartPlace addr.toNat n
      (p.off % n = 0 → (∃ t, exec (.pathFAccess d k ld) s = .next t ∧ t.hart d k = got (((natBytes 8 w).drop (p.off % 8)).take n)) ∧
        exec (.pathFAccess d k sto) s = .next ((s.putHartReg d p (.ofNat 64 (mergeReg p w bs))).onHart d k Hart.ready)) ∧
      (p.off % n ≠ 0 → exec (.pathFAccess d k ld) s = .next (trapped 5) ∧ exec (.pathFAccess d k sto) s = .next (trapped 7))) ∧
    (hartPlace addr.toNat n = .nowhere → exec (.pathFAccess d k ld) s = .next (trapped 5) ∧ exec (.pathFAccess d k sto) s = .next (trapped 7)) ∧
    (addr.toNat % m ≠ 0 → act .lr = .next (trapped 4) ∧ (op ≠ .lr → act op = .next (trapped 6))) ∧
    (∀ a, addr.toNat % m = 0 → hartPlace addr.toNat m = .sram a →
      let old := readBytes a m (s.die d).sram
      let answer := fun (v : Dword) (r : Option Nat) => Hart.ready { h.setReg rd v with resv := r }
      (∃ t, act .lr = .next t ∧ t.hart d k = answer (extend old true) (some (addr.toNat / 8)) ∧ (t.die d).sram = (s.die d).sram) ∧
      (h.resv = some (addr.toNat / 8) → ∃ t, act .sc = .next t ∧ t.hart d k = answer 0 none ∧
        (t.die d).sram = writeBytes a (natBytes m data.toNat) (s.die d).sram) ∧
      (h.resv ≠ some (addr.toNat / 8) → ∃ t, act .sc = .next t ∧ t.hart d k = answer 1 none ∧ (t.die d).sram = (s.die d).sram) ∧
      (op ≠ .lr → op ≠ .sc → ∃ t, act op = .next t ∧ t.hart d k = answer (extend old true) h.resv ∧
        (t.die d).sram = writeBytes a (natBytes m (amoValue op m (bytesNat old) data.toNat)) (s.die d).sram)) ∧
    exec (.pathFAccess d k .fence) s = .next (s.onHart d k Hart.ready)

/-- R78, R132: the illegal-instruction exception saves the pc and the word, and goes on at the trap vector in machine mode with interrupts disabled. The trap's
registers are those of the base instruction set (log 11). -/
def Claim.IllegalInstructionsTrap : Prop :=
  ∀ (s : State) (w : Word),
    ∃ t, exec (.illegalInstruction w) s = .next t ∧ t.me.mepc = s.me.pc ∧ t.me.mcause = 2 ∧ t.me.mtval = .ofNat 64 w.toNat ∧
      t.me.pc = .ofNat 64 (s.me.mtvec.toNat / 4 * 4) ∧ t.me.x = s.me.x ∧ bits t.me.mstatus.toNat 3 3 = 0 ∧
      bits t.me.mstatus.toNat 7 7 = bits s.me.mstatus.toNat 3 3 ∧ bits t.me.mstatus.toNat 12 11 = 3 ∧ t.hbm = s.hbm ∧
      ∀ d k, (d, k) ≠ (s.focus.ring.die, s.focus.hart) → t.hart d k = s.hart d k

/-- R8, R133, R141, R157: the host writes a ring's counters, and a read-only register takes nothing; a write that is not aligned (log 38, DEDUCED), or in recovery (log
36, DEDUCED), is dropped.
A hart writes the latch entries, the vigil interval and the watch control of its die. -/
def Claim.RegisterWrites : Prop :=
  ∀ (s : State) (d : Fin 4) (r : Fin 4) (v : Dword) (h k : Fin 64) (i : Fin 262144) (a : Dword),
    let at_ := fun off : Nat => BitVec.ofNat 64 (d.val * 2 ^ 24 + 0x100000 + r.val * 0x40000 + off)
    let host := fun a : Dword => exec (.registerWrite .host a v) s
    let hart := fun a : Nat => exec (.registerWrite (.hart d h) (.ofNat 64 a) v) s
    (s.recovery = false →
      (∀ off ∈ ([0x0008, 0x1010, 0x1018, 0x2000, 0x2008, 0x2010, 0x2018, 0x2020, 0x3000, 0x3008, 0x3010, 0x3018, 0x4010, 0x4018, 0x4020, 0x4028, 0x5008,
          0x5010, 0x5018, 0x6008, 0x6010, 0x6018, 0x6020] : List Nat),
        ∃ t, host (at_ off) = .next t ∧ t.ringReg ⟨d, r⟩ off = v.toNat ∧ t.elems = s.elems ∧ ∀ q, q ≠ ⟨d, r⟩ → t.ring q = s.ring q) ∧
      (∀ off ∈ ([0x0000, 0x0010, 0x0020, 0x1000, 0x4000, 0x4030, 0x5000, 0x6000] : List Nat), host (at_ off) = .next s)) ∧
    (s.recovery = true ∨ a.toNat % 8 ≠ 0 → host a = .next s) ∧
    (∃ t, hart (0x21000000 + 16 * i.val) = .next t ∧ (tabGet Latch.zero i.val (t.die d).latch).words.1 = v.toNat) ∧
    (∃ t, hart 0x20000000 = .next t ∧ (t.die d).feVigil = .ofNat 32 v.toNat) ∧
    ∃ t, hart (0x10000028 + 4096 * k.val) = .next t ∧ (t.hart d k).wop = .ofNat 2 v.toNat ∧
      (t.hart d k).arm = (v.getLsbD 63 && BitVec.ofNat 2 v.toNat != 3) ∧ (t.hart d k).met = ((s.hart d k).met && !v.getLsbD 63)

/-- Watches, timers, accesses, registers and traps of a hart; the trap registers are those of RISC-V (logs 11, 12, 26, 36, 38, 56). -/
def Obligations.HartBehaviour : Prop := Claim.HartEvents ∧ Claim.HartAccesses ∧ Claim.IllegalInstructionsTrap ∧ Claim.RegisterWrites

/-! ### The device -/

/-- R483: a write to DEV_KEYCMD sets SLOT and adds its command behind those that came before. A key load that is the oldest command fills an empty slot with
the key that the wrapped data unwrap to under the session most recently finished; a retire empties a slot that no access in flight uses; either sets ERR and
changes no key when its slot does not allow it. Slot 0 takes neither. A command that is not the oldest waits, a second one of a busy die among them (log 34,
DEDUCED); in recovery the write is dropped (log 36, DEDUCED). -/
def Claim.KeyCommands : Prop :=
  ∀ (s : State) (d : Fin 4) (slot : BitVec 12) (cs : List (Fin 4 × BitVec 2 × BitVec 12)) (op : BitVec 2) (v : Dword),
    let unwrapped := s.spdm.finished.bind fun n => Config.unwrapKey n (s.die d).keyData
    let refused := fun i : Instr => ∃ t, exec i s = .next t ∧ t.keys = s.keys ∧ t.keyCmds = cs ∧ (t.die d).keyErr = true
    let fair := fun l : List (Fin 4 × BitVec 2 × BitVec 12) => ∀ c, l.head? = some c → c.2.1 ≠ 3
    let write := exec (.registerWrite .host (.ofNat 64 (d.val * 2 ^ 24 + 0x20)) v) s
    (fair cs → s.keyCmds = (d, 1, slot) :: cs →
      (∀ k, slot ≠ 0 → s.keyOf slot.toNat = none → unwrapped = some k →
        ∃ t, exec (.keyLoad d slot) s = .next t ∧ tabFind slot.toNat t.keys = some k ∧ t.keyCmds = cs ∧ (t.die d).keyErr = false ∧
          ∀ n, n ≠ slot.toNat → tabFind n t.keys = tabFind n s.keys) ∧
      (slot = 0 ∨ (s.keyOf slot.toNat).isSome = true ∨ unwrapped = none → refused (.keyLoad d slot))) ∧
    (fair cs → s.keyCmds = (d, 2, slot) :: cs →
      (slot ≠ 0 → (s.keyOf slot.toNat).isSome = true →
        (s.keyInUse slot.toNat = true → exec (.keyRetire d slot) s = .next s) ∧
        (s.keyInUse slot.toNat = false →
          ∃ t, exec (.keyRetire d slot) s = .next t ∧ tabFind slot.toNat t.keys = none ∧ t.keyCmds = cs ∧ (t.die d).keyErr = false ∧
            ∀ n, n ≠ slot.toNat → tabFind n t.keys = tabFind n s.keys)) ∧
      (slot = 0 ∨ s.keyOf slot.toNat = none → refused (.keyRetire d slot))) ∧
    (s.keyCmds.head? ≠ some (d, 1, slot) → exec (.keyLoad d slot) s = .next s) ∧
    (s.keyCmds.head? ≠ some (d, 2, slot) → exec (.keyRetire d slot) s = .next s) ∧
    (s.recovery = false → bits v.toNat 63 62 = op.toNat → fair s.keyCmds →
      ∃ t, write = .next t ∧ t.keys = s.keys ∧ (t.die d).keySlot = .ofNat 12 (bits v.toNat 61 50) ∧
        (op = 0 → t.keyCmds = s.keyCmds) ∧ (op = 1 ∨ op = 2 → t.keyCmds = s.keyCmds ++ [(d, op, .ofNat 12 (bits v.toNat 61 50))]) ∧
        (op = 3 → s.keyCmds = [] → t.keyCmds = [] ∧ (t.die d).keyErr = true))

/-- R478: the host's decoder commits a range of one way, in multiples of 256 MiB (a size of 0 among them: log 40) and at most 560 GiB, and no other; it takes the
base, size, ways and granularity written whatever the outcome (log 40, DEDUCED). An access within the range reads or writes HBM under key slot 1, and with that
slot empty reads zero and writes nothing. In recovery (log 36, DEDUCED), without a commit and outside the range nothing happens. -/
def Claim.HostViewOfHbm : Prop :=
  ∀ (s : State) (base size : Dword) (v : Interleave) (a : HostAcc) (m m' : Nat),
    let good := v.ways = 1 ∧ size.toNat % 2 ^ 28 = 0 ∧ size.toNat ≤ 560 * 2 ^ 30
    let n := a.len.val
    let inside := s.recovery = false ∧ s.hdmOn = true ∧ (∃ m, s.locate a.addr.toNat = .hbm m) ∧ ∃ m, s.locate (a.addr.toNat + (n - 1)) = .hbm m
    (s.recovery = true → exec (.hdmCommit base size v) s = .next s) ∧
    (¬inside → exec (.hostHbmAccess a) s = .next s) ∧
    (s.recovery = false → ∃ t, exec (.hdmCommit base size v) s = .next t ∧ t.hdmBase = base ∧ t.hdmSize = size ∧ t.hdmWays = v.ways ∧
      t.hdmGran = v.gran ∧ (t.hdmOn = true ↔ good) ∧ (t.hdmErr = true ↔ ¬good)) ∧
    (s.recovery = false → s.hdmOn = true → s.locate a.addr.toNat = .hbm m → s.locate (a.addr.toNat + (n - 1)) = .hbm m' →
      (∀ k, s.keyOf 1 = some k →
        (a.write = true → exec (.hostHbmAccess a) s = .next (s.hbmWrite k m (natBytes n a.data.toNat))) ∧
        (a.write = false → exec (.hostHbmAccess a) s = .next { s with hostView := .ofNat 64 (bytesNat (s.hbmRead k m n)) })) ∧
      (s.keyOf 1 = none →
        (a.write = true → exec (.hostHbmAccess a) s = .next s) ∧
        (a.write = false → exec (.hostHbmAccess a) s = .next { s with hostView := 0 })))

/-- Key commands run in their order as the slots' state allows, and the host's decoder commits one range (logs 34, 36, 40). -/
def Obligations.KeysAndHostView : Prop := Claim.KeyCommands ∧ Claim.HostViewOfHbm

/-- R479: the island of a page free for 65,000 fc enters retention, unless it is forced on; a die that holds nothing is gated: its islands turn off, those of eDRAM
and scratchpad retain (their numbers: log 35), and its firmware is down; a wake turns every island on and starts the firmware. -/
def Claim.PowerIslands : Prop :=
  ∀ (s : State) (r : RingAt) (page : Fin 8),
    let n := 8 * r.ring.val + page.val
    let i := (s.die r.die).island n
    let d := s.focus.ring.die
    (i.state = 0 → i.forceon = false → 65000 ≤ (s.ring r).freeFor[page] →
      ∃ t, exec (.islandRetention r page) s = .next t ∧ ((t.die r.die).island n).state = 1 ∧ ∀ k, k ≠ n → (t.die r.die).island k = (s.die r.die).island k) ∧
    (i.state ≠ 0 ∨ i.forceon = true ∨ (s.ring r).freeFor[page] < 65000 → exec (.islandRetention r page) s = .next s) ∧
    (s.quiet d = true → (s.die d).gated = false →
      ∃ t, exec .gate s = .next t ∧ (t.die d).gated = true ∧ (t.die d).feFwup = false ∧
        ∀ k < 96, ((t.die d).island k).state = if ((s.die d).island k).forceon then 0 else if 36 ≤ k ∧ k < 52 ∨ 64 ≤ k ∧ k < 80 then 1 else 2) ∧
    (s.quiet d = false ∨ (s.die d).gated = true → exec .gate s = .next s) ∧
    ((s.die d).waking = false → exec .dieWake s = .next s) ∧
    ((s.die d).waking = true →
      ∃ t, exec .dieWake s = .next t ∧ (t.die d).gated = false ∧ (t.die d).waking = false ∧ (t.die d).feFwup = true ∧
        ∀ k < 96, ((t.die d).island k).state = 0)

/-- R480: the rings of a die hold in DUTY fc of every 64, 8 for each whole degree above 100 °C up to 56; 110 °C for 1,300 fc is a device fault that stops the
die's rings. -/
def Claim.ThermalLimits : Prop :=
  ∀ (s : State) (d : Fin 4) (tj : BitVec 16),
    let f := s.focus.ring.die
    (∃ t, exec (.thermalThrottle d tj) s = .next t ∧ (t.die d).tj = tj ∧ t.dieReg d 0x0030 = min 56 (8 * ((tj.toNat - 1600) / 16)) * 65536 + tj.toNat ∧
      (∀ k : Fin 4, (t.ring ⟨d, k⟩).throttle = decide (s.fc % 64 < min 56 (8 * ((tj.toNat - 1600) / 16)))) ∧ t.elems = s.elems ∧ t.hbm = s.hbm) ∧
    (1300 ≤ (s.die f).hot → (s.ring ⟨f, 0⟩).stopped = false →
      ∃ t, exec .devThermal s = .next t ∧ Records s t f 0xA0 (s.die f).tj.toNat 2 ∧ ∀ k : Fin 4, (t.ring ⟨f, k⟩).stopped = true ∧ (t.ring ⟨f, k⟩).scrolls = false) ∧
    ((s.die f).hot < 1300 ∨ (s.ring ⟨f, 0⟩).stopped = true → exec .devThermal s = .next s)

/-- Idle islands retain, idle dies are gated and wake, and heat holds or stops the rings (readings: log 35). -/
def Obligations.PowerAndHeat : Prop := Claim.PowerIslands ∧ Claim.ThermalLimits

/-- R171, R233, R477, R481: an update is staged in flash; a restart runs it once it is verified, with RESTART set and FWUP clear on every die, and records
DEV_FW_AUTH when it is not; in recovery it does nothing (log 36). An image whose keys do not match the fused digests fails with AUX 1 (log 16). A cold reset loses everything but fuses, flash and the host's memory, and starts an image that is verified, or enters recovery. -/
def Claim.FirmwareStarts : Prop :=
  ∀ (s : State) (img : FwImage),
    let d := s.focus.ring.die
    (∃ t, exec (.pldmFirmwareUpdate img) s = .next t ∧ t.fwStaged = some img ∧ t.fwRunning = s.fwRunning ∧ t.dies = s.dies ∧ t.rings = s.rings) ∧
    (s.flash = none ∨ s.recovery = true → exec .fwrestart s = .next s) ∧
    (img.vendorKey ≠ s.vendorDigest ∨ (∃ k, s.ownerDigest = some k ∧ img.ownerKey ≠ k) → s.imageFault img = some 1) ∧
    (s.flash = some img →
      (s.recovery = false → s.imageFault img = none → ∃ t, exec .fwrestart s = .next t ∧ t.fwRunning = some img ∧ t.fwStaged = none ∧
        ∀ k, (t.die k).feRestart = true ∧ (t.die k).feFwup = false ∧ (t.die k).latch = (s.die k).latch) ∧
      (∀ n, s.recovery = false → s.imageFault img = some n → ∃ t, exec .fwrestart s = .next t ∧ Records s t d 0xA2 n 2 ∧ t.fwRunning = s.fwRunning ∧ t.fwStaged = s.fwStaged) ∧
      (s.imageFault img = none → ∃ t, exec .coldReset s = .next t ∧ t.recovery = false ∧ t.fwRunning = some img ∧
        ∀ k, (t.die k).feFwup = true ∧ (t.die k).devMaxgen = img.maxgen ∧ (t.die k).devMingen = img.mingen)) ∧
    (s.flash.all (fun i => (s.imageFault i).isSome) = true → ∃ t, exec .coldReset s = .next t ∧ t.recovery = true ∧ ∀ k, (t.die k).feFwup = false) ∧
    ∃ t, exec .coldReset s = .next t ∧ t.fc = 0 ∧ t.elems = [] ∧ t.stripes = [] ∧ t.hbm = [] ∧ t.jobs = [] ∧ t.hostMem = s.hostMem ∧
      t.keys = [(0, Config.deviceKey)] ∧ t.antiRollback = s.antiRollback ∧ t.vendorDigest = s.vendorDigest ∧ t.ownerDigest = s.ownerDigest ∧
      ∀ r, (t.ring r).skip0 = (s.ring r).skip0 ∧ (t.ring r).skip1 = (s.ring r).skip1 ∧ (t.ring r).regions = []

/-- R477: BOOTGO makes queue 0 of a die a kernel queue over the rings of the boot registers, once, with sizes of 4 to 15, and not in recovery (log 36). -/
def Claim.BootQueueStarts : Prop :=
  ∀ s : State,
    let d := s.focus.ring.die
    let x := s.die d
    let q := qidOf d 0
    (s.recovery = false → (s.latch q).valid = false → 4 ≤ x.bootRsize.toNat → 4 ≤ x.bootCsize.toNat → x.fbuf = [] → (∀ j ∈ s.jobs, j.2.terminated = false) →
      ∃ t y, exec .bootgo s = .next t ∧ t.queue q = some y ∧ y.kernel = true ∧ y.pasid = 0 ∧ y.rbase.toNat = x.bootRbase.toNat * 64 ∧
        y.cbase.toNat = x.bootCbase.toNat * 64 ∧ (t.latch q).valid = true ∧ (t.latch q).rsize = x.bootRsize ∧ (t.latch q).csize = x.bootCsize) ∧
    (s.recovery = true ∨ (s.latch q).valid = true ∨ x.bootRsize.toNat < 4 ∨ x.bootCsize.toNat < 4 → exec .bootgo s = .next s)

/-- Firmware is staged, verified and started, a cold reset loses what is not kept, and BOOTGO starts queue 0 (readings: logs 16, 36). -/
def Obligations.FirmwareAndBoot : Prop := Claim.FirmwareStarts ∧ Claim.BootQueueStarts

/-- R482, R483, R485: an attestation request in its order is answered and moves the requester's stage; one out of order is answered with an error and changes
nothing else. NEGOTIATE_ALGORITHMS selects RSASSA_4096 and SHA_512. FINISH makes the session of the last key exchange the one most recently finished. A sensor reads the temperature or the count that the die
holds; any other a value that is not fixed (log 22). The contents are those of DMTF SPDM, which the model does not fix (log 17). -/
def Obligations.AttestationAndSensors : Prop :=
  ∀ (s : State) (slot : Fin 8) (n e : Nat) (ix : BitVec 8) (d : Fin 4),
    let st := s.spdm.stage
    let goes := fun (i : Instr) (code : Nat) (args : List Nat) (p : Spdm) =>
      exec i s = .next { s with spdm := p, hostView := .ofNat 64 (Config.spdmContent code args) }
    let errs := fun (i : Instr) (code : Nat) => goes i 0x7F [code] s.spdm
    goes .spdmGetVersion 0x84 [] { s.spdm with stage := 1, algs := none, session := none } ∧
    (1 ≤ st → goes .spdmGetCapabilities 0xE1 [] { s.spdm with stage := max st 2 }) ∧
    (st < 1 → errs .spdmGetCapabilities 0xE1) ∧
    (2 ≤ st → goes .spdmNegotiateAlgorithms 0xE3 [] { s.spdm with stage := 3, algs := some (.rsassa4096, .sha512) }) ∧
    (st < 2 → errs .spdmNegotiateAlgorithms 0xE3) ∧
    (3 ≤ st →
      goes .spdmGetDigests 0x81 [] s.spdm ∧ goes (.spdmGetCertificate slot) 0x82 [slot.val] s.spdm ∧ goes (.spdmChallenge n) 0x83 [n] s.spdm ∧
      (∀ m, s.measured ix.toNat = some m → goes (.spdmGetMeasurements ix) 0xE0 (ix.toNat :: m) s.spdm) ∧
      goes (.spdmKeyExchange e) 0xE4 [e] { s.spdm with session := some e } ∧
      ∀ k, s.spdm.session = some k →
        (Config.spdmFinishes k n = true → goes (.spdmFinish n) 0xE5 [n] { s.spdm with session := none, finished := some k }) ∧
        (Config.spdmFinishes k n = false → errs (.spdmFinish n) 0xE5)) ∧
    (s.spdm.session = none → errs (.spdmFinish n) 0xE5) ∧
    (s.measured ix.toNat = none → errs (.spdmGetMeasurements ix) 0xE0) ∧
    (st < 3 → errs .spdmGetDigests 0x81 ∧ errs (.spdmGetCertificate slot) 0x82 ∧ errs (.spdmChallenge n) 0x83 ∧ errs (.spdmGetMeasurements ix) 0xE0 ∧
      errs (.spdmKeyExchange e) 0xE4 ∧ errs (.spdmFinish n) 0xE5) ∧
    (∀ x, ∃ v c, exec (.pldmSensorRead x) s = .next { s with hostView := v, freeCtr := c }) ∧
    exec (.pldmSensorRead (.junction d)) s = .next { s with hostView := .ofNat 64 (s.die d).tj.toNat } ∧
    exec (.pldmSensorRead (.eccCor d)) s = .next { s with hostView := (s.die d).ecccor }

/-- R463, R465, R468: FLIT_RECEIVE. The oldest flit on its way to an endpoint is taken from the wire. One with the next number is accepted, acknowledged out of
the sender's retry buffer, whose room the slots that wait then take, and its slots take effect in order; any other is discarded and the sender replays its retry
buffer. A slot of a segment on the die puts its token in the segment's buffer, or notes an allocation, a retirement, a kill or a swap; one of another die is sent
on. A slot is sent in a flit of the next number while the link is trained and its retry buffer holds fewer than 512 flits, and waits otherwise. -/
def Claim.FlitsArrive : Prop :=
  ∀ s : State,
    let d := s.focus.ring.die
    let ep := s.focus.ep
    let y := (s.die d).link ep
    (peerOf d ep = none → exec .flitReceive s = .next s) ∧
    (∀ p : Fin 4 × Fin 2, peerOf d ep = some p →
      let far := (s.die p.1).link p.2
      (far.wire = [] → exec .flitReceive s = .next s) ∧
      ∀ f rest, far.wire = f :: rest →
        (f.seq = y.rxseq + 1 → ∃ u : State, exec .flitReceive s = .next (f.slots.foldl (fun v x => v.routeSlot d ep x) u) ∧
          ((u.die d).link ep).rxseq = f.seq ∧ ((u.die d).link ep).rx = y.rx ∧
          (u.die p.1).link p.2 = Link.flush far.queue.length { far with wire := rest, retry := far.retry.filter fun x => x.seq != f.seq } ∧ u.rings = s.rings ∧ u.elems = s.elems ∧
          ∀ l, u.launch l = s.launch l) ∧
        (f.seq ≠ y.rxseq + 1 →
          ∃ t, exec .flitReceive s = .next t ∧ ((t.die d).link ep).rxseq = y.rxseq ∧ ((t.die p.1).link p.2).wire = far.retry ∧
            ((t.die p.1).link p.2).replayed = far.replayed + .ofNat 64 far.retry.length)) ∧
    (∀ (x : Slot) (k : Link), k.queue = [] →
      let f : Flit := ⟨k.txseq + 1, [x]⟩
      (k.up = true → k.retrain = false → k.retry.length < 512 →
        Link.send x k = { k with txseq := k.txseq + 1, retry := k.retry ++ [f], wire := k.wire ++ [f] }) ∧
      (k.up = false ∨ k.retrain = true ∨ 512 ≤ k.retry.length → Link.send x k = { k with queue := [x] })) ∧
    ∀ (l k : Nat) (g : Seg), s.segPlace l k = some g →
      (g.die = d →
        (∀ c t sc, tabFind (segKey l k) (((s.routeSlot d ep (.token l k c t sc)).die d).link ep).rx =
          some (tabGet [] (segKey l k) y.rx ++ [⟨c, { t with tok := { t.tok with ctx := g.ctx } }, sc⟩])) ∧
        (∀ n, ∀ h ∈ ((s.routeSlot d ep (.swapReport l k n)).ring ⟨d, g.ring⟩).regions, h.page = g.page → h.predSwaps = n) ∧
        (∀ v sp, s.routeSlot d ep (.alloc l k v sp) = s.onLaunch l fun y => y.onSeg d fun z => { z with alloc := z.alloc.note v sp }) ∧
        (∀ v, s.routeSlot d ep (.retire l k v) = s.onLaunch l fun y => y.onSeg d fun z => { z with alloc := z.alloc.retire v }) ∧
        ∀ v, s.routeSlot d ep (.kill l k v) = s.onLaunch l fun y => y.onSeg d fun z => { z with alloc := z.alloc.kill v }) ∧
      (g.die ≠ d → ∀ c t sc, s.routeSlot d ep (.token l k c t sc) = s.sendSlot d g.die (.token l k c t sc))

/-- R465, R466, R473, R474: LINK_RETRAIN, RETRAIN_COMPLETE, RETRAIN_HOLD and LNK_RETRAIN_FAIL. A retrain begins at both ends of a link, and what was on the wire
is lost to it; when it, or the first training, completes the link is up, its retry buffer is sent again, and a count of free slots is 64 less the tokens that the
buffer at the other end holds and those sent again; after 2,600 fc the rings that it serves hold, and after 1,300,000 fc it has failed, which is a device fault on
either side, and terminates each context with a region that the link serves, with one record. -/
def Claim.LinksRetrain : Prop :=
  ∀ (s : State),
    let d := s.focus.ring.die
    let ep := s.focus.ep
    let y := (s.die d).link ep
    let ends := fun (t : State) (P : Link → Prop) => P ((t.die d).link ep) ∧ ∀ p, peerOf d ep = some p → P ((t.die p.1).link p.2)
    let lost := fun (t : State) (a : Fin 4) (b : Fin 2) =>
      (∃ e ∈ (t.die a).faultWait, e.rec_.code = 0x80 ∧ e.rec_.aux = .ofNat 64 (256 * b.val + a.val) ∧ e.rec_.disp = 2) ∧
      (∀ x ∈ s.served_ a b, ∃ e ∈ (t.die a).faultWait, e.rec_.code = 0x81 ∧ e.rec_.pasid = x.2.pasid ∧ e.rec_.disp = 1) ∧
      ((t.die a).faultWait.filter fun e => e.rec_.code == 0x81).length =
        ((s.die a).faultWait.filter fun e => e.rec_.code == 0x81).length + ((s.served_ a b).map fun x => x.2.pasid).eraseDups.length
    let completes := (y.retrain = true ∧ s.fc < y.since + 1300000) ∨ (y.retrain = false ∧ y.up = false ∧ y.failed = false)
    (y.up = true ∨ y.failed = true → y.retrain = false →
      ∃ t, exec .linkRetrain s = .next t ∧ (ends t fun k => k.retrain = true ∧ k.failed = false ∧ k.wire = [] ∧ k.since = s.fc) ∧
        ((t.die d).link ep).retrains = y.retrains + 1 ∧ ((t.die d).link ep).retry = y.retry ∧ t.rings = s.rings) ∧
    ((y.up = false ∧ y.failed = false) ∨ y.retrain = true → exec .linkRetrain s = .next s) ∧
    (completes →
      ∃ t, exec .retrainComplete s = .next t ∧ (ends t fun k => k.up = true ∧ k.retrain = false) ∧
        ∀ p, peerOf d ep = some p →
          let z := (t.die d).link ep
          (z.wire.take y.retry.length).map Flit.seq = y.retry.map Flit.seq ∧ z.replayed = y.replayed + .ofNat 64 y.retry.length ∧
          ∀ l k g, k < 4 → s.segPlace l k = some g → g.die = p.1 → (tabFind (segKey l k) y.free).isSome = true →
            tabFind (segKey l k) z.free = some (64 - (tabGet [] (segKey l k) ((s.die p.1).link p.2).rx).length - y.replayTokens (segKey l k))) ∧
    (¬completes → exec .retrainComplete s = .next s) ∧
    (y.retrain = true → y.since + 2600 ≤ s.fc →
      ∃ t, exec .retrainHold s = .next t ∧ (∀ r ∈ s.linkRings d ep, (t.ring r).scrolls = false) ∧ t.elems = s.elems) ∧
    (y.retrain = false ∨ s.fc < y.since + 2600 → exec .retrainHold s = .next s) ∧
    (y.retrain = false ∨ s.fc < y.since + 1300000 → exec .lnkRetrainFail s = .next s) ∧
    (y.retrain = true → y.since + 1300000 ≤ s.fc →
      ∃ t, exec .lnkRetrainFail s = .next t ∧ (ends t fun k => k.up = false ∧ k.retrain = false ∧ k.failed = true) ∧
        lost t d ep ∧ ∀ p, peerOf d ep = some p → lost t p.1 p.2)

/-- R295, R469: ALLOC_GRANT_REMOTE. Segment 0 gives one grant at a time to a segment that asks, out of those of the fc, while the iterations allocated and
granted are fewer than the window and every link between the two is trained. -/
def Claim.GrantsCross : Prop :=
  ∀ (s : State) (die : Fin 4) (entry : BitVec 12),
    let l := launchKey die entry.toNat
    let x := s.launch l
    let d := s.focus.ring.die
    (x.seg d = none → exec (.allocGrantRemote die entry) s = .next s) ∧
    ∀ g, x.seg d = some g →
      let may := d ≠ die ∧ g.grants = 0 ∧ x.span + (x.segs.map Seg.grants).foldl (· + ·) 0 < x.window ∧ x.grantsLeft s.fc ≠ 0 ∧ s.linked d die = true ∧
        s.asksGrant l d = true
      (may → ∃ t h, exec (.allocGrantRemote die entry) s = .next t ∧ (t.launch l).seg d = some h ∧ h.grants = 1 ∧ h.alloc = g.alloc ∧ t.rings = s.rings ∧
        t.elems = s.elems) ∧
      (¬may → exec (.allocGrantRemote die entry) s = .next s)

/-- Flits are accepted in order, links retrain and fail, and grants cross one at a time (readings: log 37). -/
def Obligations.LinksCarry : Prop := Claim.FlitsArrive ∧ Claim.LinksRetrain ∧ Claim.GrantsCross

/-! ### Steps, decoding and invariants -/

/-- R36, R52, R78, R132, R137, R285: a step runs the instruction that its cue finds: the word in the slot that an element's picker picks, as the element's page
decodes it; the custom word at a hart's pc, the access of a base instruction there, or the illegal-instruction exception of any other word; the next packet of a
queue that firmware serves; the head of a message queue; an event of an engine. With no cue an fc passes. Of the cues of one fc none is taken before one that
precedes it, when there is such a choice: on a ring an error precedes firings, these a switch, a cancel, a swap and a cohort entry. The agenda is the model's
own (log 1). -/
def Obligations.StepRunsDecoded : Prop :=
  ∀ (s : State) (i : Instr),
    let u := fun c : Cue => { s with agenda := s.agenda.erase c }
    (s.agenda = [] → step s = .next s.tick) ∧
    (∀ c, s.agenda = [c] → s.nextCue = some c) ∧
    (∀ c, s.nextCue = some c → c ∈ s.agenda ∧
      ((∃ x ∈ s.agenda.takeWhile fun c => decide (c ≠ .tick), ∀ y ∈ s.agenda.takeWhile fun c => decide (c ≠ .tick), y ≠ x → s.precedes y x = false) →
        ∀ y ∈ s.agenda.takeWhile fun c => decide (c ≠ .tick), y ≠ c → s.precedes y c = false)) ∧
    (∀ e ical r ep x k, e.at_.ring = r → errRing x = some r →
      s.precedes (.event r ep (.uncorrectableError x)) (.pick e ical) = true ∧ s.precedes (.pick e ical) (.event r ep .intercalarySwitch) = true ∧
        s.precedes (.pick e ical) (.event r ep .stripeSwap) = true ∧ s.precedes (.event r ep .stripeSwap) (.event r ep (.cohortEntry r k)) = true) ∧
    (∀ e ical n aged, s.nextCue = some (.pick e ical) → s.live e ical = true → (s.elem e).lastPick ≠ s.fc + 1 → (e.slot.val < 10 ∨ 14 ≤ e.slot.val) →
      s.dueStore e ical = none → s.refused e ical = 0 → (u (.pick e ical)).pickSlot e ical = some (n, aged) →
      decode (if 14 ≤ e.slot.val then .j else .v) (.word (((s.elem e).plane ical).iw[n])) = .ok i →
      let v := u (.pick e ical)
      (v.allocWaits e ical n i = false → step s = exec i ((v.agePick e ical n aged).focusPick e ical n)) ∧
        (v.allocWaits e ical n i = true → step s = exec i (v.focusPick e ical n))) ∧
    (∀ (d : Fin 4) (h : Fin 64),
      let v : State := { u (.hart d h) with focus := { s.focus with ring := ⟨d, 0⟩, hart := h } }.onHart d h fun y => { y with own := true }
      let x := v.hart d h
      let base := fun (w len : Nat) (b : Option Rv) =>
        (b = none → step s = exec (.illegalInstruction (.ofNat 32 w)) v) ∧
        ∀ k, b = some k →
          (∀ a, k.access x = some a → step s = exec (.pathFAccess d h a) (v.onHart d h fun y => { y with ilen := .ofNat 3 len })) ∧
          (k.access x = none → step s = .next (v.onHart d h (Hart.rv h.val k w len)))
      s.nextCue = some (.hart d h) → (s.die d).gated = false → s.recovery = false →
      (∀ a, x.block = .pathF a → step s = exec (.pathFAccess d h a) v) ∧
      ∀ lo, (∀ a, x.block ≠ .pathF a) → v.hartRead d h x.pc.toNat 2 = .done v lo →
        (bytesNat lo % 4 ≠ 3 → base (bytesNat lo) 2 (decodeRvc (bytesNat lo))) ∧
        ∀ hi, bytesNat lo % 4 = 3 → v.hartRead d h (x.pc + 2).toNat 2 = .done v hi →
          let w := bytesNat lo + bytesNat hi * 2 ^ 16
          (decode .fe (.word (.ofNat 32 w)) = .ok i → step s = exec i v) ∧
          (decode .fe (.word (.ofNat 32 w)) = .error .notCustom → base w 4 (decodeRv w))) ∧
    (∀ q v, s.nextCue = some (.packet q) → (u (.packet q)).takePacket q = .packet v i → step s = exec i { v with focus := { v.focus with queue := q } }) ∧
    (∀ r m q, s.nextCue = some (.message r 6) → (s.ring r).procIn = m :: q → decode .message (.msg m.cls m.mop m.p) = .ok i →
      ∃ v, step s = exec i v ∧ v.focus.msg = m ∧ v.focus.ring = r ∧ (v.ring r).procIn = q ∧ v.dies = s.dies ∧ v.elems = s.elems) ∧
    (∀ r m q, s.nextCue = some (.message r 4) → (s.ring r).streamIn = m :: q → decode .message (.msg m.cls m.mop m.p) = .ok i →
      ∃ v, step s = exec i v ∧ v.focus.msg = m ∧ v.focus.ring = r ∧ (v.ring r).streamIn = q ∧ v.dies = s.dies ∧ v.elems = s.elems) ∧
    (∀ r m q, s.nextCue = some (.message r 5) → (s.ring r).sparseIn = m :: q → decode .message (.msg m.cls m.mop m.p) = .ok i →
      ∃ v, step s = exec i v ∧ v.focus.msg = m ∧ v.focus.ring = r ∧ (v.ring r).sparseIn = q ∧ v.dies = s.dies ∧ v.elems = s.elems) ∧
    (∀ e ical m q, s.nextCue = some (.mxMessage e ical) → (if ical then (s.elem e).msgqI else (s.elem e).msgq) = m :: q →
      s.moving e.at_ ical = true → (s.elem e).lastMsg ≠ s.fc + 1 → decode .message (.msg m.cls m.mop m.p) = .ok i →
      ∃ v, step s = exec i v ∧ v.focus.msg = m ∧ v.focus.elem = e ∧ v.focus.ical = ical ∧ v.dies = s.dies ∧ v.rings = s.rings) ∧
    ∀ r ep, s.nextCue = some (.event r ep i) → i.page = .event → (∀ w, i ≠ .illegalInstruction w) →
      step s = exec i { u (.event r ep i) with focus := { s.focus with ring := r, ep := ep } }

/-- R57, R66 to R68, R78, R143, R144: words written out from the encoding tables decode to their instructions. ADD d2 <- c0 (peeked) + d3; MAD; J LD with
descriptor 2; TKT of channel 3; FLATCH x5, x6; a NOP packet; MXCFG. -/
def Obligations.DecodeWords : Prop :=
  decode .v (.word 0b00010000100000011000101100000001#32) = .ok (.add 8 3 2 0 true) ∧
  decode .v (.word 0b00011000000100000000001100000000#32) = .ok (.mad 1 0 0 0 false) ∧
  decode .j (.word 0b00000000010111000010000001001100#32) = .ok (.ld 5 8 2 6 false) ∧
  decode .j (.word 0b00100000101111000000011100000000#32) = .ok (.tkt 3 1 0 false) ∧
  decode .fe (.word 0b00000000000000110001001010001011#32) = .ok (.flatch 5 6) ∧
  decode .packet (.packet [0x0001000480000000, 0, 0, 0, 0, 0, 0, 0]) = .ok (.pktNop ⟨4, true, false, 0, 0⟩) ∧
  decode .message (.msg 2 1 ⟨1, 2, 3, 4⟩) = .ok (.mxcfg ⟨1, 2, 3, 4⟩) ∧
  decode .v (.word 0b11101010000000000000000000000000#32) = .error .badOpcode ∧
  decode .v (.word 0b00010001110100000000101100000000#32) = .error .badSelect

/-- R57 to R79, R143 to R149: decoding the encoding of a well-formed instruction gives it back, for every instruction and every value of its operands. -/
def Obligations.DecodeInvertsEncode : Prop := ∀ i : Instr, Laws.Round.Statement i

/-- R483: no step takes the device key out of slot 0 of the key table: commands refuse the slot, and a cold reset loads it again. -/
def Obligations.DeviceKeyStays : Prop := ∀ s t : State, s.deviceKeyed → step s = .next t → t.deviceKeyed

/-- R477: after reset slot 0 holds the device key, every memory lists nothing and stands in its canonical form, no launch, queue, job or region exists, and
every hart is free at pc 0. -/
def Obligations.ResetIsEmpty : Prop :=
  State.reset.deviceKeyed ∧ State.reset.memWf ∧ State.reset.hbm = [] ∧ State.reset.jobs = [] ∧ State.reset.elems = [] ∧ State.reset.hdmOn = false ∧
    (∀ d, (State.reset.die d).queues = [] ∧ (State.reset.die d).latch = [] ∧ (State.reset.die d).launches = [] ∧ (State.reset.die d).feFwup = false) ∧
    (∀ r, (State.reset.ring r).regions = [] ∧ (State.reset.ring r).ctxs = []) ∧ ∀ d h, State.reset.hart d h = Hart.reset

/-- R287, R315: a register form that meets no fault changes its own element and the scale file, allocator and links of its launch, and nothing else: not
memory, keys, stripes, harts or another element; and of its own element only the destinations that its word names, the claimed tokens and its counters. -/
def Obligations.RegisterFormsFrame : Prop :=
  ∀ (s t : State) (i : Instr), registerForm i = true → i.wf = true → exec i s = .next t →
    (t.die s.firing.el.at_.ring.die).faultWait = (s.die s.firing.el.at_.ring.die).faultWait → FiringFrame s t ∧ ElemFrame s t (destsOf i)
end

