-- ==== Sys2Proof/Laws/Memory.lean ====
section
/-! SUPPORT. Memory: a read after a write, the canonical form, little-endian numbers, and tables. -/

namespace Sys2Proof.Machine

/-! ### The canonical form -/

theorem cellsAbove_mono {lo hi : Nat} (h : lo ≤ hi) {m : List Host.Cell} (w : cellsAbove hi m = true) : cellsAbove lo m = true := by
  cases m with
  | nil => rfl
  | cons c r =>
    simp only [cellsAbove, Bool.and_eq_true, decide_eq_true_eq] at w ⊢
    exact ⟨⟨by omega, w.1.2⟩, w.2⟩

theorem cellsAbove_cellPut {lo a : Nat} (h : lo ≤ a) (b : Byte) (m : List Host.Cell) (w : cellsAbove lo m = true) :
    cellsAbove lo (cellPut a b m) = true := by
  induction m generalizing lo with
  | nil =>
    by_cases hb : b = 0
    · simp [cellPut, hb, cellsAbove]
    · have : ¬ b = 0#8 := hb
      simp [cellPut, this, cellsAbove, h]
  | cons c r ih =>
    obtain ⟨j, x⟩ := c
    simp only [cellsAbove, Bool.and_eq_true, decide_eq_true_eq] at w
    simp only [cellPut]
    split
    · split
      · simp only [cellsAbove, Bool.and_eq_true, decide_eq_true_eq]; exact w
      · next h1 h2 =>
        simp only [cellsAbove, Bool.and_eq_true, decide_eq_true_eq]
        exact ⟨⟨h, h2⟩, ⟨by omega, w.1.2⟩, w.2⟩
    · split
      · split
        · exact cellsAbove_mono (by omega) w.2
        · next h1 h2 h3 =>
          simp only [cellsAbove, Bool.and_eq_true, decide_eq_true_eq]
          exact ⟨⟨h, h3⟩, h2 ▸ w.2⟩
      · next h1 h2 =>
        simp only [cellsAbove, Bool.and_eq_true, decide_eq_true_eq]
        exact ⟨w.1, ih (by omega) w.2⟩

/-- A store of a byte keeps the canonical form. -/
theorem wf_cellPut (a : Nat) (b : Byte) (m : List Host.Cell) (h : Memory.wf m = true) : Memory.wf (cellPut a b m) = true :=
  cellsAbove_cellPut (Nat.zero_le a) b m h

/-- A store of bytes keeps the canonical form. -/
theorem wf_writeBytes (bs : List Byte) (a : Nat) (m : List Host.Cell) (h : Memory.wf m = true) : Memory.wf (writeBytes a bs m) = true := by
  induction bs generalizing a m with
  | nil => exact h
  | cons b bs ih => exact ih _ _ (wf_cellPut a b m h)

theorem cellsAbove_filter (p : Host.Cell → Bool) (lo : Nat) (m : List Host.Cell) (h : cellsAbove lo m = true) :
    cellsAbove lo (m.filter p) = true := by
  induction m generalizing lo with
  | nil => rfl
  | cons c r ih =>
    obtain ⟨j, x⟩ := c
    simp only [cellsAbove, Bool.and_eq_true, decide_eq_true_eq] at h
    simp only [List.filter_cons]
    split
    · simp only [cellsAbove, Bool.and_eq_true, decide_eq_true_eq]
      exact ⟨h.1, ih _ h.2⟩
    · exact cellsAbove_mono (by omega) (ih _ h.2)

theorem wf_filter (p : Host.Cell → Bool) (m : List Host.Cell) (h : Memory.wf m = true) : Memory.wf (m.filter p) = true :=
  cellsAbove_filter p 0 m h

/-! ### Read after write -/

theorem cellGet_above {a : Nat} {m : List Host.Cell} {lo : Nat} (w : cellsAbove lo m = true) (h : a < lo) : cellGet a m = 0 := by
  induction m generalizing lo with
  | nil => rfl
  | cons c r ih =>
    obtain ⟨j, x⟩ := c
    simp only [cellsAbove, Bool.and_eq_true, decide_eq_true_eq] at w
    simp only [cellGet]
    rw [if_neg (by omega)]
    exact ih w.2 (by omega)

/-- A byte reads as it was last stored. -/
theorem cellGet_cellPut (a : Nat) (b : Byte) (m : List Host.Cell) (h : Memory.wf m = true) : cellGet a (cellPut a b m) = b := by
  unfold Memory.wf at h
  generalize 0 = lo at h
  induction m generalizing lo with
  | nil =>
    by_cases hb : b = 0
    · simp only [cellPut, if_pos hb, cellGet]; exact hb.symm
    · simp only [cellPut, if_neg hb, cellGet, if_true]
  | cons c r ih =>
    obtain ⟨j, x⟩ := c
    simp only [cellsAbove, Bool.and_eq_true, decide_eq_true_eq] at h
    simp only [cellPut]
    split
    · split
      · next h1 h2 =>
        have : cellGet a r = 0 := cellGet_above h.2 (by omega)
        rw [cellGet, if_neg (by omega), this, h2]
      · simp [cellGet]
    · split
      · split
        · next h1 h2 h3 => rw [cellGet_above h.2 (by omega), h3]
        · simp [cellGet]
      · next h1 h2 =>
        simp only [cellGet]
        rw [if_neg h2]
        exact ih _ h.2

/-- A store leaves every other byte. -/
theorem cellGet_cellPut_ne {a c : Nat} (hc : c ≠ a) (b : Byte) (m : List Host.Cell) : cellGet c (cellPut a b m) = cellGet c m := by
  have hc' : a ≠ c := fun k => hc k.symm
  induction m with
  | nil =>
    simp only [cellPut]
    split <;> simp [cellGet, hc']
  | cons d r ih =>
    obtain ⟨j, x⟩ := d
    simp only [cellPut]
    split
    · split <;> simp [cellGet, hc']
    · split
      · next h1 h2 =>
        have hj : j ≠ c := by omega
        split <;> simp [cellGet, hc', hj]
      · simp only [cellGet, ih]

/-- A store of bytes leaves every byte outside it. -/
theorem cellGet_writeBytes_out (bs : List Byte) {a c : Nat} (m : List Host.Cell) (h : c < a ∨ a + bs.length ≤ c) :
    cellGet c (writeBytes a bs m) = cellGet c m := by
  induction bs generalizing a m with
  | nil => rfl
  | cons b bs ih =>
    simp only [List.length_cons] at h
    simp only [writeBytes]
    rw [ih _ (by omega), cellGet_cellPut_ne (by omega)]

/-- Stored bytes read back. -/
theorem readBytes_writeBytes (bs : List Byte) (a : Nat) (m : List Host.Cell) (h : Memory.wf m = true) :
    readBytes a bs.length (writeBytes a bs m) = bs := by
  induction bs generalizing a m with
  | nil => rfl
  | cons b bs ih =>
    simp only [List.length_cons, writeBytes, readBytes]
    rw [ih (a + 1) _ (wf_cellPut a b m h), cellGet_writeBytes_out bs _ (by omega), cellGet_cellPut a b m h]

/-! ### Little-endian numbers (00 R5) -/

@[simp] theorem length_natBytes (n x : Nat) : (natBytes n x).length = n := by
  induction n generalizing x with
  | zero => rfl
  | succ n ih => simp [natBytes, ih]

theorem bytesNat_natBytes (n x : Nat) : bytesNat (natBytes n x) = x % 256 ^ n := by
  induction n generalizing x with
  | zero => simp [natBytes, bytesNat, Nat.mod_one]
  | succ n ih =>
    simp only [natBytes, bytesNat, ih, BitVec.toNat_ofNat]
    show x % 256 + 256 * (x / 256 % 256 ^ n) = x % 256 ^ (n + 1)
    rw [Nat.pow_succ', Nat.mod_mul]

/-! ### Tables -/

theorem tabFind_tabPut_ne {α : Type} {k j : Nat} (h : j ≠ k) (x : α) (t : Tab α) : tabFind j (tabPut k x t) = tabFind j t := by
  have h' : k ≠ j := fun e => h e.symm
  induction t with
  | nil => simp [tabPut, tabFind, h']
  | cons p r ih =>
    obtain ⟨i, y⟩ := p
    simp only [tabPut]
    split
    · simp [tabFind, h']
    · split
      · next _ h2 => simp [tabFind, h', h2]
      · simp only [tabFind, ih]

theorem tabFind_tabDel {α : Type} (k j : Nat) (t : Tab α) : tabFind j (tabDel k t) = if j = k then none else tabFind j t := by
  induction t with
  | nil => simp [tabDel, tabFind]
  | cons p r ih =>
    obtain ⟨i, y⟩ := p
    simp only [tabDel, List.filter_cons] at ih ⊢
    by_cases hi : i = k
    · subst hi
      simp only [ne_eq, not_true, decide_false, Bool.false_eq_true, if_false, ih, tabFind]
      by_cases hj : j = i
      · simp [hj]
      · have : i ≠ j := fun e => hj e.symm
        simp [hj, this]
    · simp only [ne_eq, hi, not_false_eq_true, decide_true, if_true, tabFind, ih]
      by_cases hij : i = j
      · subst hij; simp [hi]
      · simp [hij]

end Sys2Proof.Machine
end

