-- ==== Sys2Proof/Laws/State.lean ====
section
/-! SUPPORT. One lemma per field of State and update: a field that an update does not name stays. -/

namespace Sys2Proof.Machine

/-! ### setRing -/

@[simp] theorem State.setRing_fc (s : State) (r : RingAt) (x : Ring) : (s.setRing r x).fc = s.fc := rfl
@[simp] theorem State.setRing_agenda (s : State) (r : RingAt) (x : Ring) : (s.setRing r x).agenda = s.agenda := rfl
@[simp] theorem State.setRing_focus (s : State) (r : RingAt) (x : Ring) : (s.setRing r x).focus = s.focus := rfl
@[simp] theorem State.setRing_freeCtr (s : State) (r : RingAt) (x : Ring) : (s.setRing r x).freeCtr = s.freeCtr := rfl
@[simp] theorem State.setRing_opCtr (s : State) (r : RingAt) (x : Ring) : (s.setRing r x).opCtr = s.opCtr := rfl
@[simp] theorem State.setRing_dies (s : State) (r : RingAt) (x : Ring) : (s.setRing r x).dies = s.dies := rfl
@[simp] theorem State.setRing_stripes (s : State) (r : RingAt) (x : Ring) : (s.setRing r x).stripes = s.stripes := rfl
@[simp] theorem State.setRing_elems (s : State) (r : RingAt) (x : Ring) : (s.setRing r x).elems = s.elems := rfl
@[simp] theorem State.setRing_hbm (s : State) (r : RingAt) (x : Ring) : (s.setRing r x).hbm = s.hbm := rfl
@[simp] theorem State.setRing_hbmKey (s : State) (r : RingAt) (x : Ring) : (s.setRing r x).hbmKey = s.hbmKey := rfl
@[simp] theorem State.setRing_badGrans (s : State) (r : RingAt) (x : Ring) : (s.setRing r x).badGrans = s.badGrans := rfl
@[simp] theorem State.setRing_versions (s : State) (r : RingAt) (x : Ring) : (s.setRing r x).versions = s.versions := rfl
@[simp] theorem State.setRing_hostMem (s : State) (r : RingAt) (x : Ring) : (s.setRing r x).hostMem = s.hostMem := rfl
@[simp] theorem State.setRing_keys (s : State) (r : RingAt) (x : Ring) : (s.setRing r x).keys = s.keys := rfl
@[simp] theorem State.setRing_keyCmds (s : State) (r : RingAt) (x : Ring) : (s.setRing r x).keyCmds = s.keyCmds := rfl
@[simp] theorem State.setRing_hdmBase (s : State) (r : RingAt) (x : Ring) : (s.setRing r x).hdmBase = s.hdmBase := rfl
@[simp] theorem State.setRing_hdmSize (s : State) (r : RingAt) (x : Ring) : (s.setRing r x).hdmSize = s.hdmSize := rfl
@[simp] theorem State.setRing_hdmWays (s : State) (r : RingAt) (x : Ring) : (s.setRing r x).hdmWays = s.hdmWays := rfl
@[simp] theorem State.setRing_hdmGran (s : State) (r : RingAt) (x : Ring) : (s.setRing r x).hdmGran = s.hdmGran := rfl
@[simp] theorem State.setRing_hdmOn (s : State) (r : RingAt) (x : Ring) : (s.setRing r x).hdmOn = s.hdmOn := rfl
@[simp] theorem State.setRing_hdmErr (s : State) (r : RingAt) (x : Ring) : (s.setRing r x).hdmErr = s.hdmErr := rfl
@[simp] theorem State.setRing_jobs (s : State) (r : RingAt) (x : Ring) : (s.setRing r x).jobs = s.jobs := rfl
@[simp] theorem State.setRing_fwRunning (s : State) (r : RingAt) (x : Ring) : (s.setRing r x).fwRunning = s.fwRunning := rfl
@[simp] theorem State.setRing_fwStaged (s : State) (r : RingAt) (x : Ring) : (s.setRing r x).fwStaged = s.fwStaged := rfl
@[simp] theorem State.setRing_ownerPq (s : State) (r : RingAt) (x : Ring) : (s.setRing r x).ownerPq = s.ownerPq := rfl
@[simp] theorem State.setRing_antiRollback (s : State) (r : RingAt) (x : Ring) : (s.setRing r x).antiRollback = s.antiRollback := rfl
@[simp] theorem State.setRing_vendorDigest (s : State) (r : RingAt) (x : Ring) : (s.setRing r x).vendorDigest = s.vendorDigest := rfl
@[simp] theorem State.setRing_ownerDigest (s : State) (r : RingAt) (x : Ring) : (s.setRing r x).ownerDigest = s.ownerDigest := rfl
@[simp] theorem State.setRing_recovery (s : State) (r : RingAt) (x : Ring) : (s.setRing r x).recovery = s.recovery := rfl
@[simp] theorem State.setRing_spdm (s : State) (r : RingAt) (x : Ring) : (s.setRing r x).spdm = s.spdm := rfl
@[simp] theorem State.setRing_hostView (s : State) (r : RingAt) (x : Ring) : (s.setRing r x).hostView = s.hostView := rfl

/-! ### onRing -/

@[simp] theorem State.onRing_fc (s : State) (r : RingAt) (f : Ring → Ring) : (s.onRing r f).fc = s.fc := rfl
@[simp] theorem State.onRing_agenda (s : State) (r : RingAt) (f : Ring → Ring) : (s.onRing r f).agenda = s.agenda := rfl
@[simp] theorem State.onRing_focus (s : State) (r : RingAt) (f : Ring → Ring) : (s.onRing r f).focus = s.focus := rfl
@[simp] theorem State.onRing_freeCtr (s : State) (r : RingAt) (f : Ring → Ring) : (s.onRing r f).freeCtr = s.freeCtr := rfl
@[simp] theorem State.onRing_opCtr (s : State) (r : RingAt) (f : Ring → Ring) : (s.onRing r f).opCtr = s.opCtr := rfl
@[simp] theorem State.onRing_dies (s : State) (r : RingAt) (f : Ring → Ring) : (s.onRing r f).dies = s.dies := rfl
@[simp] theorem State.onRing_stripes (s : State) (r : RingAt) (f : Ring → Ring) : (s.onRing r f).stripes = s.stripes := rfl
@[simp] theorem State.onRing_elems (s : State) (r : RingAt) (f : Ring → Ring) : (s.onRing r f).elems = s.elems := rfl
@[simp] theorem State.onRing_hbm (s : State) (r : RingAt) (f : Ring → Ring) : (s.onRing r f).hbm = s.hbm := rfl
@[simp] theorem State.onRing_hbmKey (s : State) (r : RingAt) (f : Ring → Ring) : (s.onRing r f).hbmKey = s.hbmKey := rfl
@[simp] theorem State.onRing_badGrans (s : State) (r : RingAt) (f : Ring → Ring) : (s.onRing r f).badGrans = s.badGrans := rfl
@[simp] theorem State.onRing_versions (s : State) (r : RingAt) (f : Ring → Ring) : (s.onRing r f).versions = s.versions := rfl
@[simp] theorem State.onRing_hostMem (s : State) (r : RingAt) (f : Ring → Ring) : (s.onRing r f).hostMem = s.hostMem := rfl
@[simp] theorem State.onRing_keys (s : State) (r : RingAt) (f : Ring → Ring) : (s.onRing r f).keys = s.keys := rfl
@[simp] theorem State.onRing_keyCmds (s : State) (r : RingAt) (f : Ring → Ring) : (s.onRing r f).keyCmds = s.keyCmds := rfl
@[simp] theorem State.onRing_hdmBase (s : State) (r : RingAt) (f : Ring → Ring) : (s.onRing r f).hdmBase = s.hdmBase := rfl
@[simp] theorem State.onRing_hdmSize (s : State) (r : RingAt) (f : Ring → Ring) : (s.onRing r f).hdmSize = s.hdmSize := rfl
@[simp] theorem State.onRing_hdmWays (s : State) (r : RingAt) (f : Ring → Ring) : (s.onRing r f).hdmWays = s.hdmWays := rfl
@[simp] theorem State.onRing_hdmGran (s : State) (r : RingAt) (f : Ring → Ring) : (s.onRing r f).hdmGran = s.hdmGran := rfl
@[simp] theorem State.onRing_hdmOn (s : State) (r : RingAt) (f : Ring → Ring) : (s.onRing r f).hdmOn = s.hdmOn := rfl
@[simp] theorem State.onRing_hdmErr (s : State) (r : RingAt) (f : Ring → Ring) : (s.onRing r f).hdmErr = s.hdmErr := rfl
@[simp] theorem State.onRing_jobs (s : State) (r : RingAt) (f : Ring → Ring) : (s.onRing r f).jobs = s.jobs := rfl
@[simp] theorem State.onRing_fwRunning (s : State) (r : RingAt) (f : Ring → Ring) : (s.onRing r f).fwRunning = s.fwRunning := rfl
@[simp] theorem State.onRing_fwStaged (s : State) (r : RingAt) (f : Ring → Ring) : (s.onRing r f).fwStaged = s.fwStaged := rfl
@[simp] theorem State.onRing_ownerPq (s : State) (r : RingAt) (f : Ring → Ring) : (s.onRing r f).ownerPq = s.ownerPq := rfl
@[simp] theorem State.onRing_antiRollback (s : State) (r : RingAt) (f : Ring → Ring) : (s.onRing r f).antiRollback = s.antiRollback := rfl
@[simp] theorem State.onRing_vendorDigest (s : State) (r : RingAt) (f : Ring → Ring) : (s.onRing r f).vendorDigest = s.vendorDigest := rfl
@[simp] theorem State.onRing_ownerDigest (s : State) (r : RingAt) (f : Ring → Ring) : (s.onRing r f).ownerDigest = s.ownerDigest := rfl
@[simp] theorem State.onRing_recovery (s : State) (r : RingAt) (f : Ring → Ring) : (s.onRing r f).recovery = s.recovery := rfl
@[simp] theorem State.onRing_spdm (s : State) (r : RingAt) (f : Ring → Ring) : (s.onRing r f).spdm = s.spdm := rfl
@[simp] theorem State.onRing_hostView (s : State) (r : RingAt) (f : Ring → Ring) : (s.onRing r f).hostView = s.hostView := rfl

/-! ### setDie -/

@[simp] theorem State.setDie_fc (s : State) (d : Fin 4) (x : Die) : (s.setDie d x).fc = s.fc := rfl
@[simp] theorem State.setDie_agenda (s : State) (d : Fin 4) (x : Die) : (s.setDie d x).agenda = s.agenda := rfl
@[simp] theorem State.setDie_focus (s : State) (d : Fin 4) (x : Die) : (s.setDie d x).focus = s.focus := rfl
@[simp] theorem State.setDie_freeCtr (s : State) (d : Fin 4) (x : Die) : (s.setDie d x).freeCtr = s.freeCtr := rfl
@[simp] theorem State.setDie_opCtr (s : State) (d : Fin 4) (x : Die) : (s.setDie d x).opCtr = s.opCtr := rfl
@[simp] theorem State.setDie_rings (s : State) (d : Fin 4) (x : Die) : (s.setDie d x).rings = s.rings := rfl
@[simp] theorem State.setDie_stripes (s : State) (d : Fin 4) (x : Die) : (s.setDie d x).stripes = s.stripes := rfl
@[simp] theorem State.setDie_elems (s : State) (d : Fin 4) (x : Die) : (s.setDie d x).elems = s.elems := rfl
@[simp] theorem State.setDie_hbm (s : State) (d : Fin 4) (x : Die) : (s.setDie d x).hbm = s.hbm := rfl
@[simp] theorem State.setDie_hbmKey (s : State) (d : Fin 4) (x : Die) : (s.setDie d x).hbmKey = s.hbmKey := rfl
@[simp] theorem State.setDie_badGrans (s : State) (d : Fin 4) (x : Die) : (s.setDie d x).badGrans = s.badGrans := rfl
@[simp] theorem State.setDie_versions (s : State) (d : Fin 4) (x : Die) : (s.setDie d x).versions = s.versions := rfl
@[simp] theorem State.setDie_hostMem (s : State) (d : Fin 4) (x : Die) : (s.setDie d x).hostMem = s.hostMem := rfl
@[simp] theorem State.setDie_keys (s : State) (d : Fin 4) (x : Die) : (s.setDie d x).keys = s.keys := rfl
@[simp] theorem State.setDie_keyCmds (s : State) (d : Fin 4) (x : Die) : (s.setDie d x).keyCmds = s.keyCmds := rfl
@[simp] theorem State.setDie_hdmBase (s : State) (d : Fin 4) (x : Die) : (s.setDie d x).hdmBase = s.hdmBase := rfl
@[simp] theorem State.setDie_hdmSize (s : State) (d : Fin 4) (x : Die) : (s.setDie d x).hdmSize = s.hdmSize := rfl
@[simp] theorem State.setDie_hdmWays (s : State) (d : Fin 4) (x : Die) : (s.setDie d x).hdmWays = s.hdmWays := rfl
@[simp] theorem State.setDie_hdmGran (s : State) (d : Fin 4) (x : Die) : (s.setDie d x).hdmGran = s.hdmGran := rfl
@[simp] theorem State.setDie_hdmOn (s : State) (d : Fin 4) (x : Die) : (s.setDie d x).hdmOn = s.hdmOn := rfl
@[simp] theorem State.setDie_hdmErr (s : State) (d : Fin 4) (x : Die) : (s.setDie d x).hdmErr = s.hdmErr := rfl
@[simp] theorem State.setDie_jobs (s : State) (d : Fin 4) (x : Die) : (s.setDie d x).jobs = s.jobs := rfl
@[simp] theorem State.setDie_fwRunning (s : State) (d : Fin 4) (x : Die) : (s.setDie d x).fwRunning = s.fwRunning := rfl
@[simp] theorem State.setDie_fwStaged (s : State) (d : Fin 4) (x : Die) : (s.setDie d x).fwStaged = s.fwStaged := rfl
@[simp] theorem State.setDie_ownerPq (s : State) (d : Fin 4) (x : Die) : (s.setDie d x).ownerPq = s.ownerPq := rfl
@[simp] theorem State.setDie_antiRollback (s : State) (d : Fin 4) (x : Die) : (s.setDie d x).antiRollback = s.antiRollback := rfl
@[simp] theorem State.setDie_vendorDigest (s : State) (d : Fin 4) (x : Die) : (s.setDie d x).vendorDigest = s.vendorDigest := rfl
@[simp] theorem State.setDie_ownerDigest (s : State) (d : Fin 4) (x : Die) : (s.setDie d x).ownerDigest = s.ownerDigest := rfl
@[simp] theorem State.setDie_recovery (s : State) (d : Fin 4) (x : Die) : (s.setDie d x).recovery = s.recovery := rfl
@[simp] theorem State.setDie_spdm (s : State) (d : Fin 4) (x : Die) : (s.setDie d x).spdm = s.spdm := rfl
@[simp] theorem State.setDie_hostView (s : State) (d : Fin 4) (x : Die) : (s.setDie d x).hostView = s.hostView := rfl

/-! ### onDie -/

@[simp] theorem State.onDie_fc (s : State) (d : Fin 4) (f : Die → Die) : (s.onDie d f).fc = s.fc := rfl
@[simp] theorem State.onDie_agenda (s : State) (d : Fin 4) (f : Die → Die) : (s.onDie d f).agenda = s.agenda := rfl
@[simp] theorem State.onDie_focus (s : State) (d : Fin 4) (f : Die → Die) : (s.onDie d f).focus = s.focus := rfl
@[simp] theorem State.onDie_freeCtr (s : State) (d : Fin 4) (f : Die → Die) : (s.onDie d f).freeCtr = s.freeCtr := rfl
@[simp] theorem State.onDie_opCtr (s : State) (d : Fin 4) (f : Die → Die) : (s.onDie d f).opCtr = s.opCtr := rfl
@[simp] theorem State.onDie_rings (s : State) (d : Fin 4) (f : Die → Die) : (s.onDie d f).rings = s.rings := rfl
@[simp] theorem State.onDie_stripes (s : State) (d : Fin 4) (f : Die → Die) : (s.onDie d f).stripes = s.stripes := rfl
@[simp] theorem State.onDie_elems (s : State) (d : Fin 4) (f : Die → Die) : (s.onDie d f).elems = s.elems := rfl
@[simp] theorem State.onDie_hbm (s : State) (d : Fin 4) (f : Die → Die) : (s.onDie d f).hbm = s.hbm := rfl
@[simp] theorem State.onDie_hbmKey (s : State) (d : Fin 4) (f : Die → Die) : (s.onDie d f).hbmKey = s.hbmKey := rfl
@[simp] theorem State.onDie_badGrans (s : State) (d : Fin 4) (f : Die → Die) : (s.onDie d f).badGrans = s.badGrans := rfl
@[simp] theorem State.onDie_versions (s : State) (d : Fin 4) (f : Die → Die) : (s.onDie d f).versions = s.versions := rfl
@[simp] theorem State.onDie_hostMem (s : State) (d : Fin 4) (f : Die → Die) : (s.onDie d f).hostMem = s.hostMem := rfl
@[simp] theorem State.onDie_keys (s : State) (d : Fin 4) (f : Die → Die) : (s.onDie d f).keys = s.keys := rfl
@[simp] theorem State.onDie_keyCmds (s : State) (d : Fin 4) (f : Die → Die) : (s.onDie d f).keyCmds = s.keyCmds := rfl
@[simp] theorem State.onDie_hdmBase (s : State) (d : Fin 4) (f : Die → Die) : (s.onDie d f).hdmBase = s.hdmBase := rfl
@[simp] theorem State.onDie_hdmSize (s : State) (d : Fin 4) (f : Die → Die) : (s.onDie d f).hdmSize = s.hdmSize := rfl
@[simp] theorem State.onDie_hdmWays (s : State) (d : Fin 4) (f : Die → Die) : (s.onDie d f).hdmWays = s.hdmWays := rfl
@[simp] theorem State.onDie_hdmGran (s : State) (d : Fin 4) (f : Die → Die) : (s.onDie d f).hdmGran = s.hdmGran := rfl
@[simp] theorem State.onDie_hdmOn (s : State) (d : Fin 4) (f : Die → Die) : (s.onDie d f).hdmOn = s.hdmOn := rfl
@[simp] theorem State.onDie_hdmErr (s : State) (d : Fin 4) (f : Die → Die) : (s.onDie d f).hdmErr = s.hdmErr := rfl
@[simp] theorem State.onDie_jobs (s : State) (d : Fin 4) (f : Die → Die) : (s.onDie d f).jobs = s.jobs := rfl
@[simp] theorem State.onDie_fwRunning (s : State) (d : Fin 4) (f : Die → Die) : (s.onDie d f).fwRunning = s.fwRunning := rfl
@[simp] theorem State.onDie_fwStaged (s : State) (d : Fin 4) (f : Die → Die) : (s.onDie d f).fwStaged = s.fwStaged := rfl
@[simp] theorem State.onDie_ownerPq (s : State) (d : Fin 4) (f : Die → Die) : (s.onDie d f).ownerPq = s.ownerPq := rfl
@[simp] theorem State.onDie_antiRollback (s : State) (d : Fin 4) (f : Die → Die) : (s.onDie d f).antiRollback = s.antiRollback := rfl
@[simp] theorem State.onDie_vendorDigest (s : State) (d : Fin 4) (f : Die → Die) : (s.onDie d f).vendorDigest = s.vendorDigest := rfl
@[simp] theorem State.onDie_ownerDigest (s : State) (d : Fin 4) (f : Die → Die) : (s.onDie d f).ownerDigest = s.ownerDigest := rfl
@[simp] theorem State.onDie_recovery (s : State) (d : Fin 4) (f : Die → Die) : (s.onDie d f).recovery = s.recovery := rfl
@[simp] theorem State.onDie_spdm (s : State) (d : Fin 4) (f : Die → Die) : (s.onDie d f).spdm = s.spdm := rfl
@[simp] theorem State.onDie_hostView (s : State) (d : Fin 4) (f : Die → Die) : (s.onDie d f).hostView = s.hostView := rfl

/-! ### setStripe -/

@[simp] theorem State.setStripe_fc (s : State) (p : StripeAt) (x : Stripe) : (s.setStripe p x).fc = s.fc := rfl
@[simp] theorem State.setStripe_agenda (s : State) (p : StripeAt) (x : Stripe) : (s.setStripe p x).agenda = s.agenda := rfl
@[simp] theorem State.setStripe_focus (s : State) (p : StripeAt) (x : Stripe) : (s.setStripe p x).focus = s.focus := rfl
@[simp] theorem State.setStripe_freeCtr (s : State) (p : StripeAt) (x : Stripe) : (s.setStripe p x).freeCtr = s.freeCtr := rfl
@[simp] theorem State.setStripe_opCtr (s : State) (p : StripeAt) (x : Stripe) : (s.setStripe p x).opCtr = s.opCtr := rfl
@[simp] theorem State.setStripe_dies (s : State) (p : StripeAt) (x : Stripe) : (s.setStripe p x).dies = s.dies := rfl
@[simp] theorem State.setStripe_rings (s : State) (p : StripeAt) (x : Stripe) : (s.setStripe p x).rings = s.rings := rfl
@[simp] theorem State.setStripe_elems (s : State) (p : StripeAt) (x : Stripe) : (s.setStripe p x).elems = s.elems := rfl
@[simp] theorem State.setStripe_hbm (s : State) (p : StripeAt) (x : Stripe) : (s.setStripe p x).hbm = s.hbm := rfl
@[simp] theorem State.setStripe_hbmKey (s : State) (p : StripeAt) (x : Stripe) : (s.setStripe p x).hbmKey = s.hbmKey := rfl
@[simp] theorem State.setStripe_badGrans (s : State) (p : StripeAt) (x : Stripe) : (s.setStripe p x).badGrans = s.badGrans := rfl
@[simp] theorem State.setStripe_versions (s : State) (p : StripeAt) (x : Stripe) : (s.setStripe p x).versions = s.versions := rfl
@[simp] theorem State.setStripe_hostMem (s : State) (p : StripeAt) (x : Stripe) : (s.setStripe p x).hostMem = s.hostMem := rfl
@[simp] theorem State.setStripe_keys (s : State) (p : StripeAt) (x : Stripe) : (s.setStripe p x).keys = s.keys := rfl
@[simp] theorem State.setStripe_keyCmds (s : State) (p : StripeAt) (x : Stripe) : (s.setStripe p x).keyCmds = s.keyCmds := rfl
@[simp] theorem State.setStripe_hdmBase (s : State) (p : StripeAt) (x : Stripe) : (s.setStripe p x).hdmBase = s.hdmBase := rfl
@[simp] theorem State.setStripe_hdmSize (s : State) (p : StripeAt) (x : Stripe) : (s.setStripe p x).hdmSize = s.hdmSize := rfl
@[simp] theorem State.setStripe_hdmWays (s : State) (p : StripeAt) (x : Stripe) : (s.setStripe p x).hdmWays = s.hdmWays := rfl
@[simp] theorem State.setStripe_hdmGran (s : State) (p : StripeAt) (x : Stripe) : (s.setStripe p x).hdmGran = s.hdmGran := rfl
@[simp] theorem State.setStripe_hdmOn (s : State) (p : StripeAt) (x : Stripe) : (s.setStripe p x).hdmOn = s.hdmOn := rfl
@[simp] theorem State.setStripe_hdmErr (s : State) (p : StripeAt) (x : Stripe) : (s.setStripe p x).hdmErr = s.hdmErr := rfl
@[simp] theorem State.setStripe_jobs (s : State) (p : StripeAt) (x : Stripe) : (s.setStripe p x).jobs = s.jobs := rfl
@[simp] theorem State.setStripe_fwRunning (s : State) (p : StripeAt) (x : Stripe) : (s.setStripe p x).fwRunning = s.fwRunning := rfl
@[simp] theorem State.setStripe_fwStaged (s : State) (p : StripeAt) (x : Stripe) : (s.setStripe p x).fwStaged = s.fwStaged := rfl
@[simp] theorem State.setStripe_ownerPq (s : State) (p : StripeAt) (x : Stripe) : (s.setStripe p x).ownerPq = s.ownerPq := rfl
@[simp] theorem State.setStripe_antiRollback (s : State) (p : StripeAt) (x : Stripe) : (s.setStripe p x).antiRollback = s.antiRollback := rfl
@[simp] theorem State.setStripe_vendorDigest (s : State) (p : StripeAt) (x : Stripe) : (s.setStripe p x).vendorDigest = s.vendorDigest := rfl
@[simp] theorem State.setStripe_ownerDigest (s : State) (p : StripeAt) (x : Stripe) : (s.setStripe p x).ownerDigest = s.ownerDigest := rfl
@[simp] theorem State.setStripe_recovery (s : State) (p : StripeAt) (x : Stripe) : (s.setStripe p x).recovery = s.recovery := rfl
@[simp] theorem State.setStripe_spdm (s : State) (p : StripeAt) (x : Stripe) : (s.setStripe p x).spdm = s.spdm := rfl
@[simp] theorem State.setStripe_hostView (s : State) (p : StripeAt) (x : Stripe) : (s.setStripe p x).hostView = s.hostView := rfl

/-! ### onStripe -/

@[simp] theorem State.onStripe_fc (s : State) (p : StripeAt) (f : Stripe → Stripe) : (s.onStripe p f).fc = s.fc := rfl
@[simp] theorem State.onStripe_agenda (s : State) (p : StripeAt) (f : Stripe → Stripe) : (s.onStripe p f).agenda = s.agenda := rfl
@[simp] theorem State.onStripe_focus (s : State) (p : StripeAt) (f : Stripe → Stripe) : (s.onStripe p f).focus = s.focus := rfl
@[simp] theorem State.onStripe_freeCtr (s : State) (p : StripeAt) (f : Stripe → Stripe) : (s.onStripe p f).freeCtr = s.freeCtr := rfl
@[simp] theorem State.onStripe_opCtr (s : State) (p : StripeAt) (f : Stripe → Stripe) : (s.onStripe p f).opCtr = s.opCtr := rfl
@[simp] theorem State.onStripe_dies (s : State) (p : StripeAt) (f : Stripe → Stripe) : (s.onStripe p f).dies = s.dies := rfl
@[simp] theorem State.onStripe_rings (s : State) (p : StripeAt) (f : Stripe → Stripe) : (s.onStripe p f).rings = s.rings := rfl
@[simp] theorem State.onStripe_elems (s : State) (p : StripeAt) (f : Stripe → Stripe) : (s.onStripe p f).elems = s.elems := rfl
@[simp] theorem State.onStripe_hbm (s : State) (p : StripeAt) (f : Stripe → Stripe) : (s.onStripe p f).hbm = s.hbm := rfl
@[simp] theorem State.onStripe_hbmKey (s : State) (p : StripeAt) (f : Stripe → Stripe) : (s.onStripe p f).hbmKey = s.hbmKey := rfl
@[simp] theorem State.onStripe_badGrans (s : State) (p : StripeAt) (f : Stripe → Stripe) : (s.onStripe p f).badGrans = s.badGrans := rfl
@[simp] theorem State.onStripe_versions (s : State) (p : StripeAt) (f : Stripe → Stripe) : (s.onStripe p f).versions = s.versions := rfl
@[simp] theorem State.onStripe_hostMem (s : State) (p : StripeAt) (f : Stripe → Stripe) : (s.onStripe p f).hostMem = s.hostMem := rfl
@[simp] theorem State.onStripe_keys (s : State) (p : StripeAt) (f : Stripe → Stripe) : (s.onStripe p f).keys = s.keys := rfl
@[simp] theorem State.onStripe_keyCmds (s : State) (p : StripeAt) (f : Stripe → Stripe) : (s.onStripe p f).keyCmds = s.keyCmds := rfl
@[simp] theorem State.onStripe_hdmBase (s : State) (p : StripeAt) (f : Stripe → Stripe) : (s.onStripe p f).hdmBase = s.hdmBase := rfl
@[simp] theorem State.onStripe_hdmSize (s : State) (p : StripeAt) (f : Stripe → Stripe) : (s.onStripe p f).hdmSize = s.hdmSize := rfl
@[simp] theorem State.onStripe_hdmWays (s : State) (p : StripeAt) (f : Stripe → Stripe) : (s.onStripe p f).hdmWays = s.hdmWays := rfl
@[simp] theorem State.onStripe_hdmGran (s : State) (p : StripeAt) (f : Stripe → Stripe) : (s.onStripe p f).hdmGran = s.hdmGran := rfl
@[simp] theorem State.onStripe_hdmOn (s : State) (p : StripeAt) (f : Stripe → Stripe) : (s.onStripe p f).hdmOn = s.hdmOn := rfl
@[simp] theorem State.onStripe_hdmErr (s : State) (p : StripeAt) (f : Stripe → Stripe) : (s.onStripe p f).hdmErr = s.hdmErr := rfl
@[simp] theorem State.onStripe_jobs (s : State) (p : StripeAt) (f : Stripe → Stripe) : (s.onStripe p f).jobs = s.jobs := rfl
@[simp] theorem State.onStripe_fwRunning (s : State) (p : StripeAt) (f : Stripe → Stripe) : (s.onStripe p f).fwRunning = s.fwRunning := rfl
@[simp] theorem State.onStripe_fwStaged (s : State) (p : StripeAt) (f : Stripe → Stripe) : (s.onStripe p f).fwStaged = s.fwStaged := rfl
@[simp] theorem State.onStripe_ownerPq (s : State) (p : StripeAt) (f : Stripe → Stripe) : (s.onStripe p f).ownerPq = s.ownerPq := rfl
@[simp] theorem State.onStripe_antiRollback (s : State) (p : StripeAt) (f : Stripe → Stripe) : (s.onStripe p f).antiRollback = s.antiRollback := rfl
@[simp] theorem State.onStripe_vendorDigest (s : State) (p : StripeAt) (f : Stripe → Stripe) : (s.onStripe p f).vendorDigest = s.vendorDigest := rfl
@[simp] theorem State.onStripe_ownerDigest (s : State) (p : StripeAt) (f : Stripe → Stripe) : (s.onStripe p f).ownerDigest = s.ownerDigest := rfl
@[simp] theorem State.onStripe_recovery (s : State) (p : StripeAt) (f : Stripe → Stripe) : (s.onStripe p f).recovery = s.recovery := rfl
@[simp] theorem State.onStripe_spdm (s : State) (p : StripeAt) (f : Stripe → Stripe) : (s.onStripe p f).spdm = s.spdm := rfl
@[simp] theorem State.onStripe_hostView (s : State) (p : StripeAt) (f : Stripe → Stripe) : (s.onStripe p f).hostView = s.hostView := rfl

/-! ### setElem -/

@[simp] theorem State.setElem_fc (s : State) (e : ElemAt) (x : Elem) : (s.setElem e x).fc = s.fc := rfl
@[simp] theorem State.setElem_agenda (s : State) (e : ElemAt) (x : Elem) : (s.setElem e x).agenda = s.agenda := rfl
@[simp] theorem State.setElem_focus (s : State) (e : ElemAt) (x : Elem) : (s.setElem e x).focus = s.focus := rfl
@[simp] theorem State.setElem_freeCtr (s : State) (e : ElemAt) (x : Elem) : (s.setElem e x).freeCtr = s.freeCtr := rfl
@[simp] theorem State.setElem_opCtr (s : State) (e : ElemAt) (x : Elem) : (s.setElem e x).opCtr = s.opCtr := rfl
@[simp] theorem State.setElem_dies (s : State) (e : ElemAt) (x : Elem) : (s.setElem e x).dies = s.dies := rfl
@[simp] theorem State.setElem_rings (s : State) (e : ElemAt) (x : Elem) : (s.setElem e x).rings = s.rings := rfl
@[simp] theorem State.setElem_stripes (s : State) (e : ElemAt) (x : Elem) : (s.setElem e x).stripes = s.stripes := rfl
@[simp] theorem State.setElem_hbm (s : State) (e : ElemAt) (x : Elem) : (s.setElem e x).hbm = s.hbm := rfl
@[simp] theorem State.setElem_hbmKey (s : State) (e : ElemAt) (x : Elem) : (s.setElem e x).hbmKey = s.hbmKey := rfl
@[simp] theorem State.setElem_badGrans (s : State) (e : ElemAt) (x : Elem) : (s.setElem e x).badGrans = s.badGrans := rfl
@[simp] theorem State.setElem_versions (s : State) (e : ElemAt) (x : Elem) : (s.setElem e x).versions = s.versions := rfl
@[simp] theorem State.setElem_hostMem (s : State) (e : ElemAt) (x : Elem) : (s.setElem e x).hostMem = s.hostMem := rfl
@[simp] theorem State.setElem_keys (s : State) (e : ElemAt) (x : Elem) : (s.setElem e x).keys = s.keys := rfl
@[simp] theorem State.setElem_keyCmds (s : State) (e : ElemAt) (x : Elem) : (s.setElem e x).keyCmds = s.keyCmds := rfl
@[simp] theorem State.setElem_hdmBase (s : State) (e : ElemAt) (x : Elem) : (s.setElem e x).hdmBase = s.hdmBase := rfl
@[simp] theorem State.setElem_hdmSize (s : State) (e : ElemAt) (x : Elem) : (s.setElem e x).hdmSize = s.hdmSize := rfl
@[simp] theorem State.setElem_hdmWays (s : State) (e : ElemAt) (x : Elem) : (s.setElem e x).hdmWays = s.hdmWays := rfl
@[simp] theorem State.setElem_hdmGran (s : State) (e : ElemAt) (x : Elem) : (s.setElem e x).hdmGran = s.hdmGran := rfl
@[simp] theorem State.setElem_hdmOn (s : State) (e : ElemAt) (x : Elem) : (s.setElem e x).hdmOn = s.hdmOn := rfl
@[simp] theorem State.setElem_hdmErr (s : State) (e : ElemAt) (x : Elem) : (s.setElem e x).hdmErr = s.hdmErr := rfl
@[simp] theorem State.setElem_jobs (s : State) (e : ElemAt) (x : Elem) : (s.setElem e x).jobs = s.jobs := rfl
@[simp] theorem State.setElem_fwRunning (s : State) (e : ElemAt) (x : Elem) : (s.setElem e x).fwRunning = s.fwRunning := rfl
@[simp] theorem State.setElem_fwStaged (s : State) (e : ElemAt) (x : Elem) : (s.setElem e x).fwStaged = s.fwStaged := rfl
@[simp] theorem State.setElem_ownerPq (s : State) (e : ElemAt) (x : Elem) : (s.setElem e x).ownerPq = s.ownerPq := rfl
@[simp] theorem State.setElem_antiRollback (s : State) (e : ElemAt) (x : Elem) : (s.setElem e x).antiRollback = s.antiRollback := rfl
@[simp] theorem State.setElem_vendorDigest (s : State) (e : ElemAt) (x : Elem) : (s.setElem e x).vendorDigest = s.vendorDigest := rfl
@[simp] theorem State.setElem_ownerDigest (s : State) (e : ElemAt) (x : Elem) : (s.setElem e x).ownerDigest = s.ownerDigest := rfl
@[simp] theorem State.setElem_recovery (s : State) (e : ElemAt) (x : Elem) : (s.setElem e x).recovery = s.recovery := rfl
@[simp] theorem State.setElem_spdm (s : State) (e : ElemAt) (x : Elem) : (s.setElem e x).spdm = s.spdm := rfl
@[simp] theorem State.setElem_hostView (s : State) (e : ElemAt) (x : Elem) : (s.setElem e x).hostView = s.hostView := rfl

/-! ### onElem -/

@[simp] theorem State.onElem_fc (s : State) (e : ElemAt) (f : Elem → Elem) : (s.onElem e f).fc = s.fc := rfl
@[simp] theorem State.onElem_agenda (s : State) (e : ElemAt) (f : Elem → Elem) : (s.onElem e f).agenda = s.agenda := rfl
@[simp] theorem State.onElem_focus (s : State) (e : ElemAt) (f : Elem → Elem) : (s.onElem e f).focus = s.focus := rfl
@[simp] theorem State.onElem_freeCtr (s : State) (e : ElemAt) (f : Elem → Elem) : (s.onElem e f).freeCtr = s.freeCtr := rfl
@[simp] theorem State.onElem_opCtr (s : State) (e : ElemAt) (f : Elem → Elem) : (s.onElem e f).opCtr = s.opCtr := rfl
@[simp] theorem State.onElem_dies (s : State) (e : ElemAt) (f : Elem → Elem) : (s.onElem e f).dies = s.dies := rfl
@[simp] theorem State.onElem_rings (s : State) (e : ElemAt) (f : Elem → Elem) : (s.onElem e f).rings = s.rings := rfl
@[simp] theorem State.onElem_stripes (s : State) (e : ElemAt) (f : Elem → Elem) : (s.onElem e f).stripes = s.stripes := rfl
@[simp] theorem State.onElem_hbm (s : State) (e : ElemAt) (f : Elem → Elem) : (s.onElem e f).hbm = s.hbm := rfl
@[simp] theorem State.onElem_hbmKey (s : State) (e : ElemAt) (f : Elem → Elem) : (s.onElem e f).hbmKey = s.hbmKey := rfl
@[simp] theorem State.onElem_badGrans (s : State) (e : ElemAt) (f : Elem → Elem) : (s.onElem e f).badGrans = s.badGrans := rfl
@[simp] theorem State.onElem_versions (s : State) (e : ElemAt) (f : Elem → Elem) : (s.onElem e f).versions = s.versions := rfl
@[simp] theorem State.onElem_hostMem (s : State) (e : ElemAt) (f : Elem → Elem) : (s.onElem e f).hostMem = s.hostMem := rfl
@[simp] theorem State.onElem_keys (s : State) (e : ElemAt) (f : Elem → Elem) : (s.onElem e f).keys = s.keys := rfl
@[simp] theorem State.onElem_keyCmds (s : State) (e : ElemAt) (f : Elem → Elem) : (s.onElem e f).keyCmds = s.keyCmds := rfl
@[simp] theorem State.onElem_hdmBase (s : State) (e : ElemAt) (f : Elem → Elem) : (s.onElem e f).hdmBase = s.hdmBase := rfl
@[simp] theorem State.onElem_hdmSize (s : State) (e : ElemAt) (f : Elem → Elem) : (s.onElem e f).hdmSize = s.hdmSize := rfl
@[simp] theorem State.onElem_hdmWays (s : State) (e : ElemAt) (f : Elem → Elem) : (s.onElem e f).hdmWays = s.hdmWays := rfl
@[simp] theorem State.onElem_hdmGran (s : State) (e : ElemAt) (f : Elem → Elem) : (s.onElem e f).hdmGran = s.hdmGran := rfl
@[simp] theorem State.onElem_hdmOn (s : State) (e : ElemAt) (f : Elem → Elem) : (s.onElem e f).hdmOn = s.hdmOn := rfl
@[simp] theorem State.onElem_hdmErr (s : State) (e : ElemAt) (f : Elem → Elem) : (s.onElem e f).hdmErr = s.hdmErr := rfl
@[simp] theorem State.onElem_jobs (s : State) (e : ElemAt) (f : Elem → Elem) : (s.onElem e f).jobs = s.jobs := rfl
@[simp] theorem State.onElem_fwRunning (s : State) (e : ElemAt) (f : Elem → Elem) : (s.onElem e f).fwRunning = s.fwRunning := rfl
@[simp] theorem State.onElem_fwStaged (s : State) (e : ElemAt) (f : Elem → Elem) : (s.onElem e f).fwStaged = s.fwStaged := rfl
@[simp] theorem State.onElem_ownerPq (s : State) (e : ElemAt) (f : Elem → Elem) : (s.onElem e f).ownerPq = s.ownerPq := rfl
@[simp] theorem State.onElem_antiRollback (s : State) (e : ElemAt) (f : Elem → Elem) : (s.onElem e f).antiRollback = s.antiRollback := rfl
@[simp] theorem State.onElem_vendorDigest (s : State) (e : ElemAt) (f : Elem → Elem) : (s.onElem e f).vendorDigest = s.vendorDigest := rfl
@[simp] theorem State.onElem_ownerDigest (s : State) (e : ElemAt) (f : Elem → Elem) : (s.onElem e f).ownerDigest = s.ownerDigest := rfl
@[simp] theorem State.onElem_recovery (s : State) (e : ElemAt) (f : Elem → Elem) : (s.onElem e f).recovery = s.recovery := rfl
@[simp] theorem State.onElem_spdm (s : State) (e : ElemAt) (f : Elem → Elem) : (s.onElem e f).spdm = s.spdm := rfl
@[simp] theorem State.onElem_hostView (s : State) (e : ElemAt) (f : Elem → Elem) : (s.onElem e f).hostView = s.hostView := rfl

/-! ### setLaunch -/

@[simp] theorem State.setLaunch_fc (s : State) (l : Nat) (x : Launch) : (s.setLaunch l x).fc = s.fc := rfl
@[simp] theorem State.setLaunch_agenda (s : State) (l : Nat) (x : Launch) : (s.setLaunch l x).agenda = s.agenda := rfl
@[simp] theorem State.setLaunch_focus (s : State) (l : Nat) (x : Launch) : (s.setLaunch l x).focus = s.focus := rfl
@[simp] theorem State.setLaunch_freeCtr (s : State) (l : Nat) (x : Launch) : (s.setLaunch l x).freeCtr = s.freeCtr := rfl
@[simp] theorem State.setLaunch_opCtr (s : State) (l : Nat) (x : Launch) : (s.setLaunch l x).opCtr = s.opCtr := rfl
@[simp] theorem State.setLaunch_rings (s : State) (l : Nat) (x : Launch) : (s.setLaunch l x).rings = s.rings := rfl
@[simp] theorem State.setLaunch_stripes (s : State) (l : Nat) (x : Launch) : (s.setLaunch l x).stripes = s.stripes := rfl
@[simp] theorem State.setLaunch_elems (s : State) (l : Nat) (x : Launch) : (s.setLaunch l x).elems = s.elems := rfl
@[simp] theorem State.setLaunch_hbm (s : State) (l : Nat) (x : Launch) : (s.setLaunch l x).hbm = s.hbm := rfl
@[simp] theorem State.setLaunch_hbmKey (s : State) (l : Nat) (x : Launch) : (s.setLaunch l x).hbmKey = s.hbmKey := rfl
@[simp] theorem State.setLaunch_badGrans (s : State) (l : Nat) (x : Launch) : (s.setLaunch l x).badGrans = s.badGrans := rfl
@[simp] theorem State.setLaunch_versions (s : State) (l : Nat) (x : Launch) : (s.setLaunch l x).versions = s.versions := rfl
@[simp] theorem State.setLaunch_hostMem (s : State) (l : Nat) (x : Launch) : (s.setLaunch l x).hostMem = s.hostMem := rfl
@[simp] theorem State.setLaunch_keys (s : State) (l : Nat) (x : Launch) : (s.setLaunch l x).keys = s.keys := rfl
@[simp] theorem State.setLaunch_keyCmds (s : State) (l : Nat) (x : Launch) : (s.setLaunch l x).keyCmds = s.keyCmds := rfl
@[simp] theorem State.setLaunch_hdmBase (s : State) (l : Nat) (x : Launch) : (s.setLaunch l x).hdmBase = s.hdmBase := rfl
@[simp] theorem State.setLaunch_hdmSize (s : State) (l : Nat) (x : Launch) : (s.setLaunch l x).hdmSize = s.hdmSize := rfl
@[simp] theorem State.setLaunch_hdmWays (s : State) (l : Nat) (x : Launch) : (s.setLaunch l x).hdmWays = s.hdmWays := rfl
@[simp] theorem State.setLaunch_hdmGran (s : State) (l : Nat) (x : Launch) : (s.setLaunch l x).hdmGran = s.hdmGran := rfl
@[simp] theorem State.setLaunch_hdmOn (s : State) (l : Nat) (x : Launch) : (s.setLaunch l x).hdmOn = s.hdmOn := rfl
@[simp] theorem State.setLaunch_hdmErr (s : State) (l : Nat) (x : Launch) : (s.setLaunch l x).hdmErr = s.hdmErr := rfl
@[simp] theorem State.setLaunch_jobs (s : State) (l : Nat) (x : Launch) : (s.setLaunch l x).jobs = s.jobs := rfl
@[simp] theorem State.setLaunch_fwRunning (s : State) (l : Nat) (x : Launch) : (s.setLaunch l x).fwRunning = s.fwRunning := rfl
@[simp] theorem State.setLaunch_fwStaged (s : State) (l : Nat) (x : Launch) : (s.setLaunch l x).fwStaged = s.fwStaged := rfl
@[simp] theorem State.setLaunch_ownerPq (s : State) (l : Nat) (x : Launch) : (s.setLaunch l x).ownerPq = s.ownerPq := rfl
@[simp] theorem State.setLaunch_antiRollback (s : State) (l : Nat) (x : Launch) : (s.setLaunch l x).antiRollback = s.antiRollback := rfl
@[simp] theorem State.setLaunch_vendorDigest (s : State) (l : Nat) (x : Launch) : (s.setLaunch l x).vendorDigest = s.vendorDigest := rfl
@[simp] theorem State.setLaunch_ownerDigest (s : State) (l : Nat) (x : Launch) : (s.setLaunch l x).ownerDigest = s.ownerDigest := rfl
@[simp] theorem State.setLaunch_recovery (s : State) (l : Nat) (x : Launch) : (s.setLaunch l x).recovery = s.recovery := rfl
@[simp] theorem State.setLaunch_spdm (s : State) (l : Nat) (x : Launch) : (s.setLaunch l x).spdm = s.spdm := rfl
@[simp] theorem State.setLaunch_hostView (s : State) (l : Nat) (x : Launch) : (s.setLaunch l x).hostView = s.hostView := rfl

/-! ### onLaunch -/

@[simp] theorem State.onLaunch_fc (s : State) (l : Nat) (f : Launch → Launch) : (s.onLaunch l f).fc = s.fc := rfl
@[simp] theorem State.onLaunch_agenda (s : State) (l : Nat) (f : Launch → Launch) : (s.onLaunch l f).agenda = s.agenda := rfl
@[simp] theorem State.onLaunch_focus (s : State) (l : Nat) (f : Launch → Launch) : (s.onLaunch l f).focus = s.focus := rfl
@[simp] theorem State.onLaunch_freeCtr (s : State) (l : Nat) (f : Launch → Launch) : (s.onLaunch l f).freeCtr = s.freeCtr := rfl
@[simp] theorem State.onLaunch_opCtr (s : State) (l : Nat) (f : Launch → Launch) : (s.onLaunch l f).opCtr = s.opCtr := rfl
@[simp] theorem State.onLaunch_rings (s : State) (l : Nat) (f : Launch → Launch) : (s.onLaunch l f).rings = s.rings := rfl
@[simp] theorem State.onLaunch_stripes (s : State) (l : Nat) (f : Launch → Launch) : (s.onLaunch l f).stripes = s.stripes := rfl
@[simp] theorem State.onLaunch_elems (s : State) (l : Nat) (f : Launch → Launch) : (s.onLaunch l f).elems = s.elems := rfl
@[simp] theorem State.onLaunch_hbm (s : State) (l : Nat) (f : Launch → Launch) : (s.onLaunch l f).hbm = s.hbm := rfl
@[simp] theorem State.onLaunch_hbmKey (s : State) (l : Nat) (f : Launch → Launch) : (s.onLaunch l f).hbmKey = s.hbmKey := rfl
@[simp] theorem State.onLaunch_badGrans (s : State) (l : Nat) (f : Launch → Launch) : (s.onLaunch l f).badGrans = s.badGrans := rfl
@[simp] theorem State.onLaunch_versions (s : State) (l : Nat) (f : Launch → Launch) : (s.onLaunch l f).versions = s.versions := rfl
@[simp] theorem State.onLaunch_hostMem (s : State) (l : Nat) (f : Launch → Launch) : (s.onLaunch l f).hostMem = s.hostMem := rfl
@[simp] theorem State.onLaunch_keys (s : State) (l : Nat) (f : Launch → Launch) : (s.onLaunch l f).keys = s.keys := rfl
@[simp] theorem State.onLaunch_keyCmds (s : State) (l : Nat) (f : Launch → Launch) : (s.onLaunch l f).keyCmds = s.keyCmds := rfl
@[simp] theorem State.onLaunch_hdmBase (s : State) (l : Nat) (f : Launch → Launch) : (s.onLaunch l f).hdmBase = s.hdmBase := rfl
@[simp] theorem State.onLaunch_hdmSize (s : State) (l : Nat) (f : Launch → Launch) : (s.onLaunch l f).hdmSize = s.hdmSize := rfl
@[simp] theorem State.onLaunch_hdmWays (s : State) (l : Nat) (f : Launch → Launch) : (s.onLaunch l f).hdmWays = s.hdmWays := rfl
@[simp] theorem State.onLaunch_hdmGran (s : State) (l : Nat) (f : Launch → Launch) : (s.onLaunch l f).hdmGran = s.hdmGran := rfl
@[simp] theorem State.onLaunch_hdmOn (s : State) (l : Nat) (f : Launch → Launch) : (s.onLaunch l f).hdmOn = s.hdmOn := rfl
@[simp] theorem State.onLaunch_hdmErr (s : State) (l : Nat) (f : Launch → Launch) : (s.onLaunch l f).hdmErr = s.hdmErr := rfl
@[simp] theorem State.onLaunch_jobs (s : State) (l : Nat) (f : Launch → Launch) : (s.onLaunch l f).jobs = s.jobs := rfl
@[simp] theorem State.onLaunch_fwRunning (s : State) (l : Nat) (f : Launch → Launch) : (s.onLaunch l f).fwRunning = s.fwRunning := rfl
@[simp] theorem State.onLaunch_fwStaged (s : State) (l : Nat) (f : Launch → Launch) : (s.onLaunch l f).fwStaged = s.fwStaged := rfl
@[simp] theorem State.onLaunch_ownerPq (s : State) (l : Nat) (f : Launch → Launch) : (s.onLaunch l f).ownerPq = s.ownerPq := rfl
@[simp] theorem State.onLaunch_antiRollback (s : State) (l : Nat) (f : Launch → Launch) : (s.onLaunch l f).antiRollback = s.antiRollback := rfl
@[simp] theorem State.onLaunch_vendorDigest (s : State) (l : Nat) (f : Launch → Launch) : (s.onLaunch l f).vendorDigest = s.vendorDigest := rfl
@[simp] theorem State.onLaunch_ownerDigest (s : State) (l : Nat) (f : Launch → Launch) : (s.onLaunch l f).ownerDigest = s.ownerDigest := rfl
@[simp] theorem State.onLaunch_recovery (s : State) (l : Nat) (f : Launch → Launch) : (s.onLaunch l f).recovery = s.recovery := rfl
@[simp] theorem State.onLaunch_spdm (s : State) (l : Nat) (f : Launch → Launch) : (s.onLaunch l f).spdm = s.spdm := rfl
@[simp] theorem State.onLaunch_hostView (s : State) (l : Nat) (f : Launch → Launch) : (s.onLaunch l f).hostView = s.hostView := rfl

/-! ### onHart -/

@[simp] theorem State.onHart_fc (s : State) (d : Fin 4) (h : Fin 64) (f : Hart → Hart) : (s.onHart d h f).fc = s.fc := rfl
@[simp] theorem State.onHart_agenda (s : State) (d : Fin 4) (h : Fin 64) (f : Hart → Hart) : (s.onHart d h f).agenda = s.agenda := rfl
@[simp] theorem State.onHart_focus (s : State) (d : Fin 4) (h : Fin 64) (f : Hart → Hart) : (s.onHart d h f).focus = s.focus := rfl
@[simp] theorem State.onHart_freeCtr (s : State) (d : Fin 4) (h : Fin 64) (f : Hart → Hart) : (s.onHart d h f).freeCtr = s.freeCtr := rfl
@[simp] theorem State.onHart_opCtr (s : State) (d : Fin 4) (h : Fin 64) (f : Hart → Hart) : (s.onHart d h f).opCtr = s.opCtr := rfl
@[simp] theorem State.onHart_rings (s : State) (d : Fin 4) (h : Fin 64) (f : Hart → Hart) : (s.onHart d h f).rings = s.rings := rfl
@[simp] theorem State.onHart_stripes (s : State) (d : Fin 4) (h : Fin 64) (f : Hart → Hart) : (s.onHart d h f).stripes = s.stripes := rfl
@[simp] theorem State.onHart_elems (s : State) (d : Fin 4) (h : Fin 64) (f : Hart → Hart) : (s.onHart d h f).elems = s.elems := rfl
@[simp] theorem State.onHart_hbm (s : State) (d : Fin 4) (h : Fin 64) (f : Hart → Hart) : (s.onHart d h f).hbm = s.hbm := rfl
@[simp] theorem State.onHart_hbmKey (s : State) (d : Fin 4) (h : Fin 64) (f : Hart → Hart) : (s.onHart d h f).hbmKey = s.hbmKey := rfl
@[simp] theorem State.onHart_badGrans (s : State) (d : Fin 4) (h : Fin 64) (f : Hart → Hart) : (s.onHart d h f).badGrans = s.badGrans := rfl
@[simp] theorem State.onHart_versions (s : State) (d : Fin 4) (h : Fin 64) (f : Hart → Hart) : (s.onHart d h f).versions = s.versions := rfl
@[simp] theorem State.onHart_hostMem (s : State) (d : Fin 4) (h : Fin 64) (f : Hart → Hart) : (s.onHart d h f).hostMem = s.hostMem := rfl
@[simp] theorem State.onHart_keys (s : State) (d : Fin 4) (h : Fin 64) (f : Hart → Hart) : (s.onHart d h f).keys = s.keys := rfl
@[simp] theorem State.onHart_keyCmds (s : State) (d : Fin 4) (h : Fin 64) (f : Hart → Hart) : (s.onHart d h f).keyCmds = s.keyCmds := rfl
@[simp] theorem State.onHart_hdmBase (s : State) (d : Fin 4) (h : Fin 64) (f : Hart → Hart) : (s.onHart d h f).hdmBase = s.hdmBase := rfl
@[simp] theorem State.onHart_hdmSize (s : State) (d : Fin 4) (h : Fin 64) (f : Hart → Hart) : (s.onHart d h f).hdmSize = s.hdmSize := rfl
@[simp] theorem State.onHart_hdmWays (s : State) (d : Fin 4) (h : Fin 64) (f : Hart → Hart) : (s.onHart d h f).hdmWays = s.hdmWays := rfl
@[simp] theorem State.onHart_hdmGran (s : State) (d : Fin 4) (h : Fin 64) (f : Hart → Hart) : (s.onHart d h f).hdmGran = s.hdmGran := rfl
@[simp] theorem State.onHart_hdmOn (s : State) (d : Fin 4) (h : Fin 64) (f : Hart → Hart) : (s.onHart d h f).hdmOn = s.hdmOn := rfl
@[simp] theorem State.onHart_hdmErr (s : State) (d : Fin 4) (h : Fin 64) (f : Hart → Hart) : (s.onHart d h f).hdmErr = s.hdmErr := rfl
@[simp] theorem State.onHart_jobs (s : State) (d : Fin 4) (h : Fin 64) (f : Hart → Hart) : (s.onHart d h f).jobs = s.jobs := rfl
@[simp] theorem State.onHart_fwRunning (s : State) (d : Fin 4) (h : Fin 64) (f : Hart → Hart) : (s.onHart d h f).fwRunning = s.fwRunning := rfl
@[simp] theorem State.onHart_fwStaged (s : State) (d : Fin 4) (h : Fin 64) (f : Hart → Hart) : (s.onHart d h f).fwStaged = s.fwStaged := rfl
@[simp] theorem State.onHart_ownerPq (s : State) (d : Fin 4) (h : Fin 64) (f : Hart → Hart) : (s.onHart d h f).ownerPq = s.ownerPq := rfl
@[simp] theorem State.onHart_antiRollback (s : State) (d : Fin 4) (h : Fin 64) (f : Hart → Hart) : (s.onHart d h f).antiRollback = s.antiRollback := rfl
@[simp] theorem State.onHart_vendorDigest (s : State) (d : Fin 4) (h : Fin 64) (f : Hart → Hart) : (s.onHart d h f).vendorDigest = s.vendorDigest := rfl
@[simp] theorem State.onHart_ownerDigest (s : State) (d : Fin 4) (h : Fin 64) (f : Hart → Hart) : (s.onHart d h f).ownerDigest = s.ownerDigest := rfl
@[simp] theorem State.onHart_recovery (s : State) (d : Fin 4) (h : Fin 64) (f : Hart → Hart) : (s.onHart d h f).recovery = s.recovery := rfl
@[simp] theorem State.onHart_spdm (s : State) (d : Fin 4) (h : Fin 64) (f : Hart → Hart) : (s.onHart d h f).spdm = s.spdm := rfl
@[simp] theorem State.onHart_hostView (s : State) (d : Fin 4) (h : Fin 64) (f : Hart → Hart) : (s.onHart d h f).hostView = s.hostView := rfl

/-! ### onMe -/

@[simp] theorem State.onMe_fc (s : State) (f : Hart → Hart) : (s.onMe f).fc = s.fc := rfl
@[simp] theorem State.onMe_agenda (s : State) (f : Hart → Hart) : (s.onMe f).agenda = s.agenda := rfl
@[simp] theorem State.onMe_focus (s : State) (f : Hart → Hart) : (s.onMe f).focus = s.focus := rfl
@[simp] theorem State.onMe_freeCtr (s : State) (f : Hart → Hart) : (s.onMe f).freeCtr = s.freeCtr := rfl
@[simp] theorem State.onMe_opCtr (s : State) (f : Hart → Hart) : (s.onMe f).opCtr = s.opCtr := rfl
@[simp] theorem State.onMe_rings (s : State) (f : Hart → Hart) : (s.onMe f).rings = s.rings := rfl
@[simp] theorem State.onMe_stripes (s : State) (f : Hart → Hart) : (s.onMe f).stripes = s.stripes := rfl
@[simp] theorem State.onMe_elems (s : State) (f : Hart → Hart) : (s.onMe f).elems = s.elems := rfl
@[simp] theorem State.onMe_hbm (s : State) (f : Hart → Hart) : (s.onMe f).hbm = s.hbm := rfl
@[simp] theorem State.onMe_hbmKey (s : State) (f : Hart → Hart) : (s.onMe f).hbmKey = s.hbmKey := rfl
@[simp] theorem State.onMe_badGrans (s : State) (f : Hart → Hart) : (s.onMe f).badGrans = s.badGrans := rfl
@[simp] theorem State.onMe_versions (s : State) (f : Hart → Hart) : (s.onMe f).versions = s.versions := rfl
@[simp] theorem State.onMe_hostMem (s : State) (f : Hart → Hart) : (s.onMe f).hostMem = s.hostMem := rfl
@[simp] theorem State.onMe_keys (s : State) (f : Hart → Hart) : (s.onMe f).keys = s.keys := rfl
@[simp] theorem State.onMe_keyCmds (s : State) (f : Hart → Hart) : (s.onMe f).keyCmds = s.keyCmds := rfl
@[simp] theorem State.onMe_hdmBase (s : State) (f : Hart → Hart) : (s.onMe f).hdmBase = s.hdmBase := rfl
@[simp] theorem State.onMe_hdmSize (s : State) (f : Hart → Hart) : (s.onMe f).hdmSize = s.hdmSize := rfl
@[simp] theorem State.onMe_hdmWays (s : State) (f : Hart → Hart) : (s.onMe f).hdmWays = s.hdmWays := rfl
@[simp] theorem State.onMe_hdmGran (s : State) (f : Hart → Hart) : (s.onMe f).hdmGran = s.hdmGran := rfl
@[simp] theorem State.onMe_hdmOn (s : State) (f : Hart → Hart) : (s.onMe f).hdmOn = s.hdmOn := rfl
@[simp] theorem State.onMe_hdmErr (s : State) (f : Hart → Hart) : (s.onMe f).hdmErr = s.hdmErr := rfl
@[simp] theorem State.onMe_jobs (s : State) (f : Hart → Hart) : (s.onMe f).jobs = s.jobs := rfl
@[simp] theorem State.onMe_fwRunning (s : State) (f : Hart → Hart) : (s.onMe f).fwRunning = s.fwRunning := rfl
@[simp] theorem State.onMe_fwStaged (s : State) (f : Hart → Hart) : (s.onMe f).fwStaged = s.fwStaged := rfl
@[simp] theorem State.onMe_ownerPq (s : State) (f : Hart → Hart) : (s.onMe f).ownerPq = s.ownerPq := rfl
@[simp] theorem State.onMe_antiRollback (s : State) (f : Hart → Hart) : (s.onMe f).antiRollback = s.antiRollback := rfl
@[simp] theorem State.onMe_vendorDigest (s : State) (f : Hart → Hart) : (s.onMe f).vendorDigest = s.vendorDigest := rfl
@[simp] theorem State.onMe_ownerDigest (s : State) (f : Hart → Hart) : (s.onMe f).ownerDigest = s.ownerDigest := rfl
@[simp] theorem State.onMe_recovery (s : State) (f : Hart → Hart) : (s.onMe f).recovery = s.recovery := rfl
@[simp] theorem State.onMe_spdm (s : State) (f : Hart → Hart) : (s.onMe f).spdm = s.spdm := rfl
@[simp] theorem State.onMe_hostView (s : State) (f : Hart → Hart) : (s.onMe f).hostView = s.hostView := rfl

/-! ### Read after write -/

@[simp] theorem State.ring_setRing (s : State) (r : RingAt) (x : Ring) : (s.setRing r x).ring r = x := by
  simp [State.ring, State.setRing]

@[simp] theorem State.die_setDie (s : State) (d : Fin 4) (x : Die) : (s.setDie d x).die d = x := by
  simp [State.die, State.setDie]

theorem State.die_setDie_ne (s : State) (d e : Fin 4) (x : Die) (h : e ≠ d) : (s.setDie d x).die e = s.die e := by
  simp only [State.die, State.setDie]
  exact Vector.getElem_set_ne _ _ (by intro k; exact h (Fin.ext k.symm))

@[simp] theorem State.die_onDie (s : State) (d : Fin 4) (f : Die → Die) : (s.onDie d f).die d = f (s.die d) := by
  simp [State.onDie]

@[simp] theorem State.ring_onRing (s : State) (r : RingAt) (f : Ring → Ring) : (s.onRing r f).ring r = f (s.ring r) := by
  simp [State.onRing]

@[simp] theorem State.hart_setHart (s : State) (d : Fin 4) (h : Fin 64) (x : Hart) : (s.setHart d h x).hart d h = x := by
  simp [State.hart, State.setHart]

@[simp] theorem State.hart_onHart (s : State) (d : Fin 4) (h : Fin 64) (f : Hart → Hart) : (s.onHart d h f).hart d h = f (s.hart d h) := by
  simp [State.onHart]

@[simp] theorem tabFind_tabPut {α : Type} (k : Nat) (x : α) (t : Tab α) : tabFind k (tabPut k x t) = some x := by
  induction t with
  | nil => simp [tabPut, tabFind]
  | cons p r ih =>
    obtain ⟨j, y⟩ := p
    simp only [tabPut]
    split
    · simp [tabFind]
    · split
      · simp [tabFind]
      · next h => simp [tabFind, h, ih]

@[simp] theorem State.stripe_setStripe (s : State) (p : StripeAt) (x : Stripe) : (s.setStripe p x).stripe p = x := by
  simp [State.stripe, State.setStripe, tabGet]

@[simp] theorem State.elem_setElem (s : State) (e : ElemAt) (x : Elem) : (s.setElem e x).elem e = x := by
  simp [State.elem, State.setElem, tabGet]

@[simp] theorem State.elem_onElem (s : State) (e : ElemAt) (f : Elem → Elem) : (s.onElem e f).elem e = f (s.elem e) := by
  simp [State.onElem]

/-- Registers of a hart: x0 reads zero, and a write of another is read. -/
@[simp] theorem Hart.reg_zero (h : Hart) : h.reg 0 = 0 := by simp [Hart.reg]
@[simp] theorem Hart.setReg_zero (h : Hart) (v : Dword) : h.setReg 0 v = h := by simp [Hart.setReg]
theorem Hart.reg_setReg (h : Hart) (r : BitVec 5) (v : Dword) (hr : r ≠ 0) : (h.setReg r v).reg r = v := by
  unfold Hart.reg Hart.setReg
  rw [if_neg hr, if_neg hr]
  simp

end Sys2Proof.Machine
end

