-- ==== Sys2Proof/Laws/Firing.lean ====
section
/-! SUPPORT. What the commit of a firing does: the outcome of a firing without and with a fault condition, the elements that it touches, and what
its destinations receive. -/

namespace Sys2Proof.Machine

/-! ### Places are told apart by their keys -/

theorem RingAt.num_inj {a b : RingAt} (h : a.num = b.num) : a = b := by
  obtain ⟨d, r⟩ := a
  obtain ⟨d', r'⟩ := b
  simp only [RingAt.num] at h
  have h1 : d = d' := by ext; omega
  have h2 : r = r' := by ext; omega
  rw [h1, h2]

theorem StripeAt.key_inj {a b : StripeAt} (h : a.key = b.key) : a = b := by
  obtain ⟨r, p⟩ := a
  obtain ⟨r', p'⟩ := b
  simp only [StripeAt.key] at h
  have h1 : r = r' := RingAt.num_inj (by omega)
  have h2 : p = p' := by ext; omega
  rw [h1, h2]

theorem ElemAt.key_inj {a b : ElemAt} (h : a.key = b.key) : a = b := by
  obtain ⟨p, n⟩ := a
  obtain ⟨p', n'⟩ := b
  simp only [ElemAt.key] at h
  have h1 : p = p' := StripeAt.key_inj (by omega)
  have h2 : n = n' := by ext; omega
  rw [h1, h2]

theorem RingAt.ix_inj {a b : RingAt} (h : a.ix = b.ix) : a = b := RingAt.num_inj (by simpa [RingAt.ix, RingAt.num] using h)

theorem State.elem_setElem_ne {a b : ElemAt} (h : a ≠ b) (s : State) (x : Elem) : (s.setElem b x).elem a = s.elem a := by
  simp only [State.elem, State.setElem, tabGet]
  rw [tabFind_tabPut_ne fun h' => h (ElemAt.key_inj h')]

theorem State.elem_onElem_ne {a b : ElemAt} (h : a ≠ b) (s : State) (f : Elem → Elem) : (s.onElem b f).elem a = s.elem a :=
  State.elem_setElem_ne h s _

theorem State.elem_of_elems {s t : State} (h : t.elems = s.elems) (e : ElemAt) : t.elem e = s.elem e := by simp only [State.elem, h]

theorem State.stripe_of_stripes {s t : State} (h : t.stripes = s.stripes) (p : StripeAt) : t.stripe p = s.stripe p := by
  simp only [State.stripe, h]

/-! ### Faults -/

@[simp] theorem lowestFlt_nil : lowestFlt [] = none := rfl

theorem lowestFlt_none {l : List Flt} : lowestFlt l = none ↔ l = [] := by
  cases l with
  | nil => simp
  | cons f fs =>
    simp only [lowestFlt, reduceCtorEq, iff_false]
    split
    · split <;> simp
    · simp

/-- A firing without a fault condition commits. -/
theorem State.commit_ok {s : State} {x : Firing} {c : Commit} (h1 : s.tagFaults x c.tag c.b (c.results.any fun p => isOut p.1) = [])
    (h2 : c.faults = []) : s.commit x c = s.commitOk x c := by
  simp [State.commit, h1, h2]

/-- A firing with a fault condition takes the fault of the lowest code and does nothing else. -/
theorem State.commit_fault {s : State} {x : Firing} {c : Commit} {f : Flt}
    (h : lowestFlt (s.tagFaults x c.tag c.b (c.results.any fun p => isOut p.1) ++ c.faults) = some f) :
    s.commit x c = s.elemFault x.el x.ical (some x.slot) 0 x.ctx x.iter f := by
  simp [State.commit, h]

/-! ### What tag actions leave alone -/

section Marks
variable (s : State) (l : Nat) (d : Fin 4)

@[simp] theorem State.sendSlot_elems (t : Fin 4) (x : Slot) : (s.sendSlot d t x).elems = s.elems := by
  unfold State.sendSlot; split <;> rfl
@[simp] theorem State.sendSlot_stripes (t : Fin 4) (x : Slot) : (s.sendSlot d t x).stripes = s.stripes := by
  unfold State.sendSlot; split <;> rfl
@[simp] theorem State.sendSlot_rings (t : Fin 4) (x : Slot) : (s.sendSlot d t x).rings = s.rings := by
  unfold State.sendSlot; split <;> rfl

theorem foldl_keeps {α β γ : Type} (p : β → γ) (f : β → α → β) (hf : ∀ b a, p (f b a) = p b) (as : List α) (b : β) :
    p (as.foldl f b) = p b := by
  induction as generalizing b with
  | nil => rfl
  | cons a as ih => rw [List.foldl_cons, ih, hf]

@[simp] theorem State.sendMark_elems (mk : Nat → Slot) : (s.sendMark l d mk).elems = s.elems :=
  foldl_keeps State.elems _ (fun _ _ => by simp) _ _
@[simp] theorem State.sendMark_stripes (mk : Nat → Slot) : (s.sendMark l d mk).stripes = s.stripes :=
  foldl_keeps State.stripes _ (fun _ _ => by simp) _ _
@[simp] theorem State.sendMark_rings (mk : Nat → Slot) : (s.sendMark l d mk).rings = s.rings :=
  foldl_keeps State.rings _ (fun _ _ => by simp) _ _

variable (tag : TagAct) (v : BitVec 12)

@[simp] theorem State.killIter_elems : (s.killIter l d v).elems = s.elems := by simp [State.killIter]
@[simp] theorem State.killIter_stripes : (s.killIter l d v).stripes = s.stripes := by simp [State.killIter]
@[simp] theorem State.killIter_rings : (s.killIter l d v).rings = s.rings := by simp [State.killIter]

/-- A tag action acts on allocators and links only. -/
@[simp] theorem State.tagState_elems : (s.tagState l d tag v).elems = s.elems := by
  unfold State.tagState
  split
  all_goals first | exact foldl_keeps State.elems _ (fun _ _ => State.killIter_elems _ _ _ _) _ _ | simp [State.allocIter, State.retireIter]
@[simp] theorem State.tagState_stripes : (s.tagState l d tag v).stripes = s.stripes := by
  unfold State.tagState
  split
  all_goals first | exact foldl_keeps State.stripes _ (fun _ _ => State.killIter_stripes _ _ _ _) _ _ | simp [State.allocIter, State.retireIter]
@[simp] theorem State.tagState_rings : (s.tagState l d tag v).rings = s.rings := by
  unfold State.tagState
  split
  all_goals first | exact foldl_keeps State.rings _ (fun _ _ => State.killIter_rings _ _ _ _) _ _ | simp [State.allocIter, State.retireIter]

end Marks

/-! ### The element of a firing -/

@[simp] theorem Elem.plane_setPlane (e : Elem) (i : Bool) (p : Plane) : (e.setPlane i p).plane i = p := by
  cases i <;> rfl
@[simp] theorem Elem.out_setPlane (e : Elem) (i : Bool) (p : Plane) : (e.setPlane i p).out = e.out := by
  cases i <;> rfl
@[simp] theorem Elem.plane_setQueue (e : Elem) (i j : Bool) (c : Fin 8) (q : List Token) : (e.setQueue i c q).plane j = e.plane j := by
  cases i <;> cases j <;> rfl
@[simp] theorem Elem.out_setQueue (e : Elem) (i : Bool) (c : Fin 8) (q : List Token) : (e.setQueue i c q).out = e.out := by
  cases i <;> rfl

/-- The claim takes tokens and pairs, and leaves planes and staging. -/
theorem State.claim_plane (s : State) (x : Firing) (q j : Bool) (e : ElemAt) : ((s.claim x q).elem e).plane j = (s.elem e).plane j := by
  by_cases h : e = x.el
  · subst h
    unfold State.claim
    dsimp only
    split
    · rfl
    · split
      · simp
      · split
        · rw [State.elem_onElem]
          split <;> cases j <;> rfl
        · rfl
  · unfold State.claim
    dsimp only
    split
    · rfl
    · split
      · rw [State.elem_onElem_ne h]
      · split
        · rw [State.elem_onElem_ne h]
        · rfl

theorem State.claim_out (s : State) (x : Firing) (q : Bool) (e : ElemAt) : ((s.claim x q).elem e).out = (s.elem e).out := by
  by_cases h : e = x.el
  · subst h
    unfold State.claim
    dsimp only
    split
    · rfl
    · split
      · simp
      · split
        · rw [State.elem_onElem]
          split <;> rfl
        · rfl
  · unfold State.claim
    dsimp only
    split
    · rfl
    · split
      · rw [State.elem_onElem_ne h]
      · split
        · rw [State.elem_onElem_ne h]
        · rfl

/-- Staging appends to one channel and leaves planes. -/
@[simp] theorem State.stage_plane (s : State) (e : ElemAt) (i j : Bool) (c : Fin 8) (t : Token) :
    ((s.stage e i c t).elem e).plane j = (s.elem e).plane j := by
  simp only [State.stage, State.elem_onElem]
  cases j <;> rfl

theorem State.stage_out (s : State) (e : ElemAt) (i : Bool) (c : Fin 8) (t : Token) :
    ((s.stage e i c t).elem e).out = (s.elem e).out.set c ((s.elem e).out[c] ++ [⟨t, (s.stripe e.at_).parity i, i⟩]) := by
  simp [State.stage]

/-! ### Registers and predicates -/

theorem Plane.write_d (p : Plane) (d : BitVec 5) (r : Reg) (n : Fin 8) (h : d.toNat = n.val) : (p.write d r).d[n] = r := by
  have h8 : d.toNat < 8 := by omega
  unfold Plane.write
  simp only [h8, if_true]
  have : d.toNat % 8 = n.val := by omega
  simp [this]

theorem Plane.write_p (p : Plane) (d : BitVec 5) (r : Reg) (n : Fin 8) (h : d.toNat = 16 + n.val) :
    (p.write d r).p[n] = bit (r.lane 0).toNat 0 := by
  have h8 : ¬ d.toNat < 8 := by omega
  have h16 : 16 ≤ d.toNat ∧ d.toNat < 24 := by omega
  unfold Plane.write
  simp only [h8, h16, if_false, if_true, and_self]
  have : d.toNat % 8 = n.val := by omega
  simp [this]

@[simp] theorem Plane.beatDone_d (p : Plane) (s : Fin 16) : (p.beatDone s).d = p.d := rfl
@[simp] theorem Plane.beatDone_p (p : Plane) (s : Fin 16) : (p.beatDone s).p = p.p := rfl

theorem outToken_body {tag : TagAct} (h : tag ≠ 7) (ctx : BitVec 6) (iter : BitVec 12) (eos : Bool) (a : Alloc) (r : Reg) :
    (outToken tag ctx iter eos a r).body = r := by
  unfold outToken
  rw [if_neg h]

theorem outToken_kill (tag : TagAct) (ctx : BitVec 6) (iter : BitVec 12) (eos : Bool) (a : Alloc) (r : Reg) :
    (outToken tag ctx iter eos a r).kill = decide (tag = 7) := by
  unfold outToken
  dsimp only
  split
  · next h => exact (decide_eq_true h).symm
  · next h => exact (decide_eq_false h).symm

/-- The plane of the firing's element after its commit, when what else it does leaves the elements alone: the results in their places. -/
theorem State.commitOk_plane (s : State) (x : Firing) (c : Commit) (hw : ∀ t, (c.world t).elems = t.elems) :
    ((s.commitOk x c).elem x.el).plane x.ical =
      (c.results.foldl (fun p r => p.write r.1 r.2) (c.plane ((s.elem x.el).plane x.ical))).beatDone x.slot := by
  have st : ∀ (l : List (Fin 8 × Token)) (t : State),
      ((l.foldl (fun s p => s.stage x.el x.ical p.1 p.2) t).elem x.el).plane x.ical = (t.elem x.el).plane x.ical :=
    fun l t => foldl_keeps (fun t : State => (t.elem x.el).plane x.ical) _ (fun b a => State.stage_plane b _ _ _ _ _) l t
  unfold State.commitOk
  dsimp only
  rw [State.elem_of_elems (hw _), st, State.elem_onElem, Elem.plane_setPlane, State.elem_of_elems (State.tagState_elems _ _ _ _ _),
    State.claim_plane]

/-- Its staging after a commit with one result: an out channel takes one token. -/
theorem State.commitOk_out (s : State) (x : Firing) (c : Commit) (d : BitVec 5) (r : Reg) (hr : c.results = [(d, r)])
    (hw : ∀ t, (c.world t).elems = t.elems) (n : Fin 8) (hn : d.toNat = 8 + n.val) :
    ∃ k : LinkTok, ((s.commitOk x c).elem x.el).out[n] = (s.elem x.el).out[n] ++ [k] ∧ (c.tag ≠ 7 → k.tok.body = r) ∧
      k.tok.kill = decide (c.tag = 7) := by
  have ho : isOut d = true := by simp [isOut]; omega
  have hc : Fin.ofNat 8 d.toNat = n := by ext; simp; omega
  have ht : ∀ v a, x.outTokens c v a =
      [(n, outToken c.tag (x.outCtx c.tag) (x.outIter c.tag v c.b) (outEos c.tag (x.readEos c)) a r)] := by
    intro v a
    simp only [Firing.outTokens, hr, List.filter_cons, ho, if_true, List.filter_nil, List.map_cons, List.map_nil, hc]
  have : ∃ (t : State) (k : Token), (s.commitOk x c).elems = (t.stage x.el x.ical n k).elems ∧ (t.elem x.el).out = (s.elem x.el).out ∧
      (c.tag ≠ 7 → k.body = r) ∧ k.kill = decide (c.tag = 7) := by
    unfold State.commitOk
    dsimp only
    rw [hw, ht]
    refine ⟨_, _, rfl, ?_, fun h => outToken_body h _ _ _ _ _, outToken_kill _ _ _ _ _ _⟩
    rw [State.elem_onElem, Elem.out_setPlane, State.elem_of_elems (State.tagState_elems _ _ _ _ _), State.claim_out]
  obtain ⟨t, k, h1, h2, h3, h4⟩ := this
  refine ⟨⟨k, (t.stripe x.el.at_).parity x.ical, x.ical⟩, ?_, h3, h4⟩
  rw [State.elem_of_elems h1, State.stage_out, h2]
  simp

/-- What a commit with one result delivers, when what else it does leaves the elements alone. -/
theorem State.commitOk_delivers (s : State) (c : Commit) (d : BitVec 5) (r : Reg) (hr : c.results = [(d, r)])
    (hw : ∀ t, (c.world t).elems = t.elems) : Delivered s (s.commitOk s.firing c) d c.tag r := by
  refine ⟨fun n hn => ?_, fun n hn => State.commitOk_out s s.firing c d r hr hw n hn, fun n hn => ?_⟩
  · rw [State.commitOk_plane s s.firing c hw, hr]
    exact Plane.write_d _ _ _ n hn
  · rw [State.commitOk_plane s s.firing c hw, hr]
    exact Plane.write_p _ _ _ n hn

/-! ### The two shapes of an element firing -/

theorem Firing.elemOperand_nil {x : Firing} {f : Fmt} {sel : BitVec 5} (h : x.carries f sel) : x.elemOperand f sel = [] :=
  if_neg fun h' => h'.2 (h h'.1)

theorem Firing.inSet_nil {x : Firing} {set : FmtSet} {a : BitVec 5} (h : set (x.opFmt (x.src a)) = true) : x.inSet set a = [] := by
  simp [Firing.inSet, h]

/-- A firing with element operand A and no fault gives its operation's result. -/
theorem fire1_gives {s : State} {i : Instr} {set : FmtSet} {op : OpIn → OpOut} {a d : BitVec 5} {t : BitVec 4} {q : Bool}
    (hi : exec i s = .next (fire1 set op a d t q s)) (hset : set (s.firing.opFmt (s.firing.src a)) = true)
    (ha : s.firing.carries (s.firing.opFmt (s.firing.src a)) a) (ht : s.tagsFit t Reg.zero (isOut d)) {r : Reg}
    (hr : (op (s.firing.opIn a 24 24)).1 = r) : Gives s i d t r := by
  refine ⟨_, hi, ?_⟩
  unfold fire1
  dsimp only
  rw [State.commit_ok]
  · subst hr
    exact State.commitOk_delivers s _ d _ rfl fun _ => rfl
  · simpa [State.tagsFit] using ht
  · show s.firing.inSet set a ++ s.firing.elemOperand (s.firing.opFmt (s.firing.src a)) a = []
    rw [Firing.inSet_nil hset, Firing.elemOperand_nil ha]; rfl

/-- A firing with element operand A and operand B, and no fault, gives its operation's result. -/
theorem fire2_gives {s : State} {i : Instr} {set : FmtSet} {elemB : Bool} {op : OpIn → OpOut} {a b d : BitVec 5} {t : BitVec 4} {q : Bool}
    (hi : exec i s = .next (fire2 set elemB op a b d t q s)) (hset : set (s.firing.opFmt (s.firing.src a)) = true)
    (ha : s.firing.carries (s.firing.opFmt (s.firing.src a)) a)
    (hb : elemB = true → s.firing.carries (s.firing.opFmt (s.firing.src a)) b) (ht : s.tagsFit t (s.firing.src b) (isOut d)) {r : Reg}
    (hr : (op (s.firing.opIn a b d)).1 = r) : Gives s i d t r := by
  refine ⟨_, hi, ?_⟩
  unfold fire2
  dsimp only
  rw [State.commit_ok]
  · subst hr
    exact State.commitOk_delivers s _ d _ rfl fun _ => rfl
  · simpa [State.tagsFit, Firing.opIn] using ht
  · show s.firing.inSet set a ++ s.firing.elemOperand (s.firing.opFmt (s.firing.src a)) a ++
      (if elemB then s.firing.elemOperand (s.firing.opFmt (s.firing.src a)) b else []) = []
    rw [Firing.inSet_nil hset, Firing.elemOperand_nil ha]
    cases elemB
    · rfl
    · rw [if_pos rfl, Firing.elemOperand_nil (hb rfl)]; rfl

end Sys2Proof.Machine
end

