-- ==== Sys2Proof/Laws/Fault.lean ====
section
/-! SUPPORT. Taking a fault (01 R39-R43): what the record holds and what else changes. -/

namespace Sys2Proof.Machine

@[simp] theorem State.terminateJob_elems (s : State) (p : BitVec 20) : (s.terminateJob p).elems = s.elems := rfl
@[simp] theorem State.terminateJob_stripes (s : State) (p : BitVec 20) : (s.terminateJob p).stripes = s.stripes := rfl
@[simp] theorem State.terminateJob_rings (s : State) (p : BitVec 20) : (s.terminateJob p).rings = s.rings := rfl
@[simp] theorem State.terminateJob_hbm (s : State) (p : BitVec 20) : (s.terminateJob p).hbm = s.hbm := rfl
@[simp] theorem State.terminateJob_hostMem (s : State) (p : BitVec 20) : (s.terminateJob p).hostMem = s.hostMem := rfl
@[simp] theorem State.terminateJob_keys (s : State) (p : BitVec 20) : (s.terminateJob p).keys = s.keys := rfl

/-- A terminated job's queues are stopped on every die (04 R152). -/
theorem State.die_terminateJob (s : State) (p : BitVec 20) (d : Fin 4) : (s.terminateJob p).die d = Die.stopJob p (s.die d) := by
  simp [State.die, State.terminateJob]

theorem State.die_onRing (s : State) (r : RingAt) (f : Ring → Ring) (d : Fin 4) : (s.onRing r f).die d = s.die d := rfl

theorem State.ring_of_rings {s t : State} (h : t.rings = s.rings) (r : RingAt) : t.ring r = s.ring r := by simp only [State.ring, h]

/-- The record that a fault leaves, less its number: the place and tags that its engine gives, with the time and the fault's own fields. -/
def State.faultRec (s : State) (f : Flt) (r : FRec) : FRec :=
  { r with pasid := if r.ctxValid then r.pasid else 0, time := .ofNat 64 s.fc, aux := .ofNat 64 f.aux, disp := .ofNat 2 f.disp,
           code := .ofNat 8 f.code, engine := .ofNat 4 f.engine }

/-! ### Records that wait (01 R41) -/

theorem insertBy_length {α : Type} (le : α → α → Bool) (x : α) (l : List α) : (insertBy le x l).length = l.length + 1 := by
  induction l with
  | nil => rfl
  | cons y ys ih => unfold insertBy; split <;> simp [ih]

theorem mem_insertBy {α : Type} (le : α → α → Bool) (x y : α) (l : List α) : y ∈ insertBy le x l ↔ y = x ∨ y ∈ l := by
  induction l with
  | nil => simp [insertBy]
  | cons z zs ih =>
    unfold insertBy
    split
    · simp
    · simp [ih]; tauto

theorem numberFrom_length (n : Word) (l : List FbEntry) : (numberFrom n l).length = l.length := by
  induction l generalizing n with
  | nil => rfl
  | cons e es ih => simp [numberFrom, ih]

/-- Numbering a record changes nothing else of it. -/
theorem mem_numberFrom {n : Word} {l : List FbEntry} {f : FbEntry} (h : f ∈ numberFrom n l) :
    ∃ e ∈ l, ∃ k, f = { e with rec_ := { e.rec_ with seq := k } } := by
  induction l generalizing n with
  | nil => simp [numberFrom] at h
  | cons e es ih =>
    rcases List.mem_cons.1 h with rfl | h
    · exact ⟨e, List.mem_cons_self, n, rfl⟩
    · obtain ⟨e', he, k, rfl⟩ := ih h
      exact ⟨e', List.mem_cons_of_mem _ he, k, rfl⟩

theorem numberFrom_mem {n : Word} {l : List FbEntry} {e : FbEntry} (h : e ∈ l) :
    ∃ k, { e with rec_ := { e.rec_ with seq := k } } ∈ numberFrom n l := by
  induction l generalizing n with
  | nil => cases h
  | cons a as ih =>
    rcases List.mem_cons.1 h with rfl | h
    · exact ⟨n, List.mem_cons_self⟩
    · obtain ⟨k, hk⟩ := ih (n := nextSeq n) h
      exact ⟨k, List.mem_cons_of_mem _ hk⟩

/-- A record that joins those of its die: it is there, numbered, and the records of other fcs are untouched. -/
theorem Die.addFault_waits (x : Die) (e : FbEntry) (fc : Nat) (h : e.rec_.time = .ofNat 64 fc) :
    ∃ k, Waits x (x.addFault e) fc { e with rec_ := { e.rec_ with seq := k } } := by
  let now : FbEntry → Bool := fun f => f.rec_.time == .ofNat 64 fc
  let group := x.faultWait.filter now
  let first := (group.head?.map fun f => f.rec_.seq).getD (nextSeq x.faultSeq)
  let g' := numberFrom first (insertBy (fun a b => decide (a.rec_.place < b.rec_.place)) e group)
  have hw : (x.addFault e).faultWait = (x.faultWait.filter fun f => !now f) ++ g' := by
    simp only [Die.addFault, h]; rfl
  have hg : ∀ f ∈ g', now f = true := by
    intro f hf
    obtain ⟨d, hd, k, rfl⟩ := mem_numberFrom hf
    rcases (mem_insertBy _ _ _ _).1 hd with rfl | hd
    · simp [now, h]
    · exact (List.mem_filter.1 hd).2
  have hf : (g'.filter fun f => !now f) = [] := List.filter_eq_nil_iff.2 fun f hf => by simp [hg f hf]
  obtain ⟨k, hk⟩ := numberFrom_mem (n := first) ((mem_insertBy (fun a b : FbEntry => decide (a.rec_.place < b.rec_.place)) e e group).2 (.inl rfl))
  have hlen : (x.faultWait.filter fun f => !now f).length + group.length = x.faultWait.length := by
    have := List.length_eq_length_filter_add (l := x.faultWait) now
    simp only [group]; omega
  unfold Waits
  rw [hw]
  have len : ((x.faultWait.filter fun f => !now f) ++ g').length = x.faultWait.length + 1 := by
    simp only [List.length_append, g', numberFrom_length, insertBy_length]; omega
  have others : (((x.faultWait.filter fun f => !now f) ++ g').filter fun f => !now f) = x.faultWait.filter fun f => !now f := by
    simp [List.filter_append, hf]
  by_cases ha : x.faultWait.any now = true
  · exact ⟨k, List.mem_append_right _ hk, h, rfl, len, others, fun h' => absurd (ha.symm.trans h') (by decide)⟩
  · have ha : x.faultWait.any now = false := by simpa using ha
    have hgr : group = [] := List.filter_eq_nil_iff.2 fun f hf => by simpa using List.any_eq_false.1 ha f hf
    have hall : (x.faultWait.filter fun f => !now f) = x.faultWait :=
      List.filter_eq_self.2 fun f hf => by simpa using List.any_eq_false.1 ha f hf
    have hg1 : g' = [{ e with rec_ := { e.rec_ with seq := nextSeq x.faultSeq } }] := by
      simp only [g', first, hgr]; rfl
    refine ⟨nextSeq x.faultSeq, List.mem_append_right _ (by simp [hg1]), h, rfl, len, others, fun _ => ⟨?_, rfl⟩⟩
    rw [hall, hg1]

section Take
variable (s : State) (d : Fin 4) (ring : Option (Fin 4)) (queue : Option (BitVec 20 × BitVec 16)) (page : Nat) (f : Flt) (r : FRec)

@[simp] theorem State.takeFault_elems : (s.takeFault d ring queue page f r).elems = s.elems := by
  unfold State.takeFault; dsimp only; split <;> split <;> (try split) <;> rfl
@[simp] theorem State.takeFault_stripes : (s.takeFault d ring queue page f r).stripes = s.stripes := by
  unfold State.takeFault; dsimp only; split <;> split <;> (try split) <;> rfl
@[simp] theorem State.takeFault_hbm : (s.takeFault d ring queue page f r).hbm = s.hbm := by
  unfold State.takeFault; dsimp only; split <;> split <;> (try split) <;> rfl
@[simp] theorem State.takeFault_hostMem : (s.takeFault d ring queue page f r).hostMem = s.hostMem := by
  unfold State.takeFault; dsimp only; split <;> split <;> (try split) <;> rfl
@[simp] theorem State.takeFault_keys : (s.takeFault d ring queue page f r).keys = s.keys := by
  unfold State.takeFault; dsimp only; split <;> split <;> (try split) <;> rfl
@[simp] theorem State.takeFault_fc : (s.takeFault d ring queue page f r).fc = s.fc := by
  unfold State.takeFault; dsimp only; split <;> split <;> (try split) <;> rfl

/-- On its die a fault adds its record, and may stop the queues of a job. -/
theorem State.takeFault_die :
    let x := Die.addFault ⟨s.faultRec f r, queue, queue.isSome, true⟩ (s.die d)
    (s.takeFault d ring queue page f r).die d = if f.disp = 1 then Die.stopJob r.pasid x else x := by
  unfold State.takeFault
  dsimp only
  split
  · rw [State.die_terminateJob]
    congr 1
    split
    · split
      · exact (State.die_onRing _ _ _ _).trans (State.die_onDie _ _ _)
      · exact State.die_onDie _ _ _
    · exact State.die_onDie _ _ _
  · split
    · split
      · exact (State.die_onRing _ _ _ _).trans (State.die_onDie _ _ _)
      · exact State.die_onDie _ _ _
    · exact State.die_onDie _ _ _

/-- The record waits in its engine, for the queue of the job and for the fault log. -/
theorem State.takeFault_waits :
    ∃ k, Waits (s.die d) ((s.takeFault d ring queue page f r).die d) s.fc ⟨{ s.faultRec f r with seq := k }, queue, queue.isSome, true⟩ := by
  rw [State.takeFault_die]
  obtain ⟨k, h⟩ := Die.addFault_waits (s.die d) ⟨s.faultRec f r, queue, queue.isSome, true⟩ s.fc rfl
  exact ⟨k, by split <;> exact h⟩

/-- The ring holds for the context of a record that names one, unless it is a device fault. -/
theorem State.takeFault_holds (k : Fin 4) (hc : r.ctxValid = true) (hd : f.disp ≠ 2) :
    ((s.takeFault d (some k) queue page f r).ring ⟨d, k⟩).holds r.ctx = true := by
  unfold State.takeFault
  dsimp only
  split
  · rw [State.ring_of_rings (State.terminateJob_rings _ _)]
    split
    · simp [Ring.holds]
    · next h => exact absurd ⟨hc, hd⟩ h
  · split
    · simp [Ring.holds]
    · next h => exact absurd ⟨hc, hd⟩ h

end Take

/-- A fault of a firing that terminates its job is taken as 01 R39 to R43 say. -/
theorem State.elemFault_taken (s : State) (f : Flt) (hd : f.disp = 1) :
    FaultTaken s (.next (s.elemFault s.firing.el s.firing.ical (some s.firing.slot) 0 s.firing.ctx s.firing.iter f)) f.code f.aux := by
  have hd2 : f.disp ≠ 2 := by omega
  obtain ⟨k, hw⟩ := State.takeFault_waits s s.firing.el.at_.ring.die (some s.firing.el.at_.ring.ring) _ 0 f _
  refine ⟨_, _, rfl, State.takeFault_elems _ _ _ _ _ _ _, State.takeFault_stripes _ _ _ _ _ _ _, State.takeFault_hbm _ _ _ _ _ _ _,
    State.takeFault_hostMem _ _ _ _ _ _ _, hw, State.takeFault_holds _ _ _ _ _ _ _ rfl (by simpa using hd2), rfl, rfl, ?_, rfl, rfl, rfl, rfl, rfl, rfl,
    rfl, rfl⟩
  simp [State.faultRec, hd]

end Sys2Proof.Machine
end

