-- ==== Sys2Proof/Laws/Vector.lean ====
section
/-! SUPPORT. Payloads by lane and by element: what a built payload holds, and that a rounded element fits its width. -/

namespace Sys2Proof.Machine

/-! ### Lanes -/

theorem Lanes.lane_ofFn (g : Nat → Word) (i : Nat) : Lanes.lane (Lanes.ofFn g) i = if i < 16 then g i else 0 := by
  unfold Lanes.lane
  split
  · next h =>
    unfold Lanes.ofFn
    obtain h' : i = 0 ∨ i = 1 ∨ i = 2 ∨ i = 3 ∨ i = 4 ∨ i = 5 ∨ i = 6 ∨ i = 7 ∨ i = 8 ∨ i = 9 ∨ i = 10 ∨ i = 11 ∨ i = 12 ∨ i = 13 ∨
      i = 14 ∨ i = 15 := by omega
    rcases h' with h' | h' | h' | h' | h' | h' | h' | h' | h' | h' | h' | h' | h' | h' | h' | h' <;> subst h' <;> rfl
  · rfl

/-- Payloads of equal lanes are equal. -/
theorem Lanes.ofFn_congr {g h : Nat → Word} (e : ∀ i < 16, g i = h i) : Lanes.ofFn g = Lanes.ofFn h := by
  unfold Lanes.ofFn
  simp only [e 0 (by omega), e 1 (by omega), e 2 (by omega), e 3 (by omega), e 4 (by omega), e 5 (by omega), e 6 (by omega), e 7 (by omega),
    e 8 (by omega), e 9 (by omega), e 10 (by omega), e 11 (by omega), e 12 (by omega), e 13 (by omega), e 14 (by omega), e 15 (by omega)]

theorem vlenOf_val {n : Nat} (h : n < 16) : (vlenOf n).val = n := by simp [vlenOf, Nat.mod_eq_of_lt h]
@[simp] theorem vlenOf_fin (v : Fin 16) : vlenOf v.val = v := by ext; simp [vlenOf]

/-- Trimming a payload given by lanes. -/
theorem Reg.trim_ofFn (g : Nat → Word) (f : Fmt) (v : Fin 16) : Reg.trim ⟨Lanes.ofFn g, f, v, 0, 0⟩ = laneReg f v.val g := by
  unfold Reg.trim laneReg
  simp only [vlenOf_fin]
  congr 1

/-! ### Elements -/

theorem packDigits_lt (w : Nat) (xs : List Nat) : packDigits w xs < 2 ^ (w * xs.length) := by
  induction xs with
  | nil => simp [packDigits]
  | cons x xs ih =>
    rw [packDigits, List.length_cons, Nat.mul_succ, Nat.add_comm, Nat.pow_add]
    have : x % 2 ^ w < 2 ^ w := Nat.mod_lt _ (Nat.two_pow_pos w)
    calc 2 ^ w * packDigits w xs + x % 2 ^ w < 2 ^ w * packDigits w xs + 2 ^ w := by omega
      _ = 2 ^ w * (packDigits w xs + 1) := by ring
      _ ≤ 2 ^ w * 2 ^ (w * xs.length) := Nat.mul_le_mul_left _ ih
      _ = 2 ^ (w * xs.length) * 2 ^ w := by ring

theorem packDigits_digit (w : Nat) (xs : List Nat) (k : Nat) : packDigits w xs / 2 ^ (w * k) % 2 ^ w = xs.getD k 0 % 2 ^ w := by
  induction xs generalizing k with
  | nil => simp [packDigits]
  | cons x xs ih =>
    cases k with
    | zero => simp [packDigits]
    | succ k =>
      rw [packDigits, Nat.mul_succ, Nat.add_comm (w * k) w, Nat.pow_add, ← Nat.div_div_eq_div_mul, Nat.add_mul_div_left _ _ (Nat.two_pow_pos w),
        Nat.div_eq_of_lt (Nat.mod_lt _ (Nat.two_pow_pos w)), Nat.zero_add, ih]
      simp

/-- An element of a payload built from elements, `n` to a lane. -/
theorem Lanes.elem_ofElems {w n : Nat} (hw : w * n = 32) (xs : List Nat) {j : Nat} (hj : j < 16 * n) :
    Lanes.elem (Lanes.ofElems w xs) w j = xs.getD j 0 % 2 ^ w := by
  have hw0 : 0 < w := Nat.pos_of_ne_zero fun h => by simp [h] at hw
  have hn0 : 0 < n := Nat.pos_of_ne_zero fun h => by simp [h] at hw
  have h1 : j * w / 32 = j / n := by rw [← hw, Nat.mul_comm w n, Nat.mul_div_mul_right _ _ hw0]
  have h2 : j * w % 32 = w * (j % n) := by rw [← hw, Nat.mul_comm j w, Nat.mul_mod_mul_left]
  have h3 : 32 / w = n := by rw [← hw, Nat.mul_div_cancel_left _ hw0]
  have h4 : j / n < 16 := by rw [Nat.div_lt_iff_lt_mul hn0]; omega
  unfold Lanes.elem Lanes.ofElems
  rw [Lanes.lane_ofFn, h1, h2, h3, if_pos h4]
  have hl : ((xs.drop (j / n * n)).take n).length ≤ n := by simp
  have hb : packDigits w ((xs.drop (j / n * n)).take n) < 2 ^ 32 := by
    refine lt_of_lt_of_le (packDigits_lt _ _) (Nat.pow_le_pow_right (by omega) ?_)
    rw [← hw]
    exact Nat.mul_le_mul_left _ hl
  rw [BitVec.toNat_ofNat, Nat.mod_eq_of_lt hb, packDigits_digit]
  congr 1
  have hm : j % n < n := Nat.mod_lt _ hn0
  have hj' : j / n * n + j % n = j := by rw [Nat.mul_comm]; exact Nat.div_add_mod j n
  simp [List.getD_eq_getElem?_getD, hm, List.getElem?_drop, hj']

theorem Fmt.width_mul (f : Fmt) : f.width * (f.elems / 16) = 32 ∧ f.elems = 16 * (f.elems / 16) := by cases f <;> decide

/-- An element of a token body built from elements. -/
theorem elem_mkReg (f : Fmt) (v : Nat) (xs : List Nat) {j : Nat} (hj : j < f.elems) :
    Lanes.elem (mkReg f v xs).lanes f.width j = xs.getD j 0 % 2 ^ f.width := by
  obtain ⟨h1, h2⟩ := f.width_mul
  exact Lanes.elem_ofElems h1 xs (by omega)

theorem validCount_le (f : Fmt) {v : Nat} (h : v < 16) : validCount f v ≤ f.elems := by
  cases f <;> simp only [validCount, Fmt.elems, Fmt.width] <;> omega

@[simp] theorem length_validElems (f : Fmt) (l : Lanes) (v : Nat) : (validElems f l v).length = validCount f v := by simp [validElems]

theorem getD_validElems (f : Fmt) (l : Lanes) (v : Nat) {j : Nat} (h : j < validCount f v) :
    (validElems f l v).getD j 0 = Lanes.elem l f.width j := by
  simp [validElems, List.getD_eq_getElem?_getD, List.getElem?_map, List.getElem?_range h]

/-! ### I32 bodies -/

theorem Lanes.elem_i32 (l : Lanes) {j : Nat} : Lanes.elem l 32 j = (Lanes.lane l j).toNat := by
  unfold Lanes.elem
  rw [Nat.mul_div_cancel _ (by omega), Nat.mul_mod_left, Nat.pow_zero, Nat.div_one, Nat.mod_eq_of_lt (Lanes.lane l j).isLt]

/-- The valid elements of a payload read as I32 are its lanes. -/
theorem validElems_i32 (l : Lanes) (v : Nat) : validElems .i32 l v = (List.range (v + 1)).map fun j => (Lanes.lane l j).toNat := by
  have : validCount .i32 v = v + 1 := by simp [validCount, Fmt.width]
  unfold validElems
  rw [this]
  apply List.map_congr_left
  intro j _
  exact Lanes.elem_i32 l

/-- An I32 body from the elements of its lanes. -/
theorem mkReg_i32 (f : Fmt) (hf : f.width = 32) (v : Nat) (g : Nat → Nat) :
    mkReg f v ((List.range (v + 1)).map g) = laneReg f v fun i => BitVec.ofNat 32 (g i) := by
  unfold mkReg laneReg
  congr 1
  unfold Lanes.ofElems
  rw [hf]
  apply Lanes.ofFn_congr
  intro i hi
  simp only [Nat.div_self (by omega : 0 < 32), Nat.mul_one]
  by_cases h : i ≤ v
  · have : ((List.map g (List.range (v + 1))).drop i).take 1 = [g i] := by
      rw [List.take_one]
      simp [List.head?_drop, List.getElem?_range (by omega : i < v + 1)]
    rw [this, if_pos h]
    apply BitVec.eq_of_toNat_eq
    simp [packDigits]
  · have : (List.map g (List.range (v + 1))).drop i = [] := by simp; omega
    rw [this, if_neg h]
    rfl

theorem laneReg_congr (f : Fmt) (v : Nat) {g h : Nat → Word} (e : ∀ i, g i = h i) : laneReg f v g = laneReg f v h := by
  rw [funext e]

theorem OpIn.vlen2_lt (x : OpIn) : x.vlen2 < 16 := by unfold OpIn.vlen2; omega
theorem OpIn.vlen3_lt (x : OpIn) : x.vlen3 < 16 := by have := x.vlen2_lt; unfold OpIn.vlen3; omega

/-! ### Elementwise results -/

theorem elem1_i32 (g : Nat → Nat) (x : OpIn) (hf : x.f = .i32) :
    (elem1 g x).1 = laneReg .i32 x.a.vlen.val fun i => BitVec.ofNat 32 (g (x.a.lane i).toNat) := by
  unfold elem1 OpIn.elems
  rw [hf, validElems_i32, List.map_map, mkReg_i32 _ rfl]
  rfl

theorem elem2_i32 (g : Nat → Nat → Nat) (x : OpIn) (hf : x.f = .i32) :
    (elem2 g x).1 = laneReg .i32 x.vlen2 fun i => BitVec.ofNat 32 (g (x.a.lane i).toNat (x.b.lane i).toNat) := by
  unfold elem2 OpIn.elems
  rw [hf, validElems_i32, validElems_i32, List.zipWith_map, List.zipWith_self, mkReg_i32 _ rfl]
  rfl

theorem elem3_i32 (g : Nat → Nat → Nat → Nat) (x : OpIn) (hf : x.f = .i32) :
    (elem3 g x).1 = laneReg .i32 x.vlen3 fun i => BitVec.ofNat 32 (g (x.a.lane i).toNat (x.b.lane i).toNat (x.acc.lane i).toNat) := by
  unfold elem3 OpIn.elems
  rw [hf, validElems_i32, validElems_i32, validElems_i32, List.zip_map', List.zipWith_map, List.zipWith_self,
    mkReg_i32 _ rfl]
  rfl

theorem getD_zipWith {α β γ : Type} (g : α → β → γ) (xs : List α) (ys : List β) (dx : α) (dy : β) (dz : γ) {j : Nat} (hx : j < xs.length)
    (hy : j < ys.length) : (List.zipWith g xs ys).getD j dz = g (xs.getD j dx) (ys.getD j dy) := by
  simp [List.getD_eq_getElem?_getD, hx, hy]

/-- An element of an elementwise result over A and B; one that is not valid is zero. -/
theorem elem2_elem (g : Nat → Nat → Nat) (x : OpIn) {j : Nat} (hj : j < x.f.elems) :
    Lanes.elem (elem2 g x).1.lanes x.f.width j =
      if j < validCount x.f x.vlen2 then g (Lanes.elem x.a.lanes x.f.width j) (Lanes.elem x.b.lanes x.f.width j) % 2 ^ x.f.width else 0 := by
  unfold elem2 OpIn.elems
  rw [elem_mkReg _ _ _ hj]
  split
  · next h =>
    rw [getD_zipWith g _ _ 0 0 0 (by simpa using h) (by simpa using h), getD_validElems _ _ _ h, getD_validElems _ _ _ h]
  · next h =>
    rw [List.getD_eq_default _ _ (by simp; omega), Nat.zero_mod]

theorem elem1_elem (g : Nat → Nat) (x : OpIn) {j : Nat} (hj : j < x.f.elems) :
    Lanes.elem (elem1 g x).1.lanes x.f.width j =
      if j < validCount x.f x.a.vlen.val then g (Lanes.elem x.a.lanes x.f.width j) % 2 ^ x.f.width else 0 := by
  unfold elem1 OpIn.elems
  rw [elem_mkReg _ _ _ hj]
  split
  · next h =>
    have : (validElems x.f x.a.lanes x.a.vlen.val)[j]? = some (Lanes.elem x.a.lanes x.f.width j) := by
      simp [validElems, List.getElem?_range h]
    simp [List.getD_eq_getElem?_getD, this]
  · next h =>
    rw [List.getD_eq_default _ _ (by simp; omega), Nat.zero_mod]

/-- Lane-by-lane results. -/
theorem lane2_reg (g : Word → Word → Word) (x : OpIn) : (lane2 g x).1 = laneReg x.f x.vlen2 fun i => g (x.a.lane i) (x.b.lane i) := by
  unfold lane2
  rw [Reg.trim_ofFn, vlenOf_val x.vlen2_lt]

theorem lane1_reg (g : Word → Word) (x : OpIn) : (lane1 g x).1 = laneReg x.f x.a.vlen.val fun i => g (x.a.lane i) := by
  unfold lane1
  rw [Reg.trim_ofFn]

/-! ### Rounding a list -/

theorem roundList_length (f : Fmt) (srnd : Nat) (ssat : Bool) (xs : List Exact) (l : Word) : (roundList f srnd ssat xs l).1.length = xs.length := by
  induction xs generalizing l with
  | nil => rfl
  | cons x xs ih => simp [roundList, ih]

theorem lfsrAfter_succ (n : Nat) (l : Word) : lfsrAfter (n + 1) l = lfsrAfter n (lfsrStep l) := rfl

/-- Element `j` of a rounded list: under SRND 4 it meets the (j+1)-th state of the LFSR. -/
theorem roundList_getD (f : Fmt) (srnd : Nat) (ssat : Bool) (xs : List Exact) (l : Word) {j : Nat} (hj : j < xs.length) :
    (roundList f srnd ssat xs l).1.getD j 0 =
      roundTo f srnd ssat (if srnd = 4 then (lfsrAfter (j + 1) l).toNat else 0) (xs.getD j .nan) := by
  induction xs generalizing l j with
  | nil => simp at hj
  | cons x xs ih =>
    cases j with
    | zero =>
      simp only [roundList, List.getD_cons_zero, roundStep]
      split <;> rfl
    | succ j =>
      simp only [roundList, List.getD_cons_succ]
      rw [ih _ (by simpa using hj)]
      congr 1
      simp only [roundStep]
      split
      · next h => simp only [lfsrAfter_succ]
      · rfl

/-- A rounded element fits its width. -/
theorem roundFloat_lt (g : FloatFmt) (hf : 0 < g.fbits) (srnd : Nat) (ssat : Bool) (r : Nat) (z : Exact) :
    roundFloat g srnd ssat r z < 2 ^ (g.ebits + g.fbits + 1) := by
  have hp : g.expMax + 1 = 2 ^ g.ebits := Nat.succ_pred_eq_of_pos (Nat.two_pow_pos _)
  have hs : g.signBit = (g.expMax + 1) * 2 ^ g.fbits := by rw [hp, FloatFmt.signBit, Nat.pow_add]
  have h1 : 1 ≤ 2 ^ (g.fbits - 1) := Nat.one_le_two_pow
  have h2 : 2 ^ g.fbits = 2 * 2 ^ (g.fbits - 1) := by rw [← Nat.pow_succ']; congr 1; omega
  have hx : (g.expMax + 1) * 2 ^ g.fbits = g.expMax * 2 ^ g.fbits + 2 ^ g.fbits := by ring
  have hnan : g.nanEnc < g.signBit := by unfold FloatFmt.nanEnc; rw [hs, hx]; split <;> omega
  have hinf : g.infEnc < g.signBit := by unfold FloatFmt.infEnc; rw [hs, hx]; omega
  have hmax : g.maxEnc < g.signBit := by unfold FloatFmt.maxEnc; rw [hs, hx]; split <;> omega
  have hov : ∀ neg, overflowEnc g srnd ssat neg < g.signBit := by intro neg; unfold overflowEnc; split <;> assumption
  have hsig : ∀ neg m, m < g.signBit → signed g neg m < 2 ^ (g.ebits + g.fbits + 1) := by
    intro neg m h
    have : 2 ^ (g.ebits + g.fbits + 1) = g.signBit + g.signBit := by unfold FloatFmt.signBit; ring
    rw [this]; unfold signed; split <;> omega
  cases z with
  | nan => exact lt_trans hnan (by unfold FloatFmt.signBit; exact Nat.pow_lt_pow_right (by omega) (by omega))
  | inf neg => exact hsig _ _ (by split <;> assumption)
  | fin neg m e st =>
    simp only [roundFloat]
    apply hsig
    split
    · exact hov _
    · omega

theorem roundTo_lt {f : Fmt} (hf : f.floating = true) (srnd : Nat) (ssat : Bool) (r : Nat) (z : Exact) :
    roundTo f srnd ssat r z < 2 ^ f.width := by
  cases f <;> simp only [Fmt.floating, Bool.false_eq_true] at hf
  · exact roundFloat_lt _ (by decide) srnd ssat r z
  · exact roundFloat_lt _ (by decide) srnd ssat r z
  · exact roundFloat_lt _ (by decide) srnd ssat r z

/-- An element of a result rounded by frnd. -/
theorem frnd_elem (x : OpIn) (v : Nat) (xs : List Exact) (hl : xs.length = validCount x.f v) (hf : x.f.floating = true) {j : Nat}
    (hj : j < x.f.elems) :
    Lanes.elem (frnd x v xs).1.lanes x.f.width j =
      if j < validCount x.f v then roundTo x.f x.srnd false (if x.srnd = 4 then (lfsrAfter (j + 1) x.lfsr).toNat else 0) (xs.getD j .nan)
      else 0 := by
  unfold frnd
  dsimp only
  rw [elem_mkReg _ _ _ hj]
  split
  · next h => rw [roundList_getD _ _ _ _ _ (by omega), Nat.mod_eq_of_lt (roundTo_lt hf _ _ _ _)]
  · next h => rw [List.getD_eq_default _ _ (by rw [roundList_length]; omega), Nat.zero_mod]

end Sys2Proof.Machine
end

