-- ==== Sys2Proof/Tests/Slice0.lean ====
section
/-! SUPPORT. The author's tests: a refused term for each check of WellFormed, words of the encoding tables, single steps, and for each statement
states that meet its hypotheses. -/

namespace Sys2Proof.Tests

set_option maxRecDepth 100000
set_option Elab.async false

open Sys2Proof Sys2Proof.Machine

/-! ### Small states -/

/-- The first element of the first stripe. -/
def e0 : ElemAt := ⟨⟨⟨0, 0⟩, 0⟩, 0⟩

/-- Its first junction. -/
def e14 : ElemAt := ⟨⟨⟨0, 0⟩, 0⟩, 14⟩

/-- A state in which slot 0 of an element fires for a launch of PASID 1, the element changed by `f`. -/
def fires (e : ElemAt) (f : Elem → Elem) : State :=
  let s := State.reset.placeWord true 0
  let x := placedElem true 0
  { s.setElem e (f x) with focus := { s.focus with elem := e }, agenda := [] }

/-- The same by a change of its plane. -/
def firesPl (e : ElemAt) (f : Plane → Plane) : State := fires e fun x => { x with active := f x.active }

/-- A register of format `f`, VLEN `v` and given lanes. -/
def reg (f : Fmt) (v : Fin 16) (l : List Nat) : Reg := ⟨Lanes.ofFn fun i => .ofNat 32 (l.getD i 0), f, v, 0, 0⟩

/-- A header of SFMT `f` in slot 0 and EXITS `x`. -/
def hdrOf (f x : Nat) : Hdr := .ofNat 256 (f * 2 ^ 82 + x * 2 ^ 239)

/-- Registers d0, d1 and d2 of a plane, under an SFMT. -/
def regsPl (f : Nat) (a b c : Reg) (p : Plane) : Plane := { p with hdr := hdrOf f 1, d := ((p.d.set 0 a).set 1 b).set 2 c }

/-! ### The V page -/

def ints : State := firesPl e0 (regsPl 0 (reg .i32 3 [7, 0xFFFFFFFD, 0x7FFFFFFF, 0]) (reg .i32 1 [5, 2]) (reg .i32 0 [1]))
def floats : State := firesPl e0 (regsPl 1 (reg .f32 1 [0x3F800000, 0xC0000000]) (reg .f32 0 [0x40400000]) (reg .f32 0 [0]))

/-- The hypotheses of an instruction over the registers d0 and d1 of one format. -/
def Operands (s : State) (f : Fmt) : Prop :=
  let x := s.firing
  x.opFmt (x.src 0) = f ∧ x.carries f 0 ∧ x.carries f 1 ∧ s.tagsFit 0 (x.src 1) (isOut 2) ∧ s.tagsFit 0 Reg.zero (isOut 2) ∧
    s.tagsFit 0 Reg.zero (isOut 2 || isOut 3)

theorem witness_integer_operands : Operands ints .i32 ∧ setW .i32 = true := by
  simp only [Operands, Firing.carries, State.tagsFit]; decide +kernel

theorem witness_float_operands : Operands floats .f32 ∧ Fmt.floating .f32 = true := by
  simp only [Operands, Firing.carries, State.tagsFit]; decide +kernel
def entryOf (f : Fmt) (n : BitVec 12) : SclEntry := ⟨true, 0, 3, n, f, 0, 0, 0, 0, (List.range 32).map (BitVec.ofNat 8 ·)⟩

/-- d0 and d1 are bound at entries 5 and 6 of the scale file, and d2 is not. -/
def bound : State :=
  let s := firesPl e0 (regsPl 4 { reg .e4 1 [0x38383838, 0x30303030] with bind := 5, bgen := 3 } { reg .e4 1 [1] with bind := 6, bgen := 3 } (reg .i32 0 [1]))
  s.onScl e0 fun c => { c with entries := [(5, entryOf .e4 2), (6, entryOf .e4 1)] }

/-- d0 is F32 and is converted to B16. -/
def converts : State := firesPl e0 (regsPl 2 (reg .f32 1 [0x3F800000, 0xC0000000]) (reg .i32 0 [1]) (reg .f32 0 [0]))

/-- d0 is F32 and is quantised to E4 or to C4, under codebook 0 of its context. -/
def quantises (f : Nat) : State :=
  (firesPl e0 (regsPl f (reg .f32 1 [0x3F800000, 0xC0000000]) (reg .i32 0 [1]) (reg .f32 0 [0]))).onScl e0 fun c => { c with books := [(0, 0, zeroBook)] }

/-- d0 is B16 and d1 names codebook 1. -/
def loadsBook : State := firesPl e0 (regsPl 2 (reg .b16 1 [0x3F803F80, 0xC000]) (reg .i32 0 [1]) (reg .f32 0 [0]))

theorem witness_CvtResult : setW (converts.firing.opFmt (converts.firing.src 0)) = true ∧ setW (converts.firing.src 0).fmt = true ∧
    converts.tagsFit 0 Reg.zero (isOut 2) := by
  simp only [State.tagsFit]; decide +kernel

theorem witness_QntResult : ∀ f ∈ [4, 7],
    let s := quantises f
    let x := s.firing
    setF (x.src 0).fmt = true ∧ (x.opFmt (x.src 0) = .c4 → (s.scl e0).bookUse x.ctx 0 = []) ∧ (s.scl e0).canAlloc (x.outCtx 0) = true ∧
      s.tagsFit 0 Reg.zero (isOut 2) := by
  simp only [State.tagsFit]; decide +kernel

/-- The same under SFMT F32. -/
def expands : State := bound.onElem e0 fun x => { x with active := { x.active with hdr := hdrOf 1 1 } }

/-- The operands of the format forms by themselves: A, and the target format. -/
def opIn (a b : Reg) (f : Fmt) : OpIn := ⟨a, b, Reg.zero, f, 0, false, 1⟩

theorem witness_QntFollowsTheTable :
    let x := opIn (reg .f32 1 [0x3F800000, 0xC0000000]) Reg.zero .e4
    let v (a : Reg) (j : Nat) : Exact := valueOf .f32 (Lanes.elem a.lanes 32 j)
    let p (j : Nat) : Prop := 32 * 0 ≤ j ∧ j < 32 * 0 + 32 ∧ j < 2
    setF x.a.fmt = true ∧ setN x.f = true ∧ (zeroBook.map BitVec.toNat).length = 16 ∧ validCount .f32 1 = 2 ∧ TopLog (v x.a) p 1 ∧
      NoMagnitude (v Reg.zero) p ∧ v (reg .f32 0 [0x7FC00000]) 0 = .nan ∧
      TopLog (fun k => decodeFloat Fmt.b16.float ((List.replicate 16 0x4000).getD k 0)) (· < 16) 1 := by
  have h0 : valueOf .f32 (Lanes.elem (reg .f32 1 [0x3F800000, 0xC0000000]).lanes 32 0) = .fin false 8388608 (-23) false := by decide +kernel
  have h1 : valueOf .f32 (Lanes.elem (reg .f32 1 [0x3F800000, 0xC0000000]).lanes 32 1) = .fin true 8388608 (-22) false := by decide +kernel
  have z : ∀ j < 2, valueOf .f32 (Lanes.elem Reg.zero.lanes 32 j) = .fin false 0 (-149) false := by decide +kernel
  have b : ∀ k < 16, decodeFloat Fmt.b16.float ((List.replicate 16 0x4000).getD k 0) = .fin false 128 (-6) false := by decide +kernel
  refine ⟨rfl, rfl, rfl, rfl, ⟨⟨1, _, _, _, by decide, h1, by decide +kernel⟩, ?_⟩, ?_, by decide +kernel, ⟨⟨0, _, _, _, by decide, b 0 (by decide), by decide +kernel⟩, ?_⟩⟩
  · rintro j ⟨-, -, hj⟩ s m e h
    match j, hj with
    | 0, _ => have h := h0.symm.trans h; cases h; decide +kernel
    | 1, _ => have h := h1.symm.trans h; cases h; decide +kernel
  · rintro j ⟨-, -, hj⟩ s m e h
    have h := (z j hj).symm.trans h; cases h; rfl
  · intro k hk s m e h
    have h := (b k hk).symm.trans h; cases h; decide +kernel

theorem witness_CodebookCodes :
    let book (n : Nat) : List Nat := n :: List.replicate 15 0x7FC0
    (book 0x3F80).length = 16 ∧ decodeFloat Fmt.b16.float 0x3F80 = .fin false 128 (-7) false ∧ decodeFloat Fmt.b16.float 0x7FC0 = .nan ∧
      decodeFloat Fmt.b16.float 0x7F80 = .inf false ∧
      [c4Code (book 0x3F80) (.fin true 1 0 false), c4Code (0x7FC0 :: book 0xFF80) (.fin true 1 0 false), c4Code (0x7FC0 :: book 0x7F80) (.inf true),
        c4Code (0x7FC0 :: book 0x3F80) (.inf true), c4Code (List.replicate 16 0x7FC0) (.inf true)] = [0, 1, 1, 1, 0] := by
  decide +kernel

theorem witness_DqntFollowsTheTable :
    let x := opIn { reg .e4 1 [0x38383838, 0x30303030] with bind := 5 } Reg.zero .f32
    setN x.a.fmt = true ∧ setF x.f = true ∧ x.srnd < 4 ∧ 0 * x.f.elems < validCount x.a.fmt x.a.vlen.val := by
  decide +kernel

theorem witness_SrenormFollowsTheTable :
    let a (n : Nat) : Exact := decodeFloat Fmt.f32.float ((reg .f32 0 [n]).lane 0).toNat
    a 0x40400000 = .fin false 12582912 (-22) false ∧ (Exact.fin false 12582912 (-22) false).cmp (.fin false 1 1 false) ≠ .lt ∧
      (Exact.fin false 12582912 (-22) false).cmp (.fin false 1 2 false) = .lt ∧ a 0x7FC00000 = .nan ∧ a 0xFF800000 = .inf true ∧
      a 0 = .fin false 0 (-149) false ∧ (∀ z ∈ [0, 127, 255], z ≤ 255) ∧
      (srenormBytes 0 (reg .f32 0 [0x40400000]) [0, 127, 255] 1).1 = [0, 125, 255] := by
  decide +kernel

theorem witness_ReductionTree :
    let root (k : Nat) (xs : List Nat) : List Nat := (treeReduce (fun a b l => (10 * a + b, l)) k xs 0).1
    [1, 2, 3].length ≤ 2 ^ (1 + 1) ∧ 2 ^ 1 < [1, 2, 3].length ∧ root 1 ([1, 2, 3].take 2) = [12] ∧ root 1 ([1, 2, 3].drop 2) = [3] ∧
      root 2 [1, 2, 3] = [123] ∧ Fmt.floating .f32 = true := by
  decide +kernel

theorem witness_DqntParts :
    let x := expands.firing
    setN (x.src 0).fmt = true ∧ (expands.scl e0).read x.ctx (x.src 0) = [] ∧ expands.tagsFit 0 Reg.zero (isOut 2) := by
  simp only [State.tagsFit]; decide +kernel

theorem witness_BindingResults :
    let x := bound.firing
    let c := bound.scl e0
    setN (x.opFmt (x.src 0)) = true ∧ x.carries (x.opFmt (x.src 0)) 0 ∧ c.read x.ctx (x.src 0) = [] ∧ bound.tagsFit 0 (x.src 1) (isOut 2) ∧
      (x.src 1).fmt.scaled = true ∧ c.read x.ctx (x.src 1) = [] ∧ (c.entry 5).blk = (c.entry 6).blk ∧
      bytesInUse (c.entry 5).fmt 0 = bytesInUse (c.entry 6).fmt 0 ∧ (c.bindUses true false (x.src 0) (x.src 1)).canAlloc (x.outCtx 0) = true ∧
      (c.bindUses false false (x.src 0) (x.src 1)).canAlloc (x.outCtx 0) = true := by
  simp only [Firing.carries, State.tagsFit]; decide +kernel

theorem witness_ReleaseUses :
    let c := bound.scl e0
    setN (bound.firing.opFmt (bound.firing.src 0)) = true ∧ bound.firing.carries (bound.firing.opFmt (bound.firing.src 0)) 0 ∧
      bound.tagsFit 0 Reg.zero false ∧ bound.tagsFit 0 (bound.firing.src 1) false ∧ (c.entry 5).bound = true ∧
      1 < (c.entry 5).refcnt.toNat ∧ (c.entry 6).refcnt.toNat = 1 := by
  simp only [Firing.carries, State.tagsFit]; decide +kernel

theorem witness_SldcbResult :
    let x := loadsBook.firing
    x.opFmt (x.src 0) = .b16 ∧ x.carries .b16 0 ∧ loadsBook.tagsFit 0 (x.src 1) false ∧ tabFind 1 (loadsBook.scl e0).books = none := by
  simp only [Firing.carries, State.tagsFit]; decide +kernel

/-- The exit count of context 0 stands below EXITS in `ints` and at it here. -/
def exited : State := firesPl e0 fun p => { regsPl 0 (reg .i32 0 [7]) (reg .b16 0 [5]) (reg .i32 0 [1]) p with exits := [(0, 1)] }

theorem witness_ExitCounts :
    (ints.firing.pl.exitCount 0 + 1 ≤ Hdr.exits ints.firing.pl.hdr ∧ ints.firing.carries .i32 0 ∧ ints.tagsFit 0 Reg.zero (isOut 2)) ∧
      Hdr.exits exited.firing.pl.hdr < exited.firing.pl.exitCount 0 + 1 ∧ exited.firing.carries .i32 0 ∧ exited.tagsFit 0 Reg.zero (isOut 2) := by
  simp only [Firing.carries, State.tagsFit]; decide +kernel

theorem witness_AmaxLfsrTrap : ints.tagsFit 0 Reg.zero false ∧ ints.tagsFit 0 Reg.zero (isOut 2) := by
  simp only [State.tagsFit]; decide +kernel

theorem witness_FormatFault : floats.firing.opFmt (floats.firing.src 0) ≠ .i32 ∧
    exited.firing.opFmt (exited.firing.src 0) = .i32 ∧ exited.firing.carries .i32 0 ∧ ¬exited.firing.carries .i32 1 := by
  simp only [Firing.carries]; decide +kernel

/-! ### A job with a resource table -/

/-- A table entry: base, extent, key slot, SPACE, format, VERS, rights. -/
def entryNat (base extent key space fmt vers rights : Nat) : Nat :=
  base * 2 ^ 448 + extent * 2 ^ 408 + key * 2 ^ 396 + space * 2 ^ 392 + fmt * 2 ^ 389 + vers * 2 ^ 384 + rights * 2 ^ 377 + 2 ^ 359

/-- Job 1 has a table at 0x1000 of the given entries from index 1 on, a known device key, and a scratchpad window of 64 KiB. -/
def withTable (s : State) (es : List Nat) : State :=
  let s := { s with keys := [(0, Vector.replicate 8 1), (1, Vector.replicate 8 2)], hbmKey := (List.range 8).map fun i => (64 + i, some (Vector.replicate 8 1)),
                    hbm := writeBytes 0x1040 (es.flatMap (natBytes 64)) [], jobs := [(1, { Job.zero with rtbase := 0x1000, rtcnt := 7 })] }
  s.setStripe e14.at_ { s.stripe e14.at_ with active := (s.stripe e14.at_).active.map fun c => { c with spwsize := 1024 } }

/-- Entry 1 is of the scratchpad and entry 2 a versioned one there; entries 3 and 4 are of the fabric. -/
def entries : List Nat := [entryNat 0 0x1000 0 1 0 0 15, entryNat 0x1000 0x1000 0 1 0 1 15, entryNat 0x200 0x1000 0 0 0 0 15, entryNat 0x200 0x1000 1 0 0 0 15]

/-- Slot 0 of a junction fires with d0 an offset, d1 data, and the descriptors 0 to 3 naming entries 1, 2, 5 and 3. -/
def memory : State :=
  withTable (firesPl e14 fun p =>
    { regsPl 0 (reg .i32 1 [8, 12]) (reg .i32 1 [5, 2]) (reg .i32 0 [1]) p with
      k := (((p.k.set 0 0x10000).set 2 0x20000).set 4 0x50000).set 6 0x30000 }) entries

theorem witness_MemoryFormsIssue :
    let c : BitVec 5 := 8
    memory.memFits .ld 0 24 2 0 0 ∧ memory.memFits .st 0 1 2 0 0 ∧ memory.memFits .ldv 0 1 2 1 0 ∧ memory.memFits .stv 0 1 2 1 0 ∧
      memory.memFits .recl 0 1 2 1 0 ∧ memory.memFits .gath 0 24 2 0 0 ∧ memory.memFits .scat 0 1 2 0 0 ∧ memory.memFits .pref 0 24 24 0 0 ∧
      memory.memFits .fence 24 24 2 0 0 ∧ memory.memFits .fencex 24 24 2 0 0 ∧ memory.memFits .waita 0 1 c 0 0 ∧ memory.memFits .waitc 0 24 2 0 0 ∧
      memory.memFits .signal 0 1 2 0 0 := by
  refine ⟨?_, ?_, ?_, ?_, ?_, ?_, ?_, ?_, ?_, ?_, ?_, ?_, ?_⟩ <;> (unfold State.memFits State.tagsFit Firing.carries; decide +kernel)

theorem witness_BadResourceFaults :
    let x := memory.firing
    (memory.opRes x.el x.launch x.pl.k[4]).map Res.usable = some false ∧ x.outAlias 2 0 Reg.zero = [] ∧ memory.tagsFit 0 Reg.zero false := by
  simp only [State.tagsFit]; decide +kernel

/-- An operation of `memory`'s firing over its entry 1. -/
def opOf (k : MemKind) (a b : Reg) (w0 w1 : Word) : MemOp :=
  ⟨7, k, e14.key, false, 0, 0, 0, 0, a, b, w0, w1, .i32, 2, 0, 0, false, false, false, 0, 0, false, true, 0, false⟩

theorem witness_ScratchpadAccess :
    let o := opOf .ld (reg .i32 1 [8]) Reg.zero 0x10000 0
    let p := opOf .st (reg .i32 0 [8]) (reg .i32 1 [5, 2]) 0x10000 0
    (memory.opRes (ElemAt.ofKey o.elem) o.launch o.w0).map (fun e => (e.space, e.vers)) = some (1, false) ∧ memory.heldBefore o = [] ∧
      p.b.fmt.scaled = false ∧ (ElemAt.ofKey p.elem).at_.ring = ⟨0, 0⟩ ∧
      (memory.opRes (ElemAt.ofKey p.elem) p.launch p.w0).map (fun e => decide (memory.spadBase p e + 8 + 4 * 2 ≤ spadBytes)) = some true ∧
      ∀ d r, Memory.wf (memory.ring ⟨d, r⟩).spad = true := by
  decide +kernel

/-- The target of a message: M-element 0 or 2, MXSTAT; for LAUNCH the controller. -/
def sender : State :=
  firesPl e14 fun p => { regsPl 0 (reg .i32 0 [8]) (reg .i32 1 [5, 2]) (reg .i32 0 [1]) p with k := (p.k.set 0 0x0A201000).set 1 0x01600000 }

theorem witness_MessagesEnterPort :
    let x := sender.firing
    let fits (b : Nat) (launch : Bool) (d : BitVec 5) : Prop :=
      msgReason (x.target b launch).1 (bits (x.header b launch).toNat 31 24) (x.target b launch).2 launch = 0 ∧ x.outAlias d 0 Reg.zero = [] ∧
        sender.tagsFit 0 Reg.zero false
    fits 0 false 2 ∧ fits 0 false 24 ∧ fits 1 true 2 ∧ fits 1 true 24 ∧
      (let y := memory.firing
       msgReason (y.target 0 false).1 (bits (y.header 0 false).toNat 31 24) (y.target 0 false).2 false ≠ 0 ∧ y.outAlias 2 0 Reg.zero = [] ∧
         memory.tagsFit 0 Reg.zero false) := by
  simp only [State.tagsFit]; decide +kernel

/-- A junction whose slot guards channel 3, with a token there, a waiting ticket and an open grant. -/
def arbiter : State :=
  fires e14 fun x =>
    let tw : Word := .ofNat 32 (0x80000000 + 3 * 2 ^ 11 + 64)
    { x with
      active := { regsPl 0 (reg .i32 0 [8]) (reg .i32 0 [9]) (reg .i32 0 [1]) x.active with
        tw := x.active.tw.set 0 tw, tickets := [⟨placedTok 0, 2, 4⟩], grants := [⟨1, 0, 0⟩] },
      inq := x.inq.set 3 [placedTok 0] }

theorem witness_TicketedArbiter :
    let x := arbiter.firing
    (x.chan 3).isSome = true ∧ arbiter.tagsFit 0 Reg.zero (isOut 8) ∧ x.pl.tickets = [⟨placedTok 0, 2, 4⟩] ∧ arbiter.tagsFit 0 Reg.zero false ∧
      x.outAlias 8 0 Reg.zero = [] ∧ x.pl.grants = [⟨1, 0, 0⟩] ∧
      ({ x with ctx := 0, iter := 0 } : Firing).outAlias (.ofNat 5 (8 + (5 + 1) % 8)) 0 Reg.zero = [] := by
  simp only [State.tagsFit]; decide +kernel

/-- A junction over I32, and one whose context has passed no exit. -/
def junction : State := firesPl e14 (regsPl 0 (reg .i32 3 [7, 0xFFFFFFFD, 0x7FFFFFFF, 0]) (reg .i32 1 [5, 2]) (reg .i32 0 [1]))

theorem witness_SharedFormResults : Operands junction .i32 ∧ junction.tagsFit 0 (junction.firing.src 1) false ∧ junction.tagsFit 0 Reg.zero false ∧
    ((junction.scl e14).entry 0).refcnt ≠ 4095 ∧ junction.firing.pl.exitCount 0 + 1 ≤ Hdr.exits junction.firing.pl.hdr := by
  simp only [Operands, Firing.carries, State.tagsFit]; decide +kernel

/-! ### Events of elements -/

/-- The word of an instruction. -/
def wordOf (i : Instr) : Word := match encode i with | .word w => w | _ => 0

/-- A token of I32, VLEN 0. -/
def tok (n : Nat) (iter : BitVec 12) (eos kill spec : Bool) : Token := ⟨reg .i32 0 [n], 0, iter, eos, kill, spec⟩

/-- The allocator of the launch: iterations 0 and 1, of which 1 carries `m`. -/
def marked (m : IterMark) : Alloc := { Alloc.start with span := 2, num := 2, marks := [(1, m)] }

/-- Launch 0 changed. -/
def onLaunch0 (s : State) (f : Launch → Launch) : State := s.onLaunch 0 f

/-- Change the allocator of launch 0. -/
def withAlloc (s : State) (a : Alloc) : State := onLaunch0 s fun l => { l with segs := [⟨0, 0, 0, 0, a, 0⟩] }

/-- The element at slot 1. -/
def e1 : ElemAt := ⟨⟨⟨0, 0⟩, 0⟩, 1⟩

/-- Element 0 has a token on out channel 0, which its route takes to channel 2 of element 1, which accepts I32 there; channel 3 is guarded. -/
def hopping : State :=
  let s := fires e0 fun x => { x with out := x.out.set 0 [⟨tok 5 0 false false false, false, false⟩] }
  let s := s.setStripe e0.at_ { s.stripe e0.at_ with active := (s.stripe e0.at_).active.map fun c => { c with routes := [.ofNat 12 (2 ^ 10 + 1 * 64 + 2 * 8)] } }
  s.onElem e1 fun x => { x with active := { x.active with hdr := .ofNat 256 (2 ^ (146 + 16)) } }

/-- The same where channel 2 is full, where iteration 0 is killed, where element 1 accepts nothing there, and where the route goes to pass register 4,
which holds `ks`. -/
def filled : State := hopping.onElem e1 fun x => { x with inq := x.inq.set 2 (List.replicate 8 (tok 0 0 false false false)) }
def killing : State := withAlloc hopping { Alloc.start with marks := [(0, ⟨false, true, false⟩)] }
def refusing : State := hopping.onElem e1 fun x => { x with active := { x.active with hdr := 0 } }
def passing (ks : List LinkTok) : State :=
  hopping.onStripe e0.at_ fun st => { st with active := st.active.map fun c => { c with routes := [.ofNat 12 (3 * 2 ^ 10 + 4 * 64)] }, pass := st.pass.set 4 ks }

theorem witness_TokenArrives :
    let c : ChanAt := ⟨e0, 0⟩
    let adm (s : State) : Bool := s.admits e1.at_ false (s.wraps (.out c) false (.elem e1 2)) false
    (∀ s ∈ [hopping, filled, killing, refusing], s.moving c.el.at_ false = true ∧ s.hopTarget (.out c) false = .elem e1 2 ∧ adm s = true ∧
      takeFirst false (s.hopTokens (.out c)) = some (⟨tok 5 0 false false false, false, false⟩, [])) ∧
      (∀ s ∈ [hopping, killing, refusing], s.queueFree e1 false 2 ≠ 0) ∧ filled.queueFree e1 false 2 = 0 ∧
      ((hopping.launch 0).alloc 0).isKilled 0 = false ∧ ((killing.launch 0).alloc 0).isKilled 0 = true ∧
      Hdr.accepts ((hopping.elem e1).plane false).hdr 2 .i32 = true ∧ Hdr.accepts ((refusing.elem e1).plane false).hdr 2 .i32 = false ∧
      (hopping.onRing ⟨0, 0⟩ fun r => { r with occupied := true }).moving c.el.at_ false = false ∧
      (let s := passing []
       s.hopTarget (.out c) false = .pass e0.at_ 4 ∧ s.admits e0.at_ false (s.wraps (.out c) false (.pass e0.at_ 4)) false = true ∧
         (s.stripe e0.at_).pass[4] = [] ∧ ((passing [⟨tok 5 0 false false false, false, false⟩]).stripe e0.at_).pass[4] ≠ []) := by
  decide +kernel

/-- Element 0 has steered a token of channel `c` to element 1, which accepts I32 on channel 2 only. -/
def steering (c : Fin 8) : State := hopping.onElem e0 fun x =>
  { x with steer := [⟨false, c, tok 5 0 false false false⟩], active := { x.active with hdr := .ofNat 256 (2 ^ 214 + 1 * 2 ^ 210) } }

theorem witness_SteeredTokenArrives :
    let goes (s : State) : Option Steered := (s.elem e0).steer.find? fun t =>
      s.moving e0.at_ t.ical && ((s.elem e0).steer.find? fun u => u.ical == t.ical && u.chan == t.chan) == some t &&
        decide (s.queueFree (e0.mate (Hdr.steer ((s.elem e0).plane t.ical).hdr)) t.ical t.chan ≠ 0)
    let full (s : State) : State := s.onElem e1 fun x => { x with inq := x.inq.set 2 (List.replicate 8 (tok 0 0 false false false)) }
    let both : State := (steering 2).onElem e0 fun x => { x with steer := x.steer ++ [⟨false, 3, tok 6 0 false false false⟩] }
    (∀ c ∈ ([2, 3] : List (Fin 8)), let s := steering c
      goes s = some ⟨false, c, tok 5 0 false false false⟩ ∧ ((s.launch 0).alloc 0).isKilled 0 = false ∧
        Hdr.accepts ((s.elem e1).plane false).hdr c.val .i32 = (c == 2)) ∧
      goes (full (steering 2)) = none ∧ goes (full both) = some ⟨false, 3, tok 6 0 false false false⟩ := by
  decide +kernel

/-- A KILL token with EOS at the head of channel 3, which slot 0 guards; the slot writes out channel 1. -/
def absorbing : State := fires e0 fun x =>
  { x with
    active := { x.active with tw := x.active.tw.set 0 (.ofNat 32 (0x80000000 + 3 * 2 ^ 11 + 64)), iw := x.active.iw.set 0 (wordOf (.mov 11 9 0 false)) },
    inq := x.inq.set 3 [tok 0 0 true true false] }

theorem witness_KillTokenAbsorbed :
    (absorbing.elem e0).queue false 3 = [tok 0 0 true true false] ∧ absorbing.moving e0.at_ false = true ∧
      ((absorbing.elem e0).plane false).killOuts false 3 = [1] ∧ 1 ≤ absorbing.outFree e0 false 1 ∧
      (absorbing.onElem e0 fun x => { x with out := x.out.set 1 (List.replicate 2 ⟨tok 5 0 false false false, false, false⟩) }).outFree e0 false 1 = 0 := by
  decide +kernel

/-- Channels 2 and 3 are a pair; a token heads channel 2, and `hs` wait. -/
def pairing (hs : List Half) : State := fires e0 fun x =>
  { x with
    active := { x.active with tw := x.active.tw.set 0 (.ofNat 32 (0x80000000 + 2 * 2 ^ 11 + 3 * 2 ^ 8 + 2 * 64)) },
    inq := x.inq.set 2 [tok 7 0 false false false], halves := hs }

theorem witness_PairsMatch :
    let h : Half := ⟨false, 3, 2, 0, 0, tok 8 0 false false false⟩
    let g : Half := ⟨false, 2, 3, 0, 0, tok 8 0 false false false⟩
    ((pairing [h]).elem e0).queue false 2 = [tok 7 0 false false false] ∧ (((pairing [h]).elem e0).plane false).pairOf 2 = some (2, 3, 2) ∧
      (pairing [h]).moving e0.at_ false = true ∧ (((pairing [h]).launch 0).alloc 0).alias_ 0 = false ∧
      (((pairing [h]).launch 0).alloc 0).isKilled 0 = false ∧ ((pairing [h]).elem e0).halves.find? (fun x => x.chan == 3) = some h ∧
      ((pairing []).elem e0).stored false < storeCap ((pairing []).ring ⟨0, 0⟩).icalValid false ∧
      ((pairing [g]).elem e0).halves.any (fun x => x.chan == 2) = true ∧
      storeCap false false ≤ ((pairing (List.replicate 32 { h with chan := 5 })).elem e0).stored false ∧
      (((withAlloc (pairing []) { Alloc.start with base := 5 }).launch 0).alloc 0).alias_ 0 = true := by
  decide +kernel

/-- Iteration 1 is killed, and a token of it stands in element 0. -/
def sweeping : State :=
  withAlloc (fires e0 fun x => { x with inq := x.inq.set 2 [tok 7 1 false false false] }) (marked ⟨false, true, false⟩)

theorem witness_KilledIterationSwept :
    (sweeping.launch (launchKey 0 0)).segs = [⟨0, 0, 0, 0, marked ⟨false, true, false⟩, 0⟩] ∧ (marked ⟨false, true, false⟩).isKilled 1 = true ∧
      e0 ∈ sweeping.launchElems 0 ∧ sweeping.frozenAt 0 ⟨0, 0⟩ = false ∧
      (sweeping.onRing ⟨0, 0⟩ fun r => { r with occupied := true }).frozenAt 0 ⟨0, 0⟩ = true ∧ (ints.launch 0).cancelled = false ∧ ∀ g ∈ (ints.launch 0).segs, g.alloc.isKilled 1 = false := by
  decide +kernel

/-- Iteration 0 has retired. -/
def advancing : State := withAlloc (firesPl e0 id) { Alloc.start with marks := [(0, ⟨true, false, false⟩)] }

theorem witness_WindowAdvances :
    ((advancing.launch 0).seg 0).isSome = true ∧ (advancing.sweepBase 0 0).canPass 0 0 = true ∧ (ints.canPass 0 0 = false) ∧
      ((ints.launch 0).seg 0).map (fun g => g.alloc.isKilled g.alloc.base) = some false := by
  decide +kernel

/-- Slot 0 holds ST of d0, d1 under iteration 1 by a token on channel 3, and iteration 1 is speculative or is not. -/
def storing (spec : Bool) (isb : List IsbEntry) : State :=
  let s := memory.onElem e14 fun x =>
    { x with
      active := { x.active with
        tw := x.active.tw.set 0 (.ofNat 32 (0x80000000 + 3 * 2 ^ 11 + 64)), iw := x.active.iw.set 0 (wordOf (.st 0 1 2 0 0 false)) },
      inq := x.inq.set 3 [tok 0 1 false false spec], isb := isb }
  withAlloc s (marked ⟨false, false, spec⟩)

theorem witness_StoreParks :
    let s := storing true []
    s.live e14 false = true ∧ (s.elem e14).lastPick ≠ s.fc + 1 ∧ (s.pickSlot e14 false).isSome = false ∧
      ((List.range 16).find? fun n => s.parkable e14 false (Fin.ofNat 16 n)) = some 0 ∧
      ((s.slotInstr e14 false 0).bind storeForm).isSome = true ∧ ((storing false []).pickSlot e14 false).isSome = true ∧
      s.dueStore e14 false = none ∧
      (storing false [.parked false 0 (tok 8 1 false false true) (tok 5 1 false false true) []]).dueStore e14 false ≠ none := by
  decide +kernel

theorem witness_ParkedStoreIssues :
    let pa : Token := ⟨reg .i32 0 [8], 0, 1, false, false, true⟩
    let pb : Token := ⟨reg .i32 0 [5], 0, 1, false, false, true⟩
    let s := storing false [.parked false 0 pa pb []]
    (s.dueStore e14 false).any (fun p =>
      let x := s.dueFiring e14 false p
      p.kind == .st && p.a == pa && p.b == pb && (s.memFlts x p.kind x.pl.k[0] pa.body pb.body).isEmpty && (x.outAlias p.dst p.tag pb.body).isEmpty &&
        (s.tagFaults x p.tag pb.body false).isEmpty && pb.body.fmt == Fmt.ofCode x.sfmt && !pb.body.fmt.scaled && p.m == 0) = true ∧
      (s.elem e14).lastPick ≠ s.fc + 1 ∧ ((storing true [.parked false 0 pa pb []]).dueStore e14 false).isNone = true := by
  decide +kernel

/-- Operation 7 arrives at the memory interface and begins its chain. -/
def linking (w1 : Word) : State :=
  memory.onRing ⟨0, 0⟩ fun r => { r with arriving := [opOf .ld (reg .i32 1 [8]) Reg.zero 0x10000 w1], chains := [⟨0, 0, 0, some 0x01000200, [1]⟩] }

/-- The same of a store of a deterministic launch, and with a wave buffer that is full. -/
def linkingHeld : State :=
  onLaunch0 (memory.onRing ⟨0, 0⟩ fun r => { r with arriving := [opOf .st (reg .i32 0 [8]) (reg .i32 0 [5]) 0x10000 0x02010000],
                                                     chains := [⟨0, 0, 0, some 0x01000200, [1]⟩] }) fun l => { l with det := true, quantum := 1 }
def linkingFull : State :=
  (linking 0x03040000).onRing ⟨0, 0⟩ fun r => { r with waveBuf := List.replicate 256 { opOf .ld Reg.zero Reg.zero 0x10000 0x05060000 with id := 8 } }

theorem witness_WavesLink :
    let next (s : State) : List MemOp :=
      let x := s.ring ⟨0, 0⟩
      x.waiting.filter x.follows ++ x.fresh.filter fun o => !(x.chain o).wrong o.w1 && x.follows o
    let fresh (s : State) : Option Nat := ((s.ring ⟨0, 0⟩).fresh.find? fun o => !((s.ring ⟨0, 0⟩).chain o).wrong o.w1).map MemOp.id
    linkingHeld.focus.ring = ⟨0, 0⟩ ∧
      (∀ s ∈ [linking 0x02010000, linkingHeld], ((next s).find? fun o => !s.isbFull o).map (fun o => (o.id, s.holds o)) = some (7, s == linkingHeld)) ∧
      (∀ s ∈ [linking 0x03040000, linkingFull], next s = [] ∧ fresh s = some 7) ∧ (linking 0x03040000 |>.ring ⟨0, 0⟩).waveBuf.length < 256 ∧
      256 ≤ (linkingFull.ring ⟨0, 0⟩).waveBuf.length := by
  decide +kernel

theorem witness_BrokenWaveFaults :
    let bad (s : State) : Option MemOp :=
      let x := s.ring ⟨0, 0⟩
      (x.fresh.find? fun o => (x.chain o).wrong o.w1).or (x.waveBuf.find? fun o => s.neverLinks ⟨0, 0⟩ o)
    bad (linking 0x01000000) = some (opOf .ld (reg .i32 1 [8]) Reg.zero 0x10000 0x01000000) ∧ bad (linking 0x02010000) = none := by
  decide +kernel

/-- A linked load, or a wait, of the scratchpad, whose result is owed to d2. -/
def linked (o : MemOp) : State :=
  let s := memory.onRing ⟨0, 0⟩ fun r => { r with linked := [o] }
  s.onElem e14 fun x => { x with pend := [⟨7, false, 2, 0, 0⟩] }

/-- Whether a performance is done. -/
def isDone : Perf → Bool | .done _ _ => true | _ => false

/-- A chain whose second operation reads host memory at `off`, behind an operation of kind `k` at offset 8 of the same resource. -/
def chainOf2 (k : MemKind) (off : Nat) : State × MemOp :=
  let p := opOf k (reg .i32 0 [8]) (reg .i32 0 [1]) 0x30000 0x01000000
  let o := { opOf .ld (reg .i32 0 [off]) Reg.zero 0x30000 0x02000000 with id := 8, seq := 1 }
  let s := (linked p).onDie 0 fun d => { d with xlts := [⟨1, 0, 0x80000, 2, true, true, false⟩] }
  (s.onRing ⟨0, 0⟩ fun r => { r with linked := [p, o] }, o)

theorem witness_MemoryRepliesDeliver :
    (∀ k ∈ [MemKind.ld, .waita],
      let o := opOf k (reg .i32 1 [8]) Reg.zero 0x10000 0x01000000
      let s := linked o
      ((s.ring ⟨0, 0⟩).linked.find? fun p => p.id == o.id) = some o ∧ s.performable ⟨0, 0⟩ o = true ∧ isDone (s.perform o) = true) ∧
      (let o := opOf .ldv (reg .i32 0 [8]) (reg .i32 0 [3]) 0x20000 0x01000000
       (linked { o with ready := false }).performable ⟨0, 0⟩ { o with ready := false } = false) ∧
      (let o := opOf .ld (reg .i32 1 [8]) Reg.zero 0x90000 0x01000000
       (linked o).performable ⟨0, 0⟩ o = true ∧ (match (linked o).perform o with | .fail _ => true | _ => false) = true) ∧
      (let o := opOf .ld (reg .i32 1 [8]) Reg.zero 0x30000 0x01000000
       (linked o).performable ⟨0, 0⟩ o = true ∧ (match (linked o).perform o with | .wait _ => true | _ => false) = true) ∧
      (let q := chainOf2 .fence 0x48
       ((q.1.ring ⟨0, 0⟩).linked.find? fun p => p.id == q.2.id) = some q.2 ∧
         ((q.1.ring ⟨0, 0⟩).linked.any fun p => p.launch == q.2.launch && p.ctx == q.2.ctx && p.iter == q.2.iter && decide (p.seq < q.2.seq) &&
           p.kind == .fence) = true) := by
  decide +kernel

/-- R131, cases 5 and 6: a load may be performed before a release of its iteration to another granule, and not before a fence. -/
theorem test_store_buffering :
    let may (k : MemKind) (off : Nat) : Bool := let q := chainOf2 k off; q.1.performable ⟨0, 0⟩ q.2
    [may .stv 0x48, may .st 0x48, may .st 0xC, may .fence 0x48, may .ldv 0x48, may .waita 0x48] = [true, true, false, false, false, false] := by
  decide +kernel

theorem witness_VersionedLoadReady :
    let o := fun n => opOf .ldv (reg .i32 0 [8]) (reg .i32 0 [n]) 0x20000 0x01000000
    (∀ n ∈ [0, 3], ((linked (o n)).ring ⟨0, 0⟩).linked.find? (fun p => p.id == 7 && p.kind == .ldv) = some (o n)) ∧
      (linked (o 0)).opRes e14 0 0x20000 = some (resOf (entryNat 0x1000 0x1000 0 1 0 1 15)) ∧
      (linked (o 0)).ldvMet (o 0) (resOf (entryNat 0x1000 0x1000 0 1 0 1 15)) = true ∧
      (linked (o 3)).ldvMet (o 3) (resOf (entryNat 0x1000 0x1000 0 1 0 1 15)) = false := by
  decide +kernel

/-- A watch of scratchpad word 8 for a value other than `n`. -/
def watching (n : Nat) : State :=
  let s := linked (opOf .waita (reg .i32 0 [8]) (reg .i32 0 [n]) 0x10000 0)
  s.onRing ⟨0, 0⟩ fun r => { r with linked := [], watches := [⟨opOf .waita (reg .i32 0 [8]) (reg .i32 0 [n]) 0x10000 0, tok 8 0 false false false, 0⟩] }

theorem witness_WatchesInstall :
    let s := memory.onDie 0 fun d => { d with xlts := [⟨1, 0, 0x80000, 2, true, true, false⟩] }
    let o := opOf .waita (reg .i32 0 [8]) (reg .i32 0 [1])
    let reached (w0 : Word) : Bool := (s.opRes e14 0 w0).any fun e =>
      e.space == 1 || ((s.missVa 0 (s.opPasid (o w0 0)) (vaOf e.base 8) 4 false).isNone &&
        (s.vaBad 0 (s.opPasid (o w0 0)) (vaOf e.base 8) 4 false).isNone && e.keyidx != 0 && (s.keyOf e.keyidx).isSome)
    [reached 0x10000, reached 0x40000] = [true, true] ∧ (o 0x10000 0).watched = false ∧
      ((s.ring ⟨0, 0⟩).watches.filter fun w => w.op.ctx == (o 0x10000 0).ctx).length < (s.ring ⟨0, 0⟩).monmaxOf := by
  decide +kernel

theorem witness_WatchesWake :
    let w := fun n => opOf .waita (reg .i32 0 [8]) (reg .i32 0 [n]) 0x10000 0
    let e := resOf (entryNat 0 0x1000 0 1 0 0 15)
    (∀ n ∈ [0, 1], ((watching n).ring ⟨0, 0⟩).watches[0]? = some ⟨w n, tok 8 0 false false false, 0⟩ ∧ (watching n).opRes e14 0 0x10000 = some e ∧
      e.space = 1 ∧ e.vers = false ∧ (watching n).watchRead (w n) e (watching n).devKey = (0, 0)) ∧
      (let s := (watching 0).onDie 0 fun d => { d with xlts := [⟨1, 0, 0x80000, 2, true, true, false⟩] }
       let o := { w 0 with w0 := 0x40000 }
       (s.opRes e14 0 0x40000).any (fun e => e.space == 0 && (s.missVa 0 (s.opPasid o) (vaOf e.base 8) 4 false).isNone &&
           (s.vaBad 0 (s.opPasid o) (vaOf e.base 8) 4 false).isNone && e.keyidx != 0 && (s.keyOf e.keyidx).isSome) =
         true) := by
  decide +kernel

/-- A message for a class waits at the port of the junction. -/
def porting (cls : Nat) : State :=
  memory.onElem e14 fun x => { x with port := [⟨9, .ofNat 32 (cls * 2 ^ 20), ⟨0, 0, 0, 0⟩, 1, 0, .elem e14.key false 0 0 0 0, none, none, []⟩] }

theorem witness_PortMessageAccepted : ∀ c ∈ [2, 4, 5, 6],
    let s := porting c
    let full := s.onRing ⟨0, 0⟩ fun r => { r with streamIn := List.replicate 128 Msg.none }
    s.portHolds (((s.elem e14).port.head?).getD Msg.none) = false ∧
    bits (BitVec.ofNat 32 (c * 2 ^ 20)).toNat 23 20 = c ∧ RingAt.ofNum 0 = ⟨0, 0⟩ ∧
      (s.ring ⟨0, 0⟩).streamIn.length + (s.ring ⟨0, 0⟩).transfers.length < 128 ∧ (s.ring ⟨0, 0⟩).sparseIn.length + (s.ring ⟨0, 0⟩).sparse.length < 64 ∧
      128 ≤ (full.ring ⟨0, 0⟩).streamIn.length + (full.ring ⟨0, 0⟩).transfers.length := by
  decide +kernel

/-- A deterministic launch of quanta of one iteration, of which the first has retired. -/
def committing : State :=
  onLaunch0 (withAlloc memory { Alloc.start with marks := [(0, ⟨true, false, false⟩)] }) fun l => { l with det := true, quantum := 1 }

theorem witness_QuantumCommits :
    let x := committing.launch 0
    x.det = true ∧ x.segs ≠ [] ∧ (∀ g ∈ x.segs, committing.quantumDone 0 g.die x.alloc0.quanta = true) ∧ x.alloc0.quanta * x.quantum < x.alloc0.num ∧
      isDone (committing.commitHeld (committing.heldOf 0 0)) = true ∧ (memory.launch 0).det = false := by
  decide +kernel

/-- A held write has stalled since fc 0 on a full buffer of writes of its quantum. -/
def deadlocked : State :=
  let o := { opOf .st (reg .i32 0 [8]) (reg .i32 0 [5]) 0x10000 0x01000000 with stalled := 1 }
  let s := committing.onRing ⟨0, 0⟩ fun r => { r with arriving := [o] }
  { s.onElem e14 fun x => { x with isb := List.replicate 64 (.held o) } with fc := 1048576 }

theorem witness_StoreBufferDeadlockFaults :
    let stuck (s : State) : Option MemOp :=
      let r := s.ring ⟨0, 0⟩
      (r.arriving ++ r.waveBuf).find? fun o => o.elem == e14.key && o.ical == false && o.stalled != 0 && s.isbFull o && r.follows o &&
        decide (o.stalled - 1 + 1048576 ≤ s.fc)
    let other := deadlocked.onElem e14 fun x => { x with isb := .parked false 0 (tok 0 0 false false false) (tok 0 0 false false false) [] :: x.isb.drop 1 }
    (stuck deadlocked).isSome = true ∧ (stuck other).isSome = true ∧ stuck { deadlocked with fc := 1048575 } = none ∧
      (deadlocked.elem e14).isb.all (fun b => match b with | .held p => p.num / (deadlocked.launch 0).quantum == ((deadlocked.launch 0).alloc 0).quanta | _ => false)
        = true := by
  decide +kernel

/-! ### The matrix element -/

/-- The first M-element, and a descriptor of 32 x 64 B16 weights in one tile. -/
def e10 : ElemAt := ⟨⟨⟨0, 0⟩, 0⟩, 10⟩
def desc0 : Desc := { Desc.zero with valid := true, afmt := 2, bfmt := 2, tilecnt := 1 }
def plainSlab : Slab := ⟨0, 0, 4096, 4096, (List.range 4096).map fun _ => 0x40, [], 0⟩

/-- An M-element with descriptor 0, a window of four tiles, its buffers and rows as given, and a sender of CTX 0 in focus. -/
def matrix (part : MPart) (q : List Token) : State :=
  let s := fires e10 fun x =>
    { x with active := { x.active with m := { MPlane.zero with descs := MPlane.zero.descs.set 0 desc0, wcount := 4 } }, main := part, inq := x.inq.set 0 q }
  let s := s.onStripe e10.at_ fun st => { st with active := st.active.map fun c => { c with routes := List.replicate 128 (.ofNat 12 (2 ^ 10 + 1 * 64 + 2 * 8)) } }
  { s with focus := { s.focus with elem := e10, msg := { Msg.none with pasid := 1, sender := .elem e14.key false 0 0 0 0 } }, keys := [(0, Vector.replicate 8 1)] }

def idle : State := matrix MPart.empty []
def accRow (count : Nat) : AccRow := ⟨0, 0, 0, count, true, Vector.replicate 64 0x3F800000⟩

/-- One open row; one completed row. -/
def opened : State := matrix { MPart.empty with rows := [(0, accRow 0)] } []
def completed : State := matrix { MPart.empty with rows := [(0, accRow 1)] } []

/-- A B16 row of A for CTX 0 and iteration 0. -/
def aRow : Token := ⟨reg .b16 15 [0x3F803F80, 0x40004000], 0, 0, true, false, false⟩

theorem witness_MatrixFieldMessages :
    let x := idle.mxMsg
    x.busy 0 = false ∧ (x.desc 0).serves x.cb x.m.ctx = true ∧ x.fits 0 { desc0 with cbook := 0 } = true ∧ x.fits 0 { desc0 with kcount := 1 } = false ∧
      x.fits 0 { desc0 with tilebase := 1, tilecnt := 1 } = true ∧ x.fits 0 { desc0 with round := 1 } = true ∧ x.fits 0 { desc0 with drfmt := true } = true ∧
      (0x20000 : Word).toNat ≥ 2 ^ 16 ∧
      opened.mxMsg.busy 0 = true ∧ (x.desc 1).valid = false ∧ (x.desc 1).serves x.cb x.m.ctx = false ∧
      (let y : MxMsg := { x with m := { x.m with ctx := 1 } }
       (y.desc 0).valid = true ∧ (y.desc 0).serves y.cb y.m.ctx = false) := by
  decide +kernel

/-- Four words are staged: a descriptor like `desc0` at tile 1 of the window. -/
def staged : State := idle.onElem e10 fun x =>
  { x with active := { x.active with m := { x.active.m with fill := some (0, #v[0x80900000, 2, 0x00020000, 0]) } } }

theorem witness_MatrixDescriptorMessages :
    let x := staged.mxMsg
    let d' := descOf (0x80900000 * 2 ^ 160 + 2 * 2 ^ 128 + 0x00020000 * 2 ^ 96)
    x.pl.m.fill = some (x.m.ctx, #v[0x80900000, 2, 0x00020000, 0]) ∧ d'.valid = true ∧ d'.ctxv = x.m.ctx - x.cb ∧ bits 0x00020000 8 0 = 0 ∧
      d'.tilebase.toNat + x.pl.m.wbase.toNat < 2 ^ 32 ∧ x.busy 0 = false ∧ (x.desc 0).serves x.cb x.m.ctx = true ∧
      x.fits 0 { d' with tilebase := .ofNat 32 (d'.tilebase.toNat + x.pl.m.wbase.toNat) } = true ∧ x.fits 0 Desc.zero = true ∧ (descOf 0).valid = false ∧
      opened.mxMsg.busy 0 = true ∧ idle.mxMsg.busy 0 = false ∧ idle.mxMsg.pl.m.fill = none ∧ x.pl.amaxHeld = [] := by
  decide +kernel

theorem witness_MatrixRowMessages :
    let x := opened.mxMsg
    let sent (f : MPart) (g : Msg → Msg) : MxMsg := let u := matrix f []; { u with focus := { u.focus with msg := g u.focus.msg } }.mxMsg
    let inArr := { MPart.empty with rows := [(0, accRow 0)], array := [⟨aRow, 0, 0, 0, 0⟩] }
    x.rowStatus false [0] = 0 ∧ x.rowStatus true [0] = 0 ∧ x.part.draining x.pl.m < 2 ∧ (tabFind 0 x.part.rows).isSome = true ∧
      idle.mxMsg.rowStatus false [0] = 0 ∧ tabFind 0 idle.mxMsg.part.rows = none ∧
      (sent { MPart.empty with rows := [(0, accRow 0), (1, accRow 1), (2, accRow 1)] } id).rowStatus false [0] = 0 ∧
      2 ≤ (sent { MPart.empty with rows := [(0, accRow 0), (1, accRow 1), (2, accRow 1)] } id).part.draining x.pl.m ∧
      (sent { MPart.empty with rows := [(0, accRow 0)] } fun m => { m with ctx := 1 }).rowStatus false [0] = 0x503 ∧
      (sent inArr id).rowStatus false [0] = 0x502 ∧ (sent inArr id).fc = 0 := by
  decide +kernel

/-- A row waits for slab 0, whose load has `got` bytes. -/
def loadingAt (got now : Nat) : State :=
  { matrix { MPart.empty with loading := [{ plainSlab with got := got, bytes := [] }] } [] with fc := now }

/-- A patrol scrub has found the first granule of that slab uncorrectable. -/
def scrubbed : State :=
  { (loadingAt 0 300).onDie 0 fun d => { d with wsEnc := [(0, some (Vector.replicate 8 1))] } with badGrans := [Config.wsAddress 0 0 / 64] }

theorem witness_bad_slab :
    (∀ t ∈ tilesOf 0 256, (scrubbed.keyOf ((scrubbed.die 0).tileSlot t)).isSome = true) ∧
      ((List.range 256).find? fun i => scrubbed.wsBad 0 (0 + i)) = some 0 := by
  have h : scrubbed.wsBad 0 (0 + 0) = true := by
    unfold State.wsBad
    rw [Bool.and_eq_true]
    exact ⟨by simp [scrubbed], by decide +kernel⟩
  refine ⟨by decide +kernel, ?_⟩
  rw [show List.range 256 = 0 :: (List.range 255).map (· + 1) from by decide +kernel, List.find?_cons, h]

theorem witness_SlabsLoad :
    let w := matrix MPart.empty [tok 0 0 false false false]
    let m := (w.elem e10).mpart false
    let p (s : State) : MPlane := ((s.elem e10).plane false).m
    let held (s : State) : List Bool := (((s.elem e10).mpart false).loading.map fun b => (p s).heldPiece s.fc b)
    let key (s : State) (t : Nat) : Bool := (s.keyOf ((s.die 0).tileSlot t)).isSome
    headToken ((w.elem e10).queue false 0) = some (tok 0 0 false false false) ∧ (p w).select 0 0 = some 0 ∧ m.resident 0 0 = none ∧
      m.used + desc0.slabSize ≤ 20480 ∧ w.moving e10.at_ false = true ∧ held (loadingAt 0 0) = [true] ∧ held (loadingAt 0 300) = [false] ∧ held (loadingAt 3840 300) = [false] ∧
      (∀ t ∈ tilesOf 0 256 ++ tilesOf 3840 256, key (loadingAt 0 300) t = true ∧ key { loadingAt 0 300 with keys := [] } t = false) ∧ desc0.coded = false ∧
      desc0.badIndex (List.replicate 4096 0) = none ∧
      ({ desc0 with comp := 1, bfmt := 2, afmt := 2 } : Desc).coded = false ∧
      (({ desc0 with comp := 1 } : Desc).badIndex (List.replicate 4096 0)).isSome = true := by
  decide +kernel

/-- That row in in0, or in the array. -/
def picking : State :=
  let s := matrix { MPart.empty with slabs := [plainSlab] } [aRow]
  s.onRing ⟨0, 0⟩ fun r => { r with almanac := [(0, ⟨true, 0⟩)] }
def inArray : State := matrix { MPart.empty with slabs := [plainSlab], rows := [(0, accRow 0)], array := [⟨aRow, 0, 0, 0, 0⟩] } []

theorem witness_MatrixRowPicked :
    let sel (s : State) : Option (Fin 4) := ((s.elem e10).plane false).m.select 0 0
    let other (f : MPart → MPart) : State := picking.onElem e10 fun x => { x with main := f x.main }
    (∀ s ∈ [picking, other fun m => { m with slabs := [] }, other fun m => { m with rows := [(0, { accRow 0 with ctx := 1 })] }],
      (s.elem e10).queue false 0 = [aRow] ∧ s.live e10 false = true ∧ (s.elem e10).lastPick ≠ s.fc + 1 ∧ s.almanacGrants ⟨0, 0⟩ false 0 = true ∧
        sel s = some 0 ∧ (s.elem e10).counted[(3 : Fin 4)] ≠ s.fc + 1) ∧
      aRow.body.fmt.code = desc0.afmt.toNat ∧ (((picking.elem e10).mpart false).resident 0 0).isSome = true ∧
      ((picking.elem e10).mpart false).draining ((picking.elem e10).plane false).m < 2 ∧
      (((other fun m => { m with slabs := [] }).elem e10).mpart false).resident 0 0 = none ∧
      (picking.onRing ⟨0, 0⟩ fun r => { r with almanac := [] }).almanacGrants ⟨0, 0⟩ false 0 = false ∧
      sel (picking.onElem e10 fun x => { x with active := { x.active with m := MPlane.zero } }) = none ∧
      (tok 0 0 false false false).body.fmt.code ≠ desc0.afmt.toNat := by
  decide +kernel

theorem witness_MatrixRowCommits :
    let s := inArray
    ((s.elem e10).mpart false).array = [⟨aRow, 0, 0, 0, 0⟩] ∧ s.moving e10.at_ false = true ∧ ((s.launch 0).alloc 0).isKilled 0 = false ∧
      aRow.body.fmt.scaled = false ∧ (((s.elem e10).mpart false).resident 0 0).isSome = true ∧
      (tabFind 0 ((s.elem e10).mpart false).rows).isSome = true ∧
      (((withAlloc s { Alloc.start with marks := [(0, ⟨false, true, false⟩)] }).launch 0).alloc 0).isKilled 0 = true ∧
      (reg .e4 0 [1]).fmt.scaled = true ∧ (lowestFlt ((s.scl e10).read 0 (reg .e4 0 [1]))).isSome = true := by
  decide +kernel

theorem witness_MatrixRowDrains :
    let s := completed
    let d : Drain := ⟨0, 0, 0, true, false, false, Vector.replicate 64 0, [0, 2]⟩
    let u := matrix { MPart.empty with drains := [d] } []
    let full := u.onElem e10 fun x => { x with out := x.out.set 2 (List.replicate 2 ⟨tok 5 0 false false false, false, false⟩) }
    let pair : List Drain := [d, { d with iter := 1, left := [1, 2] }]
    ((matrix { MPart.empty with drains := pair } []).elem e10).main.drains = pair ∧ ((s.elem e10).mpart false).rows = [(0, accRow 1)] ∧ desc0.kcount.toNat < (accRow 1).count ∧ ((s.elem e10).mpart false).drains = [] ∧
      s.moving e10.at_ false = true ∧ (∀ q ∈ [0, 1, 2, 3], 1 ≤ s.outFree e10 false (Fin.ofNat 8 q)) ∧ ((u.elem e10).mpart false).drains = [d] ∧
      d.left.Nodup ∧ (∀ q ∈ d.left, q < 8) ∧ ((u.elem e10).mpart false).rows = [] ∧ full.outFree e10 false 0 ≠ 0 ∧ full.outFree e10 false 2 = 0 ∧
      (u.onRing ⟨0, 0⟩ fun r => { r with occupied := true }).moving e10.at_ false = false := by
  decide +kernel

theorem witness_MatrixKillAbsorbed :
    let s := matrix MPart.empty [tok 0 0 true true false]
    (s.elem e10).queue false 0 = [tok 0 0 true true false] ∧ s.moving e10.at_ false = true ∧
      (∀ q ∈ [0, 1, 2, 3], 1 ≤ s.outFree e10 false (Fin.ofNat 8 q)) ∧
      (s.onElem e10 fun x => { x with out := x.out.set 2 (List.replicate 8 ⟨tok 5 0 false false false, false, false⟩) }).outFree e10 false 2 = 0 := by
  decide +kernel

/-! ### The stream engine -/

/-- A table of the scratchpad (1, versioned 2), of host memory (3, 4), of a block-scaled tensor there (5), and an entry of no rights (6). -/
def tensors : List Nat :=
  [entryNat 0 0x4000 0 1 0 0 15, entryNat 0x4000 0x1000 0 1 0 1 15, entryNat 0x200 0x1000 0 0 0 0 15, entryNat 0x2000 0x1000 0 0 0 0 15,
    entryNat 0x3000 0x1000 0 0 4 0 15, entryNat 0x4000 0x1000 0 0 0 0 0]

/-- A message of a class and a MOP from the junction of launch 0, to the engines of its own ring, its reply to channel 2 of element 1. -/
def msgOf (cls mop : Nat) (p : Params) : Msg :=
  ⟨3, .ofNat 32 (mop * 2 ^ 24 + cls * 2 ^ 20), p, 1, 0, .elem e14.key false 0 0 0 0, some (e1.key, 2), none, []⟩

/-- An engine of the ring takes a message; host memory translates; element 1 accepts I32 on channel 2. FIFO 0 is open and FIFO 1 a scaled one, of which each
has room for 8 tokens, 2 of them reserved; stride tables 0 and 1 have 4 elements. -/
def streams (cls : Nat) : State :=
  let s := withTable (fires e14 id) tensors
  let s := { s with focus := { s.focus with msg := msgOf cls 0 ⟨0, 0, 0, 0⟩ } }
  let s := s.onDie 0 fun d => { d with xlts := [⟨1, 0, 0x80000, 2, true, true, false⟩] }
  let s := s.onElem e1 fun x => { x with active := { x.active with hdr := .ofNat 256 (2 ^ (146 + 16)) } }
  s.onRing ⟨0, 0⟩ fun r =>
    { r with
      fifos := [(0, ⟨0, 0, false, false, 0, 8, 0x2000, [some 0, none], 5⟩), (1, ⟨0, 0, true, false, 3, 8, 0x3000, [some 0, none], 5⟩)],
      strides := [(0, (0, [(4, 4)])), (1, (0, [(2, 4), (2, 64)]))] }

/-- The reply of `streams` changed. -/
def repliesTo (r : ReplyTo) (hdr : Word) (snd : Sender) : Msg := { msgOf 4 1 ⟨0, 0, 0, 0⟩ with reply := r, hdr := hdr, sender := snd }

theorem witness_AnswersReachTheirSenders :
    let s := streams 4
    let el := e14
    let al := (s.launch ((s.stripe e1.at_).conf false).launch).alloc e1.at_.ring.die
    let fits (s : State) (e : ElemAt) (c : Fin 8) : Bool :=
      s.moving e.at_ false && s.admits e.at_ false (s.crossing el.at_ false && decide (e.at_ ≠ el.at_)) ((s.stripe el.at_).parity false) &&
        decide (s.queueFree e false c ≠ 0)
    s.senderGone 0 = false ∧ fits s e1 2 = true ∧ al.alias_ 0 = false ∧ al.isKilled 0 = false ∧
      Hdr.accepts ((s.elem e1).plane false).hdr 2 .i32 = true ∧
      fits (s.onElem e1 fun x => { x with inq := x.inq.set 2 (List.replicate 8 (tok 0 0 false false false)) }) e1 2 = false ∧
      (onLaunch0 s fun l => { l with cancelled := true }).senderGone 0 = true ∧ (s.ring e1.at_.ring).heldReplies = [] ∧
      ((s.onRing ⟨0, 0⟩ fun r => { r with heldReplies := [⟨e1.key, 2, false, tok 5 0 false false false, e14.key, 4⟩] }).ring e1.at_.ring).heldReplies.any
        (fun h => h.sender == e14.key && h.ical == false && h.cls == (msgOf 4 1 ⟨0, 0, 0, 0⟩).cls) = true ∧
      bits (repliesTo none 0x05410000 (.relay 0 0)).hdr.toNat 23 20 = 4 := by
  decide +kernel

theorem witness_StreamBindingMessages :
    let s := streams 4
    let m := s.focus.msg
    let r := s.ring m.ring
    let p : Params := ⟨2, 0x00010003, 0x10, 0⟩
    let q : Params := ⟨0x00030103, 0x29, 0, 0⟩
    let w := s.onRing m.ring fun r => { r with ports := [(3, ⟨0, 1, true, none, 7, [], 0, 0, 0, 0, 0, 0⟩)] }
    m.inst = m.ring.num ∧
      ((s.mEnd m 1 space1 (fun r => r.canRead && r.canWrite)).any fun x => s.mRange m (some x) (64 * p.p2.toNat) 256 && !x.res.vers) = true ∧
      bits p.p0.toNat 27 16 = 0 ∧ tabFind 2 r.fifos = none ∧
      (tabFind (bits q.p0.toNat 13 8) r.fifos).isSome = true ∧ r.ports = [] ∧ lowest (fun i => (tabFind i r.ports).isNone) 64 = some 0 ∧
      bits q.p0.toNat 7 4 = 0 ∧ bits q.p0.toNat 15 14 = 0 ∧ q.p1.toNat < 2 ^ 7 ∧
      tabFind 5 r.fifos = none ∧ (tabFind 0 r.fifos).map Fifo.launch = some m.launch ∧
      ((s.onRing m.ring fun r => { r with fifos := [(0, ⟨9, 0, false, false, 0, 8, 0, [], 0⟩)] }).ring m.ring).fifos.map (fun x => x.2.launch) ≠ [m.launch] ∧
      (tabFind 3 (w.ring m.ring).ports).map Port.launch = some m.launch := by
  decide +kernel

theorem witness_StreamTransfersAccepted :
    let s := streams 4
    let m := s.focus.msg
    let spad := s.mEnd m 1 space1 Res.canWrite
    let host := s.mEnd m 3 space0 Res.canRead
    m.inst = m.ring.num ∧ s.mRange m host (64 * 2) (4 * 5) = true ∧ host.all (fun x => decide (x.res.fmt < 4)) = true ∧
      s.mRange m spad (64 * 1) (4 * 5) = true ∧ spad.all (fun x => !x.res.vers) = true ∧
      s.mRange m (s.mEnd m 1 anySpace Res.canRead) (4 * 3) (4 * 2) = true ∧ s.mRange m (s.mEnd m 4 anySpace Res.canWrite) 64 (2 * 64) = true ∧
      s.mRange m (s.mEnd m 5 space0 Res.canRead) 64 (64 * 2) = true ∧ (s.mEnd m 5 space0 Res.canRead).all (fun x => x.res.fmt == 4) = true ∧
      s.mRange m (s.mEnd m 3 space0 Res.canRead) 5 (2 * bytesInUse (Fmt.ofCode 4) 0) = true ∧
      (s.fifo m 0).any (fun x => x.owned m && !x.closed && !x.scaled && decide (x.slots.length + 6 ≤ x.size)) = true ∧
      (s.fifo m 1).any (fun x => x.owned m && !x.closed && x.scaled && decide (x.size < x.slots.length + 7)) = true := by
  decide +kernel

/-- The dimensions of a stride table: two of 3 and 5 elements, and sixteen in all. -/
def dimBytes : List Byte :=
  (List.range 16).flatMap fun d => natBytes 16 ((if d = 0 then 3 else if d = 1 then 5 else 1) + (if d = 0 then 2 ^ 64 - 4 else 12 * d) * 2 ^ 64)

theorem witness_StrideTablesAndCopies :
    let s := (streams 4).onRing ⟨0, 0⟩ fun r => { r with spad := writeBytes 0x400 dimBytes [] }
    let m := s.focus.msg
    let ta : List (Nat × Int) := [(4, 4)]
    let tb : List (Nat × Int) := [(2, 4), (2, 64)]
    let offs := fun (t : List (Nat × Int)) (o : Nat) => (List.range (tabCount t)).map fun i => (o : Int) + tabOff t i
    let a := s.mEnd m 1 anySpace Res.canRead
    m.inst = m.ring.num ∧ s.mRange m a (64 * 0x10) 256 = true ∧
      (a.any fun x => match s.endRead m x (64 * 0x10) 256 with | .bytes bs => decide (bs = dimBytes) | _ => false) = true ∧
      (∀ d ∈ dimsOf dimBytes, d.1 ≠ 0 ∧ d.2.1 = 0) ∧ tabCount ((dimsOf dimBytes).map fun d => (d.1, d.2.2)) < 2 ^ 32 ∧
      (tabFind 2 (s.ring m.ring).strides).all (fun q => decide (q.1 = m.launch)) = true ∧
      s.syncBefore m = false ∧ ((streams 4).onRing ⟨0, 0⟩ fun r => { r with transfers := [Transfer.of (msgOf 4 10 ⟨0, 5, 7, 0⟩)] }).syncBefore m = true ∧
      s.strideTab m 0 a 4 = some ta ∧ s.strideTab m 1 a 4 = some tb ∧ tabCount tb = tabCount ta ∧ (∀ o ∈ offs ta 64, 0 ≤ o ∧ s.mRange m a o.toNat 4 = true) ∧
      (∀ o ∈ offs tb 128, 0 ≤ o ∧ s.mRange m a o.toNat 4 = true) ∧ spansMeet 4 (offs ta 64) (offs tb 128) = false ∧
      (s.strideTab m 63 (s.mEnd m 3 anySpace Res.canRead) 4).map tabCount = some 1024 ∧ (s.mEnd m 3 anySpace Res.canRead).map (fun x => x.res.layout) = some 0 ∧
      a.map (fun x => (x.res.vers, decide (x.res.fmt < 4))) = some (false, true) := by
  decide +kernel

/-- Transfers that the ring has accepted. -/
def accepted (ts : List Transfer) : State := (streams 4).onRing ⟨0, 0⟩ fun r => { r with transfers := ts }

theorem witness_StreamControlMessages :
    let m := (streams 4).focus.msg
    let s := accepted [{ Transfer.of (msgOf 4 3 ⟨0, 0, 0, 0⟩) with fifo := some (0, 5, 2) }, Transfer.of { msgOf 4 4 ⟨0, 0, 0, 0⟩ with ctx := 1 }]
    m.inst = m.ring.num ∧ s.mRange m (s.mEnd m 1 space1 Res.canRead) (8 * 5) 8 = true ∧
      (s.mEnd m 1 space1 Res.canRead).map (fun x => (x.res.vers, x.base % 8)) = some (false, 0) ∧ s.mEnd m 1 space1 Res.canWrite = s.mEnd m 1 space1 Res.canRead ∧
      (tabFind 0 (s.ring m.ring).fifos).map (fun x => (x.launch, x.ctx, x.closed)) = some (m.launch, m.ctx, false) := by
  decide +kernel

/-- An SRDH of 5 words to the scratchpad, an SSYNCW that adds 7, and an SSYNC that waits for 7. -/
def moves : List Transfer :=
  let s := streams 4
  let m := s.focus.msg
  [{ Transfer.of (msgOf 4 3 ⟨0, 2, 1, 5⟩) with src := s.mEnd m 3 space0 Res.canRead, dst := s.mEnd m 1 space1 Res.canWrite },
   { Transfer.of (msgOf 4 11 ⟨0, 5, 7, 0⟩) with dst := s.mEnd m 1 space1 Res.canWrite },
   { Transfer.of (msgOf 4 10 ⟨0, 5, 7, 0⟩) with dst := s.mEnd m 1 space1 Res.canRead }]

def moved (n : Nat) : State := accepted (moves.drop n)

/-- Two transfers of one sender into the same bytes; and an SGATH of one row by the list at 0x100 of the scratchpad, which holds 2. -/
def twice : State := accepted (moves.take 1 ++ moves.take 1)
def gathers (ixs : Option (List Nat)) : State :=
  let s := streams 4
  let m := s.focus.msg
  let spad := s.mEnd m 1 anySpace Res.canWrite
  (accepted [{ Transfer.of (msgOf 4 7 ⟨0, 0, 0x40, 0⟩) with src := s.mEnd m 3 space0 Res.canRead, idx := spad, dst := spad, ixs := ixs }]).onRing ⟨0, 0⟩
    fun r => { r with spad := writeBytes 0x100 (natBytes 4 2) [] }

theorem witness_StreamTransfersPerform :
    let r : RingAt := ⟨0, 0⟩
    let all (ixs : List Nat) (s : State) : List Bool := ((s.ring r).transfers[0]?.map fun t =>
      let rest := skipBytes t.moved (s.pieces t ixs)
      [t.msg.isTransfer, !s.senderGone t.msg.launch, t.ready.isNone, s.overtakes r 0 t rest,
        match s.spans t.msg (((rest.filter fun y => y.from_ ≠ 2).map fun y => (t.srcEnd y.from_, false, y.src, y.len)) ++
          rest.map fun y => (t.dstEnd, true, y.dst, y.len)) with | .ok => true | _ => false, (State.movePieces t rest s 0 0).2.2.2]).getD []
    let far : State := { moved 0 with hdmBase := 0x80000000, hdmSize := 0x10000000, hdmWays := 1, hdmOn := true }
    all [] (moved 0) = [true, true, true, false, true, true] ∧ all [] far = [true, true, true, false, true, false] ∧
    all [2] (gathers (some [2])) = [true, true, true, false, true, true] ∧
    ((gathers none).ring r).transfers[0]?.any (fun t => t.ixs.isNone && t.msg.mop == 7 &&
      match (gathers none).endRead t.msg (t.srcEnd 1) (4 * 0x40) 4 with | .bytes bs => (bytesWords 1 bs).map BitVec.toNat == [2] | _ => false) = true ∧
    ((twice.ring r).transfers[1]?.any fun t => twice.overtakes r 1 t (skipBytes t.moved (twice.pieces t []))) = true ∧
    (let s := accepted [Transfer.of (msgOf 4 2 ⟨0, 0, 0, 0⟩)]
     (s.ring r).transfers[0]?.map (fun t => (t.msg.mop, t.ready)) = some (2, none) ∧ (tabFind 0 (s.ring r).fifos).isSome = true) ∧
    (((moved 0).ring r).transfers.take 1).all (fun u => u.ready.isNone && u.msg.mop != 2 && u.msg.sameSender (msgOf 4 11 ⟨0, 5, 7, 0⟩)) = true ∧
    ((((accepted [Transfer.of (msgOf 4 10 ⟨0, 5, 7, 0⟩)]).ring r).transfers.take 1).all fun u => u.ready.isNone && u.msg.sameSender (msgOf 4 3 ⟨0, 2, 1, 5⟩)) =
      true ∧
    (moved 2).syncMet { (moves.getD 2 (Transfer.of Msg.none)) with msg := msgOf 4 10 ⟨0, 5, 0, 0⟩ } = true ∧
    (∀ n ∈ [0, 1, 2], ((moved n).ring r).transfers[0]?.isSome = true ∧ ((moved n).ring r).transfers[0]?.all (fun t => t.ready.isNone && t.msg.ring == r) = true ∧
        Memory.wf ((moved n).ring r).spad = true) ∧
      (moves[0]?.any fun t => t.moved == 0 && t.fifo.isNone && t.src.any fun a => t.dst.any fun b =>
        a.res.space == 0 && b.res.space == 1 && (match (moved 0).spans t.msg [(a, false, 64 * 2, 20)] with | .ok => true | _ => false) &&
          (List.range 20).all fun i => ((moved 0).endByte t.msg a (64 * 2 + i)).isSome) = true ∧
      (moved 2).senderGone 0 = false ∧ (moved 2).syncMet (moves.getD 2 (Transfer.of Msg.none)) = false := by
  decide +kernel

theorem witness_StreamRepliesInOrder :
    let s := accepted moves
    let t := Transfer.of (msgOf 4 3 ⟨0, 0, 0, 0⟩)
    (∀ u ∈ (s.ring t.msg.ring).transfers, u.ready = none) ∧ t.ready = none ∧ s.focus.msg.ring = t.msg.ring ∧
      (∃ u ∈ (s.ring t.msg.ring).transfers, u.msg.sameSender s.focus.msg = true) ∧
      (∀ u ∈ ((accepted []).ring t.msg.ring).transfers, u.msg.sameSender s.focus.msg = false) := by
  decide +kernel

/-- Port 0 of launch 0 feeds channel 2 of element 1 from FIFO 0, whose two tokens are there; its cohort is open. -/
def ported (p : Port) : State :=
  let s := (streams 4).onRing ⟨0, 0⟩ fun r =>
    { r with
      fifos := [(0, ⟨0, 0, false, false, 0, 8, 0x2000, [some 1, some 1], 5⟩)], ports := [(0, p)],
      regions := r.regions.map fun g => { g with cohortOpen := true, cohorts := 1 } }
  onLaunch0 s fun l => { l with idxMap := [(0, 0)] }

def port0 : Port := ⟨0, 0, false, some 0, 0, [], 0, 0, 1, 2, 0, 0⟩

theorem witness_PortsDeliver :
    let r : RingAt := ⟨0, 0⟩
    let s := ported port0
    let q := ported { port0 with ended := true }
    let z := (ported { port0 with fifo := some 1 }).onRing r fun y => { y with fifos := [(1, ⟨0, 0, true, false, 3, 8, 0x3000, [some 0x8040, some 0], 5⟩)] }
    let e := s.portElem r port0
    let more := onLaunch0 s fun l => { l with idxMap := [] }
    (∀ u ∈ [s, q, z, more], u.cohortFor r port0 = true ∧ u.hasTarget r port0 = true ∧ (u.launch 0).cancelled = false ∧ (u.launch 0).faulted = false ∧
      u.queueFree e false 2 ≠ 0) ∧
      (match s.portRead r port0 with | .tok y => decide (y.scale.isNone ∧ y.fmt = .i32 ∧ y.vlen = 1 ∧ y.last = false) | _ => false) = true ∧
      tabFind 0 (s.launch 0).idxMap = some 0 ∧ ((s.launch 0).alloc 0).alias_ 0 = false ∧ ((s.launch 0).alloc 0).isKilled 0 = false ∧
      Hdr.accepts ((s.elem e).plane false).hdr 2 .i32 = true ∧ tabFind 0 (more.launch 0).idxMap = none ∧ (more.launch 0).canGrant 0 0 more.fc = true ∧
      ((onLaunch0 more fun l => { l with window := 1 }).launch 0).canGrant 0 0 0 = false ∧
      (match z.portRead r { port0 with fifo := some 1 } with | .tok y => y.scale.isSome | _ => false) = true ∧ (s.ring r).scl.canAlloc 0 = true ∧
      ({ (s.ring r).scl with fresh := 2048 }).canAlloc 0 = false ∧
      (match (s.onRing r fun x => { x with fifos := [(0, ⟨0, 0, false, false, 0, 8, 0x2000, [], 5⟩)] }).portRead r port0 with | .wait _ => true | _ => false) = true ∧
      s.hasTarget r { port0 with slot := 10 } = false ∧ (ported { port0 with marked := 1 }).cohortFor r { port0 with marked := 1 } = false ∧
      (s.onElem e fun x => { x with inq := x.inq.set 2 (List.replicate 8 (tok 0 0 false false false)) }).queueFree e false 2 = 0 := by
  decide +kernel

/-- Launch 0 is READY with its ingress list in entry `n` of its table, where host memory holds the words `ws`. -/
def listed (n : Nat) (ws : List Nat) : State :=
  let s := { streams 4 with hostMem := writeBytes (0x80000000 + 0x200) (ws.flatMap (natBytes 4)) [] }
  onLaunch0 s fun l => { l with state := .ready, args := l.args.set 15 (.ofNat 32 (n * 2 ^ 16)) }

/-- One port of 3 tokens of 4 bytes for channel 2 of element 1, and a list whose first entry has KIND 3. -/
def onePort : List Nat := [2 ^ 30 + 2 * 2 ^ 10 + 1 * 2 ^ 6, 4 * 2 ^ 16, 0, 3, 4, 0, 0, 0]

theorem witness_IngressListsChecked :
    let l := launchKey 0 0
    let rd (s : State) (r : Res) (o : Nat) : CRead := s.cRead 0 1 r o 32 none (s.launchQueue l) { FRec.zero with plane := 3, die := 0, pasid := 1 }
    (∀ s ∈ [listed 0 [], listed 6 [], listed 3 onePort, listed 3 [3 * 2 ^ 30]],
      (s.launch l).state = .ready ∧ (s.launch l).ingress = none ∧ (s.launch l).cancelled = false ∧ (s.launch l).faulted = false) ∧
      (((listed 6 []).resource 1 none 6).filter fun r => r.usable && r.space == 0 && r.canRead) = none ∧
      (∀ ws ∈ [onePort, [3 * 2 ^ 30]],
        let s := listed 3 ws
        (s.resource 1 none 3).any (fun r => r.usable && r.space == 0 && r.canRead && decide (64 ≤ r.extent) &&
          match listRead (rd s r) r.extent 0 17 0 [] with
          | .entries es => es.length == 2 &&
            (match s.listCheck 1 es [] with | .inr ps => ps.length == 1 && decide (ws = onePort) | .inl st => decide (ws ≠ onePort ∧ st = 0x060D))
          | _ => false) = true) ∧
      (((listed 3 onePort).resource 1 none 3).any fun r => match listRead (rd (listed 3 onePort) r) 63 0 17 0 [] with | .range => true | _ => false) = true ∧
      (let s := onLaunch0 (ported port0) fun x => { x with state := .bound, woken := false }
       let q : Port := { port0 with fifo := some 2 }
       let u := s.onRing ⟨0, 0⟩ fun y => { y with fifos := y.fifos ++ [(2, ⟨0, 0, false, false, 0, 8, 0x2000, [], 5⟩)], ports := [(0, q), (1, port0)] }
       let tok (s : State) : Bool := match s.portRead ⟨0, 0⟩ port0 with | .tok _ => true | _ => false
       (s.launch l).state = .bound ∧ (s.launch l).woken = false ∧ (s.launch l).segs.length = 1 ∧
        (((s.ring ⟨0, 0⟩).ports.map Prod.snd).filter fun p => p.launch == l && p.next == 0 && !p.ended) = [port0] ∧ tok s = true ∧
        (((u.ring ⟨0, 0⟩).ports.map Prod.snd).filter fun p => p.launch == l && p.next == 0 && !p.ended) = [q, port0] ∧
        (match u.portRead ⟨0, 0⟩ q with | .wait v => tok v | _ => false) = true) := by
  decide +kernel

/-! ### The sparse-update engine -/

theorem witness_SparseMessagesAccepted :
    let s := streams 5
    let m := s.focus.msg
    m.inst = m.ring.num ∧ (s.mEnd m 1 anySpace Res.canUpdate).any (fun a => !a.res.vers && s.mRange m (some a) 8 4) = true ∧
      (∀ f ∈ ([(1, 0), (2, 1), (3, 0), (4, 0), (5, 0), (6, 0), (7, 0), (8, 0)] : List (Nat × Nat)), updFmtOk f.1 f.2 = true) ∧ s.mEnd m 6 anySpace Res.canUpdate = none ∧
      s.mRange m (s.mEnd m 3 anySpace Res.canRead) 64 (3 * 2 * 4) = true ∧ s.mRange m (s.mEnd m 4 anySpace Res.canRead) (4 * 5) (4 * 3) = true ∧
      (s.ring m.ring).sparse = [] ∧
      ((s.onRing ⟨0, 0⟩ fun r => { r with sparse := [SparseMsg.of (msgOf 5 1 ⟨0, 0, 0, 0⟩)] }).ring m.ring).sparse.all (fun x => x.msg.sameSender m) = true := by
  decide +kernel

/-- A message of operator `mop` whose one word, at byte 0x2008 of the scratchpad, is updated by 5, and for UCAS expects 7. -/
def updating (mop : Nat) (expanded : Bool) (win : List WinEntry) : State :=
  let s := streams 5
  let x := { SparseMsg.of (msgOf 5 mop ⟨0x00010100, 0x2008, 5, if mop = 8 then 7 else 0⟩) with dst := s.mEnd s.focus.msg 1 anySpace Res.canUpdate, expanded := expanded }
  s.onRing ⟨0, 0⟩ fun r => { r with sparse := [x], window := win, spad := writeBytes 0x2008 (natBytes 4 7) [] }

def winOf (mop : Nat) (v : WinVal) : WinEntry := ⟨0x80, 2, ⟨mop, .i32, false, 0⟩, 0, false, 0, [(8, v)], false, true, 1, [3], []⟩

theorem witness_SparseUpdatesPerform :
    (∀ mop ∈ [1, 3, 4, 5, 6, 7, 8],
      let s := updating mop false []
      let x := (s.ring ⟨0, 0⟩).sparse.head?
      s.focus.ring = ⟨0, 0⟩ ∧ (s.ring ⟨0, 0⟩).sparse.find? (fun x => !x.expanded) = x ∧ x.map (fun x => x.msg.mop) = some mop ∧
        x.any (fun x => x.msg.ring == ⟨0, 0⟩ && bits x.msg.p.p0.toNat 9 8 == 1 && bits x.msg.p.p0.toNat 15 13 == 0 && x.toks.isEmpty && x.dst.any fun a => a.res.space == 1) = true) ∧
      (let s := updating 1 false [winOf 1 (.bits 5)]
       (s.ring s.focus.ring).window = [winOf 1 (.bits 5)] ∧ (winOf 1 (.bits 5)).place = 2 ∧ (winOf 1 (.bits 5)).key.fmt = .i32 ∧ Memory.wf (s.ring s.focus.ring).spad = true) ∧
      (let s := updating 1 true []
       (s.ring s.focus.ring).sparse.map (fun x => (x.expanded, x.outstanding, x.refused, x.noKey, x.bad)) = [(true, 0, none, false, 0)]) ∧
      ({ SparseMsg.of (msgOf 5 1 ⟨0, 0, 0, 0⟩) with expanded := true, refused := some 0x0702 } : SparseMsg).outstanding = 0 ∧
      (let m := msgOf 5 1 ⟨0x00010000, 0x00010001, 0, 0⟩
       let s := { updating 1 true [] with focus := { (updating 1 true []).focus with msg := m } }
       let a := s.mEnd m 1 anySpace Res.canUpdate
       let x : SparseMsg := { SparseMsg.of m with dst := a, src := a, idx := a }
       let far := s.onRing ⟨0, 0⟩ fun r => { r with spad := writeBytes 0 (natBytes 4 0xFFFFFF) r.spad }
       (updOf 1 m.p).imm = false ∧ (match far.endRead m (x.idx.getD fifoEnd) ((updOf 1 m.p).ioff + 4 * 0) 4 with
         | .bytes ib => !far.mRange m x.dst ((updOf 1 m.p).row * bytesNat ib) (updOf 1 m.p).row
         | _ => false) = true ∧ far.lost m (x.idx.getD fifoEnd) false ((updOf 1 m.p).ioff + 4 * 0) 4 = false ∧ x.toks = [] ∧ (SparseMsg.of (msgOf 5 10 ⟨0, 0, 0, 0⟩)).expanded = false) := by
  decide +kernel
/-! ### Packets -/

/-- A procession header of one stage and one page, and an argument block of the words 1 to 14 and no chain. -/
def headBytes : List Byte :=
  let x := 0x50524F43 * 2 ^ 480 + 2 ^ 464 + 2 ^ 444 + 7 * 2 ^ 432 + 15 * 2 ^ 420
  let b := (natBytes 64 x).drop 4
  natBytes 4 (crc32 b).toNat ++ b

def argBytes : List Byte := (List.range 16).flatMap fun i => natBytes 4 (if i < 14 then i + 1 else 0)

/-- Queue 0, whose rings lie in the carve-out, and queue 1 of job 1, with packets 5 and 4 open; packet 4 was a LAUNCH, and launch 0 is its. Host memory
holds a header at entry 3 and an argument block at entry 4; job 9 has no launch. -/
def queued (q : BitVec 20) : State :=
  let s := streams 6
  let s := onLaunch0 s fun l => { l with qid := 1, pseq := 4, graph := 7, order := 1 }
  let l : Latch := { Latch.zero with valid := true, rsize := 4, csize := 4, lseq := 6, taken := 5 }
  let s := s.onDie 0 fun d =>
    { d with
      queues := [(0, ⟨0, true, 0x8C00000000, 0x8C00001000, none, [⟨5, 1, true⟩, ⟨4, 1, false⟩], [], []⟩),
        (1, ⟨1, true, 0x1000, 0x2000, none, [⟨5, 1, true⟩, ⟨4, 1, false⟩], [(4, false), (3, false)], []⟩)],
      latch := [(0, l), (1, l)], graphs := [(1, 7)] }
  { s with
    focus := { s.focus with queue := q }, jobs := s.jobs ++ [(9, Job.zero)],
    hostMem := writeBytes 0x80000200 headBytes (writeBytes 0x80002000 argBytes []) }

def headOf (n : BitVec 16) : PktHead := ⟨n, true, false, 0, 0⟩

/-- Hart 7 of die 0 runs the firmware and holds queue 1. -/
def hosted (s : State) : State :=
  (s.onHart 0 7 fun h => { h with mapped := true, pasid := 1, qid := 1, rsize := 4, csize := 4 }).onDie 0 fun d => { d with feFwup := true }

theorem witness_CompletionRecords :
    let s := queued 0
    let full := s.onDie 0 fun d => { d with latch := [(0, { Latch.zero with valid := true, csize := 4, cpost := 16 })] }
    (∀ u ∈ [s, full], (u.queue 0).any (fun q => q.outbox.isEmpty && q.boot (localIx 0) &&
      [5, 4].all fun n => q.opens.any fun o => o.seq == n && o.cmpl == (n == 5)) = true ∧ Memory.wf u.hbm = true) ∧
      seqDist (s.latch 0).cpost (s.latch 0).cack < 2 ^ (s.latch 0).csize.toNat ∧
      2 ^ (full.latch 0).csize.toNat ≤ seqDist (full.latch 0).cpost (full.latch 0).cack ∧
      (s.queue 1).any (fun q => !q.boot (localIx 1) && q.outbox.isEmpty && (s.fBlock 0 1 (0x2000 + 64) 64 true none).isNone && q.cbase == 0x2000) = true ∧
      (let dark := s.onDie 0 fun d => { d with xlts := [] }
       (dark.missVa 0 1 (0x2000 + 64) 64 true).isSome = true ∧ badVa (0x2000 + 64) 64 = none) := by
  decide +kernel

theorem witness_QueuePackets :
    let s := queued 1
    let word := bytesNat (s.fRead 0 1 0x200 8)
    let dark := s.onDie 0 fun d => { d with xlts := [] }
    let fixed := s.onDie 0 fun d => { d with xlts := [⟨1, 0, 0x80000, 2, true, false, false⟩] }
    (s.queue 1).isSome = true ∧ (s.fBlock 0 1 0x200 8 false none).isNone = true ∧ (s.fBlock 0 1 0x200 8 true none).isNone = true ∧
      (dark.fBlock 0 1 0x200 8 false none).isSome = true ∧ (fixed.fBlock 0 1 0x200 8 false none).isNone = true ∧
      (fixed.fBlock 0 1 0x200 8 true none).isSome = true ∧ word ≠ 5 ∧ 0 ≤ (BitVec.ofNat 64 word - 0).toInt ∧
      ¬0 ≤ (BitVec.ofNat 64 word - (.ofNat 64 word + 1)).toInt ∧ s.serving 1 = false ∧ (hosted s).serving 1 = true ∧ ((hosted s).server 1).isSome = true := by
  decide +kernel

theorem witness_CancelAndCountPackets :
    let s := queued 1
    let dark := s.onDie 0 fun d => { d with xlts := [] }
    (s.queue 1).any (fun q =>
      (s.pktItem 1 q 5 9).isNone && decide (s.pktItem 1 q 5 3 = some none) && decide (s.pktItem 1 q 5 4 = some (some 0)) && (s.darkSlot 1 q).isNone &&
        (dark.darkSlot 1 q).isSome) = true ∧
      s.levelItems 0 1 2 8 = none ∧ s.levelItems 0 1 2 7 = some [0] ∧ s.levelItems 0 1 3 0 = some [0] ∧ s.levelItems 0 1 3 1 = none ∧
      s.levelItems 0 1 4 0 = some [0] := by
  decide +kernel

/-- A LAUNCH of the header and the argument block, for graph 7. -/
def launchOf (depv : BitVec 4) : LaunchBody := ⟨3, 0, 4, 0, 7, 9, 0, 0, 0, depv, 0, 0⟩

theorem witness_LaunchPackets :
    let s := queued 1
    let b := launchOf 0
    let g := procHead headBytes
    let site := { FRec.zero with plane := 3, die := 0, pasid := 1 }
    let reads (r : Option Res) (bs : List Byte) : Bool := r.any fun r => match s.cRead 0 1 r 0 64 none (some (1, 5)) site with
      | .bytes b => decide (b = bs)
      | _ => false
    (s.queue 1).any (fun q => decide (q.pasid = 1) && (depsOf (launchOf 1)).any fun p => !q.named 5 p.1) = true ∧
      reads (imageRes (s.resource 1 none b.iridx.toNat)) headBytes = true ∧ reads (argsRes (s.resource 1 none b.aridx.toNat) 0) argBytes = true ∧
      (imageRes (s.resource 1 none b.iridx.toNat)).all (fun r => decide (64 + 3072 * g.stages ≤ r.extent)) = true ∧
      lowest (fun e => (tabGet Launch.zero e (s.die 0).launches).state = .free) 4096 = some 1 ∧ ((s.die 0).phase 1).pend = [] ∧ g.good = true ∧
      (s.die 0).devMingen.toNat ≤ g.nativegen.toNat ∧ g.nativegen.toNat ≤ (s.die 0).devMaxgen.toNat ∧ g.pages = 1 ∧
      ((bytesWords 16 argBytes).getD 14 0).toNat = 0 ∧
      (let x (n : BitVec 16) : Present := ⟨1, 1, 6, false, none, 7, 0, 9, 0, [], [], n, 0, 4, 0, false⟩
       (match s.present 0 (x 6) with | .refused _ => true | _ => false) = true ∧
         (match (s.onDie 0 fun d => { d with xlts := [] }).present 0 (x 3) with | .wait _ => true | _ => false) = true) := by
  decide +kernel

theorem witness_RelayPackets :
    let s := queued 1
    (s.queue 1).map Queue.pasid = some 1 ∧ ((s.ring (RingAt.ofNum 0)).ctxOf 1).isSome = true ∧ (s.ring (RingAt.ofNum 5)).ctxOf 1 = none := by
  decide +kernel

theorem witness_ContextAndQueuePackets :
    let s := queued 0
    inCarve 0x8C00100000 (64 * 8) = true ∧ inCarve 0x8C00200000 0x10000 = true ∧ tabFind 8 s.jobs = none ∧ (tabFind 1 s.jobs).isSome = true ∧
      inCarve 0x8C00100020 (64 * 8) = true ∧ inCarve 0x1000 64 = false ∧ s.otherPackets 9 0 = 0 ∧ (∀ p ∈ s.allLaunches, p.2.pasid = 9 → p.2.device = false → p.2.state = .free ∨ p.2.state = .done) ∧
      (∀ r ∈ allRings, ∀ g ∈ (s.ring r).regions, g.pasid ≠ 9) ∧ (s.latch 5).valid = false ∧ (s.latch 1).valid = true ∧
      (∀ p ∈ s.allLaunches, p.2.qid = 0 → p.2.state = .free ∨ p.2.state = .done) ∧
      (∃ p ∈ s.allLaunches, p.2.qid = 1 ∧ p.2.state ≠ .free ∧ p.2.state ≠ .done) := by
  decide +kernel
/-! ### Controller messages -/

/-- A controller takes a relay packet's message of the kernel queue 0 with CTX 0 of job 1; slot 3 of the almanac is the job's alone; die 0 has a weight
window 2 of job 1 of four tiles. -/
def relayed : State :=
  let s := queued 0
  let s := { s with focus := { s.focus with msg := { msgOf 6 0 ⟨0, 0, 0, 0⟩ with sender := .relay 0 5 } } }
  let s := s.onRing ⟨0, 0⟩ fun r => { r with almanac := [(3, ⟨false, 1⟩), (4, ⟨true, 1⟩)] }
  s.onDie 0 fun d => { d with wswin := [(2, ⟨true, 1, 16, 4⟩)] }

theorem witness_ItemMessages :
    let s := relayed
    let m := s.focus.msg
    m.inst < 16 ∧ m.inst % 4 = 0 ∧ 0 / 2 ^ 22 = m.inst / 4 ∧ (s.launch 0).state ≠ .free ∧ (s.launch 0).state ≠ .done ∧
      s.levelItems 0 m.pasid 1 5 = none ∧ s.levelItems 0 m.pasid 1 0 = some [0] ∧ s.levelItems 0 m.pasid 2 7 = some [0] ∧ s.levelItems 0 m.pasid 4 0 = some [0] ∧
      s.findLaunch 0 = some 0 ∧ (s.launch 0).pasid = m.pasid ∧ (s.launch 0).segs.length = 1 ∧ (s.launch 0).ical = false := by
  decide +kernel

/-- The junction of launch 0 sends PLAUNCH of the image at entry `n`, with the argument block at entry 4. -/
def launching (n : Nat) : State :=
  let s := queued 0
  { s with focus := { s.focus with msg := msgOf 6 1 ⟨.ofNat 32 (n * 2 ^ 16 + 4), 0, 0, 7⟩ } }

def presented (n : BitVec 16) : Present :=
  { pasid := 1, qid := 1, pseq := 4, device := true, parent := some 0, graph := 7, phase := 0, prio := 7, rscope := 0, deps := [], parentOps := [],
    iridx := n, ioff := 0, aridx := 4, aoff := 0, void := false }

theorem witness_LaunchMessages :
    let full := (launching 3).onDie 0 fun d => { d with xlts := [] }
    (launching 3).focus.msg.sender = .elem e14.key false 0 0 0 0 ∧ (launching 3).focus.msg.inst = 0 ∧
      (match (launching 3).present 0 (presented 3) with | .taken _ j => j == 1 | _ => false) = true ∧
      (match (launching 6).present 0 (presented 6) with | .refused st => st == 0x301 | _ => false) = true ∧
      (match full.present 0 (presented 3) with | .wait _ => true | _ => false) = true := by
  decide +kernel

theorem witness_WaitingMessages :
    let s := relayed
    let m := s.focus.msg
    let r := RingAt.ofNum m.inst
    m.inst = 0 ∧ m.sender = .relay 0 5 ∧ (s.queue 0).map Queue.kernel = some true ∧ (tabFind 1 s.jobs).isSome = true ∧ s.findLaunch 0 = some 0 ∧
      (s.launch 0).pasid = m.pasid ∧ (s.launch 0).segs.length = 1 ∧ (s.launch 0).ical = false ∧ (s.launch 0).cancelled = false ∧
      (s.launch 0).faulted = false ∧ (∀ h ∈ (s.ring ⟨0, 0⟩).regions, ∀ e ∈ h.reqs, e.isEvict = false) ∧ (s.ring ⟨0, 0⟩).regions ≠ [] ∧
      (s.sourceRes m 3 0 4096).isSome = true ∧ (s.keyOf 1).isSome = true ∧
      (let w := tabGet WsWin.zero 2 (s.die r.die).wswin; w.valid = true ∧ w.base.toNat + w.count.toNat ≤ 196608 ∧ 3 + 1 ≤ w.count.toNat) ∧
      (∀ g ∈ (s.ring r).regions, (s.ring r).lowerPage g = none) := by
  decide +kernel

/-- Launch 0 is evicted from page 0, which is free, in the state `st`; its record is one block of the save area. -/
def evicted0 (st : LState) : State :=
  let g : Region := ⟨0, 1, 1, 0, [0], [], [(some 0, 0)], 0, 0, 0, false, false, []⟩
  let s := onLaunch0 relayed fun x => { x with state := .evicted, segs := [] }
  let s := { s with jobs := s.jobs.map fun (j : Nat × Job) => (j.1, { j.2 with sabase := 0x8C00200000, sasize := 0x10000 }) }
  let s := s.onRing ⟨0, 0⟩ fun r => { r with regions := [], ctxs := [] }
  s.onDie 0 fun d =>
    { d with
      evicted := [⟨0, 0, ⟨0, 0, 0, 0, Alloc.start, 0⟩, [(0, ⟨0, 0, 0, 0, Alloc.start, 0⟩, st)], [], g, false, [], [], [], [], [], [], [], [], [], [], [], [], [], 0, 1⟩]
      lastBind := 7 }

/-- An entry to be written at index 7 of a table of no region, from host memory at entry 3. -/
def rewriting : State :=
  let s := { relayed with hostMem := writeBytes 0x80000200 (natBytes 64 (entryNat 0x77 0x40 0 0 0 0 15)) [] }
  s.onRing ⟨0, 0⟩ fun r => { r with regions := [] }

theorem witness_TableAndRestoreMessages :
    let s := evicted0 .bound
    let m := s.focus.msg
    let u := rewriting
    let j := (tabFind 1 u.jobs).getD Job.zero
    let e := (relayed.resource 1 none 3)
    let hinted := { relayed with hbm := writeBytes (0x1000 + 64 * 3) (natBytes 64 (entryNat 0x200 0x1000 0 0 0 0 15 + 2 ^ 376)) relayed.hbm }
    (m.inst = 0 ∧ (s.queue 0).map Queue.kernel = some true ∧ s.findLaunch 0 = some 0 ∧ (s.launch 0).pasid = m.pasid ∧ (s.launch 0).state = .evicted ∧
      (s.launch 0).cancelled = false ∧ (s.launch 0).faulted = false ∧ (s.die 0).lastBind ≠ s.fc + 1 ∧
      (s.evictedOf 0).length = 1 ∧ s.spoilt 0 = none ∧
      (State.restoreAll (s.launch 0) (s.evictedOf 0) s).any (fun u => decide ((u.launch 0).state ≠ .running)) = true ∧
      (State.restoreAll ((evicted0 .running).launch 0) ((evicted0 .running).evictedOf 0) (evicted0 .running)).any
        (fun u => decide ((u.launch 0).state = .running ∧ (u.launch 0).restoring = [])) = true ∧
      (let w := onLaunch0 s fun x => { x with pages := 9 }; (State.restoreAll (w.launch 0) (w.evictedOf 0) w).isNone = true) ∧
      ({ s with hbmKey := tabPut (0x8C00200000 / 64) none s.hbmKey }.spoilt 0).isSome = true ∧ ({ s with fc := 6 }.die 0).lastBind = 6 + 1) ∧
      (7 ≤ j.rtcnt.toNat ∧ (match (u.sourceRes m 3 0 64).map fun e => u.cRead 0 m.pasid e 0 64 none none { FRec.zero with plane := 3, die := 0, pasid := m.pasid } with
        | some (.bytes bs) => !(resOf (bytesNat bs)).vers
        | _ => false) = true ∧ u.jobRegions 1 = [] ∧ Memory.wf u.hbm = true) ∧
      e.map Res.pref = some false ∧ (imageRes e).isSome = true ∧
      (imageRes (hinted.resource 1 none 3)).any (fun e => e.pref && decide (64 ≤ e.extent) && canonical (vaOf e.base 0) &&
        (hinted.missVa 0 1 (vaOf e.base 0) 64 false).isNone && match hinted.cRead 0 1 e 0 64 none none FRec.zero with
          | .bytes hb => (procHead hb).good
          | _ => false) = true := by
  decide +kernel
/-- The conditions under which the messages of a controller are refused, or wait. -/
theorem witness_RefusedAndWaitingMessages :
    let s := relayed
    let own := msgOf 6 13 ⟨0, 0, 0, 0⟩
    let dark := s.onDie 0 fun d => { d with xlts := [] }
    let e := (s.resource 1 none 3).getD fifoEnd.res
    let hint := { e with pref := true }
    let kind (c : CRead) : Nat := match c with | .bytes _ => 0 | .wait _ => 1 | .addr _ => 2 | .noKey => 3
    let ahead (c : AheadRead) : Nat := match c with | .bytes _ => 0 | .wait _ => 1 | .stop => 2
    s.jobLaunch s.focus.msg 5 = none ∧ own.ring = ⟨0, 0⟩ ∧ ((s.ring ⟨0, 0⟩).regionOf e14.at_.stripe.val).map Region.page = some 0 ∧
      (s.keyOf 9).isSome = false ∧ (tabGet WsWin.zero 3 (s.die 0).wswin).valid = false ∧
      (let y := s.ring ⟨0, 0⟩
       let up := { y with regions := y.regions.map fun (g : Region) => { g with page := 1 } }
       (up.atPage 1).any (fun g => (up.lowerPage g).isSome && g.reqs.isEmpty) = true) ∧
      [kind (s.cRead 0 1 e 0 64 none none FRec.zero), kind (dark.cRead 0 1 e 0 64 none none FRec.zero),
        kind (s.cRead 0 1 { e with base := 2 ^ 57 } 0 64 none none FRec.zero)] = [0, 1, 2] ∧
      [ahead (s.readAhead 0 1 hint 0 64), ahead (dark.readAhead 0 1 hint 0 64), ahead (s.readAhead 0 1 e 0 64)] = [0, 1, 2] ∧
      (dark.missVa 0 1 0x200 64 false).isSome = true := by
  decide +kernel

/-! ### Procession -/

/-- An image of stage 0 with no element: its version and its CRC. -/
def emptyImage : Image := [0x66bfea20] ++ List.replicate 14 0 ++ [0x10000] ++ List.replicate 752 0

def cfg0 : Cfg := { Cfg.zero with pasid := 1, present := 0xFFFF }
def p0 : StripeAt := ⟨⟨0, 0⟩, 0⟩

/-- The region of launch 0 at page 0, its plan given; stripe 0 has made `n` swaps and stripe 3 `m`, and holds `a` and `b`. -/
def wave (n m : Nat) (a b : Option Cfg) (plan : List (Option Nat × Nat)) : State :=
  let s := onLaunch0 (queued 0) fun l => { l with iridx := 3 }
  let s := s.setStripe p0 { Stripe.empty with active := a, shadow := b, shadowReady := b.isSome, swaps := n }
  let s := s.setStripe ⟨⟨0, 0⟩, 3⟩ { Stripe.empty with swaps := m }
  s.onRing ⟨0, 0⟩ fun r => { r with regions := r.regions.map fun g => { g with plan := plan } }

/-- The image of stage 0 of launch 0 lies in host memory behind its header, or is not there. -/
def imaged (im : Image) : State :=
  { wave 0 0 none none [(some 0, 0)] with hostMem := writeBytes 0x80000240 (im.flatMap fun w => natBytes 4 w.toNat) [] }

theorem witness_ImagesFetched :
    let r : RingAt := ⟨0, 0⟩
    let e (s : State) : Option Res := (s.resource 1 ((s.imagePlace r 0).map fun g => (r.num, g.page.val)) (s.launch 0).iridx.toNat).filter Res.usable
    let kind (c : CRead) : Nat := match c with | .bytes _ => 0 | .wait _ => 1 | .addr _ => 2 | .noKey => 3
    let got (s : State) : Nat := ((e s).map fun e => kind (s.imageBytes r (s.launch 0) e 64 (!s.wanted r 0 0) (s.launchQueue 0) (s.loadSite r 0 0 0 0 false))).getD 4
    let dark := (imaged emptyImage).onDie 0 fun d => { d with xlts := [] }
    (∀ im ∈ [emptyImage, []],
      let s := imaged im
      let x := s.launch 0
      (s.ring r).launchAt 0 = some 0 ∧ x.cancelled = false ∧ x.faulted = false ∧ 0 < x.stages ∧ x.woken = true ∧
        (s.ring r).cache.any (s.stageKey r 0 0).same = false ∧ s.wanted r 0 0 = true ∧
        (e s).any (fun e => decide (64 + 3072 ≤ e.extent) && e.space == 0 && e.canFetch &&
          match s.imageBytes r x e 64 (!s.wanted r 0 0) (s.launchQueue 0) (s.loadSite r 0 0 0 0 false) with
          | .bytes bs => (fetchFault x 0 (imageWords bs)).isNone == decide (im ≠ [])
          | _ => false) = true) ∧
      (e dark).isSome = true ∧ got dark = 1 ∧ (imaged emptyImage).wanted r 0 1 = false ∧
      e (onLaunch0 (imaged emptyImage) fun l => { l with iridx := 6 }) ≠ none ∧
      e (onLaunch0 (imaged emptyImage) fun l => { l with iridx := 9 }) = none ∧ ((imaged emptyImage).ring r).launchAt 5 = none := by
  decide +kernel

/-- The cache of the ring holds the image of stage 0. -/
def cached (im : Image) (plan : List (Option Nat × Nat)) : State :=
  let s := wave 0 0 none none plan
  s.onRing ⟨0, 0⟩ fun r => { r with cache := [{ s.stageKey ⟨0, 0⟩ 0 0 with words := im }] }

theorem witness_ShadowsLoad :
    let s := cached emptyImage [(some 0, 0)]
    let t := cached emptyImage [(none, 0)]
    let plan (v : State) : State := (v.wakePages p0.ring).planRing p0.ring
    let next (v : State) : Option (Option (Nat × Nat)) :=
      (((plan v).ring p0.ring).regionOf 0).bind fun g => g.next (plan v) p0.ring (g.indexOf 0)
    let line (v : State) : Option CacheLine := ((plan v).ring p0.ring).cache.find? ((plan v).stageKey p0.ring 0 0).same
    (∀ v ∈ [s, t], ((plan v).ring p0.ring).icalLaunch = none ∧ (plan v).shadowOk p0 = false) ∧ next s = some (some (0, 0)) ∧
      (line s).any (fun c => (lineFault (s.launch 0) 0 c.words).isNone && imgPresent c.words 14 == false) = true ∧
      (line (cached (List.replicate 14 0 ++ [1]) [(some 0, 0)])).any (fun c => (lineFault (s.launch 0) 0 c.words).isSome) = true ∧
      line (wave 0 0 none none [(some 0, 0)]) = none ∧ next t = some none ∧
      (plan (wave 0 0 none (some cfg0) [(some 0, 0)])).shadowOk p0 = true ∧
      ((plan s).ring p0.ring).regionOf 9 = none ∧
      (let v := onLaunch0 (s.onRing ⟨0, 0⟩ fun r => { r with icalLaunch := some 0, icalLoaded := 0 }) fun l => { l with ical := true, stages := 1 }
       let u := plan v
       (u.ring p0.ring).icalLaunch = some 0 ∧ (u.ring p0.ring).occupied = false ∧ (u.ring p0.ring).icalLoaded = 0 ∧ 0 < (u.launch 0).stages ∧
         u.goneLaunch 0 = false) := by
  decide +kernel

/-- Stripe 0 is due for stage 0, whose element 14 has a saved state `v` or none; a hold may stop the ring. -/
def swapping (held : Bool) (v : Option SaveRec) : State :=
  ((wave 0 0 none (some cfg0) [(some 0, 0)]).onRing ⟨0, 0⟩ fun r => { r with schedule := [0], linkHold := held }).onStripe p0 fun st =>
    { st with restored := v }

theorem witness_StripesSwap :
    let head (s : State) : Option (Region × StripeAt) := ((s.planRing ⟨0, 0⟩).schedule ⟨0, 0⟩).headOf ⟨0, 0⟩
    let held : SaveRec := ⟨0, some cfg0, 0, 0, 0, 1, [(14, Elem.empty 0)], Vector.replicate 16 [], [], [], 1, false⟩
    (∀ h ∈ [false, true], ∀ v ∈ [none, some held],
      let s := swapping h v
      let r : RingAt := ⟨0, 0⟩
      let u := (s.planRing r).schedule r
      s.focus.ring = r ∧ (head s).any (fun q => q.2 == p0 && ((u.ring r).scrolls && decide ((u.ring r).lastSwap ≠ s.fc + 1) && u.drained q.1 q.2) == !h) = true ∧
        (u.stripe p0).restored = v ∧ (u.stripe p0).shadow = some cfg0 ∧ cfg0.stage = 0 ∧ cfg0.present.getLsbD 14 = true ∧
        (v.isSome = true → (tabFind (⟨p0, 14⟩ : ElemAt).key u.elems).isSome = true)) ∧
      head State.reset = none := by
  decide +kernel

/-- Stage 0 of launch 0, whose element 0 is stateful, leaves stripe 0 of a launch that needs no exit. -/
def leaving : State :=
  let s := wave 1 1 (some { cfg0 with stateful := 1, present := 0 }) none [(some 0, 0), (none, 0)]
  { s with jobs := s.jobs.map fun j => (j.1, { j.2 with sabase := 0x8C00200000, sasize := 0x10000 }) }

/-- It returns: its record is at block 0 of the save area, which software has altered or not. -/
def returning (altered : Bool) : State :=
  let s := wave 2 1 none (some cfg0) [(some 0, 0), (none, 0), (some 0, 0)]
  let v : SaveRec := ⟨0, some cfg0, 0, 0, 0, 1, [], Vector.replicate 16 [], [], [], 1, false⟩
  let s := s.onDie 0 fun d => { d with saves := [v] }
  { s with
    jobs := s.jobs.map fun j => (j.1, { j.2 with sabase := 0x8C00200000, sasize := 0x10000 })
    hbmKey := if altered then tabPut (0x8C00200000 / 64) none s.hbmKey else s.hbmKey }

theorem witness_StatefulStages :
    (let s := leaving
     let c := (s.stripe p0).conf false
     ((s.ring p0.ring).regionOf 0).any (fun g => s.due_ p0.ring g (g.indexOf 0)) = true ∧ (s.stripe p0).active.isSome = true ∧ c.stateful ≠ 0 ∧
       (s.stripe p0).saved = false ∧ s.goneLaunch c.launch = false ∧ s.d2 p0 = true ∧ s.d3 p0 false = true ∧ s.d4 p0 false = true ∧ s.d6 p0 false = true ∧
       (s.ring p0.ring).occupied = false) ∧
      (∀ b ∈ [false, true],
        let s := returning b
        ((s.ring p0.ring).regionOf 0).any (fun g => g.next s p0.ring (g.indexOf 0) == some (some (0, 0)) && decide (g.pasid = 1)) = true ∧
          (s.recordOf 0 0 0).any (fun v => (rebindAll 0 v.scales (s.ring p0.ring).scl []).isSome && s.altered (recordAt (tabGet Job.zero 1 s.jobs) v.block) (65536 * v.blocks) == b) = true ∧
          s.shadowOk p0 = true ∧ (s.stripe p0).restored = none) := by
  decide +kernel

/-- Stripe 0 heads the schedule for the empty image, and a token that no slot reads stands in element 0; or element 0 owes an exit. -/
def stuck (stray : Bool) : State :=
  let s := wave 1 1 (some { cfg0 with present := if stray then 0 else 1 }) none [(some 0, 0), (none, 0)]
  let s := s.onStripe p0 fun st => { st with shadowReady := true }
  let s := s.onRing ⟨0, 0⟩ fun r => { r with schedule := [0] }
  let s := s.onElem e14 fun x => { x with active := Plane.empty 0 }
  s.onElem e0 fun x => if stray then { x with inq := x.inq.set 5 [tok 9 0 false false false] } else { x with active := { x.active with hdr := hdrOf 0 1 } }

theorem witness_StuckStripesFault :
    (let s := stuck true
     s.stuckHead s.focus.ring = some p0 ∧ (s.standing p0).1 ≠ [] ∧ s.d3 p0 false = true ∧ s.owesExit p0 false = none ∧
       (s.headOf s.focus.ring).any (fun q => !(s.drained q.1 q.2)) = true) ∧ (queued 0).stuckHead ⟨0, 0⟩ = none ∧
      (let s := stuck false
       s.stuckHead s.focus.ring = some p0 ∧ s.owesExit p0 false = some e0 ∧ s.d2 p0 = true ∧ (s.standing p0).1 = []) := by
  decide +kernel

/-- Stage 0 of the BOUND launch 0 stands in stripe 0. -/
def entering : State :=
  onLaunch0 (wave 1 0 (some cfg0) none [(some 0, 0)]) fun l => { l with state := .bound }

theorem witness_CohortsEnter :
    let r : RingAt := ⟨0, 0⟩
    let found (s : State) (n : Nat) : Option Region :=
      (s.ring r).regions.find? fun g => g.launches.any fun l => l % 4096 == n && ((s.stripe (regionStripe r g.page 0)).conf false).launch == l
    let s := entering
    (found s 0).any (fun g => decide (g.page = 0) && !g.cohortOpen && decide (g.stage0At ≤ s.fc) && !s.asked r g) = true ∧
      (s.stripe p0).active.isSome = true ∧ ((s.stripe p0).conf false).stage = 0 ∧ s.goneLaunch 0 = false ∧ (s.ring r).scrolls = true ∧ s.headOf r = none ∧
      (s.launch 0).restoring = [] ∧ found s 5 = none ∧ ((s.onRing r fun y => { y with linkHold := true }).ring r).scrolls = false := by
  decide +kernel

/-- An idle region of job 1 at page 0 whose stripes stand empty, with requests. -/
def idleRegion (reqs : List EqReq) : State :=
  (wave 1 1 none none []).onRing ⟨0, 0⟩ fun r => { r with regions := r.regions.map fun g => { g with launches := [], reqs := reqs } }

def waitMsg : Msg := { msgOf 6 13 ⟨0, 0, 0, 0⟩ with sender := .relay 0 5 }

theorem witness_EquinoxesCount :
    let s := idleRegion [.peqwait waitMsg]
    let r : RingAt := ⟨0, 0⟩
    ((s.ring r).atPage 0).any (fun g => decide (g.reqs = [.peqwait waitMsg]) && s.atEquinox r g && !g.counted && decide (g.pasid = 1)) = true ∧
      (tabGet Job.zero 1 s.jobs).prsws = [] ∧ (∀ h ∈ (s.ring r).regions, h.page ≠ 0 → h.reqs = []) ∧ ((s.die 0).phase 1).pend = [] ∧
      (s.ring r).atPage 5 = none ∧ ((ported port0).ring r).regions.all (fun g => !(ported port0).atEquinox r g) = true ∧
      (let u := s.onDie 0 fun d => { d with phases := [(1, ⟨0, [waitMsg]⟩)], launches := [] }
       ((u.die 0).phase 1).pend ≠ [] ∧ u.phaseOver 0 1 = true) := by
  decide +kernel

/-- Job 9 has no region; a PPHASE waits for its phase, and a write of a weight tile when `w`. -/
def phasing (w : Bool) : State :=
  let s := queued 0
  let e : Res := (s.resource 1 none 3).getD fifoEnd.res
  s.onDie 0 fun d =>
    { d with phases := [(9, ⟨4, [waitMsg]⟩)], pwsw := if w then [⟨{ waitMsg with pasid := 1 }, 9, 5, 1, 1, { e with extent := 4096 }, 0⟩] else [] }

theorem witness_PhasesEnd :
    (∀ w ∈ [false, true],
      let s := phasing w
      ((s.die 0).phase 9).pend = [waitMsg] ∧ s.phaseOver 0 9 = true ∧ (∀ k ∈ [0, 1, 2, 3], ∀ g ∈ (s.ring ⟨0, k⟩).regions, g.pasid ≠ 9) ∧
        (let v := s.onJobRegions 0 9 State.equinoxFirst
         (v.die 0).pwsw = (s.die 0).pwsw ∧ ((v.die 0).pwsw.find? fun w => w.job == 9).isSome = w) ∧
        (s.die 0).pwsw.all (fun w => match s.writeTiles 0 w with | .bytes _ => true | _ => false) = true) ∧
      (let s := (phasing true).onDie 0 fun d => { d with xlts := [] }
       (s.die 0).pwsw.all (fun w => match s.writeTiles 0 w with | .wait _ => true | _ => false)) = true ∧ ((queued 0).die 0).phase 1 = ⟨0, []⟩ := by
  decide +kernel

/-- Launch 0 runs no more in its region: its wave has passed. -/
def spent (f : Launch → Launch) : State :=
  let s := onLaunch0 (wave 2 2 none none [(some 0, 0), (none, 0)]) f
  let s := [1, 2].foldl (fun s n => s.setStripe ⟨⟨0, 0⟩, n⟩ { Stripe.empty with swaps := 2 }) s
  s.onRing ⟨0, 0⟩ fun r => { r with regions := r.regions.map fun g => { g with cohorts := 1 } }

theorem witness_LaunchesEnd :
    (spent id).complete 0 = true ∧ (spent fun l => { l with owed := 1 }).complete 0 = false ∧
      (let s := spent fun l => { l with cancelled := true }
       let x := s.launch 0
       let u := x.segs.foldl (fun s g => s.withdraw 0 g) (s.cancelLaunch 0)
       x.state = .running ∧ x.cancelled = true ∧ x.faulted = false ∧ (s.ring ⟨0, 0⟩).occupied = false ∧ (u.launch 0).owed = 0 ∧ u.enginesOwe 0 = false ∧
          u.swappedAway 0 false = true) ∧
      (let s := spent fun l => { l with cancelled := true, owed := 1 }
       (((s.launch 0).segs.foldl (fun s g => s.withdraw 0 g) (s.cancelLaunch 0)).launch 0).owed ≠ 0) ∧
      ((spent id).launch 0).cancelled = false := by
  decide +kernel

/-- Launch 1 of job 1 is READY, of one page, an empty ingress list, and the image at entry `n`; launch 0 runs at page 0, idles there, or the ring takes
intercalary launches of the job. -/
def binding (n : BitVec 16) (behind ical : Bool) : State :=
  let s := spent id
  let s := if behind then s else s.onRing ⟨0, 0⟩ fun r => { r with regions := [], ctxs := [], icalValid := ical, icalPasid := 1 }
  let l := { placedLaunch with state := .ready, iridx := n, ingress := some [], segs := [], ical := ical, woken := false, order := 1, pseq := 5, qid := 1 }
  s.onDie 0 fun d => { d with launches := tabPut 1 l d.launches }

theorem witness_LaunchesBind :
    let found (s : State) : Option (Nat × Spot) :=
      (s.die 0).readyLaunches.findSome? fun e => (s.spot 0 (s.launch (launchKey 0 e))).map fun t => (launchKey 0 e, t)
    let checked (s : State) : Nat := match s.placing 0 (s.launch 1) with | .ok _ => 0 | .wait _ => 1 | .refuse _ _ => 2
    let all := [binding 3 false false, binding 3 true false, binding 3 false true, binding 6 false false]
    let reclaiming := (idleRegion []).onDie 0 fun d => { d with launches := tabPut 1 ((binding 3 false false).launch 1) d.launches }
    (∀ s ∈ all, (s.die 0).lastBind ≠ s.fc + 1 ∧ s.focus.ring.die = 0 ∧ (found s).all (fun t => s.reclaimable t.2.reclaims) = true) ∧
      (match found (binding 3 false false) with | some (1, .fresh [(r, q, _)] []) => decide (r = ⟨0, 0⟩ ∧ q = 0) | _ => false) = true ∧
      (match found (binding 3 true false) with | some (1, .join r q) => decide (r = ⟨0, 0⟩ ∧ q = 0 ∧ ((binding 3 true false).ring r).atPage q ≠ none) | _ => false) = true ∧
      (match found (binding 3 false true) with | some (1, .ical r _) => decide (r = ⟨0, 0⟩) | _ => false) = true ∧
      all.map checked = [0, 0, 0, 2] ∧ checked ((binding 3 false false).onDie 0 fun d => { d with xlts := [] }) = 1 ∧
      ((found (binding 6 false false)).any fun q => q.1 == 1) = true ∧ (found (queued 0)).isNone = true ∧ (found reclaiming).isSome = true := by
  decide +kernel

/-- A PALMW of slots 3 and 5 waits. -/
def palmState : State := relayed.onRing ⟨0, 0⟩ fun r => { r with palmw := [(waitMsg, 0x28, some ⟨true, 9⟩)] }

theorem witness_AlmanacUpdates :
    palmState.fc % 64 = 0 ∧ (palmState.ring palmState.focus.ring).occupied = false ∧ (palmState.ring palmState.focus.ring).palmw.length = 1 ∧
      ({ palmState with fc := 5 }).fc % 64 ≠ 0 := by
  decide +kernel

/-- Launch 0 is the intercalary launch of its ring, which it occupies or not. -/
def icalState (occ : Bool) : State :=
  let s := onLaunch0 (queued 0) fun l => { l with ical := true, state := .bound, segs := if occ then [] else l.segs }
  s.onRing ⟨0, 0⟩ fun r => { r with icalLaunch := some 0, icalLoaded := 1, icalPasid := 1, icalValid := true, occupied := occ, regions := [] }

theorem witness_IntercalarySwitches :
    (let s := icalState false
     let y := s.ring s.focus.ring
     y.icalLaunch = some 0 ∧ y.occupied = false ∧ y.icalLoaded = (s.launch 0).stages ∧ (s.launch 0).woken = true ∧ (s.launch 0).state = .bound ∧
       s.goneLaunch 0 = false) ∧
      (let s := icalState true
       let y := s.ring s.focus.ring
       y.icalLaunch = some 0 ∧ y.occupied = true ∧ (s.launch 0).segs = [] ∧ y.heldResults = [] ∧ s.terminated s.focus.ring = []) ∧
      (∀ e ∈ (icalState false).ringElems ⟨0, 0⟩, isMSlot e.slot.val = true → ((icalState false).elem e).main.array = []) ∧
      ((queued 0).ring ⟨0, 0⟩).icalLaunch = none := by
  decide +kernel
/-! ### Translation, exhausted resources and memory errors -/

/-- A walk of job 1 for page 7 on behalf of ring 0, which waits for its translation or for the page itself; and an allocation of a scale entry that waits. -/
def walking (pri : Bool) (now : Nat) : State :=
  let s := queued 0
  let u : Waiter := ⟨some 0, none, some (1, 4), { FRec.zero with aux := 0x7123, pasid := 1, ctxValid := true }, [none]⟩
  let w : Walk := ⟨1, 7, true, pri, 0, [u]⟩
  let s := { s.onDie 0 fun d => { d with walks := [w] } with fc := now }
  s.onRing ⟨0, 0⟩ fun r => { r with scl := { r.scl with waits := [⟨0, 0, 0, 0, e0.key, false, .slot 0⟩] } }

theorem witness_TranslationsComplete :
    let found (s : State) (pri : Bool) : Option Walk := (s.die 0).walksOut.find? fun w => w.is 1 7 pri
    let quiet := (walking false 0).onDie 0 fun d => { d with walks := [⟨1, 7, false, false, 0, []⟩] }
    (∀ b ∈ [false, true], (found (walking b 0) b).any (fun w => w.write && decide (w.waiters ≠ [])) = true ∧ found (walking b 0) (!b) = none) ∧
      (found quiet false).any (fun w => !w.write && decide (w.waiters = [])) = true := by
  decide +kernel

theorem witness_LongWaitsEnd :
    (let s := walking false Config.longWait
     ((s.die 0).walksOut.find? fun w => !w.pri && decide (w.since + Config.longWait ≤ s.fc)).isSome = true ∧
       ((s.ring ⟨0, 0⟩).scl.waits.find? fun w => decide (w.since + Config.longWait ≤ s.fc)).map (fun w => (ElemAt.ofKey w.elem).at_.ring) = some s.focus.ring) ∧
      (let s := walking false 9
       (∀ w ∈ (s.die 0).walksOut, w.pri = false → s.fc < w.since + Config.longWait) ∧
         ∀ w ∈ (s.ring ⟨0, 0⟩).scl.waits, s.fc < w.since + Config.longWait) := by
  decide +kernel

theorem witness_MemoryErrors :
    let s := walking false 0
    ((s.ring ⟨0, 0⟩).regions.any fun g => g.ctx == 0) = true ∧ ((s.ring ⟨0, 0⟩).regions.all fun g => g.ctx != 5) = true ∧
      (s.granuleKey (0x1000 / 64)).isSome = true ∧ s.granuleKey (0x7000000 / 64) = none ∧ (s.die 0).wsEnc = [] ∧
      tabGet none ((0x2000 : Word).toNat / 4096) ((s.onDie 0 fun d => { d with wsEnc := [(2, some (Vector.replicate 8 1))] }).die 0).wsEnc ≠ none := by
  decide +kernel

/-! ### The front end -/

/-- Hart 3 of die 0 runs with x1 = `a` and x2 = `b`; `f` changes it. -/
def harted (a b : Dword) (f : Hart → Hart) : State :=
  let s := queued 0
  let s := { s with focus := { s.focus with hart := 3 } }
  s.onHart 0 3 fun h => f { h with x := (h.x.set 1 a).set 2 b, pc := 0x100 }

/-- The same of a hart that holds queue 1 of job 1, whose latch is changed by `g`, and of the die. -/
def mappedHart (a b : Dword) (f : Hart → Hart) (g : Latch → Latch) (k : Die → Die) : State :=
  let s := harted a b fun h => f { h with mapped := true, pasid := 1, qid := 1, rsize := 4, csize := 4, cbase := 0x200 }
  (s.onLatch 1 fun e => g { e with mapped := true }).onDie 0 k

/-- A record of a job's fault for queue 1. -/
def faultRec : FbEntry := ⟨{ FRec.zero with code := 0x40, disp := 1 }, some (1, 4), true, false⟩

theorem witness_HartsWait :
    let m := mappedHart 0 0 id id id
    let x := m.die 0
    (1 : BitVec 5) ≠ 0 ∧ (harted 0 0 id).me.mapped = false ∧ m.me.mapped = true ∧ x.feRestart = false ∧
      (x.oldestFault (FbEntry.owes m.me.qid)).isNone = true ∧
      (((m.onDie 0 fun d => { d with fbuf := [(2, faultRec)] }).die 0).oldestFault (FbEntry.owes 1)).isSome = true ∧
      (x.reports.find? fun r => r.qid == m.me.qid) = none ∧
      (((m.onDie 0 fun d => { d with reports := [⟨1, 5, 3, 4⟩] }).die 0).reports.find? fun r => r.qid == 1).isSome = true ∧
      m.me.arm = false ∧ (m.latch 1).stop = false ∧ seqAfter (m.latch 1).lseq (m.latch 1).taken = true ∧
      (let n := mappedHart 0 0 (fun h => { h with vigilExpired := true }) (fun e => { e with lseq := e.taken }) fun d => { d with feRunq := 1 }
       seqAfter (n.latch 1).lseq (n.latch 1).taken = false ∧ n.me.vigilExpired = true ∧ (n.die 0).feRunq ≠ 0) ∧
      (let n := (harted 0 0 id).onDie 0 fun d => { d with attn := [5] }
       (n.die 0).attn = [5] ∧ (n.die 0).attends n.focus.hart = true) ∧
      (mappedHart 0 0 (fun h => { h with arm := true, watchHit := true }) id id).me.arm = true ∧
      (let n := ((harted 0 0 id).onHart 0 2 fun h => { h with block := .fwait 1 }).onDie 0 fun d => { d with attn := [5] }
       (n.die 0).attends n.focus.hart = false ∧ n.me.mapped = false) := by
  decide +kernel

theorem witness_LatchReads :
    let s := harted 1 6 id
    argHome 0 (s.me.reg 1) = some 1 ∧ (s.me.reg 2).toNat < 65536 ∧ seqDist 6 (s.latch 1).taken = 1 ∧ seqAfter 6 (s.latch 1).lseq = false ∧
      seqDist 5 (s.latch 1).taken = 0 ∧ seqDist 7 (s.latch 1).taken = 2 := by
  decide +kernel

theorem witness_TimerAndArguments :
    argQid ((harted 0x40000 0 id).me.reg 1) = some 0x40000 ∧ homeDie 0x40000 ≠ 0 ∧ argQid ((harted 0x100000 0 id).me.reg 1) = none ∧
      argHome 0 ((harted 0x40000 0 id).me.reg 1) = none ∧ argHart ((harted 3 0 id).me.reg 1) = some 3 ∧ argHart ((harted 64 0 id).me.reg 1) = none ∧
      ((harted 3 0 id).hart 0 3).vigilArmed = false := by
  decide +kernel

theorem witness_QueuesMap :
    let s := (harted 1 7 id).onHart 0 7 fun h => { h with rsize := 4, csize := 4 }
    argHome 0 (s.me.reg 1) = some 1 ∧ argHart (s.me.reg 2) = some 7 ∧ (s.latch 1).valid = true ∧ (s.latch 1).mapped = false ∧ (s.hart 0 7).mapped = false ∧
      (s.hart 0 7).rsize = (s.latch 1).rsize ∧ (s.hart 0 7).csize = (s.latch 1).csize ∧ ((harted 1 7 id).hart 0 7).rsize ≠ (s.latch 1).rsize ∧
      argHart ((harted 1 64 id).me.reg 2) = none := by
  decide +kernel

theorem witness_QueuesDemap :
    let s := mappedHart 3 0 id id id
    argHart (s.me.reg 1) = some 3 ∧ s.focus.hart = 3 ∧ (s.hart 0 3).mapped = true ∧ ((harted 3 0 id).hart 0 3).mapped = false ∧
      argHart ((harted 7 0 id).me.reg 1) = some 7 ∧ (7 : Fin 64) ≠ s.focus.hart ∧ ((harted 7 0 id).hart 0 7).block = .running := by
  decide +kernel

theorem witness_DemapArguments : argHart ((harted 64 0 id).me.reg 1) = none := by decide +kernel

theorem witness_RecordsPost :
    let s := mappedHart 0x40 1 id id id
    let z := mappedHart 0x40 1 (fun h => { h with qid := 0, pasid := 0 }) id id
    let full := mappedHart 0x40 17 id (fun e => { e with cpost := 16 }) id
    argSram (s.me.reg 1) = some 0x40 ∧ s.me.mapped = true ∧ (s.me.reg 2).toNat = ((s.latch 1).cpost + 1).toNat ∧
      seqDist (s.latch 1).cpost (s.latch 1).cack < 2 ^ (s.latch 1).csize.toNat ∧ localIx s.me.qid ≠ 0 ∧
      (s.fBlock 0 1 (s.me.cbase.toNat * 64 + 64 * (1 % 2 ^ s.me.csize.toNat)) 64 true (some 3)).isNone = true ∧
      (let dark := s.onDie 0 fun d => { d with xlts := [] }
       (dark.fBlock 0 1 (dark.me.cbase.toNat * 64 + 64 * (1 % 2 ^ dark.me.csize.toNat)) 64 true (some 3)).isSome = true ∧ dark.me = s.me) ∧
      localIx z.me.qid = 0 ∧ z.me.pasid = 0 ∧ (z.me.reg 2).toNat = ((z.latch 0).cpost + 1).toNat ∧
      2 ^ (full.latch 1).csize.toNat ≤ seqDist (full.latch 1).cpost (full.latch 1).cack ∧ (full.me.reg 2).toNat = ((full.latch 1).cpost + 1).toNat ∧
      argSram ((harted 0x41 1 id).me.reg 1) = none := by
  decide +kernel

/-- A descriptor of a launch at 0x40 of SRAM, of packet 5 of queue `q`, the image at entry `n`. -/
def described (q n : Nat) : State :=
  let ws := (launchWords (headOf 5) { launchOf 0 with iridx := .ofNat 16 n }).map BitVec.toNat
  mappedHart 0x40 0 id id fun d =>
    { d with sram := writeBytes 0x40 (natBytes 8 (5 + q * 2 ^ 16 + 1 * 2 ^ 36 + 2 ^ 56) ++ (ws.drop 1).flatMap (natBytes 8)) [] }

theorem witness_DescriptorsLaunch :
    let pkt (s : State) : List Dword :=
      let bs := readBytes 0x40 64 (s.die 0).sram
      let w := bytesNat (bs.take 8)
      .ofNat 64 (bits w 63 56 * 2 ^ 56 + 2 ^ 48 + w % 65536 * 2 ^ 32) :: ((List.range 8).map fun i => .ofNat 64 (bytesNat ((bs.drop (8 * i)).take 8))).drop 1
    let put (s : State) : Option Accepted := match decodePacket (pkt s) with
      | .ok (.pktLaunch _ b) => some (s.present 0 (s.descLaunch 0 s.me 5 b))
      | _ => none
    argSram ((described 1 3).me.reg 1) = some 0x40 ∧ (described 1 3).me.mapped = true ∧ bytesNat (readBytes 0x40 8 ((described 1 3).die 0).sram) / 2 ^ 16 % 2 ^ 20 = 1 ∧
      bytesNat (readBytes 0x40 8 ((described 0 3).die 0).sram) / 2 ^ 16 % 2 ^ 20 ≠ 1 ∧
      (match put (described 1 3) with | some (.taken _ l) => l == 1 | _ => false) = true ∧
      (match put (described 1 6) with | some (.refused st) => st == 0x301 | _ => false) = true ∧
      (match put ((described 1 3).onDie 0 fun d => { d with xlts := [] }) with | some (.wait _) => true | _ => false) = true ∧
      (match put (withTable (described 1 3) (tensors.set 2 (entryNat (2 ^ 57) 0x1000 0 0 0 0 15))) with | some (.fault _) => true | _ => false) = true ∧
      (let op (n : Nat) (ws : List Byte) : State := (described 1 3).onDie 0 fun d =>
        { d with sram := writeBytes 0x40 (natBytes 8 (5 + 2 ^ 16 + 2 ^ 36 + n * 2 ^ 56) ++ ws) [] }
       (match decodePacket (pkt (op 0x7F [])), decodePacket (pkt (op 0 [])) with | .error _, .ok (.pktNop ..) => true | _, _ => false) = true) := by
  decide +kernel

/-- A kick of queue 1 to sequence `n` with index `i`. -/
def kickWord (n i : Nat) : Dword := .ofNat 64 (n * 2 ^ 48 + i)

theorem witness_KickUpdatesLatch :
    let s := queued 0
    let e := s.latch 1
    let fits (n i : Nat) : Bool := decide (i = (n + 1) % 2 ^ e.rsize.toNat) && decide (seqDist (.ofNat 16 n) e.taken ≤ 2 ^ e.rsize.toNat)
    s.recovery = false ∧ e.valid = true ∧ bits (kickWord 7 8).toNat 47 16 = 0 ∧ fits 7 8 = true ∧ seqAfter 7 e.lseq = true ∧ fits 6 7 = true ∧
      seqAfter 6 e.lseq = false ∧ fits 7 9 = false ∧ fits 22 7 = false ∧ fits 21 6 = true ∧ (s.latch 9).valid = false ∧ e.mapped = false ∧
      ((mappedHart 0 0 id id id).latch 1).mapped = true := by
  decide +kernel

theorem witness_AcknowledgementMovesCack :
    let s := (queued 0).onLatch 1 fun e => { e with cpost := 3, cack := 1 }
    let e := s.latch 1
    s.recovery = false ∧ seqDist 3 e.cack ≤ seqDist e.cpost e.cack ∧ seqDist e.cpost e.cack < seqDist 4 e.cack ∧ seqDist e.cpost e.cack < seqDist 0 e.cack := by
  decide +kernel

/-- Die 0 asks for a restart, which every hart has taken or all but hart 0. -/
def restarting (b : Bool) : State :=
  let s := mappedHart 0 0 id id fun d => { d with feRestart := true, restarted := (List.range 64).drop (if b then 0 else 1) }
  { s with fwRunning := some ⟨0, 3, 9, 2, 0, 0⟩ }

theorem witness_HartEvents :
    (let s := harted 0 0 fun h => { h with arm := true, pasid := 1, waddr := 0x40 }
     let dark := s.onDie 0 fun d => { d with xlts := [] }
     (s.hart 0 3).arm = true ∧ (s.hart 0 3).watchHit = false ∧ (s.fBlock 0 1 (0x40 * 8) 8 false (some 3)).isNone = true ∧
       (dark.fBlock 0 1 (0x40 * 8) 8 false (some 3)).isSome = true) ∧
      ((harted 0 0 id).hart 0 3).arm = false ∧
      (∀ b ∈ [false, true],
        let s := restarting b
        (s.die 0).feRestart = true ∧ (∀ n < 64, n ∈ (s.die 0).restarted ∨ n = 0) ∧ ((s.die 0).restarted.contains 0) = b) := by
  decide +kernel

theorem witness_HartAccesses :
    let s := mappedHart 0 0 id id id
    hartPlace 0x40 8 = .sram 0x40 ∧ hartPlace (0x5000000000000000 + Config.carveBase) 8 = .carve Config.carveBase ∧
      hartPlace 0x4000000000000200 8 = .virt 0x200 ∧ s.missVa 0 1 0x200 8 false = none ∧ s.missVa 0 1 0x200 8 true = none ∧
      hartPlace 0x4000000100000000 8 = .virt 0x100000000 ∧ s.missVa 0 1 0x100000000 8 false = some 0x100000000 ∧
      s.missVa 0 1 0x100000000 8 true = some 0x100000000 ∧ hartPlace 0x7FFFC 8 = .nowhere ∧ hartPlace 0x20001008 8 = .faults 8 ∧
      (s.hartReg 0 (hartPlace 0x10003028 8)).isSome = true ∧ (hartPlace 0x10003028 8).off % 8 = 0 ∧
      (s.hartReg 0 (hartPlace 0x10003029 4)).isSome = true ∧ (hartPlace 0x10003029 4).off % 4 ≠ 0 ∧ (0x40 : Dword).toNat % 8 = 0 ∧ (0x41 : Dword).toNat % 4 ≠ 0 ∧
      (s.hart 0 3).resv = none ∧ ((s.onHart 0 3 fun h => { h with resv := some 8 }).hart 0 3).resv = some ((0x40 : Dword).toNat / 8) := by
  decide +kernel

theorem witness_RegisterWrites :
    (queued 0).recovery = false ∧ ({ queued 0 with recovery := true }).recovery = true ∧ (0x100009 : Dword).toNat % 8 ≠ 0 := by decide +kernel

/-- Nothing serves, and the record waits for the bootstrap queue of die 0; or the firmware serves it. -/
def recorded (up : Bool) : State :=
  let e : FbEntry := { faultRec with queue := some (0, 4) }
  let s := { (queued 0).onDie 0 fun d => { d with faultWait := [e, faultRec], fbuf := [] } with fc := 9 }
  if up then (s.onHart 0 7 fun h => { h with mapped := true, rsize := 4, csize := 4 }).onDie 0 fun d => { d with feFwup := true } else s

theorem witness_FaultRecordsEnter :
    let q := qidOf 0 0
    let old (s : State) : List FbEntry :=
      (s.die 0).faultWait.dropWhile fun e => e.rec_.time == .ofNat 64 s.fc || (List.range 64).all fun i => (tabFind i (s.die (e.home 0)).fbuf).isSome
    let young (s : State) : State := s.onDie 0 fun d => { d with faultWait := { faultRec with rec_ := { faultRec.rec_ with time := .ofNat 64 s.fc } } :: d.faultWait }
    let full (s : State) : State := s.onDie 0 fun d => { d with fbuf := (List.range 64).map fun i => (i, faultRec) }
    (recorded false).focus.ring.die = 0 ∧ old (queued 0) = [] ∧ old (full (recorded false)) = [] ∧
      old (young (recorded false)) = ((recorded false).die 0).faultWait ∧
      (∀ up ∈ [false, true],
        let s := recorded up
        ((old s).head?).map (fun e => (e.queue.map Prod.fst, e.toJob, e.toLog)) = some (some q, true, false) ∧ (s.die 0).fbuf = [] ∧
          (∀ j ∈ s.jobs, j.2.terminated = false) ∧ (s.queue q).any (fun y => decide (y.pasid = 0) && y.outbox.isEmpty) = true ∧ s.serving q = up ∧
          Memory.wf s.hbm = true ∧
          seqDist (s.latch q).cpost (s.latch q).cack < 2 ^ (s.latch q).csize.toNat) ∧
      (let s := (recorded true).onDie 0 fun d => { d with faultWait := [{ faultRec with queue := none, toJob := false, toLog := true }] }
       (old s).head?.any (fun e => decide (e.home 0 = 0) && !e.toJob && e.toLog) = true ∧ s.serving q = true ∧
         (let full := s.onLatch q fun e => { e with cpost := e.cack + 16 }
          2 ^ (full.latch q).csize.toNat ≤ seqDist (full.latch q).cpost (full.latch q).cack ∧ full.serving q = true)) ∧
      ∀ k, (recorded false).serving k = false := by
  refine ⟨by decide +kernel, by decide +kernel, by decide +kernel, by decide +kernel, by decide +kernel, by decide +kernel, fun k => ?_⟩
  have h : ∀ d : Fin 4, ((recorded false).die d).feFwup = false := by decide +kernel
  simp only [State.serving, h, Bool.and_false, Bool.false_and]

/-! ### Device services -/

/-- The oldest key command of die 0 is of OP `op` on slot 5; a session is finished, and the key table is `keys`. -/
def keyed (op : BitVec 2) (slot : BitVec 12) (keys : Tab Key) : State :=
  { State.reset with keys := (0, Vector.replicate 8 1) :: keys, keyCmds := [(0, op, slot)], spdm := { State.reset.spdm with finished := some 1 } }

/-- Slot 5 of a key table holds a key. -/
def key5 : Tab Key := [(5, Vector.replicate 8 2)]

/-- An entry of the window uses the key of slot 5. -/
def usesKey5 : State := (keyed 2 5 key5).onRing ⟨0, 0⟩ fun r => { r with window := [{ winOf 1 (.bits 0) with place := 0, keyidx := 5 }] }

theorem witness_KeyCommands :
    (∀ k, Config.unwrapKey 1 ((keyed 1 5 []).die 0).keyData = some k →
      ((keyed 1 5 []).spdm.finished.bind fun n => Config.unwrapKey n ((keyed 1 5 []).die 0).keyData) = some k) ∧
      (keyed 1 5 []).keyOf 5 = none ∧ (keyed 1 5 []).keyCmds = [(0, 1, 5)] ∧ ((keyed 1 5 key5).keyOf 5).isSome = true ∧
      (keyed 2 5 key5).keyCmds = [(0, 2, 5)] ∧ (keyed 2 5 key5).keyInUse 5 = false ∧ usesKey5.keyInUse 5 = true ∧ usesKey5.keyCmds = [(0, 2, 5)] ∧
      (usesKey5.keyOf 5).isSome = true ∧ (keyed 2 5 []).keyOf 5 = none ∧ State.reset.keyCmds.head? ≠ some (0, 1, 5) ∧
      State.reset.keyCmds = [] ∧ State.reset.recovery = false ∧ bits (0x4000000000000000 : Dword).toNat 63 62 = (1 : BitVec 2).toNat ∧
      ((keyed 1 5 []).keyCmds.head?.all fun c => c.2.1 != 3) = true := by
  refine ⟨fun k h => by simpa [keyed] using h, ?_⟩
  decide +kernel

/-- The decoder claims 256 MiB from 0x1_0000_0000, with key slot 1 of `keys`. -/
def claimed (keys : Tab Key) : State :=
  { streams 4 with keys := (0, Vector.replicate 8 1) :: keys, hdmBase := 0x100000000, hdmSize := 0x10000000, hdmWays := 1, hdmOn := true }

theorem witness_HostViewOfHbm :
    (∀ ks ∈ [[], [(1, Vector.replicate 8 2)]],
      let s := claimed ks
      s.recovery = false ∧ s.hdmOn = true ∧ (∃ m ∈ [0x1040], s.locate 0x100001040 = .hbm m) ∧ (∃ m ∈ [0x1047], s.locate (0x100001040 + (8 - 1)) = .hbm m) ∧
        (s.keyOf 1).isSome = !ks.isEmpty) ∧
      (1 = (1 : BitVec 4) ∧ (0x10000000 : Dword).toNat % 2 ^ 28 = 0 ∧ (0x10000000 : Dword).toNat ≤ 560 * 2 ^ 30) ∧
      (0x10000001 : Dword).toNat % 2 ^ 28 ≠ 0 := by
  decide +kernel

theorem witness_PowerIslands :
    let s := State.reset.onRing ⟨0, 1⟩ fun r => { r with freeFor := Vector.replicate 8 65000 }
    (s.die 0).island 10 = ⟨false, 0⟩ ∧ 65000 ≤ (s.ring ⟨0, 1⟩).freeFor[(2 : Fin 8)] ∧
      ((s.onDie 0 (Die.setIsland 10 1)).die 0).island 10 = ⟨false, 1⟩ ∧ (State.reset.ring ⟨0, 1⟩).freeFor[(2 : Fin 8)] < 65000 ∧
      s.focus.ring.die = 0 ∧ s.quiet 0 = true ∧ (s.die 0).gated = false ∧ (queued 0).quiet 0 = false ∧ (queued 0).focus.ring.die = 0 ∧
      ((s.onDie 0 fun d => { d with gated := true, waking := true }).die 0).waking = true := by
  decide +kernel

theorem witness_ThermalLimits :
    let s := (queued 0).onDie 0 fun d => { d with tj := 1760, hot := 1300 }
    s.focus.ring.die = 0 ∧ 1300 ≤ (s.die 0).hot ∧ (s.ring ⟨0, 0⟩).stopped = false ∧ ((queued 0).die 0).hot < 1300 := by
  decide +kernel

/-- Image 3 of version `v` is staged. -/
def stagedImage (v : Word) : State := { queued 0 with fwStaged := some ⟨3, v, 9, 12, 0, 0⟩, antiRollback := 5 }

/-- The signature of an image is an opaque constant's (log 16): whichever way it comes out, one of the cases is met. -/
theorem witness_FirmwareStarts :
    (∀ v, (stagedImage v).fwStaged = some ⟨3, v, 9, 12, 0, 0⟩) ∧
      (Config.rsaVerifies 3 0 0 = true → (stagedImage 5).imageFault ⟨3, 5, 9, 12, 0, 0⟩ = none ∧ (stagedImage 4).imageFault ⟨3, 4, 9, 12, 0, 0⟩ = some 3) ∧
      (Config.rsaVerifies 3 0 0 = false → (stagedImage 5).imageFault ⟨3, 5, 9, 12, 0, 0⟩ = some 1) ∧
      ((stagedImage 5).vendorDigest = 0 ∧ ({ stagedImage 5 with ownerDigest := some 1 }).ownerDigest = some 1) ∧
      (stagedImage 5).flash = some ⟨3, 5, 9, 12, 0, 0⟩ ∧ (stagedImage 5).recovery = false ∧
      State.reset.flash.all (fun i => (State.reset.imageFault i).isSome) = true := by
  have k : ∀ v, (stagedImage v).vendorDigest = 0 := fun _ => rfl
  have w : ∀ v, (stagedImage v).ownerDigest = none := fun _ => rfl
  have d : ∀ v n, (stagedImage v).keysMatch ⟨3, n, 9, 12, 0, 0⟩ = true := fun v n => by rw [State.keysMatch, k, w, Option.all_none, beq_self_eq_true]; rfl
  have o : ∀ v, (stagedImage v).ownerPq = false := fun _ => rfl
  have a : ∀ v, (stagedImage v).antiRollback = 5 := fun _ => rfl
  refine ⟨fun _ => rfl, fun h => ?_, fun h => ?_, by decide +kernel, by decide +kernel, rfl, rfl⟩
  · constructor <;> (unfold State.imageFault; rw [d, h, o, a]; decide)
  · unfold State.imageFault
    rw [d, h]
    decide

/-- 16 R481: the owner key digest can be fused only once. -/
theorem test_owner_fused_once (s : State) (k m : BitVec 512) : (s.fuseOwner k).fuseOwner m = s.fuseOwner k := by
  cases h : s.ownerDigest <;> simp [State.fuseOwner, h]

theorem witness_BootQueueStarts :
    let s := State.reset.onDie 0 fun d => { d with bootRbase := 0x2300000000, bootRsize := 4, bootCbase := 0x2300000100, bootCsize := 15 }
    s.focus.ring.die = 0 ∧ (s.latch (qidOf 0 0)).valid = false ∧ 4 ≤ (s.die 0).bootRsize.toNat ∧ 4 ≤ (s.die 0).bootCsize.toNat ∧ (s.die 0).fbuf = [] ∧
      s.jobs = [] ∧ ((queued 0).latch (qidOf 0 0)).valid = true ∧ (State.reset.die 0).bootRsize.toNat < 4 := by
  decide +kernel

theorem witness_AttestationAndSensors :
    let at_ (n : Nat) (k : Option Nat) : State := { State.reset with spdm := ⟨n, none, k, none⟩ }
    (at_ 0 none).spdm.stage < 1 ∧ 1 ≤ (at_ 1 none).spdm.stage ∧ (at_ 1 none).spdm.stage < 2 ∧ 2 ≤ (at_ 2 none).spdm.stage ∧
      3 ≤ (at_ 3 (some 7)).spdm.stage ∧ (at_ 3 (some 7)).spdm.session = some 7 ∧ (at_ 3 none).spdm.session = none ∧
      ((at_ 3 none).measured 2).isSome = true ∧ (at_ 3 none).measured 5 = none := by
  decide +kernel
/-! ### Chain links -/

/-- A launch of two segments, on die 0 and on die 1, where endpoint 0 of die 1 is the focus and takes flit `f` from the wire. -/
def chained (f : Flit) : State :=
  let s := onLaunch0 (firesPl e0 id) fun l => { l with segs := [⟨0, 0, 0, 0, Alloc.start, 0⟩, ⟨1, 0, 0, 2, Alloc.start, 0⟩] }
  let s := s.onLink 0 1 fun y => { y with up := true, wire := [f, ⟨9, []⟩], retry := [⟨1, []⟩, ⟨2, []⟩] }
  { s with focus := { s.focus with ring := ⟨1, 0⟩, ep := 0 } }

def linkTok0 : LinkTok := ⟨tok 7 1 false false false, false, false⟩

theorem witness_FlitsArrive :
    (∀ f ∈ [⟨1, []⟩, ⟨1, [Slot.token 0 1 3 linkTok0 none]⟩, ⟨2, []⟩],
      let s := chained f
      peerOf s.focus.ring.die s.focus.ep = some (0, 1) ∧ ((s.die 0).link 1).wire = [f, ⟨9, []⟩] ∧ ((s.die 1).link 0).rxseq = 0) ∧
      ((chained ⟨1, []⟩).segPlace 0 1).any (fun g => decide (g.die = 1)) = true ∧ ((chained ⟨1, []⟩).segPlace 0 0).any (fun g => decide (g.die ≠ 1)) = true ∧
      peerOf 0 0 = none ∧ (((queued 0).die 0).link 1).wire = [] ∧ peerOf 1 0 = some (0, 1) := by
  decide +kernel

/-- Endpoint 1 of die 0 is the focus, as `f` leaves it, `n` fc after the retrain began. -/
def training (f : Link → Link) (n : Nat) : State :=
  let s := (chained ⟨1, []⟩).onLink 0 1 fun y => f { y with since := 10 }
  { s with fc := 10 + n, focus := { s.focus with ring := ⟨0, 0⟩, ep := 1 } }

theorem witness_LinksRetrain :
    let link (f : Link → Link) (n : Nat) : Link := ((training f n).die 0).link 1
    let going : Link → Link := fun y => { y with retrain := true }
    (link id 0).up = true ∧ (link id 0).retrain = false ∧ (link (fun y => { y with up := false, failed := true }) 0).failed = true ∧
      (link (fun y => { y with up := false }) 0).up = false ∧ (link (fun y => { y with up := false }) 0).failed = false ∧ (link going 0).retrain = true ∧
      (link going 2600).since + 2600 ≤ (training going 2600).fc ∧ (training going 2599).fc < (link going 2599).since + 2600 ∧
      (training going 1299999).fc < (link going 1299999).since + 1300000 ∧ (link going 1300000).since + 1300000 ≤ (training going 1300000).fc ∧
      (let f : Link → Link := fun y => { y with up := false, free := [(segKey 0 1, 60)] }
       (tabFind (segKey 0 1) (link f 0).free).isSome = true ∧ ((training f 0).segPlace 0 1).any (fun g => decide (g.die = 1)) = true) ∧
      (training going 2600).linkRings 0 1 ≠ [] ∧ (peerOf 0 1).isSome = true ∧
      ∀ d k, (({ training going 1300000 with rings := State.reset.rings }).ring ⟨d, k⟩).regions = [] := by
  decide +kernel

/-- An element of the second segment of a launch waits for a grant, the first having allocated `n`. -/
def granting (n grants : Nat) : State :=
  let s := onLaunch0 (firesPl e0 id) fun l =>
    { l with segs := [⟨0, 0, 0, 0, { Alloc.start with span := n, num := n }, 0⟩, ⟨1, 0, 0, 0, { Alloc.start with span := n, num := n }, grants⟩] }
  let e : ElemAt := ⟨⟨⟨1, 0⟩, 0⟩, 0⟩
  let s := (s.setStripe e.at_ (s.stripe e0.at_)).setElem e (placedElem false (wordOf (.add 0 1 2 3 false)))
  let s := s.onRing ⟨1, 0⟩ fun r => { r with ctxs := [(0, 1)], regions := (s.ring ⟨0, 0⟩).regions }
  let s := s.onLink 0 1 fun y => { y with up := true }
  { s with focus := { s.focus with ring := ⟨1, 0⟩ } }

/-- 15 R465: the sender's count is the absolute count reported, less the tokens replayed; a count that was on its way is in the report and is not added again. -/
theorem test_retrain_counts_once :
    (let back : Link → Link := fun y => { y with rx := [(segKey 0 1, List.replicate 32 ⟨0, linkTok0, none⟩)], retry := [⟨7, [.count 0 1 10]⟩], retrain := true }
     let two : List Flit := [⟨1, [.token 0 1 3 linkTok0 none]⟩, ⟨2, [.token 0 1 3 linkTok0 none]⟩]
     let s := (training (fun y => { y with retrain := true, free := [(segKey 0 1, 5)], retry := two }) 100).onLink 1 0 back
     match exec .retrainComplete s with
      | .next t => tabFind (segKey 0 1) ((t.die 0).link 1).free == some 30 && ((t.die 1).link 0).wire.all fun f => f.slots.isEmpty
      | _ => false) = true := by
  decide +kernel

theorem witness_GrantsCross :
    (granting 1 0).focus.ring.die = 1 ∧ (1 : Fin 4) ≠ 0 ∧ (((granting 1 0).launch (launchKey 0 0)).seg 1).map Seg.grants = some 0 ∧
      ((granting 1 0).launch 0).span + (((granting 1 0).launch 0).segs.map Seg.grants).foldl (· + ·) 0 < ((granting 1 0).launch 0).window ∧
      (granting 1 0).asksGrant 0 1 = true ∧ (granting 1 0).linked 1 0 = true ∧ ((granting 1 0).launch 0).grantsLeft (granting 1 0).fc ≠ 0 ∧ ((queued 0).launch 0).seg 1 = none ∧ (((granting 1 1).launch 0).seg 1).map Seg.grants = some 1 ∧
      ((granting 8 0).launch 0).window ≤ ((granting 8 0).launch 0).span := by
  decide +kernel
/-! ### Steps -/

/-- Slot 0 of the first element holds an ADD, which the picker finds. -/
def picks : State := State.reset.placeWord false (wordOf (.add 0 1 2 0 false))

/-- Hart 3 of die 0 issues word `w`. -/
def issues (w : Word) : State :=
  { harted 0 0 id with agenda := [.hart 0 3] }.onDie 0 fun d => { d with sram := writeBytes 0x100 (natBytes 4 w.toNat) [] }

/-- Packet 6 of queue 1, a NOP, is its next. -/
def packets : State :=
  let s := hosted (queued 1)
  { s with agenda := [.packet 1], hostMem := writeBytes 0x80001180 (natBytes 8 0x0001000680000000 ++ List.replicate 56 0) s.hostMem }

/-- The engine of a class has a message at the head of its queue, and the second M-element too. -/
def messages (cls : Fin 16) : State :=
  let m := msgOf cls.val 1 ⟨1, 2, 3, 4⟩
  let s := (streams 4).onRing ⟨0, 0⟩ fun r => { r with streamIn := [m], sparseIn := [m], procIn := [m] }
  { s.onElem e10 fun x => { x with msgq := [m] } with agenda := if cls = 2 then [.mxMessage e10 false] else [.message ⟨0, 0⟩ cls] }

/-- Slot 0 of the first element holds a QNT that the picker finds, and the scale file has no entry left. -/
def stalls : State :=
  let s := (State.reset.placeWord false (wordOf (.qnt 0 2 0 false))).onElem e0 fun x => { x with active := { x.active with d := x.active.d.set 0 (reg .f32 0 [0x3F800000]) } }
  s.onRing ⟨0, 0⟩ fun r => { r with scl := { r.scl with fresh := 2048 } }

theorem witness_StepRunsDecoded :
    State.reset.agenda = [] ∧ picks.agenda = [.pick e0 false, .tick] ∧ picks.nextCue = some (.pick e0 false) ∧
      (let s := { picks with agenda := [.event ⟨0, 0⟩ 0 .stripeSwap, .pick e0 false] }
       s.precedes (.pick e0 false) (.event ⟨0, 0⟩ 0 .stripeSwap) = true ∧ s.precedes (.event ⟨0, 0⟩ 0 .stripeSwap) (.pick e0 false) = false ∧
         s.nextCue = some (.pick e0 false)) ∧
      errRing (.plane p0 false) = some e0.at_.ring ∧
      (let s := picks
       let u := { s with agenda := [.tick] }
       s.agenda.erase (.pick e0 false) = [.tick] ∧ s.live e0 false = true ∧ (s.elem e0).lastPick ≠ s.fc + 1 ∧ s.dueStore e0 false = none ∧
         s.refused e0 false = 0 ∧ u.pickSlot e0 false = some (0, false) ∧
         decode .v (.word ((s.elem e0).plane false).iw[(0 : Fin 16)]) = .ok (.add 0 1 2 0 false) ∧ u.allocWaits e0 false 0 (.add 0 1 2 0 false) = false ∧
         ({ stalls with agenda := [.tick] }).allocWaits e0 false 0 (.qnt 0 2 0 false) = true) ∧
      ([0x0003128B, 0x00000013, 0x00013083, 0xFFFFFFFF].all fun w =>
        let s := issues w
        s.nextCue == some (.hart 0 3) && !(s.die 0).gated && !s.recovery && decide ((s.hart 0 3).block = .running) &&
          (match s.hartRead 0 3 0x100 2, s.hartRead 0 3 0x102 2 with
            | .done _ lo, .done _ hi => decide (bytesNat lo % 4 = 3) && BitVec.ofNat 32 (bytesNat lo + bytesNat hi * 2 ^ 16) == w
            | _, _ => false)) = true ∧
      decode .fe (.word 0x3128B) = .ok (.flatch 5 6) ∧
      [0x13, 0x13083, 0xFFFFFFFF].map (fun w : Nat => (decide (decode .fe (.word (.ofNat 32 w)) = .error .notCustom),
        (decodeRv w).map fun k => (k.access ((issues 0x13).hart 0 3)).isSome)) = [(true, some false), (true, some true), (true, none)] ∧
      [0x0001, 0x6188, 0x0000].map (fun w : Nat => (decide (w % 4 ≠ 3), (decodeRvc w).map fun k => (k.access ((issues 0x13).hart 0 3)).isSome)) =
        [(true, some false), (true, some true), (true, none)] ∧
      (packets.nextCue = some (.packet 1) ∧
        (match State.takePacket { packets with agenda := [] } 1 with | .packet _ i => i == Instr.pktNop ⟨6, true, false, 0, 0⟩ | _ => false) = true) ∧
      ([4, 5, 6].all fun c : Fin 16 => (messages c).nextCue == some (.message ⟨0, 0⟩ c) &&
        (match decode .message (.msg c.val 1 ⟨1, 2, 3, 4⟩) with | .ok _ => true | _ => false)) = true ∧
      ((messages 2).nextCue = some (.mxMessage e10 false) ∧ ((messages 2).elem e10).msgq.length = 1 ∧ (messages 2).moving e10.at_ false = true ∧
        ((messages 2).elem e10).lastMsg ≠ (messages 2).fc + 1) ∧
      decode .message (.msg 2 1 ⟨1, 2, 3, 4⟩) = .ok (.mxcfg ⟨1, 2, 3, 4⟩) ∧ Instr.page .gate = .event := by
  decide +kernel

theorem witness_DeviceKeyStays : (State.reset.keyOf 0).isSome = true ∧ (match step State.reset with | .next _ => true | _ => false) = true := by
  decide +kernel

theorem witness_RegisterFormsFrame :
    let x := ints.firing.el.at_.ring.die
    registerForm (.add 0 1 2 0 false) = true ∧ (Instr.add 0 1 2 0 false).wf = true ∧
      (match exec (.add 0 1 2 0 false) ints with | .next t => decide ((t.die x).faultWait.length = (ints.die x).faultWait.length) | _ => false) = true := by
  decide +kernel

theorem witness_DecodeInvertsEncode : ∀ i ∈ [Instr.add 8 3 2 0 true, .ld 5 8 2 6 false, .flatch 5 6, .pktNop ⟨4, true, false, 0, 0⟩, .mxcfg ⟨1, 2, 3, 4⟩],
    i.page ≠ .event ∧ i.wf = true := by
  decide +kernel
/-! ### Words of the encoding tables -/

/-- R57, R58, R66: a word of every opcode of the V page, its fields placed as the table has them: A 9 (c1, peeked where Q is 1), B 3, DA 2, DB 17, TAGACT 5;
an operand that the opcode does not use is 24. -/
def vWords : List (Word × Instr) :=
  ([
    (0x009C0B0B, .mov 9 2 5 true), (0x029C0A2B, .mov2 9 2 17 5 true), (0x04918A2B, .movp 9 3 2 17 5 true), (0x06918B0B, .sel 9 3 2 5 true),
    (0x08918B0B, .setvl 9 3 2 5 true), (0x0A918B0B, .bcast 9 3 2 5 true), (0x10918B0B, .add 9 3 2 5 true), (0x12918B0B, .sub 9 3 2 5 true),
    (0x14918B0B, .mul 9 3 2 5 true), (0x16918B0B, .mulh 9 3 2 5 true), (0x18918B0B, .mad 9 3 2 5 true), (0x1A9C0B0B, .neg 9 2 5 true),
    (0x1C9C0B0B, .abs 9 2 5 true), (0x1E918B0B, .min 9 3 2 5 true), (0x20918B0B, .max 9 3 2 5 true), (0x30918B0B, .andV 9 3 2 5 true),
    (0x32918B0B, .orV 9 3 2 5 true), (0x34918B0B, .xorV 9 3 2 5 true), (0x36918B0B, .andn 9 3 2 5 true), (0x389C0B0B, .notV 9 2 5 true),
    (0x3A918B0B, .shl 9 3 2 5 true), (0x3C918B0B, .shr 9 3 2 5 true), (0x3E918B0B, .sar 9 3 2 5 true), (0x409C0B0B, .popc 9 2 5 true),
    (0x429C0B0B, .clz 9 2 5 true), (0x50918B0B, .cmpeq 9 3 2 5 true), (0x52918B0B, .cmpne 9 3 2 5 true), (0x54918B0B, .cmplt 9 3 2 5 true),
    (0x56918B0B, .cmple 9 3 2 5 true), (0x58918B0B, .cmpltu 9 3 2 5 true), (0x5A9C0B0B, .anynz 9 2 5 true), (0x5C9C0B0B, .allnz 9 2 5 true),
    (0x60918B0B, .fadd 9 3 2 5 true), (0x62918B0B, .fsub 9 3 2 5 true), (0x64918B0B, .fmul 9 3 2 5 true), (0x66918B0B, .fma 9 3 2 5 true),
    (0x68918B0B, .fnma 9 3 2 5 true), (0x6A918B0B, .fmin 9 3 2 5 true), (0x6C918B0B, .fmax 9 3 2 5 true), (0x6E9C0B0B, .fabs 9 2 5 true)] : List (Word × Instr)) ++
  ([
    (0x709C0B0B, .fneg 9 2 5 true), (0x809C0B0B, .rcp 9 2 5 true), (0x829C0B0B, .rsq 9 2 5 true), (0x849C0B0B, .sqrt 9 2 5 true),
    (0x869C0B0B, .exp2 9 2 5 true), (0x889C0B0B, .log2 9 2 5 true), (0x8A9C0B0B, .tanh 9 2 5 true), (0x8C9C0B0B, .sigm 9 2 5 true),
    (0x909C0B0B, .rsum 9 2 5 true), (0x929C0B0B, .rmax 9 2 5 true), (0x949C0B0B, .rmin 9 2 5 true), (0x969C0B0B, .ramax 9 2 5 true),
    (0x98918B0B, .shuf 9 3 2 5 true), (0x9A918B0B, .rot 9 3 2 5 true), (0x9C918B0B, .extr 9 3 2 5 true), (0x9E918B0B, .ins 9 3 2 5 true),
    (0xA09C0B0B, .cvt 9 2 5 true), (0xA29C0B0B, .qnt 9 2 5 true), (0xA49C0B0B, .dqnt 9 2 5 true), (0xC0918B0B, .sbind 9 3 2 5 true),
    (0xC29C630B, .srel 9 5 true), (0xC4918B0B, .spow2 9 3 2 5 true), (0xC6918B0B, .sadde 9 3 2 5 true), (0xC8918B0B, .smax 9 3 2 5 true),
    (0xCA918B0B, .sprod 9 3 2 5 true), (0xCC918B0B, .srenorm 9 3 2 5 true), (0xCE91E30B, .sldcb 9 3 5 true), (0xD18C0B0A, .amaxrd 2 5),
    (0xD38C630A, .amaxclr 5), (0xE09C0B0B, .exit 9 2 5 true), (0xE291E30B, .drop 9 3 5 true), (0xE49C630B, .trap 9 5 true), (0xE69C630B, .seed 9 5 true),
    (0xE98C0B0A, .rand 2 5)] : List (Word × Instr))

theorem test_v_words : vWords.all (fun x => decide (decodeV x.1 = .ok x.2)) = true := by decide +kernel

/-- R57, R67, R68: the same of the J page, with the descriptor or the message base 2 in the two low bits of DB. -/
def jWords : List (Word × Instr) :=
  ([
    (0x009C084B, .ld 9 2 2 5 true), (0x0291884B, .st 9 3 2 2 5 true), (0x0491884B, .ldv 9 3 2 2 5 true), (0x0691884B, .stv 9 3 2 2 5 true),
    (0x0891884B, .recl 9 3 2 2 5 true), (0x0A9C084B, .gath 9 2 2 5 true), (0x0C91884B, .scat 9 3 2 2 5 true), (0x0E9C604B, .pref 9 2 5 true),
    (0x118C084A, .fence 2 2 5), (0x138C084A, .fencex 2 2 5), (0x1491A84B, .waita 9 3 2 2 5 true), (0x169C084B, .waitc 9 2 2 5 true),
    (0x189C084B, .launch 9 2 2 5 true), (0x1A91884B, .signal 9 3 2 2 5 true), (0x20BC0B0B, .tkt 3 2 5 true), (0x229C0B0B, .grant 9 2 5 true),
    (0x249C2B0B, .reply 9 2 5 true), (0x289C084B, .send 9 2 2 5 true), (0x2A9C604B, .sendn 9 2 5 true), (0x309C0B0B, .jMov 9 2 5 true),
    (0x329C0A2B, .jMov2 9 2 17 5 true), (0x34918B0B, .jAdd 9 3 2 5 true), (0x36918B0B, .jSub 9 3 2 5 true), (0x38918B0B, .jAnd 9 3 2 5 true),
    (0x3A918B0B, .jShl 9 3 2 5 true), (0x3C918B0B, .jCmpeq 9 3 2 5 true), (0x3E918B0B, .jCmplt 9 3 2 5 true), (0x409C0B0B, .jExit 9 2 5 true),
    (0x4291E30B, .jDrop 9 3 5 true), (0x449C630B, .jTrap 9 5 true)] : List (Word × Instr))

theorem test_j_words : jWords.all (fun x => decide (decodeJ x.1 = .ok x.2)) = true := by decide +kernel

/-- R78, R79, R160: the front-end custom instructions, rs2 7, rs1 6 and rd 5. -/
def feWords : List (Word × Instr) :=
  ([
    (0x0000028B, .fwait 5), (0x0003128B, .flatch 5 6), (0x0073200B, .fpost 6 7), (0x0073300B, .fqmap 6 7), (0x0003428B, .fqdemap 5 6),
    (0x0073528B, .fseqchk 5 6 7), (0x0003628B, .flaunch 5 6), (0x0003728B, .fvigil 5 6)] : List (Word × Instr))

theorem test_fe_words : feWords.all (fun x => decide (decodeFe x.1 = .ok x.2)) = true := by decide +kernel

/-- R74 to R77: the messages, by class and MOP. -/
def messageWords : List ((Nat × Nat) × Instr) :=
  [
    ((2, 1), .mxcfg ⟨1, 2, 3, 4⟩), ((2, 2), .mxtile ⟨1, 2, 3, 4⟩), ((2, 3), .mxkcnt ⟨1, 2, 3, 4⟩), ((2, 4), .mxdrain ⟨1, 2, 3, 4⟩),
    ((2, 5), .mxclracc ⟨1, 2, 3, 4⟩), ((2, 6), .mxcb ⟨1, 2, 3, 4⟩), ((2, 7), .mxamax ⟨1, 2, 3, 4⟩), ((2, 8), .mxrdacc ⟨1, 2, 3, 4⟩),
    ((2, 9), .mxfill ⟨1, 2, 3, 4⟩), ((2, 10), .mxfmt ⟨1, 2, 3, 4⟩), ((2, 11), .mxrnd ⟨1, 2, 3, 4⟩), ((2, 12), .mxstat ⟨1, 2, 3, 4⟩),
    ((4, 1), .sopen ⟨1, 2, 3, 4⟩), ((4, 2), .sclose ⟨1, 2, 3, 4⟩), ((4, 3), .srdh ⟨1, 2, 3, 4⟩), ((4, 4), .swrh ⟨1, 2, 3, 4⟩), ((4, 5), .scopy ⟨1, 2, 3, 4⟩),
    ((4, 6), .sstride ⟨1, 2, 3, 4⟩), ((4, 7), .sgath ⟨1, 2, 3, 4⟩), ((4, 8), .sscat ⟨1, 2, 3, 4⟩), ((4, 9), .sldbs ⟨1, 2, 3, 4⟩),
    ((4, 10), .ssync ⟨1, 2, 3, 4⟩), ((4, 11), .ssyncw ⟨1, 2, 3, 4⟩), ((4, 12), .singress ⟨1, 2, 3, 4⟩), ((4, 13), .sstat ⟨1, 2, 3, 4⟩),
    ((4, 14), .sabort ⟨1, 2, 3, 4⟩), ((5, 1), .uadd ⟨1, 2, 3, 4⟩), ((5, 2), .ufadd ⟨1, 2, 3, 4⟩), ((5, 3), .umax ⟨1, 2, 3, 4⟩), ((5, 4), .umin ⟨1, 2, 3, 4⟩),
    ((5, 5), .uor ⟨1, 2, 3, 4⟩), ((5, 6), .uand ⟨1, 2, 3, 4⟩), ((5, 7), .uxchg ⟨1, 2, 3, 4⟩), ((5, 8), .ucas ⟨1, 2, 3, 4⟩), ((5, 9), .uorder ⟨1, 2, 3, 4⟩),
    ((5, 10), .uflush ⟨1, 2, 3, 4⟩), ((6, 1), .plaunch ⟨1, 2, 3, 4⟩), ((6, 2), .pcancel ⟨1, 2, 3, 4⟩), ((6, 3), .pcount ⟨1, 2, 3, 4⟩),
    ((6, 4), .pphase ⟨1, 2, 3, 4⟩), ((6, 5), .pevict ⟨1, 2, 3, 4⟩), ((6, 6), .prestore ⟨1, 2, 3, 4⟩), ((6, 7), .pcompact ⟨1, 2, 3, 4⟩),
    ((6, 8), .palmw ⟨1, 2, 3, 4⟩), ((6, 9), .palmr ⟨1, 2, 3, 4⟩), ((6, 10), .pwsw ⟨1, 2, 3, 4⟩), ((6, 11), .prsw ⟨1, 2, 3, 4⟩),
    ((6, 12), .ppref ⟨1, 2, 3, 4⟩), ((6, 13), .peqwait ⟨1, 2, 3, 4⟩), ((6, 14), .pstat ⟨1, 2, 3, 4⟩)]

theorem test_message_words : messageWords.all (fun x => decide (decodeMsg x.1.1 x.1.2 ⟨1, 2, 3, 4⟩ = some x.2)) = true := by decide +kernel

theorem test_unassigned_messages : [(2, 0), (2, 13), (4, 0), (4, 15), (5, 0), (5, 11), (6, 0), (6, 15)].all (fun x => (decodeMsg x.1 x.2 ⟨1, 2, 3, 4⟩).isNone) = true := by
  decide +kernel

/-- R143 to R148: a packet of every type, with SEQ 4, CMPL 1 and RSCOPE 2: its header, its words 1 to 5, and the instruction. -/
def packetWords : List (Dword × List Dword × Instr) :=
  [
    (0x0001000490000000, [0, 0, 0, 0, 0], .pktNop ⟨4, true, false, 2, 0⟩),
    (0x0101000490000000, [0x0003000000000040, 0x0005000000000080, 7, 0x0004000300020001, 0x931], .pktLaunch ⟨4, true, false, 2, 0⟩ ⟨3, 64, 5, 128, 7, 1, 2, 3, 4, 1, 3, 9⟩),
    (0x0201000490000000, [0x1238, 0x55, 2, 0, 0], .pktWait ⟨4, true, false, 2, 0⟩ 0x1238 0x55 2),
    (0x0301000490000000, [0x1238, 0x55, 1, 0, 0], .pktSignal ⟨4, true, false, 2, 0⟩ 0x1238 0x55 1),
    (0x0401000490000000, [0x0000000900030001, 0, 0, 0, 0], .pktCancel ⟨4, true, false, 2, 0⟩ 1 3 9),
    (0x0501000490000000, [0x0000000900030004, 0, 0, 0, 0], .pktCount ⟨4, true, false, 2, 0⟩ 4 3 9),
    (0x0601000490000000, [5, 0x0000000200000001, 0x0000000400000003, 0, 0], .phase ⟨4, true, false, 2, 0⟩ 5 ⟨1, 2, 3, 4⟩),
    (0x0701000490000000, [5, 0x0000000200000001, 0x0000000400000003, 0, 0], .evict ⟨4, true, false, 2, 0⟩ 5 ⟨1, 2, 3, 4⟩),
    (0x0801000490000000, [5, 0x0000000200000001, 0x0000000400000003, 0, 0], .restore ⟨4, true, false, 2, 0⟩ 5 ⟨1, 2, 3, 4⟩),
    (0x0901000490000000, [5, 0x0000000200000001, 0x0000000400000003, 0, 0], .compact ⟨4, true, false, 2, 0⟩ 5 ⟨1, 2, 3, 4⟩),
    (0x0A01000490000000, [5, 0x0000000200000001, 0x0000000400000003, 0, 0], .almanac ⟨4, true, false, 2, 0⟩ 5 ⟨1, 2, 3, 4⟩),
    (0x0B01000490000000, [5, 0x0000000200000001, 0x0000000400000003, 0, 0], .almread ⟨4, true, false, 2, 0⟩ 5 ⟨1, 2, 3, 4⟩),
    (0x0C01000490000000, [5, 0x0000000200000001, 0x0000000400000003, 0, 0], .wswrite ⟨4, true, false, 2, 0⟩ 5 ⟨1, 2, 3, 4⟩),
    (0x0D01000490000000, [5, 0x0000000200000001, 0x0000000400000003, 0, 0], .reswrite ⟨4, true, false, 2, 0⟩ 5 ⟨1, 2, 3, 4⟩),
    (0x0E01000490000000, [5, 0x0000000200000001, 0x0000000400000003, 0, 0], .prefetch ⟨4, true, false, 2, 0⟩ 5 ⟨1, 2, 3, 4⟩),
    (0x0F01000490000000, [5, 0x0000000200000001, 0x0000000400000003, 0, 0], .eqwait ⟨4, true, false, 2, 0⟩ 5 ⟨1, 2, 3, 4⟩),
    (0x1001000490000000, [5, 0x0000000200000001, 0x0000000400000003, 0, 0], .status ⟨4, true, false, 2, 0⟩ 5 ⟨1, 2, 3, 4⟩),
    (0x1101000490000000, [0x0000000700000009, 0x8C00000040, 0x5000, 0x6000, 0], .ctxnew ⟨4, true, false, 2, 0⟩ 9 7 0x8C00000040 0x5000 0x6000),
    (0x1201000490000000, [9, 0, 0, 0, 0], .ctxfree ⟨4, true, false, 2, 0⟩ 9),
    (0x1301000490000000, [0x0000AB0000900005, 0x40, 0x80, 0x0000000000020001, 0], .qnew ⟨4, true, false, 2, 0⟩ ⟨5, 9, true, 5, 5, 0x40, 0x80, 1, 2⟩),
    (0x1401000490000000, [5, 0, 0, 0, 0], .qfree ⟨4, true, false, 2, 0⟩ 5)]

theorem test_packet_words : packetWords.all (fun x => decide (decodePacket (x.1 :: x.2.1 ++ [0, 0]) = .ok x.2.2)) = true := by decide +kernel

/-- R57 to R59, R63, R66: an unassigned opcode, a source of 29, a destination of 25, an operand that the opcode does not use, a peek of no channel and a tag
action of 14 are refused by name. -/
theorem test_refused_words :
    decodeV 0x0C000000 = .error .badOpcode ∧ decodeV 0x11D18B00 = .error .badSelect ∧ decodeV 0x1091E700 = .error .badSelect ∧
      decodeV 0x00918B00 = .error .badOperand ∧ decodeV 0x10318B01 = .error .badOperand ∧ decodeV 0x1091831C = .error .badTagact ∧
      decodeFe 0x0010800B = .ok (.illegalInstruction 0x0010800B) ∧ decodeFe 0x0000002B = .ok (.illegalInstruction 0x2B) ∧ decodeFe 0x13 = .error .notCustom := by
  decide +kernel

/-- R149: a version other than 1, a feature bit, an unassigned type, a reserved bit and an RSCOPE of 6 are refused, the first of them by name. -/
theorem test_refused_packets :
    decodePacket [0x0002000480010000, 0, 0, 0, 0, 0, 0, 0] = .error .badVersion ∧ decodePacket [0x1501000480010000, 0, 0, 0, 0, 0, 0, 0] = .error .badFeature ∧
      decodePacket [0x1501000480000000, 0, 0, 0, 0, 0, 0, 0] = .error .badType ∧ decodePacket [0x0001000480000001, 0, 0, 0, 0, 0, 0, 0] = .error .badField ∧
      decodePacket [0x00010004B0000000, 0, 0, 0, 0, 0, 0, 0] = .error .badField ∧ decodePacket [0x0001000480000000, 0, 0, 0, 0, 0, 0, 1] = .error .badField := by
  decide +kernel

/-! ### Ill-formed terms -/

/-- One term for each check of WellFormed that the check refuses; a neighbour of each is well formed. -/
theorem test_ill_formed :
    [Instr.mov 29 0 0 false, .sel 0 29 0 0 false, .mov 0 25 0 false, .mov2 0 0 25 0 false, .mad 0 0 8 0 false, .mov 0 0 14 false, .mov 3 0 0 true,
      .send 8 0 3 0 false, .tkt 0 25 0 false, .pktNop ⟨4, true, false, 6, 0⟩, .pktNop ⟨4, true, false, 0, 1⟩,
      .pktLaunch ⟨4, true, false, 0, 0⟩ ⟨3, 65, 5, 128, 7, 1, 2, 3, 4, 1, 3, 9⟩, .pktLaunch ⟨4, true, false, 0, 0⟩ ⟨3, 64, 5, 129, 7, 1, 2, 3, 4, 1, 3, 9⟩,
      .pktWait ⟨4, true, false, 0, 0⟩ 0x1234 0 2, .pktWait ⟨4, true, false, 0, 0⟩ 0x1238 0 3, .pktSignal ⟨4, true, false, 0, 0⟩ 0x1238 0 2,
      .pktCancel ⟨4, true, false, 0, 0⟩ 0 0 0, .pktCancel ⟨4, true, false, 0, 0⟩ 5 0 0, .pktCount ⟨4, true, false, 0, 0⟩ 1 4 0,
      .pktCount ⟨4, true, false, 0, 0⟩ 1 5 0, .phase ⟨4, true, false, 0, 0⟩ 16 ⟨0, 0, 0, 0⟩, .ctxnew ⟨4, true, false, 0, 0⟩ 9 7 0x8C00000020 0 0,
      .ctxnew ⟨4, true, false, 0, 0⟩ 9 7 0x8BFFFFFFC0 0 0, .ctxnew ⟨4, true, false, 0, 0⟩ 9 7 0x9000000000 0 0,
      .qnew ⟨4, true, false, 0, 0⟩ ⟨5, 9, true, 5, 5, 0x41, 0x80, 1, 2⟩, .qnew ⟨4, true, false, 0, 0⟩ ⟨5, 9, true, 5, 5, 0x40, 0x81, 1, 2⟩].all (fun i => !i.wf) = true ∧
    [Instr.mov 28 0 0 false, .sel 0 28 0 0 false, .mov 0 24 0 false, .mov2 0 0 24 0 false, .mad 0 0 7 0 false, .mov 0 0 13 false, .mov 8 0 0 true,
      .send 8 0 2 0 false, .tkt 0 24 0 false, .pktNop ⟨4, true, false, 5, 0⟩, .pktWait ⟨4, true, false, 0, 0⟩ 0x1238 0 2,
      .pktCancel ⟨4, true, false, 0, 0⟩ 4 0 0, .pktCount ⟨4, true, false, 0, 0⟩ 1 3 0, .phase ⟨4, true, false, 0, 0⟩ 15 ⟨0, 0, 0, 0⟩,
      .ctxnew ⟨4, true, false, 0, 0⟩ 9 7 0x8C00000000 0 0].all Instr.wf = true := by
  decide +kernel

/-! ### Single steps -/

/-- What an instruction of the first element leaves in its state. -/
def after (s : State) (i : Instr) (p : State → Bool) : Bool := match exec i s with | .next t => p t | _ => false

/-- The register d2 of an element after it. -/
def d2 (e : ElemAt) (t : State) : Reg := (t.elem e).active.d[2]

/-- R323, by hand: the sum of 2^31 - 1 and an absent lane, and of -3 and 2; the product wraps. -/
theorem test_integer_lanes :
    after ints (.add 0 1 2 0 false) (fun t => (d2 e0 t).lane 0 == 12 && (d2 e0 t).lane 1 == 0xFFFFFFFF) = true ∧
      after ints (.mul 0 1 2 0 false) (fun t => (d2 e0 t).lane 0 == 35 && (d2 e0 t).lane 1 == 0xFFFFFFFA) = true ∧
      after ints (.neg 0 2 0 false) (fun t => (d2 e0 t).lane 2 == 0x80000001) = true ∧
      after ints (.clz 0 2 0 false) (fun t => (d2 e0 t).lane 0 == 29 && (d2 e0 t).lane 3 == 32) = true := by
  decide +kernel

/-- R325, by hand: an arithmetic shift of -3 by 2, and a logical one. -/
theorem test_shift_lanes :
    after ints (.sar 0 1 2 0 false) (fun t => (d2 e0 t).lane 1 == 0xFFFFFFFF) = true ∧
      after ints (.shr 0 1 2 0 false) (fun t => (d2 e0 t).lane 1 == 0x3FFFFFFF) = true := by
  decide +kernel

/-- R329: the example of FMUL.B16 and FMA.B16. -/
theorem test_fma_rounds_once :
    let s := firesPl e0 (regsPl 2 (reg .b16 0 [0x3F81]) (reg .b16 0 [0x3F81]) (reg .b16 0 [0xBF82]))
    after s (.fmul 0 1 2 0 false) (fun t => (d2 e0 t).lane 0 == 0x3F82) = true ∧ after s (.fma 0 1 2 0 false) (fun t => (d2 e0 t).lane 0 == 0x3880) = true := by
  decide +kernel

/-- R334: step 2 of the row sum of 09. -/
theorem test_row_sum :
    after (firesPl e0 (regsPl 1 (reg .f32 3 [0x4B800000, 0x3F800000, 0x3F800000, 0x3F800000]) (reg .f32 0 []) (reg .f32 0 []))) (.rsum 0 2 0 false)
      (fun t => (d2 e0 t).lane 0 == 0x4B800001 && (d2 e0 t).vlen == 0) = true := by
  decide +kernel

/-- R262, R265: step 1 of the block of 07, from entry 0x1A3 at GEN 6. -/
def requantises : State :=
  (firesPl e0 (regsPl 4 (reg .b16 1 [0xBF404040, 0x3DD042C8]) (reg .f32 0 []) (reg .f32 0 []))).onScl e0 fun c =>
    { c with fresh := 2048, freed := [0x1A3, 0x1A4], entries := [(0x1A3, { SclEntry.zero with gen := 6 }), (0x1A4, { SclEntry.zero with gen := 6 })] }

theorem test_requantising :
    after requantises (.qnt 0 2 0 false) (fun t =>
      (d2 e0 t).lane 0 == 0x2D7CC454 && (d2 e0 t).vlen == 0 && (d2 e0 t).bind == 0x1A3 && (d2 e0 t).bgen == 7 &&
        ((t.scl e0).entry 0x1A3).scale.head? == some 0x7D && ((t.scl e0).entry 0x1A3).refcnt == 1 && (t.elem e0).active.amax == 0x42C80000) = true := by
  decide +kernel

/-- R66, R67, R160 and the worked examples of 02, 04, 07 and 09: words as the manual prints them. -/
theorem test_printed_words :
    decodeFe 0x0000050B = .ok (.fwait 10) ∧ decodeV 0xA28C2300 = .ok (.qnt 8 8 0 false) ∧ decodeV 0xCC982700 = .ok (.srenorm 9 16 9 0 false) ∧
      decodeV 0xA4AC2B00 = .ok (.dqnt 10 10 0 false) ∧ decodeV 0x028C2120 = .ok (.mov2 8 8 9 0 false) ∧ decodeV 0x909C2B00 = .ok (.rsum 9 10 0 false) ∧
      decodeV 0x0ABC2F00 = .ok (.bcast 11 24 11 0 false) ∧ decodeV 0x62A63300 = .ok (.fsub 10 12 12 0 false) ∧
      decodePacket [0x0101FFFEA8000000, 0x0003000000000000, 0x0004000000000040, 0x11, 0, 0, 0, 0] =
        .ok (.pktLaunch ⟨0xFFFE, true, false, 5, 0⟩ ⟨3, 0, 4, 64, 17, 0, 0, 0, 0, 0, 0, 0⟩) ∧
      decodePacket [0x0201FFFFA8000000, 0x00007F3C00001000, 1, 1, 0, 0, 0, 0] = .ok (.pktWait ⟨0xFFFF, true, false, 5, 0⟩ 0x00007F3C00001000 1 1) ∧
      decodePacket [0x03010000E8000000, 0x00007F3C00001040, 7, 0, 0, 0, 0, 0] = .ok (.pktSignal ⟨0, true, true, 5, 0⟩ 0x00007F3C00001040 7 0) := by
  decide +kernel

/-- R101: the AES-256 block of FIPS 197 (C.3), and the first blocks of vector 10 of IEEE 1619. -/
theorem test_encryption :
    let key := (List.range 32).map (BitVec.ofNat 8)
    let plain := (List.range 16).map fun i => BitVec.ofNat 8 (17 * i)
    let cipher : Block := (natBytes 16 0x8ea2b7ca516745bfeafc49904b496089).reverse
    aesEncrypt (roundKeys key) plain = cipher ∧ aesDecrypt (roundKeys key) cipher = plain := by
  decide +kernel

def xtsKey : Key :=
  let bs := (natBytes 32 0x2718281828459045235360287471352662497757247093699959574966967627).reverse ++
    (natBytes 32 0x3141592653589793238462643383279502884197169399375105820974944592).reverse
  Vector.ofFn fun i => .ofNat 64 (bytesNat ((bs.drop (8 * i.val)).take 8))

theorem test_xts :
    let plain := (List.range 64).map (BitVec.ofNat 8)
    (xtsEncrypt xtsKey 0xFF plain).take 32 = (natBytes 32 0x1c3b3a102f770386e4836c99e370cf9bea00803f5e482357a4ae12d414a3e63b).reverse ∧
      xtsDecrypt xtsKey 0xFF (xtsEncrypt xtsKey 0xFF plain) = plain := by
  decide +kernel

/-- R137: sequences compare across the wrap; R40: fault sequence numbers skip 0; R480, by hand: the throttle at 101 and 108 °C, in sixteenths. -/
theorem test_counts :
    seqAfter 0x0000 0xFFFE = true ∧ seqAfter 0xFFFE 0x0000 = false ∧ seqAfter 0x8000 0x0000 = false ∧ nextSeq 0xFFFFFFFF = 1 ∧
      duty 1616 = 8 ∧ duty 1615 = 0 ∧ duty 1728 = 56 ∧ duty 1744 = 56 := by
  decide +kernel

/-- The check value of CRC-32 (R47): of the bytes "123456789". -/
theorem test_crc32 : crc32 [0x31, 0x32, 0x33, 0x34, 0x35, 0x36, 0x37, 0x38, 0x39] = 0xCBF43926 := by decide +kernel

/-- R132: words of the base instruction set, and compressed ones, as its manual lays them out. -/
theorem test_base_words :
    [0xFFF30293, 0x00813083, 0x00113423, 0x00208463, 0x010000EF, 0x0220C2B3, 0x4033529B, 0x100332AF, 0x187332AF, 0x305312F3, 0x30200073].map decodeRv =
      [some (.alu .add false 5 6 (.imm (-1))), some (.load 1 2 8 3 true), some (.store 2 1 8 3), some (.branch .eq 1 2 8), some (.jal 1 16),
        some (.alu .div false 5 1 (.reg 2)), some (.alu .sra true 5 6 (.imm 3)), some (.amo .lr 5 6 0 true), some (.amo .sc 5 6 7 true),
        some (.csr 1 5 (.reg 6) 0x305), some .mret] ∧
    [0x0405, 0x557D, 0x6188, 0x8082, 0x852E, 0xE406, 0x1141, 0x0000].map decodeRvc =
      [some (.alu .add false 8 8 (.imm 1)), some (.alu .add false 10 0 (.imm (-1))), some (.load 10 11 0 3 true), some (.jalr 0 1 0),
        some (.alu .add false 10 0 (.reg 11)), some (.store 2 1 8 3), some (.alu .add false 2 2 (.imm (-16))), none] := by
  decide +kernel

/-- R132, by hand: a quotient and a remainder by zero, a shift of -128 by 3, a taken branch. -/
theorem test_base_steps :
    let runs (a b : Dword) (w : Nat) : Option Hart := (decodeRv w).map fun i => Hart.rv 3 i w 4 (harted a b id).me
    ((runs 7 0 0x0220C2B3).any fun h => h.reg 5 == -1 && h.pc == 0x104) = true ∧ ((runs 7 0 0x0220E2B3).any fun h => h.reg 5 == 7) = true ∧
      ((runs 0xFFFFFF80 0 0x4030D29B).any fun h => h.reg 5 == -16) = true ∧ ((runs 4 4 0x00208463).any fun h => h.pc == 0x108) = true := by
  decide +kernel

/-- R78, R161: an illegal instruction traps to mtvec with its word, and FWAIT on a hart that holds no queue waits where it stands. -/
theorem test_hart_steps :
    after (harted 0 0 fun h => { h with mtvec := 0x400 }) (.illegalInstruction 0x2B)
      (fun t => (t.hart 0 3).pc == 0x400 && (t.hart 0 3).mepc == 0x100 && (t.hart 0 3).mcause == 2 && (t.hart 0 3).mtval == 0x2B) = true ∧
      after (harted 0 0 id) (.fwait 1) (fun t => (t.hart 0 3).pc == 0x100 && decide ((t.hart 0 3).block = .fwait 1)) = true := by
  decide +kernel

/-- R66, R67, R79: a word placed on each page of words is the next step (log 3). -/
theorem test_placed_words_step :
    [(32, 0x10918B0B), (32, 0x30 * 2 ^ 24 + 0x8C0300), (32, 0x000A728B)].all (fun x =>
      match step (State.reset.withFetchWord x.1 x.2) with | .next t => t.agenda == [.tick] | _ => false) = true := by
  decide +kernel

end Sys2Proof.Tests
end

/-! PROOFS. Harts: what an access, a register write, a watch, a timer, a trap and a restart do to dies, harts and the wake latch
(04 R132-R134, R141, R157, R158, R168, R171). -/

namespace Sys2Proof.Machine

/-! ### What an update of a die leaves alone -/

theorem State.die_onDie_ne {d e : Fin 4} (h : e ≠ d) (s : State) (f : Die → Die) : (s.onDie d f).die e = s.die e :=
  State.die_setDie_ne s d e _ h

/-- A part that an update leaves of its die, it leaves of every die. -/
theorem State.onDie_keeps {α : Type} (p : Die → α) {s : State} {d : Fin 4} {f : Die → Die} (h : p (f (s.die d)) = p (s.die d)) (e : Fin 4) :
    p ((s.onDie d f).die e) = p (s.die e) := by
  by_cases he : e = d
  · rw [he, State.die_onDie, h]
  · rw [State.die_onDie_ne he]

theorem State.hart_onDie {s : State} {d : Fin 4} {f : Die → Die} (h : (f (s.die d)).harts = (s.die d).harts) (e : Fin 4) (k : Fin 64) :
    (s.onDie d f).hart e k = s.hart e k := by
  simp only [State.hart, State.onDie_keeps Die.harts h e]

theorem State.hart_of_dies {s t : State} (h : t.dies = s.dies) (d : Fin 4) (k : Fin 64) : t.hart d k = s.hart d k := by
  simp only [State.hart, State.die, h]

theorem State.hart_onHart_ne {d e : Fin 4} {h k : Fin 64} (hne : (e, k) ≠ (d, h)) (s : State) (f : Hart → Hart) :
    (s.onHart d h f).hart e k = s.hart e k := by
  by_cases he : e = d
  · subst he
    simp only [State.hart, State.onHart, State.setHart, State.die_onDie]
    exact Vector.getElem_set_ne _ _ fun hv => hne (by rw [Fin.ext hv])
  · simp only [State.hart, State.onHart, State.setHart, State.die_onDie_ne he]

@[simp] theorem State.sram_onHart (s : State) (d : Fin 4) (k : Fin 64) (f : Hart → Hart) (e : Fin 4) :
    ((s.onHart d k f).die e).sram = (s.die e).sram := State.onDie_keeps Die.sram rfl e

@[simp] theorem State.fbuf_onHart (s : State) (d : Fin 4) (k : Fin 64) (f : Hart → Hart) (e : Fin 4) :
    ((s.onHart d k f).die e).fbuf = (s.die e).fbuf := State.onDie_keeps Die.fbuf rfl e

@[simp] theorem State.latch_onHart (s : State) (d : Fin 4) (k : Fin 64) (f : Hart → Hart) (q : BitVec 20) :
    (s.onHart d k f).latch q = s.latch q := by
  simp only [State.latch, State.onHart, State.setHart, State.onDie_keeps Die.latch]

theorem State.setDie_self (s : State) (d : Fin 4) : s.setDie d (s.die d) = s := by
  have h : s.dies.set d (s.die d) = s.dies := Vector.set_getElem_self _
  simp only [State.setDie, h]

/-- An update that changes nothing of a hart changes nothing. -/
theorem State.onHart_self {s : State} {d : Fin 4} {k : Fin 64} {f : Hart → Hart} (h : f (s.hart d k) = s.hart d k) : s.onHart d k f = s := by
  have hh : (s.die d).harts.set k (s.hart d k) = (s.die d).harts := Vector.set_getElem_self _
  simp only [State.onHart, h, State.setHart, State.onDie, hh]
  exact State.setDie_self s d

theorem State.ring_onRing_ne {q r : RingAt} (h : q ≠ r) (s : State) (f : Ring → Ring) : (s.onRing r f).ring q = s.ring q := by
  simp only [State.onRing, State.setRing, State.ring]
  exact Vector.getElem_set_ne _ _ fun hv => h (RingAt.ix_inj (Fin.ext hv.symm))

/-- An update that changes nothing of a ring changes nothing. -/
theorem State.onRing_self {s : State} {r : RingAt} {f : Ring → Ring} (h : f (s.ring r) = s.ring r) : s.onRing r f = s := by
  have hr : s.rings.set r.ix (s.ring r) = s.rings := Vector.set_getElem_self _
  simp only [State.onRing, h, State.setRing, hr]

/-! ### The wake latch (04 R141) -/

/-- A queue is named by its home die and its local index (04 R135). -/
theorem qid_ext {p q : BitVec 20} (hd : homeDie p = homeDie q) (hl : localIx p = localIx q) : p = q := by
  have h := congrArg Fin.val hd
  simp only [homeDie, localIx, Fin.ofNat] at h hl
  bv_omega

@[simp] theorem tabGet_tabMod {α : Type} (d : α) (k : Nat) (f : α → α) (t : Tab α) : tabGet d k (tabMod d k f t) = f (tabGet d k t) := by
  simp [tabMod, tabGet]

theorem tabGet_tabMod_ne {α : Type} {k j : Nat} (h : j ≠ k) (d : α) (f : α → α) (t : Tab α) : tabGet d j (tabMod d k f t) = tabGet d j t := by
  simp [tabMod, tabGet, tabFind_tabPut_ne h]

theorem State.latch_onLatch (s : State) (q p : BitVec 20) (f : Latch → Latch) :
    (s.onLatch q f).latch p = if q = p then f (s.latch p) else s.latch p := by
  split
  · next h => subst h; simp [State.latch, State.onLatch]
  · next h =>
    by_cases hd : homeDie p = homeDie q
    · have hl : localIx p ≠ localIx q := fun hl => h (qid_ext hd hl).symm
      simp only [State.latch, State.onLatch, hd, State.die_onDie]
      exact tabGet_tabMod_ne hl _ _ _
    · simp only [State.latch, State.onLatch, State.die_onDie_ne hd]

@[simp] theorem State.hart_onLatch (s : State) (q : BitVec 20) (f : Latch → Latch) (d : Fin 4) (k : Fin 64) :
    (s.onLatch q f).hart d k = s.hart d k := State.hart_onDie rfl d k

@[simp] theorem State.latch_onServer (s : State) (q : BitVec 20) (f : Hart → Hart) (p : BitVec 20) : (s.onServer q f).latch p = s.latch p := by
  unfold State.onServer
  split
  · exact State.latch_onHart _ _ _ _ _
  · rfl

/-- A part of a hart that an update leaves stays under it, whichever hart serves the queue. -/
theorem State.onServer_keeps {α : Type} (p : Hart → α) {f : Hart → Hart} (h : ∀ x, p (f x) = p x) (s : State) (q : BitVec 20) (d : Fin 4)
    (k : Fin 64) : p ((s.onServer q f).hart d k) = p (s.hart d k) := by
  unfold State.onServer
  split
  · next j _ =>
    by_cases he : (d, k) = (homeDie q, j)
    · obtain ⟨rfl, rfl⟩ := Prod.mk.inj he
      rw [State.hart_onHart, h]
    · rw [State.hart_onHart_ne he]
  · rfl

theorem State.qid_demap (s : State) (q : BitVec 20) (d : Fin 4) (k : Fin 64) : ((s.demap q).hart d k).qid = (s.hart d k).qid := by
  simp only [State.demap, State.hart_onLatch]
  exact State.onServer_keeps Hart.qid (by intro; rfl) s q d k

/-- A demap clears MAPPED of its queue's latch entry, and no other entry changes (04 R166). -/
theorem State.latch_demap (s : State) (q p : BitVec 20) :
    (s.demap q).latch p = if q = p then { s.latch p with mapped := false } else s.latch p := by
  simp only [State.demap, State.latch_onLatch, State.latch_onServer]

@[simp] theorem State.fwRunning_demap (s : State) (q : BitVec 20) : (s.demap q).fwRunning = s.fwRunning := by
  simp only [State.demap, State.onLatch, State.onServer]
  split <;> rfl

/-! ### Watches and the vigil timer (04 R158, R168) -/

theorem exec_watchMet (s : State) (d : Fin 4) (k : Fin 64) : exec (.watchMet d k) s = .next (s.checkWatch d k) := rfl

theorem State.checkWatch_idle {s : State} {d : Fin 4} {k : Fin 64} (h : (s.hart d k).arm = false ∨ (s.hart d k).watchHit = true) :
    s.checkWatch d k = s := by
  simp only [State.checkWatch]
  exact if_pos (h.imp (by simp [·]) id)

section Watch
variable {s : State} {d : Fin 4} {k : Fin 64} (ha : (s.hart d k).arm = true) (hm : (s.hart d k).watchHit = false)
include ha hm

/-- An armed watch whose word cannot be read waits for its page or faults, as the access does. -/
theorem State.checkWatch_blocked {u : State} (hb : s.fBlock d (s.hart d k).pasid ((s.hart d k).waddr.toNat * 8) 8 false (some k) = some u) :
    s.checkWatch d k = u := by
  simp [State.checkWatch, ha, hm, hb]

/-- An armed watch that reads its word notes whether the word satisfies OP. -/
theorem State.checkWatch_read (hb : s.fBlock d (s.hart d k).pasid ((s.hart d k).waddr.toNat * 8) 8 false (some k) = none) :
    s.checkWatch d k = s.onHart d k fun h =>
      { h with watchHit := waitMet h.wop.toNat (bytesNat (s.fRead d h.pasid (h.waddr.toNat * 8) 8)) h.wval.toNat } := by
  simp only [State.checkWatch, ha, hm, hb, Bool.not_true, Bool.false_eq_true, or_self, if_false]
  split
  · next h => simp only [State.onHart, h]
  · next h =>
    refine (State.onHart_self ?_).symm
    rw [Bool.eq_false_of_not_eq_true h, ← hm]

end Watch

/-! ### The firmware restart (04 R171; log 26) -/

theorem exec_firmwareRestartReset (s : State) : exec .firmwareRestartReset s = .next (s.restartReset s.focus.ring.die) := rfl

/-- The die from which the firmware starts anew: its harts are reset and it asks for no restart. -/
def Die.resetHarts (x : Die) : Die :=
  { x with harts := Vector.replicate 64 Hart.reset, restarted := [], feRestart := false, devGenSet := false }

/-- The same with the image that is to run, when there is one. -/
def Die.startNext (i : Option FwImage) (x : Die) : Die :=
  match i with
  | some i => x.resetHarts.startFw i
  | none => x.resetHarts

@[simp] theorem Die.startNext_harts (i : Option FwImage) (x : Die) : (x.startNext i).harts = Vector.replicate 64 Hart.reset := by cases i <;> rfl
@[simp] theorem Die.startNext_restarted (i : Option FwImage) (x : Die) : (x.startNext i).restarted = [] := by cases i <;> rfl
@[simp] theorem Die.startNext_feRestart (i : Option FwImage) (x : Die) : (x.startNext i).feRestart = false := by cases i <;> rfl
@[simp] theorem Die.startNext_latch (i : Option FwImage) (x : Die) : (x.startNext i).latch = x.latch := by cases i <;> rfl

/-- The harts of a die that the manual's firmware runs and that hold a queue. -/
def State.firmwareHarts (s : State) (d : Fin 4) : List (Fin 64) :=
  ((s.die d).unowned.map (Fin.ofNat 64)).filter fun k => (s.hart d k).mapped

/-- The state in which a list of harts has given up its queues by FQDEMAP. -/
def State.demapAll (s : State) (d : Fin 4) (ks : List (Fin 64)) : State := ks.foldl (fun s k => s.demap (s.hart d k).qid) s

/-- A restart that every hart has taken, in the model's own parts. -/
theorem State.restartReset_taken {s : State} {d : Fin 4} (h1 : (s.die d).feRestart = true) (h2 : ∀ n : Fin 64, n.val ∈ (s.die d).restarted) :
    s.restartReset d = (s.demapAll d (s.firmwareHarts d)).onDie d (Die.startNext (s.demapAll d (s.firmwareHarts d)).fwRunning) := by
  have h3 : ((List.range 64).all fun k => (s.die d).restarted.contains k) = true := by
    simpa using fun k hk => h2 ⟨k, hk⟩
  simp only [State.restartReset, h1, h3, and_self, if_true]
  rfl

theorem State.restartReset_waits {s : State} {d : Fin 4} (h : ¬((s.die d).feRestart = true ∧ ∀ n : Fin 64, n.val ∈ (s.die d).restarted)) :
    s.restartReset d = s := by
  simp only [State.restartReset]
  refine if_neg fun h3 => h ⟨h3.1, fun n => ?_⟩
  simpa using List.all_eq_true.1 h3.2 n.val (List.mem_range.2 n.isLt)

theorem State.fwRunning_demapAll (s : State) (d : Fin 4) (ks : List (Fin 64)) : (s.demapAll d ks).fwRunning = s.fwRunning :=
  foldl_keeps State.fwRunning _ (fun _ _ => State.fwRunning_demap _ _) ks s

/-- The latch entries of the queues given up have MAPPED clear, and no other entry changes. -/
theorem State.latch_demapAll (d : Fin 4) (ks : List (Fin 64)) (s : State) (q : BitVec 20) :
    (s.demapAll d ks).latch q = if ∃ k ∈ ks, (s.hart d k).qid = q then { s.latch q with mapped := false } else s.latch q := by
  induction ks generalizing s with
  | nil => simp [State.demapAll]
  | cons k ks ih =>
    have hs : s.demapAll d (k :: ks) = (s.demap (s.hart d k).qid).demapAll d ks := rfl
    simp only [hs, ih, State.qid_demap, State.latch_demap, List.mem_cons, exists_eq_or_imp]
    by_cases h1 : (s.hart d k).qid = q
    · simp only [h1, if_true, true_or, ite_self]
    · simp only [h1, if_false, false_or]

theorem State.latch_onDie {s : State} {d : Fin 4} {f : Die → Die} (h : (f (s.die d)).latch = (s.die d).latch) (q : BitVec 20) :
    (s.onDie d f).latch q = s.latch q := by
  simp only [State.latch, State.onDie_keeps Die.latch h]

theorem State.mem_firmwareHarts {s : State} {d : Fin 4} {k : Fin 64} :
    k ∈ s.firmwareHarts d ↔ k.val ∈ (s.die d).unowned ∧ (s.hart d k).mapped = true := by
  simp only [State.firmwareHarts, List.mem_filter, List.mem_map, and_congr_left_iff]
  refine fun _ => ⟨?_, fun h => ⟨k.val, h, by simp⟩⟩
  rintro ⟨n, hn, rfl⟩
  have h64 : n < 64 := List.mem_range.1 (List.mem_filter.1 hn).1
  simpa [Nat.mod_eq_of_lt h64] using hn

/-- A restart that every hart has taken leaves of the latch all but MAPPED, and all of the entries whose queues no firmware hart holds. -/
theorem State.latch_restartReset {s : State} {d : Fin 4} (h1 : (s.die d).feRestart = true) (h2 : ∀ n : Fin 64, n.val ∈ (s.die d).restarted)
    (q : BitVec 20) :
    (s.restartReset d).latch q =
      if ∃ k ∈ s.firmwareHarts d, (s.hart d k).qid = q then { s.latch q with mapped := false } else s.latch q := by
  rw [State.restartReset_taken h1 h2, State.latch_onDie (Die.startNext_latch _ _), State.latch_demapAll]

/-- R158, R168, R171. -/
theorem hartEvents : Claim.HartEvents := by
  intro s d k h va f taken dark
  refine ⟨fun u ha hm hb => ?_, fun ha hm hb => ?_, fun hi => ?_, ?_, fun ht => ?_, fun ht => ?_⟩
  · rw [exec_watchMet, State.checkWatch_blocked ha hm hb]
  · refine ⟨_, exec_watchMet s d k, ?_⟩
    rw [State.checkWatch_read ha hm hb]
    exact ⟨State.hart_onHart _ _ _ _, rfl⟩
  · rw [exec_watchMet, State.checkWatch_idle hi]
  · exact ⟨_, rfl, State.hart_onHart _ _ _ _⟩
  · obtain ⟨h1, h2⟩ := ht
    have hr := State.restartReset_taken h1 h2
    refine ⟨_, exec_firmwareRestartReset s, ?_, ?_, fun n => ?_, fun q => ?_, fun i hi => ?_⟩
    · rw [hr]; simp
    · rw [hr]; simp
    · rw [hr]; simp [State.hart]
    · rw [State.latch_restartReset h1 h2]
      refine ⟨by split <;> rfl, fun hn => if_neg ?_⟩
      rintro ⟨n, hk, hq⟩
      obtain ⟨hu, hm⟩ := State.mem_firmwareHarts.1 hk
      exact hn n hu hm hq
    · rw [hr, State.die_onDie, State.fwRunning_demapAll, hi]
      exact ⟨rfl, rfl, rfl⟩
  · rw [exec_firmwareRestartReset, State.restartReset_waits ht]

/-! ### The illegal-instruction exception (01 R78, 04 R132; log 11) -/

/-- A number by the fields of mstatus that a trap names: MIE at bit 3, MPIE at bit 7, MPP at bits 12:11. -/
theorem mstatus_digits (m : Nat) :
    m = m % 8 + 8 * bits m 3 3 + 16 * (m / 16 % 8) + 128 * bits m 7 7 + 256 * (m / 256 % 8) + 2048 * bits m 12 11 + 8192 * (m / 8192) := by
  simp only [bits, Nat.reduceAdd, Nat.reduceSub, Nat.reducePow]
  have q1 : m / 16 = m / 8 / 2 := (Nat.div_div_eq_div_mul m 8 2).symm
  have q2 : m / 128 = m / 16 / 8 := (Nat.div_div_eq_div_mul m 16 8).symm
  have q3 : m / 256 = m / 128 / 2 := (Nat.div_div_eq_div_mul m 128 2).symm
  have q4 : m / 2048 = m / 256 / 8 := (Nat.div_div_eq_div_mul m 256 8).symm
  have q5 : m / 8192 = m / 2048 / 4 := (Nat.div_div_eq_div_mul m 2048 4).symm
  rw [q5, q4, q3, q2, q1]
  omega

/-- The number that a trap leaves in mstatus: MIE moves to MPIE and gives way to 0, and MPP is 3. -/
theorem Hart.trap_mstatus_toNat (h : Hart) (cause : Nat) (v : Dword) :
    ∃ lo x y hi, lo < 8 ∧ x < 8 ∧ y < 8 ∧
      (h.trap cause v).mstatus.toNat = lo + 16 * x + 128 * bits h.mstatus.toNat 3 3 + 256 * y + 2048 * 3 + 8192 * hi := by
  have hm := h.mstatus.isLt
  have digits := mstatus_digits h.mstatus.toNat
  have mie : bits h.mstatus.toNat 3 3 < 2 := Nat.mod_lt _ (by decide)
  have hlo : h.mstatus.toNat % 8 < 8 := Nat.mod_lt _ (by decide)
  have hx : h.mstatus.toNat / 16 % 8 < 8 := Nat.mod_lt _ (by decide)
  have hy : h.mstatus.toNat / 256 % 8 < 8 := Nat.mod_lt _ (by decide)
  refine ⟨h.mstatus.toNat % 8, h.mstatus.toNat / 16 % 8, h.mstatus.toNat / 256 % 8, h.mstatus.toNat / 8192, hlo, hx, hy,
    (BitVec.toNat_ofNat _ _).trans ?_⟩
  generalize h.mstatus.toNat % 8 = lo, h.mstatus.toNat / 16 % 8 = x, h.mstatus.toNat / 256 % 8 = y, h.mstatus.toNat / 8192 = hi,
    bits h.mstatus.toNat 3 3 = b, bits h.mstatus.toNat 7 7 = c, bits h.mstatus.toNat 12 11 = e, h.mstatus.toNat = m
    at hm digits mie hlo hx hy ⊢
  rw [Nat.mod_eq_of_lt] <;> omega

/-- A trap disables interrupts, keeps what MIE was in MPIE, and comes from machine mode. -/
theorem Hart.trap_mstatus (h : Hart) (cause : Nat) (v : Dword) :
    bits (h.trap cause v).mstatus.toNat 3 3 = 0 ∧ bits (h.trap cause v).mstatus.toNat 7 7 = bits h.mstatus.toNat 3 3 ∧
      bits (h.trap cause v).mstatus.toNat 12 11 = 3 := by
  obtain ⟨lo, x, y, hi, hlo, hx, hy, e⟩ := h.trap_mstatus_toNat cause v
  have hb : bits h.mstatus.toNat 3 3 < 2 := Nat.mod_lt _ (by decide)
  rw [e]
  generalize bits h.mstatus.toNat 3 3 = b at hb ⊢
  simp only [bits, Nat.reduceAdd, Nat.reduceSub, Nat.reducePow]
  omega

/-- R78, R132. -/
theorem illegalInstructionsTrap : Claim.IllegalInstructionsTrap := by
  intro s w
  have me : (s.illegal w.toNat).me = s.me.trap 2 (.ofNat 64 w.toNat) := State.hart_onHart _ _ _ _
  obtain ⟨hmie, hmpie, hmpp⟩ := s.me.trap_mstatus 2 (.ofNat 64 w.toNat)
  refine ⟨_, rfl, ?_⟩
  rw [me]
  exact ⟨rfl, rfl, rfl, rfl, rfl, hmie, hmpie, hmpp, rfl, fun d k hne => State.hart_onHart_ne hne _ _⟩

/-! ### Accesses of a hart (04 R133, R134; log 12) -/

theorem exec_pathFAccess (s : State) (d : Fin 4) (k : Fin 64) (a : FAccess) : exec (.pathFAccess d k a) s = .next (s.pathF d k a) := rfl

/-! #### Writes of memory leave the dies -/

@[simp] theorem State.dies_hbmWrite (key : Key) (bs : List Byte) (s : State) (a : Nat) : (s.hbmWrite key a bs).dies = s.dies := by
  induction bs generalizing s a with
  | nil => rfl
  | cons b bs ih => exact ih _ _

theorem State.dies_locPut (s : State) (key : Key) (l : Loc) (b : Byte) : (s.locPut key l b).dies = s.dies := by
  cases l <;> rfl

theorem State.dies_vaWrite (d : Fin 4) (pasid : BitVec 20) (key : Key) (bs : List Byte) (s : State) (va : Nat) :
    (s.vaWrite d pasid key va bs).dies = s.dies := by
  induction bs generalizing s va with
  | nil => rfl
  | cons b bs ih =>
    refine (ih _ _).trans ?_
    cases s.locOf d pasid va true with
    | none => rfl
    | some l => exact State.dies_locPut s key l b

@[simp] theorem State.dies_fWrite (s : State) (d : Fin 4) (pasid : BitVec 20) (va : Nat) (bs : List Byte) :
    (s.fWrite d pasid va bs).dies = s.dies := by
  unfold State.fWrite
  split
  · exact State.dies_vaWrite _ _ _ _ _ _
  · split
    · rfl
    · exact State.dies_vaWrite _ _ _ _ _ _

theorem Die.walk_harts (x : Die) (fc : Nat) (pasid : BitVec 20) (vp : Nat) (w : Bool) (u : Waiter) : (x.walk fc pasid vp w u).harts = x.harts := by
  unfold Die.walk
  split
  · rfl
  · dsimp only
    split <;> rfl

/-- A walk for a hart changes no hart. -/
@[simp] theorem State.hart_hartWalk (s : State) (d : Fin 4) (k : Fin 64) (va : Nat) (w : Bool) (e : Fin 4) (j : Fin 64) :
    (s.hartWalk d k va w).hart e j = s.hart e j := State.hart_onDie (Die.walk_harts _ _ _ _ _ _) e j

/-- A die after a store of a hart to its local SRAM: the bytes, and the reservations of other harts on them taken (log 12). -/
def Die.storeSram (k : Fin 64) (a : Nat) (bs : List Byte) (x : Die) : Die :=
  { x.unreserve k a bs.length with sram := writeBytes a bs x.sram }

/-- A walk blocks the hart at its access. -/
theorem State.hart_walk_blocks (s : State) (d : Fin 4) (k : Fin 64) (m : Nat) (w : Bool) (a : FAccess) :
    ((s.hartWalk d k m w).onHart d k fun x => { x with block := .pathF a }).hart d k = { s.hart d k with block := .pathF a } := by
  rw [State.hart_onHart, State.hart_hartWalk]

/-- A store to local SRAM leaves its own hart, whose reservation stands. -/
@[simp] theorem State.hart_storeSram (s : State) (d : Fin 4) (k : Fin 64) (a : Nat) (bs : List Byte) :
    (s.onDie d (Die.storeSram k a bs)).hart d k = s.hart d k := by
  simp [State.hart, Die.storeSram, Die.unreserve]

/-! #### What an access comes to, by its place -/

section Places
variable {s : State} {d : Fin 4} {k : Fin 64} {addr n : Nat} {bs : List Byte}

theorem State.hartRead_sram {a : Nat} (h : hartPlace addr n = .sram a) : s.hartRead d k addr n = .done s (readBytes a n (s.die d).sram) := by
  simp only [State.hartRead, h]

theorem State.hartRead_faults {off : Nat} (h : hartPlace addr n = .faults off) :
    s.hartRead d k addr n = .done s (((s.die d).fbufBytes.drop off).take n) := by
  simp only [State.hartRead, h]

theorem State.hartRead_carve {a : Nat} (h : hartPlace addr n = .carve a) : s.hartRead d k addr n = .done s (s.hbmRead s.devKey a n) := by
  simp only [State.hartRead, h]

theorem State.hartRead_virt {va : Nat} (h : hartPlace addr n = .virt va) (hm : s.missVa d (s.hart d k).pasid va n false = none) :
    s.hartRead d k addr n = .done s (s.fRead d (s.hart d k).pasid va n) := by
  simp only [State.hartRead, h, hm]

theorem State.hartRead_virt_miss {va m : Nat} (h : hartPlace addr n = .virt va) (hm : s.missVa d (s.hart d k).pasid va n false = some m) :
    s.hartRead d k addr n = .miss (s.hartWalk d k m false) := by
  simp only [State.hartRead, h, hm]

theorem State.hartRead_nowhere (h : hartPlace addr n = .nowhere) : s.hartRead d k addr n = .fault := by
  simp only [State.hartRead, h, State.hartReg]

/-- A load from a register. -/
theorem State.hartRead_reg {w : Nat} (h : s.hartReg d (hartPlace addr n) = some w) :
    s.hartRead d k addr n = if (hartPlace addr n).off % n = 0 then .done s (((natBytes 8 w).drop ((hartPlace addr n).off % 8)).take n) else .fault := by
  unfold State.hartRead
  generalize hartPlace addr n = p at h ⊢
  cases p with
  | window | dieRegs | latch | bar => simp only [h]
  | sram | faults | virt | carve | nowhere => simp [State.hartReg] at h

variable (hn : bs.length = n)
include hn

theorem State.hartWrite_sram {a : Nat} (h : hartPlace addr n = .sram a) :
    s.hartWrite d k addr bs = .done (s.onDie d (Die.storeSram k a bs)) [] := by
  subst hn
  simp only [State.hartWrite, h]
  rfl

theorem State.hartWrite_faults {off : Nat} (h : hartPlace addr n = .faults off) : s.hartWrite d k addr bs = .done s [] := by
  simp only [State.hartWrite, hn, h]

theorem State.hartWrite_carve {a : Nat} (h : hartPlace addr n = .carve a) : s.hartWrite d k addr bs = .done (s.hbmWrite s.devKey a bs) [] := by
  simp only [State.hartWrite, hn, h]

theorem State.hartWrite_virt {va : Nat} (h : hartPlace addr n = .virt va) (hm : s.missVa d (s.hart d k).pasid va n true = none) :
    s.hartWrite d k addr bs = .done (s.fWrite d (s.hart d k).pasid va bs) [] := by
  simp only [State.hartWrite, hn, h, hm]

theorem State.hartWrite_virt_miss {va m : Nat} (h : hartPlace addr n = .virt va) (hm : s.missVa d (s.hart d k).pasid va n true = some m) :
    s.hartWrite d k addr bs = .miss (s.hartWalk d k m true) := by
  simp only [State.hartWrite, hn, h, hm]

theorem State.hartWrite_nowhere (h : hartPlace addr n = .nowhere) : s.hartWrite d k addr bs = .fault := by
  simp only [State.hartWrite, hn, h, State.hartReg]

/-- A store to a register. -/
theorem State.hartWrite_reg {w : Nat} (h : s.hartReg d (hartPlace addr n) = some w) :
    s.hartWrite d k addr bs =
      if (hartPlace addr n).off % n = 0 then .done (s.putHartReg d (hartPlace addr n) (.ofNat 64 (mergeReg (hartPlace addr n) w bs))) [] else .fault := by
  unfold State.hartWrite
  simp only [hn]
  generalize hartPlace addr n = p at h ⊢
  cases p with
  | window | dieRegs | latch | bar => simp only [h]
  | sram | faults | virt | carve | nowhere => simp [State.hartReg] at h

end Places

/-! #### Loads, stores and atomic acts -/

section Acts
variable {s t : State} {d : Fin 4} {k : Fin 64} {addr : Dword} {bs : List Byte}

section Load
variable {rd : BitVec 5} {size : Fin 4} {signed : Bool}

theorem State.load_done (h : s.hartRead d k addr.toNat (2 ^ size.val) = .done t bs) :
    s.pathF d k (.load rd addr size signed) = t.onHart d k fun x => (x.setReg rd (extend bs signed)).ready := by
  simp only [State.pathF, h, State.pathGo]

/-- A load from a place that is none, or is misaligned, is an access fault. -/
theorem exec_load_fault (h : s.hartRead d k addr.toNat (2 ^ size.val) = .fault) :
    exec (.pathFAccess d k (.load rd addr size signed)) s = .next (s.onHart d k fun x => Hart.trap { x with ilen := 0 } 5 addr) := by
  simp only [exec_pathFAccess, State.pathF, h, State.pathGo]

theorem State.load_miss (h : s.hartRead d k addr.toNat (2 ^ size.val) = .miss t) :
    s.pathF d k (.load rd addr size signed) = t.onHart d k fun x => { x with block := .pathF (.load rd addr size signed) } := by
  simp only [State.pathF, h, State.pathGo]

/-- A load whose bytes can be read: its register takes them, and nothing else changes. -/
theorem exec_load_done (h : s.hartRead d k addr.toNat (2 ^ size.val) = .done s bs) :
    ∃ t, exec (.pathFAccess d k (.load rd addr size signed)) s = .next t ∧
      t.hart d k = ((s.hart d k).setReg rd (extend bs signed)).ready ∧ t.hbm = s.hbm ∧ (t.die d).sram = (s.die d).sram :=
  ⟨_, (exec_pathFAccess _ _ _ _).trans (congrArg _ (State.load_done h)), State.hart_onHart _ _ _ _, rfl, State.sram_onHart _ _ _ _ _⟩

end Load

section Store
variable {size : Fin 4} {data : Dword}

theorem State.store_done (h : s.hartWrite d k addr.toNat (natBytes (2 ^ size.val) data.toNat) = .done t bs) :
    s.pathF d k (.store addr size data) = t.onHart d k Hart.ready := by
  simp only [State.pathF, h, State.pathGo]

/-- A store to such a place is one too. -/
theorem exec_store_fault (h : s.hartWrite d k addr.toNat (natBytes (2 ^ size.val) data.toNat) = .fault) :
    exec (.pathFAccess d k (.store addr size data)) s = .next (s.onHart d k fun x => Hart.trap { x with ilen := 0 } 7 addr) := by
  simp only [exec_pathFAccess, State.pathF, h, State.pathGo]

theorem State.store_miss (h : s.hartWrite d k addr.toNat (natBytes (2 ^ size.val) data.toNat) = .miss t) :
    s.pathF d k (.store addr size data) = t.onHart d k fun x => { x with block := .pathF (.store addr size data) } := by
  simp only [State.pathF, h, State.pathGo]

/-- A store whose bytes can be written, to the state `t` that leaves the hart: the hart goes on, and all else is as in `t`. -/
theorem exec_store_done (h : s.hartWrite d k addr.toNat (natBytes (2 ^ size.val) data.toNat) = .done t bs) (ht : t.hart d k = s.hart d k) :
    ∃ u, exec (.pathFAccess d k (.store addr size data)) s = .next u ∧ u.hart d k = (s.hart d k).ready ∧ u.hbm = t.hbm ∧
      (u.die d).sram = (t.die d).sram ∧ (u.die d).fbuf = (t.die d).fbuf :=
  ⟨_, (exec_pathFAccess _ _ _ _).trans (congrArg _ (State.store_done h)), by rw [State.hart_onHart, ht], rfl, State.sram_onHart _ _ _ _ _,
    State.fbuf_onHart _ _ _ _ _⟩

end Store

section Atomic
variable {op : AmoOp} {rd : BitVec 5} {double : Bool} {data : Dword}

/-- A misaligned atomic act is an address-misaligned exception. -/
theorem exec_amo_misaligned (h : addr.toNat % (if double then 8 else 4) ≠ 0) :
    exec (.pathFAccess d k (.amo op rd addr double data)) s =
      .next (s.onHart d k fun x => Hart.trap { x with ilen := 0 } (if op = .lr then 4 else 6) addr) := by
  show Host.Outcome.next (s.amo d k op rd addr double data) = _
  exact congrArg Host.Outcome.next (if_pos h)

section Local
variable {a : Nat} (ha : addr.toNat % (if double then 8 else 4) = 0) (hp : hartPlace addr.toNat (if double then 8 else 4) = .sram a)
include ha hp

/-- LR reads its word and reserves the granule. -/
theorem State.amo_lr :
    s.amo d k .lr rd addr double data = s.onHart d k fun x =>
      Hart.ready { x.setReg rd (extend (readBytes a (if double then 8 else 4) (s.die d).sram) true) with resv := some (addr.toNat / 8) } := by
  simp only [State.amo, ha, hp, State.hartRead_sram hp, State.pathGo, ne_eq, not_true, if_false, if_true]

/-- SC under its hart's reservation writes its word. -/
theorem State.amo_sc (hr : (s.hart d k).resv = some (addr.toNat / 8)) :
    s.amo d k .sc rd addr double data =
      State.onHart (s.onDie d (Die.storeSram k a (natBytes (if double then 8 else 4) data.toNat))) d k fun x =>
         Hart.ready { x.setReg rd 0 with resv := none } := by
  simp only [State.amo, ha, hp, hr, State.hartWrite_sram (length_natBytes _ _) hp, State.pathGo, ne_eq, not_true, if_false, and_self, if_true]

/-- SC without it writes nothing. -/
theorem State.amo_sc_fails (hr : (s.hart d k).resv ≠ some (addr.toNat / 8)) :
    s.amo d k .sc rd addr double data = s.onHart d k fun x => Hart.ready { x.setReg rd 1 with resv := none } := by
  simp only [State.amo, ha, hp, hr, ne_eq, not_true, if_false, and_false, reduceCtorEq]

/-- Every other act reads its word, and writes what it makes of it and of its operand. -/
theorem State.amo_rmw (h1 : op ≠ .lr) (h2 : op ≠ .sc) :
    let n := if double then 8 else 4
    let old := readBytes a n (s.die d).sram
    s.amo d k op rd addr double data =
      State.onHart (s.onDie d (Die.storeSram k a (natBytes n (amoValue op n (bytesNat old) data.toNat)))) d k fun x =>
         Hart.ready { x.setReg rd (extend old true) with resv := (s.hart d k).resv } := by
  intro n old
  cases op with
  | lr => exact absurd rfl h1
  | sc => exact absurd rfl h2
  | _ =>
    simp only [State.amo, ha, State.hartRead_sram hp, State.hartWrite_sram (length_natBytes _ _) hp, State.pathGo, State.hart_storeSram, ne_eq,
      not_true, if_false, n, old]

end Local
end Atomic
end Acts

/-- R132 to R134: an access goes by its place. -/
theorem hartAccesses : Claim.HartAccesses := by
  intro s d k rd addr size signed double data op n bs ld sto m act h trapped got
  have hn : bs.length = n := length_natBytes _ _
  refine ⟨fun a hp => ?sram, fun a hp => ?carve, fun va hp => ?virt, fun off hp => ?faults, fun w hw => ?reg, fun hp => ?nowhere,
    fun ho => ?misaligned, fun a ho hp => ?atomic, rfl⟩
  case sram =>
    obtain ⟨t, e, hh, -, hs⟩ := exec_load_done (State.hartRead_sram hp)
    obtain ⟨u, f, hk, -, hw, -⟩ := exec_store_done (State.hartWrite_sram hn hp) (State.hart_storeSram _ _ _ _ _)
    exact ⟨⟨t, e, hh, hs⟩, u, f, hw.trans (congrArg Die.sram (State.die_onDie _ _ _)), hk⟩
  case carve =>
    obtain ⟨t, e, hh, hm, -⟩ := exec_load_done (State.hartRead_carve hp)
    obtain ⟨u, f, hk, hw, -⟩ := exec_store_done (State.hartWrite_carve hn hp) (State.hart_of_dies (State.dies_hbmWrite _ _ _ _) _ _)
    exact ⟨⟨t, e, hh, hm⟩, u, f, hw, hk⟩
  case virt =>
    refine ⟨fun hm => ?_, fun hm => ?_, fun v hm => ?_, fun v hm => ?_⟩
    · obtain ⟨t, e, hh, hb, -⟩ := exec_load_done (State.hartRead_virt hp hm)
      exact ⟨t, e, hh, hb⟩
    · obtain ⟨u, f, hk, hw, -⟩ := exec_store_done (State.hartWrite_virt hn hp hm) (State.hart_of_dies (State.dies_fWrite _ _ _ _ _) _ _)
      exact ⟨u, f, hw, hk⟩
    · exact ⟨_, by rw [exec_pathFAccess, State.load_miss (State.hartRead_virt_miss hp hm)], State.hart_walk_blocks _ _ _ _ _ _⟩
    · exact ⟨_, by rw [exec_pathFAccess, State.store_miss (State.hartWrite_virt_miss hn hp hm)], State.hart_walk_blocks _ _ _ _ _ _⟩
  case faults =>
    obtain ⟨t, e, hh, -⟩ := exec_load_done (State.hartRead_faults hp)
    obtain ⟨u, f, hk, -, -, hb⟩ := exec_store_done (State.hartWrite_faults hn hp) rfl
    exact ⟨⟨t, e, hh⟩, u, f, hk, hb⟩
  case reg =>
    refine ⟨fun ho => ?_, fun ho => ?_⟩
    · obtain ⟨t, e, hh, -⟩ := exec_load_done ((State.hartRead_reg hw).trans (if_pos ho))
      exact ⟨⟨t, e, hh⟩, by rw [exec_pathFAccess, State.store_done ((State.hartWrite_reg hn hw).trans (if_pos ho))]⟩
    · exact ⟨exec_load_fault ((State.hartRead_reg hw).trans (if_neg ho)), exec_store_fault ((State.hartWrite_reg hn hw).trans (if_neg ho))⟩
  case nowhere => exact ⟨exec_load_fault (State.hartRead_nowhere hp), exec_store_fault (State.hartWrite_nowhere hn hp)⟩
  case misaligned =>
    exact ⟨(exec_amo_misaligned ho).trans (by rw [if_pos rfl]), fun hne => (exec_amo_misaligned ho).trans (by rw [if_neg hne])⟩
  case atomic =>
    refine ⟨?lr, fun hr => ?sc, fun hr => ?scFails, fun h1 h2 => ?rmw⟩
    case lr => exact ⟨_, congrArg Host.Outcome.next (State.amo_lr ho hp), State.hart_onHart _ _ _ _, State.sram_onHart _ _ _ _ _⟩
    case sc =>
      exact ⟨_, congrArg Host.Outcome.next (State.amo_sc ho hp hr), by rw [State.hart_onHart, State.hart_storeSram],
        by rw [State.sram_onHart, State.die_onDie, Die.storeSram]⟩
    case scFails => exact ⟨_, congrArg Host.Outcome.next (State.amo_sc_fails ho hp hr), State.hart_onHart _ _ _ _, State.sram_onHart _ _ _ _ _⟩
    case rmw =>
      exact ⟨_, congrArg Host.Outcome.next (State.amo_rmw ho hp h1 h2), by rw [State.hart_onHart, State.hart_storeSram],
        by rw [State.sram_onHart, State.die_onDie, Die.storeSram]⟩

/-! ### Register writes (00 R8; 04 R133, R141, R157) -/

/-- The offsets of the counters of a ring, 64 bits wide, that software writes. -/
def ringCounters : List Nat :=
  [0x0008, 0x1010, 0x1018, 0x2000, 0x2008, 0x2010, 0x2018, 0x2020, 0x3000, 0x3008, 0x3010, 0x3018, 0x4010, 0x4018, 0x4020, 0x4028, 0x5008,
    0x5010, 0x5018, 0x6008, 0x6010, 0x6018, 0x6020]

/-- The offsets of registers of a ring that are read only. -/
def ringReadOnly : List Nat := [0x0000, 0x0010, 0x0020, 0x1000, 0x4000, 0x4030, 0x5000, 0x6000]

/-- A counter of a ring reads as it was written. -/
theorem State.ringReg_put {off : Nat} (h : off ∈ ringCounters) (s : State) (r : RingAt) (v : Dword) :
    (s.onRing r (Ring.put off v)).ringReg r off = v.toNat := by
  unfold ringCounters at h
  fin_cases h <;> simp only [State.ringReg, State.ring_onRing, Ring.put]

theorem Ring.put_readOnly {off : Nat} (h : off ∈ ringReadOnly) (v : Dword) (y : Ring) : y.put off v = y := by
  unfold ringReadOnly at h
  fin_cases h <;> rfl

/-- A write of the host to an aligned offset of a ring's part of BAR 0 writes the register of that ring. -/
theorem exec_hostWrite_ring {s : State} (hs : s.recovery = false) (d r : Fin 4) {off : Nat} (h8 : off % 8 = 0) (h : off < 0x40000) (v : Dword) :
    exec (.registerWrite .host (BitVec.ofNat 64 (d.val * 2 ^ 24 + 0x100000 + r.val * 0x40000 + off)) v) s = .next (s.onRing ⟨d, r⟩ (Ring.put off v)) := by
  have hd := d.isLt
  have hr := r.isLt
  have ha : (BitVec.ofNat 64 (d.val * 2 ^ 24 + 0x100000 + r.val * 0x40000 + off)).toNat = d.val * 2 ^ 24 + (0x100000 + r.val * 0x40000 + off) := by
    rw [BitVec.toNat_ofNat]; omega
  have hdie : Fin.ofNat 4 ((d.val * 2 ^ 24 + (0x100000 + r.val * 0x40000 + off)) / 2 ^ 24) = d := by ext; simp only [Fin.ofNat]; omega
  have hoff : (d.val * 2 ^ 24 + (0x100000 + r.val * 0x40000 + off)) % 2 ^ 24 = 0x100000 + (r.val * 0x40000 + off) := by omega
  have hring : Fin.ofNat 4 ((0x100000 + (r.val * 0x40000 + off) - 0x100000) / 0x40000) = r := by ext; simp only [Fin.ofNat]; omega
  have hreg : (0x100000 + (r.val * 0x40000 + off) - 0x100000) % 0x40000 = off := by omega
  show Host.Outcome.next (s.registerWrite .host _ v) = _
  simp only [State.registerWrite, ha, hs, Bool.false_eq_true, false_or]
  rw [if_neg (by omega), hdie, hoff, State.writeDie, if_neg (by omega), if_neg (by omega), if_neg (by omega), if_pos (by omega), hring, hreg]

/-- A write of the host in recovery or to an address that is not aligned is dropped. -/
theorem exec_hostWrite_dropped {s : State} {a : Dword} (h : s.recovery = true ∨ a.toNat % 8 ≠ 0) (v : Dword) :
    exec (.registerWrite .host a v) s = .next s :=
  congrArg Host.Outcome.next (if_pos (h.imp id Or.inl))

/-- A write of a hart to an aligned address of its map writes the register there. -/
theorem exec_hartWrite {s : State} {d : Fin 4} {h : Fin 64} {a : Nat} {p : HPlace} (h8 : a % 8 = 0) (hp : hartPlace a 8 = p)
    (ha : a < 2 ^ 64) (v : Dword) :
    exec (.registerWrite (.hart d h) (.ofNat 64 a) v) s = .next (s.putHartReg d p v) := by
  have hn : (BitVec.ofNat 64 a).toNat = a := by rw [BitVec.toNat_ofNat, Nat.mod_eq_of_lt ha]
  show Host.Outcome.next (s.registerWrite (.hart d h) _ v) = _
  simp only [State.registerWrite, hn, h8, hp, ne_eq, not_true, if_false]

theorem hartPlace_latch (i : Fin 262144) : hartPlace (0x21000000 + 16 * i.val) 8 = .latch i.val 0 := by
  have h := i.isLt
  unfold hartPlace
  simp only [Bool.and_eq_true, decide_eq_true_eq]
  rw [if_neg (by omega), if_neg (by omega), if_neg (by omega), if_neg (by omega), if_pos (by omega)]
  congr 1 <;> omega

theorem hartPlace_watchControl (k : Fin 64) : hartPlace (0x10000028 + 4096 * k.val) 8 = .window k 0x28 := by
  have h := k.isLt
  unfold hartPlace
  simp only [Bool.and_eq_true, decide_eq_true_eq]
  rw [if_neg (by omega), if_pos (by omega)]
  congr 1
  · ext; simp only [Fin.ofNat]; omega
  · omega

/-- The lower word of a latch entry reads as it was written. -/
theorem Latch.words_putLo (v : Dword) (e : Latch) : (e.putLo v).words.1 = v.toNat := by
  have hv := v.isLt
  simp only [Latch.words, Latch.putLo, bits, BitVec.toNat_ofNat]
  omega

/-- R8, R133, R141, R157. -/
theorem registerWrites : Claim.RegisterWrites := by
  intro s d r v h k i a at_ host hart
  refine ⟨fun hs => ⟨fun off ho => ?counter, fun off ho => ?readOnly⟩, fun hs => exec_hostWrite_dropped hs v, ?latch, ?vigil, ?watch⟩
  case counter =>
    have hoff : ∀ off ∈ ringCounters, off % 8 = 0 ∧ off < 0x40000 := by decide
    obtain ⟨h8, hlt⟩ := hoff off ho
    exact ⟨_, exec_hostWrite_ring hs d r h8 hlt v, State.ringReg_put ho s ⟨d, r⟩ v, rfl, fun q hq => State.ring_onRing_ne hq _ _⟩
  case readOnly =>
    have hoff : ∀ off ∈ ringReadOnly, off % 8 = 0 ∧ off < 0x40000 := by decide
    obtain ⟨h8, hlt⟩ := hoff off ho
    exact (exec_hostWrite_ring hs d r h8 hlt v).trans (by rw [State.onRing_self (Ring.put_readOnly ho v _)])
  case latch =>
    refine ⟨_, exec_hartWrite (by omega) (hartPlace_latch i) (by omega) v, ?_⟩
    simp only [State.putHartReg, State.die_onDie, Die.putLatch, tabGet, tabFind_tabPut, Option.getD_some]
    exact Latch.words_putLo v _
  case vigil =>
    refine ⟨_, exec_hartWrite (p := .dieRegs 0) (by decide) (by decide) (by decide) v, ?_⟩
    simp only [State.putHartReg, State.die_onDie]
    rfl
  case watch =>
    refine ⟨_, exec_hartWrite (by omega) (hartPlace_watchControl k) (by omega) v, ?_⟩
    simp only [State.putHartReg, State.hart_onHart]
    exact ⟨rfl, rfl, rfl⟩

/-- Settles O49: watches, timers and restarts, accesses by their place, the trap's registers, and register writes, each by its own claim. -/
theorem hartBehaviour : Obligations.HartBehaviour := ⟨hartEvents, hartAccesses, illegalInstructionsTrap, registerWrites⟩

end Sys2Proof.Machine

/-! PROOFS. Steps: which cue of the agenda is next, and the instruction that each kind of cue comes to (01 R36, 04 R132, 08 R285; log 1). -/

namespace Sys2Proof.Machine

/-! ### Which cue is next (01 R36; log 1) -/

theorem State.nextCue_nil {s : State} (h : s.agenda = []) : s.nextCue = none := by
  simp only [State.nextCue, h, List.takeWhile_nil, List.head?_nil]

theorem State.nextCue_singleton {s : State} {c : Cue} (h : s.agenda = [c]) : s.nextCue = some c := by
  by_cases hc : c = .tick
  · simp only [State.nextCue, h, hc, ne_eq, not_true, decide_false, List.takeWhile_cons, Bool.false_eq_true, if_false, List.head?_cons]
  · simp only [State.nextCue, h, hc, ne_eq, not_false_eq_true, decide_true, List.takeWhile_cons, List.takeWhile_nil, if_true]
    rw [Option.some_inj, List.find?_cons]
    split <;> rfl

/-- The cues that come before the fc passes. -/
def State.dueCues (s : State) : List Cue := s.agenda.takeWhile fun c => decide (c ≠ .tick)

theorem State.dueCues_sublist (s : State) : s.dueCues.Sublist s.agenda := List.takeWhile_sublist _

/-- No other due cue precedes it. -/
def State.isFirst (s : State) (c : Cue) : Bool := !s.dueCues.any fun y => decide (y ≠ c) && s.precedes y c

theorem State.isFirst_iff {s : State} {c : Cue} : s.isFirst c = true ↔ ∀ y ∈ s.dueCues, y ≠ c → s.precedes y c = false := by
  simp only [State.isFirst, Bool.not_eq_true', List.any_eq_false, Bool.and_eq_true, decide_eq_true_eq, not_and, Bool.not_eq_true]

/-- The next cue is the head of the agenda when the fc passes now, or the first due cue that none precedes, or, with none such, the first due one. -/
theorem State.nextCue_cases {s : State} {c : Cue} (h : s.nextCue = some c) :
    (s.dueCues = [] ∧ s.agenda.head? = some c) ∨ s.dueCues.find? s.isFirst = some c ∨
      (s.dueCues.find? s.isFirst = none ∧ s.dueCues.head? = some c) := by
  unfold State.nextCue at h
  split at h
  next hnil => exact .inl ⟨hnil, h⟩
  next x xs hcons =>
    have hd : s.dueCues = x :: xs := hcons
    rw [← hd] at h
    cases hf : s.dueCues.find? s.isFirst with
    | none =>
      refine .inr (.inr ⟨rfl, ?_⟩)
      replace h : some ((s.dueCues.find? s.isFirst).getD x) = some c := h
      rw [hf] at h
      rw [hd]
      exact h
    | some z =>
      refine .inr (.inl ?_)
      replace h : some ((s.dueCues.find? s.isFirst).getD x) = some c := h
      rw [hf] at h
      exact h

theorem State.nextCue_mem {s : State} {c : Cue} (h : s.nextCue = some c) : c ∈ s.agenda := by
  rcases State.nextCue_cases h with ⟨-, hd⟩ | hf | ⟨-, hd⟩
  · exact List.mem_of_head? hd
  · exact s.dueCues_sublist.subset (List.mem_of_find?_eq_some hf)
  · exact s.dueCues_sublist.subset (List.mem_of_head? hd)

/-- Where some due cue is preceded by no other, the next cue is such a one. -/
theorem State.nextCue_isFirst {s : State} {c : Cue} (h : s.nextCue = some c) (hx : ∃ x ∈ s.dueCues, s.isFirst x = true) :
    s.isFirst c = true := by
  obtain ⟨x, hm, hxf⟩ := hx
  rcases State.nextCue_cases h with ⟨hnil, -⟩ | hf | ⟨hnone, -⟩
  · rw [hnil] at hm
    cases hm
  · exact List.find?_some hf
  · exact absurd hxf (List.find?_eq_none.mp hnone x hm)

theorem placedBefore_singleton {α : Type} [DecidableEq α] {x : α} {m n : Nat} (h : m < n) : placedBefore [(x, m)] [(x, n)] = true := by
  simp only [placedBefore, List.any_cons, List.any_nil, Bool.or_false, decide_true, Bool.true_and, decide_eq_true h]

theorem State.precedes_of_ringAct {s : State} {a b : Cue} {r : RingAt} {m n : Nat} (ha : s.ringAct a = [(r, m)])
    (hb : s.ringAct b = [(r, n)]) (h : m < n) : s.precedes a b = true := by
  simp only [State.precedes, ha, hb, placedBefore_singleton h, Bool.true_or]

/-- 01 R36 on a ring: an error precedes firings, these a switch and a swap, and a swap a cohort entry. -/
theorem State.precedes_on_ring (s : State) {e : ElemAt} {ical : Bool} {r : RingAt} {ep : Fin 2} {x : ErrSite} {k : BitVec 12}
    (he : e.at_.ring = r) (hx : errRing x = some r) :
    s.precedes (.event r ep (.uncorrectableError x)) (.pick e ical) = true ∧
      s.precedes (.pick e ical) (.event r ep .intercalarySwitch) = true ∧ s.precedes (.pick e ical) (.event r ep .stripeSwap) = true ∧
      s.precedes (.event r ep .stripeSwap) (.event r ep (.cohortEntry r k)) = true := by
  have herr : s.ringAct (.event r ep (.uncorrectableError x)) = [(r, 0)] := by
    simp only [State.ringAct, State.cancels, List.flatMap_nil, List.nil_append, hx, Option.map_some, Option.toList_some]
  have hpick : s.ringAct (.pick e ical) = [(r, 1)] := by rw [← he]; rfl
  have hswitch : s.ringAct (.event r ep .intercalarySwitch) = [(r, 2)] := rfl
  have hswap : s.ringAct (.event r ep .stripeSwap) = [(r, 4)] := rfl
  have hcohort : s.ringAct (.event r ep (.cohortEntry r k)) = [(r, 5)] := rfl
  exact ⟨State.precedes_of_ringAct herr hpick (by decide), State.precedes_of_ringAct hpick hswitch (by decide),
    State.precedes_of_ringAct hpick hswap (by decide), State.precedes_of_ringAct hswap hcohort (by decide)⟩

/-! ### What a step does with its cue -/

/-- The state from which a cue is fetched: the agenda without it. -/
def State.spend (s : State) (c : Cue) : State := { s with agenda := s.agenda.erase c }

theorem step_of_run {s v : State} {c : Cue} {i : Instr} (h : s.nextCue = some c) (hf : (s.spend c).fetch c = .run v i) :
    step s = exec i v := by
  unfold step
  rw [h]
  show (match (s.spend c).fetch c with | .run s i => exec i s | .idle s => .next s) = _
  rw [hf]

theorem step_of_idle {s v : State} {c : Cue} (h : s.nextCue = some c) (hf : (s.spend c).fetch c = .idle v) : step s = .next v := by
  unfold step
  rw [h]
  show (match (s.spend c).fetch c with | .run s i => exec i s | .idle s => .next s) = _
  rw [hf]

theorem step_empty {s : State} (h : s.agenda = []) : step s = .next s.tick := by
  unfold step
  rw [State.nextCue_nil h]

/-! #### Pickers (08 R285) -/

theorem State.slotInstr_of_decode {s : State} {e : ElemAt} {ical : Bool} {n : Fin 16} {i : Instr}
    (h : decode (if 14 ≤ e.slot.val then .j else .v) (.word (((s.elem e).plane ical).iw[n])) = .ok i) : s.slotInstr e ical n = some i := by
  unfold State.slotInstr
  split at h
  next hj => rw [if_pos hj, show decodeJ _ = .ok i from h]; rfl
  next hv => rw [if_neg hv, show decodeV _ = .ok i from h]; rfl

/-- A picker with a slot to fire runs the instruction of the slot. -/
theorem State.fetchPick_run {s : State} {e : ElemAt} {ical aged : Bool} {n : Fin 16} {i : Instr} (hlive : s.live e ical = true)
    (hlast : (s.elem e).lastPick ≠ s.fc + 1) (hslot : e.slot.val < 10 ∨ 14 ≤ e.slot.val) (hstore : s.dueStore e ical = none)
    (hrefused : s.refused e ical = 0) (hpick : s.pickSlot e ical = some (n, aged)) (hi : s.slotInstr e ical n = some i) :
    s.fetchPick e ical = .run (State.focusPick (if s.allocWaits e ical n i then s else s.agePick e ical n aged) e ical n) i := by
  have hno : ¬((!s.live e ical) = true ∨ (s.elem e).lastPick = s.fc + 1 ∨ (10 ≤ e.slot.val ∧ e.slot.val < 14) ∨
      (s.dueStore e ical).isSome = true) := by
    simp only [hlive, hlast, hstore, Bool.not_true, Bool.false_eq_true, Option.isSome_none, or_false, false_or]
    omega
  unfold State.fetchPick
  rw [if_neg hno]
  simp only [hrefused, hpick, hi, if_true]

theorem step_pick {s : State} {e : ElemAt} {ical aged : Bool} {n : Fin 16} {i : Instr} (hc : s.nextCue = some (.pick e ical))
    (hlive : s.live e ical = true) (hlast : (s.elem e).lastPick ≠ s.fc + 1) (hslot : e.slot.val < 10 ∨ 14 ≤ e.slot.val)
    (hstore : s.dueStore e ical = none) (hrefused : s.refused e ical = 0)
    (hpick : (s.spend (.pick e ical)).pickSlot e ical = some (n, aged))
    (hi : decode (if 14 ≤ e.slot.val then .j else .v) (.word (((s.elem e).plane ical).iw[n])) = .ok i) :
    let v := s.spend (.pick e ical)
    (v.allocWaits e ical n i = false → step s = exec i ((v.agePick e ical n aged).focusPick e ical n)) ∧
      (v.allocWaits e ical n i = true → step s = exec i (v.focusPick e ical n)) := by
  intro v
  have h := step_of_run hc (State.fetchPick_run hlive hlast hslot hstore hrefused hpick (State.slotInstr_of_decode hi))
  exact ⟨fun ha => by rw [h, if_neg (by rw [ha]; decide)], fun ha => by rw [h, if_pos ha]⟩

/-! #### Harts (04 R132, R78) -/

/-- A hart of a running die has the fetch in focus and runs a program of its own. -/
def State.hartFetch (s : State) (d : Fin 4) (h : Fin 64) : State :=
  { s.spend (.hart d h) with focus := { s.focus with ring := ⟨d, 0⟩, hart := h } }.onHart d h fun y => { y with own := true }

section HartFetch
variable {s : State} {d : Fin 4} {h : Fin 64}

theorem State.fetchHart_on (hg : (s.die d).gated = false) (hr : s.recovery = false) :
    (s.spend (.hart d h)).fetchHart d h =
      match ((s.hartFetch d h).hart d h).block with
      | .pathF a => .run (s.hartFetch d h) (.pathFAccess d h a)
      | _ =>
        match (s.hartFetch d h).hartRead d h ((s.hartFetch d h).hart d h).pc.toNat 2 with
        | .fault => .idle ((s.hartFetch d h).onHart d h fun y => y.trap 1 y.pc)
        | .miss s => .idle s
        | .done s bs => s.issueHart d h (bytesNat bs) := by
  have hno : ¬((({ s.spend (.hart d h) with focus := { s.focus with ring := ⟨d, 0⟩, hart := h } } : State).die d).gated = true ∨
      s.recovery = true) := by
    show ¬((s.die d).gated = true ∨ s.recovery = true)
    rw [hr, hg]
    decide
  exact if_neg hno

theorem State.fetchHart_pathF (hg : (s.die d).gated = false) (hr : s.recovery = false) {a : FAccess}
    (hb : ((s.hartFetch d h).hart d h).block = .pathF a) :
    (s.spend (.hart d h)).fetchHart d h = .run (s.hartFetch d h) (.pathFAccess d h a) := by
  rw [State.fetchHart_on hg hr, hb]

theorem State.fetchHart_issue (hg : (s.die d).gated = false) (hr : s.recovery = false) {lo : List Byte}
    (hb : ∀ a, ((s.hartFetch d h).hart d h).block ≠ .pathF a)
    (hlo : (s.hartFetch d h).hartRead d h ((s.hartFetch d h).hart d h).pc.toNat 2 = .done (s.hartFetch d h) lo) :
    (s.spend (.hart d h)).fetchHart d h = (s.hartFetch d h).issueHart d h (bytesNat lo) := by
  rw [State.fetchHart_on hg hr]
  split
  next a ha => exact absurd ha (hb a)
  next => rw [hlo]

end HartFetch

/-- A base instruction makes its access or completes; any other word is an illegal instruction (log 12). -/
theorem step_of_runRv {s v : State} {d : Fin 4} {h : Fin 64} {w len : Nat} {b : Option Rv} (hc : s.nextCue = some (.hart d h))
    (hf : (s.spend (.hart d h)).fetch (.hart d h) = v.runRv d h w len b) :
    (b = none → step s = exec (.illegalInstruction (.ofNat 32 w)) v) ∧
      ∀ k, b = some k →
        (∀ a, k.access (v.hart d h) = some a → step s = exec (.pathFAccess d h a) (v.onHart d h fun y => { y with ilen := .ofNat 3 len })) ∧
        (k.access (v.hart d h) = none → step s = .next (v.onHart d h (Hart.rv h.val k w len))) := by
  refine ⟨fun hb => step_of_run hc (by rw [hf, hb]; rfl), fun k hb => ⟨fun a ha => step_of_run hc ?_, fun ha => step_of_idle hc ?_⟩⟩
  · rw [hf, hb]
    simp only [State.runRv, ha]
  · rw [hf, hb]
    simp only [State.runRv, ha]

theorem State.issueHart_compressed (s : State) (d : Fin 4) (h : Fin 64) {lo : Nat} (hlo : lo % 4 ≠ 3) :
    s.issueHart d h lo = s.runRv d h lo 2 (decodeRvc lo) := by
  unfold State.issueHart
  exact if_pos hlo

theorem State.issueHart_word {s : State} {d : Fin 4} {h : Fin 64} {lo : Nat} {hi : List Byte} (hlo : lo % 4 = 3)
    (hr : s.hartRead d h ((s.hart d h).pc + 2).toNat 2 = .done s hi) :
    s.issueHart d h lo =
      match decodeFe (.ofNat 32 (lo + bytesNat hi * 2 ^ 16)) with
      | .ok i => .run s i
      | .error _ => s.runRv d h (lo + bytesNat hi * 2 ^ 16) 4 (decodeRv (lo + bytesNat hi * 2 ^ 16)) := by
  unfold State.issueHart
  rw [if_neg (by simp [hlo])]
  simp only [hr] <;> rfl

/-! #### Messages (12 R400, 13 R435, 14 R443, 05 R215) -/

theorem Msg.instr_of_decode {m : Msg} {i : Instr} (h : decode .message (.msg m.cls m.mop m.p) = .ok i) : m.instr = some i := by
  simp only [decode] at h
  unfold Msg.instr
  split at h
  next j hj => rw [hj, Except.ok.inj h]
  next => cases h

theorem State.runMsg_of_decode {s : State} {m : Msg} {i : Instr} (h : decode .message (.msg m.cls m.mop m.p) = .ok i) :
    s.runMsg m = .run { s with focus := { s.focus with msg := m } } i := by
  unfold State.runMsg
  rw [Msg.instr_of_decode h]

/-- What stands when an engine of a ring runs the head of a queue that `take` shortens. -/
theorem step_ringMessage {s : State} {r : RingAt} {cls : Fin 16} {m : Msg} {i : Instr} (take : Ring → Ring)
    (hc : s.nextCue = some (.message r cls)) (hi : decode .message (.msg m.cls m.mop m.p) = .ok i)
    (hf : (s.spend (.message r cls)).fetch (.message r cls) =
      State.runMsg (State.onRing { s.spend (.message r cls) with focus := { s.focus with ring := r } } r take) m) :
    ∃ v, step s = exec i v ∧ v.focus.msg = m ∧ v.focus.ring = r ∧ v.ring r = take (s.ring r) ∧ v.dies = s.dies ∧ v.elems = s.elems := by
  rw [State.runMsg_of_decode hi] at hf
  exact ⟨_, step_of_run hc hf, rfl, rfl, State.ring_onRing _ r take, rfl, rfl⟩

/-- An M-element takes the head of a plane's message queue, which leaves `q` in it. -/
def State.mxTake (s : State) (e : ElemAt) (ical : Bool) (q : List Msg) : State :=
  let y := { s.elem e with lastMsg := s.fc + 1 }
  State.setElem { s.spend (.mxMessage e ical) with focus := { s.focus with ring := e.at_.ring, elem := e, ical := ical } } e
    (if ical then { y with msgqI := q } else { y with msgq := q })

/-- An M-element runs the head of a plane's message queue (11 R372). -/
theorem step_mxMessage {s : State} {e : ElemAt} {ical : Bool} {m : Msg} {q : List Msg} {i : Instr}
    (hc : s.nextCue = some (.mxMessage e ical)) (hq : (if ical then (s.elem e).msgqI else (s.elem e).msgq) = m :: q)
    (hmov : s.moving e.at_ ical = true) (hlast : (s.elem e).lastMsg ≠ s.fc + 1) (hi : decode .message (.msg m.cls m.mop m.p) = .ok i) :
    ∃ v, step s = exec i v ∧ v.focus.msg = m ∧ v.focus.elem = e ∧ v.focus.ical = ical ∧ v.dies = s.dies ∧ v.rings = s.rings := by
  have hno : ¬((!s.moving e.at_ ical) = true ∨ (s.elem e).lastMsg = s.fc + 1) := by simp [hmov, hlast]
  have hf : (s.spend (.mxMessage e ical)).fetch (.mxMessage e ical) = State.runMsg (s.mxTake e ical q) m := by
    refine (if_neg hno).trans ?_
    show (match (if ical = true then (s.elem e).msgqI else (s.elem e).msgq) with | [] => _ | m :: q => _) = _
    rw [hq] <;> rfl
  exact ⟨_, step_of_run hc (hf.trans (State.runMsg_of_decode hi)), rfl, rfl, rfl, rfl, rfl⟩

/-! #### Events -/

theorem isEvent_of_page {i : Instr} (hp : i.page = .event) (hi : ∀ w, i ≠ .illegalInstruction w) : isEvent i = true := by
  unfold isEvent
  split
  next w => exact absurd rfl (hi w)
  next => rw [hp]; rfl

theorem step_event {s : State} {r : RingAt} {ep : Fin 2} {i : Instr} (hc : s.nextCue = some (.event r ep i)) (hp : i.page = .event)
    (hi : ∀ w, i ≠ .illegalInstruction w) : step s = exec i { s.spend (.event r ep i) with focus := { s.focus with ring := r, ep := ep } } :=
  step_of_run hc (if_pos (isEvent_of_page hp hi))

theorem step_packet {s v : State} {q : BitVec 20} {i : Instr} (hc : s.nextCue = some (.packet q))
    (ht : (s.spend (.packet q)).takePacket q = .packet v i) : step s = exec i { v with focus := { v.focus with queue := q } } := by
  refine step_of_run hc ?_
  unfold State.fetch
  simp only [ht]

/-- Settles O55: the order of the cues, then the instruction that each kind of cue comes to. -/
theorem stepRunsDecoded : Obligations.StepRunsDecoded := by
  intro s i u
  refine ⟨step_empty, fun c => State.nextCue_singleton, fun c hc => ⟨State.nextCue_mem hc, ?order⟩,
    fun e ical r ep x k he hx => s.precedes_on_ring he hx, ?pick, ?hart, fun q v hc ht => step_packet hc ht, ?proc, ?stream, ?sparse,
    fun e ical m q hc hq hmov hlast hi => step_mxMessage hc hq hmov hlast hi, fun r ep hc hp hi => step_event hc hp hi⟩
  case order =>
    intro ⟨x, hx, hfirst⟩
    exact State.isFirst_iff.mp (State.nextCue_isFirst hc ⟨x, hx, State.isFirst_iff.mpr hfirst⟩)
  case pick =>
    intro e ical n aged hc hlive hlast hslot hstore hrefused hpick hi
    exact step_pick hc hlive hlast hslot hstore hrefused hpick hi
  case hart =>
    intro d h v x base hc hg hr
    refine ⟨fun a ha => step_of_run hc (State.fetchHart_pathF hg hr ha), fun lo hb hlo => ?_⟩
    have hissue := State.fetchHart_issue hg hr hb hlo
    refine ⟨fun h3 => step_of_runRv hc (hissue.trans (State.issueHart_compressed _ d h h3)), fun hi h3 hhi => ?_⟩
    have hword := hissue.trans (State.issueHart_word h3 hhi)
    refine ⟨fun hdec => step_of_run hc (hword.trans ?_), fun hdec => step_of_runRv hc (hword.trans ?_)⟩
    · rw [show decodeFe _ = .ok i from hdec] <;> rfl
    · rw [show decodeFe _ = .error .notCustom from hdec] <;> rfl
  case proc =>
    intro r m q hc hq hi
    obtain ⟨v, hs, hm, hr, hring, hrest⟩ := step_ringMessage (fun z => { z with procIn := q }) hc hi
      (by show (match (s.ring r).procIn with | [] => _ | m :: q => _) = _; rw [hq] <;> rfl)
    exact ⟨v, hs, hm, hr, by rw [hring], hrest⟩
  case stream =>
    intro r m q hc hq hi
    obtain ⟨v, hs, hm, hr, hring, hrest⟩ := step_ringMessage (fun z => { z with streamIn := q }) hc hi
      (by show (match (s.ring r).streamIn with | [] => _ | m :: q => _) = _; rw [hq] <;> rfl)
    exact ⟨v, hs, hm, hr, by rw [hring], hrest⟩
  case sparse =>
    intro r m q hc hq hi
    obtain ⟨v, hs, hm, hr, hring, hrest⟩ := step_ringMessage (fun z => { z with sparseIn := q }) hc hi
      (by show (match (s.ring r).sparseIn with | [] => _ | m :: q => _) = _; rw [hq] <;> rfl)
    exact ⟨v, hs, hm, hr, by rw [hring], hrest⟩

end Sys2Proof.Machine

/-! PROOFS. Faults taken in a row (01 R39-R43): what each leaves of the dies and rings, and that every record stays. -/

namespace Sys2Proof.Machine

/-! ### Records that wait -/

/-- A record that waits stays when another joins; only its number may change (01 R41). -/
theorem Die.addFault_mem {x : Die} {f : FbEntry} (h : f ∈ x.faultWait) (e : FbEntry) :
    ∃ k, { f with rec_ := { f.rec_ with seq := k } } ∈ (x.addFault e).faultWait := by
  by_cases hn : (f.rec_.time == e.rec_.time) = true
  · have hg : f ∈ x.faultWait.filter fun g => g.rec_.time == e.rec_.time := by simpa [h] using hn
    obtain ⟨k, hk⟩ := numberFrom_mem ((mem_insertBy (fun a b : FbEntry => decide (a.rec_.place < b.rec_.place)) e f _).2 (.inr hg))
    exact ⟨k, List.mem_append_right _ hk⟩
  · exact ⟨f.rec_.seq, List.mem_append_left _ (List.mem_filter.2 ⟨h, by simpa using hn⟩)⟩

theorem Die.addFault_length (x : Die) (e : FbEntry) : (x.addFault e).faultWait.length = x.faultWait.length + 1 := by
  obtain ⟨k, -, -, -, hlen, -⟩ := Die.addFault_waits x e e.rec_.time.toNat (by simp)
  exact hlen

/-! ### A fault on a die -/

section Take
variable (s : State) (d : Fin 4) (ring : Option (Fin 4)) (queue : Option (BitVec 20 × BitVec 16)) (page : Nat) (f : Flt) (r : FRec)

/-- Every die after a fault: its own has the record, and the queues of a terminated job are stopped on each. -/
theorem State.die_takeFault (e : Fin 4) :
    let x := (s.onDie d (Die.addFault ⟨s.faultRec f r, queue, queue.isSome, true⟩)).die e
    (s.takeFault d ring queue page f r).die e = if f.disp = 1 then Die.stopJob r.pasid x else x := by
  unfold State.takeFault
  dsimp only
  split
  · rw [State.die_terminateJob]
    congr 1
    split
    · split <;> rfl
    · rfl
  · split
    · split <;> rfl
    · rfl

/-- A part of a die that neither a record nor the stop of a job touches stays under a fault. -/
theorem State.takeFault_die_keeps {α : Type} (p : Die → α) (ha : ∀ x e, p (Die.addFault e x) = p x) (hs : ∀ x j, p (Die.stopJob j x) = p x)
    (e : Fin 4) : p ((s.takeFault d ring queue page f r).die e) = p (s.die e) := by
  have h : p ((s.onDie d (Die.addFault ⟨s.faultRec f r, queue, queue.isSome, true⟩)).die e) = p (s.die e) := State.onDie_keeps p (ha _ _) e
  rw [State.die_takeFault]
  split
  · rw [hs, h]
  · exact h

/-- A fault that stops no job leaves the other dies alone. -/
theorem State.takeFault_die_ne {e : Fin 4} (he : e ≠ d) (hd : f.disp ≠ 1) : (s.takeFault d ring queue page f r).die e = s.die e := by
  rw [State.die_takeFault, if_neg hd, State.die_onDie_ne he]

/-- A part of a ring other than its holds stays under a fault. -/
theorem State.takeFault_ring_keeps {α : Type} (p : Ring → α) (h : ∀ x hs, p { x with fholds := hs } = p x) (q : RingAt) :
    p ((s.takeFault d ring queue page f r).ring q) = p (s.ring q) := by
  have hon : ∀ (t : State) (k : Fin 4) (hs : List FHold), p ((t.onRing ⟨d, k⟩ fun x => { x with fholds := x.fholds ++ hs }).ring q) = p (t.ring q) := by
    intro t k hs
    by_cases hq : q = ⟨d, k⟩
    · rw [hq, State.ring_onRing, h]
    · rw [State.ring_onRing_ne hq]
  unfold State.takeFault
  dsimp only
  split
  · rw [State.ring_of_rings (State.terminateJob_rings _ _)]
    split
    · split
      · exact hon _ _ _
      · rfl
    · rfl
  · split
    · split
      · exact hon _ _ _
      · rfl
    · rfl

@[simp] theorem State.takeFault_badGrans : (s.takeFault d ring queue page f r).badGrans = s.badGrans := by
  unfold State.takeFault; dsimp only; split <;> split <;> (try split) <;> rfl

theorem State.takeFault_rings_none : (s.takeFault d none queue page f r).rings = s.rings := by
  unfold State.takeFault; dsimp only; split <;> rfl

theorem State.takeFault_records : Records s (s.takeFault d ring queue page f r) d f.code f.aux f.disp := by
  obtain ⟨k, hw⟩ := State.takeFault_waits s d ring queue page f r
  exact ⟨_, hw, rfl, rfl, rfl⟩

end Take

/-- A record taken from a state whose die and fc are those of `s` is one more than in `s`. -/
theorem Records.of_eq {s u t : State} {d : Fin 4} {code aux disp : Nat} (h : Records u t d code aux disp) (hd : u.die d = s.die d) (hf : u.fc = s.fc) :
    Records s t d code aux disp := by
  rw [Records, hd, hf] at h
  exact h

/-- What changes after the record was taken leaves it, when the die stands as it was. -/
theorem Records.to_eq {s u t : State} {d : Fin 4} {code aux disp : Nat} (h : Records s u d code aux disp) (hd : t.die d = u.die d) :
    Records s t d code aux disp := by
  rw [Records, ← hd] at h
  exact h

theorem State.siteFault_records (s : State) (e : ElemAt) (ical : Bool) (slot : Option (Fin 16)) (ctx : BitVec 6) (iter : Option (BitVec 12)) (f : Flt) :
    Records s (s.siteFault e ical slot ctx iter f) e.at_.ring.die f.code f.aux f.disp := State.takeFault_records ..

/-! ### Faults against each that waits for a walk (03 R98, R130) -/

/-- A record with a fault's code, auxiliary word and DISP, of fc `fc`, waits on a die. -/
def Die.hasRecord (x : Die) (fc : Nat) (code disp : Nat) (aux : Dword) : Prop :=
  ∃ e ∈ x.faultWait, e.rec_.code = .ofNat 8 code ∧ e.rec_.aux = aux ∧ e.rec_.disp = .ofNat 2 disp ∧ e.rec_.time = .ofNat 64 fc

theorem Die.hasRecord_of_eq {x y : Die} {fc code disp : Nat} {aux : Dword} (h : x.hasRecord fc code disp aux) (he : y.faultWait = x.faultWait) :
    y.hasRecord fc code disp aux := by
  unfold Die.hasRecord
  rw [he]
  exact h

theorem Die.hasRecord_addFault {x : Die} {fc code disp : Nat} {aux : Dword} (h : x.hasRecord fc code disp aux) (e : FbEntry) :
    (x.addFault e).hasRecord fc code disp aux := by
  obtain ⟨f, hf, hrec⟩ := h
  obtain ⟨k, hk⟩ := Die.addFault_mem hf e
  exact ⟨_, hk, hrec⟩

theorem State.takeFault_faultWait (s : State) (d : Fin 4) (ring : Option (Fin 4)) (queue : Option (BitVec 20 × BitVec 16)) (page : Nat) (f : Flt)
    (r : FRec) :
    ((s.takeFault d ring queue page f r).die d).faultWait = (Die.addFault ⟨s.faultRec f r, queue, queue.isSome, true⟩ (s.die d)).faultWait := by
  rw [State.die_takeFault, State.die_onDie]
  split <;> rfl

/-- The faults of a walk leave a record for each that waits. -/
theorem State.walkFaults_records (s : State) (d : Fin 4) (page code disp : Nat) (us : List Waiter) :
    ((s.walkFaults d page code disp us).die d).faultWait.length = (s.die d).faultWait.length + us.length ∧
      (∀ c p a, (s.die d).hasRecord s.fc c p a → ((s.walkFaults d page code disp us).die d).hasRecord s.fc c p a) ∧
      ∀ u ∈ us, ((s.walkFaults d page code disp us).die d).hasRecord s.fc code disp u.site.aux := by
  induction us generalizing s with
  | nil => exact ⟨rfl, fun _ _ _ h => h, by simp⟩
  | cons u us ih =>
    let t := s.takeFault d u.ring u.queue page (xltFlt code disp u) u.site
    have hfw := State.takeFault_faultWait s d u.ring u.queue page (xltFlt code disp u) u.site
    have hfc : t.fc = s.fc := State.takeFault_fc ..
    obtain ⟨hlen, hkeep, hnew⟩ := ih t
    rw [hfc] at hkeep hnew
    have hu : (t.die d).hasRecord s.fc code disp u.site.aux := by
      obtain ⟨e, hw, hcode, haux, hdisp⟩ := State.takeFault_records s d u.ring u.queue page (xltFlt code disp u) u.site
      exact ⟨e, hw.1, hcode, haux.trans (by simp [xltFlt]), hdisp, hw.2.1⟩
    refine ⟨?_, fun c p a h => hkeep _ _ _ ?_, fun v hv => ?_⟩
    · rw [show s.walkFaults d page code disp (u :: us) = t.walkFaults d page code disp us from rfl, hlen, hfw, Die.addFault_length, List.length_cons]
      omega
    · exact Die.hasRecord_of_eq (Die.hasRecord_addFault h _) hfw
    · rcases List.mem_cons.1 hv with rfl | hv
      · exact hkeep _ _ _ hu
      · exact hnew v hv

/-- What no fault touches of a die, the faults of a walk leave. -/
theorem State.walkFaults_die_keeps {α : Type} (p : Die → α) (ha : ∀ x e, p (Die.addFault e x) = p x) (hs : ∀ x j, p (Die.stopJob j x) = p x)
    (s : State) (d : Fin 4) (page code disp : Nat) (us : List Waiter) (e : Fin 4) : p ((s.walkFaults d page code disp us).die e) = p (s.die e) := by
  induction us generalizing s with
  | nil => rfl
  | cons u us ih => exact (ih _).trans (State.takeFault_die_keeps s d u.ring u.queue page _ u.site p ha hs e)

end Sys2Proof.Machine

/-! PROOFS. Translation, long waits and memory errors (01 R44; 03 R97-R99, R130; 07 R255; 16 R484). -/

namespace Sys2Proof.Machine

/-! ### The walks of a die (03 R97) -/

/-- What a walk is, but for the fc in which it took its walker. -/
def Walk.what (w : Walk) : BitVec 20 × Nat × Bool × Bool × List Waiter := (w.pasid, w.vpage, w.write, w.pri, w.waiters)

theorem Die.mem_walks_of_find {x : Die} {p : Walk → Bool} {w : Walk} (h : x.walksOut.find? p = some w) : w ∈ x.walks :=
  List.mem_of_mem_take (List.mem_of_find?_eq_some h)

section Drop
variable (s : State) (d : Fin 4) (w : Walk)

/-- A walk that ends leaves the others as they are, but for the walker that one of them takes. -/
theorem State.dropWalk_walks : ((s.dropWalk d w).die d).walks.map Walk.what = ((s.die d).walks.erase w).map Walk.what := by
  have hwhat : (fun p : Walk × Nat => Walk.what (if p.2 + 1 = walkers ∧ walkers < (s.die d).walks.length then { p.1 with since := s.fc } else p.1)) =
      Walk.what ∘ Prod.fst := by
    funext p
    dsimp only [Function.comp]
    split <;> rfl
  simp only [State.dropWalk, State.die_onDie, List.map_map]
  rw [show (Walk.what ∘ fun p : Walk × Nat => if p.2 + 1 = walkers ∧ walkers < (s.die d).walks.length then { p.1 with since := s.fc } else p.1) =
    Walk.what ∘ Prod.fst from hwhat, ← List.map_map, List.zipIdx_map_fst]

@[simp] theorem State.dropWalk_faultWait : ((s.dropWalk d w).die d).faultWait = (s.die d).faultWait := by simp [State.dropWalk]
@[simp] theorem State.dropWalk_xlts : ((s.dropWalk d w).die d).xlts = (s.die d).xlts := by simp [State.dropWalk]
@[simp] theorem State.dropWalk_rings : (s.dropWalk d w).rings = s.rings := rfl
@[simp] theorem State.dropWalk_fc : (s.dropWalk d w).fc = s.fc := rfl

@[simp] theorem State.quietFail_walks (b : Bool) : ((s.quietFail d w b).die d).walks = (s.die d).walks := by simp [State.quietFail]
@[simp] theorem State.quietFail_faultWait (b : Bool) : ((s.quietFail d w b).die d).faultWait = (s.die d).faultWait := by simp [State.quietFail]
@[simp] theorem State.quietFail_xlts (b : Bool) : ((s.quietFail d w b).die d).xlts = (s.die d).xlts := by simp [State.quietFail]
@[simp] theorem State.quietFail_rings (b : Bool) : (s.quietFail d w b).rings = s.rings := rfl
@[simp] theorem State.quietFail_fc (b : Bool) : (s.quietFail d w b).fc = s.fc := rfl

end Drop

@[simp] theorem State.walkFaults_walks (s : State) (d : Fin 4) (page code disp : Nat) (us : List Waiter) :
    ((s.walkFaults d page code disp us).die d).walks = (s.die d).walks := State.walkFaults_die_keeps Die.walks (fun _ _ => rfl) (fun _ _ => rfl) ..

@[simp] theorem State.walkFaults_xlts (s : State) (d : Fin 4) (page code disp : Nat) (us : List Waiter) :
    ((s.walkFaults d page code disp us).die d).xlts = (s.die d).xlts := State.walkFaults_die_keeps Die.xlts (fun _ _ => rfl) (fun _ _ => rfl) ..

/-- A walk that ends in a fault leaves a record for each that waits. -/
def State.Faulted (s t : State) (d : Fin 4) (w : Walk) (code disp : Nat) : Prop :=
  (t.die d).faultWait.length = (s.die d).faultWait.length + w.waiters.length ∧
    ∀ u ∈ w.waiters, ∃ e ∈ (t.die d).faultWait, e.rec_.code = .ofNat 8 code ∧ e.rec_.aux = u.site.aux ∧ e.rec_.disp = .ofNat 2 disp ∧
      e.rec_.time = .ofNat 64 s.fc

/-- A walk has ended on its die. -/
def State.Ended (s t : State) (d : Fin 4) (w : Walk) : Prop := (t.die d).walks.map Walk.what = ((s.die d).walks.erase w).map Walk.what

/-- The faults of a walk, taken where the die's records are those of `s`. -/
theorem State.walkFaults_faulted {s v : State} {d : Fin 4} (w : Walk) (page code disp : Nat) (hf : (v.die d).faultWait = (s.die d).faultWait)
    (hfc : v.fc = s.fc) : s.Faulted (v.walkFaults d page code disp w.waiters) d w code disp := by
  obtain ⟨hlen, -, hnew⟩ := State.walkFaults_records v d page code disp w.waiters
  rw [hf] at hlen
  rw [hfc] at hnew
  exact ⟨hlen, hnew⟩

theorem State.failWalk_spec {s v : State} {d : Fin 4} (w : Walk) (code disp : Nat) (hd : v.die d = s.die d) (hfc : v.fc = s.fc) :
    s.Faulted (v.failWalk d w code disp) d w code disp ∧ s.Ended (v.failWalk d w code disp) d w := by
  refine ⟨State.walkFaults_faulted w 0 code disp (by simp [hd]) (by simp [hfc]), ?_⟩
  simp only [State.Ended, State.failWalk, State.walkFaults_walks, State.quietFail_walks, State.dropWalk_walks, hd]

/-- The page is asked for where somebody waits; on a prefetch, on which nobody does, the walk just ends (03 R98, R100). -/
theorem State.askPage_spec {s : State} {d : Fin 4} {w : Walk} (hw : w ∈ (s.die d).walks) :
    s.Faulted (s.askPage d w) d w 0x90 0 ∧ ((s.askPage d w).die d).xlts = (s.die d).xlts ∧
      (w.waiters ≠ [] → { w with pri := true } ∈ ((s.askPage d w).die d).walks) ∧
      (w.waiters = [] → s.Ended (s.askPage d w) d w ∧ (s.askPage d w).rings = s.rings) := by
  unfold State.askPage
  split
  next hnone =>
    have hnil : w.waiters = [] := List.isEmpty_iff.mp hnone
    refine ⟨⟨by simp [hnil], by simp [hnil]⟩, by simp, fun h => absurd hnil h, fun _ => ⟨?_, rfl⟩⟩
    simp only [State.Ended, State.quietFail_walks, State.dropWalk_walks]
  next hsome =>
    refine ⟨State.walkFaults_faulted w _ _ _ (by simp) rfl, by simp, fun _ => ?_, fun h => absurd (List.isEmpty_iff.mpr h) hsome⟩
    rw [State.walkFaults_walks, State.die_onDie]
    exact List.mem_map.mpr ⟨w, hw, if_pos rfl⟩

/-- A die none of whose operations has a watch still to install installs none (12 R397). -/
theorem State.installDue_none {s : State} {d : Fin 4}
    (h : ∀ k : Fin 4, ∀ o ∈ (s.ring ⟨d, k⟩).arriving ++ (s.ring ⟨d, k⟩).waveBuf ++ (s.ring ⟨d, k⟩).linked, o.kind = .waita → o.watched = true) :
    s.installDue d = s := by
  have hnil : ∀ k : Fin 4, (((s.ring ⟨d, k⟩).arriving ++ (s.ring ⟨d, k⟩).waveBuf ++ (s.ring ⟨d, k⟩).linked).filter fun o =>
      o.kind == .waita && !o.watched) = [] := fun k => List.filter_eq_nil_iff.2 fun o ho => by
    have := h k o ho
    simpa using this
  have hfold : ∀ ks : List Nat, ks.foldl (fun s k =>
      (((s.ring ⟨d, Fin.ofNat 4 k⟩).arriving ++ (s.ring ⟨d, Fin.ofNat 4 k⟩).waveBuf ++ (s.ring ⟨d, Fin.ofNat 4 k⟩).linked).filter fun o =>
        o.kind == .waita && !o.watched).foldl State.watchAtCommit s) s = s := by
    intro ks
    induction ks with
    | nil => rfl
    | cons k ks ih => rw [List.foldl_cons, hnil, List.foldl_nil, ih]
  exact hfold _

/-- What an update of a ring leaves, the release of a page's holds leaves. -/
theorem State.releasePage_keeps {α : Type} (p : State → α) (h : ∀ (t : State) (r : RingAt) (f : Ring → Ring), p (t.onRing r f) = p t) (s : State)
    (d : Fin 4) (w : Walk) : p (s.releasePage d w) = p s := by
  unfold State.releasePage
  split
  · rfl
  · refine foldl_keeps p _ (fun t u => ?_) _ _
    split
    · exact h ..
    · rfl

/-- R97, R98, R130. -/
theorem translationsComplete : Claim.TranslationsComplete := by
  intro s d pasid vpage done walk page ended each
  have hdone : ∀ w, walk = some w → ∀ a, done a = .next (s.translate d w a) := fun w hw a => by
    show Host.Outcome.next (match walk with | some w => s.translate d w a | none => s) = _
    rw [hw]
  have hresp : ∀ w, page = some w → ∀ ok, exec (.priResponse d pasid vpage ok) s = .next (s.pageResponse d w ok) := fun w hw ok => by
    show Host.Outcome.next (match page with | some w => s.pageResponse d w ok | none => s) = _
    rw [hw]
  have hrel : ∀ w, (s.releasePage d w).die d = s.die d := fun w => State.releasePage_keeps (fun t => t.die d) (fun _ _ _ => rfl) s d w
  refine ⟨fun h a => ?_, fun h ok => ?_, fun w hw => ⟨?present, ?ask, ?pasid, ?error⟩, fun w hw => ⟨?again, ?fail⟩⟩
  · show Host.Outcome.next (match walk with | some w => s.translate d w a | none => s) = _
    rw [h]
  · show Host.Outcome.next (match page with | some w => s.pageResponse d w ok | none => s) = _
    rw [h]
  case present =>
    intro hpage size r wr np hok
    let t := (s.dropWalk d w).onDie d fun x => { x with xlts := x.xlts ++ [⟨w.pasid, w.vpage, hpage.toNat, size, r, wr, np⟩] }
    have hwalks : (t.die d).walks = ((s.dropWalk d w).die d).walks := by simp only [t, State.die_onDie]
    have hfw : (t.die d).faultWait = ((s.dropWalk d w).die d).faultWait := by simp only [t, State.die_onDie]
    have hxlts : (t.die d).xlts = ((s.dropWalk d w).die d).xlts ++ [⟨w.pasid, w.vpage, hpage.toNat, size, r, wr, np⟩] := by
      simp only [t, State.die_onDie]
    refine ⟨t, (hdone w hw _).trans (congrArg Host.Outcome.next (if_pos hok)), hxlts.trans (by rw [State.dropWalk_xlts]), ?_, rfl,
      hfw.trans (State.dropWalk_faultWait ..), fun h => State.installDue_none h⟩
    show (t.die d).walks.map Walk.what = _
    rw [hwalks]
    exact s.dropWalk_walks d w
  case ask =>
    intro a ha
    obtain ⟨hf, hx, hp, hn⟩ := State.askPage_spec (Die.mem_walks_of_find hw)
    refine ⟨s.askPage d w, (hdone w hw a).trans (congrArg Host.Outcome.next ?_), hf, hx, hp, hn⟩
    rcases ha with rfl | ⟨hpage, size, r, wr, np, rfl, hno⟩
    · rfl
    · exact if_neg (by rw [hno]; decide)
  case pasid => exact ⟨_, hdone w hw .badPasid, State.failWalk_spec w 0x92 1 rfl rfl⟩
  case error => exact ⟨_, hdone w hw .error, State.failWalk_spec w 0x93 1 rfl rfl⟩
  case again =>
    refine ⟨_, hresp w hw true, ?_, ((s.releasePage d w).dropWalk_faultWait d w).trans (by rw [hrel w])⟩
    refine ((s.releasePage d w).dropWalk_walks d w).trans ?_
    rw [hrel]
    rfl
  case fail =>
    exact ⟨_, hresp w hw false, State.failWalk_spec w 0x91 1 (hrel w) (State.releasePage_keeps State.fc (fun _ _ _ => rfl) s d w)⟩

/-- R99. -/
theorem invalidationsApply : Claim.InvalidationsApply := by
  intro s d pasid vpage
  refine ⟨_, rfl, fun x hx => ?_, fun x hx hno => ?_, rfl, rfl, rfl, ?_⟩
  · rw [State.die_onDie, List.mem_filter] at hx
    simpa using hx.2
  · rw [State.die_onDie, List.mem_filter]
    exact ⟨hx, by simp [hno]⟩
  · rw [State.die_onDie]

/-! ### Long waits (03 R130, 07 R255) -/

theorem State.exhaustScl_none {s : State} {r : RingAt} (h : ∀ w ∈ (s.ring r).scl.waits, s.fc < w.since + Config.longWait) : s.exhaustScl r = s := by
  have hnone : ((s.ring r).scl.waits.find? fun w => decide (w.since + Config.longWait ≤ s.fc)) = none :=
    List.find?_eq_none.mpr fun w hw => by simpa using h w hw
  simp only [State.exhaustScl, hnone]

/-- The allocation that has waited longest faults, and waits no more. -/
theorem State.exhaustScl_some {s : State} {r : RingAt} {w : SclWait}
    (h : ((s.ring r).scl.waits.find? fun w => decide (w.since + Config.longWait ≤ s.fc)) = some w) (hr : (ElemAt.ofKey w.elem).at_.ring = r) :
    Records s (s.exhaustScl r) r.die 0x25 ((s.ring r).scl.held w.ctx) 1 ∧ w ∉ ((s.exhaustScl r).ring r).scl.waits := by
  let u := s.onRing r fun x => { x with scl := (s.ring r).scl.waitOff w.elem w.ical w.who }
  have hex : s.exhaustScl r = u.siteFault (ElemAt.ofKey w.elem) w.ical w.who.slot? w.ctx (w.who.slot?.map fun _ => w.iter)
      (sclFlt 0x25 ((s.ring r).scl.held w.ctx)) := by
    simp only [State.exhaustScl, h]
    rfl
  rw [hex]
  have hrec := u.siteFault_records (ElemAt.ofKey w.elem) w.ical w.who.slot? w.ctx (w.who.slot?.map fun _ => w.iter)
      (sclFlt 0x25 ((s.ring r).scl.held w.ctx))
  rw [hr] at hrec
  refine ⟨hrec.of_eq rfl rfl, ?_⟩
  rw [State.siteFault, State.takeFault_ring_keeps (p := Ring.scl) (h := fun _ _ => rfl), State.ring_onRing]
  simp [Scl.waitOff]

/-- R130, R255. -/
theorem longWaitsEnd : Claim.LongWaitsEnd := by
  intro s d c
  refine ⟨fun w hw => ?late, fun h => ?none, fun w hw hr => ?exhausted, fun h => ?some⟩
  case late =>
    obtain ⟨⟨hlen, hrec⟩, -⟩ := State.failWalk_spec (s := s) (v := s) (d := d) w 0x95 2 rfl rfl
    refine ⟨s.failWalk d w 0x95 2, ?_, hlen, fun u hu => ?_⟩
    · show Host.Outcome.next (match (s.die d).walksOut.find? _ with | some w => s.failWalk d w 0x95 2 | none => s) = _
      rw [hw]
    · obtain ⟨e, he, hcode, haux, hdisp, -⟩ := hrec u hu
      exact ⟨e, he, hcode, haux, hdisp⟩
  case none =>
    have hnone : ((s.die d).walksOut.find? fun w => !w.pri && decide (w.since + Config.longWait ≤ s.fc)) = none :=
      List.find?_eq_none.mpr fun w hw => by
        have := h w hw
        simpa using this
    show Host.Outcome.next (match (s.die d).walksOut.find? _ with | some w => s.failWalk d w 0x95 2 | none => s) = _
    rw [hnone]
  case exhausted =>
    obtain ⟨hrec, hw'⟩ := State.exhaustScl_some hw hr
    exact ⟨_, rfl, hrec, hw'⟩
  case some => exact congrArg Host.Outcome.next (State.exhaustScl_none h)

/-! ### Memory errors (01 R44; 16 R477, R484) -/

theorem State.errAt_records (s : State) (e : ElemAt) (ical : Bool) (slot : Option (Fin 16)) (f : Flt) :
    Records s (s.errAt e ical slot f) e.at_.ring.die f.code f.aux f.disp := s.siteFault_records ..

@[simp] theorem State.portPlace_die (s : State) (e : ElemAt) (ical : Bool) : (s.portPlace e ical).at_.ring.die = e.at_.ring.die := by
  unfold State.portPlace
  cases ical
  · cases h : (s.ring e.at_.ring).regionOf e.at_.stripe.val <;> simp [h, regionStripe]
  · rfl

/-- A device fault on each of several dies records it once on each, and leaves rings and elements. -/
theorem State.scrub_records (a : Nat) (ds : List (Fin 4)) (hds : ds.Nodup) (s : State) (d : Fin 4) :
    let t := ds.foldl (fun s d => s.takeFault d none none 0 ⟨0xA1, 9, 2, a⟩ { FRec.zero with plane := 3 }) s
    (d ∈ ds → Records s t d 0xA1 a 2) ∧ (d ∉ ds → t.die d = s.die d) ∧ t.rings = s.rings ∧ t.elems = s.elems ∧ t.badGrans = s.badGrans ∧ t.fc = s.fc := by
  induction ds generalizing s with
  | nil => exact ⟨fun h => (by cases h), fun _ => rfl, rfl, rfl, rfl, rfl⟩
  | cons k ks ih =>
    obtain ⟨hk, hnd⟩ := List.nodup_cons.mp hds
    let u := s.takeFault k none none 0 ⟨0xA1, 9, 2, a⟩ { FRec.zero with plane := 3 }
    obtain ⟨hin, hout, hrings, helems, hbad, hfc⟩ := ih hnd u
    have hne : d ≠ k → u.die d = s.die d := fun h => State.takeFault_die_ne s k none none 0 ⟨0xA1, 9, 2, a⟩ _ h (by show 2 ≠ 1; decide)
    refine ⟨fun h => ?_, fun h => ?_, hrings.trans (State.takeFault_rings_none ..), helems.trans (State.takeFault_elems ..),
      hbad.trans (State.takeFault_badGrans ..), hfc.trans (State.takeFault_fc ..)⟩
    · rcases List.mem_cons.1 h with rfl | h
      · exact (State.takeFault_records s d none none 0 ⟨0xA1, 9, 2, a⟩ _).to_eq (hout hk)
      · exact (hin h).of_eq (hne fun he => hk (he ▸ h)) (State.takeFault_fc ..)
    · rw [List.mem_cons, not_or] at h
      exact (hout h.2).trans (hne h.1)

/-- R44, R477, R484. -/
theorem memoryErrors : Claim.MemoryErrors := by
  intro s e ical islot port dpa shared monitor index slot unit ws desc p u64 r d ends here written
  have herr : ∀ (x : ErrSite) (e : ElemAt) (slot : Option (Fin 16)) (f : Flt), s.uncorrectable x = s.errAt e ical slot f → f.disp = 1 →
      ends x e.at_.ring.die f.code f.aux := fun x e slot f hx hf => ⟨_, rfl, by rw [hx, ← hf]; exact s.errAt_records e ical slot f⟩
  refine ⟨fun h => ?_, fun h => ?_, fun h q => ?_, ?element, ?_, fun h => ⟨?_, ?_⟩, ?junction, ?stream, ?_, ?_, fun ctx => ?_, fun ep flit ctx hg => ?_,
    fun ep flit ctx hg => ?_, rfl, ?_, ?_⟩
  · exact herr _ e (some islot) ⟨0x47, 3, 1, dpa.toNat⟩ (if_neg (by simpa using h)) rfl
  · exact congrArg Host.Outcome.next (if_pos (by simp [h]))
  · exact congrArg Host.Outcome.next (if_pos (by simpa [written] using h))
  case element =>
    obtain ⟨t, ht, hrec⟩ := herr (.element e ical shared) e none ⟨0x08, elemClass e, 1, shared.toNat + e.slot.val * 2 ^ 32⟩ rfl rfl
    exact ⟨t, ht, by cases shared <;> exact hrec⟩
  · exact herr _ e (some islot) ⟨0x26, 1, 1, index.toNat⟩ rfl rfl
  · exact herr _ e _ ⟨0x35, 2, 1, ws.toNat⟩ (if_neg (by simpa [written, or_iff_not_imp_left] using h)) rfl
  · exact herr _ e none ⟨0x35, 2, 1, ws.toNat + e.slot.val * 2 ^ 32⟩ (if_neg (by simpa [written, or_iff_not_imp_left] using h)) rfl
  case junction =>
    obtain ⟨t, ht, hrec⟩ := herr (.junction e ical monitor slot) e none ⟨0x4B, 3, 1, slot.toNat + monitor.toNat * 2 ^ 15⟩ rfl rfl
    exact ⟨t, ht, by cases monitor <;> simpa using hrec⟩
  case stream =>
    obtain ⟨t, ht, hrec⟩ := herr (.stream e ical port unit) (if port.isNone then s.portPlace e ical else e) port ⟨0x52, 4, 1, unit.toNat⟩ rfl rfl
    refine ⟨t, ht, ?_⟩
    have hd : (if port.isNone then s.portPlace e ical else e).at_.ring.die = here := by split <;> simp [here]
    rwa [hd] at hrec
  · exact herr _ e (some islot) ⟨0x61, 5, 1, u64.toNat⟩ rfl rfl
  · exact herr _ ⟨p, 0⟩ none ⟨0x75, 6, 1, (s.ring p.ring).phys p.stripe.val⟩ rfl rfl
  · exact ⟨_, rfl, State.takeFault_records ..⟩
  · obtain ⟨g, hg⟩ := Option.isSome_iff_exists.mp (List.find?_isSome.mpr (by simpa using hg) :
      ((s.ring r).regions.find? fun g => g.ctx == ctx).isSome = true)
    refine ⟨s.siteFault ⟨regionStripe r g.page 0, 0⟩ false none ctx none ⟨0x82, 7, 1, flit.toNat⟩, congrArg Host.Outcome.next ?_,
      s.siteFault_records ..⟩
    show (match (s.ring r).regions.find? (fun g => g.ctx == ctx) with | some g => _ | none => s) = _
    rw [hg]
  · have hnone : ((s.ring r).regions.find? fun g => g.ctx == ctx) = none := List.find?_eq_none.mpr fun g h => by simpa using hg g h
    refine congrArg Host.Outcome.next ?_
    show (match (s.ring r).regions.find? (fun g => g.ctx == ctx) with | some g => _ | none => s) = _
    rw [hnone]
  · obtain ⟨hrec, -, hrings, helems, hbad, -⟩ := State.scrub_records dpa.toNat [0, 1, 2, 3] (by decide)
      { s with badGrans := (s.badGrans ++ [dpa.toNat / 64]).dedup } d
    refine ⟨_, rfl, (hrec (by fin_cases d <;> decide)).of_eq rfl rfl, ?_, hrings, helems⟩
    exact hbad ▸ List.mem_dedup.mpr (by simp)
  · exact ⟨_, rfl, by rw [State.die_onDie], rfl, rfl, rfl⟩

/-- Settles O41: translations and page responses, invalidations, long waits, and memory errors, each by its own claim. -/
theorem translationRules : Obligations.TranslationRules := ⟨translationsComplete, invalidationsApply, longWaitsEnd, memoryErrors⟩

end Sys2Proof.Machine

/-! PROOFS. A LAUNCH packet whose predecessor stands behind another entry of the same number (04 R145, 05 R198). -/

namespace Sys2Proof.Machine

/-! ### A state that refutes the readiness of a presented launch -/

namespace DupEntry

set_option maxRecDepth 100000

/-- The bytes of a procession header: one stage, one page, a window of 8, and a dwell of 16 (06 R230). -/
def header : List Byte :=
  let body := (natBytes 64 (0x50524F43 * 2 ^ 480 + 2 ^ 464 + 2 ^ 444 + 7 * 2 ^ 432 + 15 * 2 ^ 420)).drop 4
  natBytes 4 (crc32 body).toNat ++ body

/-- A resource entry of host memory from address 0, with every right and no key (03 R92). -/
def entry : Nat := 0x10000 * 2 ^ 408 + 15 * 2 ^ 377 + 2 ^ 359

/-- The launch that packet 3 of queue 1 submitted. It still runs, and a FREE entry stands before it under the same number. -/
def running : Launch := { Launch.zero with state := .running, serial := 1, qid := 1, pseq := 3 }

def queue : Queue := ⟨1, false, 0, 0, none, [⟨5, 1, true⟩], [(3, false)], []⟩

/-- Job 1 has its header at address 0 of host memory and an argument block of zeros at 0x1000, both under resource entry 1; its queue 1 has taken
packet 5. The table of launches of die 0 lists number 0 twice. -/
def state : State :=
  let s : State :=
    { State.reset with
      keys := [(0, Vector.replicate 8 1)], hbmKey := [(65, some (Vector.replicate 8 1))], hbm := writeBytes 0x1040 (natBytes 64 entry) [],
      hostMem := writeBytes 0 header [], jobs := [(1, { Job.zero with rtbase := 0x1000, rtcnt := 1 })],
      focus := { Focus.reset with queue := 1 } }
  s.onDie 0 fun d =>
    { d with queues := [(1, queue)], launches := [(0, Launch.zero), (0, running)], xlts := [⟨1, 0, 0, 2, true, true, false⟩] }

/-- Packet 5: a LAUNCH of that header and argument block, after packet 3. -/
def head : PktHead := ⟨5, true, false, 0, 0⟩
def body : LaunchBody := ⟨1, 0, 1, 0x1000, 0, 3, 0, 0, 0, 1, 0, 0⟩

def site : FRec := { FRec.zero with plane := 3, pasid := 1 }

def res : Res := resOf entry

/-- A read that gives some bytes. -/
def gives (c : CRead) (bs : List Byte) : Bool :=
  match c with
  | .bytes b => decide (b = bs)
  | _ => false

theorem eq_of_gives {c : CRead} {bs : List Byte} (h : gives c bs = true) : c = .bytes bs := by
  cases c with
  | bytes b => rw [of_decide_eq_true (show decide (b = bs) = true from h)]
  | wait s => cases h
  | addr va => cases h
  | noKey => cases h

theorem reads_header : state.cRead 0 1 res 0 64 none (some (1, 5)) site = .bytes header := eq_of_gives (by decide +kernel)

theorem reads_arguments : state.cRead 0 1 res 0x1000 64 none (some (1, 5)) site = .bytes (List.replicate 64 0) := eq_of_gives (by decide +kernel)

theorem image_entry : imageRes (state.resource 1 none 1) = some res := by decide +kernel

theorem argument_entry : argsRes (state.resource 1 none 1) 0x1000 = some res := by decide +kernel

theorem header_good :
    let g := procHead header
    g.good = true ∧ g.nativegen = 0 ∧ g.pages = 1 := by decide +kernel

theorem image_fits : body.ioff.toNat + 64 + 3072 * (procHead header).stages ≤ res.extent := by decide +kernel

theorem no_chain : ((bytesWords 16 (List.replicate 64 0)).getD 14 0).toNat = 0 := by decide +kernel

theorem first_free : lowest (fun e => (tabGet Launch.zero e (state.die 0).launches).state = .free) 4096 = some 0 := by decide +kernel

/-- The entry that the packet takes waits: its predecessor, looked up by its number, is the entry itself. -/
theorem entry_waits : (match exec (.pktLaunch head body) state with | .next t => decide ((t.launch 0).state = .wait) | _ => false) = true := by
  decide +kernel

/-- Before the packet the predecessor's number names a FREE entry, so that it counts as met. -/
theorem deps_met :
    ((depsOf body).filterMap fun p => ((state.die 0).launchOf 1 p.1).map fun e => (⟨e.1, e.2.serial, p.2⟩ : Dep)).all (state.die 0).depMet = true ∧
      ((depsOf body).any fun p => tabFind p.1.toNat queue.past == some true) = false ∧ ((state.die 0).phase 1).pend = [] ∧
      ((depsOf body).all fun p => queue.named 5 p.1) = true := by
  decide +kernel

end DupEntry

open DupEntry in
/-- Where two entries of the dependence table bear one number, the launch is not READY though its predecessor counted as met. -/
theorem not_launchPackets : ¬Claim.LaunchPackets := by
  intro h
  obtain ⟨hmet, hvoid, hpend, hnamed⟩ := deps_met
  obtain ⟨hgood, hgen, hpages⟩ := header_good
  obtain ⟨-, -, -, htaken⟩ := (h state head body queue rfl).2 (List.all_eq_true.mp hnamed)
  have hchain : (0 : Fin 4).val + ((bytesWords 16 (List.replicate 64 0)).getD 14 0).toNat + 1 ≤ 4 := by rw [no_chain]; decide
  obtain ⟨t, ht, hstate, -⟩ := htaken res res header (List.replicate 64 0) 0 image_entry argument_entry image_fits reads_header
    reads_arguments first_free hgood (by rw [hgen]; decide) (by rw [hgen]; decide) hpages.ge (hpages.le.trans (by decide))
    (no_chain.trans_lt (by decide)) hchain fun hp => absurd hp (by decide)
  have hwait := entry_waits
  rw [ht] at hwait
  have hready : (t.launch 0).state = .ready := by
    refine hstate.trans ?_
    refine (if_neg ?_).trans (if_pos hpend)
    rintro (hv | hm)
    · exact absurd (hvoid.symm.trans hv) (by decide)
    · exact absurd (hmet.symm.trans hm) (by decide)
  exact absurd (hready.symm.trans (of_decide_eq_true hwait)) (by decide)

/-- Refutes O32: with two entries of one number in the dependence table, the first FREE, a LAUNCH whose predecessor is the second takes the first and
waits, where the statement says READY. -/
theorem not_packetMeanings : ¬Obligations.PacketMeanings := fun h => not_launchPackets h.2.2

end Sys2Proof.Machine

/-! PROOFS. A fault record that enters the buffer while the die's table of queues lists a number twice (04 R152). -/

namespace Sys2Proof.Machine

/-! ### A state that refutes the frame of a fault record's entry -/

namespace DupQueue

set_option maxRecDepth 100000

/-- Queue 1 of the running job 5, with a record that waits; its completion ring stands at an address that is not canonical (03 R96). -/
def live : Queue := ⟨5, false, 0, 0x8000000000000000, none, [], [], [Vector.replicate 8 0]⟩

/-- A queue of the terminated job 9 with an open packet. -/
def dead : Queue := ⟨9, false, 0, 0, none, [⟨1, 0, false⟩], [], []⟩

/-- A record of an earlier fc for queue 1. -/
def record : FbEntry := ⟨{ FRec.zero with time := 1 }, some (1, 0), true, false⟩

/-- No hart holds a queue, firmware runs on die 0, and the die's table lists number 1 twice: for the live queue, and behind it for the dead one. -/
def state : State :=
  let s : State := { State.reset with jobs := [(5, Job.zero), (9, { Job.zero with terminated := true })] }
  s.onDie 0 fun d => { d with queues := [(1, live), (1, dead)], faultWait := [record], feFwup := true }

theorem unmapped : ∀ (d : Fin 4) (h : Fin 64), (state.hart d h).mapped = false := by decide +kernel

/-- No hart serves a queue. -/
theorem serves_none (q : BitVec 20) : state.serving q = false := by
  have hserver : state.server q = none := by
    refine List.find?_eq_none.mpr fun k _ => ?_
    have h : ((state.die (homeDie q)).harts[k]).mapped = false := unmapped (homeDie q) k
    simp only [h, Bool.false_and, Bool.false_eq_true, not_false_eq_true]
  simp only [State.serving, State.served, hserver, Option.isSome_none, Bool.and_false, Bool.false_and]

theorem buffer_empty : ∀ d : Fin 4, (state.die d).fbuf = [] := by decide +kernel

/-- The failure of the dead queue's packet posts the live queue's record instead, whose address faults: another record waits. -/
theorem another_waits : (match exec .faultBufferEnter state with | .next t => (t.die 0).faultWait.isEmpty | _ => true) = false := by decide +kernel

end DupQueue

open DupQueue in
/-- Where two queues of a die bear one number, the entry of a record can leave another record waiting on the die. -/
theorem not_faultRecordsEnter : ¬Claim.FaultRecordsEnter := by
  intro h
  have hroom : 0 < 64 ∧ tabFind 0 (state.die (record.home 0)).fbuf = none ∧ ∀ j < 0, (tabFind j (state.die (record.home 0)).fbuf).isSome = true :=
    ⟨by decide, by rw [buffer_empty]; rfl, fun j hj => absurd hj (Nat.not_lt_zero j)⟩
  have hready : record.rec_.time ≠ .ofNat 64 state.fc ∧ ∃ i, i < 64 ∧ tabFind i (state.die (record.home 0)).fbuf = none ∧
      ∀ j < i, (tabFind j (state.die (record.home 0)).fbuf).isSome = true := ⟨by decide, 0, hroom⟩
  obtain ⟨t, ht, hwait, -⟩ := ((h state record [] [] 0).2 rfl (fun e he => by cases he) hready hroom).1 1 0 serves_none rfl rfl rfl
  have hother := another_waits
  rw [ht] at hother
  have hnil : (t.die 0).faultWait = [] := hwait.trans (by decide +kernel)
  exact absurd ((List.isEmpty_iff.mpr hnil).symm.trans hother) (by decide)

/-- Refutes O48: with two queues of one number on a die, the first of a running job and the second of a terminated one, the entry of a fault record
fails the packets of the first by the second's job, and the record that then waits is one more than the statement allows. -/
theorem not_recordsAndDescriptors : ¬Obligations.RecordsAndDescriptors := fun h => not_faultRecordsEnter h.2.2

end Sys2Proof.Machine

/-! PROOFS. What answers, completions and faults leave of the dies (01 R39, 04 R150-R164, 05 R217). -/

namespace Sys2Proof.Machine

/-! ### Tables -/

theorem tabFind_tabMap {α : Type} (f : Nat → α → α) (k : Nat) (t : Tab α) : tabFind k (tabMap f t) = (tabFind k t).map (f k) := by
  induction t with
  | nil => rfl
  | cons p t ih =>
    show (if p.1 = k then some (f p.1 p.2) else tabFind k (tabMap f t)) = _
    by_cases h : p.1 = k
    · simp [tabFind, h]
    · simp [tabFind, h, ih]

/-- A part of the entries that a change of each keeps is kept, entries that are not listed among them. -/
theorem tabGet_tabMap_keeps {α β : Type} (q : α → β) {f : Nat → α → α} (h : ∀ k x, q (f k x) = q x) (d : α) (k : Nat) (t : Tab α) :
    q (tabGet d k (tabMap f t)) = q (tabGet d k t) := by
  unfold tabGet
  rw [tabFind_tabMap]
  cases tabFind k t with
  | none => rfl
  | some x => exact h k x

theorem tabGet_tabPut_keeps {α β : Type} (q : α → β) (d : α) {k : Nat} {x : α} {t : Tab α} (h : q x = q (tabGet d k t)) (j : Nat) :
    q (tabGet d j (tabPut k x t)) = q (tabGet d j t) := by
  by_cases hj : j = k
  · subst hj
    rw [show tabGet d j (tabPut j x t) = x by simp [tabGet], h]
  · rw [tabGet, tabFind_tabPut_ne hj, tabGet]

/-! ### A part of every die -/

/-- What a reading of a die gives on each die. -/
def State.part {α : Type} (p : Die → α) (s : State) (d : Fin 4) : α := p (s.die d)

section Part
variable {α : Type} (p : Die → α) (s : State)

theorem State.part_of_dies {s t : State} (h : t.dies = s.dies) : t.part p = s.part p := by
  unfold State.part State.die; rw [h]

theorem State.part_onDie {f : Die → Die} (h : ∀ x, p (f x) = p x) (d : Fin 4) : (s.onDie d f).part p = s.part p :=
  funext fun e => State.onDie_keeps p (h _) e

theorem State.part_onDies {f : Die → Die} (h : ∀ x, p (f x) = p x) : State.part p { s with dies := s.dies.map f } = s.part p :=
  funext fun e => by simp [State.part, State.die, h]

theorem State.part_foldl {β : Type} (f : State → β → State) (h : ∀ t b, (f t b).part p = t.part p) (bs : List β) :
    (bs.foldl f s).part p = s.part p := foldl_keeps (State.part p) f h bs s

theorem State.part_onLaunch {l : Nat} {f : Launch → Launch}
    (h : ∀ x k, p { x with launches := tabPut k (f (tabGet Launch.zero k x.launches)) x.launches } = p x) : (s.onLaunch l f).part p = s.part p :=
  funext fun e => State.onDie_keeps p (h _ _) e

end Part

/-- A reading of a die that does not see the records that wait, a job's end, the queues, the walks, or how much a launch is owed. -/
structure Die.Aside {α : Type} (p : Die → α) : Prop where
  faults : ∀ x w n, p { x with faultWait := w, faultSeq := n } = p x
  stop : ∀ x j, p (Die.stopJob j x) = p x
  latch : ∀ x t, p { x with latch := t } = p x
  queues : ∀ x t, p { x with queues := t } = p x
  walks : ∀ x w q, p { x with walks := w, quietFails := q } = p x
  owed : ∀ x k n, p { x with launches := tabPut k { tabGet Launch.zero k x.launches with owed := n } x.launches } = p x

section Aside
variable {α : Type} {p : Die → α} (hp : Die.Aside p) (s : State)
include hp

theorem State.part_takeFault (d : Fin 4) (ring : Option (Fin 4)) (q : Option (BitVec 20 × BitVec 16)) (page : Nat) (f : Flt) (r : FRec) :
    (s.takeFault d ring q page f r).part p = s.part p :=
  funext fun e => State.takeFault_die_keeps s d ring q page f r p (fun x _ => hp.faults x _ _) hp.stop e

theorem Die.Aside.walk (x : Die) (fc : Nat) (j : BitVec 20) (v : Nat) (w : Bool) (u : Waiter) : p (x.walk fc j v w u) = p x := by
  unfold Die.walk
  split
  · exact hp.walks x _ _
  · dsimp only
    split
    · exact hp.walks x _ _
    · exact hp.walks x _ _

theorem State.part_walkFor (d : Fin 4) (j : BitVec 20) (va : Nat) (w : Bool) (ring : Option (Fin 4)) (h : Option (Fin 64))
    (q : Option (BitVec 20 × BitVec 16)) (r : FRec) (o : Option Nat) : (s.walkFor d j va w ring h q r o).part p = s.part p :=
  State.part_onDie p s (fun x => hp.walk x _ _ _ _ _) d

theorem State.part_onLatch (q : BitVec 20) (f : Latch → Latch) : (s.onLatch q f).part p = s.part p :=
  State.part_onDie p s (fun x => hp.latch x _) _

theorem State.part_onQueue (q : BitVec 20) (f : Queue → Queue) : (s.onQueue q f).part p = s.part p :=
  State.part_onDie p s (fun x => hp.queues x _) _

end Aside

/-! ### Writes to memory touch no die -/

theorem State.hbmWrite_dies (s : State) (k : Key) (a : Nat) (bs : List Byte) : (s.hbmWrite k a bs).dies = s.dies := by
  induction bs generalizing s a with
  | nil => rfl
  | cons b bs ih => exact ih _ _

theorem State.vaWrite_dies (s : State) (d : Fin 4) (j : BitVec 20) (k : Key) (va : Nat) (bs : List Byte) : (s.vaWrite d j k va bs).dies = s.dies := by
  induction bs generalizing s va with
  | nil => rfl
  | cons b bs ih =>
    refine (ih _ _).trans ?_
    cases s.locOf d j va true with
    | none => rfl
    | some l => cases l <;> rfl

theorem State.fWrite_dies (s : State) (d : Fin 4) (j : BitVec 20) (va : Nat) (bs : List Byte) : (s.fWrite d j va bs).dies = s.dies := by
  unfold State.fWrite
  split
  · exact State.vaWrite_dies ..
  · split
    · rfl
    · exact State.vaWrite_dies ..

/-! ### A packet completes -/

section Finish
variable {α : Type} {p : Die → α} (hp : Die.Aside p) (s : State)
include hp

theorem State.part_fBlock {d : Fin 4} {j : BitVec 20} {va n : Nat} {w : Bool} {h : Option (Fin 64)} {t : State} (ht : s.fBlock d j va n w h = some t) :
    t.part p = s.part p := by
  unfold State.fBlock at ht
  split at ht
  · cases ht
    unfold State.fAddr
    split
    · rfl
    · exact State.part_takeFault hp s ..
  · obtain ⟨m, -, rfl⟩ := Option.map_eq_some_iff.1 ht
    exact State.part_walkFor hp s ..

theorem State.part_postHead {q : BitVec 20} {x : Queue} {r : Vector Dword 8} {t : State} (ht : s.postHead q x r = some t) : t.part p = s.part p := by
  unfold State.postHead at ht
  dsimp only at ht
  split at ht
  · cases ht
  · split at ht
    · cases ht
      exact (State.part_onLatch hp _ _ _).trans (State.part_of_dies p (State.hbmWrite_dies ..))
    · split at ht
      · cases ht
      · cases ht
        exact (State.part_onLatch hp _ _ _).trans (State.part_of_dies p (State.fWrite_dies ..))

theorem State.part_flush (n : Nat) (q : BitVec 20) : (State.flush n s q).part p = s.part p := by
  induction n generalizing s with
  | zero => rfl
  | succ n ih =>
    rw [State.flush.eq_def]
    cases hq : s.queue q with
    | none => rfl
    | some x =>
      dsimp only
      split
      · rfl
      · split
        case _ hpost => rw [ih, State.part_onQueue hp, State.part_postHead hp s hpost]
        case _ =>
          split
          · cases hb : s.fBlock (homeDie q) _ _ 64 true none with
            | none => rfl
            | some t => exact State.part_fBlock hp s hb
          · rfl

theorem State.part_finish (q : BitVec 20) (seq : BitVec 16) (st v : Nat) (always : Bool) : (s.finish q seq st v always).part p = s.part p := by
  unfold State.finish
  split
  · rfl
  · split
    · rfl
    · dsimp only
      split
      · rw [State.postRec, State.part_flush hp, State.part_onQueue hp, State.part_onQueue hp]
      · rw [State.part_onQueue hp]

/-! ### A message is answered -/

theorem State.part_elemFault (e : ElemAt) (ical : Bool) (slot : Option (Fin 16)) (c : Nat) (ctx : BitVec 6) (i : BitVec 12) (f : Flt) :
    (s.elemFault e ical slot c ctx i f).part p = s.part p := State.part_takeFault hp s ..

theorem State.part_paid (e : ElemAt) (ical : Bool) (l : Nat) : (s.paid e ical l).part p = s.part p :=
  State.part_onLaunch p _ fun x k => hp.owed x k _

theorem State.part_arrive {e : ElemAt} {ical : Bool} {c : Fin 8} {tok : Token} {ext st : Bool} {t : State} (ht : s.arrive e ical c tok ext st = some t) :
    t.part p = s.part p := by
  unfold State.arrive at ht
  dsimp only at ht
  split at ht
  · cases ht
  · split at ht
    · cases ht; rfl
    · split at ht
      · cases ht; exact State.part_elemFault hp s ..
      · split at ht
        · cases ht
          exact State.part_foldl p _ (fun v b => v.enqueue e ical c b) (fun _ _ => rfl) _
        · split at ht
          · cases ht; rfl
          · split at ht
            · cases ht; exact State.part_elemFault hp s ..
            · cases ht; rfl

theorem State.part_tryReply {h : HeldReply} {t : State} (ht : s.tryReply h = some t) : t.part p = s.part p := by
  unfold State.tryReply at ht
  dsimp only at ht
  split at ht
  · obtain ⟨u, hu, rfl⟩ := Option.map_eq_some_iff.1 ht
    refine (State.part_paid hp _ _ _ _).trans (.trans (State.part_of_dies p ?_) (State.part_arrive hp s hu))
    unfold State.seeEos
    split <;> rfl
  · cases ht

theorem State.part_sendReply (h : HeldReply) : (s.sendReply h).part p = s.part p := by
  unfold State.sendReply
  dsimp only
  split
  · rfl
  · cases ht : s.tryReply h with
    | none => rfl
    | some t => exact State.part_tryReply hp s ht

theorem State.part_answerBy (m : Msg) (st : Nat) (b : Reg) (r : Bool) : (s.answerBy m st b r).part p = s.part p := by
  unfold State.answerBy
  split
  · exact State.part_finish hp s ..
  · dsimp only
    split
    · exact State.part_paid hp s ..
    · split
      · exact State.part_sendReply hp s _
      · split
        · exact State.part_paid hp s ..
        · exact (State.part_elemFault hp _ ..).trans (State.part_paid hp s ..)

theorem State.part_answer (m : Msg) (st a b : Nat) : (s.answer m st a b).part p = s.part p := State.part_answerBy hp s ..

theorem State.part_refuse (m : Msg) (st : Nat) : (s.refuse m st).part p = s.part p := State.part_answer hp _ ..

end Finish

end Sys2Proof.Machine

/-! PROOFS. The end of a launch: LAUNCH_COMPLETE and CANCEL_COMPLETE (01 R31-R33, R39; 05 R204). -/

namespace Sys2Proof.Machine

/-! ### Every ring in turn -/

theorem RingAt.mem_allRings (r : RingAt) : r ∈ allRings := by
  refine List.mem_map.2 ⟨r.num, List.mem_range.2 (show r.die.val * 4 + r.ring.val < 16 by omega), ?_⟩
  obtain ⟨d, k⟩ := r
  simp only [RingAt.ofNum, RingAt.num, RingAt.mk.injEq]
  exact ⟨Fin.ext (by simp only [Fin.ofNat]; omega), Fin.ext (by simp only [Fin.ofNat]; omega)⟩

/-- What holds of every ring that has been changed holds of each ring in the list after the change. -/
theorem State.onRings_mem {P : Ring → Prop} {f : RingAt → Ring → Ring} (h : ∀ r x, P (f r x)) {rs : List RingAt} {r : RingAt} (hr : r ∈ rs) (s : State) :
    P ((s.onRings rs f).ring r) := by
  have hkeep : ∀ (rs : List RingAt) (s : State), P (s.ring r) → P ((s.onRings rs f).ring r) := by
    intro rs
    induction rs with
    | nil => exact fun _ hs => hs
    | cons q qs ih =>
      intro s hs
      refine ih (s.onRing q (f q)) ?_
      by_cases hq : r = q
      · rw [hq, State.ring_onRing]; exact h _ _
      · rw [State.ring_onRing_ne hq]; exact hs
  induction rs generalizing s with
  | nil => cases hr
  | cons q qs ih =>
    by_cases hq : r = q
    · refine hkeep qs (s.onRing q (f q)) ?_
      rw [hq, State.ring_onRing]; exact h _ _
    · exact ih ((List.mem_cons.1 hr).resolve_left hq) (s.onRing q (f q))

theorem State.onRings_dies (s : State) (rs : List RingAt) (f : RingAt → Ring → Ring) : (s.onRings rs f).dies = s.dies :=
  foldl_keeps State.dies _ (by intros; rfl) _ _

theorem State.onElems_dies (s : State) (es : List ElemAt) (f : ElemAt → Elem → Elem) : (s.onElems es f).dies = s.dies :=
  foldl_keeps State.dies _ (by intros; rfl) _ _

theorem State.onElems_rings (s : State) (es : List ElemAt) (f : ElemAt → Elem → Elem) : (s.onElems es f).rings = s.rings :=
  foldl_keeps State.rings _ (by intros; rfl) _ _

/-! ### A launch that has ended -/

/-- The launch has ended: its entry is DONE or FREE, and it has no segment. -/
def Launch.over (x : Launch) : Prop := (x.state = .free ∨ x.state = .done) ∧ x.segs = []

/-- Whether the entry of a die has ended. -/
def Die.over (k : Nat) (x : Die) : Prop := (tabGet Launch.zero k x.launches).over

theorem Die.over_tabMap {f : Nat → Launch → Launch} (h : ∀ e y, (f e y).over = y.over) (k : Nat) (x : Die) :
    Die.over k { x with launches := tabMap f x.launches } = Die.over k x := tabGet_tabMap_keeps Launch.over h _ _ _

/-- Nothing that an answer, a completion or a fault does ends a launch or starts it. -/
theorem Die.over_aside (k : Nat) : Die.Aside (Die.over k) where
  faults _ _ _ := rfl
  stop x j := Die.over_tabMap (fun _ y => by split <;> rfl) k _
  latch _ _ := rfl
  queues _ _ := rfl
  walks _ _ _ := rfl
  owed x e n := tabGet_tabPut_keeps (x := { tabGet Launch.zero e x.launches with owed := n }) Launch.over _ rfl k

theorem Die.over_promote (s : State) (d : Fin 4) (k : Nat) : (s.promote d).part (Die.over k) = s.part (Die.over k) := by
  refine State.part_foldl _ _ _ (fun t e => ?_) _
  refine State.part_onLaunch (Die.over k) t fun x j => ?_
  refine tabGet_tabPut_keeps Launch.over _ ?_ k
  dsimp only
  split
  · rfl
  · split
    case _ h => simp only [Launch.over, h.1]; split <;> simp
    · split
      case _ h => simp only [Launch.over, h.1]; simp
      · rfl

theorem Die.over_freeNamed (s : State) (d : Fin 4) (k : Nat) : (s.freeNamed d).part (Die.over k) = s.part (Die.over k) := by
  refine State.part_foldl _ _ _ (fun t _ => ?_) _
  refine State.part_of_dies _ rfl |>.trans (funext fun e => State.onDie_keeps _ (Die.over_tabMap (fun e y => ?_) k _) e)
  split
  case _ h => simp [Launch.over, h.2.1]
  · rfl

theorem State.launch_over_of_part {s t : State} {l : Nat} (h : t.part (Die.over (l % 4096)) = s.part (Die.over (l % 4096))) (hs : (s.launch l).over) :
    (t.launch l).over :=
  (congrFun h (Fin.ofNat 4 (l / 4096))).mpr hs

theorem State.launch_onLaunch (s : State) (l : Nat) (f : Launch → Launch) : (s.onLaunch l f).launch l = f (s.launch l) := by
  unfold State.onLaunch State.setLaunch
  simp [State.launch, tabGet]

theorem State.raise_over (s : State) (q : BitVec 20) (k : Nat) : (s.raise q).part (Die.over k) = s.part (Die.over k) := by
  unfold State.raise
  split
  · rfl
  · exact (State.part_onDie _ _ (by intros; rfl) _).trans (State.part_onLatch (Die.over_aside k) _ _ _)

/-- The report of an end leaves the end. -/
theorem State.report_over {s : State} {l : Nat} (h : (s.launch l).over) (st : Nat) : ((s.report l st).launch l).over := by
  unfold State.report
  dsimp only
  split
  · exact h
  · split
    · refine State.launch_over_of_part (State.part_finish (Die.over_aside _) _ _ _ _ _ _) ?_
      rw [State.launch_onLaunch]
      exact ⟨.inl rfl, h.2⟩
    · refine State.launch_over_of_part ((State.raise_over _ _ _).trans (State.part_onDie _ _ (by intros; rfl) _)) ?_
      rw [State.launch_onLaunch]
      exact h

/-- A launch that ends has ended. -/
theorem State.doneLaunch_over (s : State) (l st : Nat) : ((s.doneLaunch l st).launch l).over := by
  unfold State.doneLaunch
  dsimp only
  refine State.launch_over_of_part ((Die.over_promote _ _ _).trans (Die.over_freeNamed _ _ _)) (State.report_over ?_ _)
  have hdep : ∀ (u : State) (e n : Nat) (d : Fin 4) (ok : Bool),
      State.part (Die.over (l % 4096)) (u.onDie d fun y => { y with launches := tabMap (fun _ z => z.afterDep e n ok) y.launches }) =
        u.part (Die.over (l % 4096)) := fun u e n d ok => State.part_onDie _ u (fun x => Die.over_tabMap (fun _ z => by
      unfold Launch.afterDep; split
      · split
        · rfl
        · split <;> rfl
      · rfl) _ x) d
  split
  · refine State.launch_over_of_part (hdep _ _ _ _ _) ?_
    rw [State.launch_onLaunch]
    exact ⟨.inr rfl, rfl⟩
  · refine State.launch_over_of_part ((State.part_onQueue (Die.over_aside _) _ _ _).trans (hdep _ _ _ _ _)) ?_
    rw [State.launch_onLaunch]
    exact ⟨.inr rfl, rfl⟩

/-! ### A launch leaves its regions -/

/-- No region lists the launch. -/
def State.unlisted (s : State) (l : Nat) : Prop := ∀ r, ∀ g ∈ (s.ring r).regions, l ∉ g.launches

theorem State.leaveRegions_unlisted (s : State) (l : Nat) : (s.leaveRegions l).unlisted l := by
  intro r
  refine State.onRings_mem (P := fun x => ∀ g ∈ x.regions, l ∉ g.launches) (fun _ x g hg => ?_) (RingAt.mem_allRings r) s
  obtain ⟨h, -, rfl⟩ := List.mem_map.1 hg
  split
  · simp
  · rename_i hn; simpa using hn

/-- A launch has ended and left its regions. -/
def State.ended (s : State) (l : Nat) : Prop := (s.launch l).over ∧ s.unlisted l

/-- Launches and regions stay. -/
def State.sameEnd (s t : State) : Prop := t.dies = s.dies ∧ ∀ r, (t.ring r).regions = (s.ring r).regions

theorem State.ended_of_same {s t : State} {l : Nat} (h : s.sameEnd t) (hs : s.ended l) : t.ended l := by
  refine ⟨?_, fun r => ?_⟩
  · have : t.launch l = s.launch l := by unfold State.launch State.die; rw [h.1]
    rw [this]; exact hs.1
  · rw [h.2]; exact hs.2 r

theorem State.sameEnd_trans {s t u : State} (h : s.sameEnd t) (g : t.sameEnd u) : s.sameEnd u :=
  ⟨g.1.trans h.1, fun r => (g.2 r).trans (h.2 r)⟩

/-- A part that an update leaves of its ring, it leaves of every ring. -/
theorem State.onRing_keeps {α : Type} (p : Ring → α) (s : State) (r : RingAt) {f : Ring → Ring} (h : ∀ x, p (f x) = p x) (q : RingAt) :
    p ((s.onRing r f).ring q) = p (s.ring q) := by
  by_cases hq : q = r
  · rw [hq, State.ring_onRing, h]
  · rw [State.ring_onRing_ne hq]

theorem State.releaseCtx_sameEnd (s : State) (r : RingAt) (j : BitVec 20) : s.sameEnd (s.releaseCtx r j) := by
  unfold State.releaseCtx
  dsimp only
  split
  · split
    · exact ⟨rfl, fun _ => rfl⟩
    · exact ⟨rfl, fun q => State.onRing_keeps Ring.regions _ _ (by intros; rfl) q⟩
  · exact ⟨rfl, fun _ => rfl⟩

/-- The intercalary planes of some stripes of a ring are cleared, of those that the state lists. -/
def State.clearIcalStripes (r : RingAt) (ns : List Nat) (s : State) : State :=
  ns.foldl (fun s n =>
    let p : StripeAt := ⟨r, Fin.ofNat 32 n⟩
    if (tabFind p.key s.stripes).isSome then s.onStripe p fun st => { st with ical := none, parI := false, eosSeenI := [] } else s) s

theorem State.clearIcalStripes_dies (r : RingAt) (ns : List Nat) (s : State) : (State.clearIcalStripes r ns s).dies = s.dies :=
  foldl_keeps State.dies _ (by intro t n; dsimp only; split <;> rfl) _ _

theorem State.clearIcalStripes_rings (r : RingAt) (ns : List Nat) (s : State) : (State.clearIcalStripes r ns s).rings = s.rings :=
  foldl_keeps State.rings _ (by intro t n; dsimp only; split <;> rfl) _ _

/-- The intercalary planes of a ring's elements and stripes are cleared. -/
def State.clearIcalPlanes (s : State) (r : RingAt) : State :=
  State.clearIcalStripes r (List.range 32) (s.onElems (s.ringElems r) fun e x => { x.clearIcal (State.elemDefault e).active.lfsr with owedI := 0 })

theorem State.clearIcalPlanes_sameEnd (s : State) (r : RingAt) : s.sameEnd (s.clearIcalPlanes r) :=
  ⟨(State.clearIcalStripes_dies _ _ _).trans (State.onElems_dies ..),
    fun q => congrArg Ring.regions (State.ring_of_rings ((State.clearIcalStripes_rings _ _ _).trans (State.onElems_rings ..)) q)⟩

theorem State.onRing_sameEnd (s : State) (r : RingAt) {f : Ring → Ring} (h : ∀ x, (f x).regions = x.regions) : s.sameEnd (s.onRing r f) :=
  ⟨rfl, fun q => State.onRing_keeps Ring.regions _ _ h q⟩

theorem State.clearIcal_eq (s : State) (r : RingAt) :
    s.clearIcal r = ((s.clearIcalPlanes r).onRing r fun y => { y with occupied := false, icalLaunch := none, icalLoaded := 0 }).releaseCtx r
      ((s.clearIcalPlanes r).ring r).icalPasid := rfl

theorem State.clearIcal_sameEnd (s : State) (r : RingAt) : s.sameEnd (s.clearIcal r) := by
  rw [State.clearIcal_eq]
  exact State.sameEnd_trans (s.clearIcalPlanes_sameEnd r)
    (State.sameEnd_trans (State.onRing_sameEnd _ _ (by intros; rfl)) (State.releaseCtx_sameEnd _ _ _))

theorem State.foldl_sameEnd {α : Type} {f : State → α → State} (h : ∀ (t : State) a, t.sameEnd (f t a)) (as : List α) (s : State) :
    s.sameEnd (as.foldl f s) := by
  induction as generalizing s with
  | nil => exact ⟨rfl, fun _ => rfl⟩
  | cons a as ih => exact State.sameEnd_trans (h s a) (ih _)

theorem State.doneLaunch_leaveRegions_ended (s : State) (l st : Nat) : ((s.doneLaunch l st).leaveRegions l).ended l := by
  refine ⟨?_, State.leaveRegions_unlisted _ _⟩
  have : ((s.doneLaunch l st).leaveRegions l).launch l = (s.doneLaunch l st).launch l := by
    unfold State.launch State.die; rw [State.leaveRegions, State.onRings_dies]
  rw [this]
  exact State.doneLaunch_over s l st

theorem State.endGone_ended (s : State) (l st : Nat) : (s.endGone l st).ended l := by
  unfold State.endGone
  dsimp only
  split
  · refine State.ended_of_same (State.foldl_sameEnd (fun t r => ?_) _ _) (State.doneLaunch_leaveRegions_ended _ _ _)
    split
    · exact ⟨rfl, fun _ => rfl⟩
    · exact State.clearIcal_sameEnd t r
  · exact State.ended_of_same (State.foldl_sameEnd (fun t r => State.releaseCtx_sameEnd t r _) _ _) (State.doneLaunch_leaveRegions_ended _ _ _)

theorem State.launchComplete_of_not {s : State} {l : Nat} (h : s.complete l = false) : s.launchComplete l = s := by
  simp [State.launchComplete, h]

theorem State.launchComplete_ended {s : State} {l : Nat} (h : s.complete l = true) : (s.launchComplete l).ended l := by
  rw [State.launchComplete, if_pos h]
  exact State.doneLaunch_leaveRegions_ended _ _ _

/-! ### A cancel completes -/

/-- The launch's cancel, or its removal, does nothing yet. -/
def State.cancelStays (s : State) (l : Nat) : Prop :=
  let x := s.launch l
  x.state = .free ∨ x.state = .done ∨ (x.cancelled = false ∧ x.faulted = false) ∨
    (x.ical = false ∧ ∃ g ∈ x.segs, (s.ring ⟨g.die, g.ring⟩).occupied = true) ∨ (x.faulted = true ∧ s.recordWaits x.pasid = true)

/-- The state once a cancel has taken back what the launch withdraws, and the regions of a terminated one. -/
def State.cancelTaken (s : State) (l : Nat) : State :=
  let x := s.launch l
  let u := x.segs.foldl (fun s g => s.withdraw l g) (s.cancelLaunch l)
  if x.faulted then u.removeRegions l else u

/-- Nothing holds the launch any longer, once the cancel has come to `v`. -/
def State.cancelEnds (s v : State) (l : Nat) : Prop :=
  let x := s.launch l
  (x.state ≠ .bound ∧ x.state ≠ .running) ∨
    ((v.launch l).owed = 0 ∧ v.enginesOwe l = false ∧ (x.faulted = true ∨ x.ical = true ∨ v.swappedAway l false = true))

section Cancel
variable {s : State} {l : Nat}

theorem State.cancelComplete_stays (h : s.cancelStays l) : s.cancelComplete l = s := by
  unfold State.cancelComplete
  dsimp only
  refine if_pos ?_
  rcases h with h | h | ⟨h, g⟩ | ⟨h, g, hg, ho⟩ | h
  · exact .inl h
  · exact .inr (.inl h)
  · exact .inr (.inr (.inl (by simp [State.goneLaunch, h, g])))
  · refine .inr (.inr (.inr (.inl ?_)))
    simp only [h, Bool.not_false, Bool.true_and, List.any_eq_true]
    exact ⟨g, hg, ho⟩
  · exact .inr (.inr (.inr (.inr h)))

theorem State.cancelComplete_goes (h : ¬s.cancelStays l) :
    s.cancelComplete l =
      (let x := s.launch l
       let v := s.cancelTaken l
       if !(decide (x.state = .bound) || decide (x.state = .running)) ∨ ((v.launch l).owed = 0 ∧ !v.enginesOwe l ∧ (x.faulted ∨ x.ical ∨ v.swappedAway l false))
       then v.endGone l (v.launch l).status.toNat else v) := by
  unfold State.cancelComplete State.cancelTaken
  dsimp only
  refine if_neg fun hs => h ?_
  rcases hs with hs | hs | hs | hs | hs
  · exact .inl hs
  · exact .inr (.inl hs)
  · exact .inr (.inr (.inl (by simpa [State.goneLaunch] using hs)))
  · simp only [Bool.and_eq_true, Bool.not_eq_true', List.any_eq_true] at hs
    obtain ⟨hi, g, hg, ho⟩ := hs
    exact .inr (.inr (.inr (.inl ⟨hi, g, hg, ho⟩)))
  · exact .inr (.inr (.inr (.inr hs)))

theorem State.cancelEnds_iff {v : State} :
    (!(decide ((s.launch l).state = .bound) || decide ((s.launch l).state = .running)) ∨
      ((v.launch l).owed = 0 ∧ !v.enginesOwe l ∧ ((s.launch l).faulted ∨ (s.launch l).ical ∨ v.swappedAway l false))) ↔ s.cancelEnds v l := by
  unfold State.cancelEnds
  simp only [Bool.not_eq_true', Bool.or_eq_false_iff, decide_eq_false_iff_not, ne_eq]

theorem State.cancelComplete_ends (h : ¬s.cancelStays l) (he : s.cancelEnds (s.cancelTaken l) l) : (s.cancelComplete l).ended l := by
  rw [State.cancelComplete_goes h]
  dsimp only
  rw [if_pos (State.cancelEnds_iff.2 he)]
  exact State.endGone_ended _ _ _

theorem State.cancelComplete_waits (h : ¬s.cancelStays l) (he : ¬s.cancelEnds (s.cancelTaken l) l) : s.cancelComplete l = s.cancelTaken l := by
  rw [State.cancelComplete_goes h]
  exact if_neg (State.cancelEnds_iff.not.2 he)

end Cancel

/-- A complete launch ends, and a cancelled or terminated one that nothing holds. -/
theorem launchesEnd : Claim.LaunchesEnd := by
  intro s d entry
  have hended {t : State} (h : t.ended (launchKey d entry.toNat)) :
      ((t.launch (launchKey d entry.toNat)).state = .free ∨ (t.launch (launchKey d entry.toNat)).state = .done) ∧
        (t.launch (launchKey d entry.toNat)).segs = [] ∧ t.unlisted (launchKey d entry.toNat) := ⟨h.1.1, h.1.2, h.2⟩
  exact ⟨fun h => ⟨_, rfl, hended (State.launchComplete_ended h)⟩, fun h => congrArg Host.Outcome.next (State.launchComplete_of_not h),
    fun h => congrArg Host.Outcome.next (State.cancelComplete_stays h), fun h he => ⟨_, rfl, hended (State.cancelComplete_ends h he)⟩,
    fun h he => congrArg Host.Outcome.next (State.cancelComplete_waits h he)⟩

end Sys2Proof.Machine

/-! PROOFS. What equinoxes, evictions and moves leave of the dies: the weight store and its queued writes, the last binding, and which launches are
intercalary (05 R197, R200, R211, R214). -/

namespace Sys2Proof.Machine

/-! ### The part that stays -/

/-- A die's weight store and queued writes, the fc of its last binding, and which of its launches are intercalary. -/
def Die.core (x : Die) : List Host.Cell × List WsWrite × Nat × (Nat → Bool) :=
  (x.ws, x.pwsw, x.lastBind, fun k => (tabGet Launch.zero k x.launches).ical)

theorem Die.core_launches (x : Die) {t : Tab Launch} (h : ∀ k, (tabGet Launch.zero k t).ical = (tabGet Launch.zero k x.launches).ical) :
    Die.core { x with launches := t } = Die.core x := by
  simp only [Die.core, h]

theorem Die.core_aside : Die.Aside Die.core where
  faults _ _ _ := rfl
  stop x j := Die.core_launches x fun k => tabGet_tabMap_keeps Launch.ical (by intro _ y; split <;> rfl) _ k _
  latch _ _ := rfl
  queues _ _ := rfl
  walks _ _ _ := rfl
  owed x e n := Die.core_launches x fun k => tabGet_tabPut_keeps (x := { tabGet Launch.zero e x.launches with owed := n }) Launch.ical _ rfl k

/-- The part of every die that an equinox leaves. -/
abbrev State.cores (s : State) : Fin 4 → List Host.Cell × List WsWrite × Nat × (Nat → Bool) := s.part Die.core

theorem State.cores_of_dies {s t : State} (h : t.dies = s.dies) : t.cores = s.cores := State.part_of_dies _ h

theorem State.cores_onLaunch (s : State) (l : Nat) {f : Launch → Launch} (h : ∀ x, (f x).ical = x.ical) : (s.onLaunch l f).cores = s.cores :=
  State.part_onLaunch _ s fun x _ => Die.core_launches x fun j => tabGet_tabPut_keeps Launch.ical _ (h _) j

theorem State.cores_foldl {β : Type} {f : State → β → State} (h : ∀ (t : State) b, (f t b).cores = t.cores) (bs : List β) (s : State) :
    (bs.foldl f s).cores = s.cores := State.part_foldl _ _ _ h _

theorem State.cores_answer (s : State) (m : Msg) (st a b : Nat) : (s.answer m st a b).cores = s.cores := State.part_answer Die.core_aside ..

theorem State.cores_refuse (s : State) (m : Msg) (st : Nat) : (s.refuse m st).cores = s.cores := State.part_refuse Die.core_aside ..

theorem State.cores_promote (s : State) (d : Fin 4) : (s.promote d).cores = s.cores := by
  refine State.cores_foldl (fun t e => ?_) _ _
  refine State.cores_onLaunch t _ fun x => ?_
  dsimp only
  split
  · rfl
  · split
    · rfl
    · split <;> rfl

/-! ### Regions -/

theorem State.emptyStripe_dies (s : State) (p : StripeAt) : (s.emptyStripe p).dies = s.dies := State.onElems_dies ..

theorem State.emptyStripes_dies (ps : List StripeAt) (s : State) : (ps.foldl State.emptyStripe s).dies = s.dies :=
  foldl_keeps State.dies _ State.emptyStripe_dies _ _

theorem State.cores_prswPass (s : State) (j : BitVec 20) (k : Nat × Nat) : (s.prswPass j k).cores = s.cores := by
  unfold State.prswPass
  split
  · rfl
  · exact State.cores_foldl (fun t p => State.cores_answer ..) _ _

theorem State.cores_freeRegion (s : State) (r : RingAt) (g : Region) : (s.freeRegion r g).cores = s.cores := by
  unfold State.freeRegion
  refine (State.cores_prswPass _ _ _).trans (State.cores_of_dies ?_)
  exact (State.releaseCtx_sameEnd _ _ _).1.trans (State.emptyStripes_dies _ _)

theorem State.placeRegion_dies (s : State) (r : RingAt) (q n : Nat) (j : BitVec 20) (c : BitVec 6) : (s.placeRegion r q n j c).dies = s.dies :=
  State.emptyStripes_dies _ _

theorem State.cores_compactNext (s : State) (r : RingAt) (m : Msg) (k : Nat) : (s.compactNext r m k).cores = s.cores := by
  unfold State.compactNext
  dsimp only
  split
  · rfl
  · exact State.cores_answer ..

theorem State.cores_passCompact (s : State) (r : RingAt) (g : Region) : (s.passCompact r g).cores = s.cores :=
  State.cores_foldl (fun t q => by split; exacts [State.cores_compactNext .., rfl]) _ _

theorem State.cores_moveRegion (s : State) (r : RingAt) (g : Region) (q : Fin 8) : (s.moveRegion r g q).cores = s.cores := by
  unfold State.moveRegion
  refine (State.cores_foldl (fun t l => State.cores_onLaunch _ _ (by intros; rfl)) _ _).trans ?_
  refine State.cores_of_dies ((foldl_keeps State.dies _ (fun t o => ?_) _ _).trans (State.emptyStripes_dies _ _))
  refine foldl_keeps State.dies _ (fun u e => ?_) _ _
  dsimp only
  split <;> rfl

theorem State.cores_compactStep (s : State) (r : RingAt) (g : Region) : (s.compactStep r g).cores = s.cores := by
  unfold State.compactStep
  split
  · rfl
  · dsimp only
    split
    · exact (State.cores_compactNext ..).trans (State.cores_moveRegion ..)
    · exact State.cores_compactNext ..

/-! ### Evictions -/

theorem State.cores_takeSlot (s : State) (d : Fin 4) (ep : Fin 2) (g : Seg) (x : Slot) : (s.takeSlot d ep g x).cores = s.cores := by
  have hseg (f : Seg → Seg) (l : Nat) : (s.onLaunch l fun y => y.onSeg d f).cores = s.cores := State.cores_onLaunch _ _ (by intros; rfl)
  have hlink (f : Link → Link) : (s.onLink d ep f).cores = s.cores := State.part_onDie _ s (by intros; rfl) d
  cases x with
  | token l k code t sc => exact hlink _
  | alloc l k v sp => exact hseg _ l
  | retire l k v => exact hseg _ l
  | kill l k v => exact hseg _ l
  | baseReport l k a b => rfl
  | swapReport l k n => rfl
  | count l k n => exact hlink _

theorem State.cores_landSlots (s : State) (l : Nat) : (s.landSlots l).cores = s.cores := by
  unfold State.landSlots
  refine State.cores_foldl (fun t x => ?_) _ _
  dsimp only
  split
  · exact State.cores_takeSlot ..
  · rfl

theorem State.cores_unwait (s : State) (r : RingAt) (ids : List Nat) : (s.unwait r ids).cores = s.cores := by
  unfold State.unwait
  exact State.part_onDie Die.core s (f := fun x => { x with walks := x.walks.map fun w => { w with waiters := w.waiters.filterMap (Waiter.without ids) } })
    (by intros; rfl) r.die

theorem State.cores_evictSeg (s : State) (l : Nat) (gs : Seg) (full : Bool) (b n : Nat) : (s.evictSeg l gs full b n).cores = s.cores := by
  unfold State.evictSeg
  dsimp only
  split
  · rfl
  · refine (State.cores_passCompact ..).trans ((State.cores_freeRegion ..).trans ((State.part_onDie Die.core _ (by intros; rfl) _).trans ?_))
    refine (State.cores_foldl (by intros; rfl) _ _).trans ((State.cores_unwait _ _ _).trans ?_)
    exact State.cores_foldl (f := fun u e => u.squash e false (u.elem e).main.array.length) (by intros; rfl) _ _

theorem State.cores_dropEvict (s : State) (m : Msg) : (s.dropEvict m).cores = s.cores := by
  unfold State.dropEvict
  exact State.cores_of_dies (State.onRings_dies ..)

theorem State.cores_undoForce (s : State) (m : Msg) : (s.undoForce m).cores = s.cores := by
  unfold State.undoForce
  exact State.cores_of_dies (State.onRings_dies ..)

theorem State.cores_evict (s : State) (l : Nat) (m : Msg) (full : Bool) : (s.evict l m full).cores = s.cores := by
  unfold State.evict
  dsimp only
  split
  · exact (State.cores_refuse ..).trans ((State.cores_dropEvict ..).trans (State.cores_undoForce ..))
  · refine (State.cores_answer ..).trans ((State.cores_dropEvict ..).trans ?_)
    refine (State.cores_foldl (fun t k => State.cores_onLaunch _ _ (by intros; rfl)) _ _).trans ?_
    refine (State.cores_foldl (fun t k => State.part_onDies _ t (by intros; rfl)) _ _).trans ?_
    exact (State.cores_foldl (fun t q => State.cores_evictSeg ..) _ _).trans (State.cores_foldl State.cores_landSlots _ _)

theorem State.cores_evictStep (s : State) (r : RingAt) (q : Fin 8) : (s.evictStep r q).cores = s.cores := by
  unfold State.evictStep
  split
  · rfl
  · split
    · rfl
    · dsimp only
      split
      · exact State.cores_evict ..
      · rfl

/-! ### Equinoxes -/

theorem State.cores_equinoxFirst (s : State) (r : RingAt) (g : Region) : (s.equinoxFirst r g).cores = s.cores := by
  unfold State.equinoxFirst
  refine (State.cores_prswPass ..).trans (State.cores_of_dies ?_)
  show (if g.counted then s else _).dies = s.dies
  split <;> rfl

theorem State.cores_equinoxRest (s : State) (r : RingAt) (g : Region) : (s.equinoxRest r g).cores = s.cores := by
  unfold State.equinoxRest
  dsimp only
  refine (State.cores_foldl (fun t m => State.cores_answer ..) _ _).trans ((State.cores_foldl (fun t q => State.cores_evictStep ..) _ _).trans ?_)
  split
  · exact State.cores_compactStep ..
  · rfl

theorem State.cores_equinoxAt (s : State) (r : RingAt) (g : Region) : (s.equinoxAt r g).cores = s.cores :=
  (State.cores_equinoxRest ..).trans (State.cores_equinoxFirst ..)

theorem State.cores_onJobRegions {f : State → RingAt → Region → State} (h : ∀ (t : State) r g, (f t r g).cores = t.cores) (s : State) (d : Fin 4)
    (j : BitVec 20) : (s.onJobRegions d j f).cores = s.cores :=
  State.cores_foldl (fun _ r => State.cores_foldl (fun u g => h u r g) _ _) _ _

theorem State.cores_reclaim (s : State) (ks : List (RingAt × Fin 8)) : (s.reclaim ks).cores = s.cores := by
  refine State.cores_foldl (fun t k => ?_) _ _
  dsimp only
  split
  · exact (State.cores_passCompact ..).trans ((State.cores_freeRegion ..).trans (State.cores_equinoxAt ..))
  · rfl

end Sys2Proof.Machine

/-! PROOFS. DISPATCH_BIND (05 R200, R201, R209), and with it the life of a launch. -/

namespace Sys2Proof.Machine

/-! ### What binding does -/

theorem Ring.addPorts_keeps {α : Type} (p : Ring → α) (h : ∀ y t, p { y with ports := t } = p y) (ps : List Port) (y : Ring) : p (y.addPorts ps) = p y :=
  foldl_keeps p _ (by intro y q; split; exacts [h _ _, rfl]) _ _

section BindTo
variable (s : State) (l : Nat) (segs : List Seg) (saves : Tab (Nat × Nat)) (atOnce : Bool)

/-- The rings of a binding: segment 0's has the ports, and each segment's region lists the launch. -/
def State.bindRings : State :=
  let x := s.launch l
  let s := match segs.head? with | some g => s.onRing ⟨g.die, g.ring⟩ (Ring.addPorts (x.newPorts l)) | none => s
  segs.foldl (fun s g => s.onRegion ⟨g.die, g.ring⟩ g.page fun y => if x.ical then y else { y with launches := y.launches ++ [l] }) s

theorem State.bindRings_dies : (s.bindRings l segs).dies = s.dies := by
  unfold State.bindRings
  refine (foldl_keeps State.dies _ (by intros; rfl) _ _).trans ?_
  split <;> rfl

theorem State.bindTo_eq :
    s.bindTo l segs saves atOnce = (s.bindRings l segs).onLaunch l fun y =>
      { y with
        state := .bound, segs := segs, saveAt := saves, idxMap := [(0, 0)],
        woken := atOnce || ((s.launch l).newPorts l).isEmpty || ((s.launch l).newPorts l).any Port.ended, notes := [] } := rfl

theorem State.bindTo_launch :
    let y := (s.bindTo l segs saves atOnce).launch l
    y.state = .bound ∧ y.segs = segs ∧ y.saveAt = saves ∧
      y.woken = (atOnce || ((s.launch l).newPorts l).isEmpty || ((s.launch l).newPorts l).any Port.ended) := by
  rw [State.bindTo_eq, State.launch_onLaunch]
  exact ⟨rfl, rfl, rfl, rfl⟩

theorem State.bindTo_cores : (s.bindTo l segs saves atOnce).cores = s.cores := by
  rw [State.bindTo_eq]
  exact (State.cores_onLaunch _ _ (by intros; rfl)).trans (State.cores_of_dies (State.bindRings_dies ..))

/-- What neither ports nor regions show of a ring stays. -/
theorem State.bindTo_ring_keeps {α : Type} (p : Ring → α) (hp : ∀ y t, p { y with ports := t } = p y) (hr : ∀ y t, p { y with regions := t } = p y)
    (r : RingAt) : p ((s.bindTo l segs saves atOnce).ring r) = p (s.ring r) := by
  rw [State.bindTo_eq]
  show p ((s.bindRings l segs).ring r) = _
  unfold State.bindRings
  refine (foldl_keeps (fun t : State => p (t.ring r)) _ (fun t g => State.onRing_keeps p _ _ (fun _ => hr _ _) _) _ _).trans ?_
  split
  · exact State.onRing_keeps p _ _ (fun y => Ring.addPorts_keeps p hp _ y) _
  · rfl

end BindTo

/-- The regions of the ring on which a launch of one segment is bound. -/
theorem State.bindTo_regions (s : State) (l : Nat) (g : Seg) (saves : Tab (Nat × Nat)) (atOnce : Bool) :
    ((s.bindTo l [g] saves atOnce).ring ⟨g.die, g.ring⟩).regions =
      (s.ring ⟨g.die, g.ring⟩).regions.map fun h =>
        if h.page = g.page then (if (s.launch l).ical then h else { h with launches := h.launches ++ [l] }) else h := by
  rw [State.bindTo_eq]
  show (((s.onRing ⟨g.die, g.ring⟩ (Ring.addPorts ((s.launch l).newPorts l))).onRegion ⟨g.die, g.ring⟩ g.page _).ring ⟨g.die, g.ring⟩).regions = _
  rw [State.onRegion, State.ring_onRing, State.ring_onRing]
  dsimp only
  rw [Ring.addPorts_keeps Ring.regions (by intros; rfl)]

/-! ### A region is given to a job -/

theorem State.emptyStripes_rings (ps : List StripeAt) (s : State) : (ps.foldl State.emptyStripe s).rings = s.rings :=
  foldl_keeps State.rings State.emptyStripe (fun _ _ => State.onElems_rings ..) _ _

theorem State.placeRegion_ring (s : State) (r : RingAt) (q n : Nat) (j : BitVec 20) (c : BitVec 6) :
    tabFind c.toNat ((s.placeRegion r q n j c).ring r).ctxs = some j ∧
      ∃ g ∈ ((s.placeRegion r q n j c).ring r).regions, g.page = Fin.ofNat 8 q ∧ g.pages = n ∧ g.pasid = j ∧ g.ctx = c ∧ g.launches = [] := by
  unfold State.placeRegion
  dsimp only
  rw [State.ring_of_rings (State.emptyStripes_rings _ _), State.ring_onRing]
  exact ⟨tabFind_tabPut _ _ _, _, List.mem_append_right _ (List.mem_singleton.2 rfl), rfl, rfl, rfl, rfl, rfl⟩

/-! ### A place is taken -/

/-- The die notes the fc of its binding. -/
def State.noteBind (s : State) (d : Fin 4) : State := s.onDie d fun y => { y with lastBind := s.fc + 1 }

theorem State.launch_of_launches {s t : State} (h : ∀ e, (t.die e).launches = (s.die e).launches) (l : Nat) : t.launch l = s.launch l := by
  unfold State.launch; rw [h]

theorem State.noteBind_launch (s : State) (d : Fin 4) (l : Nat) : (s.noteBind d).launch l = s.launch l :=
  State.launch_of_launches (State.onDie_keeps Die.launches rfl) l

theorem State.noteBind_lastBind (s : State) (d : Fin 4) : ((s.noteBind d).die d).lastBind = s.fc + 1 := by
  rw [State.noteBind, State.die_onDie]

theorem State.lastBind_of_cores {s t : State} (h : t.cores = s.cores) (d : Fin 4) : (t.die d).lastBind = (s.die d).lastBind :=
  congrArg (fun c => c.2.2.1) (congrFun h d)

theorem State.ical_of_cores {s t : State} (h : t.cores = s.cores) (l : Nat) : (t.launch l).ical = (s.launch l).ical :=
  congrFun (congrArg (fun c => c.2.2.2) (congrFun h (Fin.ofNat 4 (l / 4096)))) (l % 4096)

section Bind
variable (s : State) (l : Nat) (saves : Tab (Nat × Nat))

/-- The state when the regions of a launch stand. -/
def State.withRegions (at_ : List (RingAt × Nat × BitVec 6)) (ks : List (RingAt × Fin 8)) : State :=
  at_.foldl (fun t p => t.placeRegion p.1 p.2.1 (s.launch l).pages (s.launch l).pasid p.2.2) (s.reclaim ks)

theorem State.cores_withRegions (at_ : List (RingAt × Nat × BitVec 6)) (ks : List (RingAt × Fin 8)) : (s.withRegions l at_ ks).cores = s.cores :=
  (State.cores_foldl (fun _ _ => State.cores_of_dies (State.placeRegion_dies ..)) _ _).trans (State.cores_reclaim ..)

theorem State.bindAt_fresh (at_ : List (RingAt × Nat × BitVec 6)) (ks : List (RingAt × Fin 8)) :
    let t := s.bindAt l saves (.fresh at_ ks)
    t.cores = s.cores ∧ (t.launch l).state = .bound ∧ (t.launch l).saveAt = saves ∧
      (t.launch l).segs = at_.map fun p => ⟨p.1.die, p.1.ring, Fin.ofNat 8 p.2.1, p.2.2, Alloc.start, 0⟩ := by
  obtain ⟨hstate, hsegs, hsaves, -⟩ :=
    State.bindTo_launch (s.withRegions l at_ ks) l (at_.map fun p => ⟨p.1.die, p.1.ring, Fin.ofNat 8 p.2.1, p.2.2, Alloc.start, 0⟩) saves false
  exact ⟨(State.bindTo_cores ..).trans (State.cores_withRegions ..), hstate, hsaves, hsegs⟩

/-- A launch of one segment has its new region, and the job its CTX. -/
theorem State.bindAt_fresh_region (hi : (s.launch l).ical = false) (r : RingAt) (q : Nat) (c : BitVec 6) (ks : List (RingAt × Fin 8)) :
    let t := s.bindAt l saves (.fresh [(r, q, c)] ks)
    tabFind c.toNat (t.ring r).ctxs = some (s.launch l).pasid ∧
      ∃ g ∈ (t.ring r).regions,
        g.page = Fin.ofNat 8 q ∧ g.pages = (s.launch l).pages ∧ g.pasid = (s.launch l).pasid ∧ g.ctx = c ∧ g.launches = [l] := by
  obtain ⟨hctx, g, hg, hpage, hpages, hpasid, hc, hnone⟩ := State.placeRegion_ring (s.reclaim ks) r q (s.launch l).pages (s.launch l).pasid c
  have hical : ((s.withRegions l [(r, q, c)] ks).launch l).ical = false := (State.ical_of_cores (State.cores_withRegions s l _ _) l).trans hi
  refine ⟨(congrArg (tabFind c.toNat) (State.bindTo_ring_keeps _ _ _ _ _ Ring.ctxs (by intros; rfl) (by intros; rfl) r)).trans hctx, ?_⟩
  refine ⟨{ g with launches := [l] }, ?_, hpage, hpages, hpasid, hc, rfl⟩
  have hregions := State.bindTo_regions (s.withRegions l [(r, q, c)] ks) l ⟨r.die, r.ring, Fin.ofNat 8 q, c, Alloc.start, 0⟩ saves false
  refine hregions.symm ▸ List.mem_map.2 ⟨g, hg, ?_⟩
  rw [if_pos hpage, hical, hnone]
  rfl

theorem State.bindAt_join (hi : (s.launch l).ical = false) {r : RingAt} {q : Fin 8} {g : Region} (hg : (s.ring r).atPage q = some g) :
    let t := s.bindAt l saves (.join r q)
    (t.launch l).state = .bound ∧ (t.launch l).woken = true ∧ (t.launch l).segs = [⟨r.die, r.ring, q, g.ctx, Alloc.start, 0⟩] ∧
      ∃ h ∈ (t.ring r).regions, h.page = q ∧ h.launches = g.launches ++ [l] := by
  have hbind : s.bindAt l saves (.join r q) = s.bindTo l [⟨r.die, r.ring, q, g.ctx, Alloc.start, 0⟩] saves true := by
    show s.bindTo l [⟨r.die, r.ring, q, (((s.ring r).atPage q).map Region.ctx).getD 0, Alloc.start, 0⟩] saves true = _
    rw [hg]; rfl
  have hpage : g.page = q := by simpa using List.find?_some hg
  obtain ⟨hstate, hsegs, -, hwoken⟩ := State.bindTo_launch s l [⟨r.die, r.ring, q, g.ctx, Alloc.start, 0⟩] saves true
  have hregions := State.bindTo_regions s l ⟨r.die, r.ring, q, g.ctx, Alloc.start, 0⟩ saves true
  rw [hbind]
  refine ⟨hstate, hwoken, hsegs, { g with launches := g.launches ++ [l] }, ?_, hpage, rfl⟩
  refine hregions.symm ▸ List.mem_map.2 ⟨g, List.mem_of_find?_eq_some hg, ?_⟩
  rw [if_pos hpage, hi]
  rfl

theorem State.bindAt_ical (hi : (s.launch l).ical = true) (r : RingAt) (c : BitVec 6) :
    let t := s.bindAt l saves (.ical r c)
    (t.launch l).state = .bound ∧ (t.ring r).icalLaunch = some l ∧ (t.ring r).icalLoaded = 0 ∧
      tabFind c.toNat (t.ring r).ctxs = some (s.launch l).pasid ∧ (t.ring r).regions = (s.ring r).regions := by
  let u := s.onRing r fun y => { y with ctxs := tabPut c.toNat (s.launch l).pasid y.ctxs, icalLaunch := some l, icalLoaded := 0 }
  let seg : Seg := ⟨r.die, r.ring, 0, c, Alloc.start, 0⟩
  have hu : u.ring r = { s.ring r with ctxs := tabPut c.toNat (s.launch l).pasid (s.ring r).ctxs, icalLaunch := some l, icalLoaded := 0 } :=
    State.ring_onRing ..
  have hkeep {α : Type} (p : Ring → α) := State.bindTo_ring_keeps u l [seg] saves false p
  refine ⟨(State.bindTo_launch u l [seg] saves false).1, ?_, ?_, ?_, ?_⟩
  · exact (hkeep Ring.icalLaunch (by intros; rfl) (by intros; rfl) r).trans (by rw [hu])
  · exact (hkeep Ring.icalLoaded (by intros; rfl) (by intros; rfl) r).trans (by rw [hu])
  · exact (congrArg (tabFind c.toNat) (hkeep Ring.ctxs (by intros; rfl) (by intros; rfl) r)).trans (by rw [hu]; exact tabFind_tabPut _ _ _)
  · refine (State.bindTo_regions u l seg saves false).trans ?_
    have hui : (u.launch l).ical = true := hi
    rw [hui, hu]
    simp

end Bind

/-! ### One launch of a die is bound -/

/-- The first READY launch of a die that finds a place. -/
def State.firstPlace (s : State) (d : Fin 4) : Option (Nat × Spot) :=
  (s.die d).readyLaunches.findSome? fun e => (s.spot d (s.launch (launchKey d e))).map fun t => (launchKey d e, t)

theorem State.dispatchBind_none {s : State} {d : Fin 4} (h : (s.die d).lastBind = s.fc + 1 ∨ s.firstPlace d = none) : s.dispatchBind d = s := by
  unfold State.dispatchBind
  dsimp only
  split
  · rfl
  · rename_i hl
    rw [show (s.die d).readyLaunches.findSome? _ = _ from h.resolve_left hl]

section Dispatch
variable {s : State} {d : Fin 4} {l : Nat} {sp : Spot} (hl : (s.die d).lastBind ≠ s.fc + 1) (hf : s.firstPlace d = some (l, sp))
include hl hf

theorem State.dispatchBind_first :
    s.dispatchBind d =
      if !s.reclaimable sp.reclaims then s
      else match s.placing d (s.launch l) with
        | .wait u => u
        | .refuse u st => (u.noteBind d).doneLaunch l st
        | .ok saves => (s.noteBind d).bindAt l saves sp := by
  unfold State.dispatchBind
  dsimp only
  rw [if_neg hl, show (s.die d).readyLaunches.findSome? _ = _ from hf]
  dsimp only
  split
  · rfl
  · cases s.placing d (s.launch l) <;> rfl

theorem State.dispatchBind_placing (hr : s.reclaimable sp.reclaims = true) :
    s.dispatchBind d = match s.placing d (s.launch l) with
      | .wait u => u
      | .refuse u st => (u.noteBind d).doneLaunch l st
      | .ok saves => (s.noteBind d).bindAt l saves sp := by
  rw [State.dispatchBind_first hl hf, hr]
  rfl

end Dispatch

/-- One launch is bound, the first in order that finds a place, and as that place asks. -/
theorem launchesBind : Claim.LaunchesBind := by
  intro s d first
  refine ⟨fun h => congrArg Host.Outcome.next (State.dispatchBind_none h), fun l sp => ?_⟩
  intro x hl hi hf
  refine ⟨fun hr => ?_, fun hr => ?_⟩
  · exact congrArg Host.Outcome.next ((State.dispatchBind_first hl hf).trans (by rw [hr]; rfl))
  have hgo := State.dispatchBind_placing hl hf hr
  have hnext {v : State} (h : s.dispatchBind d = v) : exec .dispatchBind s = .next v := congrArg Host.Outcome.next h
  have hx : (s.noteBind d).launch l = x := State.noteBind_launch s d l
  refine ⟨fun u hp => hnext (hgo.trans ?_), fun u st hp => ?_, fun saves hp => ⟨fun at_ ks hs => ?_, fun r q g hs hg => ?_, fun r c hs => ?_⟩⟩
  · rw [hp]
  · obtain ⟨hstate, hsegs⟩ := State.doneLaunch_over (u.noteBind d) l st
    exact ⟨_, hnext (hgo.trans (by rw [hp])), hstate, hsegs⟩
  · subst hs
    obtain ⟨hcores, hstate, hsaves, hsegs⟩ := State.bindAt_fresh (s.noteBind d) l saves at_ ks
    refine ⟨_, hnext (hgo.trans (by rw [hp])), (State.lastBind_of_cores hcores d).trans (State.noteBind_lastBind s d), hstate, hsaves, hsegs, ?_⟩
    rintro r q c rfl
    have hregion := State.bindAt_fresh_region (s.noteBind d) l saves (hx ▸ hi) r q c ks
    rw [hx] at hregion
    exact hregion
  · subst hs
    have hjoin := State.bindAt_join (s.noteBind d) l saves (hx ▸ hi) (r := r) (q := q) hg
    exact ⟨_, hnext (hgo.trans (by rw [hp])), hjoin⟩
  · subst hs
    have hical := State.bindAt_ical (s.noteBind d) l saves (hx ▸ hi) r c
    rw [hx] at hical
    exact ⟨_, hnext (hgo.trans (by rw [hp])), hical⟩

/-- Settles O39: an ended launch has its entry DONE or FREE and is in no region, because each later step of its end leaves both; a binding is made of
steps that each keep the part of the dies that the statement reads. -/
theorem launchLifecycle : Obligations.LaunchLifecycle := ⟨launchesEnd, launchesBind⟩

end Sys2Proof.Machine

/-! PROOFS. Stuck stripes, cohorts, equinoxes and the boundary of a phase (05 R184, R190, R196, R197, R205, R206). -/

namespace Sys2Proof.Machine

/-! ### Stuck stripes (05 R190) -/

theorem State.strayToken_none {s : State} {r : RingAt} (h : s.stuckHead r = none) : s.strayToken r = s := by
  unfold State.strayToken; rw [h]

theorem State.missingExit_none {s : State} {r : RingAt} (h : s.stuckHead r = none) : s.missingExit r = s := by
  unfold State.missingExit; rw [h]

section Stuck
variable {s : State} {r : RingAt} {p : StripeAt} (hp : s.stuckHead r = some p)
include hp

theorem State.strayToken_quiet (h : (s.standing p).1 = [] ∨ s.d3 p false = false) : s.strayToken r = s := by
  unfold State.strayToken
  rw [hp]
  dsimp only
  split
  case _ f fs hf =>
    rw [h.resolve_left (by simp [hf])]
    rfl
  · rfl

theorem State.strayToken_records {f : Settled} {fs : List Settled} (hf : (s.standing p).1 = f :: fs) (h3 : s.d3 p false = true) :
    Records s (s.strayToken r) r.die 0x70 (f.kind * 2 ^ 32 + f.num) 1 := by
  unfold State.strayToken
  rw [hp]
  dsimp only
  rw [hf]
  dsimp only
  rw [if_pos h3]
  exact State.takeFault_records ..

theorem State.missingExit_quiet (h : s.owesExit p false = none ∨ s.d2 p = false) : s.missingExit r = s := by
  unfold State.missingExit
  rw [hp]
  dsimp only
  split
  case _ e he =>
    rw [h.resolve_left (by simp [he])]
    rfl
  · rfl

theorem State.missingExit_records {e : ElemAt} (he : s.owesExit p false = some e) (h2 : s.d2 p = true) :
    Records s (s.missingExit r) r.die 0x71
      (Hdr.exits (s.elem e).active.hdr * 65536 + (s.elem e).active.exitCount ((s.stripe p).conf false).ctx) 1 := by
  unfold State.missingExit
  rw [hp]
  dsimp only
  rw [he]
  dsimp only
  rw [if_pos h2]
  exact State.takeFault_records ..

end Stuck

theorem stuckStripesFault : Claim.StuckStripesFault := by
  intro s r
  refine ⟨fun h => ⟨congrArg Host.Outcome.next (State.strayToken_none h), congrArg Host.Outcome.next (State.missingExit_none h)⟩, fun p hp => ?_⟩
  exact ⟨fun h => congrArg Host.Outcome.next (State.strayToken_quiet hp h), fun f fs hf h3 => ⟨s.strayToken r, rfl, State.strayToken_records hp hf h3⟩,
    fun h => congrArg Host.Outcome.next (State.missingExit_quiet hp h), fun e he h2 => ⟨s.missingExit r, rfl, State.missingExit_records hp he h2⟩⟩

/-! ### Cohorts (05 R184) -/

/-- The region that a cohort of a launch enters: its stripe 0 holds the launch. -/
def State.cohortRegion (s : State) (r : RingAt) (entry : Nat) : Option Region :=
  (s.ring r).regions.find? fun g => g.launches.any fun l => l % 4096 == entry && ((s.stripe (regionStripe r g.page 0)).conf false).launch == l

/-- A cohort can enter a region. -/
def State.cohortEnters (s : State) (r : RingAt) (g : Region) : Prop :=
  let p := regionStripe r g.page 0
  let c := (s.stripe p).conf false
  (s.stripe p).active.isSome = true ∧ c.stage = 0 ∧ g.cohortOpen = false ∧ g.stage0At ≤ s.fc ∧ s.asked r g = false ∧ s.goneLaunch c.launch = false ∧
    (s.ring r).scrolls = true ∧ ∀ h q, s.headOf r = some (h, q) → s.drained h q = true ∧ (s.ring r).late ≠ some q.stripe

/-- A cohort has entered a region. -/
def State.cohortIn (s : State) (r : RingAt) (g : Region) : State :=
  s.onRegion r g.page fun y => { y with cohortOpen := true, cohorts := y.cohorts + 1, counted := false }

/-- The scroll is held by a head that is not drained, or was not when it was found due. -/
theorem State.held_iff (s : State) (r : RingAt) :
    (!(match s.headOf r with | some h => !s.drained h.1 h.2 || (s.ring r).late == some h.2.stripe | none => false)) = true ↔
      ∀ h q, s.headOf r = some (h, q) → s.drained h q = true ∧ (s.ring r).late ≠ some q.stripe := by
  cases s.headOf r with
  | none => simp
  | some h => simp [Prod.ext_iff]

section Cohort
variable {s : State} {r : RingAt} {entry : Nat}

theorem State.cohortEntry_none (h : s.cohortRegion r entry = none) : s.cohortEntry r entry = s := by
  unfold State.cohortEntry
  rw [show (s.ring r).regions.find? _ = _ from h]

/-- The guard of COHORT_ENTRY as the model computes it. -/
theorem State.cohortEnters_iff (s : State) (r : RingAt) (g : Region) :
    s.cohortEnters r g ↔
      (s.stripe (regionStripe r g.page 0)).active.isSome ∧ ((s.stripe (regionStripe r g.page 0)).conf false).stage = 0 ∧ !g.cohortOpen ∧
        g.stage0At ≤ s.fc ∧ !s.asked r g ∧ !s.goneLaunch ((s.stripe (regionStripe r g.page 0)).conf false).launch ∧ (s.ring r).scrolls ∧
        !(match s.headOf r with | some h => !s.drained h.1 h.2 || (s.ring r).late == some h.2.stripe | none => false) := by
  unfold State.cohortEnters
  dsimp only
  rw [State.held_iff]
  simp only [Bool.not_eq_true']

variable {g : Region} (hg : s.cohortRegion r entry = some g)
include hg

theorem State.cohortEntry_stays (h : ¬s.cohortEnters r g) : s.cohortEntry r entry = s := by
  unfold State.cohortEntry
  rw [show (s.ring r).regions.find? _ = _ from hg]
  exact if_neg ((State.cohortEnters_iff s r g).not.1 h)

theorem State.cohortEntry_enters (h : s.cohortEnters r g) :
    s.cohortEntry r entry = (s.cohortIn r g).running ((s.stripe (regionStripe r g.page 0)).conf false).launch := by
  unfold State.cohortEntry
  rw [show (s.ring r).regions.find? _ = _ from hg]
  exact if_pos ((State.cohortEnters_iff s r g).1 h)

end Cohort

theorem State.cohortIn_regions (s : State) (r : RingAt) (g : Region) :
    ((s.cohortIn r g).ring r).regions = (s.ring r).regions.map fun h =>
      if h.page = g.page then { h with cohortOpen := true, cohorts := h.cohorts + 1, counted := false } else h := by
  rw [State.cohortIn, State.onRegion, State.ring_onRing]

/-- A launch that no PRESTORE restores runs from its first cohort on, and nothing else changes. -/
theorem State.running_of_unasked {s : State} {l : Nat} (h : (s.launch l).restoring = []) :
    (s.running l).rings = s.rings ∧ (s.running l).elems = s.elems ∧
      ((s.running l).launch l).state = if (s.launch l).state = .bound then .running else (s.launch l).state := by
  let t := s.onLaunch l fun x => { x with state := if x.state = .bound then .running else x.state }
  have ht : t.launch l = _ := State.launch_onLaunch s l _
  have hnone : (t.launch l).restoring = [] := by rw [ht]; exact h
  have hrun : s.running l = if (t.launch l).state = .running then t.onLaunch l fun y => { y with restoring := [] } else t := by
    show t.answerRunning l = _
    unfold State.answerRunning
    dsimp only
    rw [hnone]
    rfl
  rw [hrun]
  split
  · refine ⟨rfl, rfl, ?_⟩
    rw [State.launch_onLaunch, ht]
  · exact ⟨rfl, rfl, by rw [ht]⟩

theorem cohortsEnter : Claim.CohortsEnter := by
  intro s r entry found
  refine ⟨fun h => congrArg Host.Outcome.next (State.cohortEntry_none h), fun g hg => ?_⟩
  refine ⟨fun h => congrArg Host.Outcome.next (State.cohortEntry_stays hg h), fun h => ⟨s.cohortIn r g, ?_, rfl, rfl, State.cohortIn_regions s r g, fun hn => ?_⟩⟩
  · exact congrArg Host.Outcome.next (State.cohortEntry_enters hg h)
  · exact State.running_of_unasked (s := s.cohortIn r g) hn

/-! ### An equinox that only answers (05 R196, R197) -/

theorem Ring.atPage_map {f : Region → Region} (h : ∀ g, (f g).page = g.page) (x : Ring) (q : Fin 8) :
    Ring.atPage { x with regions := x.regions.map f } q = (x.atPage q).map f := by
  unfold Ring.atPage
  rw [List.find?_map]
  congr 2
  funext g
  simp [h]

theorem Ring.atPage_page {x : Ring} {q : Fin 8} {g : Region} (h : x.atPage q = some g) : g.page = q := by simpa using List.find?_some h

theorem State.forceStep_none {s : State} {r : RingAt} {q : Fin 8} (h : (s.ring r).atPage q = none) : s.forceStep r q = s := by
  unfold State.forceStep; rw [h]; rfl

/-- A region on which no forced eviction waits is not evicted by force. -/
theorem State.forceStep_quiet {s : State} {r : RingAt} {q : Fin 8} {g : Region} (hg : (s.ring r).atPage q = some g)
    (h : ∀ m, EqReq.pevict m true ∉ g.reqs) : s.forceStep r q = s := by
  unfold State.forceStep
  split
  · rfl
  · rename_i m hm
    obtain ⟨k, hk, hm⟩ := Option.bind_eq_some_iff.1 hm
    obtain ⟨x, hx, he⟩ := List.exists_of_findSome?_eq_some hm
    cases hg.symm.trans hk
    split at he
    · exact absurd hx (h _)
    · cases he

theorem State.equinox_none {s : State} {r : RingAt} {q : Fin 8} (h : (s.ring r).atPage q = none) : s.equinox r q = s := by
  unfold State.equinox
  dsimp only
  rw [State.forceStep_none h, h]

section Equinox
variable {s : State} {r : RingAt} {q : Fin 8} {g : Region} (hg : (s.ring r).atPage q = some g) (hq : ∀ m, EqReq.pevict m true ∉ g.reqs)
include hg hq

theorem State.equinox_some :
    s.equinox r q =
      if !s.atEquinox r g then s
      else if ((s.die r.die).phase g.pasid).pend ≠ [] ∧ s.phaseOver r.die g.pasid then s.phaseBoundary r.die g.pasid
      else s.equinoxAt r g := by
  unfold State.equinox
  dsimp only
  rw [State.forceStep_quiet hg hq, hg]

end Equinox

/-- The region counted, and the requests that an equinox alone answers taken off it. -/
def Region.count (q : Fin 8) (h : Region) : Region :=
  if h.page = q then { h with counted := true, reqs := h.reqs.filter fun x => x != .pphase } else h

/-- The PEQWAITs taken off a region. -/
def Region.answered (q : Fin 8) (h : Region) : Region :=
  if h.page = q then { h with reqs := h.reqs.filter fun | .peqwait _ => false | _ => true } else h

/-- Nothing but PEQWAITs stands on a region of page `q`, and nothing on any other. -/
theorem State.evictStep_quiet {s : State} {r : RingAt} {q : Fin 8} (h : ∀ g, (s.ring r).atPage q = some g → g.reqs = []) : s.evictStep r q = s := by
  unfold State.evictStep
  split
  · rfl
  · rename_i m hm
    obtain ⟨k, hk, hm⟩ := Option.bind_eq_some_iff.1 hm
    rw [h k hk] at hm
    cases hm

theorem State.evictSteps_quiet {s : State} {r : RingAt} (h : ∀ q g, (s.ring r).atPage q = some g → g.reqs = []) (qs : List (Fin 8)) :
    qs.foldl (fun s q => s.evictStep r q) s = s := by
  induction qs with
  | nil => rfl
  | cons q qs ih => rw [List.foldl_cons, State.evictStep_quiet (h q), ih]

theorem State.compactStep_quiet {s : State} {r : RingAt} {g : Region} (h : g.reqs = []) : s.compactStep r g = s := by
  unfold State.compactStep; rw [h]; rfl

/-- A job without rewrites under way passes an equinox with its table as it is: only the table of jobs is written. -/
theorem State.prswPass_quiet {s : State} {j : BitVec 20} (h : (tabGet Job.zero j.toNat s.jobs).prsws = []) (k : Nat × Nat) :
    ∃ t, s.prswPass j k = { s with jobs := t } := by
  unfold State.prswPass
  split
  · exact ⟨s.jobs, rfl⟩
  · rename_i x hx
    rw [tabGet, hx] at h
    dsimp only
    rw [show x.prsws = [] from h]
    exact ⟨_, rfl⟩

/-- The first step of an equinox where no rewrite is under way: the count, and the region counted. -/
theorem State.equinoxFirst_quiet {s : State} {r : RingAt} {g : Region} (h : (tabGet Job.zero g.pasid.toNat s.jobs).prsws = []) :
    let u := s.equinoxFirst r g
    u.elems = s.elems ∧ u.dies = s.dies ∧ u.hbm = s.hbm ∧
      (u.ring r).eqcnt = (if g.counted then (s.ring r).eqcnt else (s.ring r).eqcnt + 1) ∧
      (u.ring r).regions = (s.ring r).regions.map (Region.count g.page) := by
  let v := if g.counted then s else s.onRing r fun x => { x with eqcnt := x.eqcnt + 1 }
  let w := v.onRegion r g.page fun y => { y with counted := true, reqs := y.reqs.filter fun q => q != .pphase }
  have hjobs : w.jobs = s.jobs := by show v.jobs = _; unfold v; split <;> rfl
  obtain ⟨t, ht⟩ := State.prswPass_quiet (s := w) (hjobs.symm ▸ h) (r.num, g.page.val)
  have hu : s.equinoxFirst r g = { w with jobs := t } := ht
  have hring : w.ring r = { v.ring r with regions := (v.ring r).regions.map (Region.count g.page) } := State.ring_onRing ..
  rw [hu]
  refine ⟨?_, ?_, ?_, (congrArg Ring.eqcnt hring).trans ?_, (congrArg Ring.regions hring).trans ?_⟩
  · show v.elems = _; unfold v; split <;> rfl
  · show v.dies = _; unfold v; split <;> rfl
  · show v.hbm = _; unfold v; split <;> rfl
  · show (v.ring r).eqcnt = _
    unfold v
    split
    · rfl
    · rw [State.ring_onRing]
  · show (v.ring r).regions.map _ = _
    unfold v
    split
    · rfl
    · rw [State.ring_onRing]

/-- The state once the PEQWAITs of a region are taken off it. -/
def State.takeWaits (s : State) (r : RingAt) (q : Fin 8) : State :=
  s.onRegion r q fun y => { y with reqs := y.reqs.filter fun | .peqwait _ => false | _ => true }

theorem State.takeWaits_ring (s : State) (r : RingAt) (q : Fin 8) :
    (s.takeWaits r q).ring r = { s.ring r with regions := (s.ring r).regions.map (Region.answered q) } := State.ring_onRing ..

/-- The other steps of an equinox where only PEQWAITs stand: each is answered with the count. -/
theorem State.equinoxRest_quiet {s : State} {r : RingAt} {g : Region} {ms : List Msg} (hms : g.reqs = ms.map .peqwait)
    (h : ∀ q k, ((s.takeWaits r g.page).ring r).atPage q = some k → k.reqs = []) :
    s.equinoxRest r g = ms.foldl (fun v m => v.answer m 0 ((s.ring r).eqcnt.toNat % 2 ^ 32) 0) (s.takeWaits r g.page) := by
  have hwaits : (g.reqs.filterMap fun | .peqwait m => some m | _ => none) = ms := by
    rw [hms, List.filterMap_map]
    exact List.filterMap_some
  have hcompact : (match ((s.takeWaits r g.page).ring r).atPage g.page with
      | some k => (s.takeWaits r g.page).compactStep r k
      | none => s.takeWaits r g.page) = s.takeWaits r g.page := by
    split
    case _ k hk => exact State.compactStep_quiet (h _ k hk)
    · rfl
  have hcount : ((s.takeWaits r g.page).ring r).eqcnt = (s.ring r).eqcnt := by rw [State.takeWaits_ring]
  have hrest : s.equinoxRest r g =
      (g.reqs.filterMap fun | .peqwait m => some m | _ => none).foldl
        (fun v m => v.answer m 0 (((s.takeWaits r g.page).ring r).eqcnt.toNat % 2 ^ 32) 0)
        ((((s.takeWaits r g.page).ring r).regions.map Region.page).foldl (fun s q => s.evictStep r q) (s.takeWaits r g.page)) := by
    conv_rhs => rw [← hcompact]
    rfl
  rw [hrest, hwaits, State.evictSteps_quiet h, hcount]

theorem Region.answered_count_page (q : Fin 8) (g : Region) : ((g.count q).answered q).page = g.page := by
  have hans (k : Region) : (k.answered q).page = k.page := by unfold Region.answered; split <;> rfl
  rw [hans]
  unfold Region.count
  split <;> rfl

/-- A region as an equinox of page `q` leaves it. -/
theorem Region.answered_count (q : Fin 8) {g : Region} (h : g.page = q) :
    ((g.count q).answered q).counted = true ∧ ∀ x ∈ ((g.count q).answered q).reqs, x ∈ g.reqs ∧ ∀ m, x ≠ .peqwait m := by
  unfold Region.answered Region.count
  rw [if_pos h]
  dsimp only
  rw [if_pos h]
  refine ⟨rfl, fun x hx => ?_⟩
  obtain ⟨hx, hw⟩ := List.mem_filter.1 hx
  refine ⟨(List.mem_filter.1 hx).1, ?_⟩
  rintro m rfl
  cases hw

theorem Region.answered_count_ne {q : Fin 8} {g : Region} (h : g.page ≠ q) : (g.count q).answered q = g := by
  unfold Region.answered Region.count
  rw [if_neg h, if_neg h]

theorem equinoxesCount : Claim.EquinoxesCount := by
  intro s r q
  refine ⟨fun h => congrArg Host.Outcome.next (State.equinox_none h), fun g hg hq => ?_⟩
  have hsome := State.equinox_some hg hq
  have hnext {v : State} (h : s.equinox r q = v) : exec (.equinox r q) s = .next v := congrArg Host.Outcome.next h
  refine ⟨fun h => hnext (hsome.trans (by rw [h]; rfl)), fun h he => hnext (hsome.trans ?_), fun ms h he hms hj hother => ?_⟩
  · rw [h]
    exact if_pos he
  have hpage : g.page = q := Ring.atPage_page hg
  obtain ⟨helems, hdies, hhbm, hcount, hregions⟩ := State.equinoxFirst_quiet (s := s) (r := r) hj
  let u := s.equinoxFirst r g
  have hw : ((u.takeWaits r g.page).ring r).regions = (s.ring r).regions.map fun k => (k.count q).answered q := by
    rw [State.takeWaits_ring, ← hpage]
    show (u.ring r).regions.map _ = _
    rw [show (u.ring r).regions = _ from hregions, List.map_map]
    rfl
  have hnone : ∀ p k, ((u.takeWaits r g.page).ring r).atPage p = some k → k.reqs = [] := by
    intro p k hk
    obtain ⟨k₀, hk₀, rfl⟩ : ∃ k₀, (s.ring r).atPage p = some k₀ ∧ (k₀.count q).answered q = k := by
      have hmap := Ring.atPage_map (f := fun k => (k.count q).answered q) (Region.answered_count_page q) (s.ring r) p
      have hat : ((u.takeWaits r g.page).ring r).atPage p = ((s.ring r).atPage p).map fun k => (k.count q).answered q := by
        rw [← hmap]; exact congrArg (List.find? _) hw
      exact Option.map_eq_some_iff.1 (hat.symm.trans hk)
    by_cases hp : k₀.page = q
    · have hk : k₀ = g := Option.some.inj (hk₀.symm.trans ((Ring.atPage_page hk₀ ▸ hp) ▸ hg))
      refine List.eq_nil_iff_forall_not_mem.2 fun x hx => ?_
      obtain ⟨hmem, hwait⟩ := (Region.answered_count q hp).2 x hx
      rw [hk, hms] at hmem
      obtain ⟨m, -, rfl⟩ := List.mem_map.1 hmem
      exact hwait m rfl
    · rw [Region.answered_count_ne hp]
      exact hother _ (List.mem_of_find?_eq_some hk₀) hp
  refine ⟨u.takeWaits r g.page, ?_, ?_, helems, hdies, hhbm, fun k hk hp => ?_⟩
  · refine hnext (hsome.trans ?_)
    rw [h, if_neg (by simp), if_neg he]
    refine (State.equinoxRest_quiet hms hnone).trans ?_
    rw [show (u.ring r).eqcnt = _ from hcount]
  · rw [State.takeWaits_ring]
    exact hcount
  · rw [hw] at hk
    obtain ⟨k₀, hk₀, rfl⟩ := List.mem_map.1 hk
    obtain ⟨hc, hnot⟩ := Region.answered_count q ((Region.answered_count_page q k₀).symm.trans hp)
    exact ⟨hc, fun m hm => (hnot _ hm).2 m rfl⟩

/-! ### The boundary of a phase (05 R205, R206) -/

/-- Where a job has no region on a die, a step at its regions does nothing. -/
theorem State.onJobRegions_none {s : State} {d : Fin 4} {j : BitVec 20} (h : ∀ k, ∀ g ∈ (s.ring ⟨d, k⟩).regions, g.pasid ≠ j)
    (f : State → RingAt → Region → State) : s.onJobRegions d j f = s := by
  have hring : ∀ r ∈ dieRings d, ((s.ring r).regions.filter fun g => g.pasid == j) = [] := by
    intro r hr
    obtain ⟨n, -, rfl⟩ := List.mem_map.1 hr
    exact List.filter_eq_nil_iff.2 fun g hg => by simpa using h _ g hg
  unfold State.onJobRegions
  generalize dieRings d = rs at hring
  induction rs with
  | nil => rfl
  | cons r rs ih =>
    rw [List.foldl_cons, hring r (List.mem_cons_self ..)]
    exact ih fun q hq => hring q (List.mem_cons_of_mem _ hq)

theorem State.promote_keeps {α : Type} (p : State → α) (h : ∀ (t : State) l f, p (t.onLaunch l f) = p t) (s : State) (d : Fin 4) :
    p (s.promote d) = p s := foldl_keeps p (fun t e => t.promoteOne d e) (by intros; unfold State.promoteOne; exact h _ _ _) _ _

/-- The boundary opens the next phase. -/
def State.nextPhase (s : State) (d : Fin 4) (j : BitVec 20) (x : Phase) : State :=
  (s.onDie d fun y => { y with phases := tabPut j.toNat x y.phases }).promote d

theorem State.nextPhase_phase (s : State) (d : Fin 4) (j : BitVec 20) (x : Phase) : ((s.nextPhase d j x).die d).phase j = x := by
  have hkeep := State.promote_keeps (fun t : State => (t.die d).phases) (fun t l f => State.onDie_keeps Die.phases rfl d)
    (s.onDie d fun y => { y with phases := tabPut j.toNat x y.phases }) d
  unfold Die.phase State.nextPhase
  rw [show ((State.promote _ d).die d).phases = _ from hkeep, State.die_onDie]
  simp [tabGet]

theorem State.nextPhase_cores (s : State) (d : Fin 4) (j : BitVec 20) (x : Phase) : (s.nextPhase d j x).cores = s.cores :=
  (State.cores_promote ..).trans (State.part_onDie Die.core s (by intros; rfl) d)

section Boundary
variable {s : State} {d : Fin 4} {j : BitVec 20}

theorem State.phaseBoundary_none (h : ((s.die d).phase j).pend = [] ∨ s.phaseOver d j = false) : s.phaseBoundary d j = s := by
  unfold State.phaseBoundary
  dsimp only
  split
  · rfl
  · rename_i m rest hp
    rw [h.resolve_left (by simp [hp])]
    rfl

variable {m : Msg} {rest : List Msg} (hp : ((s.die d).phase j).pend = m :: rest) (ho : s.phaseOver d j = true)
include hp ho

theorem State.phaseBoundary_over {t : State} {done : Bool}
    (ht : State.tilesDue d j ((s.die d).pwsw.length + 1) (s.onJobRegions d j State.equinoxFirst) = (t, done)) :
    s.phaseBoundary d j =
      if done then ((t.onJobRegions d j State.equinoxRest).nextPhase d j ⟨((s.die d).phase j).num + 1, rest⟩).answer m 0
        ((((s.die d).phase j).num + 1) % 2 ^ 32) 0
      else t := by
  unfold State.phaseBoundary
  dsimp only
  rw [hp]
  dsimp only
  rw [if_pos ho, ht]
  rfl

end Boundary

theorem State.tilesDue_none {s : State} {d : Fin 4} {j : BitVec 20} (h : ((s.die d).pwsw.find? fun w => w.job == j) = none) (n : Nat) :
    State.tilesDue d j n s = (s, true) := by
  cases n with
  | zero => rfl
  | succ n => rw [State.tilesDue, h]

/-- The state once a queued write has its bytes: its tiles stand in the weight store, and it is answered. -/
def State.tilesWritten (s : State) (d : Fin 4) (w : WsWrite) (bs : List Byte) : State :=
  let t := s.onDie d fun x => { x with pwsw := x.pwsw.erase w }
  (t.onDie d fun x => x.putTiles (t.keyOf w.keyidx.toNat) w bs).answer w.msg 0 w.count 0

section Tiles
variable {s : State} {d : Fin 4} {w : WsWrite}

theorem State.tilesDue_bytes (hf : ((s.die d).pwsw.find? fun v => v.job == w.job) = some w) {bs : List Byte} (h : s.writeTiles d w = .bytes bs) (n : Nat) :
    State.tilesDue d w.job (n + 1) s = State.tilesDue d w.job n (s.tilesWritten d w bs) := by
  rw [State.tilesDue, hf]
  dsimp only
  rw [h]
  rfl

theorem State.tilesDue_wait (hf : ((s.die d).pwsw.find? fun v => v.job == w.job) = some w) {u : State} (h : s.writeTiles d w = .wait u) (n : Nat) :
    State.tilesDue d w.job (n + 1) s = (u, false) := by
  rw [State.tilesDue, hf]
  dsimp only
  rw [h]

theorem State.ws_of_cores {s t : State} (h : t.cores = s.cores) (d : Fin 4) : (t.die d).ws = (s.die d).ws ∧ (t.die d).pwsw = (s.die d).pwsw :=
  ⟨congrArg (fun c => c.1) (congrFun h d), congrArg (fun c => c.2.1) (congrFun h d)⟩

/-- The only queued write leaves the queue, and its bytes are in the weight store. -/
theorem State.tilesWritten_ws (hw : (s.die d).pwsw = [w]) (bs : List Byte) :
    ((s.tilesWritten d w bs).die d).ws = writeBytes (4096 * w.tile) bs (s.die d).ws ∧ ((s.tilesWritten d w bs).die d).pwsw = [] := by
  obtain ⟨hws, hpwsw⟩ := State.ws_of_cores (State.cores_answer
    ((s.onDie d fun x => { x with pwsw := x.pwsw.erase w }).onDie d fun x =>
      x.putTiles ((s.onDie d fun x => { x with pwsw := x.pwsw.erase w }).keyOf w.keyidx.toNat) w bs) w.msg 0 w.count 0) d
  rw [State.tilesWritten]
  refine ⟨hws.trans ?_, hpwsw.trans ?_⟩
  · rw [State.die_onDie, State.die_onDie]
    rfl
  · rw [State.die_onDie, State.die_onDie]
    simp [Die.putTiles, hw]

end Tiles

theorem phasesEnd : Claim.PhasesEnd := by
  intro s d j f v
  have hnext {t : State} (h : s.phaseBoundary d j = t) : exec (.phaseBoundary d j) s = .next t := congrArg Host.Outcome.next h
  refine ⟨fun h => hnext (State.phaseBoundary_none h), fun m rest hp ho => ⟨fun hnone => ?_, fun w hs hv hj => ⟨fun bs hb => ?_, fun u hu => ?_⟩⟩⟩
  · refine ⟨(v.onJobRegions d j State.equinoxRest).nextPhase d j ⟨f.num + 1, rest⟩,
      hnext (State.phaseBoundary_over hp ho (State.tilesDue_none hnone _)), State.nextPhase_phase _ _ _ _, fun hreg => ?_⟩
    have hvs : v = s := State.onJobRegions_none hreg _
    rw [hvs, State.onJobRegions_none hreg]
    exact ⟨State.promote_keeps State.rings (by intros; rfl) _ _, State.promote_keeps State.elems (by intros; rfl) _ _⟩
  · subst hj
    have hfind : ((v.die d).pwsw.find? fun x => x.job == w.job) = some w := by rw [hv]; simp
    obtain ⟨hws, hempty⟩ := State.tilesWritten_ws hv bs
    have hdue : State.tilesDue d w.job ((s.die d).pwsw.length + 1) v = (v.tilesWritten d w bs, true) := by
      rw [State.tilesDue_bytes hfind hb, State.tilesDue_none]
      rw [hempty]; rfl
    obtain ⟨hws', hempty'⟩ := State.ws_of_cores ((State.cores_answer _ m 0 ((f.num + 1) % 2 ^ 32) 0).trans
      ((State.nextPhase_cores _ d w.job ⟨f.num + 1, rest⟩).trans (State.cores_onJobRegions State.cores_equinoxRest (v.tilesWritten d w bs) d w.job))) d
    exact ⟨_, hnext (State.phaseBoundary_over hp ho hdue), hws'.trans hws, hempty'.trans hempty⟩
  · subst hj
    have hfind : ((v.die d).pwsw.find? fun x => x.job == w.job) = some w := by rw [hv]; simp
    exact hnext (State.phaseBoundary_over hp ho (State.tilesDue_wait hfind hu _))

/-- Settles O38: a stuck head's fault is one `takeFault`, a cohort and an equinox change their region and answer, and the steps of a boundary keep the
weight store that the queued write leaves. -/
theorem processionRules : Obligations.ProcessionRules := ⟨stuckStripesFault, cohortsEnter, equinoxesCount, phasesEnd⟩

end Sys2Proof.Machine

/-! PROOFS. The swap of a stripe, and stateful stages (01 R37; 05 R187-R194; 07 R261). -/

namespace Sys2Proof.Machine

/-! ### Stateful stages -/

theorem State.stateSave_none {s : State} {p : StripeAt} (h : (s.ring p.ring).regionOf p.stripe.val = none) : s.stateSave p = s := by
  unfold State.stateSave; rw [h]

theorem State.stateRestore_none {s : State} {p : StripeAt} (h : (s.ring p.ring).regionOf p.stripe.val = none) : s.stateRestore p = s := by
  unfold State.stateRestore; rw [h]

/-- A stripe saves its stateful elements now. -/
def State.savesNow (s : State) (p : StripeAt) (g : Region) : Prop :=
  let st := s.stripe p
  st.active.isSome = true ∧ (st.conf false).stateful ≠ 0 ∧ st.saved = false ∧ s.goneLaunch (st.conf false).launch = false ∧
    s.due_ p.ring g (g.indexOf p.stripe.val) = true ∧ s.d2 p = true ∧ s.d3 p false = true ∧ s.d4 p false = true ∧ s.d6 p false = true ∧
    (s.ring p.ring).occupied = false

section Save
variable {s : State} {p : StripeAt} {g : Region} (hg : (s.ring p.ring).regionOf p.stripe.val = some g)
include hg

theorem State.stateSave_of_not (h : ¬s.savesNow p g) : s.stateSave p = s := by
  unfold State.stateSave
  rw [hg]
  exact if_neg fun hs => h (by simpa only [State.savesNow, Bool.not_eq_true'] using hs)

theorem State.stateSave_of (h : s.savesNow p g) : s.stateSave p = s.saveStripe p := by
  unfold State.stateSave
  rw [hg]
  exact if_pos (by simpa only [State.savesNow, Bool.not_eq_true'] using h)

end Save

/-- The entry of a number in a list that names each once. -/
theorem tabFind_map_of_mem {α : Type} (f : Nat → α) {ns : List Nat} {n : Nat} : tabFind n (ns.map fun k => (k, f k)) = if n ∈ ns then some (f n) else none := by
  induction ns with
  | nil => rfl
  | cons k ks ih =>
    show (if k = n then some (f k) else tabFind n (ks.map fun k => (k, f k))) = _
    by_cases h : k = n
    · subst h; simp
    · rw [if_neg h, ih]
      simp [List.mem_cons, Ne.symm h]

/-- A record holds the elements of its stripe that are named. -/
theorem State.takeRecord_elems (s : State) (p : StripeAt) (which : BitVec 16) (b k : Nat) (n : Fin 16) :
    tabFind n.val (s.takeRecord p which b k).elems = if which.getLsbD n.val then some (s.elem ⟨p, n⟩).saved else none := by
  unfold State.takeRecord
  dsimp only
  rw [tabFind_map_of_mem fun n => (s.elem ⟨p, Fin.ofNat 16 n⟩).saved]
  have hn : Fin.ofNat 16 n.val = n := Fin.ext (Nat.mod_eq_of_lt n.isLt)
  rw [hn]
  simp [List.mem_filter]

theorem State.stripe_onStripe (s : State) (p : StripeAt) (f : Stripe → Stripe) : (s.onStripe p f).stripe p = f (s.stripe p) := State.stripe_setStripe ..

theorem State.die_onStripe (s : State) (p : StripeAt) (f : Stripe → Stripe) (d : Fin 4) : (s.onStripe p f).die d = s.die d := rfl

theorem State.stripe_onDie (s : State) (d : Fin 4) (f : Die → Die) (p : StripeAt) : (s.onDie d f).stripe p = s.stripe p := rfl

/-- What a save writes: the record, and that the stripe is saved. -/
theorem State.saveStripe_saves (s : State) (p : StripeAt) :
    let c := (s.stripe p).conf false
    let place := tabGet (0, 0) c.stage.toNat (s.launch c.launch).saveAt
    ((s.saveStripe p).stripe p).saved = true ∧ s.takeRecord p c.stateful place.1 place.2 ∈ ((s.saveStripe p).die p.ring.die).saves := by
  unfold State.saveStripe
  dsimp only
  refine ⟨by rw [State.stripe_onStripe], ?_⟩
  rw [State.die_onStripe, State.die_onDie]
  exact List.mem_append_right _ (List.mem_singleton.2 rfl)

/-- The record of a stage stands in its stripe, its bindings under the entries that the scale file gave. -/
def State.takeBack (s : State) (p : StripeAt) (l stage : Nat) (v : SaveRec) (k : Scl) (m : List (Nat × BitVec 5 × Nat × BitVec 5)) : State :=
  ((s.onRing p.ring fun x => { x with scl := k }).onStripe p fun st =>
    { st with restored := some (v.mapAll (fun t => { t with body := rebindReg k m t.body }) (rebindReg k m)) }).onDie p.ring.die fun y =>
      { y with saves := y.saves.filter fun w => !(w.launch == l && w.stage.toNat == stage) }

theorem State.takeBack_ring (s : State) (p : StripeAt) (l stage : Nat) (v : SaveRec) (k : Scl) (m : List (Nat × BitVec 5 × Nat × BitVec 5)) :
    ((s.takeBack p l stage v k m).ring p.ring).scl = k :=
  congrArg Ring.scl (State.ring_onRing s p.ring fun x => { x with scl := k })

theorem State.takeBack_stripe (s : State) (p : StripeAt) (l stage : Nat) (v : SaveRec) (k : Scl) (m : List (Nat × BitVec 5 × Nat × BitVec 5)) :
    ((s.takeBack p l stage v k m).stripe p).restored =
      some (v.mapAll (fun t => { t with body := rebindReg k m t.body }) (rebindReg k m)) := by
  rw [State.takeBack, State.stripe_onDie, State.stripe_onStripe]

theorem State.takeBack_saves (s : State) (p : StripeAt) (l stage : Nat) (v : SaveRec) (k : Scl) (m : List (Nat × BitVec 5 × Nat × BitVec 5)) :
    ∀ w ∈ ((s.takeBack p l stage v k m).die p.ring.die).saves, w.launch = l → w.stage.toNat ≠ stage := by
  intro w hw hl hs
  rw [State.takeBack, State.die_onDie] at hw
  have hmine := (List.mem_filter.1 hw).2
  simp [hl, hs] at hmine

section Restore
variable {s : State} {p : StripeAt} {g : Region} (hg : (s.ring p.ring).regionOf p.stripe.val = some g)
include hg

theorem State.stateRestore_no_stage (h : ∀ l n, g.next s p.ring (g.indexOf p.stripe.val) ≠ some (some (l, n))) : s.stateRestore p = s := by
  unfold State.stateRestore
  rw [hg]
  dsimp only
  split
  case _ l n hn => exact absurd hn (h l n)
  · rfl

variable {l stage : Nat} (hw : g.next s p.ring (g.indexOf p.stripe.val) = some (some (l, stage)))
include hw

theorem State.stateRestore_no_record (h : s.recordOf p.ring.die l stage = none) : s.stateRestore p = s := by
  unfold State.stateRestore
  rw [hg]
  dsimp only
  rw [hw]
  dsimp only
  rw [h]

variable {v : SaveRec} (hv : s.recordOf p.ring.die l stage = some v)
include hv

theorem State.stateRestore_unready (h : ¬(s.shadowOk p = true ∧ (s.stripe p).restored = none)) : s.stateRestore p = s := by
  unfold State.stateRestore
  rw [hg]
  dsimp only
  rw [hw]
  dsimp only
  rw [hv]
  dsimp only
  refine if_pos ?_
  by_contra hn
  simp only [not_or, Bool.not_eq_true', Bool.not_eq_false, Bool.not_eq_true, Option.isSome_eq_false_iff,
    Option.isNone_iff_eq_none] at hn
  exact h hn

variable (hr : s.shadowOk p = true ∧ (s.stripe p).restored = none)
include hr

theorem State.stateRestore_ready :
    s.stateRestore p =
      (let j := tabGet Job.zero g.pasid.toNat s.jobs
       if s.altered (recordAt j v.block) (65536 * v.blocks) then
         s.takeFault p.ring.die (some p.ring.ring) (s.launchQueue l) 0 ⟨0x72, 6, 1, 65536 * v.block⟩
           (s.stripeSite p 0 0 false 2 (.ofNat 16 stage) g.pasid g.ctx none)
       else match rebindAll g.ctx v.scales (s.ring p.ring).scl [] with
         | none => s
         | some (c, m) => s.takeBack p l stage v c m) := by
  unfold State.stateRestore
  rw [hg]
  dsimp only
  rw [hw]
  dsimp only
  rw [hv]
  dsimp only
  rw [if_neg (by simp [hr.1, hr.2])]
  rfl

end Restore

theorem statefulStages : Claim.StatefulStages := by
  intro s p st c d region
  refine ⟨fun h => ⟨congrArg Host.Outcome.next (State.stateSave_none h), congrArg Host.Outcome.next (State.stateRestore_none h)⟩, fun g hg => ?_⟩
  have hsave {t : State} (h : s.stateSave p = t) : exec (.stateSave p) s = .next t := congrArg Host.Outcome.next h
  have hrestore {t : State} (h : s.stateRestore p = t) : exec (.stateRestore p) s = .next t := congrArg Host.Outcome.next h
  refine ⟨fun h => hsave (State.stateSave_of_not hg h), fun h => ?_, fun h => hrestore (State.stateRestore_no_stage hg h), fun l stage hw => ?_⟩
  · obtain ⟨hsaved, hmem⟩ := State.saveStripe_saves s p
    exact ⟨s.saveStripe p, _, hsave (State.stateSave_of hg h), hsaved, hmem, rfl, rfl, fun n => State.takeRecord_elems s p _ _ _ n, rfl⟩
  · refine ⟨fun h => hrestore ?_, fun v hv hr => ⟨fun ha => ?_, fun ha => ⟨fun hb => ?_, fun k m hb => ?_⟩⟩⟩
    · cases hv : s.recordOf d l stage with
      | none => exact State.stateRestore_no_record hg hw hv
      | some v => exact State.stateRestore_unready hg hw hv (h.resolve_left (by simp [hv]))
    · refine ⟨_, hrestore ((State.stateRestore_ready hg hw hv hr).trans (if_pos ha)), State.takeFault_records ..⟩
    · refine hrestore ((State.stateRestore_ready hg hw hv hr).trans ((if_neg (by simp [ha])).trans ?_))
      rw [hb]
    · have hback := (State.stateRestore_ready hg hw hv hr).trans (if_neg (by simp [ha]))
      rw [hb] at hback
      exact ⟨s.takeBack p l stage v k m, hrestore hback, State.takeBack_ring .., State.takeBack_stripe ..,
        State.takeBack_saves s p l stage v k m⟩

/-! ### The schedule changes its ring alone -/

/-- What no change of a ring touches, planning the waves of a ring leaves. -/
theorem State.planRing_keeps {α : Type} (p : State → α) (h : ∀ (t : State) r f, p (t.onRing r f) = p t) (s : State) (r : RingAt) :
    p (s.planRing r) = p s := by
  refine foldl_keeps p (fun t g => t.planRegion r g) (fun t g => ?_) _ _
  unfold State.planRegion
  dsimp only
  split
  · split
    · exact h _ _ _
    · rfl
  · split
    · exact h _ _ _
    · rfl

/-- Planning changes the regions of its ring. -/
theorem State.planRing_ring_keeps {α : Type} (p : Ring → α) (h : ∀ y t, p { y with regions := t } = p y) (s : State) (r : RingAt) :
    p ((s.planRing r).ring r) = p (s.ring r) := by
  have hon (t : State) (q : Fin 8) (f : Region → Region) : p ((t.onRegion r q f).ring r) = p (t.ring r) := State.onRing_keeps p t r (fun _ => h _ _) r
  refine foldl_keeps (fun t : State => p (t.ring r)) (fun t g => t.planRegion r g) (fun t g => ?_) _ _
  unfold State.planRegion
  dsimp only
  split
  · split
    · exact hon _ _ _
    · rfl
  · split
    · exact hon _ _ _
    · rfl

/-- The schedule of a ring brought up to date. -/
def State.refresh (s : State) (r : RingAt) : State := (s.planRing r).schedule r

theorem State.refresh_keeps {α : Type} (p : State → α) (h : ∀ (t : State) r f, p (t.onRing r f) = p t) (s : State) (r : RingAt) :
    p (s.refresh r) = p s := by
  unfold State.refresh State.schedule
  exact (h _ _ _).trans (State.planRing_keeps p h s r)

theorem State.refresh_lastSwap (s : State) (r : RingAt) : ((s.refresh r).ring r).lastSwap = (s.ring r).lastSwap :=
  (State.onRing_keeps Ring.lastSwap _ r (by intros; rfl) r).trans (State.planRing_ring_keeps Ring.lastSwap (by intros; rfl) s r)

theorem State.stripeSwap_eq (s : State) (r : RingAt) :
    s.stripeSwap r = match (s.refresh r).headOf r with
      | none => s.refresh r
      | some (g, p) =>
        if ((s.refresh r).ring r).scrolls && ((s.refresh r).ring r).lastSwap != (s.refresh r).fc + 1 && (s.refresh r).drained g p then
          ((s.refresh r).swapStripe r g (g.indexOf p.stripe.val)).refresh r
        else (s.refresh r).noteLate r := rfl

/-! ### A head that stays -/

theorem State.noteLate_keeps {α : Type} (p : State → α) (h : ∀ (t : State) r f, p (t.onRing r f) = p t) (s : State) (r : RingAt) :
    p (s.noteLate r) = p s := by
  unfold State.noteLate
  split
  · rfl
  · split
    · split
      · rfl
      · exact h _ _ _
    · rfl

theorem State.noteLate_schedule (s : State) (r : RingAt) : ((s.noteLate r).ring r).schedule = (s.ring r).schedule := by
  unfold State.noteLate
  split
  · rfl
  · split
    · split
      · rfl
      · exact State.onRing_keeps Ring.schedule _ r (by intros; rfl) r
    · rfl

/-- The head is the first stripe of the schedule, in its region. -/
theorem State.headOf_some {s : State} {r : RingAt} {g : Region} {p : StripeAt} (h : s.headOf r = some (g, p)) :
    ∃ ns, (s.ring r).schedule = p.stripe :: ns ∧ (s.ring r).regionOf p.stripe.val = some g ∧ p = ⟨r, p.stripe⟩ := by
  unfold State.headOf at h
  split at h
  · cases h
  · rename_i n ns hs
    obtain ⟨k, hk, he⟩ := Option.map_eq_some_iff.1 h
    cases he
    exact ⟨ns, hs, hk, rfl⟩

theorem State.noteLate_late {s : State} {r : RingAt} {g : Region} {p : StripeAt} (h : s.headOf r = some (g, p)) (hd : s.drained g p = false) :
    ((s.noteLate r).ring r).late = some p.stripe := by
  obtain ⟨ns, hs, hg, hp⟩ := State.headOf_some h
  unfold State.noteLate
  rw [hs]
  dsimp only
  rw [hg]
  dsimp only
  rw [← hp, hd, if_neg (by decide), State.ring_onRing]

/-! ### Elements changed in turn -/

theorem State.onElems_elem (s : State) {es : List ElemAt} (hes : es.Nodup) (f : ElemAt → Elem → Elem) (e : ElemAt) :
    (s.onElems es f).elem e = if e ∈ es then f e (s.elem e) else s.elem e := by
  induction es generalizing s with
  | nil => rfl
  | cons a as ih =>
    show ((s.setElem a (f a (s.elem a))).onElems as f).elem e = _
    rw [ih _ hes.of_cons]
    by_cases h : e = a
    · subst h
      rw [if_neg (List.nodup_cons.1 hes).1, State.elem_setElem, if_pos (List.mem_cons_self ..)]
    · rw [State.elem_setElem_ne h]
      simp [List.mem_cons, h]

theorem elemsOf_nodup (p : StripeAt) : (elemsOf p).Nodup := by
  refine List.Nodup.map_on (fun a ha b hb h => ?_) List.nodup_range
  have hv : (Fin.ofNat 16 a).val = (Fin.ofNat 16 b).val := congrArg (fun e => e.slot.val) h
  simpa [Fin.ofNat, Nat.mod_eq_of_lt (List.mem_range.1 ha), Nat.mod_eq_of_lt (List.mem_range.1 hb)] using hv

theorem mem_elemsOf (p : StripeAt) (n : Fin 16) : (⟨p, n⟩ : ElemAt) ∈ elemsOf p :=
  List.mem_map.2 ⟨n.val, List.mem_range.2 n.isLt, congrArg (ElemAt.mk p) (Fin.ext (Nat.mod_eq_of_lt n.isLt))⟩

/-! ### The steps of a swap -/

/-- The leaving stateful elements of a stripe are saved, and their entries leave the scale file. -/
def State.leaveStripe (s : State) (r : RingAt) (p : StripeAt) : State :=
  let st := s.stripe p
  let old := st.conf false
  let leaving := st.active.isSome && decide (old.stateful ≠ 0) && !s.goneLaunch old.launch
  let s := if leaving then s.saveStripe p else s
  match leaving, s.recordOf r.die old.launch old.stage.toNat with
  | true, some v =>
    s.onRing r fun x => { x with scl := x.scl.leave v.scales (s.otherBodies r ((elemsOf p).filter fun e => old.stateful.getLsbD e.slot.val) []) }
  | _, _ => s

theorem State.leaveStripe_keeps {α : Type} (q : State → α) (h : ∀ (t : State) r f, q (t.onRing r f) = q t) (hs : ∀ (t : State) p, q (t.saveStripe p) = q t)
    (s : State) (r : RingAt) (p : StripeAt) : q (s.leaveStripe r p) = q s := by
  have hsave (b : Bool) : q (if b then s.saveStripe p else s) = q s := by
    split
    · exact hs _ _
    · rfl
  unfold State.leaveStripe
  dsimp only
  split
  · exact (h _ _ _).trans (hsave _)
  · exact hsave _

theorem State.leaveStripe_launch (s : State) (r : RingAt) (p : StripeAt) (l : Nat) : (s.leaveStripe r p).launch l = s.launch l := by
  refine State.leaveStripe_keeps (fun t => t.launch l) (by intros; rfl) (fun t p => State.launch_of_launches (fun e => ?_) l) s r p
  unfold State.saveStripe
  dsimp only
  rw [State.die_onStripe]
  exact State.onDie_keeps Die.launches (s := t.sealArea _ _) rfl e

/-- The planes of a stripe's elements, and its configurations, swapped. -/
def State.swapPlanes (s : State) (r : RingAt) (p : StripeAt) : State :=
  let st := s.stripe p
  let s := s.leaveStripe r p
  let s := s.onElems ((elemsOf p).filter fun e => (tabFind e.key s.elems).isSome) fun e x =>
    x.swap (st.restored.bind fun v => tabFind e.slot.val v.elems)
  s.onStripe p fun x =>
    { x with
      active := st.shadow, shadow := none, shadowReady := false, par := !st.par, eosSeen := [], swaps := st.swaps + 1, saved := false,
      restored := none }

theorem State.reportSwap_keeps {α : Type} (q : State → α) (h : ∀ (t : State) d f, q (t.onDie d f) = q t) (s : State) (r : RingAt) (g : Region)
    (i n : Nat) : q (s.reportSwap r g i n) = q s := by
  unfold State.reportSwap
  split
  · rfl
  · dsimp only
    split
    · split
      · unfold State.sendSlot
        split
        · rfl
        · exact h _ _ _
      · rfl
    · rfl

section Swap
variable (s : State) (r : RingAt) (g : Region) (i : Nat)

/-- After the planes and the arguments, a swap touches rings and links only. -/
theorem State.swapStripe_keeps {α : Type} (q : State → α) (hr : ∀ (t : State) r f, q (t.onRing r f) = q t)
    (hd : ∀ (t : State) d f, q (t.onDie d f) = q t) :
    q (s.swapStripe r g i) = q ((s.swapPlanes r (regionStripe r g.page i)).giveArgs (regionStripe r g.page i) false) := by
  unfold State.swapStripe
  refine (State.reportSwap_keeps q hd _ _ _ _ _).trans ((hr _ _ _).trans ?_)
  split
  · exact hr _ _ _
  · rfl

theorem State.giveArgs_keeps {α : Type} (q : State → α) (h : ∀ (t : State) e f, q (t.onElem e f) = q t) (p : StripeAt) (ical : Bool) :
    q (s.giveArgs p ical) = q s := by
  unfold State.giveArgs
  dsimp only
  split
  · refine foldl_keeps q _ (fun t n => ?_) _ _
    split
    · exact h _ _ _
    · rfl
  · rfl

theorem State.swapPlanes_fc (p : StripeAt) : (s.swapPlanes r p).fc = s.fc :=
  (foldl_keeps State.fc _ (by intros; rfl) _ _).trans (State.leaveStripe_keeps State.fc (by intros; rfl) (by intros; rfl) s r p)

theorem State.swapPlanes_launch (p : StripeAt) (l : Nat) : (s.swapPlanes r p).launch l = s.launch l := by
  have hdies : (s.swapPlanes r p).dies = (s.leaveStripe r p).dies := State.onElems_dies ..
  exact (State.launch_of_launches (fun e => by simp only [State.die, hdies]) l).trans (State.leaveStripe_launch s r p l)

theorem State.swapStripe_lastSwap : ((s.swapStripe r g i).ring r).lastSwap = s.fc + 1 := by
  unfold State.swapStripe
  refine (State.reportSwap_keeps (fun t : State => (t.ring r).lastSwap) (by intros; rfl) _ _ _ _ _).trans ?_
  rw [State.ring_onRing]
  have hfc : ((s.swapPlanes r (regionStripe r g.page i)).giveArgs (regionStripe r g.page i) false).fc = s.fc :=
    (State.giveArgs_keeps _ State.fc (by intros; rfl) _ _).trans (State.swapPlanes_fc s r _)
  refine congrArg (· + 1) (Eq.trans ?_ hfc)
  split
  · rfl
  · rfl

end Swap

/-! ### What a swap leaves in the stripe and its elements -/

theorem State.swapPlanes_stripe (s : State) (r : RingAt) (p : StripeAt) :
    let x := (s.swapPlanes r p).stripe p
    x.active = (s.stripe p).shadow ∧ x.shadow = none ∧ x.shadowReady = false ∧ x.par = !(s.stripe p).par ∧ x.swaps = (s.stripe p).swaps + 1 := by
  unfold State.swapPlanes
  dsimp only
  rw [State.stripe_onStripe]
  exact ⟨rfl, rfl, rfl, rfl, rfl⟩

theorem State.swapPlanes_elem (s : State) (r : RingAt) (p : StripeAt) (n : Fin 16) :
    (s.swapPlanes r p).elem ⟨p, n⟩ =
      if (tabFind (⟨p, n⟩ : ElemAt).key s.elems).isSome then (s.elem ⟨p, n⟩).swap ((s.stripe p).restored.bind fun v => tabFind n.val v.elems)
      else s.elem ⟨p, n⟩ := by
  have hkeep : (s.leaveStripe r p).elems = s.elems := State.leaveStripe_keeps State.elems (by intros; rfl) (by intros; rfl) s r p
  unfold State.swapPlanes
  show (State.onElems _ _ _).elem _ = _
  rw [State.onElems_elem _ ((elemsOf_nodup p).filter _), State.elem_of_elems hkeep, hkeep]
  refine if_congr ?_ rfl rfl
  simp [List.mem_filter, mem_elemsOf]

/-- The argument block enters d7 of one element, when the configuration has it. -/
def State.giveArg (p : StripeAt) (ical : Bool) (c : Cfg) (s : State) (n : Nat) : State :=
  if c.present.getLsbD n then
    s.onElem ⟨p, Fin.ofNat 16 n⟩ fun x => x.setPlane ical { x.plane ical with d := (x.plane ical).d.set 7 (argReg (s.launch c.launch).args) }
  else s

theorem State.giveArg_elem_ne {p : StripeAt} {n : Fin 16} {k : Nat} (h : n.val ≠ k % 16) (ical : Bool) (c : Cfg) (s : State) :
    (State.giveArg p ical c s k).elem ⟨p, n⟩ = s.elem ⟨p, n⟩ := by
  unfold State.giveArg
  split
  · exact State.elem_onElem_ne (fun he => h (congrArg (fun e => e.slot.val) he)) _ _
  · rfl

theorem State.giveArg_elem {p : StripeAt} {n : Fin 16} (ical : Bool) {c : Cfg} (hc : c.present.getLsbD n.val = true) (s : State) :
    (State.giveArg p ical c s n.val).elem ⟨p, n⟩ =
      (s.elem ⟨p, n⟩).setPlane ical
        { (s.elem ⟨p, n⟩).plane ical with d := ((s.elem ⟨p, n⟩).plane ical).d.set 7 (argReg (s.launch c.launch).args) } := by
  have hn : Fin.ofNat 16 n.val = n := Fin.ext (Nat.mod_eq_of_lt n.isLt)
  unfold State.giveArg
  rw [if_pos hc, hn, State.elem_onElem]

theorem State.giveArg_elem_absent {p : StripeAt} {k : Nat} (ical : Bool) {c : Cfg} (hc : ¬c.present.getLsbD k = true) (s : State) :
    State.giveArg p ical c s k = s := if_neg hc

theorem State.giveArg_launch (p : StripeAt) (ical : Bool) (c : Cfg) (s : State) (k l : Nat) : (State.giveArg p ical c s k).launch l = s.launch l := by
  unfold State.giveArg
  split <;> rfl

theorem State.giveArgs_eq {s : State} {p : StripeAt} {c : Cfg} (h : (s.stripe p).active = some c) :
    s.giveArgs p false = if c.stage = 0 then State.giveArg p false c (State.giveArg p false c s 14) 15 else s := by
  have hc : (s.stripe p).conf false = c := by simp [Stripe.conf, Stripe.cfg, h]
  have hs : ((s.stripe p).cfg false).isSome := by simp [Stripe.cfg, h]
  unfold State.giveArgs
  dsimp only
  rw [hc]
  simp only [hs, and_true]
  rfl

/-- The element of a stripe takes the argument block when its stripe holds stage 0 and the element is a J-element that is present. -/
def State.takesArgs (s : State) (p : StripeAt) (n : Fin 16) : Prop :=
  ∃ c, (s.stripe p).active = some c ∧ c.stage = 0 ∧ 14 ≤ n.val ∧ c.present.getLsbD n.val = true

section Args
variable {s : State} {p : StripeAt} {n : Fin 16}

theorem State.giveArgs_elem {c : Cfg} (h : (s.stripe p).active = some c) (h0 : c.stage = 0) (hn : 14 ≤ n.val) (hp : c.present.getLsbD n.val = true) :
    (s.giveArgs p false).elem ⟨p, n⟩ =
      (s.elem ⟨p, n⟩).setPlane false
        { (s.elem ⟨p, n⟩).plane false with d := ((s.elem ⟨p, n⟩).plane false).d.set 7 (argReg (s.launch c.launch).args) } := by
  rw [State.giveArgs_eq h, if_pos h0]
  rcases (show n.val = 14 ∨ n.val = 15 by omega) with h14 | h15
  · rw [State.giveArg_elem_ne (by omega), ← h14, State.giveArg_elem false hp]
  · rw [← h15, State.giveArg_elem false hp, State.giveArg_elem_ne (by omega), State.giveArg_launch]

/-- The active plane of an element that takes the arguments, and its queues. -/
theorem State.giveArgs_active {c : Cfg} (h : (s.stripe p).active = some c) (h0 : c.stage = 0) (hn : 14 ≤ n.val) (hp : c.present.getLsbD n.val = true) :
    ((s.giveArgs p false).elem ⟨p, n⟩).active =
        { (s.elem ⟨p, n⟩).active with d := (s.elem ⟨p, n⟩).active.d.set 7 (argReg (s.launch c.launch).args) } ∧
      ((s.giveArgs p false).elem ⟨p, n⟩).inq = (s.elem ⟨p, n⟩).inq := by
  rw [State.giveArgs_elem h h0 hn hp]
  exact ⟨rfl, rfl⟩

theorem State.giveArgs_elem_of_not (h : ¬s.takesArgs p n) : (s.giveArgs p false).elem ⟨p, n⟩ = s.elem ⟨p, n⟩ := by
  cases ha : (s.stripe p).active with
  | none =>
    unfold State.giveArgs
    dsimp only
    rw [if_neg (by simp [Stripe.cfg, ha])]
  | some c =>
    rw [State.giveArgs_eq ha]
    split
    case _ h0 =>
      have habsent (hn : 14 ≤ n.val) : ¬c.present.getLsbD n.val = true := fun hp => h ⟨c, ha, h0, hn, hp⟩
      rcases (show n.val < 14 ∨ n.val = 14 ∨ n.val = 15 by omega) with hn | hn | hn
      · rw [State.giveArg_elem_ne (by omega), State.giveArg_elem_ne (by omega)]
      · rw [State.giveArg_elem_ne (by omega), State.giveArg_elem_absent false (hn ▸ habsent hn.ge)]
      · rw [State.giveArg_elem_absent (k := 15) false (hn ▸ habsent (by omega)), State.giveArg_elem_ne (by omega)]
    · rfl

end Args

/-- The active plane that an element has after a swap. -/
def Elem.swappedPlane (x : Elem) (saved : Option Elem) : Plane :=
  match saved with
  | none => x.shadow
  | some y => { y.active with iw := x.shadow.iw, tw := x.shadow.tw, k := x.shadow.k, hdr := x.shadow.hdr }

theorem Elem.swap_active (x : Elem) (saved : Option Elem) : (x.swap saved).active = x.swappedPlane saved := by cases saved <;> rfl

theorem Elem.swap_inq (x y : Elem) : (x.swap (some y)).inq = y.inq := rfl

/-- An element that the state does not list is as at reset: its planes are alike. -/
theorem State.elem_unlisted {s : State} {e : ElemAt} (h : ¬(tabFind e.key s.elems).isSome = true) : (s.elem e).active = (s.elem e).shadow := by
  unfold State.elem tabGet
  rw [Option.not_isSome_iff_eq_none.1 h]
  rfl

/-- The active plane after the planes are exchanged, of a listed element or of one without saved state. -/
theorem State.swapPlanes_elem_active {s : State} (r : RingAt) {p : StripeAt} {n : Fin 16} {saved : Option Elem}
    (hsaved : (s.stripe p).restored.bind (fun v => tabFind n.val v.elems) = saved)
    (h : saved = none ∨ (tabFind (⟨p, n⟩ : ElemAt).key s.elems).isSome = true) :
    ((s.swapPlanes r p).elem ⟨p, n⟩).active = (s.elem ⟨p, n⟩).swappedPlane saved ∧
      ∀ y, saved = some y → ((s.swapPlanes r p).elem ⟨p, n⟩).inq = y.inq := by
  rw [State.swapPlanes_elem, hsaved]
  split
  case _ hl => exact ⟨Elem.swap_active _ _, fun y hy => by rw [hy, Elem.swap_inq]⟩
  case _ hl =>
    have hnone : saved = none := h.resolve_right hl
    subst hnone
    exact ⟨State.elem_unlisted hl, by intro y hy; cases hy⟩

theorem regionStripe_indexOf (r : RingAt) (g : Region) (p : Fin 32) : regionStripe r g.page (g.indexOf p.val) = ⟨r, p⟩ := by
  unfold regionStripe Region.indexOf
  congr 1
  refine Fin.ext ?_
  simp only [Fin.ofNat]
  omega

/-- A drained head swaps. -/
theorem State.stripeSwap_swaps {s : State} {r : RingAt} {g : Region} {p : StripeAt} (h : (s.refresh r).headOf r = some (g, p))
    (hs : ((s.refresh r).ring r).scrolls = true ∧ ((s.refresh r).ring r).lastSwap ≠ (s.refresh r).fc + 1 ∧ (s.refresh r).drained g p = true) :
    s.stripeSwap r = ((s.refresh r).swapStripe r g (g.indexOf p.stripe.val)).refresh r := by
  rw [State.stripeSwap_eq, h]
  exact if_pos (by simp [hs.1, hs.2.1, hs.2.2])

theorem State.stripeSwap_stays {s : State} {r : RingAt} {g : Region} {p : StripeAt} (h : (s.refresh r).headOf r = some (g, p))
    (hs : ¬(((s.refresh r).ring r).scrolls = true ∧ ((s.refresh r).ring r).lastSwap ≠ (s.refresh r).fc + 1 ∧ (s.refresh r).drained g p = true)) :
    s.stripeSwap r = (s.refresh r).noteLate r := by
  rw [State.stripeSwap_eq, h]
  exact if_neg fun hn => hs (by simpa [and_assoc] using hn)

theorem stripesSwap : Claim.StripesSwap := by
  intro s r u
  have hfc : u.fc = s.fc := State.refresh_keeps State.fc (by intros; rfl) s r
  have hlaunch (l : Nat) : u.launch l = s.launch l := State.refresh_keeps (fun t => t.launch l) (by intros; rfl) s r
  refine ⟨fun h => ?_, fun g p h => ⟨fun hc => ?_, fun hc => ?_⟩⟩
  · refine congrArg Host.Outcome.next ((State.stripeSwap_eq s r).trans ?_)
    rw [show (s.refresh r).headOf r = none from h]
    rfl
  · refine ⟨u.noteLate r, congrArg Host.Outcome.next (State.stripeSwap_stays h (hfc.symm ▸ hc)), State.noteLate_keeps State.stripes (by intros; rfl) u r,
      State.noteLate_keeps State.elems (by intros; rfl) u r, State.noteLate_schedule u r, fun hd => State.noteLate_late h hd⟩
  · obtain ⟨-, -, -, hp⟩ := State.headOf_some h
    have hat : regionStripe r g.page (g.indexOf p.stripe.val) = p := (regionStripe_indexOf r g p.stripe).trans hp.symm
    let v := u.swapPlanes r p
    let t := (u.swapStripe r g (g.indexOf p.stripe.val)).refresh r
    have hkeep {α : Type} (q : State → α) (hr : ∀ (t : State) r f, q (t.onRing r f) = q t) (hd : ∀ (t : State) d f, q (t.onDie d f) = q t) :
        q t = q (v.giveArgs p false) :=
      (State.refresh_keeps q hr _ r).trans ((State.swapStripe_keeps u r g _ q hr hd).trans (by rw [hat]))
    have hstripe : t.stripe p = v.stripe p :=
      (hkeep (fun x => x.stripe p) (by intros; rfl) (by intros; rfl)).trans (State.giveArgs_keeps v (fun x => x.stripe p) (by intros; rfl) p false)
    have helem (n : Fin 16) : t.elem ⟨p, n⟩ = (v.giveArgs p false).elem ⟨p, n⟩ := hkeep (fun x => x.elem ⟨p, n⟩) (by intros; rfl) (by intros; rfl)
    obtain ⟨hactive, hshadow, hready, hpar, hswaps⟩ := State.swapPlanes_stripe u r p
    refine ⟨t, congrArg Host.Outcome.next (State.stripeSwap_swaps h (hfc.symm ▸ hc)), ?_, ?_, ?_, ?_, ?_, ?_, fun n => ?_⟩
    · rw [hstripe]; exact hactive
    · rw [hstripe]; exact hshadow
    · rw [hstripe]; exact hready
    · rw [hstripe]; exact hpar
    · rw [hstripe]; exact hswaps
    · exact (State.refresh_lastSwap _ r).trans ((State.swapStripe_lastSwap u r g _).trans (by rw [hfc]))
    · intro was saved plane args hl
      have hargs : args ↔ v.takesArgs p n := by unfold State.takesArgs; rw [hactive]
      obtain ⟨hplane, hinq⟩ := State.swapPlanes_elem_active r (saved := saved) rfl hl
      have hsame : was.swappedPlane saved = plane := rfl
      refine ⟨fun hn => ?_, fun c hc ha => ?_, fun y hy => ?_⟩
      · rw [helem, State.giveArgs_elem_of_not (hargs.not.1 hn)]
        exact hplane.trans hsame
      · obtain ⟨c', hc', h0, hn, hpres⟩ := ha
        cases hc.symm.trans hc'
        have hgiven := (State.giveArgs_active (s := v) (hactive.trans hc) h0 hn hpres).1
        rw [helem, hgiven, show v.launch c.launch = s.launch c.launch from (State.swapPlanes_launch u r p _).trans (hlaunch _),
          show (v.elem ⟨p, n⟩).active = plane from hplane.trans hsame]
      · rw [helem]
        by_cases ha : v.takesArgs p n
        · obtain ⟨c, hc, h0, hn, hpres⟩ := ha
          exact (State.giveArgs_active hc h0 hn hpres).2.trans (hinq y hy)
        · rw [State.giveArgs_elem_of_not ha]
          exact hinq y hy

/-- Settles O37: a swap of the head is followed through its steps, each of which says what it leaves of the stripe's elements; a save and a restore are
one step each. -/
theorem stripesSwapAndSave : Obligations.StripesSwapAndSave := ⟨stripesSwap, statefulStages⟩

end Sys2Proof.Machine

/-! PROOFS. Answers reach their senders, and the messages that bind, read and close FIFOs and ports (05 R217; 13 R415-R418, R423, R428, R432-R435). -/

namespace Sys2Proof.Machine

/-! ### Replies leave in order (13 R435) -/

/-- Transfers that are not due stay, in order. -/
theorem sendReady_waiting {ts : List Transfer} (h : ∀ u ∈ ts, u.ready = none) (more : List Transfer) (blocked : List Msg) (s : State)
    (kept : List Transfer) :
    sendReady (ts ++ more) blocked s kept = sendReady more (blocked ++ ts.map Transfer.msg) s (kept ++ ts) := by
  induction ts generalizing blocked kept with
  | nil => simp
  | cons u us ih =>
    rw [List.cons_append, sendReady, h u (List.mem_cons_self ..)]
    dsimp only
    rw [ih fun v hv => h v (List.mem_cons_of_mem _ hv)]
    simp

theorem State.sendDue_transfers (s : State) (r : RingAt) : ((s.sendDue r).ring r).transfers = (sendReady (s.ring r).transfers [] s []).2 := by
  unfold State.sendDue
  dsimp only
  rw [State.ring_onRing]

/-- The list of transfers after one more is accepted, while none is due. -/
theorem State.push_transfers {s : State} {t : Transfer} (h : ∀ u ∈ (s.ring t.msg.ring).transfers, u.ready = none) :
    ∃ v : State, ((s.push t).ring t.msg.ring).transfers =
      (sendReady [t] ((s.ring t.msg.ring).transfers.map Transfer.msg) v (s.ring t.msg.ring).transfers).2 := by
  refine ⟨s.onRing t.msg.ring fun r => { r with transfers := r.transfers ++ [t] }, ?_⟩
  unfold State.push
  rw [State.sendDue_transfers, State.ring_onRing, sendReady_waiting h]
  rfl

theorem Msg.sameSender_comm (a b : Msg) : a.sameSender b = b.sameSender a := by
  unfold Msg.sameSender
  rw [BEq.comm (a := a.el), BEq.comm (a := a.plane)]

/-- Among transfers of which none is due no abandoned one holds an SABORT. -/
theorem Transfer.trails_of_waiting {ts : List Transfer} (h : ∀ u ∈ ts, u.ready = none) (t : Transfer) : t.trails ts = false := by
  unfold Transfer.trails
  rw [show (ts.any _) = false from List.any_eq_false.2 fun u hu => by simp [h u hu], Bool.and_false]

/-- One reply that is due waits behind a message of its sender, and leaves when there is none. -/
theorem sendReady_due {t : Transfer} {st a b : Nat} (ht : t.ready = some (st, a, b)) (blocked : List Msg) (s : State) {kept : List Transfer}
    (hk : ∀ u ∈ kept, u.ready = none) :
    (sendReady [t] blocked s kept).2 = if blocked.any t.msg.sameSender then kept ++ [t] else kept := by
  rw [sendReady, ht]
  dsimp only
  rw [Transfer.trails_of_waiting hk, Bool.or_false]
  split <;> rfl

theorem streamRepliesInOrder : Claim.StreamRepliesInOrder := by
  intro s t m status a b h ht hm
  have hreply (hr : ∀ u ∈ (s.ring m.ring).transfers, u.ready = none) :
      ((s.reply m status a b).ring m.ring).transfers =
        if ((s.ring m.ring).transfers.map Transfer.msg).any m.sameSender then
          (s.ring m.ring).transfers ++ [{ Transfer.of m with ready := some (status, a, b) }]
        else (s.ring m.ring).transfers := by
    obtain ⟨v, hv⟩ := State.push_transfers (t := { Transfer.of m with ready := some (status, a, b) }) hr
    exact hv.trans (sendReady_due rfl _ v hr)
  refine ⟨?_, fun ⟨u, hu, hs⟩ => ?_, fun hs => ?_⟩
  · obtain ⟨v, hv⟩ := State.push_transfers h
    rw [hv, sendReady, ht]
    rfl
  · rw [← hm] at h hu
    exact (hreply h).trans (if_pos (List.any_eq_true.2 ⟨u.msg, List.mem_map_of_mem hu, (Msg.sameSender_comm m u.msg).trans hs⟩))
  · rw [← hm] at h hs
    refine (hreply h).trans (if_neg ?_)
    rw [List.any_map, List.any_eq_true]
    rintro ⟨u, hu, he⟩
    rw [Function.comp_apply, Msg.sameSender_comm, hs u hu] at he
    cases he

/-! ### FIFOs and ports (13 R418, R423, R433) -/

/-- A condition that does not hold gives no refusal. -/
theorem firstOf_cons {c : Bool} (h : c = false) (n : Nat) (cs : List (Bool × Nat)) : firstOf ((c, n) :: cs) = firstOf cs := by
  subst h; rfl

theorem bits_lt (x hi lo : Nat) : bits x hi lo < 2 ^ (hi + 1 - lo) := Nat.mod_lt _ (Nat.two_pow_pos _)

theorem bits_eq_zero {x hi lo : Nat} (h : x < 2 ^ lo) : bits x hi lo = 0 := by
  unfold bits
  rw [Nat.div_eq_of_lt h, Nat.zero_mod]

theorem Msg.ownInst_of {m : Msg} (h : m.inst = m.ring.num) : m.ownInst = true := decide_eq_true h

/-- A FIFO number of a message is its low six bits. -/
theorem State.fifo_of_lt (s : State) (m : Msg) {f : Nat} (h : f < 64) : s.fifo m f = tabFind f (s.ring m.ring).fifos := by
  rw [State.fifo, Nat.mod_eq_of_lt h]

/-- The FIFO that SOPEN binds. -/
def sopenFifo (p : Params) (m : Msg) (x : SEnd) : Fifo :=
  ⟨m.launch, m.ctx, bit p.p0.toNat 8, false, .ofNat 12 (bits p.p0.toNat 27 16), bits p.p1.toNat 11 0 + 1, x.base + 64 * p.p2.toNat, [], 0⟩

/-- A state with a FIFO bound on the ring of a message. -/
def State.putFifo (s : State) (m : Msg) (f : Nat) (y : Fifo) : State := s.onRing m.ring fun r => { r with fifos := tabPut f y r.fifos }

theorem State.putFifo_fifo (s : State) (m : Msg) (f : Nat) (y : Fifo) : tabFind f ((s.putFifo m f y).ring m.ring).fifos = some y := by
  rw [State.putFifo, State.ring_onRing]
  exact tabFind_tabPut _ _ _

/-- The port that SINGRESS binds, in a cohort. -/
def singressPort (p : Params) (m : Msg) (cohort : Nat) : Port :=
  ⟨m.launch, bits p.p0.toNat 3 0, false, some (Fin.ofNat 64 (bits p.p0.toNat 13 8)), 0, [], 0, bits p.p0.toNat 27 16,
    Fin.ofNat 16 (bits p.p1.toNat 3 0), Fin.ofNat 8 (bits p.p1.toNat 6 4), 0, cohort⟩

/-- A state with a port bound on the ring of a message. -/
def State.putPort (s : State) (m : Msg) (k : Nat) (y : Port) : State := s.onRing m.ring fun r => { r with ports := tabPut k y r.ports }

theorem State.putPort_port (s : State) (m : Msg) (k : Nat) (y : Port) : tabFind k ((s.putPort m k y).ring m.ring).ports = some y := by
  rw [State.putPort, State.ring_onRing]
  exact tabFind_tabPut _ _ _

section Bind
variable {s : State} {p : Params} (hi : s.focus.msg.inst = s.focus.msg.ring.num)
include hi

theorem State.sopen_accepts {x : SEnd} (hx : s.mEnd s.focus.msg (bits p.p1.toNat 31 16) space1 (fun r => r.canRead && r.canWrite) = some x)
    (hr : s.mRange s.focus.msg (some x) (64 * p.p2.toNat) ((if bit p.p0.toNat 8 then 96 else 64) * (bits p.p1.toNat 11 0 + 1)) = true)
    (hv : x.res.vers = false) (h1 : bits p.p0.toNat 7 6 = 0) (h2 : bits p.p0.toNat 15 9 = 0) (h3 : bits p.p0.toNat 31 28 = 0)
    (h4 : bits p.p1.toNat 15 12 = 0) (h5 : p.p3 = 0) (hs : bit p.p0.toNat 8 = true ↔ bits p.p0.toNat 27 16 ≠ 0)
    (hf : tabFind (bits p.p0.toNat 5 0) (s.ring s.focus.msg.ring).fifos = none) :
    s.sopen p = State.reply (s.putFifo s.focus.msg (bits p.p0.toNat 5 0) (sopenFifo p s.focus.msg x)) s.focus.msg 0
      ((if bit p.p0.toNat 8 then 96 else 64) * (bits p.p1.toNat 11 0 + 1)) 0 := by
  have hkind : (bit p.p0.toNat 8 == decide (bits p.p0.toNat 27 16 = 0)) = false := by
    cases hb : bit p.p0.toNat 8 with
    | false => simpa [hb] using hs
    | true => simpa [hb] using hs
  have hfifo : s.fifo s.focus.msg (bits p.p0.toNat 5 0) = none := (State.fifo_of_lt s _ (bits_lt _ 5 0)).trans hf
  unfold State.sopen
  dsimp only
  rw [firstOf_cons (by rw [hx]; rfl), firstOf_cons (by rw [hx, hr]; rfl), firstOf_cons (by rw [hx]; exact hv),
    firstOf_cons (by simp [Msg.ownInst_of hi, h1, h2, h3, h4, h5, hkind]), firstOf_cons (by rw [hfifo]; rfl), hx]
  rfl

/-- The port of SINGRESS is free of its number and of an open port of its FIFO. -/
theorem State.singress_accepts (h0 : p.p0.toNat < 2 ^ 28) (h1 : bits p.p0.toNat 7 4 = 0) (h2 : bits p.p0.toNat 15 14 = 0) (h3 : p.p1.toNat < 2 ^ 7)
    (h4 : p.p2 = 0) (h5 : p.p3 = 0) {y : Fifo} (hf : tabFind (bits p.p0.toNat 13 8) (s.ring s.focus.msg.ring).fifos = some y)
    (hl : y.launch = s.focus.msg.launch)
    (hq : ∀ q ∈ (s.ring s.focus.msg.ring).ports, ¬(q.2.launch = s.focus.msg.launch ∧ q.2.num = bits p.p0.toNat 3 0) ∧
      (q.2.fifo = some (Fin.ofNat 64 (bits p.p0.toNat 13 8)) → q.2.ended = true))
    {k : Nat} (hk : lowest (fun i => (tabFind i (s.ring s.focus.msg.ring).ports).isNone) 64 = some k) :
    ∃ cohort, s.singress p = State.reply (s.putPort s.focus.msg k (singressPort p s.focus.msg cohort)) s.focus.msg 0 0 0 := by
  have hbusy : ((s.ring s.focus.msg.ring).ports.any fun q => (q.2.launch == s.focus.msg.launch && q.2.num == bits p.p0.toNat 3 0) ||
      (q.2.fifo == some (Fin.ofNat 64 (bits p.p0.toNat 13 8)) && !q.2.ended)) = false := by
    refine List.any_eq_false.2 fun q hmem hb => ?_
    obtain ⟨hnum, hend⟩ := hq q hmem
    simp only [Bool.or_eq_true, Bool.and_eq_true, beq_iff_eq, Bool.not_eq_true'] at hb
    rcases hb with hb | ⟨hb, he⟩
    · exact hnum hb
    · rw [hend hb] at he; cases he
  have hfifo : s.fifo s.focus.msg (bits p.p0.toNat 13 8) = some y := (State.fifo_of_lt s _ (bits_lt _ 13 8)).trans hf
  refine ⟨((((s.ring s.focus.msg.ring).regions.find? fun g => g.launches.contains s.focus.msg.launch).map Region.cohorts).getD 0) - 1, ?_⟩
  unfold State.singress
  dsimp only
  rw [hfifo, hk, hbusy, List.append_assoc, List.cons_append, firstOf_cons
    (by simp [Msg.ownInst_of hi, h1, h2, bits_eq_zero h0, bits_eq_zero h3, h4, h5])]
  dsimp only [List.nil_append, List.cons_append]
  rw [firstOf_cons (by simp [hl]), Bool.false_or, firstOf_cons (c := (some k).isNone) rfl]
  rfl

end Bind

/-! ### SSTAT -/

section Stat
variable {s : State} {p : Params} (hi : s.focus.msg.inst = s.focus.msg.ring.num) (h1 : p.p1 = 0) (h2 : p.p2 = 0) (h3 : p.p3 = 0)
include hi h1 h2 h3

theorem State.sstat_fifo (h0 : p.p0.toNat < 64) :
    s.sstat p = match tabFind (bits p.p0.toNat 5 0) (s.ring s.focus.msg.ring).fifos with
      | none => s.reply s.focus.msg 0 0 0
      | some q =>
        if q.launch ≠ s.focus.msg.launch then s.turnAway s.focus.msg 0x0606
        else s.reply s.focus.msg 0 ((q.slots.filter Option.isSome).length % 2 ^ 13 + q.closed.toNat * 2 ^ 16 + 2 ^ 17)
          ((s.ring s.focus.msg.ring).transfers.filter fun t => t.ready.isNone && t.fifo.any fun y => y.1.val == bits p.p0.toNat 5 0).length := by
  have hbit : bit p.p0.toNat 8 = false := by unfold bit; rw [Nat.div_eq_of_lt (by omega)]; rfl
  unfold State.sstat
  dsimp only
  rw [if_neg (by simp [Msg.ownInst_of hi, bits_eq_zero (hi := 7) (lo := 6) h0, bits_eq_zero (hi := 31) (lo := 9) (x := p.p0.toNat) (by omega), h1, h2, h3]),
    hbit, if_neg (by decide)] <;> rfl

theorem State.sstat_port (h0 : p.p0.toNat / 256 = 1) (h6 : bits p.p0.toNat 7 6 = 0) :
    s.sstat p = match tabFind (bits p.p0.toNat 5 0) (s.ring s.focus.msg.ring).ports with
      | none => s.reply s.focus.msg 0 0 0
      | some q => if q.launch ≠ s.focus.msg.launch then s.turnAway s.focus.msg 0x0606 else s.reply s.focus.msg 0 (q.next % 2 ^ 32) (q.ended.toNat + 2) := by
  have hbit : bit p.p0.toNat 8 = true := by unfold bit; rw [show (2 : Nat) ^ 8 = 256 from rfl, h0]; rfl
  unfold State.sstat
  dsimp only
  rw [if_neg (by simp [Msg.ownInst_of hi, h6, bits_eq_zero (hi := 31) (lo := 9) (x := p.p0.toNat) (by omega), h1, h2, h3]), hbit, if_pos rfl] <;> rfl

end Stat

theorem streamBindingMessages : Claim.StreamBindingMessages := by
  intro s p m r f hi
  refine ⟨fun x => ?_, fun y k => ?_, fun h0 h1 h2 h3 => ?_, fun h0 h6 h1 h2 h3 z hz hl => ?_⟩
  · intro scaled size n hx hr hv h1 h2 h3 h4 h5 hs hf
    exact ⟨_, congrArg Host.Outcome.next (State.sopen_accepts hi hx hr hv h1 h2 h3 h4 h5 hs hf), State.putFifo_fifo .., rfl⟩
  · intro fifo h0 h1 h2 h3 h4 h5 hf hl hq hk
    obtain ⟨cohort, hc⟩ := State.singress_accepts hi h0 h1 h2 h3 h4 h5 hf hl hq hk
    exact ⟨_, congrArg Host.Outcome.next hc, _, State.putPort_port .., rfl, rfl, rfl, rfl, rfl, rfl, rfl, rfl⟩
  · have hstat := State.sstat_fifo hi h1 h2 h3 h0
    refine ⟨fun hf => congrArg Host.Outcome.next (hstat.trans ?_), fun y hf => ⟨fun hl => congrArg Host.Outcome.next (hstat.trans ?_),
      fun hl => congrArg Host.Outcome.next (hstat.trans ?_)⟩⟩
    · rw [hf]
    · rw [hf]; exact if_neg (not_not.2 hl)
    · rw [hf]; exact if_pos hl
  · refine congrArg Host.Outcome.next ((State.sstat_port hi h1 h2 h3 h0 h6).trans ?_)
    rw [hz]
    exact if_neg (not_not.2 hl)

/-! ### SSYNC, SSYNCW and SCLOSE (13 R415-R418) -/

/-- A transfer without a FIFO that nothing refuses joins the list. -/
theorem State.take_push {s : State} {m : Msg} {cs : List (Bool × Nat)} (h : firstOf cs = none) (t : Transfer) : s.take m ⟨cs, none, t⟩ = s.push t := by
  unfold State.take
  dsimp only
  rw [h]

section Sync
variable {s : State} {p : Params} (hi : s.focus.msg.inst = s.focus.msg.ring.num)
include hi

/-- The word of SSYNC and SSYNCW is not refused: an aligned scratchpad word in its entry's range. -/
theorem State.syncConds_none {x : SEnd} (hr : s.mRange s.focus.msg (some x) (8 * p.p1.toNat) 8 = true) (hv : x.res.vers = false)
    (ha : x.base % 8 = 0) (h3 : bits p.p3.toNat 31 16 = 0) : firstOf (s.syncConds s.focus.msg p (some x) 0) = none := by
  unfold State.syncConds
  rw [firstOf_cons (by rfl), firstOf_cons (by rw [hr]; rfl), firstOf_cons (by exact hv), firstOf_cons (by simp [Msg.ownInst_of hi, h3, ha])]
  rfl

theorem State.sclose_accepts (h0 : p.p0.toNat < 64) (h1 : p.p1 = 0) (h2 : p.p2 = 0) (h3 : p.p3 = 0) {x : Fifo}
    (hf : tabFind p.p0.toNat (s.ring s.focus.msg.ring).fifos = some x) (hl : x.launch = s.focus.msg.launch) (hc : x.ctx = s.focus.msg.ctx)
    (ho : x.closed = false) :
    s.sclose p = State.push (s.onRing s.focus.msg.ring fun r =>
      { r with fifos := tabMap (fun k y => if k = p.p0.toNat then { y with closed := true } else y) r.fifos }) (Transfer.of s.focus.msg) := by
  have hbits : bits p.p0.toNat 5 0 = p.p0.toNat := by unfold bits; rw [Nat.pow_zero, Nat.div_one]; exact Nat.mod_eq_of_lt h0
  have hfifo : s.fifo s.focus.msg p.p0.toNat = some x := (State.fifo_of_lt s _ h0).trans hf
  have hmap (r : Ring) : (r.fifos.map fun q => if q.1 = p.p0.toNat then (q.1, { q.2 with closed := true }) else q) =
      tabMap (fun k y => if k = p.p0.toNat then { y with closed := true } else y) r.fifos := by
    refine List.map_congr_left fun q _ => ?_
    dsimp only
    split <;> rfl
  unfold State.sclose
  dsimp only
  rw [hbits, hfifo, List.cons_append, firstOf_cons (by simp [Msg.ownInst_of hi, bits_eq_zero (hi := 31) (lo := 6) h0, h1, h2, h3])]
  dsimp only [List.nil_append]
  rw [firstOf_cons (by simp [Fifo.owned, hl, hc]), firstOf_cons ho]
  simp only [hmap]
  rfl

end Sync

/-! ### SABORT (13 R432) -/

/-- What neither the scratchpad, the FIFOs nor the counts show of a ring, no write of an end touches. -/
theorem State.endPut_transfers {s t : State} {m : Msg} {x : SEnd} {off : Nat} {b : Byte} (h : s.endPut m x off b = some t) (r : RingAt) :
    (t.ring r).transfers = (s.ring r).transfers := by
  unfold State.endPut at h
  split at h
  · cases h
    exact State.onRing_keeps Ring.transfers _ _ (by intros; rfl) r
  · dsimp only at h
    split at h
    · rename_i l k _ _
      cases h
      cases l <;> rfl
    · cases h; rfl
    · cases h

theorem State.movePiece_transfers (s : State) (t : Transfer) (q : Piece) (n : Nat) (r : RingAt) :
    ((s.movePiece t q n).1.ring r).transfers = (s.ring r).transfers := by
  induction n with
  | zero => rfl
  | succ n ih =>
    rw [State.movePiece]
    dsimp only
    split
    · exact ih
    · split
      case _ v hv =>
        obtain ⟨b, -, hv⟩ := Option.bind_eq_some_iff.1 hv
        exact (State.endPut_transfers hv r).trans ih
      · exact ih

theorem State.movePieces_transfers (t : Transfer) (qs : List Piece) (s : State) (moved rd : Nat) (r : RingAt) :
    ((State.movePieces t qs s moved rd).1.ring r).transfers = (s.ring r).transfers := by
  induction qs generalizing s moved rd with
  | nil => rfl
  | cons q qs ih =>
    rw [State.movePieces]
    split
    · exact (ih _ _ _).trans (State.movePiece_transfers ..)
    · exact State.movePiece_transfers ..

theorem State.tagSlots_transfers (s : State) (t : Transfer) (n : Nat) (r : RingAt) : ((s.tagSlots t n).ring r).transfers = (s.ring r).transfers := by
  unfold State.tagSlots
  split
  · rfl
  · refine State.onRing_keeps Ring.transfers _ _ (fun x => ?_) r
    split <;> rfl

theorem State.zeroSlots_transfers (s : State) (t : Transfer) (k : Nat) (r : RingAt) : ((s.zeroSlots t k).ring r).transfers = (s.ring r).transfers := by
  unfold State.zeroSlots
  split
  · rfl
  · refine (State.tagSlots_transfers ..).trans ((State.onRing_keeps Ring.transfers _ _ (by intros; rfl) r).trans ?_)
    exact State.movePieces_transfers ..

/-- What an SABORT abandons. -/
def abortHits (p : Params) (m : Msg) (t : Transfer) : Bool :=
  t.ready.isNone && t.msg.ctx == m.ctx && t.msg.pasid == m.pasid && [3, 4, 5, 7, 8, 9, 10].contains t.msg.mop &&
    (if p.p0 = 0 then t.msg.el == m.el && t.msg.plane == m.plane else if p.p0 = 1 then t.fifo.any fun y => y.1.val == p.p1.toNat else true)

/-- The abandoned transfers write the rest of their slots as zero. -/
def State.zeroed (s : State) (ts : List Transfer) : State := ts.foldl (fun s t => s.zeroSlots t (t.tokens (s.pieces t (t.ixs.getD [])))) s

theorem State.zeroed_transfers (s : State) (ts : List Transfer) (r : RingAt) : ((s.zeroed ts).ring r).transfers = (s.ring r).transfers :=
  foldl_keeps (fun v : State => (v.ring r).transfers) (fun s t => s.zeroSlots t (t.tokens (s.pieces t (t.ixs.getD []))))
    (fun _ _ => State.zeroSlots_transfers ..) _ _

theorem State.sabort_accepts {s : State} {p : Params} (hi : s.focus.msg.inst = s.focus.msg.ring.num) (h0 : p.p0.toNat < 3) (h1 : p.p1.toNat < 64)
    (h2 : p.p2 = 0) (h3 : p.p3 = 0)
    (hf : p.p0 = 1 → ∃ x, tabFind p.p1.toNat (s.ring s.focus.msg.ring).fifos = some x ∧ x.launch = s.focus.msg.launch ∧ x.ctx = s.focus.msg.ctx) :
    let ts := (s.ring s.focus.msg.ring).transfers.filter (abortHits p s.focus.msg)
    s.sabort p = State.reply ((s.zeroed ts).onRing s.focus.msg.ring fun r =>
      { r with transfers := r.transfers.map fun t => if abortHits p s.focus.msg t then { t with ready := some (0x060B, t.moved, 0) } else t })
      s.focus.msg 0 ts.length 0 := by
  have hmode : bits p.p0.toNat 1 0 = p.p0.toNat := by unfold bits; rw [Nat.pow_zero, Nat.div_one]; exact Nat.mod_eq_of_lt (by omega)
  have hfifo : bits p.p1.toNat 5 0 = p.p1.toNat := by unfold bits; rw [Nat.pow_zero, Nat.div_one]; exact Nat.mod_eq_of_lt h1
  have hm (n : Nat) (hn : n < 3) : (p.p0.toNat = n) = (p.p0 = BitVec.ofNat 32 n) := by
    refine propext ⟨fun h => BitVec.eq_of_toNat_eq ?_, fun h => ?_⟩
    · rw [h]; exact (Nat.mod_eq_of_lt (by omega)).symm
    · rw [h]; exact Nat.mod_eq_of_lt (by omega)
  have hhit (t : Transfer) : (t.ready.isNone && t.msg.ctx == s.focus.msg.ctx && t.msg.pasid == s.focus.msg.pasid && [3, 4, 5, 7, 8, 9, 10].contains t.msg.mop &&
      (if p.p0.toNat = 0 then t.msg.sameSender s.focus.msg else if p.p0.toNat = 1 then t.fifo.any fun y => y.1.val == p.p1.toNat else true)) =
      abortHits p s.focus.msg t := by
    unfold abortHits Msg.sameSender
    simp only [hm 0 (by omega), hm 1 (by omega)] <;> rfl
  unfold State.sabort
  dsimp only
  rw [hmode, hfifo, List.cons_append, firstOf_cons (by
    have : p.p0.toNat ≠ 3 := by omega
    simp [Msg.ownInst_of hi, this, bits_eq_zero (x := p.p0.toNat) (hi := 31) (lo := 2) (by omega), bits_eq_zero (hi := 31) (lo := 6) h1, h2, h3]),
    List.nil_append]
  simp only [hhit]
  by_cases hone : p.p0.toNat = 1
  · obtain ⟨x, hx, hl, hc⟩ := hf ((hm 1 (by omega)).mp hone)
    rw [if_pos hone, State.fifo_of_lt s _ h1, hx]
    dsimp only
    rw [firstOf_cons (by simp [Fifo.owned, hl, hc])]
    rfl
  · rw [if_neg hone]
    rfl

theorem streamControlMessages : Claim.StreamControlMessages := by
  intro s p m r hi
  refine ⟨fun x hr hv ha h3 => ⟨fun hx => ?_, fun hx h0 => ?_⟩, fun x h0 h1 h2 h3 hf hl hc ho => ?_, ?_⟩
  · refine congrArg Host.Outcome.next ?_
    unfold State.ssync
    dsimp only
    rw [hx]
    exact State.take_push (State.syncConds_none hi hr hv ha h3) _
  · refine congrArg Host.Outcome.next ?_
    unfold State.ssyncw
    dsimp only
    rw [hx, h0]
    exact State.take_push (State.syncConds_none hi hr hv ha h3) _
  · refine ⟨_, congrArg Host.Outcome.next (State.sclose_accepts hi h0 h1 h2 h3 hf hl hc ho), ?_, State.onRing_keeps Ring.transfers _ _ (by intros; rfl) _⟩
    rw [State.ring_onRing]
    dsimp only
    rw [tabFind_tabMap, hf, Option.map_some, if_pos rfl]
  · intro f hit h0 h1 h2 h3 hf
    refine ⟨_, congrArg Host.Outcome.next (State.sabort_accepts hi h0 h1 h2 h3 hf), ?_⟩
    dsimp only
    rw [State.ring_onRing, State.zeroed_transfers]
    rfl

/-! ### Answers (05 R217, 01 R33) -/

theorem replyBody_lane (a b status mop : Nat) (i : Nat) :
    (replyBody a b status mop).lane i =
      if i < 4 then .ofNat 32 ([a % 2 ^ 32, b % 2 ^ 32, status % 65536, mop % 256].getD i 0) else 0 := by
  have hreg := mkReg_i32 .i32 rfl 3 fun i => [a % 2 ^ 32, b % 2 ^ 32, status % 65536, mop % 256].getD i 0
  have hbody : replyBody a b status mop = laneReg .i32 3 fun i => BitVec.ofNat 32 ([a % 2 ^ 32, b % 2 ^ 32, status % 65536, mop % 256].getD i 0) := hreg
  rw [hbody]
  refine (Lanes.lane_ofFn _ i).trans ?_
  by_cases h : i < 4
  · rw [if_pos (by omega), if_pos (by omega), if_pos h]
  · rw [if_neg h]
    split
    · exact if_neg (by omega)
    · rfl

section Answer
variable {s : State} {m : Msg} {k l : Nat} {ical : Bool} {islot : Fin 16} {ctx : BitVec 6} {iter : BitVec 12}
  (hm : m.sender = .elem k ical islot l ctx iter) (status lane0 lane1 : Nat)
include hm

theorem State.answer_gone (hg : s.senderGone l = true) : s.answer m status lane0 lane1 = s.paid (ElemAt.ofKey k) ical l := by
  unfold State.answer State.answerWith State.answerBy
  rw [hm]
  exact if_pos hg

variable (hg : s.senderGone l = false)
include hg

/-- The reply of a message that has a route. -/
def State.replyOf (s : State) (m : Msg) (target : Nat) (c : Fin 8) (k l : Nat) (ical : Bool) (ctx : BitVec 6) (iter : BitVec 12) (body : Reg) : HeldReply :=
  ⟨target, c, ical, ⟨body, ctx, iter, false, false, ((s.launch l).alloc (ElemAt.ofKey k).at_.ring.die).isSpec iter⟩, k, m.cls⟩

theorem State.answer_routed {target : Nat} {c : Fin 8} (hr : m.reply = some (target, c)) :
    s.answer m status lane0 lane1 = s.sendReply (s.replyOf m target c k l ical ctx iter (replyBody lane0 lane1 status m.mop)) := by
  unfold State.answer State.answerWith State.answerBy
  rw [hm]
  dsimp only
  rw [hg, hr]
  rfl

theorem State.answer_accepted (hr : m.reply = none) (hs : status = 0 ∨ m.cls = 6 ∧ status = 2) :
    s.answer m status lane0 lane1 = s.paid (ElemAt.ofKey k) ical l := by
  have hno : (decide (status ≠ 0) && !(decide (m.cls = 6) && decide (status = 2))) = false := by
    rcases hs with hs | ⟨h6, h2⟩ <;> simp [*]
  unfold State.answer State.answerWith State.answerBy
  rw [hm, hno]
  dsimp only
  rw [hg, hr]
  rfl

theorem State.answer_refused (hr : m.reply = none) (h0 : status ≠ 0) (h6 : ¬(m.cls = 6 ∧ status = 2)) :
    s.answer m status lane0 lane1 = (s.paid (ElemAt.ofKey k) ical l).elemFault (m.refusedAt (ElemAt.ofKey k) islot).1 ical
      (some (m.refusedAt (ElemAt.ofKey k) islot).2) 0 ctx iter ⟨refusedCode m.cls, m.cls, 1, m.hdr.toNat * 2 ^ 32 + status⟩ := by
  have hyes : (decide (status ≠ 0) && !(decide (m.cls = 6) && decide (status = 2))) = true := by simp [h0, not_and_or.1 h6]
  unfold State.answer State.answerWith State.answerBy
  rw [hm, hyes]
  dsimp only
  rw [hg, hr]
  rfl

end Answer

/-- A relay packet completes with the two lanes. -/
theorem State.answer_relay {s : State} {m : Msg} {qid : BitVec 20} {seq : BitVec 16} (hm : m.sender = .relay qid seq) (status lane0 lane1 : Nat) :
    s.answer m status lane0 lane1 = s.finish qid seq status (lane0 % 2 ^ 32 + lane1 % 2 ^ 32 * 2 ^ 32) false := by
  unfold State.answer State.answerWith State.answerBy
  rw [hm]
  dsimp only
  rw [replyBody_lane, replyBody_lane]
  simp

/-! ### A reply on its way -/

section Send
variable {s : State} {h : HeldReply}

/-- The state with a reply that waits at its target's ring. -/
def State.holdReply (s : State) (h : HeldReply) : State :=
  s.onRing (ElemAt.ofKey h.target).at_.ring fun x => { x with heldReplies := x.heldReplies ++ [h] }

theorem State.sendReply_behind (ha : (s.ring (ElemAt.ofKey h.target).at_.ring).heldReplies.any h.follows = true) : s.sendReply h = s.holdReply h := if_pos ha

theorem State.sendReply_stuck (ht : s.tryReply h = none) : s.sendReply h = s.holdReply h := by
  unfold State.sendReply
  rw [ht]
  exact ite_self _

theorem State.sendReply_sent (ha : (s.ring (ElemAt.ofKey h.target).at_.ring).heldReplies.any h.follows = false) {t : State} (ht : s.tryReply h = some t) :
    s.sendReply h = t := by
  unfold State.sendReply
  dsimp only
  rw [ha, ht]
  rfl

theorem State.holdReply_held : ((s.holdReply h).ring (ElemAt.ofKey h.target).at_.ring).heldReplies =
    (s.ring (ElemAt.ofKey h.target).at_.ring).heldReplies ++ [h] := by
  rw [State.holdReply, State.ring_onRing]

/-- The plane of the target moves, and admits a token of the sender's parity. -/
def State.admitsReply (s : State) (h : HeldReply) : Bool :=
  let e := ElemAt.ofKey h.target
  let from_ := ElemAt.ofKey h.sender
  s.moving e.at_ h.ical && s.admits e.at_ h.ical (s.crossing from_.at_ h.ical && decide (e.at_ ≠ from_.at_)) ((s.stripe from_.at_).parity h.ical)

theorem State.tryReply_unadmitted (ha : s.admitsReply h = false) : s.tryReply h = none := by
  unfold State.tryReply
  dsimp only
  exact if_neg (by rw [show (_ && _) = false from ha]; decide)

theorem State.tryReply_full (hf : s.queueFree (ElemAt.ofKey h.target) h.ical h.chan = 0) : s.tryReply h = none := by
  have harr : s.arrive (ElemAt.ofKey h.target) h.ical h.chan h.tok true false = none := by
    unfold State.arrive
    exact if_pos hf
  unfold State.tryReply
  dsimp only
  rw [harr]
  exact ite_self _

/-- A token that its channel accepts joins the queue, and its sender is paid. -/
theorem State.tryReply_enters (ha : s.admitsReply h = true) (hf : s.queueFree (ElemAt.ofKey h.target) h.ical h.chan ≠ 0)
    (hk : h.tok.kill = false) (he : h.tok.eos = false)
    (hal : ((s.launch ((s.stripe (ElemAt.ofKey h.target).at_).conf h.ical).launch).alloc (ElemAt.ofKey h.target).at_.ring.die).alias_ h.tok.iter = false)
    (hki : ((s.launch ((s.stripe (ElemAt.ofKey h.target).at_).conf h.ical).launch).alloc (ElemAt.ofKey h.target).at_.ring.die).isKilled h.tok.iter = false)
    (hacc : Hdr.accepts ((s.elem (ElemAt.ofKey h.target)).plane h.ical).hdr h.chan.val h.tok.body.fmt = true) :
    ∃ n, s.tryReply h = some ((s.enqueue (ElemAt.ofKey h.target) h.ical h.chan h.tok).paid (ElemAt.ofKey h.sender) h.ical n) := by
  have harr : s.arrive (ElemAt.ofKey h.target) h.ical h.chan h.tok true false = some (s.enqueue (ElemAt.ofKey h.target) h.ical h.chan h.tok) := by
    unfold State.arrive
    dsimp only
    rw [if_neg hf, hk, if_neg (by decide), hal, if_neg (by decide), hki, if_neg (by decide), if_pos hacc]
  have heos (t : State) (p : StripeAt) (n : Nat) : t.seeEos p h.ical n h.tok = t := by
    unfold State.seeEos
    exact if_neg (by simp [Token.ends, he])
  unfold State.tryReply
  dsimp only
  rw [if_pos (show (_ && _) = true from ha), harr, Option.map_some, heos]
  exact ⟨_, rfl⟩

end Send

theorem Elem.queue_setQueue (x : Elem) (ical : Bool) (c : Fin 8) (q : List Token) : (x.setQueue ical c q).queue ical c = q := by
  cases ical <;> simp [Elem.queue, Elem.setQueue, Elem.queues]

/-- Being paid leaves the queues of every element. -/
theorem State.paid_queue (s : State) (f : ElemAt) (ical : Bool) (n : Nat) (e : ElemAt) (c : Fin 8) :
    ((s.paid f ical n).elem e).queue ical c = (s.elem e).queue ical c := by
  show ((s.onElem f fun x => if ical then { x with owedI := x.owedI - 1 } else { x with owed := x.owed - 1 }).elem e).queue ical c = _
  by_cases h : e = f
  · rw [h, State.elem_onElem]
    cases ical <;> rfl
  · rw [State.elem_onElem_ne h]

theorem State.enqueue_queue (s : State) (e : ElemAt) (ical : Bool) (c : Fin 8) (t : Token) :
    ((s.enqueue e ical c t).elem e).queue ical c = (s.elem e).queue ical c ++ [t] := by
  rw [State.enqueue, State.elem_onElem, Elem.queue_setQueue]

/-- A record taken from a state whose records are those of `s` is one more than in `s`. -/
theorem Records.of_faults {s u t : State} {d : Fin 4} {code aux disp : Nat} (h : Records u t d code aux disp)
    (hw : (u.die d).faultWait = (s.die d).faultWait) (hs : (u.die d).faultSeq = (s.die d).faultSeq) (hf : u.fc = s.fc) : Records s t d code aux disp := by
  unfold Records Waits at h
  rw [hw, hs, hf] at h
  exact h

theorem Msg.refusedAt_die (m : Msg) (e : ElemAt) (i : Fin 16) : (m.refusedAt e i).1.at_ = e.at_ := by
  unfold Msg.refusedAt
  split <;> rfl

theorem answersReachTheirSenders : Claim.AnswersReachTheirSenders := by
  intro s m status lane0 lane1 k l ical islot ctx iter el t
  refine ⟨fun hm hg => ⟨fun target c hr => ?_, fun hr hs => State.answer_accepted hm status lane0 lane1 hg hr hs, fun hr h0 h6 => ?_⟩,
    fun hm hg => State.answer_gone hm status lane0 lane1 hg, fun qid seq hm => State.answer_relay hm status lane0 lane1⟩
  · intro e al wrap fits ahead
    let h := s.replyOf m target c k l ical ctx iter (replyBody lane0 lane1 status m.mop)
    have ht : t = s.sendReply h := State.answer_routed hm status lane0 lane1 hg hr
    have hfits : fits = (s.admitsReply h && decide (s.queueFree e ical c ≠ 0)) := rfl
    have hahead : ahead = (s.ring e.at_.ring).heldReplies.any h.follows := rfl
    refine ⟨fun hf ha hal hki hacc => ?_, fun hn => ⟨h, ?_, rfl, rfl⟩⟩
    · rw [hfits, Bool.and_eq_true, decide_eq_true_eq] at hf
      obtain ⟨n, htry⟩ := State.tryReply_enters (h := h) hf.1 hf.2 rfl rfl hal hki hacc
      have hsent : t = (s.enqueue e ical c h.tok).paid el ical n := ht.trans (State.sendReply_sent (hahead ▸ ha) htry)
      have hlane := replyBody_lane lane0 lane1 status m.mop
      refine ⟨h.tok, ?_, rfl, rfl, rfl, rfl, rfl, rfl, (hlane 0).trans ?_, (hlane 1).trans ?_, (hlane 2).trans ?_, (hlane 3).trans ?_⟩
      · rw [hsent, State.paid_queue, State.enqueue_queue]
      · exact BitVec.eq_of_toNat_eq (by simp)
      · exact BitVec.eq_of_toNat_eq (by simp)
      · rfl
      · have hmop : m.mop < 256 := bits_lt _ 31 24
        exact congrArg (BitVec.ofNat 32) (Nat.mod_eq_of_lt hmop)
    · have hheld : t = s.holdReply h := by
        by_cases ha : ahead = true
        · exact ht.trans (State.sendReply_behind (hahead ▸ ha))
        · refine ht.trans (State.sendReply_stuck ?_)
          rcases Bool.and_eq_false_iff.1 (hfits ▸ hn.resolve_right ha) with hf | hf
          · exact State.tryReply_unadmitted hf
          · exact State.tryReply_full (h := h) (not_not.1 (of_decide_eq_false hf))
      rw [hheld]
      exact State.holdReply_held
  · have hrec := State.takeFault_records (s.paid el ical l) (m.refusedAt el islot).1.at_.ring.die
    have ht : t = _ := State.answer_refused hm status lane0 lane1 hg hr h0 h6
    rw [ht, ← Msg.refusedAt_die m el islot]
    exact Records.of_faults (hrec _ _ _ _ _) (State.onDie_keeps Die.faultWait rfl _) (State.onDie_keeps Die.faultSeq rfl _) rfl

/-- Settles O26: an answer is followed through its cases, replies through the list of transfers of which none is due, and each message through the
refusals that it does not meet. -/
theorem streamControl : Obligations.StreamControl :=
  ⟨answersReachTheirSenders, streamRepliesInOrder, streamBindingMessages, streamControlMessages⟩

end Sys2Proof.Machine

/-! PROOFS. Encodings: the round trip of every instruction, and words written out (02 R57-R79, 04 R143-R149). -/

namespace Sys2Proof.Laws.Round

/-- Every instruction has its round trip, by its own lemma; the pages follow each other as in `Instr`. -/
theorem statement (i : Instr) : Statement i := by
  cases i with
  -- The V page (R57, R58, R66).
  | mov => apply mov
  | mov2 => apply mov2
  | movp => apply movp
  | sel => apply sel
  | setvl => apply setvl
  | bcast => apply bcast
  | add => apply add
  | sub => apply sub
  | mul => apply mul
  | mulh => apply mulh
  | mad => apply mad
  | neg => apply neg
  | abs => apply abs
  | min => apply min
  | max => apply max
  | andV => apply andV
  | orV => apply orV
  | xorV => apply xorV
  | andn => apply andn
  | notV => apply notV
  | shl => apply shl
  | shr => apply shr
  | sar => apply sar
  | popc => apply popc
  | clz => apply clz
  | cmpeq => apply cmpeq
  | cmpne => apply cmpne
  | cmplt => apply cmplt
  | cmple => apply cmple
  | cmpltu => apply cmpltu
  | anynz => apply anynz
  | allnz => apply allnz
  | fadd => apply fadd
  | fsub => apply fsub
  | fmul => apply fmul
  | fma => apply fma
  | fnma => apply fnma
  | fmin => apply fmin
  | fmax => apply fmax
  | fabs => apply fabs
  | fneg => apply fneg
  | rcp => apply rcp
  | rsq => apply rsq
  | sqrt => apply sqrt
  | exp2 => apply exp2
  | log2 => apply log2
  | tanh => apply tanh
  | sigm => apply sigm
  | rsum => apply rsum
  | rmax => apply rmax
  | rmin => apply rmin
  | ramax => apply ramax
  | shuf => apply shuf
  | rot => apply rot
  | extr => apply extr
  | ins => apply ins
  | cvt => apply cvt
  | qnt => apply qnt
  | dqnt => apply dqnt
  | sbind => apply sbind
  | srel => apply srel
  | spow2 => apply spow2
  | sadde => apply sadde
  | smax => apply smax
  | sprod => apply sprod
  | srenorm => apply srenorm
  | sldcb => apply sldcb
  | amaxrd => apply amaxrd
  | amaxclr => apply amaxclr
  | exit => apply exit
  | drop => apply drop
  | trap => apply trap
  | seed => apply seed
  | rand => apply rand
  -- The J page (R57, R67, R68).
  | ld => apply ld
  | st => apply st
  | ldv => apply ldv
  | stv => apply stv
  | recl => apply recl
  | gath => apply gath
  | scat => apply scat
  | pref => apply pref
  | fence => apply fence
  | fencex => apply fencex
  | waita => apply waita
  | waitc => apply waitc
  | launch => apply launch
  | signal => apply signal
  | tkt => apply tkt
  | grant => apply grant
  | reply => apply reply
  | send => apply send
  | sendn => apply sendn
  | jMov => apply jMov
  | jMov2 => apply jMov2
  | jAdd => apply jAdd
  | jSub => apply jSub
  | jAnd => apply jAnd
  | jShl => apply jShl
  | jCmpeq => apply jCmpeq
  | jCmplt => apply jCmplt
  | jExit => apply jExit
  | jDrop => apply jDrop
  | jTrap => apply jTrap
  -- The custom instructions of the front end (R78, R79).
  | fwait => apply fwait
  | flatch => apply flatch
  | fpost => apply fpost
  | fqmap => apply fqmap
  | fqdemap => apply fqdemap
  | fseqchk => apply fseqchk
  | flaunch => apply flaunch
  | fvigil => apply fvigil
  -- The packets of the front end (R143 to R148).
  | pktNop => apply pktNop
  | pktLaunch => apply pktLaunch
  | pktWait => apply pktWait
  | pktSignal => apply pktSignal
  | pktCancel => apply pktCancel
  | pktCount => apply pktCount
  | phase => apply phase
  | evict => apply evict
  | restore => apply restore
  | compact => apply compact
  | almanac => apply almanac
  | almread => apply almread
  | wswrite => apply wswrite
  | reswrite => apply reswrite
  | prefetch => apply prefetch
  | eqwait => apply eqwait
  | status => apply status
  | ctxnew => apply ctxnew
  | ctxfree => apply ctxfree
  | qnew => apply qnew
  | qfree => apply qfree
  -- The messages of controllers and engines (R73 to R77).
  | plaunch => apply plaunch
  | pcancel => apply pcancel
  | pcount => apply pcount
  | pphase => apply pphase
  | pevict => apply pevict
  | prestore => apply prestore
  | pcompact => apply pcompact
  | palmw => apply palmw
  | palmr => apply palmr
  | pwsw => apply pwsw
  | prsw => apply prsw
  | ppref => apply ppref
  | peqwait => apply peqwait
  | pstat => apply pstat
  | mxcfg => apply mxcfg
  | mxtile => apply mxtile
  | mxkcnt => apply mxkcnt
  | mxdrain => apply mxdrain
  | mxclracc => apply mxclracc
  | mxcb => apply mxcb
  | mxamax => apply mxamax
  | mxrdacc => apply mxrdacc
  | mxfill => apply mxfill
  | mxfmt => apply mxfmt
  | mxrnd => apply mxrnd
  | mxstat => apply mxstat
  | sopen => apply sopen
  | sclose => apply sclose
  | srdh => apply srdh
  | swrh => apply swrh
  | scopy => apply scopy
  | sstride => apply sstride
  | sgath => apply sgath
  | sscat => apply sscat
  | sldbs => apply sldbs
  | ssync => apply ssync
  | ssyncw => apply ssyncw
  | singress => apply singress
  | sstat => apply sstat
  | sabort => apply sabort
  | uadd => apply uadd
  | ufadd => apply ufadd
  | umax => apply umax
  | umin => apply umin
  | uor => apply uor
  | uand => apply uand
  | uxchg => apply uxchg
  | ucas => apply ucas
  | uorder => apply uorder
  | uflush => apply uflush
  -- Events, kicks among them, have no page of encodings.
  | _ => exact fun h _ => absurd rfl h

end Sys2Proof.Laws.Round

namespace Sys2Proof.Machine

/-- Settles O57: an instruction of a page has the round trip of its row, and an event no encoding. -/
theorem decodeInvertsEncode : Obligations.DecodeInvertsEncode := Laws.Round.statement

/-- A code that the encoder gives a well-formed instruction of a page decodes on that page to the instruction. -/
theorem decode_of_encode {i : Instr} {c : Code} {pg : Page} (h : encode i = c ∧ i.page = pg ∧ pg ≠ .event ∧ i.wf = true) : decode pg c = .ok i := by
  obtain ⟨rfl, rfl, hp, hw⟩ := h
  exact decodeInvertsEncode i hp hw

/-- R57, R66: 0x75 is the opcode of no instruction of the V page. -/
theorem decode_v_unassigned : decode .v (.word 0b11101010000000000000000000000000#32) = .error .badOpcode := by decide

/-- R57: 29 names no source of an element. -/
theorem decode_v_source_29 : decode .v (.word 0b00010001110100000000101100000000#32) = .error .badSelect := by decide

/-- Settles O56: each word that decodes is what the encoder gives its instruction, and the other two are refused by their opcode and their select. -/
theorem decodeWords : Obligations.DecodeWords :=
  ⟨decode_of_encode (by decide), decode_of_encode (by decide), decode_of_encode (by decide), decode_of_encode (by decide),
    decode_of_encode (by decide), decode_of_encode (by decide), decode_of_encode (by decide), decode_v_unassigned, decode_v_source_29⟩

end Sys2Proof.Machine

/-! PROOFS. The custom instructions of the front end: what one that retires leaves, and those whose arguments name nothing (04 R160-R168). -/

namespace Sys2Proof.Machine

/-! ### Registers of a hart, and what an update of it leaves -/

theorem Hart.reg_setReg_ne {r k : BitVec 5} (hk : k ≠ r) (h : Hart) (v : Dword) : (h.setReg r v).reg k = h.reg k := by
  unfold Hart.reg Hart.setReg
  split
  · rfl
  · split
    · rfl
    · exact Vector.getElem_set_ne (by omega) (by omega) fun he => hk (BitVec.eq_of_toNat_eq he.symm)

theorem Hart.reg_of_x {h y : Hart} (e : h.x = y.x) (k : BitVec 5) : h.reg k = y.reg k := by
  simp only [Hart.reg, e]

/-- A part of a hart that an update leaves stays of every hart. -/
theorem State.onHart_keeps {α : Type} (p : Hart → α) {f : Hart → Hart} (h : ∀ y, p (f y) = p y) (s : State) (d : Fin 4) (k : Fin 64) (e : Fin 4)
    (j : Fin 64) : p ((s.onHart d k f).hart e j) = p (s.hart e j) := by
  by_cases he : (e, j) = (d, k)
  · obtain ⟨rfl, rfl⟩ := Prod.mk.inj he
    rw [State.hart_onHart, h]
  · rw [State.hart_onHart_ne he]

/-! ### An instruction that retires (04 R160) -/

/-- The hart after its instruction: the result in its register, and the next pc. -/
def Hart.retire (rd : BitVec 5) (v : Nat) (h : Hart) : Hart := (h.setReg rd (.ofNat 64 v)).advance 4

@[simp] theorem State.me_retireF (s : State) (rd : BitVec 5) (v : Nat) : (s.retireF rd v).me = s.me.retire rd v :=
  State.hart_onHart _ _ _ _

@[simp] theorem State.latch_retireF (s : State) (rd : BitVec 5) (v : Nat) (q : BitVec 20) : (s.retireF rd v).latch q = s.latch q :=
  State.latch_onHart _ _ _ _ _

theorem Hart.setReg_pc (h : Hart) (r : BitVec 5) (v : Dword) : (h.setReg r v).pc = h.pc := by
  unfold Hart.setReg
  split <;> rfl

theorem Hart.retire_pc (h : Hart) (rd : BitVec 5) (v : Nat) : (h.retire rd v).pc = h.pc + 4 :=
  congrArg (· + 4) (h.setReg_pc rd _)

/-- A part of a hart that neither its registers nor its advance holds stays when its instruction retires. -/
theorem Hart.retire_keeps {α : Type} (p : Hart → α) (hp : ∀ y x, p (Hart.advance 4 { y with x := x }) = p y) (h : Hart) (rd : BitVec 5)
    (v : Nat) : p (h.retire rd v) = p h := by
  unfold Hart.retire Hart.setReg
  split
  · exact hp h h.x
  · exact hp h _

/-- Such a part stays of every hart, the one in focus and the others. -/
theorem State.retireF_keeps {α : Type} (p : Hart → α) (hp : ∀ y x, p (Hart.advance 4 { y with x := x }) = p y) (s : State) (rd : BitVec 5)
    (v : Nat) (d : Fin 4) (k : Fin 64) : p ((s.retireF rd v).hart d k) = p (s.hart d k) := by
  by_cases h : (d, k) = (s.focus.ring.die, s.focus.hart)
  · obtain ⟨rfl, rfl⟩ := Prod.mk.inj h
    exact (congrArg p (s.me_retireF rd v)).trans (Hart.retire_keeps p hp _ rd v)
  · exact congrArg p (State.hart_onHart_ne h ..)

/-- Before it retires, an instruction may change the dies, of its own hart all but the pc and the registers. -/
theorem retires_retireF {s u : State} (hpc : u.me.pc = s.me.pc) (hx : u.me.x = s.me.x) (he : u.elems = s.elems) (hs : u.stripes = s.stripes)
    (rd : BitVec 5) (v : Nat) : Retires s (u.retireF rd v) rd v := by
  refine ⟨?_, ?_, fun hr => ?_, fun k hk => ?_, he, hs⟩ <;> rw [State.me_retireF]
  · rw [Hart.retire_pc, hpc]
  · rfl
  · exact Hart.reg_setReg _ rd _ hr
  · exact (Hart.reg_setReg_ne hk ..).trans (Hart.reg_of_x hx k)

theorem retires_self (s : State) (rd : BitVec 5) (v : Nat) : Retires s (s.retireF rd v) rd v := retires_retireF rfl rfl rfl rfl rd v

/-- R160. -/
theorem retireIsResultAndPc : Claim.RetireIsResultAndPc := by
  intro s rd v t
  exact ⟨retires_self s rd v, rfl, rfl, s.latch_retireF rd v, Hart.reg_zero _, fun d k hk => State.hart_onHart_ne hk _ _⟩

/-! ### Arguments that name nothing (04 R160) -/

theorem State.flatch_elsewhere {s : State} {rs1 : BitVec 5} {q : BitVec 20} (hq : argQid (s.me.reg rs1) = some q) (hd : homeDie q ≠ s.focus.ring.die)
    (rd : BitVec 5) : s.flatch rd rs1 = s.retireF rd 0 := by
  simp [State.flatch, hq, hd]

theorem State.flatch_illegal {s : State} {rs1 : BitVec 5} (hq : argQid (s.me.reg rs1) = none) (rd : BitVec 5) :
    s.flatch rd rs1 = s.illegal (customWord 1 rd rs1 0) := by
  simp [State.flatch, hq]

theorem State.fseqchk_illegal {s : State} {rs1 rs2 : BitVec 5}
    (h : argHome s.focus.ring.die (s.me.reg rs1) = none ∨ 65536 ≤ (s.me.reg rs2).toNat) (rd : BitVec 5) :
    s.fseqchk rd rs1 rs2 = s.illegal (customWord 5 rd rs1 rs2) := by
  have hf : (argHome s.focus.ring.die (s.me.reg rs1)).filter (fun _ => decide ((s.me.reg rs2).toNat < 65536)) = none := by
    rcases h with h | h
    · rw [h]; rfl
    · simp [Nat.not_lt.2 h]
  simp only [State.fseqchk, hf]

theorem State.fvigil_illegal {s : State} {rs1 : BitVec 5} (hk : argHart (s.me.reg rs1) = none) (rd : BitVec 5) :
    s.fvigil rd rs1 = s.illegal (customWord 7 rd rs1 0) := by
  simp [State.fvigil, hk]

theorem State.fqdemap_illegal {s : State} {rs1 : BitVec 5} (hk : argHart (s.me.reg rs1) = none) (rd : BitVec 5) :
    s.fqdemap rd rs1 = s.illegal (customWord 4 rd rs1 0) := by
  simp [State.fqdemap, hk]

/-! ### FVIGIL (04 R168) -/

/-- A vigil timer as FVIGIL arms it. -/
def Hart.armVigil (n : Word) (h : Hart) : Hart := { h with vigilArmed := true, vigilExpired := false, remain := n }

section Vigil
variable {s : State} {rs1 : BitVec 5} {k : Fin 64} (hk : argHart (s.me.reg rs1) = some k)
include hk

theorem State.fvigil_reads (ha : (s.hart s.focus.ring.die k).vigilArmed = true) (rd : BitVec 5) :
    s.fvigil rd rs1 = s.retireF rd (s.hart s.focus.ring.die k).remain.toNat := by
  simp [State.fvigil, hk, ha]

theorem State.fvigil_arms (ha : (s.hart s.focus.ring.die k).vigilArmed = false) (rd : BitVec 5) :
    s.fvigil rd rs1 = (s.onHart s.focus.ring.die k (Hart.armVigil (s.die s.focus.ring.die).feVigil)).retireF rd
      (s.die s.focus.ring.die).feVigil.toNat := by
  simp only [State.fvigil, hk, ha]
  rfl

end Vigil

/-! ### FQMAP (04 R165) -/

/-- A hart to which FQMAP gives a queue. -/
def Hart.takeQueue (q : BitVec 20) (h : Hart) : Hart :=
  { h.disarm with mapped := true, qid := q, arm := false, met := false, watchHit := false }

/-- The state in which hart `k` of the die in focus holds queue `q`. -/
def State.giveQueue (s : State) (q : BitVec 20) (k : Fin 64) : State :=
  (s.onHart s.focus.ring.die k (Hart.takeQueue q)).onLatch q fun e => { e with mapped := true }

theorem State.hart_giveQueue (s : State) (q : BitVec 20) (k : Fin 64) :
    (s.giveQueue q k).hart s.focus.ring.die k = Hart.takeQueue q (s.hart s.focus.ring.die k) :=
  (State.hart_onLatch ..).trans (State.hart_onHart ..)

theorem State.giveQueue_keeps {α : Type} (s : State) (q : BitVec 20) (k : Fin 64) (p : Hart → α) (h : ∀ y, p (Hart.takeQueue q y) = p y) (j : Fin 64) :
    p ((s.giveQueue q k).hart s.focus.ring.die j) = p (s.hart s.focus.ring.die j) :=
  (congrArg p (State.hart_onLatch ..)).trans (State.onHart_keeps p h ..)

theorem State.latch_giveQueue (s : State) (q : BitVec 20) (k : Fin 64) : (s.giveQueue q k).latch q = { s.latch q with mapped := true } := by
  rw [State.giveQueue, State.latch_onLatch, if_pos rfl, State.latch_onHart]

/-- FQMAP gives a queue to a hart: the queue is valid, neither is mapped, and their ring sizes agree. -/
def Latch.Fits (e : Latch) (y : Hart) : Prop := e.valid = true ∧ e.mapped = false ∧ y.mapped = false ∧ y.rsize = e.rsize ∧ y.csize = e.csize

theorem Latch.not_fits_iff {e : Latch} {y : Hart} :
    ¬e.Fits y ↔ (!e.valid) = true ∨ e.mapped = true ∨ y.mapped = true ∨ y.rsize ≠ e.rsize ∨ y.csize ≠ e.csize := by
  simp only [Latch.Fits, not_and_or, Bool.not_eq_true, Bool.not_eq_false, Bool.not_eq_eq_eq_not, Bool.not_true, ne_eq]

section Map
variable {s : State} {rs1 rs2 : BitVec 5} {q : BitVec 20} {k : Fin 64} (hq : argHome s.focus.ring.die (s.me.reg rs1) = some q)
  (hk : argHart (s.me.reg rs2) = some k)
include hq hk

theorem State.fqmap_maps (h : (s.latch q).Fits (s.hart s.focus.ring.die k)) : s.fqmap rs1 rs2 = (s.giveQueue q k).retireF 0 0 := by
  simp only [State.fqmap, hq, hk]
  exact if_neg fun hn => Latch.not_fits_iff.2 hn h

theorem State.fqmap_unfit (h : ¬(s.latch q).Fits (s.hart s.focus.ring.die k)) : s.fqmap rs1 rs2 = s.illegal (customWord 3 0 rs1 rs2) := by
  simp only [State.fqmap, hq, hk]
  exact if_pos (Latch.not_fits_iff.1 h)

end Map

theorem State.fqmap_illegal {s : State} {rs1 rs2 : BitVec 5} (h : argHome s.focus.ring.die (s.me.reg rs1) = none ∨ argHart (s.me.reg rs2) = none) :
    s.fqmap rs1 rs2 = s.illegal (customWord 3 0 rs1 rs2) := by
  rcases h with h | h <;> simp [State.fqmap, h]

/-! ### The claims -/

/-- R160, R168. -/
theorem timerAndArguments : Claim.TimerAndArguments := by
  intro s rd rs1 rs2 d v
  refine ⟨fun q hq hd => congrArg Host.Outcome.next (State.flatch_elsewhere hq hd rd),
    fun hq => congrArg Host.Outcome.next (State.flatch_illegal hq rd), fun h => congrArg Host.Outcome.next (State.fseqchk_illegal h rd),
    fun k hk => ?_, fun hk => congrArg Host.Outcome.next (State.fvigil_illegal hk rd)⟩
  cases ha : (s.hart d k).vigilArmed with
  | true =>
    refine ⟨_, congrArg Host.Outcome.next (State.fvigil_reads hk ha rd), ?_, fun _ => ⟨retires_self s rd _, ?_⟩, nofun⟩
    · exact (State.retireF_keeps Hart.vigilArmed (fun _ _ => rfl) ..).trans ha
    · exact State.retireF_keeps Hart.remain (fun _ _ => rfl) ..
  | false =>
    have armed := State.hart_onHart s d k (Hart.armVigil (s.die d).feVigil)
    have hpc := State.onHart_keeps Hart.pc (f := Hart.armVigil (s.die d).feVigil) (fun _ => rfl) s d k d s.focus.hart
    have hx := State.onHart_keeps Hart.x (f := Hart.armVigil (s.die d).feVigil) (fun _ => rfl) s d k d s.focus.hart
    refine ⟨_, congrArg Host.Outcome.next (State.fvigil_arms hk ha rd), ?_, nofun, fun _ => ⟨retires_retireF hpc hx rfl rfl rd _, ?_, ?_⟩⟩
    · exact (State.retireF_keeps Hart.vigilArmed (fun _ _ => rfl) ..).trans (congrArg Hart.vigilArmed armed)
    · exact (State.retireF_keeps Hart.remain (fun _ _ => rfl) ..).trans (congrArg Hart.remain armed)
    · exact (State.retireF_keeps Hart.vigilExpired (fun _ _ => rfl) ..).trans (congrArg Hart.vigilExpired armed)

/-- R165. -/
theorem queuesMap : Claim.QueuesMap := by
  intro s rs1 rs2 d
  refine ⟨fun q k hq hk => ⟨fun h => ?_, fun h => congrArg Host.Outcome.next (State.fqmap_unfit hq hk h)⟩,
    fun h => congrArg Host.Outcome.next (State.fqmap_illegal h)⟩
  have hpc := s.giveQueue_keeps q k Hart.pc (fun _ => rfl) s.focus.hart
  have hx := s.giveQueue_keeps q k Hart.x (fun _ => rfl) s.focus.hart
  have held := State.retireF_keeps (fun y => (y.mapped, y.qid, y.arm, y.met, y.vigilArmed)) (fun _ _ => rfl) (s.giveQueue q k) 0 0 d k
  rw [State.hart_giveQueue] at held
  simp only [Prod.mk.injEq] at held
  obtain ⟨hmapped, hqid, harm, hmet, hvigil⟩ := held
  exact ⟨_, congrArg Host.Outcome.next (State.fqmap_maps hq hk h), retires_retireF hpc hx rfl rfl 0 0, hmapped, hqid, harm, hmet, hvigil,
    (State.latch_retireF ..).trans (State.latch_giveQueue s q k)⟩

/-- R160. -/
theorem demapArguments : Claim.DemapArguments := fun _ rd _ hk => congrArg Host.Outcome.next (State.fqdemap_illegal hk rd)

/-- Settles O43: an argument that names nothing traps, and what FVIGIL and FQMAP leave of a hart and a latch entry they leave when they retire. -/
theorem frontEndArguments : Obligations.FrontEndArguments := ⟨retireIsResultAndPc, timerAndArguments, queuesMap, demapArguments⟩

end Sys2Proof.Machine

/-! PROOFS. The step of each instruction of 03, 05 and 06 that the proofs below speak of. -/

namespace Sys2Proof.Machine

/-! ### The equation of `exec` for each of them -/

theorem exec_waveLink (s : State) : exec .waveLink s = .next (s.waveLink s.focus.ring) := by
  simp only [exec, execWaveLink]
theorem exec_memWave (s : State) : exec .memWave s = .next (s.memWave s.focus.ring) := by
  simp only [exec, execMemWave]
theorem exec_memoryReply (s : State) (r : RingAt) (id : Nat) : exec (.memoryReply r id) s = .next (s.memoryReply r id) := by
  simp only [exec, execMemoryReply]
theorem exec_ldvVersionMet (s : State) (r : RingAt) (id : Nat) : exec (.ldvVersionMet r id) s = .next (s.ldvStep r id) := by
  simp only [exec, execLdvVersionMet]
theorem exec_quantumCommit (s : State) (d : Fin 4) (n : BitVec 12) : exec (.quantumCommit d n) s = .next (s.quantumStep (launchKey d n.toNat)) := by
  simp only [exec, execQuantumCommit]
theorem exec_jnIsbDeadlock (s : State) (e : ElemAt) (ical : Bool) : exec (.jnIsbDeadlock e ical) s = .next (s.isbDeadlock e ical) := by
  simp only [exec, execJnIsbDeadlock]
theorem exec_configFetch (s : State) (r : RingAt) (entry : BitVec 12) (stage : BitVec 16) :
    exec (.configFetch r entry stage) s = .next (s.configFetch r entry.toNat stage.toNat) := by
  simp only [exec, execConfigFetch]
theorem exec_configLoad (s : State) (p : StripeAt) : exec (.configLoad p) s = .next (s.configLoad p) := by
  simp only [exec, execConfigLoad]
theorem exec_pphase (s : State) (p : Params) : exec (.pphase p) s = .next (s.pphase p) := by
  simp only [exec, execPphase]
theorem exec_pevict (s : State) (p : Params) : exec (.pevict p) s = .next (s.pevict p) := by
  simp only [exec, execPevict]
theorem exec_prestore (s : State) (p : Params) : exec (.prestore p) s = .next (s.prestore p) := by
  simp only [exec, execPrestore]
theorem exec_pcompact (s : State) (p : Params) : exec (.pcompact p) s = .next (s.pcompact p) := by
  simp only [exec, execPcompact]
theorem exec_palmw (s : State) (p : Params) : exec (.palmw p) s = .next (s.palmw p) := by
  simp only [exec, execPalmw]
theorem exec_pwsw (s : State) (p : Params) : exec (.pwsw p) s = .next (s.pwsw p) := by
  simp only [exec, execPwsw]
theorem exec_prsw (s : State) (p : Params) : exec (.prsw p) s = .next (s.prsw p) := by
  simp only [exec, execPrsw]
theorem exec_ppref (s : State) (p : Params) : exec (.ppref p) s = .next (s.ppref p) := by
  simp only [exec, execPpref]
theorem exec_peqwait (s : State) (p : Params) : exec (.peqwait p) s = .next (s.peqwait p) := by
  simp only [exec, execPeqwait]

end Sys2Proof.Machine

/-! PROOFS. Firings that fault: TRAP, an operand of another format, and an index without a usable entry (03 R93, R129; 09 R315, R340). -/

namespace Sys2Proof.Machine

/-! ### The condition that a faulting firing takes (01 R41) -/

/-- Of several conditions the first of the lowest code is taken. -/
theorem lowestFlt_first {l m : List Flt} {f : Flt} (hl : ∀ g ∈ l, f.code < g.code) (hm : ∀ g ∈ m, f.code ≤ g.code) :
    lowestFlt (l ++ f :: m) = some f := by
  have hcode {n : List Flt} (h : ∀ g ∈ n, f.code ≤ g.code) {g : Flt} (hg : lowestFlt n = some g) : f.code ≤ g.code := by
    induction n generalizing g with
    | nil => cases hg
    | cons a as ih =>
      simp only [lowestFlt] at hg
      split at hg
      · split at hg
        · obtain rfl := Option.some.inj hg
          exact ih (fun x hx => h x (List.mem_cons_of_mem _ hx)) ‹_›
        · obtain rfl := Option.some.inj hg
          exact h _ List.mem_cons_self
      · obtain rfl := Option.some.inj hg
        exact h _ List.mem_cons_self
  induction l with
  | nil =>
    rw [List.nil_append, lowestFlt]
    split
    · next g hg => rw [if_neg (Nat.not_lt.2 (hcode hm hg))]
    · rfl
  | cons a as ih =>
    rw [List.cons_append, lowestFlt, ih fun g hg => hl g (List.mem_cons_of_mem _ hg)]
    exact if_pos (hl a List.mem_cons_self)

/-- The faults of a firing's tags have codes 0x03 to 0x05 (08 R311). -/
theorem State.tagFaults_code {s : State} {x : Firing} {tag : TagAct} {b : Reg} {out : Bool} {f : Flt} (h : f ∈ s.tagFaults x tag b out) :
    0 < f.code := by
  simp only [State.tagFaults, List.mem_append, List.mem_map] at h
  rcases h with (⟨v, -, rfl⟩ | h) | h
  · exact Nat.succ_pos _
  · split at h
    · obtain rfl := List.mem_singleton.1 h
      exact Nat.succ_pos _
    · cases h
  · split at h
    · obtain rfl := List.mem_singleton.1 h
      exact Nat.succ_pos _
    · cases h

/-- The firing of the focus that commits with a condition takes the one of the lowest code. -/
theorem State.commit_takes {s : State} {c : Commit} {f : Flt}
    (h : lowestFlt (s.tagFaults s.firing c.tag c.b (c.results.any fun p => isOut p.1) ++ c.faults) = some f) (hd : f.disp = 1) :
    FaultTaken s (.next (s.commit s.firing c)) f.code f.aux := by
  rw [State.commit_fault h]
  exact s.elemFault_taken f hd

/-- Its one condition, when its tags meet none. -/
theorem State.commit_takes_only {s : State} {c : Commit} {f : Flt}
    (ht : s.tagFaults s.firing c.tag c.b (c.results.any fun p => isOut p.1) = []) (hf : c.faults = [f]) (hd : f.disp = 1) :
    FaultTaken s (.next (s.commit s.firing c)) f.code f.aux := State.commit_takes (by rw [ht, hf]; rfl) hd

/-! ### The three faults -/

/-- TRAP meets its one condition whatever its operand holds (09 R340). -/
theorem trapFaults : Claim.TrapFaults := fun s a _ _ ht =>
  State.commit_takes_only (f := fltTrap s.firing.el ((s.firing.src a).lane 0)) ht rfl rfl

/-- An operand of another format is found before every other condition, for no code is lower. -/
theorem fire2_formatFault {s : State} {set : FmtSet} {op : OpIn → OpOut} {a b d sel : BitVec 5} {t : TagAct} {q : Bool} {f : Fmt} {m : List Flt}
    (h : s.firing.inSet set a ++ s.firing.elemOperand (s.firing.opFmt (s.firing.src a)) a ++ s.firing.elemOperand (s.firing.opFmt (s.firing.src a)) b =
      elFormat s.firing.el sel f :: m) :
    FaultTaken s (.next (fire2 set true op a b d t q s)) 0x00 (sel.toNat * 256 + f.code) := by
  refine State.commit_takes (s := s) (f := elFormat s.firing.el sel f) ?_ rfl
  refine (congrArg (fun l => lowestFlt (_ ++ l)) h).trans (lowestFlt_first (fun g hg => ?_) fun g _ => Nat.zero_le _)
  exact State.tagFaults_code hg

/-- The select outside the set is found first, then A, then B (09 R315). -/
theorem formatFault : Claim.FormatFault := by
  intro s a b d t q x A B
  refine ⟨fun hf => ?_, fun hf ha hb => ?_⟩
  · have hset : x.inSet setI a = [elFormat x.el a (x.opFmt A)] := if_neg (by simpa [setI] using hf)
    exact fire2_formatFault (by rw [hset]; rfl)
  · have hset : x.inSet setI a = [] := Firing.inSet_nil (by rw [hf]; rfl)
    have hA : x.elemOperand (x.opFmt A) a = [] := Firing.elemOperand_nil (by rw [hf]; exact ha)
    have hB : x.elemOperand (x.opFmt A) b = [elFormat x.el b B.fmt] := by
      rw [hf]
      exact if_pos (by simpa [Firing.carries] using hb)
    exact fire2_formatFault (by rw [hset, hA, hB]; rfl)

/-- A descriptor whose index names no usable entry. -/
theorem State.memFlts_unusable {s : State} {x : Firing} {k : MemKind} {w0 : Word} (hk : k ≠ .fence ∧ k ≠ .fencex)
    (h : ∀ r, s.opRes x.el x.launch w0 = some r → r.usable = false) (a b : Reg) : s.memFlts x k w0 a b = [jnFlt 0x40 (dRidx w0)] := by
  rw [State.memFlts, if_neg (by simpa using hk)]
  cases hr : s.opRes x.el x.launch w0 with
  | none => rfl
  | some r => simp [h r hr]

/-- An unusable index leaves no other condition of LD but those of its tags (03 R93, R129). -/
theorem badResourceFaults : Claim.BadResourceFaults := by
  intro s a d m t q x w0 hr ho ht
  have hmem := State.memFlts_unusable (k := .ld) (by decide) hr (x.src a) (x.src 24)
  refine State.commit_takes_only (f := jnFlt 0x40 (dRidx w0)) ht ?_ rfl
  have hb : x.outAlias d t (x.src 24) = [] := ho
  show s.memFlts x .ld w0 (x.src a) (x.src 24) ++ x.outAlias d t (x.src 24) ++ _ ++ _ = _
  rw [hmem, hb]
  simp

/-- Settles O10: each form meets one condition of the lowest code, and its firing takes it. -/
theorem faultingForms : Obligations.FaultingForms := ⟨trapFaults, formatFault, badResourceFaults⟩

end Sys2Proof.Machine

/-! PROOFS. Results that are delivered to the firing they are owed to (12 R385). -/

namespace Sys2Proof.Machine

/-! ### What a delivery leaves alone -/

/-- A delivery changes its element, or the results that its ring keeps. -/
theorem State.deliver_keeps {α : Type} (p : State → α) (he : ∀ (t : State) e f, p (t.onElem e f) = p t) (hr : ∀ (t : State) r f, p (t.onRing r f) = p t)
    (s : State) (e : ElemAt) (ical : Bool) (op : Nat) (k : Token) : p (s.deliver e ical op k) = p s := by
  unfold State.deliver
  split
  · rfl
  · dsimp only
    split
    · split
      · rw [he, he]
      · split
        · rw [State.stage, he, he]
        · rw [he]
    · exact hr _ _ _

theorem State.deliver_ring_keeps {α : Type} (p : Ring → α) (h : ∀ x hs, p { x with heldResults := hs } = p x) (s : State) (e : ElemAt) (ical : Bool)
    (op : Nat) (k : Token) (r : RingAt) : p ((s.deliver e ical op k).ring r) = p (s.ring r) := by
  unfold State.deliver
  split
  · rfl
  · dsimp only
    split
    · split
      · rfl
      · split <;> rfl
    · exact State.onRing_keeps p s _ (fun x => h x _) r

@[simp] theorem State.paid_rings (s : State) (e : ElemAt) (ical : Bool) (l : Nat) : (s.paid e ical l).rings = s.rings := rfl
@[simp] theorem State.paid_hbm (s : State) (e : ElemAt) (ical : Bool) (l : Nat) : (s.paid e ical l).hbm = s.hbm := rfl
@[simp] theorem State.paid_hostMem (s : State) (e : ElemAt) (ical : Bool) (l : Nat) : (s.paid e ical l).hostMem = s.hostMem := rfl
@[simp] theorem State.paid_versions (s : State) (e : ElemAt) (ical : Bool) (l : Nat) : (s.paid e ical l).versions = s.versions := rfl

theorem State.paid_keeps {α : Type} (p : State → α) (he : ∀ (t : State) e f, p (t.onElem e f) = p t) (hl : ∀ (t : State) l f, p (t.onLaunch l f) = p t)
    (s : State) (e : ElemAt) (ical : Bool) (l : Nat) : p (s.paid e ical l) = p s := (hl _ _ _).trans (he _ _ _)

/-- A payment counts down what its element is owed, and no more. -/
theorem State.paid_elem_keeps {α : Type} (p : Elem → α) (h : ∀ x n m, p { x with owed := n, owedI := m } = p x) (s : State) (e : ElemAt) (ical : Bool)
    (l : Nat) : p ((s.paid e ical l).elem e) = p (s.elem e) := by
  rw [State.paid, State.onLaunch, State.setLaunch, State.elem_of_elems (State.onDie_elems _ _ _), State.elem_onElem]
  cases ical
  · exact h (s.elem e) _ (s.elem e).owedI
  · exact h (s.elem e) (s.elem e).owed _

/-! ### What a delivery does -/

/-- A staging that takes no more results: two tokens of the plane stand in it (08 R275). -/
def State.stagingFull (s : State) (e : ElemAt) (ical : Bool) (dst : BitVec 5) : Prop := ∃ n : Fin 8, dst.toNat = 8 + n.val ∧ 2 ≤ (s.elem e).staged ical n

theorem State.stagingFull_iff (s : State) (e : ElemAt) (ical : Bool) (dst : BitVec 5) :
    (decide (8 ≤ dst.toNat ∧ dst.toNat < 16) && decide (stageCap ≤ (s.elem e).staged ical (Fin.ofNat 8 dst.toNat))) = true ↔ s.stagingFull e ical dst := by
  rw [Bool.and_eq_true, decide_eq_true_eq, decide_eq_true_eq]
  refine ⟨fun ⟨hd, h⟩ => ⟨Fin.ofNat 8 dst.toNat, by simp; omega, h⟩, fun ⟨n, hn, h⟩ => ⟨by omega, ?_⟩⟩
  rwa [show Fin.ofNat 8 dst.toNat = n by ext; simp; omega]

/-- An element that takes result `k` of its firing `op`: it is owed no more, and stands where `dst` says. -/
def Elem.settle (ical : Bool) (op : Nat) (dst : BitVec 5) (k : Token) (par : Bool) (x : Elem) : Elem :=
  let x := { x with pend := x.pend.filter fun p => p.op != op }
  if dst.toNat < 8 then x.setPlane ical ((x.plane ical).write dst k.body)
  else if dst.toNat < 16 then { x with out := x.out.set (Fin.ofNat 8 dst.toNat) (x.out[Fin.ofNat 8 dst.toNat] ++ [⟨k, par, ical⟩]) }
  else x

theorem Elem.settle_pend (ical : Bool) (op : Nat) (dst : BitVec 5) (k : Token) (par : Bool) (x : Elem) :
    (x.settle ical op dst k par).pend = x.pend.filter fun p => p.op != op := by
  unfold Elem.settle
  split
  · cases ical <;> rfl
  · split <;> rfl

theorem Elem.settle_isb (ical : Bool) (op : Nat) (dst : BitVec 5) (k : Token) (par : Bool) (x : Elem) : (x.settle ical op dst k par).isb = x.isb := by
  unfold Elem.settle
  split
  · cases ical <;> rfl
  · split <;> rfl

theorem Elem.settle_d (ical : Bool) (op : Nat) {dst : BitVec 5} (k : Token) (par : Bool) (x : Elem) {n : Fin 8} (h : dst.toNat = n.val) :
    ((x.settle ical op dst k par).plane ical).d[n] = k.body := by
  unfold Elem.settle
  simp only [if_pos (show dst.toNat < 8 by omega), Elem.plane_setPlane]
  exact Plane.write_d _ _ _ n h

theorem Elem.settle_out (ical : Bool) (op : Nat) {dst : BitVec 5} (k : Token) (par : Bool) (x : Elem) {n : Fin 8} (h : dst.toNat = 8 + n.val) :
    (x.settle ical op dst k par).out[n] = x.out[n] ++ [⟨k, par, ical⟩] := by
  have hn : Fin.ofNat 8 dst.toNat = n := by ext; simp; omega
  unfold Elem.settle
  simp only [if_neg (show ¬dst.toNat < 8 by omega), if_pos (show dst.toNat < 16 by omega), hn]
  exact Vector.getElem_set_self _

section Deliver
variable {s : State} {e : ElemAt} {ical : Bool} {op : Nat} {p : Pend} (hp : ((s.elem e).pend.find? fun p => p.op == op) = some p) (k : Token)
include hp

theorem State.deliver_goes (hm : s.moving e.at_ ical = true) (hf : ¬s.stagingFull e ical p.dst) :
    (s.deliver e ical op k).elem e = (s.elem e).settle ical op p.dst k ((s.stripe e.at_).parity ical) := by
  rw [← State.stagingFull_iff, Bool.not_eq_true] at hf
  simp only [State.deliver, hp, hm, hf, Bool.not_false, Bool.and_self, if_true, Elem.settle]
  split
  · rw [State.elem_onElem, State.elem_onElem]
  · split
    · rw [State.stage, State.elem_onElem, State.elem_onElem]
      rfl
    · rw [State.elem_onElem]

theorem State.deliver_waits (h : s.moving e.at_ ical = false ∨ s.stagingFull e ical p.dst) :
    s.deliver e ical op k = s.onRing e.at_.ring fun r => { r with heldResults := r.heldResults ++ [⟨e.key, ical, op, k⟩] } := by
  have hstays : (s.moving e.at_ ical && !(decide (8 ≤ p.dst.toNat ∧ p.dst.toNat < 16) &&
      decide (stageCap ≤ (s.elem e).staged ical (Fin.ofNat 8 p.dst.toNat)))) = false := by
    rcases h with h | h
    · rw [h, Bool.false_and]
    · rw [(State.stagingFull_iff s e ical p.dst).2 h, Bool.not_true, Bool.and_false]
  simp only [State.deliver, hp, hstays, Bool.false_eq_true, if_false]

end Deliver

/-- A delivery leaves the store buffer of its element. -/
theorem State.deliver_isb (s : State) (e : ElemAt) (ical : Bool) (op : Nat) (k : Token) : ((s.deliver e ical op k).elem e).isb = (s.elem e).isb := by
  cases hp : (s.elem e).pend.find? fun p => p.op == op with
  | none => simp only [State.deliver, hp]
  | some p =>
    by_cases h : s.moving e.at_ ical = true ∧ ¬s.stagingFull e ical p.dst
    · rw [State.deliver_goes hp k h.1 h.2, Elem.settle_isb]
    · rw [State.deliver_waits hp k (by rwa [not_and_or, Bool.not_eq_true, not_not] at h)]
      rfl

/-- The result stands in its place, or with the ring while its plane is frozen or its staging is full. -/
theorem State.deliver_settles (s : State) (e : ElemAt) (ical : Bool) (op : Nat) (k : Token) (l : Nat) :
    Settles s ((s.deliver e ical op k).paid e ical l) e ical op k := by
  intro p hp full
  have hpend := State.paid_elem_keeps Elem.pend (by intros; rfl) (s.deliver e ical op k) e ical l
  have hplane := State.paid_elem_keeps (Elem.plane · ical) (by intros; cases ical <;> rfl) (s.deliver e ical op k) e ical l
  have hout := State.paid_elem_keeps Elem.out (by intros; rfl) (s.deliver e ical op k) e ical l
  refine ⟨fun hm hf => ?_, fun h => ?_⟩
  · rw [hpend, hplane, hout, State.deliver_goes hp k hm hf]
    refine ⟨fun q hq => ?_, fun n hn => Elem.settle_d _ _ _ _ _ hn, fun n hn => Elem.settle_out _ _ _ _ _ hn⟩
    rw [Elem.settle_pend] at hq
    simpa using (List.mem_filter.1 hq).2
  · rw [State.ring_of_rings (State.paid_rings ..), State.deliver_waits hp k h, State.ring_onRing]

/-- What is owed and where it may go is the same in two states whose elements, stripes and rings' occupation and kept results are. -/
theorem Settles.of_same {s u t : State} {e : ElemAt} {ical : Bool} {op : Nat} {k : Token} (h : Settles u t e ical op k) (he : u.elems = s.elems)
    (hs : u.stripes = s.stripes) (ho : (u.ring e.at_.ring).occupied = (s.ring e.at_.ring).occupied)
    (hr : (u.ring e.at_.ring).heldResults = (s.ring e.at_.ring).heldResults) : Settles s t e ical op k := by
  unfold Settles at h ⊢
  simpa only [State.elem_of_elems he, State.stripe_of_stripes hs, hr, State.moving, ho] using h

end Sys2Proof.Machine

/-! PROOFS. Wave order: an operation links behind the tail of its chain, waits, or breaks its chain (03 R110, R112, R123). -/

namespace Sys2Proof.Machine

/-! ### Chains -/

/-- An operation that becomes the tail of its chain is found there. -/
theorem Ring.chain_linkTail (x : Ring) (o : MemOp) :
    (x.linkTail o).chain o = { x.chain o with tail := some o.w1, seqs := (x.chain o).seqs ++ [wSeq o.w1] } := by
  have hmine : o.chainOf (x.chain o) = true := by
    unfold Ring.chain
    cases hc : x.chains.find? o.chainOf with
    | none => simp [MemOp.chainOf]
    | some c => exact List.find?_some hc
  have hnone : ((x.chains.filter fun c => !o.chainOf c).find? o.chainOf) = none :=
    List.find?_eq_none.2 fun c hc => by simpa using (List.mem_filter.1 hc).2
  unfold Ring.linkTail
  simp only [Ring.chain, List.find?_append, hnone, Option.none_or]
  rw [List.find?_cons_of_pos (by exact hmine)]
  rfl

/-- No operation of an identifier is left among those that arrive or wait. -/
theorem Ring.unarrive_ids (x : Ring) (o : MemOp) : ∀ p ∈ (x.unarrive o).arriving ++ (x.unarrive o).waveBuf, p.id ≠ o.id := by
  intro p hp
  rcases List.mem_append.1 hp with h | h <;> simpa using (List.mem_filter.1 h).2

/-! ### Linking -/

theorem Ring.chain_of_chains {x y : Ring} (h : y.chains = x.chains) (o : MemOp) : y.chain o = x.chain o := by unfold Ring.chain; rw [h]

/-- A settled operation leaves its ring as it was, but for the results that it keeps. -/
theorem State.settle_ring_keeps {α : Type} (p : Ring → α) (h : ∀ x hs, p { x with heldResults := hs } = p x) (s : State) (o : MemOp) (v : Reg)
    (r : RingAt) : p ((s.settle o v).ring r) = p (s.ring r) :=
  (congrArg p (State.ring_of_rings (State.paid_rings ..) r)).trans (State.deliver_ring_keeps p h ..)

theorem State.settle_keeps {α : Type} (p : State → α) (he : ∀ (t : State) e f, p (t.onElem e f) = p t) (hr : ∀ (t : State) r f, p (t.onRing r f) = p t)
    (hl : ∀ (t : State) l f, p (t.onLaunch l f) = p t) (s : State) (o : MemOp) (v : Reg) : p (s.settle o v) = p s :=
  (State.paid_keeps p he hl ..).trans (State.deliver_keeps p he hr ..)

/-- Its element's store buffer stays. -/
theorem State.settle_isb (s : State) (o : MemOp) (v : Reg) :
    ((s.settle o v).elem (ElemAt.ofKey o.elem)).isb = (s.elem (ElemAt.ofKey o.elem)).isb :=
  (State.paid_elem_keeps Elem.isb (by intros; rfl) ..).trans (State.deliver_isb ..)

/-- A number is given to the operation that links. -/
def State.nextOp (s : State) : State := { s with opCtr := s.opCtr + 1 }

/-- A write to be held links: it enters the store buffer of its element (12 R393). -/
def State.hold (s : State) (r : RingAt) (o : MemOp) : State :=
  (s.nextOp.onRing r fun x => (x.unarrive o).linkTail o).onElem (ElemAt.ofKey o.elem) fun x =>
    { x with isb := x.isb ++ [.held { o with held := true, seq := s.opCtr, stalled := 0 }] }

theorem State.hold_ring (s : State) (r : RingAt) (o : MemOp) : (s.hold r o).ring r = ((s.ring r).unarrive o).linkTail o :=
  State.ring_onRing s.nextOp r fun x => (x.unarrive o).linkTail o

theorem State.linkOp_held {s : State} {o : MemOp} (h : s.holds o = true) (r : RingAt) : ∃ v, s.linkOp r o = (s.hold r o).settle o v := by
  unfold State.linkOp
  simp only [h, if_true]
  exact ⟨_, rfl⟩

theorem State.linkOp_linked {s : State} {o : MemOp} (h : s.holds o = false) (r : RingAt) :
    s.linkOp r o = s.nextOp.onRing r fun x =>
      { (x.unarrive o).linkTail o with linked := x.linked ++ [{ o with seq := s.opCtr, ready := o.kind != .ldv, stalled := 0 }] } := by
  unfold State.linkOp
  simp only [h, Bool.false_eq_true, if_false]
  rfl

/-- Of its ring, linking changes chains, the operations that wait, the linked ones and the results kept. -/
theorem State.linkOp_ring {α : Type} (p : Ring → α) (hl : ∀ x l, p { x with linked := l } = p x) (hh : ∀ x hs, p { x with heldResults := hs } = p x)
    (s : State) (r : RingAt) (o : MemOp) : p ((s.linkOp r o).ring r) = p (((s.ring r).unarrive o).linkTail o) := by
  cases h : s.holds o with
  | true =>
    obtain ⟨v, hv⟩ := State.linkOp_held h r
    rw [hv, State.settle_ring_keeps p hh, State.hold_ring]
  | false =>
    rw [State.linkOp_linked h, State.ring_onRing]
    exact hl _ _

theorem State.linkOp_keeps {α : Type} (p : State → α) (he : ∀ (t : State) e f, p (t.onElem e f) = p t) (hr : ∀ (t : State) r f, p (t.onRing r f) = p t)
    (hl : ∀ (t : State) l f, p (t.onLaunch l f) = p t) (hn : ∀ t : State, p t.nextOp = p t) (s : State) (r : RingAt) (o : MemOp) :
    p (s.linkOp r o) = p s := by
  cases h : s.holds o with
  | true =>
    obtain ⟨v, hv⟩ := State.linkOp_held h r
    rw [hv, State.settle_keeps p he hr hl, State.hold, he, hr, hn]
  | false => rw [State.linkOp_linked h, hr, hn]

/-- R110: an operation that links is the tail of its chain, waits no longer, and stands with the linked ones or in its store buffer. -/
theorem State.linkOp_links (s : State) (r : RingAt) (o : MemOp) :
    let t := s.linkOp r o
    let c := (s.ring r).chain o
    ((t.ring r).chain o).tail = some o.w1 ∧ ((t.ring r).chain o).seqs = c.seqs ++ [wSeq o.w1] ∧
      (∀ p ∈ (t.ring r).arriving ++ (t.ring r).waveBuf, p.id ≠ o.id) ∧ t.hbm = s.hbm ∧ t.hostMem = s.hostMem ∧
      (s.holds o = false → (t.ring r).linked = (s.ring r).linked ++ [{ o with seq := s.opCtr, ready := o.kind != .ldv, stalled := 0 }]) ∧
      (s.holds o = true → (t.ring r).linked = (s.ring r).linked ∧
        (t.elem (ElemAt.ofKey o.elem)).isb = (s.elem (ElemAt.ofKey o.elem)).isb ++ [.held { o with held := true, seq := s.opCtr, stalled := 0 }]) := by
  have hchain : ((s.linkOp r o).ring r).chain o = _ :=
    (Ring.chain_of_chains (State.linkOp_ring Ring.chains (by intros; rfl) (by intros; rfl) s r o) o).trans (Ring.chain_linkTail _ o)
  have harr := State.linkOp_ring Ring.arriving (by intros; rfl) (by intros; rfl) s r o
  have hbuf := State.linkOp_ring Ring.waveBuf (by intros; rfl) (by intros; rfl) s r o
  refine ⟨congrArg Chain.tail hchain, congrArg Chain.seqs hchain, ?_,
    State.linkOp_keeps State.hbm (by intros; rfl) (by intros; rfl) (by intros; rfl) (by intros; rfl) s r o,
    State.linkOp_keeps State.hostMem (by intros; rfl) (by intros; rfl) (by intros; rfl) (by intros; rfl) s r o, fun h => ?_, fun h => ⟨?_, ?_⟩⟩
  · rw [harr, hbuf]
    exact (s.ring r).unarrive_ids o
  · rw [State.linkOp_linked h, State.ring_onRing]
    rfl
  · obtain ⟨v, hv⟩ := State.linkOp_held h r
    rw [hv, State.settle_ring_keeps Ring.linked (by intros; rfl), State.hold_ring]
    rfl
  · obtain ⟨v, hv⟩ := State.linkOp_held h r
    rw [hv, State.settle_isb, State.hold, State.elem_onElem]
    rfl

/-! ### Waiting -/

theorem Ring.stall_none (x : Ring) (fc : Nat) {p : MemOp → Bool} (h : ∀ o, p o = false) : x.stall fc p = x := by
  have hmark : (fun o : MemOp => if o.stalled = 0 ∧ p o = true then { o with stalled := fc + 1 } else o) = id :=
    funext fun o => if_neg fun k => by simp [h] at k
  simp only [Ring.stall, hmark, List.map_id]

theorem Ring.mem_fresh {x : Ring} {o : MemOp} (h : o ∈ x.fresh) : o ∈ x.arriving ∧ o.stalled = 0 := by
  obtain ⟨ha, hs⟩ := List.mem_filter.1 h
  rw [Bool.and_eq_true, beq_iff_eq] at hs
  exact ⟨ha, hs.1⟩

/-- The operations that can follow the tail of their chain: those that wait, then those that arrive and do not break it. -/
def Ring.next (x : Ring) : List MemOp := x.waiting.filter x.follows ++ x.fresh.filter fun o => !(x.chain o).wrong o.w1 && x.follows o

theorem State.waveLink_links {s : State} {r : RingAt} {o : MemOp} (h : ((s.ring r).next.find? fun o => !s.isbFull o) = some o) :
    s.waveLink r = s.linkOp r o := by
  unfold State.waveLink
  dsimp only
  rw [show (List.find? _ (_ ++ _)) = some o from h]

/-- With none that can, the oldest that arrives waits. -/
theorem State.waveLink_waits {s : State} {r : RingAt} {o : MemOp} (h : (s.ring r).next = [])
    (ho : ((s.ring r).fresh.find? fun o => !((s.ring r).chain o).wrong o.w1) = some o) :
    s.waveLink r =
      if (s.ring r).waveBuf.length < 256 then
        s.setRing r { s.ring r with arriving := (s.ring r).arriving.filter fun p => p.id != o.id, waveBuf := (s.ring r).waveBuf ++ [o] }
      else s.setRing r ((s.ring r).stall s.fc fun p => p.id == o.id) := by
  have hnext : (s.ring r).waiting.filter (s.ring r).follows ++ _ = [] := h
  unfold State.waveLink
  simp only [hnext, List.find?_nil, List.any_nil, Ring.stall_none _ _ fun _ => rfl, ho]

theorem wavesLink : Claim.WavesLink := by
  intro s o r x next
  refine ⟨fun h => ?_, fun h ho hroom => ?_, fun h ho hfull => ?_⟩
  · exact ⟨_, (exec_waveLink s).trans (congrArg _ (State.waveLink_links h)), State.linkOp_links s r o⟩
  · refine ⟨_, (exec_waveLink s).trans (congrArg _ ((State.waveLink_waits h ho).trans (if_pos hroom))), ?_⟩
    rw [State.ring_setRing]
    exact ⟨rfl, fun p hp => by simpa using (List.mem_filter.1 hp).2, rfl, rfl, rfl⟩
  · refine ⟨_, (exec_waveLink s).trans (congrArg _ ((State.waveLink_waits h ho).trans (if_neg (Nat.not_lt.2 hfull)))), ?_⟩
    obtain ⟨ha, hs⟩ := Ring.mem_fresh (List.mem_of_find?_eq_some ho)
    rw [State.ring_setRing]
    refine ⟨⟨{ o with stalled := s.fc + 1 }, List.mem_map.2 ⟨o, ha, if_pos ⟨hs, by simp⟩⟩, rfl, rfl⟩, rfl, rfl, rfl⟩

/-! ### An operation that breaks its chain (03 R112) -/

theorem State.elemFault_records (s : State) (e : ElemAt) (ical : Bool) (i : Fin 16) (c : Nat) (ctx : BitVec 6) (v : BitVec 12) (f : Flt) :
    Records s (s.elemFault e ical (some i) c ctx v f) e.at_.ring.die f.code f.aux f.disp := State.takeFault_records ..

theorem State.elemFault_ring_keeps {α : Type} (p : Ring → α) (h : ∀ x hs, p { x with fholds := hs } = p x) (s : State) (e : ElemAt) (ical : Bool)
    (slot : Option (Fin 16)) (c : Nat) (ctx : BitVec 6) (v : BitVec 12) (f : Flt) (q : RingAt) :
    p ((s.elemFault e ical slot c ctx v f).ring q) = p (s.ring q) := State.takeFault_ring_keeps (p := p) (h := h) ..

/-- An operation that faults as it is taken out of a ring: its record waits, and nothing else of the ring and no memory changes. -/
theorem State.elemFault_drops {s : State} {r : RingAt} {f : Ring → Ring} {o : MemOp} {g : Flt} :
    let t := (s.onRing r f).elemFault (ElemAt.ofKey o.elem) o.ical (some o.islot) 0 o.ctx o.iter g
    Records s t (ElemAt.ofKey o.elem).at_.ring.die g.code g.aux g.disp ∧ (t.ring r).arriving = (f (s.ring r)).arriving ∧
      (t.ring r).waveBuf = (f (s.ring r)).waveBuf ∧ (t.ring r).linked = (f (s.ring r)).linked ∧ t.hbm = s.hbm ∧ t.hostMem = s.hostMem := by
  refine ⟨(State.elemFault_records ..).of_eq rfl rfl, ?_, ?_, ?_, State.takeFault_hbm .., State.takeFault_hostMem ..⟩
  · rw [State.elemFault_ring_keeps Ring.arriving (by intros; rfl), State.ring_onRing]
  · rw [State.elemFault_ring_keeps Ring.waveBuf (by intros; rfl), State.ring_onRing]
  · rw [State.elemFault_ring_keeps Ring.linked (by intros; rfl), State.ring_onRing]

/-- The operation that breaks its chain: one that arrives, or else one that waits and that nothing can link any longer. -/
def State.waveBreaker (s : State) (r : RingAt) : Option MemOp :=
  ((s.ring r).fresh.find? fun o => ((s.ring r).chain o).wrong o.w1).or ((s.ring r).waveBuf.find? fun o => s.neverLinks r o)

theorem State.memWave_none {s : State} {r : RingAt} (h : s.waveBreaker r = none) : s.memWave r = s := by
  unfold State.waveBreaker at h
  simp only [State.memWave, h]

theorem State.memWave_some {s : State} {r : RingAt} {o : MemOp} (h : s.waveBreaker r = some o) :
    s.memWave r = (s.onRing r fun x => x.unarrive o).elemFault (ElemAt.ofKey o.elem) o.ical (some o.islot) 0 o.ctx o.iter
      (jnFlt 0x45 (o.w1.toNat + ((((s.ring r).chain o).tail.map BitVec.toNat).getD 0) * 2 ^ 32)) := by
  unfold State.waveBreaker at h
  simp only [State.memWave, h]

theorem brokenWaveFaults : Claim.BrokenWaveFaults := by
  intro s o r x bad
  refine ⟨fun h => ?_, fun h => ?_⟩
  · rw [exec_memWave, State.memWave_none h]
  · rw [exec_memWave, State.memWave_some h]
    obtain ⟨hrec, harr, hbuf, hlinked, hhbm, hhost⟩ := State.elemFault_drops (s := s) (r := r) (f := fun x => x.unarrive o) (o := o)
    refine ⟨_, rfl, hrec, ?_, hlinked, hhbm, hhost⟩
    rw [harr, hbuf]
    exact x.unarrive_ids o

/-- Settles O19: an operation that links changes its chain's tail and its own place, and one that breaks its chain is one `elemFault`. -/
theorem wavesOrderMemory : Obligations.WavesOrderMemory := ⟨wavesLink, brokenWaveFaults⟩

end Sys2Proof.Machine

/-! PROOFS. Linked operations are performed, versioned loads wait, and watches are installed and wake (03 R111, R115; 12 R385, R397). -/

namespace Sys2Proof.Machine

/-! ### What keeps an operation back (03 R111) -/

/-- An LDV and the fences are passed by none, and fences and releases pass none. -/
theorem State.passes_none {s : State} {p o : MemOp}
    (h : p.kind ∈ [.ldv, .fence, .fencex] ∨ o.kind ∈ [.fence, .fencex, .stv, .recl, .signal]) : s.passes p o = false := by
  have hkinds : (o.kind.plain && (p.kind.plain || p.kind.store)) = false := by
    simp only [List.mem_cons, List.not_mem_nil, or_false] at h
    rcases h with (h | h | h) | (h | h | h | h | h) <;> rw [h] <;> simp [MemKind.plain, MemKind.store]
  unfold State.passes
  rw [hkinds, Bool.false_and]

theorem State.not_performable {s : State} {r : RingAt} {p o : MemOp} (hp : p ∈ (s.ring r).linked) (hl : p.launch = o.launch) (hc : p.ctx = o.ctx)
    (hi : p.iter = o.iter) (hs : p.seq < o.seq) (h : s.passes p o = false) : s.performable r o = false := by
  have hfree : s.chainFree r o = false :=
    List.all_eq_false.2 ⟨p, hp, by simp [hl, hc, hi, hs, h]⟩
  simp only [State.performable, hfree, Bool.false_and]

/-! ### A reply -/

/-- A ring that an operation leaves. -/
def Ring.unlink (id : Nat) (x : Ring) : Ring := { x with linked := x.linked.filter fun p => p.id != id }

theorem Ring.unlink_ids (id : Nat) (x : Ring) : ∀ p ∈ (x.unlink id).linked, p.id ≠ id := fun p hp => by
  simpa using (List.mem_filter.1 hp).2

section Reply
variable {s u : State} {r : RingAt} {o : MemOp} (hf : ((s.ring r).linked.find? fun p => p.id == o.id) = some o)
include hf

theorem State.memoryReply_kept (hp : s.performable r o = false) : s.memoryReply r o.id = s := by
  simp only [State.memoryReply, hf, hp, Bool.false_eq_true, if_false]

theorem State.memoryReply_done (hp : s.performable r o = true) {v : Reg} (hd : s.perform o = .done u v) :
    s.memoryReply r o.id = if o.kind = .waita then u.onRing r (Ring.unlink o.id) else (u.onRing r (Ring.unlink o.id)).settle o v := by
  simp only [State.memoryReply, hf, hp, if_true, hd]
  rfl

theorem State.memoryReply_wait (hp : s.performable r o = true) (hd : s.perform o = .wait u) : s.memoryReply r o.id = u := by
  simp only [State.memoryReply, hf, hp, if_true, hd]

theorem State.memoryReply_fail (hp : s.performable r o = true) {f : Flt} (hd : s.perform o = .fail f) :
    s.memoryReply r o.id = (s.onRing r (Ring.unlink o.id)).elemFault (ElemAt.ofKey o.elem) o.ical (some o.islot) 0 o.ctx o.iter f := by
  simp only [State.memoryReply, hf, hp, if_true, hd]
  rfl

end Reply

/-- What an operation that has left its ring settles it settles there. -/
theorem State.settle_settles (u : State) (r : RingAt) (o : MemOp) (v : Reg) :
    Settles u ((u.onRing r (Ring.unlink o.id)).settle o v) (ElemAt.ofKey o.elem) o.ical o.id (o.token v) :=
  (State.deliver_settles _ _ _ _ _ _).of_same rfl rfl (State.onRing_keeps Ring.occupied _ _ (by intros; rfl) _)
    (State.onRing_keeps Ring.heldResults _ _ (by intros; rfl) _)

theorem memoryRepliesDeliver : Claim.MemoryRepliesDeliver := by
  intro s r o drop el hf
  rw [exec_memoryReply]
  refine ⟨fun hp => ?kept, fun p hp hl hc hi hs hk => ?behind, fun hp => ⟨fun u v hd => ?done, fun u hd => ?waits, fun f hd => ?fails⟩⟩
  case kept => rw [State.memoryReply_kept hf hp]
  case behind => rw [State.memoryReply_kept hf (State.not_performable hp hl hc hi hs (State.passes_none hk))]
  case waits => rw [State.memoryReply_wait hf hp hd]
  case fails =>
    rw [State.memoryReply_fail hf hp hd]
    obtain ⟨hrec, -, -, hlinked, hhbm, hhost⟩ := State.elemFault_drops (s := s) (r := r) (f := Ring.unlink o.id) (o := o) (g := f)
    exact ⟨_, rfl, hlinked ▸ Ring.unlink_ids o.id _, hrec, hhbm, hhost⟩
  case done =>
    rw [State.memoryReply_done hf hp hd]
    by_cases hw : o.kind = .waita
    · rw [if_pos hw]
      refine ⟨_, rfl, ?_, rfl, rfl, rfl, fun _ => rfl, fun h => absurd hw h⟩
      rw [State.ring_onRing]
      exact Ring.unlink_ids o.id _
    · rw [if_neg hw]
      refine ⟨_, rfl, ?_, State.settle_keeps State.hbm (by intros; rfl) (by intros; rfl) (by intros; rfl) ..,
        State.settle_keeps State.hostMem (by intros; rfl) (by intros; rfl) (by intros; rfl) ..,
        State.settle_keeps State.versions (by intros; rfl) (by intros; rfl) (by intros; rfl) .., fun h => absurd h hw, fun _ => State.settle_settles u r o v⟩
      rw [State.settle_ring_keeps Ring.linked (by intros; rfl), State.ring_onRing]
      exact Ring.unlink_ids o.id _

/-! ### The version that a load waits for (03 R115) -/

/-- A walk leaves rings and memories. -/
theorem State.walkFor_keeps {α : Type} (p : State → α) (h : ∀ (t : State) d f, p (t.onDie d f) = p t) (s : State) (d : Fin 4)
    (j : BitVec 20) (va : Nat) (w : Bool) (ring : Option (Fin 4)) (hart : Option (Fin 64)) (q : Option (BitVec 20 × BitVec 16)) (site : FRec) (op : Option Nat) :
    p (s.walkFor d j va w ring hart q site op) = p s := h _ _ _

/-- The walk that an operation's miss asks for. -/
def State.opWalk (s : State) (o : MemOp) (va : Nat) (write : Bool) : State :=
  s.walkFor (ElemAt.ofKey o.elem).at_.ring.die (s.opPasid o) va write (some (ElemAt.ofKey o.elem).at_.ring.ring) none (s.launchQueue o.launch) (s.opSite o)
    (some o.id)

/-- An access waits for a walk, fails, or is made under a key. -/
theorem State.reach_cases (s : State) (o : MemOp) (r : Res) (spans : List (Nat × Nat)) (write : Bool) (k : Key → Perf) :
    (∃ va, s.reach o r spans write k = .wait (s.opWalk o va write)) ∨ (∃ f, s.reach o r spans write k = .fail f) ∨
      ∃ key, s.reach o r spans write k = k key := by
  unfold State.reach
  dsimp only
  split
  · exact .inl ⟨_, rfl⟩
  · split
    · next key _ =>
      cases (if write && o.kind != .signal then none else spans.findSome? fun p =>
        s.vaBad (ElemAt.ofKey o.elem).at_.ring.die (s.opPasid o) (vaOf r.base p.1) p.2 write) with
      | none => exact .inr (.inr ⟨key, rfl⟩)
      | some a => exact .inr (.inl ⟨_, rfl⟩)
    · split
      · exact .inr (.inl ⟨_, rfl⟩)
      · exact .inr (.inr ⟨_, rfl⟩)

/-- A read of a span whose pages are cached and whose granules have no error, under a slot that holds a key. -/
theorem State.reach_read {s : State} {o : MemOp} {r : Res} {p : Nat × Nat} {key : Key}
    (hm : s.missVa (ElemAt.ofKey o.elem).at_.ring.die (s.opPasid o) (vaOf r.base p.1) p.2 false = none)
    (hb : s.vaBad (ElemAt.ofKey o.elem).at_.ring.die (s.opPasid o) (vaOf r.base p.1) p.2 false = none) (h0 : r.keyidx ≠ 0)
    (hk : s.keyOf r.keyidx = some key) (k : Key → Perf) : s.reach o r [p] false k = k key := by
  simp [State.reach, hm, hb, h0, hk]

section Load
variable {s : State} {r : RingAt} {o : MemOp} {e : Res}
  (hf : ((s.ring r).linked.find? fun p => p.id == o.id && p.kind == .ldv) = some o) (he : s.opRes (ElemAt.ofKey o.elem) o.launch o.w0 = some e)
include hf he

theorem State.ldvStep_met (hm : s.ldvMet o e = true) :
    s.ldvStep r o.id = s.onRing r fun x => { x with linked := x.linked.map fun p => if p.id = o.id then { p with ready := true } else p } := by
  simp only [State.ldvStep, hf, he, hm, if_true]

theorem State.ldvStep_spad (hm : s.ldvMet o e = false) (hs : e.space = 1) : s.ldvStep r o.id = s := by
  simp only [State.ldvStep, hf, he, hm, hs, Bool.false_eq_true, if_false, if_true]

/-- A version that is not met takes at most a walk. -/
theorem State.ldvStep_waits (hm : s.ldvMet o e = false) : s.ldvStep r o.id = s ∨ ∃ va, s.ldvStep r o.id = s.opWalk o va false := by
  by_cases hs : e.space = 1
  · exact .inl (State.ldvStep_spad hf he hm hs)
  · simp only [State.ldvStep, hf, he, hm, hs, Bool.false_eq_true, if_false]
    rcases State.reach_cases s o e (memSpans o.kind o.a o.b) false fun _ => .done s Reg.zero with ⟨va, h⟩ | ⟨f, h⟩ | ⟨key, h⟩
    · rw [h]
      exact .inr ⟨va, rfl⟩
    · rw [h]
      exact .inl rfl
    · rw [h]
      exact .inl rfl

end Load

theorem versionedLoadReady : Claim.VersionedLoadReady := by
  intro s r o e hf he
  rw [exec_ldvVersionMet]
  refine ⟨fun hm => ⟨_, rfl, ?_⟩, fun hm => ⟨fun hs => by rw [State.ldvStep_spad hf he hm hs], _, rfl, ?_⟩⟩
  · rw [State.ldvStep_met hf he hm, State.ring_onRing]
  · rcases State.ldvStep_waits hf he hm with h | ⟨va, h⟩ <;> rw [h] <;> exact ⟨rfl, rfl, rfl⟩

/-! ### Watches (12 R397) -/

theorem exec_watchCheck {s : State} {r : RingAt} {n : Fin 512} {w : Watch} (h : (s.ring r).watches[n.val]? = some w) :
    exec (.watchCheck r n) s = .next (s.watchCheck r w) := by
  show execWatchCheck r n s = _
  simp only [execWatchCheck, h]

/-- The word of a watch is in the scratchpad, or can be read under `key` (03 R97, R101). -/
def State.watchable (s : State) (o : MemOp) (e : Res) (key : Key) : Prop :=
  let el := ElemAt.ofKey o.elem
  let va := vaOf e.base (o.a.lane 0).toNat
  e.space = 1 ∧ key = s.devKey ∨
    e.space ≠ 1 ∧ s.missVa el.at_.ring.die (s.opPasid o) va 4 false = none ∧ s.vaBad el.at_.ring.die (s.opPasid o) va 4 false = none ∧ e.keyidx ≠ 0 ∧
      s.keyOf e.keyidx = some key

theorem State.evictWatch_room {s : State} {r : RingAt} {ctx : BitVec 6}
    (hc : ((s.ring r).watches.filter fun w => w.op.ctx == ctx).length < (s.ring r).monmaxOf) (h : (s.ring r).watches.length < 512) :
    s.evictWatch r ctx = s := by
  simp only [State.evictWatch, if_neg (Nat.not_le.2 hc), if_neg (Nat.not_le.2 h)]

theorem State.watchAtCommit_installs {s : State} {o : MemOp} {e : Res} {key : Key} (hk : o.kind = .waita) (hw : o.watched = false)
    (he : s.opRes (ElemAt.ofKey o.elem) o.launch o.w0 = some e) (h : s.watchable o e key) : s.watchAtCommit o = s.install o e key := by
  simp only [State.watchAtCommit, he, hk, hw, ne_eq, not_true_eq_false, Bool.false_eq_true, or_self, if_false]
  rcases h with ⟨hs, rfl⟩ | ⟨hs, hm, hb, h0, hkey⟩
  · rw [if_pos hs]
  · rw [if_neg hs, State.reach_read (p := ((o.a.lane 0).toNat, 4)) hm hb h0 hkey]

theorem watchesInstall : Claim.WatchesInstall := by
  intro s o e key el r va hk hw he h hc hroom t
  have ht : t = (s.install o e key) := State.watchAtCommit_installs hk hw he h
  rw [ht, State.install, State.evictWatch_room hc hroom]
  refine ⟨?_, rfl, rfl, rfl⟩
  rw [State.ring_onRing]
  rfl

/-- A watch that can be read wakes when its word or its version differs, and else stays. -/
theorem State.watchCheck_reads {s : State} {r : RingAt} {w : Watch} {e : Res} {key : Key} (he : s.opRes (ElemAt.ofKey w.op.elem) w.op.launch w.op.w0 = some e)
    (h : s.watchable w.op e key) :
    s.watchCheck r w =
      if (s.watchRead w.op e key).1 ≠ (w.op.b.lane 0).toNat ∨ (s.watchRead w.op e key).2 ≠ w.v0 then s.wake r w 0 else s := by
  unfold State.watchCheck
  rw [he]
  rcases h with ⟨hs, rfl⟩ | ⟨hs, hm, hb, h0, hkey⟩
  · exact if_pos hs
  · refine (if_neg hs).trans ?_
    rw [State.reach_read (p := ((w.op.a.lane 0).toNat, 4)) hm hb h0 hkey]

/-- A watch that wakes leaves its table, is counted, and delivers its wake token. -/
theorem State.wake_settles (s : State) (r : RingAt) (w : Watch) :
    let t := s.wake r w 0
    (∀ v ∈ (t.ring r).watches, v.op.id ≠ w.op.id) ∧ (t.ring r).jnWakes = (s.ring r).jnWakes + 1 ∧
      Settles s t (ElemAt.ofKey w.op.elem) w.op.ical w.op.id w.tok := by
  have hkeep {α : Type} (p : Ring → α) (h : ∀ x hs, p { x with heldResults := hs } = p x) : p ((s.wake r w 0).ring r) = _ :=
    (congrArg p (State.ring_of_rings (State.paid_rings ..) r)).trans ((State.deliver_ring_keeps p h ..).trans (congrArg p (State.ring_onRing ..)))
  refine ⟨fun v hv => ?_, hkeep Ring.jnWakes (by intros; rfl), ?_⟩
  · rw [hkeep Ring.watches (by intros; rfl)] at hv
    simpa using (List.mem_filter.1 hv).2
  · exact (State.deliver_settles _ _ _ _ _ _).of_same rfl rfl (State.onRing_keeps Ring.occupied _ _ (by intros; rfl) _)
      (State.onRing_keeps Ring.heldResults _ _ (by intros; rfl) _)

/-- The watched word of an unversioned scratchpad resource. -/
theorem State.watchRead_spad {s : State} {o : MemOp} {e : Res} (key : Key) (hs : e.space = 1) (hv : e.vers = false) :
    s.watchRead o e key = (spadWord (s.ring (ElemAt.ofKey o.elem).at_.ring).spad (s.spadBase o e + (o.a.lane 0).toNat), 0) := by
  simp [State.watchRead, State.places, hs, hv, spadWord, spadRead, State.placeByte, Function.comp_def]

theorem watchesWake : Claim.WatchesWake := by
  intro s r n w e key el off y
  refine ⟨fun hs hv => State.watchRead_spad key hs hv, fun hw he h => ?_⟩
  rw [exec_watchCheck hw, State.watchCheck_reads he h]
  refine ⟨fun hd => ⟨_, rfl, ?_⟩, fun h1 h2 => ?_⟩
  · rw [if_pos hd]
    exact State.wake_settles s r w
  · rw [if_neg (by rw [not_or, not_not, not_not]; exact ⟨h1, h2⟩)]

/-- Settles O20: a linked operation that is performed leaves its ring and delivers, and a watch that can be read is installed and compared. -/
theorem repliesDeliver : Obligations.RepliesDeliver := ⟨memoryRepliesDeliver, versionedLoadReady, watchesInstall, watchesWake⟩

end Sys2Proof.Machine

/-! PROOFS. Quanta of a deterministic launch: the commit of held writes, and a store buffer that no quantum can empty (03 R122; 12 R393). -/

namespace Sys2Proof.Machine

/-! ### The commit of a quantum (03 R122) -/

theorem State.quantumStep_not_det {s : State} {l : Nat} (h : (s.launch l).det = false) : s.quantumStep l = s := by
  simp only [State.quantumStep, h, Bool.false_and, Bool.false_eq_true, if_false]

/-- A launch whose allocators have opened quantum `q`. -/
def Launch.openQuantum (q : Nat) (x : Launch) : Launch := x.onAllocs fun a => { a with quanta := q }

theorem Launch.openQuantum_segs (q : Nat) (x : Launch) : ∀ g ∈ (x.openQuantum q).segs, g.alloc.quanta = q := by
  intro g hg
  obtain ⟨k, -, rfl⟩ := List.mem_map.1 hg
  rfl

theorem Launch.openQuantum_alloc0 (q : Nat) {x : Launch} (h : x.segs ≠ []) : (x.openQuantum q).alloc0.quanta = q := by
  obtain ⟨g, gs, hx⟩ := List.exists_cons_of_ne_nil h
  simp [Launch.openQuantum, Launch.onAllocs, Launch.alloc0, hx]

/-- A complete quantum whose held writes are all performed closes. -/
theorem State.quantumStep_commits {s u : State} {l : Nat} {v : Reg} (hdet : (s.launch l).det = true) (hsegs : (s.launch l).segs ≠ [])
    (hdone : ∀ g ∈ (s.launch l).segs, s.quantumDone l g.die (s.launch l).alloc0.quanta = true)
    (hnum : (s.launch l).alloc0.quanta * (s.launch l).quantum < (s.launch l).alloc0.num)
    (hc : s.commitHeld (s.heldOf l (s.launch l).alloc0.quanta) = .done u v) :
    s.quantumStep l = u.onLaunch l (Launch.openQuantum ((s.launch l).alloc0.quanta + 1)) := by
  have hwhole : (!(s.launch l).segs.isEmpty && ((s.launch l).segs.all fun g => s.quantumDone l g.die (s.launch l).alloc0.quanta) &&
      decide ((s.launch l).alloc0.quanta * (s.launch l).quantum < (s.launch l).alloc0.num)) = true := by
    rw [Bool.and_eq_true, Bool.and_eq_true, List.all_eq_true, Bool.not_eq_true', List.isEmpty_eq_false_iff, decide_eq_true_eq]
    exact ⟨⟨hsegs, hdone⟩, hnum⟩
  simp only [State.quantumStep, hdet, hwhole, Bool.true_or, Bool.and_self, if_true, hc]
  rfl

theorem quantumCommits : Claim.QuantumCommits := by
  intro s d n l x q
  refine ⟨fun h => ?_, fun hdet hsegs hdone hnum u v hc hu => ?_, rfl, fun o rest u v hfree hp => ?_⟩
  · rw [exec_quantumCommit, State.quantumStep_not_det h]
  · rw [exec_quantumCommit, State.quantumStep_commits hdet hsegs hdone hnum hc]
    refine ⟨_, rfl, ?_, ?_, rfl, rfl⟩
    · rw [State.launch_onLaunch]
      exact Launch.openQuantum_segs _ _
    · rw [State.launch_onLaunch]
      exact Launch.openQuantum_alloc0 _ hu
  · simp only [State.commitHeld, hfree, if_true, hp]

/-! ### A buffer that stays full (12 R393) -/

/-- The first write that has stalled for the long wait on its element's full store buffer, though it can follow its chain's tail. -/
def State.stuckWrite (s : State) (e : ElemAt) (ical : Bool) : Option MemOp :=
  ((s.ring e.at_.ring).arriving ++ (s.ring e.at_.ring).waveBuf).find? fun o =>
    o.elem == e.key && o.ical == ical && o.stalled != 0 && s.isbFull o && (s.ring e.at_.ring).follows o &&
    decide (o.stalled - 1 + Config.longWait ≤ s.fc)

/-- An entry of a store buffer is a write of the oldest uncommitted quantum of a stalled write's launch. -/
def State.ofQuantum (s : State) (e : ElemAt) (o : MemOp) (b : IsbEntry) : Bool :=
  match b with
  | .held p => p.num / (s.launch o.launch).quantum == ((s.launch o.launch).alloc e.at_.ring.die).quanta
  | .parked _ _ _ _ _ => false

theorem State.ofQuantum_iff {s : State} {e : ElemAt} {o : MemOp} {b : IsbEntry} :
    s.ofQuantum e o b = true ↔
      ∃ p, b = .held p ∧ p.num / (s.launch o.launch).quantum = ((s.launch o.launch).alloc e.at_.ring.die).quanta := by
  cases b <;> simp [State.ofQuantum]

theorem State.isbDeadlock_none {s : State} {e : ElemAt} {ical : Bool} (h : s.stuckWrite e ical = none) : s.isbDeadlock e ical = s := by
  unfold State.stuckWrite at h
  simp only [State.isbDeadlock, h]

theorem State.isbDeadlock_some {s : State} {e : ElemAt} {ical : Bool} {o : MemOp} (h : s.stuckWrite e ical = some o) :
    s.isbDeadlock e ical =
      if ((s.elem e).isb.filter fun b => b.ical == ical).all (s.ofQuantum e o) then
        s.elemFault e ical (some o.islot) 0 o.ctx o.iter (jnFlt 0x48 ((s.launch o.launch).alloc e.at_.ring.die).quanta)
      else s := by
  unfold State.stuckWrite at h
  simp only [State.isbDeadlock, h]
  rfl

theorem storeBufferDeadlockFaults : Claim.StoreBufferDeadlockFaults := by
  intro s e ical r stuck q mine
  have hmine (o : MemOp) : ((s.elem e).isb.filter fun b => b.ical == ical).all (s.ofQuantum e o) = true ↔ ∀ b ∈ (s.elem e).isb, mine o b := by
    simp only [List.all_eq_true, List.mem_filter, beq_iff_eq, and_imp, State.ofQuantum_iff]
    rfl
  refine ⟨fun h => ?_, fun o h => ⟨fun ⟨b, hb, hother⟩ => ?_, fun hall => ?_⟩⟩
  · rw [exec_jnIsbDeadlock, State.isbDeadlock_none h]
  · rw [exec_jnIsbDeadlock, State.isbDeadlock_some h, if_neg fun k => hother ((hmine o).1 k b hb)]
  · rw [exec_jnIsbDeadlock, State.isbDeadlock_some h, if_pos ((hmine o).2 hall)]
    exact ⟨_, rfl, State.elemFault_records ..⟩

/-- Settles O21: a complete quantum closes once its held writes are performed, and a write that stalls for the long wait looks at every entry of its
buffer. -/
theorem quantaCommit : Obligations.QuantaCommit := ⟨quantumCommits, storeBufferDeadlockFaults⟩

end Sys2Proof.Machine

/-! PROOFS. Stage images: CONFIG_FETCH into the cache of a ring, and CONFIG_LOAD into shadow and intercalary planes (05 R187, R189, R209; 06 R232). -/

namespace Sys2Proof.Machine

/-! ### The fetch of an image (05 R187, 06 R232) -/

section Fetch
variable {s : State} {r : RingAt} {entry l n : Nat}

/-- What a fetch needs none of: an image of a launch that is gone, without the stage, or not woken, and one that is cached. -/
def State.fetchSkips (s : State) (r : RingAt) (l n : Nat) : Prop :=
  s.goneLaunch l = true ∨ (s.launch l).stages ≤ n ∨ (!(s.launch l).ical ∧ !(s.launch l).woken) ∨ (s.ring r).cache.any (s.stageKey r l n).same = true

/-- The usable entry that a launch's images are read through. -/
def State.fetchEntry (s : State) (r : RingAt) (l : Nat) : Option Res :=
  (s.resource (s.launch l).pasid ((s.imagePlace r l).map fun g => (r.num, g.page.val)) (s.launch l).iridx.toNat).filter Res.usable

def Launch.stageOff (x : Launch) (n : Nat) : Nat := x.ioff.toNat + 64 + 3072 * n

/-- A memory fault of a fetch, at the stripe that takes the stage next; a prefetch suppresses it. -/
def State.fetchFails (s : State) (r : RingAt) (l n : Nat) (f : Flt) : State :=
  if !s.wanted r l n then s else s.takeFault r.die (some r.ring) (s.launchQueue l) 0 f (s.loadSite r l n 0 0 false)

/-- A good image is in the cache, and noted by its launch. -/
def State.fetched (s : State) (r : RingAt) (l n : Nat) (im : Image) : State :=
  (s.cachePut r { s.stageKey r l n with words := s.placed r l im }).onLaunch l fun y => { y with notes := tabPut n (stageNote im) y.notes }

/-- What a fetch does with what it reads. -/
def State.fetchGot (s : State) (r : RingAt) (l n : Nat) (e : Res) (c : CRead) : State :=
  match c with
  | .wait u => u
  | .addr va => s.fetchFails r l n (fltAddr va)
  | .noKey => s.fetchFails r l n ⟨0x46, 3, 1, e.keyidx⟩
  | .bytes bs =>
    match fetchFault (s.launch l) n (imageWords bs) with
    | some f => s.cfgFault r l n f
    | none => s.fetched r l n (imageWords bs)

def State.fetchRead (s : State) (r : RingAt) (l n : Nat) (e : Res) : CRead :=
  s.imageBytes r (s.launch l) e ((s.launch l).stageOff n) (!s.wanted r l n) (s.launchQueue l) (s.loadSite r l n 0 0 false)

theorem State.configFetch_unbound (h : (s.ring r).launchAt entry = none) : s.configFetch r entry n = s := by
  unfold State.configFetch; rw [h]

variable (hl : (s.ring r).launchAt entry = some l)
include hl

theorem State.configFetch_skips (h : s.fetchSkips r l n) : s.configFetch r entry n = s := by
  unfold State.configFetch; rw [hl]
  exact if_pos h

variable (hs : ¬s.fetchSkips r l n)
include hs

theorem State.configFetch_noEntry (he : s.fetchEntry r l = none) : s.configFetch r entry n = s.fetchFails r l n ⟨0x40, 3, 1, (s.launch l).iridx.toNat⟩ := by
  unfold State.configFetch; rw [hl]
  refine (if_neg hs).trans ?_
  rw [show Option.filter _ _ = none from he]
  rfl

variable {e : Res} (he : s.fetchEntry r l = some e)
include he

/-- An entry is checked for its extent and its rights, and read. -/
theorem State.configFetch_entry :
    s.configFetch r entry n =
      if e.extent < (s.launch l).stageOff n + 3072 then s.fetchFails r l n ⟨0x41, 3, 1, (s.launch l).stageOff n⟩
      else if e.space ≠ 0 ∨ !e.canFetch then s.fetchFails r l n ⟨0x42, 3, 1, (s.launch l).stageOff n⟩
      else s.fetchGot r l n e (s.fetchRead r l n e) := by
  unfold State.configFetch; rw [hl]
  refine (if_neg hs).trans ?_
  rw [show Option.filter _ _ = some e from he]
  rfl

end Fetch

/-- A fault of a fetch is recorded when the stage is wanted, and suppressed when it is prefetched. -/
theorem State.fetchFails_records (s : State) (r : RingAt) (l n : Nat) (f : Flt) :
    (s.wanted r l n = true → Records s (s.fetchFails r l n f) r.die f.code f.aux f.disp) ∧ (¬s.wanted r l n = true → s.fetchFails r l n f = s) := by
  refine ⟨fun h => ?_, fun h => ?_⟩
  · rw [State.fetchFails, if_neg (by simp [h])]
    exact State.takeFault_records ..
  · rw [State.fetchFails, if_pos (by simpa using h)]

/-- A refused image's record names its stage and status. -/
theorem State.cfgFault_records (s : State) (r : RingAt) (l n : Nat) (f : ImgFault) :
    Records s (s.cfgFault r l n f) r.die 0x73 (n % 65536 * 65536 + f.status) 1 := State.takeFault_records ..

theorem CacheLine.same_withWords (c : CacheLine) (im : Image) : CacheLine.same { c with words := im } c = true := by
  simp [CacheLine.same]

theorem CacheLine.words_withWords (c : CacheLine) (im : Image) : CacheLine.words { c with words := im } = im := rfl

theorem State.fetched_cache (s : State) (r : RingAt) (l n : Nat) (im : Image) :
    ((s.fetched r l n im).ring r).cache.getLast? = some { s.stageKey r l n with words := s.placed r l im } := by
  have hring : (s.fetched r l n im).ring r = (s.cachePut r { s.stageKey r l n with words := s.placed r l im }).ring r :=
    State.ring_of_rings (State.onDie_rings ..) r
  rw [hring, State.cachePut, State.ring_onRing]
  exact List.getLast?_concat

theorem State.fetched_keeps (s : State) (r : RingAt) (l n : Nat) (im : Image) :
    (s.fetched r l n im).elems = s.elems ∧ (s.fetched r l n im).stripes = s.stripes ∧ (s.fetched r l n im).hbm = s.hbm := ⟨rfl, rfl, rfl⟩

theorem imagesFetched : Claim.ImagesFetched := by
  intro s r entry stage n
  refine ⟨fun h => by rw [exec_configFetch, State.configFetch_unbound h], ?_⟩
  intro l hl x key off site wanted skip faults entry?
  have hskip : skip ↔ s.fetchSkips r l n := by
    simp only [skip, State.fetchSkips, State.goneLaunch, Bool.or_eq_true, Bool.not_eq_true']
    rw [or_assoc]
  have hfaults (f : Flt) (hd : f.disp = 1) (h : s.configFetch r entry.toNat n = s.fetchFails r l n f) : faults f.code f.aux := by
    obtain ⟨hrec, hquiet⟩ := s.fetchFails_records r l n f
    refine ⟨fun hw => ⟨_, rfl, ?_⟩, fun hw => ?_⟩
    · rw [h, ← hd]
      exact hrec hw
    · rw [exec_configFetch, h, hquiet hw]
  refine ⟨fun h => by rw [exec_configFetch, State.configFetch_skips hl (hskip.1 h)], fun h he => ?_, fun e h he => ?_⟩
  · exact hfaults ⟨0x40, 3, 1, x.iridx.toNat⟩ rfl (State.configFetch_noEntry hl (mt hskip.2 h) he)
  have hentry := State.configFetch_entry hl (mt hskip.2 h) he
  refine ⟨fun hlen => ?short, fun hlen hr => ?rights, fun hlen hsp hfe => ?_⟩
  case short => exact hfaults ⟨0x41, 3, 1, off⟩ rfl (hentry.trans (if_pos hlen))
  case rights =>
    refine hfaults ⟨0x42, 3, 1, off⟩ rfl (hentry.trans ((if_neg (Nat.not_lt.2 hlen)).trans (if_pos ?_)))
    simpa only [not_and_or, Bool.not_eq_true, Bool.not_eq_true', ne_eq] using hr
  intro got
  have hread : s.configFetch r entry.toNat n = s.fetchGot r l n e got :=
    hentry.trans ((if_neg (Nat.not_lt.2 hlen)).trans (if_neg (by simp [hsp, hfe])))
  refine ⟨fun u hg => ?waits, fun va hg => ?addr, fun hg => ?noKey, fun bs hg => ⟨fun f hf => ?refused, fun hf => ?good⟩⟩
  case waits => rw [exec_configFetch, hread, hg]; rfl
  case addr => exact hfaults (fltAddr va) rfl (by rw [hread, hg]; rfl)
  case noKey => exact hfaults ⟨0x46, 3, 1, e.keyidx⟩ rfl (by rw [hread, hg]; rfl)
  case refused =>
    have ht : s.configFetch r entry.toNat n = s.cfgFault r l n f := by
      rw [hread, hg]; simp only [State.fetchGot]; rw [show fetchFault _ _ _ = some f from hf]
    refine ⟨_, rfl, ?_⟩
    rw [ht]
    have hrec := s.cfgFault_records r l n f
    rwa [Nat.mod_eq_of_lt stage.isLt] at hrec
  case good =>
    have ht : s.configFetch r entry.toNat n = s.fetched r l n (imageWords bs) := by
      rw [hread, hg]; simp only [State.fetchGot]; rw [show fetchFault _ _ _ = none from hf]
    refine ⟨_, { key with words := s.placed r l (imageWords bs) }, rfl, ?_⟩
    rw [ht]
    exact ⟨State.fetched_cache s r l n _, CacheLine.same_withWords key _, CacheLine.words_withWords key _, s.fetched_keeps r l n _⟩

/-! ### Planes written element by element (05 R187) -/

section Load
variable (p : StripeAt) (im : Option (Image × BitVec 20)) (f : Elem → Plane → Elem)

/-- The plane of one element of a stripe is written. -/
def State.loadPlane (s : State) (e : ElemAt) : State :=
  let n := e.slot.val
  match im with
  | some (im, pasid) =>
    if imgPresent im n then s.onElem e fun x => f x (s.planeOf p.ring.die pasid im n)
    else if (tabFind e.key s.elems).isSome then s.onElem e fun x => f x (Plane.empty (lfsrAt (imgStage im).toNat n)) else s
  | none => if (tabFind e.key s.elems).isSome then s.onElem e fun x => f x (Plane.empty (State.elemDefault e).active.lfsr) else s

theorem State.loadPlanes_eq (s : State) : s.loadPlanes p im f = (elemsOf p).foldl (State.loadPlane p im f) s := by
  unfold State.loadPlanes
  congr 1
  funext s e
  cases im <;> rfl

theorem State.loadPlane_keeps {α : Type} (q : State → α) (e : ElemAt) (h : ∀ (t : State) x, q (t.onElem e fun y => f y x) = q t) (s : State) :
    q (State.loadPlane p im f s e) = q s := by
  unfold State.loadPlane
  dsimp only
  split
  · split
    · exact h _ _
    · split
      · exact h _ _
      · rfl
  · split
    · exact h _ _
    · rfl

theorem State.loadPlanes_keeps {α : Type} (q : State → α) (h : ∀ (t : State) e x, q (t.onElem e fun y => f y x) = q t) (s : State) :
    q (s.loadPlanes p im f) = q s := by
  rw [State.loadPlanes_eq]
  exact foldl_keeps q _ (fun t e => State.loadPlane_keeps p im f q e (fun t => h t e) t) _ _

theorem State.loadPlane_elem_ne {e a : ElemAt} (h : e ≠ a) (s : State) : (State.loadPlane p im f s a).elem e = s.elem e :=
  State.loadPlane_keeps p im f (fun t => t.elem e) a (fun _ _ => State.elem_onElem_ne h _ _) s

theorem State.loadPlane_foldl_elem_ne {e : ElemAt} {es : List ElemAt} (h : e ∉ es) (s : State) : (es.foldl (State.loadPlane p im f) s).elem e = s.elem e := by
  induction es generalizing s with
  | nil => rfl
  | cons a as ih =>
    obtain ⟨hne, has⟩ := List.ne_and_not_mem_of_not_mem_cons h
    rw [List.foldl_cons, ih has, State.loadPlane_elem_ne p im f hne]

variable {f}

/-- A load leaves what its plane does not enter. -/
theorem State.loadPlanes_elem_keeps {α : Type} (q : Elem → α) (hf : ∀ x y, q (f x y) = q x) (s : State) (e : ElemAt) :
    q ((s.loadPlanes p im f).elem e) = q (s.elem e) := by
  refine State.loadPlanes_keeps p im f (fun t => q (t.elem e)) (fun t a x => ?_) s
  by_cases h : e = a
  · rw [h, State.elem_onElem, hf]
  · rw [State.elem_onElem_ne h]

theorem State.loadPlane_present {words : Image} {pasid : BitVec 20} {e : ElemAt} (h : imgPresent words e.slot.val = true) (s : State) :
    (State.loadPlane p (some (words, pasid)) f s e).elem e = f (s.elem e) (s.planeOf p.ring.die pasid words e.slot.val) := by
  unfold State.loadPlane
  dsimp only
  rw [if_pos h, State.elem_onElem]

/-- An element that the image has takes its plane, and that once. -/
theorem State.loadPlanes_present {words : Image} {pasid : BitVec 20} {n : Fin 16} (h : imgPresent words n.val = true) (s : State) :
    (s.loadPlanes p (some (words, pasid)) f).elem ⟨p, n⟩ = f (s.elem ⟨p, n⟩) (s.planeOf p.ring.die pasid words n.val) := by
  have hfold (es : List ElemAt) (hes : es.Nodup) (hin : ⟨p, n⟩ ∈ es) (t : State) :
      (es.foldl (State.loadPlane p (some (words, pasid)) f) t).elem ⟨p, n⟩ = f (t.elem ⟨p, n⟩) (t.planeOf p.ring.die pasid words n.val) := by
    induction es generalizing t with
    | nil => cases hin
    | cons a as ih =>
      obtain ⟨hnot, has⟩ := List.nodup_cons.1 hes
      rw [List.foldl_cons]
      rcases List.mem_cons.1 hin with rfl | hin
      · rw [State.loadPlane_foldl_elem_ne p _ f hnot, State.loadPlane_present p h]
      · have hne : (⟨p, n⟩ : ElemAt) ≠ a := fun hc => hnot (hc ▸ hin)
        rw [ih has hin, State.loadPlane_elem_ne p _ f hne]
        exact congrArg _ (State.loadPlane_keeps p _ f (fun u => u.planeOf p.ring.die pasid words n.val) a (fun _ _ => rfl) t)
  rw [State.loadPlanes_eq]
  exact hfold _ (elemsOf_nodup p) (mem_elemsOf p n) s

end Load

/-! ### The line of an image, and what a load starts from -/

/-- The state in which a load finds its ring: the pages placed are awake and the waves planned. -/
def State.awake (s : State) (r : RingAt) : State := (s.wakePages r).planRing r

theorem State.wakePages_die_keeps {α : Type} (q : Die → α) (h : ∀ x t, q { x with islands := t } = q x) (s : State) (r : RingAt) (d : Fin 4) :
    q ((s.wakePages r).die d) = q (s.die d) := by
  refine State.onDie_keeps q (foldl_keeps q _ (fun x n => ?_) _ _) d
  dsimp only
  split
  · exact h _ _
  · rfl

/-- What neither the islands nor the rings hold, a load finds as it was. -/
theorem State.awake_keeps {α : Type} (q : State → α) (hd : ∀ (t : State) d f, q (t.onDie d f) = q t) (hr : ∀ (t : State) r f, q (t.onRing r f) = q t)
    (s : State) (r : RingAt) : q (s.awake r) = q s := by
  refine (State.planRing_keeps q hr _ r).trans ?_
  unfold State.wakePages
  exact hd _ _ _

theorem Records.of_awake {s t : State} {r : RingAt} {d : Fin 4} {code aux disp : Nat} (h : Records (s.awake r) t d code aux disp) :
    Records s t d code aux disp :=
  h.of_faults ((State.planRing_keeps (fun t : State => (t.die d).faultWait) (by intros; rfl) _ r).trans
    (State.wakePages_die_keeps Die.faultWait (by intros; rfl) s r d))
    ((State.planRing_keeps (fun t : State => (t.die d).faultSeq) (by intros; rfl) _ r).trans (State.wakePages_die_keeps Die.faultSeq (by intros; rfl) s r d))
    (State.awake_keeps State.fc (by intros; rfl) (by intros; rfl) s r)

section Line
variable (s : State) (r : RingAt) (l n : Nat)

/-- A line that is used is the last of its ring's cache and noted by the launch. -/
def State.lineUsed (c : CacheLine) : State :=
  (s.onRing r fun x => x.touch c).onLaunch l fun x => { x with notes := tabPut n (stageNote c.words) x.notes }

theorem State.lineUsed_keeps {α : Type} (q : State → α) (hd : ∀ (t : State) d f, q (t.onDie d f) = q t) (hr : ∀ (t : State) r f, q (t.onRing r f) = q t)
    (c : CacheLine) : q (s.lineUsed r l n c) = q s := by
  unfold State.lineUsed State.onLaunch State.setLaunch
  exact (hd _ _ _).trans (hr _ _ _)

theorem State.lineUsed_planeOf (c : CacheLine) (d : Fin 4) (pasid : BitVec 20) (im : Image) (slot : Nat) :
    (s.lineUsed r l n c).planeOf d pasid im slot = s.planeOf d pasid im slot := by
  have hwin : ((s.lineUsed r l n c).die d).wswin = (s.die d).wswin := State.onDie_keeps Die.wswin (s := s.onRing r fun x => x.touch c) rfl d
  simp only [State.planeOf, Die.window, hwin]

theorem State.lineUsed_args (c : CacheLine) : ((s.lineUsed r l n c).launch l).args = (s.launch l).args := by
  rw [State.lineUsed, State.launch_onLaunch]
  rfl

theorem State.lineUsed_icalLoaded (c : CacheLine) : ((s.lineUsed r l n c).ring r).icalLoaded = (s.ring r).icalLoaded := by
  have h : (s.lineUsed r l n c).ring r = (s.onRing r fun x => x.touch c).ring r := State.ring_of_rings rfl r
  rw [h, State.ring_onRing]
  rfl

variable {s r l n}

theorem State.useLine_miss (h : (s.ring r).cache.find? (s.stageKey r l n).same = none) : s.useLine r l n = (none, s) := by
  unfold State.useLine; rw [h]

theorem State.useLine_refused {c : CacheLine} {f : ImgFault} (h : (s.ring r).cache.find? (s.stageKey r l n).same = some c)
    (hf : lineFault (s.launch l) n c.words = some f) : s.useLine r l n = (none, s.cfgFault r l n f) := by
  unfold State.useLine; rw [h]; dsimp only; rw [hf]

theorem State.useLine_hit {c : CacheLine} (h : (s.ring r).cache.find? (s.stageKey r l n).same = some c)
    (hf : lineFault (s.launch l) n c.words = none) : s.useLine r l n = (some c, s.lineUsed r l n c) := by
  unfold State.useLine; rw [h]; dsimp only; rw [hf]; rfl

end Line

/-! ### The shadow plane (05 R187) -/

section Shadow
variable (s : State) (p : StripeAt) (g : Region)

/-- The empty image is in the shadow plane. -/
def State.shadowEmpty : State := (s.loadPlanes p none fun x q => { x with shadow := q }).onStripe p fun st => { st with shadow := none, shadowReady := true }

/-- A cached image is in the shadow plane. -/
def State.shadowLoaded (l : Nat) (c : CacheLine) : State :=
  (s.loadPlanes p (some (c.words, g.pasid)) fun x q => { x with shadow := q }).onStripe p fun st =>
    { st with shadow := some (c.cfg l g.ctx g.pasid), shadowReady := true }

/-- The stripe when the planes are in, from the stripe before. -/
theorem State.loaded_stripe (im : Option (Image × BitVec 20)) (f : Elem → Plane → Elem) (h : Stripe → Stripe) :
    ((s.loadPlanes p im f).onStripe p h).stripe p = h (s.stripe p) := by
  rw [State.stripe_onStripe]
  exact congrArg h (State.loadPlanes_keeps p im f (fun t => t.stripe p) (by intros; rfl) s)

theorem State.shadowEmpty_stripe :
    ((s.shadowEmpty p).stripe p).shadow = none ∧ ((s.shadowEmpty p).stripe p).shadowReady = true ∧
      ((s.shadowEmpty p).stripe p).active = (s.stripe p).active := by
  rw [State.shadowEmpty, State.loaded_stripe]
  exact ⟨rfl, rfl, rfl⟩

theorem State.shadowLoaded_stripe (l : Nat) (c : CacheLine) :
    ((s.shadowLoaded p g l c).stripe p).shadow = some (c.cfg l g.ctx g.pasid) ∧ ((s.shadowLoaded p g l c).stripe p).shadowReady = true ∧
      ((s.shadowLoaded p g l c).stripe p).active = (s.stripe p).active := by
  rw [State.shadowLoaded, State.loaded_stripe]
  exact ⟨rfl, rfl, rfl⟩

/-- The image enters the shadow planes, and the active ones stay. -/
theorem State.shadowLoaded_elem (l : Nat) (c : CacheLine) (n : Fin 16) :
    ((s.shadowLoaded p g l c).elem ⟨p, n⟩).active = (s.elem ⟨p, n⟩).active ∧
      (imgPresent c.words n.val = true → ((s.shadowLoaded p g l c).elem ⟨p, n⟩).shadow = s.planeOf p.ring.die g.pasid c.words n.val) :=
  ⟨State.loadPlanes_elem_keeps p _ Elem.active (by intros; rfl) s ⟨p, n⟩,
    fun h => congrArg Elem.shadow (State.loadPlanes_present p (f := fun x q => { x with shadow := q }) h s)⟩

variable {s p g}

theorem State.loadShadow_stands (h : s.shadowOk p = true ∨ g.next s p.ring (g.indexOf p.stripe.val) = none) : s.loadShadow p g = s := by
  unfold State.loadShadow
  dsimp only
  split
  · rfl
  · rw [h.resolve_left ‹_›]

variable (hk : s.shadowOk p = false)
include hk

theorem State.loadShadow_empty (h : g.next s p.ring (g.indexOf p.stripe.val) = some none) : s.loadShadow p g = s.shadowEmpty p := by
  unfold State.loadShadow
  dsimp only
  rw [if_neg (by simp [hk]), h]
  rfl

variable {l n : Nat} (h : g.next s p.ring (g.indexOf p.stripe.val) = some (some (l, n)))
include h

theorem State.loadShadow_no_line {t : State} (hu : s.useLine p.ring l n = (none, t)) : s.loadShadow p g = t := by
  unfold State.loadShadow
  dsimp only
  rw [if_neg (by simp [hk]), h]
  dsimp only
  rw [hu]

theorem State.loadShadow_line {t : State} {c : CacheLine} (hu : s.useLine p.ring l n = (some c, t)) : s.loadShadow p g = t.shadowLoaded p g l c := by
  unfold State.loadShadow
  dsimp only
  rw [if_neg (by simp [hk]), h]
  dsimp only
  rw [hu]
  rfl

end Shadow

/-! ### The intercalary plane (05 R209) -/

section Ical
variable (s : State) (p : StripeAt)

/-- The planes and the configuration of an intercalary image are in. -/
def State.icalPlanes (c : CacheLine) (f : Cfg) (pasid : BitVec 20) : State :=
  (s.loadPlanes p (some (c.words, pasid)) fun e q => { e with ical := q, part := { MPart.empty with loading := q.m.preload true } }).onStripe p
    fun st => { st with ical := some f, parI := false, eosSeenI := [] }

/-- An intercalary image is loaded, with its arguments, and counted. -/
def State.icalLoad (c : CacheLine) (f : Cfg) (pasid : BitVec 20) : State :=
  ((s.icalPlanes p c f pasid).giveArgs p true).onRing p.ring fun y => { y with icalLoaded := y.icalLoaded + 1 }

theorem State.giveArgs_ical {c : Cfg} (h : (s.stripe p).ical = some c) :
    s.giveArgs p true = if c.stage = 0 then State.giveArg p true c (State.giveArg p true c s 14) 15 else s := by
  have hc : (s.stripe p).conf true = c := by simp [Stripe.conf, Stripe.cfg, h]
  have hs : ((s.stripe p).cfg true).isSome := by simp [Stripe.cfg, h]
  unfold State.giveArgs
  dsimp only
  rw [hc]
  simp only [hs, and_true]
  rfl

theorem State.giveArg_ical_keeps {α : Type} (q : Elem → α) (hq : ∀ x t, q { x with ical := t } = q x) (c : Cfg) (s : State) (k : Nat) (e : ElemAt) :
    q ((State.giveArg p true c s k).elem e) = q (s.elem e) := by
  unfold State.giveArg
  split
  · by_cases he : e = ⟨p, Fin.ofNat 16 k⟩
    · rw [he, State.elem_onElem]
      exact hq _ _
    · rw [State.elem_onElem_ne he]
  · rfl

theorem State.giveArgs_ical_active {c : Cfg} (h : (s.stripe p).ical = some c) (e : ElemAt) : ((s.giveArgs p true).elem e).active = (s.elem e).active := by
  have hkeep := State.giveArg_ical_keeps p Elem.active (by intros; rfl) c
  rw [State.giveArgs_ical s p h]
  split
  · rw [hkeep, hkeep]
  · rfl

/-- The argument block enters J-elements only. -/
theorem State.giveArgs_ical_low {c : Cfg} (h : (s.stripe p).ical = some c) {n : Fin 16} (hn : n.val < 14) :
    (s.giveArgs p true).elem ⟨p, n⟩ = s.elem ⟨p, n⟩ := by
  rw [State.giveArgs_ical s p h]
  split
  · rw [State.giveArg_elem_ne (by omega), State.giveArg_elem_ne (by omega)]
  · rfl

theorem State.giveArgs_ical_high {c : Cfg} (h : (s.stripe p).ical = some c) (h0 : c.stage = 0) {n : Fin 16} (hn : 14 ≤ n.val)
    (hp : c.present.getLsbD n.val = true) : ((s.giveArgs p true).elem ⟨p, n⟩).ical.d[7] = argReg (s.launch c.launch).args := by
  have hset (t : State) (hl : (t.launch c.launch).args = (s.launch c.launch).args) :
      ((State.giveArg p true c t n.val).elem ⟨p, n⟩).ical.d[7] = argReg (s.launch c.launch).args := by
    rw [State.giveArg_elem true hp, hl]
    exact Vector.getElem_set_self _
  rw [State.giveArgs_ical s p h, if_pos h0]
  rcases (show n.val = 14 ∨ n.val = 15 by omega) with h14 | h15
  · rw [State.giveArg_elem_ne (by omega), ← h14]
    exact hset s rfl
  · rw [← h15]
    exact hset _ (by rw [State.giveArg_launch])

variable (c : CacheLine) (f : Cfg) (pasid : BitVec 20)

theorem State.icalPlanes_stripe :
    ((s.icalPlanes p c f pasid).stripe p).ical = some f ∧ ((s.icalPlanes p c f pasid).stripe p).active = (s.stripe p).active := by
  rw [State.icalPlanes, State.loaded_stripe]
  exact ⟨rfl, rfl⟩

theorem State.icalPlanes_launch (l : Nat) : (s.icalPlanes p c f pasid).launch l = s.launch l :=
  State.loadPlanes_keeps p _ _ (fun t => t.launch l) (by intros; rfl) s

theorem State.icalPlanes_ring (r : RingAt) : (s.icalPlanes p c f pasid).ring r = s.ring r :=
  State.loadPlanes_keeps p _ _ (fun t => t.ring r) (by intros; rfl) s

theorem State.icalPlanes_active (e : ElemAt) : ((s.icalPlanes p c f pasid).elem e).active = (s.elem e).active :=
  State.loadPlanes_elem_keeps p _ Elem.active (by intros; rfl) s e

theorem State.icalPlanes_ical {n : Fin 16} (h : imgPresent c.words n.val = true) :
    ((s.icalPlanes p c f pasid).elem ⟨p, n⟩).ical = s.planeOf p.ring.die pasid c.words n.val :=
  congrArg Elem.ical
    (State.loadPlanes_present p (f := fun e q => { e with ical := q, part := { MPart.empty with loading := q.m.preload true } }) h s)

theorem State.icalLoad_stripe :
    ((s.icalLoad p c f pasid).stripe p).ical = some f ∧ ((s.icalLoad p c f pasid).stripe p).active = (s.stripe p).active := by
  have h : (s.icalLoad p c f pasid).stripe p = (s.icalPlanes p c f pasid).stripe p :=
    State.giveArgs_keeps _ (fun t => t.stripe p) (by intros; rfl) p true
  rw [h]
  exact State.icalPlanes_stripe s p c f pasid

theorem State.icalLoad_counts : ((s.icalLoad p c f pasid).ring p.ring).icalLoaded = (s.ring p.ring).icalLoaded + 1 := by
  have h : ((s.icalPlanes p c f pasid).giveArgs p true).ring p.ring = s.ring p.ring :=
    (State.giveArgs_keeps _ (fun t => t.ring p.ring) (by intros; rfl) p true).trans (State.icalPlanes_ring s p c f pasid p.ring)
  rw [State.icalLoad, State.ring_onRing, h]

/-- An intercalary load leaves the active planes; the image enters the intercalary ones, and the argument block those of the J-elements of stage 0. -/
theorem State.icalLoad_elem (n : Fin 16) :
    ((s.icalLoad p c f pasid).elem ⟨p, n⟩).active = (s.elem ⟨p, n⟩).active ∧
      (n.val < 14 → imgPresent c.words n.val = true →
        ((s.icalLoad p c f pasid).elem ⟨p, n⟩).ical = s.planeOf p.ring.die pasid c.words n.val) ∧
      (14 ≤ n.val → f.stage = 0 → f.present.getLsbD n.val = true →
        ((s.icalLoad p c f pasid).elem ⟨p, n⟩).ical.d[7] = argReg (s.launch f.launch).args) := by
  have hical := (State.icalPlanes_stripe s p c f pasid).1
  have h : (s.icalLoad p c f pasid).elem ⟨p, n⟩ = ((s.icalPlanes p c f pasid).giveArgs p true).elem ⟨p, n⟩ := rfl
  rw [h]
  refine ⟨?_, fun hn hp => ?_, fun hn h0 hp => ?_⟩
  · rw [State.giveArgs_ical_active _ p hical, State.icalPlanes_active]
  · rw [State.giveArgs_ical_low _ p hical hn, State.icalPlanes_ical s p c f pasid hp]
  · rw [State.giveArgs_ical_high _ p hical h0 hn hp, State.icalPlanes_launch]

variable {s p}

theorem State.loadIcal_no_line {l : Nat} {t : State} (hu : s.useLine p.ring l p.stripe.val = (none, t)) : s.loadIcal p l = t := by
  unfold State.loadIcal
  dsimp only
  rw [hu]

theorem State.loadIcal_line {l : Nat} {t : State} {c : CacheLine} (hu : s.useLine p.ring l p.stripe.val = (some c, t)) :
    s.loadIcal p l = t.icalLoad p c (c.cfg l ((((s.launch l).segs.head?).map Seg.ctx).getD 0) (s.launch l).pasid) (s.launch l).pasid := by
  unfold State.loadIcal
  dsimp only
  rw [hu]
  rfl

end Ical

/-! ### CONFIG_LOAD -/

section ConfigLoad
variable {s : State} {p : StripeAt}

/-- An intercalary launch takes its next stage at the stripe. -/
def State.icalDue (s : State) (p : StripeAt) (l : Nat) : Prop :=
  (s.ring p.ring).icalLaunch = some l ∧ (s.ring p.ring).occupied = false ∧ (s.ring p.ring).icalLoaded = p.stripe.val ∧
    p.stripe.val < (s.launch l).stages ∧ s.goneLaunch l = false

theorem State.configLoad_ical {l : Nat} (h : (s.awake p.ring).icalDue p l) : s.configLoad p = (s.awake p.ring).loadIcal p l := by
  obtain ⟨hl, hocc, hload, hst, hgone⟩ := h
  unfold State.configLoad
  dsimp only
  rw [show ((State.planRing _ _).ring _).icalLaunch = some l from hl]
  exact if_pos ⟨(Bool.not_eq_true' _).mpr hocc, hload, hst, (Bool.not_eq_true' _).mpr hgone⟩

theorem State.configLoad_region (h : ∀ l, ¬(s.awake p.ring).icalDue p l) :
    s.configLoad p = match ((s.awake p.ring).ring p.ring).regionOf p.stripe.val with
      | some g => (s.awake p.ring).loadShadow p g
      | none => s.awake p.ring := by
  unfold State.configLoad
  dsimp only
  split
  · refine if_neg fun ⟨hocc, hload, hst, hgone⟩ => h _ ⟨‹_›, (Bool.not_eq_true' _).mp hocc, hload, hst, (Bool.not_eq_true' _).mp hgone⟩
  · rfl

end ConfigLoad

theorem State.awake_active (s : State) (p : StripeAt) (r : RingAt) :
    ((s.awake r).stripe p).active = (s.stripe p).active ∧ ∀ e, ((s.awake r).elem e).active = (s.elem e).active :=
  ⟨State.awake_keeps (fun t : State => (t.stripe p).active) (by intros; rfl) (by intros; rfl) s r,
    fun e => State.awake_keeps (fun t : State => (t.elem e).active) (by intros; rfl) (by intros; rfl) s r⟩

theorem exec_configLoad_region {s : State} {p : StripeAt} {g : Region} (h : ∀ l, ¬(s.awake p.ring).icalDue p l)
    (hg : ((s.awake p.ring).ring p.ring).regionOf p.stripe.val = some g) :
    exec (.configLoad p) s = .next ((s.awake p.ring).loadShadow p g) := by
  rw [exec_configLoad, State.configLoad_region h, hg]

theorem exec_configLoad_ical {s : State} {p : StripeAt} {l : Nat} (h : (s.awake p.ring).icalDue p l) :
    exec (.configLoad p) s = .next ((s.awake p.ring).loadIcal p l) := by
  rw [exec_configLoad, State.configLoad_ical h]

theorem shadowsLoad : Claim.ShadowsLoad := by
  intro s p u y icalDue
  have hstripe : (u.stripe p).active = (s.stripe p).active := (s.awake_active p p.ring).1
  have helem (e : ElemAt) : (u.elem e).active = (s.elem e).active := (s.awake_active p p.ring).2 e
  refine ⟨fun hno hnone => ?idle, fun g hno hg => ?region, fun l hdue => ?ical⟩
  case idle =>
    rw [exec_configLoad, State.configLoad_region hno, show ((s.awake p.ring).ring p.ring).regionOf p.stripe.val = none from hnone]
    rfl
  case region =>
    have hload : exec (.configLoad p) s = .next (u.loadShadow p g) := exec_configLoad_region hno hg
    refine ⟨fun h => ?stands, fun l stage hk hw => ⟨fun hl => ?miss, fun c f hl hf => ?refused, fun c hl hf => ?hit⟩, fun hk hw => ?empty⟩
    case stands => rw [hload, State.loadShadow_stands h]
    case miss => rw [hload, State.loadShadow_no_line hk hw (State.useLine_miss hl)]
    case refused =>
      refine ⟨_, hload, Records.of_awake (r := p.ring) ?_⟩
      rw [State.loadShadow_no_line hk hw (State.useLine_refused hl hf)]
      exact State.cfgFault_records ..
    case hit =>
      have hin := State.loadShadow_line hk hw (State.useLine_hit hl hf)
      let v := u.lineUsed p.ring l stage c
      have hkeep {α : Type} (q : State → α) := State.lineUsed_keeps u p.ring l stage q
      obtain ⟨hshadow, hready, hactive⟩ := v.shadowLoaded_stripe p g l c
      refine ⟨_, hload, ?_⟩
      rw [hin]
      refine ⟨hshadow, hready, ?_, fun n => ?_⟩
      · rw [hactive, ← hstripe]
        exact hkeep (fun t => (t.stripe p).active) (by intros; rfl) (by intros; rfl) c
      · obtain ⟨hact, hplane⟩ := v.shadowLoaded_elem p g l c n
        refine ⟨?_, fun hp => ?_⟩
        · rw [hact, ← helem]
          exact hkeep (fun t => (t.elem ⟨p, n⟩).active) (by intros; rfl) (by intros; rfl) c
        · rw [hplane hp]
          exact State.lineUsed_planeOf ..
    case empty =>
      obtain ⟨hshadow, hready, hactive⟩ := u.shadowEmpty_stripe p
      refine ⟨_, hload, ?_⟩
      rw [State.loadShadow_empty hk hw]
      exact ⟨hshadow, hready, hactive.trans hstripe⟩
  case ical =>
    have hload : exec (.configLoad p) s = .next (u.loadIcal p l) := exec_configLoad_ical hdue
    refine ⟨fun hl => ?_, fun c hl hf => ?_⟩
    · rw [hload, State.loadIcal_no_line (State.useLine_miss hl)]
    · have hin := State.loadIcal_line (State.useLine_hit hl hf)
      let v := u.lineUsed p.ring l p.stripe.val c
      have hkeep {α : Type} (q : State → α) := State.lineUsed_keeps u p.ring l p.stripe.val q
      refine ⟨_, hload, ?_⟩
      rw [hin]
      obtain ⟨hical, hactive⟩ := v.icalLoad_stripe p c _ _
      refine ⟨hical, ?_, ?_, fun n => ?_⟩
      · rw [State.icalLoad_counts, State.lineUsed_icalLoaded]
      · rw [hactive, ← hstripe]
        exact hkeep (fun t => (t.stripe p).active) (by intros; rfl) (by intros; rfl) c
      · obtain ⟨hact, hlow, hhigh⟩ := v.icalLoad_elem p c _ _ n
        refine ⟨?_, fun hn hp => ?_, fun hn h0 hp => ?_⟩
        · rw [hact, ← helem]
          exact hkeep (fun t => (t.elem ⟨p, n⟩).active) (by intros; rfl) (by intros; rfl) c
        · rw [hlow hn hp]
          exact State.lineUsed_planeOf ..
        · rw [hhigh hn h0 hp]
          exact congrArg argReg (State.lineUsed_args ..)

/-- Settles O36: the fetch and the load each by the cases of the model's own decision, and the planes of a load element by element. -/
theorem imagesLoad : Obligations.ImagesLoad := ⟨imagesFetched, shadowsLoad⟩

end Sys2Proof.Machine

/-! PROOFS. Messages that a controller keeps for a boundary, a frame or an equinox (05 R205 to R208, R211, R214, R218). -/

namespace Sys2Proof.Machine

/-! ### Parameters and names (05 R216, R218) -/

theorem Word.bits_top (x : Word) {k : Nat} (hk : k ≤ 32) : bits x.toNat 31 k = 0 ↔ x.toNat < 2 ^ k := by
  have hlt : x.toNat / 2 ^ k < 2 ^ (31 + 1 - k) := by
    rw [Nat.div_lt_iff_lt_mul (Nat.two_pow_pos k), ← Nat.pow_add, Nat.sub_add_cancel hk]
    exact x.isLt
  rw [bits, Nat.mod_eq_of_lt hlt, Nat.div_eq_zero_iff_lt (Nat.two_pow_pos k)]

theorem State.fromKernel_iff {s : State} {m : Msg} :
    s.fromKernel m = true ↔ ∃ (qid : BitVec 20) (seq : BitVec 16) (q : Queue), m.sender = .relay qid seq ∧ s.queue qid = some q ∧ q.kernel = true := by
  unfold State.fromKernel
  cases m.sender with
  | elem => simp
  | relay qid seq => cases hq : s.queue qid <;> simp [hq]

theorem State.jobLaunch_of {s : State} {m : Msg} {n l : Nat} (h : s.findLaunch n = some l) (hp : (s.launch l).pasid = m.pasid) :
    s.jobLaunch m n = some l := by
  simp [State.jobLaunch, h, hp]

/-- A launch number names the die that TINST names. -/
theorem Msg.namesDie_iff {m : Msg} (hi : m.inst < 16) (x : Word) :
    (bits x.toNat 31 24 = 0 ∧ m.namesDie x.toNat = true) ↔ (x.toNat / 2 ^ 22 = m.inst / 4 ∧ m.inst % 4 = 0) := by
  rw [Word.bits_top x (by decide)]
  simp only [Msg.namesDie, Bool.and_eq_true, decide_eq_true_eq]
  simp only [bits, Nat.reduceAdd, Nat.reduceSub, Nat.reducePow]
  omega

section Messages
variable {s : State} {p : Params} (hi : s.focus.msg.inst < 16)

/-! ### PPHASE (05 R205) -/

/-- PPHASE is pending, and every region of its job on the die is asked. -/
def State.phaseAsked (s : State) (m : Msg) (pasid : BitVec 20) : State :=
  (s.onDie m.at_.die fun x => let f := x.phase pasid; { x with phases := tabPut pasid.toNat { f with pend := f.pend ++ [m] } x.phases }).onRings
    (dieRings m.at_.die) fun _ x =>
      { x with regions := x.regions.map fun g => if g.pasid = pasid ∧ !g.reqs.contains .pphase then { g with reqs := g.reqs ++ [.pphase] } else g }

include hi in
theorem State.pphase_eq :
    s.pphase p =
      if s.fromKernel s.focus.msg = true ∧ p.p0.toNat < 2 ^ 20 ∧ p.p1 = 0 ∧ p.p2 = 0 ∧ p.p3 = 0 ∧
          (tabFind (BitVec.ofNat 20 p.p0.toNat).toNat s.jobs).isSome = true then
        s.phaseAsked s.focus.msg (.ofNat 20 p.p0.toNat)
      else s.refuse s.focus.msg 0x0306 := by
  rw [← ite_not]
  refine if_congr ?_ rfl rfl
  rw [← Word.bits_top p.p0 (by decide)]
  simp only [not_and_or, Bool.not_eq_true, Bool.not_eq_true', Option.isNone_iff_eq_none, Option.isSome_eq_false_iff, ne_eq, Nat.not_le.2 hi, false_or]

theorem State.phaseAsked_phase (s : State) (m : Msg) (pasid : BitVec 20) :
    ((s.phaseAsked m pasid).die m.at_.die).phase pasid =
      { (s.die m.at_.die).phase pasid with pend := ((s.die m.at_.die).phase pasid).pend ++ [m] } := by
  have hdies : (s.phaseAsked m pasid).dies = _ := State.onRings_dies ..
  rw [State.die, hdies]
  show Die.phase (State.die _ _) pasid = _
  rw [State.die_onDie]
  simp only [Die.phase, tabGet, tabFind_tabPut, Option.getD_some]

theorem State.phaseAsked_regions (s : State) (m : Msg) (pasid : BitVec 20) (k : Fin 4) :
    ∀ g ∈ ((s.phaseAsked m pasid).ring ⟨m.at_.die, k⟩).regions, g.pasid = pasid → EqReq.pphase ∈ g.reqs := by
  refine State.onRings_mem (P := fun x => ∀ g ∈ x.regions, g.pasid = pasid → EqReq.pphase ∈ g.reqs) (fun _ x g hg hp => ?_) ?_ _
  · obtain ⟨h, -, rfl⟩ := List.mem_map.1 hg
    split
    · simp
    next hno =>
      rw [if_neg hno] at hp
      simpa [hp] using hno
  · exact List.mem_map.2 ⟨k.val, List.mem_range.2 k.isLt, congrArg _ (Fin.ext (Nat.mod_eq_of_lt k.isLt))⟩

/-! ### PEVICT (05 R211, R215) -/

section Evict
variable (at_ : Seg → Option Region) (m : Msg) (force : Bool)

/-- One region of an evicted launch is asked; with FORCE its due stripes leave the schedule. -/
def State.askEvict (s : State) (g : Seg) : State :=
  let r : RingAt := ⟨g.die, g.ring⟩
  let s := s.onRegion r g.page fun h => { h with reqs := h.reqs ++ [.pevict m force] }
  if force then
    match at_ g with
    | some h =>
      let s := s.onRegion r g.page fun h => { h with aside := (s.ring r).schedule }
      s.onRing r fun y => { y with schedule := y.schedule.filter fun n => !(h.places r).any fun p => p.stripe == n }
    | none => s
  else s

/-- What holds of a ring through changes of its regions that keep their pages and requests, and through a shorter schedule. -/
def Ring.Asked (q : Fin 8) (e : EqReq) (y : Ring) : Prop := ∀ h ∈ y.regions, h.page = q → e ∈ h.reqs

theorem State.askEvict_ring_keeps {P : Ring → Prop} (hr : ∀ y (f : Region → Region), (∀ h, (f h).page = h.page ∧ h.reqs ⊆ (f h).reqs) →
      P y → P { y with regions := y.regions.map f })
    (hs : ∀ y (f : Fin 32 → Bool), P y → P { y with schedule := y.schedule.filter f }) (g : Seg) (r : RingAt) (h : P (s.ring r)) :
    P ((s.askEvict at_ m force g).ring r) := by
  have hon {u : State} {r' : RingAt} (f : Region → Region) (hf : ∀ h, (f h).page = h.page ∧ h.reqs ⊆ (f h).reqs) (hu : P (u.ring r)) :
      P ((u.onRegion r' g.page f).ring r) := by
    by_cases he : r = r'
    · subst he
      rw [State.onRegion, State.ring_onRing]
      refine hr _ _ (fun h => ?_) hu
      split
      · exact hf h
      · exact ⟨rfl, List.Subset.refl _⟩
    · rw [State.onRegion, State.ring_onRing_ne he]
      exact hu
  have hask := hon (u := s) (r' := ⟨g.die, g.ring⟩) (fun h => { h with reqs := h.reqs ++ [.pevict m force] })
    (fun h => ⟨rfl, List.subset_append_left ..⟩) h
  unfold State.askEvict
  dsimp only
  split
  · split
    · by_cases he : r = ⟨g.die, g.ring⟩
      · subst he
        rw [State.ring_onRing]
        exact hs _ _ (hon _ (fun h => ⟨rfl, List.Subset.refl _⟩) hask)
      · rw [State.ring_onRing_ne he]
        exact hon _ (fun h => ⟨rfl, List.Subset.refl _⟩) hask
    · exact hask
  · exact hask

theorem State.askEvict_asks (g : Seg) : Ring.Asked g.page (.pevict m force) ((s.askEvict at_ m force g).ring ⟨g.die, g.ring⟩) := by
  have hkeep {y : Ring} (f : Region → Region) (hf : ∀ h, (f h).page = h.page ∧ (f h).reqs = h.reqs) (hy : Ring.Asked g.page (.pevict m force) y) :
      Ring.Asked g.page (.pevict m force) { y with regions := y.regions.map fun h => if h.page = g.page then f h else h } := by
    intro h hh hp
    obtain ⟨k, hk, rfl⟩ := List.mem_map.1 hh
    by_cases hkp : k.page = g.page
    · rw [if_pos hkp, (hf k).2]
      exact hy k hk hkp
    · rw [if_neg hkp] at hp
      exact absurd hp hkp
  have hask : Ring.Asked g.page (.pevict m force)
      ((s.onRegion ⟨g.die, g.ring⟩ g.page fun h => { h with reqs := h.reqs ++ [.pevict m force] }).ring ⟨g.die, g.ring⟩) := by
    rw [State.onRegion, State.ring_onRing]
    intro h hh hp
    obtain ⟨k, -, rfl⟩ := List.mem_map.1 hh
    by_cases hkp : k.page = g.page
    · simp [hkp]
    · rw [if_neg hkp] at hp
      exact absurd hp hkp
  unfold State.askEvict
  dsimp only
  split
  · split
    · rw [State.ring_onRing]
      show Ring.Asked _ _ (State.ring _ _)
      rw [State.onRegion, State.ring_onRing]
      exact hkeep _ (fun _ => ⟨rfl, rfl⟩) hask
    · exact hask
  · exact hask

theorem State.askEvict_leaves {g : Seg} {h : Region} (hg : at_ g = some h) :
    ∀ y ∈ h.places ⟨g.die, g.ring⟩, y.stripe ∉ ((s.askEvict at_ m true g).ring ⟨g.die, g.ring⟩).schedule := by
  intro y hy
  unfold State.askEvict
  dsimp only
  rw [if_pos rfl, hg]
  dsimp only
  rw [State.ring_onRing]
  simp only [List.mem_filter, not_and]
  intro _ hno
  simp at hno
  exact hno y hy rfl

end Evict

/-- What each step of a fold brings about for its own element, and no other step undoes, holds of every element after the fold. -/
theorem foldl_forall_mem {α σ : Type} {f : σ → α → σ} {P : α → σ → Prop} (hset : ∀ s a, P a (f s a)) (hkeep : ∀ s a b, P a s → P a (f s b))
    (as : List α) (s : σ) : ∀ a ∈ as, P a (as.foldl f s) := by
  have hrest (a : α) (bs : List α) : ∀ s, P a s → P a (bs.foldl f s) := by
    induction bs with
    | nil => exact fun _ h => h
    | cons b bs ih => exact fun s h => ih _ (hkeep s a b h)
  induction as generalizing s with
  | nil => exact fun _ h => absurd h (List.not_mem_nil)
  | cons b bs ih =>
    intro a ha
    rcases List.mem_cons.1 ha with rfl | ha
    · exact hrest a bs _ (hset s a)
    · exact ih _ a ha

/-- The launch of a PEVICT stands in no region, has ended, or is asked already. -/
def State.evictHeld (s : State) (l : Nat) : Prop :=
  (s.launch l).segs = [] ∨ (s.launch l).ical = true ∨ s.goneLaunch l = true ∨
    ((s.launch l).segs.any fun g => ((s.ring ⟨g.die, g.ring⟩).atPage g.page).any fun h => h.reqs.any EqReq.isEvict) = true

theorem State.evictHeld_iff {l : Nat} :
    s.evictHeld l ↔ (s.launch l).segs = [] ∨ (s.launch l).ical = true ∨ (s.launch l).cancelled = true ∨ (s.launch l).faulted = true ∨
      ∃ g ∈ (s.launch l).segs, ∃ h, (s.ring ⟨g.die, g.ring⟩).atPage g.page = some h ∧ ∃ e ∈ h.reqs, e.isEvict = true := by
  simp only [State.evictHeld, State.goneLaunch, Bool.or_eq_true, or_assoc, List.any_eq_true, Option.any_eq_true]

def State.segRegion (s : State) (g : Seg) : Option Region := (s.ring ⟨g.die, g.ring⟩).atPage g.page

/-- Every region of a launch is asked. -/
def State.evictAsked (s : State) (m : Msg) (force : Bool) (l : Nat) : State :=
  (s.launch l).segs.foldl (fun t g => t.askEvict s.segRegion m force g) s

theorem State.evictAsked_asks (s : State) (m : Msg) (force : Bool) (l : Nat) :
    ∀ g ∈ (s.launch l).segs, Ring.Asked g.page (.pevict m force) ((s.evictAsked m force l).ring ⟨g.die, g.ring⟩) := by
  refine foldl_forall_mem (P := fun (g : Seg) (t : State) => Ring.Asked g.page (.pevict m force) (t.ring ⟨g.die, g.ring⟩))
    (fun t g => State.askEvict_asks _ m force g) (fun t g k h => State.askEvict_ring_keeps _ m force (fun y f hf hy => ?_) (fun y f hy => hy) k _ h) _ _
  intro h hh hp
  obtain ⟨x, hx, rfl⟩ := List.mem_map.1 hh
  exact (hf x).2 (hy x hx ((hf x).1 ▸ hp))

theorem State.evictAsked_leaves (s : State) (m : Msg) (l : Nat) :
    ∀ g ∈ (s.launch l).segs, ∀ h, s.segRegion g = some h → ∀ y ∈ h.places ⟨g.die, g.ring⟩,
      y.stripe ∉ ((s.evictAsked m true l).ring ⟨g.die, g.ring⟩).schedule := by
  refine foldl_forall_mem (P := fun (g : Seg) (t : State) =>
      ∀ h, s.segRegion g = some h → ∀ y ∈ h.places ⟨g.die, g.ring⟩, y.stripe ∉ (t.ring ⟨g.die, g.ring⟩).schedule)
    (fun t g h hg => State.askEvict_leaves _ m hg) (fun t g k hP h hg y hy => ?_) _ _
  exact State.askEvict_ring_keeps (P := fun x => y.stripe ∉ x.schedule) _ m true (fun _ _ _ hx => hx)
    (fun x f hx hin => hx (List.mem_filter.1 hin).1) k _ (hP h hg y hy)

include hi in
theorem State.pevict_refused
    (h : ¬(s.fromKernel s.focus.msg = true ∧ (p.p0.toNat / 2 ^ 22 = s.focus.msg.inst / 4 ∧ s.focus.msg.inst % 4 = 0) ∧ p.p1.toNat < 2 ∧ p.p2 = 0 ∧ p.p3 = 0)) :
    s.pevict p = s.refuse s.focus.msg 0x0306 := by
  unfold State.pevict
  refine if_pos ?_
  rw [← Msg.namesDie_iff hi, show p.p1.toNat < 2 ↔ bits p.p1.toNat 31 1 = 0 from (Word.bits_top p.p1 (k := 1) (by decide)).symm] at h
  simp only [not_and_or, Bool.not_eq_true] at h
  simp only [Bool.not_eq_true', ne_eq]
  tauto

section EvictGood
variable (hk : s.fromKernel s.focus.msg = true) (hn : p.p0.toNat / 2 ^ 22 = s.focus.msg.inst / 4 ∧ s.focus.msg.inst % 4 = 0)
  (h1 : p.p1.toNat < 2) (h2 : p.p2 = 0) (h3 : p.p3 = 0)
include hi hk hn h1 h2 h3

theorem State.pevict_named :
    ¬(!s.fromKernel s.focus.msg ∨ bits p.p0.toNat 31 24 ≠ 0 ∨ bits p.p1.toNat 31 1 ≠ 0 ∨ p.p2 ≠ 0 ∨ p.p3 ≠ 0 ∨ !s.focus.msg.namesDie p.p0.toNat) := by
  rw [← Msg.namesDie_iff hi] at hn
  simp [hk, hn, h2, h3, (Word.bits_top p.p1 (show 1 ≤ 32 by decide)).2 h1]

theorem State.pevict_unknown (hl : s.jobLaunch s.focus.msg p.p0.toNat = none) : s.pevict p = s.refuse s.focus.msg 0x0307 := by
  unfold State.pevict
  refine (if_neg (State.pevict_named hi hk hn h1 h2 h3)).trans ?_
  rw [hl]

variable {l : Nat} (hl : s.jobLaunch s.focus.msg p.p0.toNat = some l)
include hl

theorem State.pevict_held (h : s.evictHeld l) : s.pevict p = s.refuse s.focus.msg 0x0308 := by
  unfold State.pevict
  refine (if_neg (State.pevict_named hi hk hn h1 h2 h3)).trans ?_
  rw [hl]
  exact if_pos h

theorem State.pevict_asks (h : ¬s.evictHeld l) : s.pevict p = s.evictAsked s.focus.msg (bit p.p1.toNat 0) l := by
  unfold State.pevict
  refine (if_neg (State.pevict_named hi hk hn h1 h2 h3)).trans ?_
  rw [hl]
  exact if_neg h

end EvictGood

/-! ### PEQWAIT (05 R197) -/

/-- A PEQWAIT for the region that its sender fires in. -/
def State.waitsForOwn (s : State) (m : Msg) (l : Nat) : Bool :=
  match m.sender with
  | .elem _ false _ _ _ _ => (s.launch l).segs.any fun k =>
    m.ring == ⟨k.die, k.ring⟩ && ((s.ring m.ring).regionOf m.el.at_.stripe.val).any fun (h : Region) => h.page == k.page
  | _ => false

theorem State.waitsForOwn_iff {m : Msg} {l : Nat} :
    s.waitsForOwn m l = true ↔ ∃ k islot li ctx iter h, ∃ g ∈ (s.launch l).segs, m.sender = .elem k false islot li ctx iter ∧ m.ring = ⟨g.die, g.ring⟩ ∧
      (s.ring m.ring).regionOf m.el.at_.stripe.val = some h ∧ h.page = g.page := by
  unfold State.waitsForOwn
  cases m.sender with
  | relay => simp
  | elem k ical islot li ctx iter =>
    cases ical with
    | true => simp
    | false =>
      simp only [List.any_eq_true, Bool.and_eq_true, beq_iff_eq, Option.any_eq_true, Sender.elem.injEq, true_and]
      constructor
      · rintro ⟨g, hg, hr, h, hh, hp⟩
        exact ⟨k, islot, li, ctx, iter, h, g, hg, ⟨rfl, rfl, rfl, rfl, rfl⟩, hr, hh, hp⟩
      · rintro ⟨-, -, -, -, -, h, g, hg, -, hr, hh, hp⟩
        exact ⟨g, hg, hr, h, hh, hp⟩

include hi in
theorem State.peqwait_named :
    (bits p.p0.toNat 31 24 ≠ 0 ∨ p.p1 ≠ 0 ∨ p.p2 ≠ 0 ∨ p.p3 ≠ 0 ∨ !s.focus.msg.namesDie p.p0.toNat) ↔
      ¬((p.p0.toNat / 2 ^ 22 = s.focus.msg.inst / 4 ∧ s.focus.msg.inst % 4 = 0) ∧ p.p1 = 0 ∧ p.p2 = 0 ∧ p.p3 = 0) := by
  rw [← Msg.namesDie_iff hi]
  simp only [not_and_or, Bool.not_eq_true, Bool.not_eq_true', ne_eq]
  tauto

include hi in
theorem State.peqwait_refused
    (h : ¬((p.p0.toNat / 2 ^ 22 = s.focus.msg.inst / 4 ∧ s.focus.msg.inst % 4 = 0) ∧ p.p1 = 0 ∧ p.p2 = 0 ∧ p.p3 = 0)) :
    s.peqwait p = s.refuse s.focus.msg 0x0306 := by
  unfold State.peqwait
  exact if_pos ((State.peqwait_named hi).2 h)

section EqwaitGood
variable (h : (p.p0.toNat / 2 ^ 22 = s.focus.msg.inst / 4 ∧ s.focus.msg.inst % 4 = 0) ∧ p.p1 = 0 ∧ p.p2 = 0 ∧ p.p3 = 0)
include hi h

theorem State.peqwait_unknown (hl : s.jobLaunch s.focus.msg p.p0.toNat = none) : s.peqwait p = s.refuse s.focus.msg 0x0307 := by
  unfold State.peqwait
  refine (if_neg (not_not.2 h ∘ (State.peqwait_named hi).1)).trans ?_
  rw [hl]

variable {l : Nat} (hl : s.jobLaunch s.focus.msg p.p0.toNat = some l)
include hl

theorem State.peqwait_unplaced (hs : (s.launch l).segs = []) : s.peqwait p = s.refuse s.focus.msg 0x0308 := by
  unfold State.peqwait
  refine (if_neg (not_not.2 h ∘ (State.peqwait_named hi).1)).trans ?_
  rw [hl]
  dsimp only
  rw [hs, List.head?_nil]

theorem State.peqwait_placed {g : Seg} {gs : List Seg} (hs : (s.launch l).segs = g :: gs) :
    s.peqwait p =
      if (s.launch l).ical then s.refuse s.focus.msg 0x0308
      else if s.waitsForOwn s.focus.msg l then s.refuse s.focus.msg 0x0306
      else s.onRegion ⟨g.die, g.ring⟩ g.page fun x => { x with reqs := x.reqs ++ [EqReq.peqwait s.focus.msg] } := by
  unfold State.peqwait
  refine (if_neg (not_not.2 h ∘ (State.peqwait_named hi).1)).trans ?_
  rw [hl]
  dsimp only
  rw [show (s.launch l).segs.head? = some g by rw [hs, List.head?_cons]]
  rfl

end EqwaitGood

/-! ### PALMW (05 R208) -/

/-- A slot's new value: one that is named, or, for the idle word, none. -/
def palmwSlot (p : Params) : Option AlmSlot :=
  if bit p.p2.toNat 31 then none else some ⟨bit p.p2.toNat 30, .ofNat 20 (bits p.p2.toNat 19 0)⟩

theorem palmwSlot_named (h : bits p.p2.toNat 31 31 = 0) : palmwSlot p = some ⟨bit p.p2.toNat 30, .ofNat 20 p.p2.toNat⟩ := by
  have hidle : bit p.p2.toNat 31 = false := by simpa [bits, bit] using h
  rw [palmwSlot, hidle]
  exact congrArg (fun a => some (AlmSlot.mk (bit p.p2.toNat 30) a)) (BitVec.eq_of_toNat_eq (by simp [bits]))

theorem palmwSlot_idle (h : p.p2 = 0x80000000) : palmwSlot p = none := by
  rw [palmwSlot, h]
  rfl

/-- PALMW waits for the frame. -/
def State.palmwKept (s : State) (m : Msg) (p : Params) : State :=
  s.onRing m.at_ fun r => { r with palmw := r.palmw ++ [(m, .ofNat 64 (p.p1.toNat * 2 ^ 32 + p.p0.toNat), palmwSlot p)] }

theorem State.palmwKept_ring (s : State) (m : Msg) (p : Params) :
    ((s.palmwKept m p).ring m.at_).almanac = (s.ring m.at_).almanac ∧
      ((s.palmwKept m p).ring m.at_).palmw = (s.ring m.at_).palmw ++ [(m, .ofNat 64 (p.p1.toNat * 2 ^ 32 + p.p0.toNat), palmwSlot p)] := by
  rw [State.palmwKept, State.ring_onRing]
  exact ⟨rfl, rfl⟩

/-- The parameters of a PALMW are in order: a slot's value or the idle word. -/
def palmwGood (p : Params) : Prop :=
  (bits p.p2.toNat 31 31 = 0 ∧ bits p.p2.toNat 29 20 = 0 ∨ p.p2 = 0x80000000) ∧ p.p3 = 0

theorem palmwGood_iff :
    palmwGood p ↔ bits p.p2.toNat 29 20 = 0 ∧ p.p3 = 0 ∧ ¬(bit p.p2.toNat 31 = true ∧ bits p.p2.toNat 30 0 ≠ 0) := by
  have h2 : p.p2 = 0x80000000 ↔ p.p2.toNat = 2147483648 := by rw [← BitVec.toNat_inj]; rfl
  have hlt := p.p2.isLt
  simp only [palmwGood, h2, bits, bit, beq_iff_eq, Nat.reduceAdd, Nat.reduceSub, Nat.reducePow] at *
  generalize p.p2.toNat = x at *
  constructor
  · rintro ⟨h | h, h3⟩
    · exact ⟨h.2, h3, by omega⟩
    · exact ⟨by omega, h3, by omega⟩
  · rintro ⟨h, h3, hn⟩
    exact ⟨by omega, h3⟩

theorem State.palmw_refused (h : ¬(s.fromKernel s.focus.msg = true ∧ palmwGood p)) : s.palmw p = s.refuse s.focus.msg 0x0306 := by
  unfold State.palmw
  refine if_pos ?_
  rw [palmwGood_iff] at h
  simp only [Bool.not_eq_true', ne_eq]
  grind

include hi in
theorem State.palmw_kept (hk : s.fromKernel s.focus.msg = true) (h : palmwGood p) : s.palmw p = s.palmwKept s.focus.msg p := by
  obtain ⟨h0, h3, hidle⟩ := palmwGood_iff.1 h
  unfold State.palmw
  refine (if_neg ?_).trans ?_
  · simp [hk, h0, h3, hi] at hidle ⊢
    exact hidle
  · rfl

/-! ### PWSW (05 R206) -/

/-- The parameters of a PWSW are in order. -/
def pwswGood (p : Params) : Prop :=
  bits p.p0.toNat 9 0 = 0 ∧ p.p2.toNat < 2 ^ 18 ∧ p.p3.toNat < 2 ^ 30 ∧ bits p.p3.toNat 17 0 ≠ 0

/-- The entry that a PWSW reads. -/
def State.pwswSource (s : State) (p : Params) : Option Res :=
  s.sourceRes s.focus.msg (bits p.p0.toNat 31 16) (64 * p.p1.toNat) (4096 * bits p.p3.toNat 17 0)

/-- The window that a PWSW writes. -/
def State.pwswWindow (s : State) (p : Params) : WsWin := tabGet WsWin.zero (bits p.p0.toNat 15 10) (s.die s.focus.msg.at_.die).wswin

/-- PWSW waits for the boundary of its window's job. -/
def State.pwswKept (s : State) (p : Params) (e : Res) : State :=
  s.onDie s.focus.msg.at_.die fun x => { x with pwsw := x.pwsw ++
    [⟨s.focus.msg, (s.pwswWindow p).pasid, (s.pwswWindow p).base.toNat + bits p.p2.toNat 17 0, bits p.p3.toNat 17 0, .ofNat 12 (bits p.p3.toNat 29 18), e,
      64 * p.p1.toNat⟩] }

theorem State.pwswKept_ws (s : State) (p : Params) (e : Res) :
    ((s.pwswKept p e).die s.focus.msg.at_.die).ws = (s.die s.focus.msg.at_.die).ws := State.onDie_keeps Die.ws rfl _

theorem State.pwswKept_pwsw (s : State) (p : Params) (e : Res) :
    ((s.pwswKept p e).die s.focus.msg.at_.die).pwsw = (s.die s.focus.msg.at_.die).pwsw ++
      [⟨s.focus.msg, (s.pwswWindow p).pasid, (s.pwswWindow p).base.toNat + bits p.p2.toNat 17 0, bits p.p3.toNat 17 0, .ofNat 12 (bits p.p3.toNat 29 18), e,
        64 * p.p1.toNat⟩] := by
  rw [State.pwswKept, State.die_onDie]

theorem pwswFits_iff {w : WsWin} {n : Nat} :
    (w.valid = true ∧ w.base.toNat + w.count.toNat ≤ 196608 ∧ n ≤ w.count.toNat) ↔
      ¬(!w.valid ∨ 196608 < w.base.toNat + w.count.toNat ∨ w.count.toNat < n) := by
  simp [not_or]

include hi in
theorem State.pwsw_params :
    (!s.fromKernel s.focus.msg ∨ bits p.p0.toNat 9 0 ≠ 0 ∨ bits p.p2.toNat 31 18 ≠ 0 ∨ bits p.p3.toNat 31 30 ≠ 0 ∨ bits p.p3.toNat 17 0 = 0 ∨
      16 ≤ s.focus.msg.inst) ↔ ¬(s.fromKernel s.focus.msg = true ∧ pwswGood p) := by
  rw [pwswGood, ← Word.bits_top p.p2 (by decide), ← Word.bits_top p.p3 (by decide)]
  simp only [not_and_or, Bool.not_eq_true, Bool.not_eq_true', ne_eq, not_not, Nat.not_le.2 hi, or_false]

include hi in
theorem State.pwsw_refused (h : ¬(s.fromKernel s.focus.msg = true ∧ pwswGood p) ∨ s.pwswSource p = none) : s.pwsw p = s.refuse s.focus.msg 0x0306 := by
  unfold State.pwsw
  dsimp only
  by_cases hgood : s.fromKernel s.focus.msg = true ∧ pwswGood p
  · refine (if_neg (not_not.2 hgood ∘ (State.pwsw_params hi).1)).trans ?_
    rw [show s.sourceRes _ _ _ _ = none from h.resolve_left (not_not.2 hgood)]
  · exact if_pos ((State.pwsw_params hi).2 hgood)

include hi in
theorem State.pwsw_source (hk : s.fromKernel s.focus.msg = true) (h : pwswGood p) {e : Res} (he : s.pwswSource p = some e) :
    s.pwsw p =
      if bits p.p3.toNat 29 18 = 0 ∨ (s.keyOf (bits p.p3.toNat 29 18)).isNone then s.refuse s.focus.msg 0x030B
      else if !(s.pwswWindow p).valid ∨ 196608 < (s.pwswWindow p).base.toNat + (s.pwswWindow p).count.toNat ∨
          (s.pwswWindow p).count.toNat < bits p.p2.toNat 17 0 + bits p.p3.toNat 17 0 then s.refuse s.focus.msg 0x0305
      else s.pwswKept p e := by
  unfold State.pwsw
  dsimp only
  refine (if_neg (not_not.2 ⟨hk, h⟩ ∘ (State.pwsw_params hi).1)).trans ?_
  rw [show s.sourceRes _ _ _ _ = some e from he]
  rfl

/-! ### PCOMPACT (05 R214) -/

/-- The region of a page can move lower, and no PEVICT waits for it. -/
def Ring.canMove (y : Ring) (q : Fin 8) : Bool := (y.atPage q).any fun g => (y.lowerPage g).isSome && !g.reqs.any EqReq.isEvict

theorem Ring.canMove_iff {y : Ring} {q : Fin 8} :
    y.canMove q = true ↔ ∃ g, y.atPage q = some g ∧ (y.lowerPage g).isSome = true ∧ ∀ e ∈ g.reqs, e.isEvict = false := by
  simp [Ring.canMove, Option.any_eq_true]

/-- The pages asked in turn are those that can move. -/
theorem Ring.canMove_asked (y : Ring) (q : Nat) :
    (decide (0 ≤ q) && (y.atPage (Fin.ofNat 8 q)).any fun g => (y.lowerPage g).isSome && !g.reqs.any EqReq.isEvict) = y.canMove (Fin.ofNat 8 q) := by
  rw [decide_eq_true (Nat.zero_le q), Bool.true_and]
  rfl

theorem Ring.lowest_asked {y : Ring} {f : Nat → Bool} {o : Option Nat} (h : lowest (fun q => y.canMove (Fin.ofNat 8 q)) 8 = o)
    (hf : ∀ q, f q = y.canMove (Fin.ofNat 8 q)) : lowest f 8 = o := funext hf ▸ h

theorem State.compactNext_moves {r : RingAt} {m : Msg} {q : Nat} (h : lowest (fun q => (s.ring r).canMove (Fin.ofNat 8 q)) 8 = some q) :
    s.compactNext r m 0 = s.onRegion r (Fin.ofNat 8 q) fun g => { g with reqs := g.reqs ++ [.pcompact m] } := by
  unfold State.compactNext
  dsimp only
  rw [Ring.lowest_asked h ?_]
  exact Ring.canMove_asked (s.ring r)

theorem State.compactNext_done {r : RingAt} {m : Msg} (h : lowest (fun q => (s.ring r).canMove (Fin.ofNat 8 q)) 8 = none) :
    s.compactNext r m 0 = s.answer m 0 (s.ring r).freeMask 0 := by
  unfold State.compactNext
  dsimp only
  rw [Ring.lowest_asked h ?_]
  exact Ring.canMove_asked (s.ring r)

/-- The lowest page of a ring that can move. -/
theorem Ring.lowest_canMove {y : Ring} {q : Fin 8} (hq : y.canMove q = true) (hlow : ∀ k, k < q → ¬y.canMove k = true) :
    lowest (fun q => y.canMove (Fin.ofNat 8 q)) 8 = some q.val := by
  have hfin {k : Nat} (hk : k < 8) : Fin.ofNat 8 k = ⟨k, hk⟩ := Fin.ext (Nat.mod_eq_of_lt hk)
  refine List.find?_range_eq_some.2 ⟨?_, List.mem_range.2 q.isLt, fun k hk => ?_⟩
  · rw [hfin q.isLt]
    exact hq
  · have hk8 : k < 8 := hk.trans q.isLt
    rw [hfin hk8, Bool.not_eq_true', ← Bool.not_eq_true]
    exact hlow ⟨k, hk8⟩ hk

theorem Ring.lowest_cannotMove {y : Ring} (h : ∀ q, ¬y.canMove q = true) : lowest (fun q => y.canMove (Fin.ofNat 8 q)) 8 = none :=
  List.find?_eq_none.2 fun _ _ => h _

theorem State.pcompact_refused (h : ¬(s.fromKernel s.focus.msg = true ∧ p = ⟨0, 0, 0, 0⟩)) : s.pcompact p = s.refuse s.focus.msg 0x0306 := by
  unfold State.pcompact
  refine if_pos ?_
  rw [not_and_or, Bool.not_eq_true] at h
  exact h.imp (by simp) .inl

include hi in
theorem State.pcompact_taken (hk : s.fromKernel s.focus.msg = true) (h : p = ⟨0, 0, 0, 0⟩) :
    s.pcompact p = s.compactNext s.focus.msg.at_ s.focus.msg 0 := by
  unfold State.pcompact
  exact if_neg (by simp [hk, h, hi])

end Messages

/-- Only a kernel queue's relay sends these. -/
theorem refused_of_not_kernel {s : State} (hi : s.focus.msg.inst < 16) (p : Params) (hk : ¬s.fromKernel s.focus.msg = true) :
    ∀ i ∈ [Instr.pphase p, .pevict p, .prestore p, .pcompact p, .palmw p, .pwsw p, .prsw p], exec i s = .next (s.refuse s.focus.msg 0x0306) := by
  have hf : (!s.fromKernel s.focus.msg) = true := by simpa using hk
  have hrestore : s.prestore p = s.refuse s.focus.msg 0x0306 := by unfold State.prestore; exact if_pos (.inl hf)
  have hrsw : s.prsw p = s.refuse s.focus.msg 0x0306 := by unfold State.prsw; exact if_pos (.inl hf)
  simp only [List.forall_mem_cons, List.not_mem_nil, false_imp_iff, implies_true, and_true]
  rw [exec_pphase, exec_pevict, exec_prestore, exec_pcompact, exec_palmw, exec_pwsw, exec_prsw, State.pphase_eq hi, if_neg fun h => hk h.1,
    State.pevict_refused hi fun h => hk h.1, hrestore, State.pcompact_refused fun h => hk h.1, State.palmw_refused fun h => hk h.1,
    State.pwsw_refused hi (.inl fun h => hk h.1), hrsw]
  exact ⟨rfl, rfl, rfl, rfl, rfl, rfl, rfl⟩

theorem bit_zero_of_lt {x : Nat} (h : x < 2) : bit x 0 = decide (x = 1) := by
  rw [bit, Nat.pow_zero, Nat.div_one, Nat.mod_eq_of_lt h]
  rfl

theorem waitingMessages : Claim.WaitingMessages := by
  intro s p m r kernel named hi
  have hkernel : kernel ↔ s.fromKernel m = true := State.fromKernel_iff.symm
  have hnamed : named ↔ (p.p0.toNat / 2 ^ 22 = m.inst / 4 ∧ m.inst % 4 = 0) ∧ p.p2 = 0 ∧ p.p3 = 0 := by rw [and_assoc]
  refine ⟨fun hk => refused_of_not_kernel hi p (mt hkernel.2 hk), ⟨?phaseTaken, ?phaseBad⟩, ⟨?evictBad, ?evictUnknown, ?evict⟩, ?eqBad, ?eqUnknown, ?eq,
    ⟨?almTaken, ?almBad⟩, ⟨?wsBad, ?ws⟩, ?compactBad, ?compact⟩
  case phaseTaken =>
    intro hk hgood
    refine ⟨_, exec_pphase s p, ?_⟩
    rw [State.pphase_eq hi, if_pos ⟨hkernel.1 hk, hgood⟩]
    exact ⟨congrArg Phase.pend (s.phaseAsked_phase m _), (congrArg Phase.num (s.phaseAsked_phase m _)).trans rfl, s.phaseAsked_regions m _⟩
  case phaseBad => exact fun hgood => by rw [exec_pphase, State.pphase_eq hi, if_neg fun h => hgood h.2]
  case evictBad =>
    exact fun hbad => by rw [exec_pevict, State.pevict_refused hi fun ⟨_, hn, h1, h2, h3⟩ => hbad ⟨hnamed.2 ⟨hn, h2, h3⟩, h1⟩]
  case evictUnknown =>
    intro hk hn h1 hl
    obtain ⟨hn, h2, h3⟩ := hnamed.1 hn
    rw [exec_pevict, State.pevict_unknown hi (hkernel.1 hk) hn h1 h2 h3 hl]
  case evict =>
    intro l hk hn h1 hl hp
    obtain ⟨hn, h2, h3⟩ := hnamed.1 hn
    have hjob := State.jobLaunch_of hl hp
    refine ⟨fun h => ?_, fun h => ⟨_, exec_pevict s p, fun g hg => ?_⟩⟩
    · rw [exec_pevict, State.pevict_held hi (hkernel.1 hk) hn h1 h2 h3 hjob (State.evictHeld_iff.2 h)]
    · rw [State.pevict_asks hi (hkernel.1 hk) hn h1 h2 h3 hjob (mt State.evictHeld_iff.1 h), bit_zero_of_lt h1]
      have hforce : decide (p.p1.toNat = 1) = decide (p.p1 = 1) := decide_eq_decide.2 (BitVec.toNat_inj (y := 1))
      rw [hforce]
      refine ⟨s.evictAsked_asks m _ l g hg, fun h1 => ?_⟩
      rw [decide_eq_true h1]
      exact s.evictAsked_leaves m l g hg
  case eqBad => exact fun hbad => by rw [exec_peqwait, State.peqwait_refused hi fun ⟨hn, h1, h2, h3⟩ => hbad ⟨hnamed.2 ⟨hn, h2, h3⟩, h1⟩]
  case eqUnknown =>
    intro hn h1 hl
    obtain ⟨hn, h2, h3⟩ := hnamed.1 hn
    rw [exec_peqwait, State.peqwait_unknown hi ⟨hn, h1, h2, h3⟩ hl]
  case eq =>
    intro l hn h1 hl hp
    obtain ⟨hn, h2, h3⟩ := hnamed.1 hn
    have hjob := State.jobLaunch_of hl hp
    refine ⟨fun h => ?_, fun g gs hs hical => ?_⟩
    · rw [exec_peqwait]
      cases hs : (s.launch l).segs with
      | nil => rw [State.peqwait_unplaced hi ⟨hn, h1, h2, h3⟩ hjob hs]
      | cons g gs => rw [State.peqwait_placed hi ⟨hn, h1, h2, h3⟩ hjob hs, if_pos (h.resolve_left (by simp [hs]))]
    · have heq := State.peqwait_placed hi ⟨hn, h1, h2, h3⟩ hjob hs
      rw [if_neg (by simp [hical])] at heq
      refine ⟨fun own => ?_, fun own => ⟨_, exec_peqwait s p, ?_⟩⟩
      · rw [exec_peqwait, heq, if_pos (State.waitsForOwn_iff.2 own)]
      · rw [heq, if_neg (mt State.waitsForOwn_iff.1 own), State.onRegion, State.ring_onRing]
  case almTaken =>
    intro hk h3 v hv
    have hslot : palmwGood p ∧ palmwSlot p = v := by
      rcases hv with ⟨⟨h31, h29⟩, rfl⟩ | ⟨h2, rfl⟩
      · exact ⟨⟨.inl ⟨h31, h29⟩, h3⟩, palmwSlot_named h31⟩
      · exact ⟨⟨.inr h2, h3⟩, palmwSlot_idle h2⟩
    refine ⟨_, exec_palmw s p, ?_⟩
    rw [State.palmw_kept hi (hkernel.1 hk) hslot.1, ← hslot.2]
    exact s.palmwKept_ring m p
  case almBad => exact fun hbad => by rw [exec_palmw, State.palmw_refused fun h => hbad h.2]
  case wsBad => exact fun hbad => by rw [exec_pwsw, State.pwsw_refused hi (hbad.imp (fun h hg => h hg.2) id)]
  case ws =>
    intro e hk hgood he
    obtain ⟨h0, h2, h3, hcount⟩ := hgood
    have heq := State.pwsw_source hi (hkernel.1 hk) ⟨h0, h2, h3, hcount⟩ he
    have htile : bits p.p2.toNat 17 0 = p.p2.toNat := by rw [bits, Nat.pow_zero, Nat.div_one, Nat.mod_eq_of_lt h2]
    have hkey : (bits p.p3.toNat 29 18 ≠ 0 ∧ (s.keyOf (bits p.p3.toNat 29 18)).isSome = true) ↔
        ¬(bits p.p3.toNat 29 18 = 0 ∨ (s.keyOf (bits p.p3.toNat 29 18)).isNone) := by simp [Option.isSome_iff_ne_none]
    rw [htile] at heq
    refine ⟨fun hnk => ?_, fun hk hnf => ?_, fun hk hf => ⟨_, exec_pwsw s p, ?_⟩⟩
    · rw [exec_pwsw, heq, if_pos (not_not.1 (mt hkey.2 hnk))]
    · rw [exec_pwsw, heq, if_neg (hkey.1 hk), if_pos (not_not.1 (mt (pwswFits_iff (w := s.pwswWindow p)).2 hnf))]
    · rw [heq, if_neg (hkey.1 hk), if_neg ((pwswFits_iff (w := s.pwswWindow p)).1 hf)]
      have hkept := s.pwswKept_pwsw p e
      rw [htile] at hkept
      exact ⟨s.pwswKept_ws p e, hkept⟩
  case compactBad => exact fun hbad => by rw [exec_pcompact, State.pcompact_refused fun h => hbad h.2]
  case compact =>
    intro can hk hp
    have hcan (q : Fin 8) : can q ↔ (s.ring r).canMove q = true := Ring.canMove_iff.symm
    have heq : s.pcompact p = s.compactNext r m 0 := State.pcompact_taken hi (hkernel.1 hk) hp
    refine ⟨fun h => ?_, fun q hq hlow => ⟨_, exec_pcompact s p, ?_⟩⟩
    · rw [exec_pcompact, heq, State.compactNext_done (Ring.lowest_cannotMove fun q => mt (hcan q).2 (h q))]
    · rw [heq, State.compactNext_moves (Ring.lowest_canMove ((hcan q).1 hq) fun k hk => mt (hcan k).2 (hlow k hk)), State.onRegion, State.ring_onRing]
      rw [show Fin.ofNat 8 q.val = q from Fin.ext (Nat.mod_eq_of_lt q.isLt)]

end Sys2Proof.Machine

/-! PROOFS. Messages that restore an evicted launch, rewrite a resource entry and prefetch images (03 R95, R100; 05 R200, R213, R218). -/

namespace Sys2Proof.Machine

/-! ### HBM read after a write under the same key (03 R101) -/

section Hbm
variable (s : State) (k : Key) (a : Nat)

theorem State.hbmPut_granuleKey (b : Byte) : (s.hbmPut k a b).granuleKey (a / 64) = some k := by
  simp only [State.hbmPut, State.granuleKey, tabFind_tabPut]

theorem State.hbmPut_granuleKey_kept (b : Byte) {g : Nat} (h : s.granuleKey g = some k) : (s.hbmPut k a b).granuleKey g = some k := by
  by_cases hg : g = a / 64
  · rw [hg, State.hbmPut_granuleKey]
  · rw [← h]
    simp only [State.hbmPut, State.granuleKey, tabFind_tabPut_ne hg]

/-- The memory that a byte is written into: its granule as it reads under the key. -/
def State.hbmBase (s : State) (k : Key) (g : Nat) : List Host.Cell :=
  if s.granuleKey g = some k then s.hbm else writeBytes (g * 64) (s.hbmRead k (g * 64) 64) s.hbm

theorem State.hbmPut_hbm (b : Byte) : (s.hbmPut k a b).hbm = cellPut a b (s.hbmBase k (a / 64)) := rfl

variable {s k a}

theorem State.hbmBase_wf (h : Memory.wf s.hbm = true) (g : Nat) : Memory.wf (s.hbmBase k g) = true := by
  unfold State.hbmBase
  split
  · exact h
  · exact wf_writeBytes _ _ _ h

theorem State.hbmBase_get {c : Nat} (h : s.granuleKey (c / 64) = some k) (g : Nat) : cellGet c (s.hbmBase k g) = cellGet c s.hbm := by
  unfold State.hbmBase
  split
  · rfl
  next hg =>
    have hne : c / 64 ≠ g := fun he => hg (he ▸ h)
    refine cellGet_writeBytes_out _ _ ?_
    rw [State.hbmRead, List.length_map, List.length_range]
    omega

theorem State.hbmByte_of_key (h : s.granuleKey (a / 64) = some k) : s.hbmByte k a = cellGet a s.hbm := if_pos h

theorem State.hbmPut_byte (h : Memory.wf s.hbm = true) (b : Byte) : (s.hbmPut k a b).hbmByte k a = b := by
  rw [State.hbmByte_of_key (s.hbmPut_granuleKey k a b), State.hbmPut_hbm, cellGet_cellPut a b _ (State.hbmBase_wf h _)]

theorem State.hbmPut_byte_kept {c : Nat} (hc : c ≠ a) (h : s.granuleKey (c / 64) = some k) (b : Byte) :
    (s.hbmPut k a b).hbmByte k c = s.hbmByte k c := by
  rw [State.hbmByte_of_key (s.hbmPut_granuleKey_kept k a b h), State.hbmByte_of_key h, State.hbmPut_hbm, cellGet_cellPut_ne hc, State.hbmBase_get h]

theorem State.hbmPut_wf (h : Memory.wf s.hbm = true) (b : Byte) : Memory.wf (s.hbmPut k a b).hbm = true := wf_cellPut _ _ _ (State.hbmBase_wf h _)

/-- A write above a byte of a granule that has the key leaves the byte. -/
theorem State.hbmWrite_byte_kept (bs : List Byte) {c : Nat} (hc : c < a) (h : s.granuleKey (c / 64) = some k) :
    (s.hbmWrite k a bs).hbmByte k c = s.hbmByte k c := by
  induction bs generalizing s a with
  | nil => rfl
  | cons b bs ih =>
    rw [State.hbmWrite, ih (Nat.lt_succ_of_lt hc) (s.hbmPut_granuleKey_kept k a b h), State.hbmPut_byte_kept (Nat.ne_of_lt hc) h]

theorem State.hbmRead_succ (n : Nat) : s.hbmRead k a (n + 1) = s.hbmByte k a :: s.hbmRead k (a + 1) n := by
  rw [State.hbmRead, List.range_succ_eq_map, List.map_cons, List.map_map, Nat.add_zero]
  refine congrArg _ (List.map_congr_left fun i _ => ?_)
  rw [Function.comp_apply, Nat.succ_eq_add_one, Nat.add_right_comm, Nat.add_assoc]

/-- What was written reads back. -/
theorem State.hbmRead_hbmWrite (bs : List Byte) (h : Memory.wf s.hbm = true) : (s.hbmWrite k a bs).hbmRead k a bs.length = bs := by
  induction bs generalizing s a with
  | nil => rfl
  | cons b bs ih =>
    rw [State.hbmWrite, List.length_cons, State.hbmRead_succ, ih (State.hbmPut_wf h b),
      State.hbmWrite_byte_kept bs (Nat.lt_succ_self a) (s.hbmPut_granuleKey k a b), State.hbmPut_byte h]

variable (s k a)

theorem State.hbmWrite_keeps {α : Type} (q : State → α) (hq : ∀ t m l, q { t with hbm := m, hbmKey := l } = q t) (bs : List Byte) :
    q (s.hbmWrite k a bs) = q s := by
  induction bs generalizing s a with
  | nil => rfl
  | cons b bs ih => exact (ih _ _).trans (hq _ _ _)

end Hbm

/-! ### A table entry with the next RELGEN (03 R95) -/

section Field
variable {x a w g : Nat}

/-- A number with another value in the `w` bits from bit `a` up. -/
def withField (x a w g : Nat) : Nat := x - x / 2 ^ a % 2 ^ w * 2 ^ a + g * 2 ^ a

theorem withField_eq : withField x a w g = (x / 2 ^ (a + w) * 2 ^ w + g) * 2 ^ a + x % 2 ^ a := by
  have hsplit : x = (x / 2 ^ (a + w) * 2 ^ w + x / 2 ^ a % 2 ^ w) * 2 ^ a + x % 2 ^ a := by
    rw [Nat.pow_add, ← Nat.div_div_eq_div_mul, Nat.div_add_mod', Nat.div_add_mod']
  unfold withField
  generalize x / 2 ^ (a + w) = hi at *
  generalize x / 2 ^ a % 2 ^ w = b at *
  generalize x % 2 ^ a = lo at *
  rw [hsplit, Nat.add_mul, Nat.add_mul]
  omega

theorem withField_mod : withField x a w g % 2 ^ a = x % 2 ^ a := by
  rw [withField_eq, Nat.mul_comm, Nat.mul_add_mod, Nat.mod_mod]

theorem withField_div : withField x a w g / 2 ^ a = x / 2 ^ (a + w) * 2 ^ w + g := by
  rw [withField_eq, Nat.mul_comm, Nat.mul_add_div (Nat.two_pow_pos _), Nat.div_eq_of_lt (Nat.mod_lt _ (Nat.two_pow_pos _)), Nat.add_zero]

theorem withField_div_high (hg : g < 2 ^ w) {k : Nat} (hk : a + w ≤ k) : withField x a w g / 2 ^ k = x / 2 ^ k := by
  obtain ⟨j, rfl⟩ := Nat.exists_eq_add_of_le hk
  rw [Nat.pow_add, ← Nat.div_div_eq_div_mul, ← Nat.div_div_eq_div_mul, Nat.pow_add, ← Nat.div_div_eq_div_mul, withField_div, Nat.mul_comm (_ / _),
    Nat.mul_add_div (Nat.two_pow_pos _), Nat.div_eq_of_lt hg, Nat.add_zero, Nat.pow_add, Nat.div_div_eq_div_mul]

/-- The field has its new value, and the bits above and below it are as they were. -/
theorem bits_withField (hg : g < 2 ^ w) {hi : Nat} (h : hi + 1 - a = w) : bits (withField x a w g) hi a = g := by
  rw [bits, withField_div, h, Nat.mul_comm, Nat.mul_add_mod, Nat.mod_eq_of_lt hg]

theorem bits_withField_high (hg : g < 2 ^ w) (hi : Nat) {lo : Nat} (h : a + w ≤ lo) : bits (withField x a w g) hi lo = bits x hi lo := by
  rw [bits, withField_div_high hg h, bits]

theorem bit_withField_high (hg : g < 2 ^ w) {n : Nat} (h : a + w ≤ n) : bit (withField x a w g) n = bit x n := by
  rw [bit, withField_div_high hg h, bit]

theorem div_mod_of_mod (y : Nat) {lo n : Nat} (h : lo + n ≤ a) : y % 2 ^ a / 2 ^ lo % 2 ^ n = y / 2 ^ lo % 2 ^ n := by
  obtain ⟨j, rfl⟩ := Nat.exists_eq_add_of_le h
  rw [Nat.add_assoc, Nat.pow_add, Nat.mod_mul_right_div_self, Nat.mod_mod_of_dvd _ (Nat.pow_dvd_pow 2 (Nat.le_add_right n j))]

theorem bits_withField_low {hi lo : Nat} (hl : lo ≤ hi) (h : hi < a) : bits (withField x a w g) hi lo = bits x hi lo := by
  have hle : lo + (hi + 1 - lo) ≤ a := by omega
  rw [bits, bits, ← div_mod_of_mod _ hle, withField_mod, div_mod_of_mod _ hle]

theorem bit_withField_low {n : Nat} (h : n < a) : bit (withField x a w g) n = bit x n := by
  have hbit (y : Nat) : bit y n = (y % 2 ^ a / 2 ^ n % 2 ^ 1 == 1) := by rw [div_mod_of_mod y (Nat.succ_le_of_lt h)]; rfl
  rw [hbit, hbit, withField_mod]

theorem withField_lt {n : Nat} (hg : g < 2 ^ w) (hx : x < 2 ^ n) (hn : a + w ≤ n) : withField x a w g < 2 ^ n := by
  rw [← Nat.div_eq_zero_iff_lt (Nat.two_pow_pos n)] at hx ⊢
  rw [withField_div_high hg hn, hx]

end Field

/-- An entry's number with another RELGEN (bits 375:360). -/
def withRelgen (x g : Nat) : Nat := x - bits x 375 360 * 2 ^ 360 + g * 2 ^ 360

theorem withRelgen_eq (x g : Nat) : withRelgen x g = withField x 360 16 g := by
  rw [withRelgen, bits, withField, show 375 + 1 - 360 = 16 from rfl]

theorem resOf_withRelgen (x : Nat) {g : Nat} (hg : g < 2 ^ 16) : resOf (withRelgen x g) = { resOf x with relgen := g } := by
  rw [withRelgen_eq]
  have hhigh (hi lo : Nat) (h : 376 ≤ lo) := bits_withField_high (x := x) (a := 360) hg hi h
  have hbit (n : Nat) (h : 376 ≤ n) := bit_withField_high (x := x) (a := 360) hg h
  have hfield := bits_withField (x := x) (a := 360) hg (hi := 375) rfl
  have hvalid := bit_withField_low (x := x) (a := 360) (w := 16) (g := g) (n := 359) (by decide)
  have hrsvd := bits_withField_low (x := x) (a := 360) (w := 16) (g := g) (hi := 358) (lo := 0) (by decide) (by decide)
  simp only [resOf, hhigh _ _ (show 376 ≤ 448 by decide), hhigh _ _ (show 376 ≤ 408 by decide), hhigh _ _ (show 376 ≤ 396 by decide),
    hhigh _ _ (show 376 ≤ 392 by decide), hhigh _ _ (show 376 ≤ 389 by decide), hhigh _ _ (show 376 ≤ 385 by decide), hbit _ (show 376 ≤ 384 by decide),
    hhigh _ _ (show 376 ≤ 381 by decide), hhigh _ _ (show 376 ≤ 377 by decide), hbit _ (show 376 ≤ 376 by decide), hfield, hvalid, hrsvd]

theorem bytesNat_lt (bs : List Byte) : bytesNat bs < 256 ^ bs.length := by
  induction bs with
  | nil => exact Nat.one_pos
  | cons b bs ih =>
    have hb := b.isLt
    rw [bytesNat, List.length_cons, Nat.pow_succ]
    omega

end Sys2Proof.Machine

/-! PROOFS. Restore, rewrite and prefetch messages, and the statement about all the messages that wait (05 R213, R218; 03 R95, R100). -/

namespace Sys2Proof.Machine

/-- A message that the controller of a ring takes again after those behind it. -/
def State.takeLater (s : State) (r : RingAt) (m : Msg) : State := s.onRing r fun y => { y with procIn := y.procIn ++ [m] }

section Messages
variable {s : State} {p : Params} (hi : s.focus.msg.inst < 16)

/-! ### PRESTORE (05 R213) -/

/-- A PRESTORE names a launch of its die and nothing else. -/
def Msg.namesOnly (m : Msg) (p : Params) : Prop := (p.p0.toNat / 2 ^ 22 = m.inst / 4 ∧ m.inst % 4 = 0) ∧ p.p1 = 0 ∧ p.p2 = 0 ∧ p.p3 = 0

include hi in
theorem State.prestore_params :
    (!s.fromKernel s.focus.msg ∨ bits p.p0.toNat 31 24 ≠ 0 ∨ p.p1 ≠ 0 ∨ p.p2 ≠ 0 ∨ p.p3 ≠ 0 ∨ !s.focus.msg.namesDie p.p0.toNat) ↔
      ¬(s.fromKernel s.focus.msg = true ∧ s.focus.msg.namesOnly p) := by
  rw [Msg.namesOnly, ← Msg.namesDie_iff hi]
  simp only [not_and_or, Bool.not_eq_true, Bool.not_eq_true', ne_eq]
  tauto

include hi in
theorem State.prestore_refused (h : ¬s.focus.msg.namesOnly p) : s.prestore p = s.refuse s.focus.msg 0x0306 := by
  unfold State.prestore
  exact if_pos ((State.prestore_params hi).2 fun hg => h hg.2)

/-- The launch is in its region again, and its PRESTORE waits until it runs. -/
def State.backIn (u : State) (l : Nat) (m : Msg) : State :=
  (u.onDie (Fin.ofNat 4 (l / 4096)) fun y => { y with lastBind := u.fc + 1 }).onLaunch l fun y => { y with restoring := y.restoring ++ [m] }

section RestoreNamed
variable (hk : s.fromKernel s.focus.msg = true) (h : s.focus.msg.namesOnly p)
include hi hk h

theorem State.prestore_unknown (hl : s.jobLaunch s.focus.msg p.p0.toNat = none) : s.prestore p = s.refuse s.focus.msg 0x0307 := by
  unfold State.prestore
  refine (if_neg (not_not.2 ⟨hk, h⟩ ∘ (State.prestore_params hi).1)).trans ?_
  rw [hl]

variable {l : Nat} (hl : s.jobLaunch s.focus.msg p.p0.toNat = some l)
include hl

theorem State.prestore_known :
    s.prestore p =
      if (s.launch l).state ≠ .evicted ∨ s.goneLaunch l then s.refuse s.focus.msg 0x0308
      else if (s.die (Fin.ofNat 4 (l / 4096))).lastBind = s.fc + 1 then s.takeLater s.focus.msg.at_ s.focus.msg
      else match s.spoilt l with
        | some v => (s.restoreFault l v).refuse s.focus.msg 3
        | none => match State.restoreAll (s.launch l) (s.evictedOf l) s with
          | none => s.takeLater s.focus.msg.at_ s.focus.msg
          | some u => (u.backIn l s.focus.msg).answerRunning l := by
  unfold State.prestore
  refine (if_neg (not_not.2 ⟨hk, h⟩ ∘ (State.prestore_params hi).1)).trans ?_
  rw [hl]
  rfl

end RestoreNamed

theorem State.backIn_launch (u : State) (l : Nat) (m : Msg) : (u.backIn l m).launch l = { u.launch l with restoring := (u.launch l).restoring ++ [m] } := by
  rw [State.backIn, State.launch_onLaunch, State.launch_of_launches (s := u) (State.onDie_keeps Die.launches rfl)]

theorem State.backIn_places (u : State) (l : Nat) (m : Msg) : (u.backIn l m).rings = u.rings ∧ (u.backIn l m).elems = u.elems := ⟨rfl, rfl⟩

/-- A launch that does not run yet keeps its PRESTORE. -/
theorem State.backIn_waits {u : State} {l : Nat} {m : Msg} (h : (u.launch l).state ≠ .running) : (u.backIn l m).answerRunning l = u.backIn l m := by
  unfold State.answerRunning
  exact if_neg (by rw [State.backIn_launch]; exact h)

/-- A launch that runs has its PRESTORE answered. -/
def State.backRuns (u : State) (l : Nat) (m : Msg) : State := (u.backIn l m).onLaunch l fun y => { y with restoring := [] }

theorem State.backIn_answers {u : State} {l : Nat} {m : Msg} (h : (u.launch l).state = .running) (hw : (u.launch l).restoring = []) :
    (u.backIn l m).answerRunning l = (u.backRuns l m).answer m 0 ((u.backRuns l m).regionWord l) 0 := by
  unfold State.answerRunning
  dsimp only
  rw [State.backIn_launch, hw]
  exact if_pos h

theorem State.backRuns_launch {u : State} {l : Nat} {m : Msg} (hw : (u.launch l).restoring = []) : (u.backRuns l m).launch l = u.launch l := by
  rw [State.backRuns, State.launch_onLaunch, State.backIn_launch, ← hw]

theorem State.backRuns_places (u : State) (l : Nat) (m : Msg) : (u.backRuns l m).rings = u.rings ∧ (u.backRuns l m).elems = u.elems := ⟨rfl, rfl⟩

/-! ### PPREF (03 R100, 05 R218) -/

/-- The entry that a PPREF reads images through. -/
def State.prefImage (s : State) (p : Params) : Option Res :=
  imageRes (s.resource s.focus.msg.pasid ((s.prefetchRegion s.focus.msg).map fun g => (s.focus.msg.at_.num, g.page.val)) (bits p.p0.toNat 31 16))

def State.prefHead (s : State) (p : Params) (e : Res) : AheadRead := s.readAhead s.focus.msg.at_.die s.focus.msg.pasid e (64 * p.p1.toNat) 64

/-- The images that a PPREF names, as a launch has them. -/
def Msg.prefLaunch (m : Msg) (p : Params) (hb : List Byte) : Launch :=
  { Launch.zero with
    pasid := m.pasid, iridx := .ofNat 16 (bits p.p0.toNat 31 16), ioff := .ofNat 48 (64 * p.p1.toNat),
    stages := if (procHead hb).good then (procHead hb).stages else 0, pages := (procHead hb).pages, nstate := (procHead hb).nstate }

/-- How far the images of a PPREF are cached. -/
def State.prefDone (s : State) (p : Params) (e : Res) (hb : List Byte) : State × Option Nat :=
  s.prefetch s.focus.msg.at_ (s.focus.msg.prefLaunch p hb) (s.prefetchRegion s.focus.msg) e (bits p.p2.toNat 10 0 + 1) (bits p.p0.toNat 15 0) 0

include hi in
theorem State.ppref_params : (bits p.p2.toNat 31 11 ≠ 0 ∨ p.p3 ≠ 0 ∨ 16 ≤ s.focus.msg.inst) ↔ ¬(p.p2.toNat < 2 ^ 11 ∧ p.p3 = 0) := by
  rw [← Word.bits_top p.p2 (by decide)]
  simp only [not_and_or, ne_eq, Nat.not_le.2 hi, or_false]

include hi in
theorem State.ppref_refused (h : ¬(p.p2.toNat < 2 ^ 11 ∧ p.p3 = 0) ∨ s.prefImage p = none) : s.ppref p = s.refuse s.focus.msg 0x0306 := by
  unfold State.ppref
  dsimp only
  by_cases hg : p.p2.toNat < 2 ^ 11 ∧ p.p3 = 0
  · refine (if_neg (not_not.2 hg ∘ (State.ppref_params hi).1)).trans ?_
    rw [show imageRes _ = none from h.resolve_left (not_not.2 hg)]
  · exact if_pos ((State.ppref_params hi).2 hg)

section Pref
variable (hg : p.p2.toNat < 2 ^ 11 ∧ p.p3 = 0) {e : Res} (he : s.prefImage p = some e)
include hi hg he

theorem State.ppref_stops (h : s.prefHead p e = .stop) : s.ppref p = s.answer s.focus.msg 0 0 0 := by
  unfold State.ppref
  dsimp only
  refine (if_neg (not_not.2 hg ∘ (State.ppref_params hi).1)).trans ?_
  rw [show imageRes _ = some e from he]
  dsimp only
  rw [show State.readAhead _ _ _ _ _ _ = .stop from h]

theorem State.ppref_waits {u : State} (h : s.prefHead p e = .wait u) : s.ppref p = u.takeLater s.focus.msg.at_ s.focus.msg := by
  unfold State.ppref
  dsimp only
  refine (if_neg (not_not.2 hg ∘ (State.ppref_params hi).1)).trans ?_
  rw [show imageRes _ = some e from he]
  dsimp only
  rw [show State.readAhead _ _ _ _ _ _ = .wait u from h]
  rfl

theorem State.ppref_head {hb : List Byte} (h : s.prefHead p e = .bytes hb) :
    s.ppref p = match s.prefDone p e hb with
      | (u, some n) => u.answer s.focus.msg 0 n 0
      | (u, none) => u.takeLater s.focus.msg.at_ s.focus.msg := by
  unfold State.ppref
  dsimp only
  refine (if_neg (not_not.2 hg ∘ (State.ppref_params hi).1)).trans ?_
  rw [show imageRes _ = some e from he]
  dsimp only
  rw [show State.readAhead _ _ _ _ _ _ = .bytes hb from h]
  rfl

/-- The images cached are counted in the answer; a walk keeps the message. -/
theorem State.ppref_counts {hb : List Byte} (h : s.prefHead p e = .bytes hb) {n : Nat} (hn : (s.prefDone p e hb).2 = some n) :
    s.ppref p = (s.prefDone p e hb).1.answer s.focus.msg 0 n 0 := by
  rw [State.ppref_head hi hg he h, ← Prod.eta (s.prefDone p e hb), hn]

theorem State.ppref_walks {hb : List Byte} (h : s.prefHead p e = .bytes hb) (hn : (s.prefDone p e hb).2 = none) :
    s.ppref p = (s.prefDone p e hb).1.takeLater s.focus.msg.at_ s.focus.msg := by
  rw [State.ppref_head hi hg he h, ← Prod.eta (s.prefDone p e hb), hn]

end Pref

/-- An entry without PREF is not read ahead. -/
theorem State.readAhead_no_pref {d : Fin 4} {pasid : BitVec 20} {e : Res} (h : e.pref = false) (off n : Nat) : s.readAhead d pasid e off n = .stop := by
  unfold State.readAhead
  exact if_pos (.inr (.inl (by simp [h])))

/-! ### PRSW (03 R95, 05 R218) -/

def prswGood (p : Params) : Prop := p.p0.toNat < 2 ^ 20 ∧ p.p1.toNat < 2 ^ 16 ∧ bits p.p2.toNat 15 0 = 0

/-- The entry that a PRSW reads its new entry through. -/
def State.prswSource (s : State) (p : Params) : Option Res := s.sourceRes s.focus.msg (bits p.p2.toNat 31 16) (64 * p.p3.toNat) 64

/-- The place of a record at the die of a PRSW. -/
def Msg.prswSite (m : Msg) : FRec := { FRec.zero with plane := 3, die := .ofNat 2 m.at_.die.val, pasid := m.pasid }

def State.prswRead (s : State) (p : Params) (e : Res) : CRead :=
  s.cRead s.focus.msg.at_.die s.focus.msg.pasid e (64 * p.p3.toNat) 64 none none s.focus.msg.prswSite

/-- The next RELGEN of a table entry. -/
def State.nextRelgen (s : State) (j : Job) (n : Nat) : Nat := ((resOf (bytesNat (s.entryBytes j n))).relgen + 1) % 65536

/-- The page of an entry's granules that is walked for before their versions are cleared. -/
def State.versionsMiss (s : State) (d : Fin 4) (pasid : BitVec 20) (x : Res) : Option Nat :=
  if x.vers ∧ x.space = 0 ∧ x.extent ≠ 0 then s.missVa d pasid (vaOf x.base 0) x.extent false else none

theorem State.prswRead_at {e : Res} {o : CRead} (h : s.prswRead p e = o) {site : FRec} (hs : site = s.focus.msg.prswSite) :
    s.cRead s.focus.msg.at_.die s.focus.msg.pasid e (64 * p.p3.toNat) 64 none none site = o := hs ▸ h

/-- The page that a PRSW walks for before it writes. -/
def State.prswMiss (s : State) (p : Params) (j : Job) (bs : List Byte) : Option Nat :=
  s.versionsMiss s.focus.msg.at_.die (.ofNat 20 p.p0.toNat) (resOf (withRelgen (bytesNat bs) (s.nextRelgen j p.p1.toNat)))

/-- The versions of a versioned entry's granules are cleared. -/
def State.cleared (s : State) (d : Fin 4) (pasid : BitVec 20) (x : Res) : State := if x.vers ∧ x.space = 0 then s.clearVersions d pasid x else s

theorem State.cleared_keeps {α : Type} (q : State → α) (hv : ∀ t v, q { t with versions := v } = q t) (s : State) (d : Fin 4) (pasid : BitVec 20)
    (x : Res) : q (s.cleared d pasid x) = q s := by
  unfold State.cleared
  split
  · exact hv _ _
  · rfl

/-- A table entry is rewritten, the versions of its granules at zero. -/
def State.entryPut (s : State) (d : Fin 4) (pasid : BitVec 20) (j : Job) (n new : Nat) : State :=
  (s.cleared d pasid (resOf new)).hbmWrite (s.cleared d pasid (resOf new)).devKey (j.rtbase.toNat + 64 * n) (natBytes 64 new)

/-- The eight words of an entry. -/
def entryWords (y : Nat) : Vector Dword 8 := Vector.ofFn fun i => .ofNat 64 (bits y (64 * i.val + 63) (64 * i.val))

/-- The state of a rewritten entry. -/
def State.rewritten (s : State) (p : Params) (j : Job) (gen : Nat) (bs : List Byte) : State :=
  s.entryPut s.focus.msg.at_.die (.ofNat 20 p.p0.toNat) j p.p1.toNat (withRelgen (bytesNat bs) gen)

/-- The entry is rewritten; the message is answered at once, or waits for the regions of the job. -/
def State.prswPut (s : State) (p : Params) (j : Job) (gen : Nat) (bs : List Byte) : State :=
  let t := s.rewritten p j gen bs
  let left := t.jobRegions (.ofNat 20 p.p0.toNat)
  let w : Prsw := ⟨s.focus.msg, .ofNat 20 p.p0.toNat, .ofNat 16 p.p1.toNat, entryWords (withRelgen (bytesNat bs) gen),
    entryWords (bytesNat (s.entryBytes j p.p1.toNat)), left⟩
  if left.isEmpty then t.answer s.focus.msg 0 gen 0
  else { t with jobs := tabPut (BitVec.ofNat 20 p.p0.toNat).toNat { j with prsws := j.prsws ++ [w] } t.jobs }

include hi in
theorem State.prsw_params :
    (!s.fromKernel s.focus.msg ∨ bits p.p0.toNat 31 20 ≠ 0 ∨ bits p.p1.toNat 31 16 ≠ 0 ∨ bits p.p2.toNat 15 0 ≠ 0 ∨ 16 ≤ s.focus.msg.inst) ↔
      ¬(s.fromKernel s.focus.msg = true ∧ prswGood p) := by
  rw [prswGood, ← Word.bits_top p.p0 (by decide), ← Word.bits_top p.p1 (by decide)]
  simp only [not_and_or, Bool.not_eq_true, Bool.not_eq_true', ne_eq, Nat.not_le.2 hi, or_false]

include hi in
theorem State.prsw_refused (h : ¬prswGood p ∨ tabFind (BitVec.ofNat 20 p.p0.toNat).toNat s.jobs = none ∨ s.prswSource p = none) :
    s.prsw p = s.refuse s.focus.msg 0x0306 := by
  by_cases hg : s.fromKernel s.focus.msg = true ∧ prswGood p
  · unfold State.prsw
    refine (if_neg (not_not.2 hg ∘ (State.prsw_params hi).1)).trans ?_
    rcases h.resolve_left (not_not.2 hg.2) with hj | he
    · rw [show tabFind (BitVec.ofNat 20 p.p0.toNat).toNat s.jobs = none from hj]
    · rw [show s.sourceRes _ _ _ _ = none from he]
      cases tabFind (BitVec.ofNat 20 p.p0.toNat).toNat s.jobs <;> rfl
  · unfold State.prsw
    exact if_pos ((State.prsw_params hi).2 hg)

section Rewrite
variable (hk : s.fromKernel s.focus.msg = true) (hg : prswGood p) {j : Job} {e : Res} (hj : tabFind (BitVec.ofNat 20 p.p0.toNat).toNat s.jobs = some j)
  (he : s.prswSource p = some e)
include hi hk hg hj he

theorem State.prsw_past (hn : j.rtcnt.toNat < p.p1.toNat) : s.prsw p = s.refuse s.focus.msg 0x0306 := by
  unfold State.prsw
  refine (if_neg (not_not.2 ⟨hk, hg⟩ ∘ (State.prsw_params hi).1)).trans ?_
  rw [show tabFind (BitVec.ofNat 20 p.p0.toNat).toNat s.jobs = some j from hj, show s.sourceRes _ _ _ _ = some e from he]
  exact if_pos hn

variable (hn : p.p1.toNat ≤ j.rtcnt.toNat)
include hn

/-- The read of the new entry decides: it waits, faults, has no key, or gives the bytes; those wait for a walk, or are written. (The page to walk for
is a function `f` of the entry's number here, so that no check of a proof evaluates it.) -/
theorem State.prsw_read :
    (∀ u, s.prswRead p e = .wait u → s.prsw p = u.holdMsg s.focus.msg) ∧
    (∀ va, s.prswRead p e = .addr va →
      s.prsw p = (s.takeFault s.focus.msg.at_.die none none 0 (fltAddr va) s.focus.msg.prswSite).refuse s.focus.msg 3) ∧
    (s.prswRead p e = .noKey → s.prsw p = s.refuse s.focus.msg 0x030B) ∧
    ∀ bs, s.prswRead p e = .bytes bs →
      (∀ va, s.prswMiss p j bs = some va →
        s.prsw p = (s.walkFor s.focus.msg.at_.die (.ofNat 20 p.p0.toNat) va false none none none s.focus.msg.prswSite none).holdMsg s.focus.msg) ∧
      (s.prswMiss p j bs = none →
        s.prsw p = s.prswPut p j (s.nextRelgen j p.p1.toNat) bs) := by
  obtain ⟨f, hf⟩ : ∃ f : Nat → Option Nat, ∀ x, (if (resOf x).vers = true ∧ (resOf x).space = 0 ∧ (resOf x).extent ≠ 0 then
    s.missVa s.focus.msg.at_.die (.ofNat 20 p.p0.toNat) (vaOf (resOf x).base 0) (resOf x).extent false else none) = f x := ⟨_, fun _ => rfl⟩
  have hmiss {bs : List Byte} {o : Option Nat} (hm : s.prswMiss p j bs = o) :
      f (bytesNat bs - bits (bytesNat bs) 375 360 * 2 ^ 360 + ((resOf (bytesNat (s.entryBytes j p.p1.toNat))).relgen + 1) % 65536 * 2 ^ 360) = o :=
    (hf _).symm.trans hm
  refine ⟨fun u h => ?waits, fun va h => ?addr, fun h => ?noKey, fun bs h => ⟨fun va hm => ?walks, fun hm => ?puts⟩⟩
  all_goals
    unfold State.prsw
    refine (if_neg (not_not.2 ⟨hk, hg⟩ ∘ (State.prsw_params hi).1)).trans ?_
    rw [show tabFind (BitVec.ofNat 20 p.p0.toNat).toNat s.jobs = some j from hj, show s.sourceRes _ _ _ _ = some e from he]
    refine (if_neg (Nat.not_lt.2 hn)).trans ?_
    simp only [hf]
    rw [State.prswRead_at h ?site]
    case site => rfl
  case addr => rfl
  case walks =>
    dsimp only
    rw [hmiss hm]
    rfl
  case puts =>
    dsimp only
    rw [hmiss hm]
    rfl

end Rewrite

/-! #### The entry after the rewrite -/

section Put
variable (s : State) (d : Fin 4) (pasid : BitVec 20) (j : Job) (n new : Nat)

theorem State.entryPut_keeps {α : Type} (q : State → α) (hq : ∀ t m l, q { t with hbm := m, hbmKey := l } = q t)
    (hv : ∀ t v, q { t with versions := v } = q t) : q (s.entryPut d pasid j n new) = q s := by
  unfold State.entryPut
  exact (State.hbmWrite_keeps _ _ _ q hq _).trans (State.cleared_keeps q hv ..)

variable {s}

/-- The entry reads as it was written. -/
theorem State.entryPut_entryBytes (h : Memory.wf s.hbm = true) : (s.entryPut d pasid j n new).entryBytes j n = natBytes 64 new := by
  have hread (t : State) (ht : Memory.wf t.hbm = true) :
      (t.hbmWrite t.devKey (j.rtbase.toNat + 64 * n) (natBytes 64 new)).entryBytes j n = natBytes 64 new := by
    have hkey : (t.hbmWrite t.devKey (j.rtbase.toNat + 64 * n) (natBytes 64 new)).devKey = t.devKey :=
      State.hbmWrite_keeps _ _ _ State.devKey (by intros; rfl) _
    have hback := State.hbmRead_hbmWrite (k := t.devKey) (a := j.rtbase.toNat + 64 * n) (natBytes 64 new) ht
    rw [length_natBytes] at hback
    rw [State.entryBytes, hkey, hback]
  rw [State.entryPut]
  refine hread (s.cleared d pasid (resOf new)) ?_
  rw [State.cleared_keeps State.hbm (by intros; rfl), h]

end Put

theorem State.vaRead_length (s : State) (d : Fin 4) (pasid : BitVec 20) (k : Key) (va n : Nat) : (s.vaRead d pasid k va n).length = n := by
  rw [State.vaRead, List.length_map, List.length_range]

/-- A read by the controller gives the bytes that it asks for. -/
theorem State.cRead_length {s : State} {d : Fin 4} {pasid : BitVec 20} {e : Res} {off n : Nat} {ring : Option (Fin 4)}
    {q : Option (BitVec 20 × BitVec 16)} {site : FRec} {bs : List Byte} (h : s.cRead d pasid e off n ring q site = .bytes bs) : bs.length = n := by
  unfold State.cRead at h
  dsimp only at h
  split at h
  · cases h
  · split at h
    · cases h
    · split at h
      · split at h
        · cases h
        · cases h
          exact State.vaRead_length ..
      · split at h
        · cases h
        · cases h
          exact State.vaRead_length ..

/-- An entry read and given another RELGEN is the entry with that RELGEN. -/
theorem resOf_rewritten {bs : List Byte} (h : bs.length = 64) {g : Nat} (hg : g < 2 ^ 16) :
    resOf (bytesNat (natBytes 64 (withRelgen (bytesNat bs) g))) = { resOf (bytesNat bs) with relgen := g } := by
  have h512 : (256 : Nat) ^ 64 = 2 ^ 512 := (Nat.pow_mul 2 8 64).symm
  have hlt : bytesNat bs < 2 ^ 512 := by
    rw [← h512, ← h]
    exact bytesNat_lt bs
  have hnew : withRelgen (bytesNat bs) g < 256 ^ 64 := by
    rw [h512, withRelgen_eq]
    exact withField_lt (n := 512) hg hlt (by decide)
  rw [bytesNat_natBytes, Nat.mod_eq_of_lt hnew, resOf_withRelgen _ hg]

theorem State.nextRelgen_lt (s : State) (j : Job) (n : Nat) : s.nextRelgen j n < 2 ^ 16 := Nat.mod_lt _ (by decide)

theorem State.versionsMiss_relgen (s : State) (d : Fin 4) (pasid : BitVec 20) (x : Res) (g : Nat) :
    s.versionsMiss d pasid { x with relgen := g } = s.versionsMiss d pasid x := rfl

/-- The new RELGEN does not decide the walk. -/
theorem State.prswMiss_eq (s : State) (p : Params) (j : Job) (bs : List Byte) :
    s.prswMiss p j bs = s.versionsMiss s.focus.msg.at_.die (.ofNat 20 p.p0.toNat) (resOf (bytesNat bs)) := by
  rw [State.prswMiss, resOf_withRelgen _ (s.nextRelgen_lt j _), State.versionsMiss_relgen]

section Written
variable {j : Job} {e : Res} {bs : List Byte} {gen : Nat}

/-- The rewrite that waits for the regions of its job. -/
def State.rewriteWaits (s : State) (p : Params) (j : Job) (gen : Nat) (bs : List Byte) : Prsw :=
  ⟨s.focus.msg, .ofNat 20 p.p0.toNat, .ofNat 16 p.p1.toNat, entryWords (withRelgen (bytesNat bs) gen), entryWords (bytesNat (s.entryBytes j p.p1.toNat)),
    s.jobRegions (.ofNat 20 p.p0.toNat)⟩

theorem State.rewritten_regions (s : State) (p : Params) (j : Job) (gen : Nat) (bs : List Byte) (pasid : BitVec 20) :
    (s.rewritten p j gen bs).jobRegions pasid = s.jobRegions pasid :=
  State.entryPut_keeps s _ _ _ _ _ (fun t => t.jobRegions pasid) (by intros; rfl) (by intros; rfl)

/-- The table holds the new entry. -/
theorem State.rewritten_entry (hr : s.prswRead p e = .bytes bs) (hwf : Memory.wf s.hbm = true) (hg : gen < 2 ^ 16) :
    resOf (bytesNat ((s.rewritten p j gen bs).entryBytes j p.p1.toNat)) = { resOf (bytesNat bs) with relgen := gen } := by
  rw [State.rewritten, State.entryPut_entryBytes _ _ _ _ _ hwf, resOf_rewritten (State.cRead_length hr) hg]

theorem State.prswPut_answers (h : s.jobRegions (.ofNat 20 p.p0.toNat) = []) :
    s.prswPut p j gen bs = (s.rewritten p j gen bs).answer s.focus.msg 0 gen 0 := by
  unfold State.prswPut
  refine if_pos ?_
  rw [s.rewritten_regions, h, List.isEmpty_nil]

/-- The entry is rewritten, and the message waits for the regions of the job. -/
def State.rewriteKept (s : State) (p : Params) (j : Job) (gen : Nat) (bs : List Byte) : State :=
  { s.rewritten p j gen bs with
    jobs := tabPut (BitVec.ofNat 20 p.p0.toNat).toNat { j with prsws := j.prsws ++ [s.rewriteWaits p j gen bs] } (s.rewritten p j gen bs).jobs }

theorem State.rewriteKept_job (s : State) (p : Params) (j : Job) (gen : Nat) (bs : List Byte) :
    tabFind (BitVec.ofNat 20 p.p0.toNat).toNat (s.rewriteKept p j gen bs).jobs = some { j with prsws := j.prsws ++ [s.rewriteWaits p j gen bs] } :=
  tabFind_tabPut ..

theorem State.entryBytes_jobs (t : State) (js : Tab Job) (j : Job) (n : Nat) : { t with jobs := js }.entryBytes j n = t.entryBytes j n := rfl

theorem State.rewriteKept_entry (hr : s.prswRead p e = .bytes bs) (hwf : Memory.wf s.hbm = true) (hg : gen < 2 ^ 16) :
    resOf (bytesNat ((s.rewriteKept p j gen bs).entryBytes j p.p1.toNat)) = { resOf (bytesNat bs) with relgen := gen } := by
  rw [State.rewriteKept, State.entryBytes_jobs, State.rewritten_entry hr hwf hg]

theorem State.prswPut_waits (h : s.jobRegions (.ofNat 20 p.p0.toNat) ≠ []) :
    s.prswPut p j gen bs = s.rewriteKept p j gen bs := by
  have hregions := s.rewritten_regions p j gen bs (.ofNat 20 p.p0.toNat)
  unfold State.prswPut
  refine (if_neg ?_).trans ?_
  · rw [hregions]
    simpa using h
  · rw [State.rewriteKept, State.rewriteWaits, ← hregions]

end Written

end Messages

theorem tableAndRestoreMessages : Claim.TableAndRestoreMessages := by
  intro s p m r kernel named later hi
  have hkernel : kernel ↔ s.fromKernel m = true := State.fromKernel_iff.symm
  have hnamed : named ↔ m.namesOnly p := by rw [Msg.namesOnly, and_assoc]
  refine ⟨?restoreBad, ?restoreUnknown, ?restore, ⟨?rewriteBad, ?rewrite⟩, ?prefBad, ?pref⟩
  case restoreBad => exact fun hbad => by rw [exec_prestore, State.prestore_refused hi (mt hnamed.2 hbad)]
  case restoreUnknown => exact fun hk hn hl => by rw [exec_prestore, State.prestore_unknown hi (hkernel.1 hk) (hnamed.1 hn) hl]
  case restore =>
    intro l hk hn hl hp d gone due
    have heq := State.prestore_known hi (hkernel.1 hk) (hnamed.1 hn) (State.jobLaunch_of hl hp)
    have hgone : gone ↔ (s.launch l).state ≠ .evicted ∨ s.goneLaunch l = true := by simp only [gone, State.goneLaunch, Bool.or_eq_true]
    have hother (h : ¬gone) (hd : due) : s.prestore p = _ := heq.trans ((if_neg (mt hgone.2 h)).trans (if_neg hd))
    refine ⟨fun h => ?_, fun h hd => ?_, fun v h hd hv => ?_, fun h hd hv hall => ?_, fun u h hd hv hall => ⟨fun hrun => ?_, fun hrun hwait => ?_⟩⟩
    · rw [exec_prestore, heq, if_pos (hgone.1 h)]
    · rw [exec_prestore, heq, if_neg (mt hgone.2 h), if_pos (not_not.1 hd)]
      rfl
    · rw [exec_prestore, hother h hd, hv]
    · rw [exec_prestore, hother h hd, hv, hall]
      rfl
    · refine ⟨u.backIn l m, ?_, rfl, rfl, u.backIn_launch l m⟩
      rw [exec_prestore, hother h hd, hv, hall]
      dsimp only
      rw [State.backIn_waits hrun]
    · refine ⟨u.backRuns l m, ?_, rfl, rfl, State.backRuns_launch hwait⟩
      rw [exec_prestore, hother h hd, hv, hall]
      dsimp only
      rw [State.backIn_answers hrun hwait]
  case rewriteBad => exact fun hbad => by rw [exec_prsw, State.prsw_refused hi hbad]
  case rewrite =>
    intro j e hk hg hj he
    refine ⟨fun hn => ?_, fun hn => ?_⟩
    · rw [exec_prsw, State.prsw_past hi (hkernel.1 hk) hg hj he hn]
    obtain ⟨hwait, haddr, hnoKey, hbytes⟩ := State.prsw_read hi (hkernel.1 hk) hg hj he hn
    refine ⟨fun u h => ?_, fun va h => ?_, fun h => ?_, fun bs h => ?_⟩
    · rw [exec_prsw, hwait u h]
    · rw [exec_prsw, haddr va h]
      rfl
    · rw [exec_prsw, hnoKey h]
    obtain ⟨hwalk, hput⟩ := hbytes bs h
    have hmiss := s.prswMiss_eq p j bs
    refine ⟨fun va hm => ?_, fun hm hwf => ⟨fun hr => ?_, fun hr => ?_⟩⟩
    · rw [exec_prsw, hwalk va (hmiss.trans hm)]
      rfl
    · refine ⟨s.rewritten p j _ bs, ?_, State.rewritten_entry h hwf (s.nextRelgen_lt j _)⟩
      rw [exec_prsw, hput (hmiss.trans hm), State.prswPut_answers hr]
      rfl
    · refine ⟨s.rewriteKept p j (s.nextRelgen j p.p1.toNat) bs, s.rewriteWaits p j (s.nextRelgen j p.p1.toNat) bs, ?_, s.rewriteKept_job p j _ bs, rfl,
        Nat.mod_eq_of_lt hg.2.1, rfl, State.rewriteKept_entry h hwf (s.nextRelgen_lt j _)⟩
      rw [exec_prsw, hput (hmiss.trans hm), State.prswPut_waits hr]
  case prefBad => exact fun hbad => by rw [exec_ppref, State.ppref_refused hi hbad]
  case pref =>
    intro e hg he
    refine ⟨fun h => ?_, fun h => ?_, fun u h => ?_, fun hb => ?_⟩
    · rw [exec_ppref, State.ppref_stops hi hg he (State.readAhead_no_pref h _ _)]
    · rw [exec_ppref, State.ppref_stops hi hg he h]
    · rw [exec_ppref, State.ppref_waits hi hg he h]
      rfl
    · intro h x t hread
      have hlow : bits p.p2.toNat 10 0 = p.p2.toNat := by rw [bits, Nat.pow_zero, Nat.div_one, Nat.mod_eq_of_lt hg.1]
      have hdone : s.prefDone p e hb = t := by
        rw [State.prefDone, hlow]
        rfl
      refine ⟨fun n hn => ?_, fun hn => ?_⟩
      · rw [exec_ppref, State.ppref_counts hi hg he hread (hdone ▸ hn), hdone]
      · rw [exec_ppref, State.ppref_walks hi hg he hread (hdone ▸ hn), hdone]
        rfl

/-- Settles O35: message by message, by the conditions under which the model refuses, keeps or performs it; the entry that PRSW writes by reading HBM back. -/
theorem waitingAndTableMessages : Obligations.WaitingAndTableMessages := ⟨waitingMessages, tableAndRestoreMessages⟩

end Sys2Proof.Machine

/-! PROOFS. FLATCH, FSEQCHK and FQDEMAP: what each answers, and what it leaves of harts and the wake latch (04 R162, R163, R166). -/

namespace Sys2Proof.Machine

/-! ### FLATCH and FSEQCHK (04 R162, R163) -/

theorem exec_flatch (s : State) (rd rs1 : BitVec 5) : exec (.flatch rd rs1) s = .next (s.flatch rd rs1) := rfl
theorem exec_fseqchk (s : State) (rd rs1 rs2 : BitVec 5) : exec (.fseqchk rd rs1 rs2) s = .next (s.fseqchk rd rs1 rs2) := rfl

theorem argHome_eq_some {d : Fin 4} {v : Dword} {q : BitVec 20} : argHome d v = some q ↔ argQid v = some q ∧ homeDie q = d := by
  simp [argHome, Option.filter_eq_some_iff]

section Seq
variable {s : State} {rs1 rs2 : BitVec 5} {q : BitVec 20} (hq : argHome s.focus.ring.die (s.me.reg rs1) = some q)
include hq

theorem State.flatch_reads (rd : BitVec 5) :
    s.flatch rd rs1 = s.retireF rd (if (s.latch q).valid = true then
      (s.latch q).lseq.toNat + (if seqAfter (s.latch q).lseq (s.latch q).taken then 2 ^ 16 else 0) + 2 ^ 17 else 0) := by
  obtain ⟨hv, hd⟩ := argHome_eq_some.1 hq
  have flag (b : Bool) (n : Nat) : flagAt b n = if b = true then 2 ^ n else 0 := by cases b <;> simp [flagAt]
  simp only [State.flatch, hv, hd, and_true, flag]
  split
  · rfl
  · rfl

variable (hv : (s.me.reg rs2).toNat < 65536)
include hv

/-- FSEQCHK with its arguments read: the three cases of the distance from TAKEN. -/
theorem State.fseqchk_eq (rd : BitVec 5) :
    s.fseqchk rd rs1 rs2 =
      (let v := BitVec.ofNat 16 (s.me.reg rs2).toNat
       let n := seqDist v (s.latch q).taken
       if n = 0 ∨ 32768 ≤ n then s.retireF rd 1
       else if n = 1 ∧ seqAfter v (s.latch q).lseq = false then (s.onLatch q fun e => { e with taken := v }).retireF rd 0
       else s.retireF rd 2) := by
  have hf : (argHome s.focus.ring.die (s.me.reg rs1)).filter (fun _ => decide ((s.me.reg rs2).toNat < 65536)) = some q := by
    rw [hq, Option.filter_some, if_pos (decide_eq_true hv)]
  simp only [State.fseqchk, hf, Bool.not_eq_eq_eq_not, Bool.not_true]

end Seq

/-- Settles O45: FLATCH by its one equation, FSEQCHK by the distance of its argument from TAKEN. -/
theorem latchReads : Obligations.LatchReads := by
  intro s rd rs1 rs2 q d e v n hq
  refine ⟨by rw [exec_flatch, State.flatch_reads hq], fun hv => ?_⟩
  have heq := State.fseqchk_eq hq hv rd
  refine ⟨fun hdup => ?_, fun hone hdue => ?_, fun hlow hgap => ?_⟩
  · rw [exec_fseqchk, heq]
    exact congrArg Host.Outcome.next (if_pos hdup)
  · have hnot : ¬(n = 0 ∨ 32768 ≤ n) := by omega
    refine ⟨_, (exec_fseqchk ..).trans (congrArg Host.Outcome.next (heq.trans ((if_neg hnot).trans (if_pos ⟨hone, hdue⟩)))), ?_, ?_,
      fun p hp => ?_⟩
    · exact retires_retireF (congrArg Hart.pc (State.hart_onLatch ..)) (congrArg Hart.x (State.hart_onLatch ..)) rfl rfl rd 0
    · rw [State.latch_retireF, State.latch_onLatch, if_pos rfl]
    · rw [State.latch_retireF, State.latch_onLatch, if_neg hp.symm]
  · have hnot : ¬(n = 0 ∨ 32768 ≤ n) := by omega
    have hahead : ¬(n = 1 ∧ seqAfter (.ofNat 16 v) e.lseq = false) := by
      rintro ⟨h1, h2⟩
      rcases hgap with h | ⟨-, h⟩
      · omega
      · rw [h2] at h; cases h
    exact (exec_fseqchk ..).trans (congrArg Host.Outcome.next (heq.trans ((if_neg hnot).trans (if_neg hahead))))

/-! ### FQDEMAP (04 R166) -/

/-- A hart that has given up its queue. -/
def Hart.giveUp (h : Hart) : Hart := { h.disarm with mapped := false, arm := false }

/-- The state in which hart `k` of the die in focus has given up its queue. -/
def State.ungive (s : State) (k : Fin 64) : State :=
  (s.onHart s.focus.ring.die k Hart.giveUp).onLatch (s.hart s.focus.ring.die k).qid fun e => { e with mapped := false }

theorem State.hart_ungive (s : State) (k : Fin 64) : (s.ungive k).hart s.focus.ring.die k = Hart.giveUp (s.hart s.focus.ring.die k) :=
  (State.hart_onLatch ..).trans (State.hart_onHart ..)

theorem State.ungive_keeps {α : Type} (s : State) (k : Fin 64) (p : Hart → α) (h : ∀ y, p (Hart.giveUp y) = p y) (j : Fin 64) :
    p ((s.ungive k).hart s.focus.ring.die j) = p (s.hart s.focus.ring.die j) :=
  (congrArg p (State.hart_onLatch ..)).trans (State.onHart_keeps p h ..)

theorem State.latch_ungive (s : State) (k : Fin 64) (q : BitVec 20) :
    (s.ungive k).latch q = if (s.hart s.focus.ring.die k).qid = q then { s.latch q with mapped := false } else s.latch q := by
  rw [State.ungive, State.latch_onLatch, State.latch_onHart]

/-- The hart that FQDEMAP names is the one that makes it, or is blocked in FWAIT. -/
def State.Demappable (s : State) (k : Fin 64) : Prop := k = s.focus.hart ∨ ∃ r, (s.hart s.focus.ring.die k).block = .fwait r

section Demap
variable {s : State} {rs1 : BitVec 5} {k : Fin 64} (hk : argHart (s.me.reg rs1) = some k)
include hk

theorem State.fqdemap_waits (h : ¬s.Demappable k) (rd : BitVec 5) : s.fqdemap rd rs1 = s.blockF (.fqdemap rd k) := by
  obtain ⟨hfocus, hblock⟩ := not_or.1 h
  simp only [State.fqdemap, hk]
  refine if_pos ⟨hfocus, ?_⟩
  split
  · next r hr => exact absurd ⟨r, hr⟩ hblock
  · rfl

/-- Otherwise the hart gives up its queue, if it holds one. -/
theorem State.fqdemap_answers (h : s.Demappable k) (rd : BitVec 5) :
    s.fqdemap rd rs1 = if (s.hart s.focus.ring.die k).mapped = true then (s.ungive k).retireF rd (s.hart s.focus.ring.die k).qid.toNat
      else s.retireF rd (2 ^ 64 - 1) := by
  simp only [State.fqdemap, hk]
  refine if_neg fun hn => ?_
  obtain ⟨hfocus, hwaits⟩ := hn
  obtain ⟨r, hr⟩ := h.resolve_left hfocus
  rw [hr] at hwaits
  cases hwaits

end Demap

/-- Settles O44: whether the hart can be demapped, and whether it holds a queue; what it gives up stands before the result is written. -/
theorem queuesDemap : Obligations.QueuesDemap := by
  intro s rd rs1 k d y free hk
  refine ⟨fun h => congrArg Host.Outcome.next (State.fqdemap_waits hk h rd), fun h hm => ?_, fun h hm => ?_⟩
  · have heq := (State.fqdemap_answers hk h rd).trans (if_pos hm)
    have hgone := State.retireF_keeps (fun z => (z.mapped, z.arm, z.vigilArmed)) (fun _ _ => rfl) (s.ungive k) rd y.qid.toNat d k
    rw [State.hart_ungive] at hgone
    simp only [Prod.mk.injEq] at hgone
    obtain ⟨hmapped, harm, hvigil⟩ := hgone
    refine ⟨_, congrArg Host.Outcome.next heq, ?_, hmapped, harm, hvigil, ?_, fun p hp => ?_, fun e => ?_⟩
    · exact retires_retireF (s.ungive_keeps k Hart.pc (fun _ => rfl) _) (s.ungive_keeps k Hart.x (fun _ => rfl) _) rfl rfl rd _
    · rw [State.latch_retireF, State.latch_ungive, if_pos rfl]
    · rw [State.latch_retireF, State.latch_ungive, if_neg hp.symm]
    · exact (State.onDie_keeps Die.launches rfl e).trans ((State.onDie_keeps Die.launches rfl e).trans (State.onDie_keeps Die.launches rfl e))
  · exact congrArg Host.Outcome.next ((State.fqdemap_answers hk h rd).trans (if_neg (Bool.eq_false_iff.1 hm)))

end Sys2Proof.Machine

/-! PROOFS. Kicks and acknowledgements: what a write to a kick page does to the wake latch and to the home die (04 R139 to R141; 16 R477, R479). -/

namespace Sys2Proof.Machine

/-! ### Attention and the wake of a die (04 R141, 16 R479) -/

theorem State.raise_mapped {s : State} {q : BitVec 20} (h : (s.latch q).mapped = true) : s.raise q = s := if_pos h

theorem State.raise_latch (s : State) (q p : BitVec 20) :
    (s.raise q).latch p = if q = p then { s.latch p with attn := (s.latch p).attn || !(s.latch p).mapped } else s.latch p := by
  unfold State.raise
  split
  · next hm =>
    split
    · next hp => subst hp; rw [hm, Bool.not_true, Bool.or_false]
    · rfl
  · next hm =>
    rw [State.latch_onDie rfl, State.latch_onLatch]
    split
    · next hp => subst hp; simp [hm]
    · rfl

theorem State.raise_attn {s : State} {q : BitVec 20} (h : (s.latch q).mapped = false) : localIx q ∈ ((s.raise q).die (homeDie q)).attn := by
  unfold State.raise
  rw [if_neg (Bool.eq_false_iff.1 h), State.die_onDie]
  dsimp only
  split
  · next hc => exact List.contains_iff_mem.1 hc
  · exact List.mem_append_right _ (List.mem_singleton.2 rfl)

theorem State.part_raise {α : Type} {p : Die → α} (hl : ∀ x t, p { x with latch := t } = p x) (ha : ∀ x l, p { x with attn := l } = p x)
    (s : State) (q : BitVec 20) : (s.raise q).part p = s.part p := by
  unfold State.raise
  split
  · rfl
  · exact (State.part_onDie p _ (fun x => ha x _) _).trans (State.part_onDie p s (fun x => hl x _) _)

theorem State.part_startWake {α : Type} {p : Die → α} (h : ∀ x t w, p { x with islands := t, waking := w } = p x) (s : State) (d : Fin 4) :
    (s.startWake d).part p = s.part p := by
  unfold State.startWake
  split
  · refine State.part_onDie p s (fun x => ?_) _
    rw [Die.allIslands]
    exact h x _ _
  · rfl

theorem State.startWake_waking (s : State) (d : Fin 4) : ((s.startWake d).die d).waking = ((s.die d).waking || (s.die d).gated) := by
  unfold State.startWake
  split
  · next hg => rw [State.die_onDie, hg, Bool.or_true]
  · next hg => rw [Bool.eq_false_of_not_eq_true hg, Bool.or_false]

theorem State.startWake_latch (s : State) (d : Fin 4) (q : BitVec 20) : (s.startWake d).latch q = s.latch q :=
  congrArg (tabGet Latch.zero (localIx q)) (congrFun (State.part_startWake (p := Die.latch) (fun _ _ _ => rfl) s d) (homeDie q))

/-! ### A kick (04 R139) -/

/-- The sequence that a kick names. -/
def kickSeq (w : Dword) : BitVec 16 := .ofNat 16 (bits w.toNat 63 48)

/-- A kick is one 8-byte write for a valid queue, with its reserved bits clear. -/
def Latch.KickFormed (e : Latch) (single : Bool) (w : Dword) : Prop := single = true ∧ e.valid = true ∧ bits w.toNat 47 16 = 0

/-- The index of a kick is that of its sequence, which the ring can hold behind TAKEN. -/
def Latch.KickFits (e : Latch) (w : Dword) : Prop :=
  bits w.toNat 15 0 = ((kickSeq w).toNat + 1) % 2 ^ e.rsize.toNat ∧ seqDist (kickSeq w) e.taken ≤ 2 ^ e.rsize.toNat

theorem Latch.not_kickFormed_iff {e : Latch} {single : Bool} {w : Dword} :
    ¬e.KickFormed single w ↔ (!single) = true ∨ (!e.valid) = true ∨ bits w.toNat 47 16 ≠ 0 := by
  simp only [Latch.KickFormed, not_and_or, Bool.not_eq_true, Bool.not_eq_eq_eq_not, Bool.not_true, ne_eq]

theorem Latch.not_kickFits_iff {e : Latch} {w : Dword} :
    ¬e.KickFits w ↔ bits w.toNat 15 0 ≠ ((kickSeq w).toNat + 1) % 2 ^ e.rsize.toNat ∨ 2 ^ e.rsize.toNat < seqDist (kickSeq w) e.taken := by
  simp only [Latch.KickFits, not_and_or, Nat.not_le, ne_eq]

/-- The queue's LSEQ as a kick sets it, with the attention of the queue raised. -/
def State.kicked (s : State) (q : BitVec 20) (w : Dword) : State := (s.onLatch q fun e => { e with lseq := kickSeq w }).raise q

section Kick
variable {s : State} {q : BitVec 20} {single : Bool} {w : Dword}

theorem State.kick_recovery (h : s.recovery = true) : s.kick q single w = s := if_pos h

variable (hr : s.recovery = false)
include hr

theorem State.kick_malformed (h : ¬(s.latch q).KickFormed single w) : s.kick q single w = s.kickErr q :=
  (if_neg (Bool.eq_false_iff.1 hr)).trans (if_pos (Latch.not_kickFormed_iff.1 h))

variable (hf : (s.latch q).KickFormed single w)
include hf

/-- A kick that is well formed, by whether it fits and whether its sequence is after LSEQ. -/
theorem State.kick_formed :
    s.kick q single w =
      if bits w.toNat 15 0 ≠ ((kickSeq w).toNat + 1) % 2 ^ (s.latch q).rsize.toNat ∨
          2 ^ (s.latch q).rsize.toNat < seqDist (kickSeq w) (s.latch q).taken then
        (s.onLatch q fun e => { e with badkick := true }).kickErr q
      else if seqAfter (kickSeq w) (s.latch q).lseq = true then (s.kicked q w).startWake (homeDie q)
      else s :=
  (if_neg (Bool.eq_false_iff.1 hr)).trans (if_neg fun h => Latch.not_kickFormed_iff.2 h hf)

theorem State.kick_unfit (h : ¬(s.latch q).KickFits w) : s.kick q single w = (s.onLatch q fun e => { e with badkick := true }).kickErr q :=
  (State.kick_formed hr hf).trans (if_pos (Latch.not_kickFits_iff.1 h))

variable (hfit : (s.latch q).KickFits w)
include hfit

theorem State.kick_advances (h : seqAfter (kickSeq w) (s.latch q).lseq = true) : s.kick q single w = (s.kicked q w).startWake (homeDie q) :=
  (State.kick_formed hr hf).trans ((if_neg fun hn => Latch.not_kickFits_iff.2 hn hfit).trans (if_pos h))

theorem State.kick_old (h : seqAfter (kickSeq w) (s.latch q).lseq = false) : s.kick q single w = s :=
  (State.kick_formed hr hf).trans ((if_neg fun hn => Latch.not_kickFits_iff.2 hn hfit).trans (if_neg (Bool.eq_false_iff.1 h)))

end Kick

/-! ### What a kick leaves -/

theorem State.kickErr_counts (s : State) (q : BitVec 20) : ((s.kickErr q).die (homeDie q)).feKickerr = (s.die (homeDie q)).feKickerr + 1 := by
  rw [State.kickErr, State.die_onDie]

theorem State.kickErr_latch (s : State) (q p : BitVec 20) : (s.kickErr q).latch p = s.latch p := State.latch_onDie rfl p

/-- A kick that does not fit leaves BADKICK set and is counted. -/
theorem State.badKick_latch (s : State) (q : BitVec 20) :
    ((s.onLatch q fun e => { e with badkick := true }).kickErr q).latch q = { s.latch q with badkick := true } := by
  rw [State.kickErr_latch, State.latch_onLatch, if_pos rfl]

theorem State.badKick_counts (s : State) (q : BitVec 20) :
    (((s.onLatch q fun e => { e with badkick := true }).kickErr q).die (homeDie q)).feKickerr = (s.die (homeDie q)).feKickerr + 1 :=
  (State.kickErr_counts ..).trans (congrArg (· + 1) (State.onDie_keeps Die.feKickerr rfl _))

section Kicked
variable (s : State) (q : BitVec 20) (w : Dword)

theorem State.kicked_latch : (s.kicked q w).latch q = { s.latch q with lseq := kickSeq w, attn := (s.latch q).attn || !(s.latch q).mapped } := by
  rw [State.kicked, State.raise_latch, if_pos rfl, State.latch_onLatch, if_pos rfl]

/-- Whether a hart holds the queue does not change with LSEQ. -/
theorem State.lseq_mapped : ((s.onLatch q fun e => { e with lseq := kickSeq w }).latch q).mapped = (s.latch q).mapped := by
  rw [State.latch_onLatch, if_pos rfl]

theorem State.part_kicked {α : Type} {p : Die → α} (hl : ∀ x t, p { x with latch := t } = p x) (ha : ∀ x l, p { x with attn := l } = p x) :
    (s.kicked q w).part p = s.part p :=
  (State.part_raise hl ha _ q).trans (State.part_onDie p s (fun x => hl x _) _)

variable {s q}

theorem State.kicked_attn (h : (s.latch q).mapped = false) : localIx q ∈ ((s.kicked q w).die (homeDie q)).attn :=
  State.raise_attn ((s.lseq_mapped q w).trans h)

theorem State.kicked_attn_mapped (h : (s.latch q).mapped = true) : ((s.kicked q w).die (homeDie q)).attn = (s.die (homeDie q)).attn := by
  rw [State.kicked, State.raise_mapped ((s.lseq_mapped q w).trans h)]
  exact State.onDie_keeps Die.attn rfl _

end Kicked

/-! ### The claims -/

/-- Settles O46: the branches of the kick by its words; in the one that advances LSEQ, attention before the wake. -/
theorem kickUpdatesLatch : Obligations.KickUpdatesLatch := by
  intro s q single w e n home formed fits counted
  refine ⟨fun hr => congrArg Host.Outcome.next (State.kick_recovery hr), fun hr => ⟨fun hf hfit ha => ?_, fun hf hfit ha => ?_, fun hf hfit => ?_,
    fun hf => ?_, fun hs => ?_⟩⟩
  · have woken := fun {α : Type} (p : Die → α) (h : ∀ x t w, p { x with islands := t, waking := w } = p x) =>
      congrFun (State.part_startWake h (s.kicked q w) home) home
    have kept := fun {α : Type} (p : Die → α) (hl : ∀ x t, p { x with latch := t } = p x) (ha : ∀ x l, p { x with attn := l } = p x) =>
      congrFun (s.part_kicked q w hl ha) home
    have hattn := woken Die.attn fun _ _ _ => rfl
    have hwaking := kept Die.waking (fun _ _ => rfl) (fun _ _ => rfl)
    have hgated := kept Die.gated (fun _ _ => rfl) (fun _ _ => rfl)
    refine ⟨_, congrArg Host.Outcome.next (State.kick_advances hr hf hfit ha), ?_, fun hm => ?_, fun hm => ?_, ?_, ?_⟩
    · rw [State.startWake_latch, State.kicked_latch]
      rfl
    · exact (congrArg (localIx q ∈ ·) hattn).mpr (State.kicked_attn w hm)
    · exact hattn.trans (State.kicked_attn_mapped w hm)
    · exact (State.startWake_waking ..).trans (congrArg₂ _ hwaking hgated)
    · exact (woken Die.feKickerr fun _ _ _ => rfl).trans (kept Die.feKickerr (fun _ _ => rfl) (fun _ _ => rfl))
  · exact congrArg Host.Outcome.next (State.kick_old hr hf hfit ha)
  · exact ⟨_, congrArg Host.Outcome.next (State.kick_unfit hr hf hfit), s.badKick_latch q, s.badKick_counts q⟩
  · exact ⟨_, congrArg Host.Outcome.next (State.kick_malformed hr hf), s.kickErr_latch q q, s.kickErr_counts q⟩
  · refine ⟨s.kickErr q, congrArg Host.Outcome.next ?_, s.kickErr_latch q q, s.kickErr_counts q⟩
    exact (if_neg (Bool.eq_false_iff.1 hr)).trans (if_pos (by rw [hs, Bool.not_false]))

/-- Settles O47: an acknowledgement is one update of its queue's latch entry, of CACK or of BADKICK. -/
theorem acknowledgementMovesCack : Obligations.AcknowledgementMovesCack := by
  intro s q w e v
  have hgo (hr : s.recovery = false) : s.ack q true w = if seqDist v e.cack ≤ seqDist e.cpost e.cack then s.onLatch q fun e => { e with cack := v }
      else s.onLatch q fun e => { e with badkick := true } := (if_neg (Bool.eq_false_iff.1 hr)).trans (if_neg (by decide))
  refine ⟨fun hr => congrArg Host.Outcome.next (if_pos hr),
    fun hr h => ⟨_, congrArg Host.Outcome.next ((hgo hr).trans (if_pos h)), ?_, fun p hp => ?_⟩,
    fun hr h => ⟨_, congrArg Host.Outcome.next ((hgo hr).trans (if_neg (Nat.not_le.2 h))), ?_, fun p hp => ?_⟩⟩
  · rw [State.latch_onLatch, if_pos rfl]
  · rw [State.latch_onLatch, if_neg hp.symm]
  · rw [State.latch_onLatch, if_pos rfl]
  · rw [State.latch_onLatch, if_neg hp.symm]

end Sys2Proof.Machine

/-! PROOFS. FWAIT: the first of its events that holds, and what each leaves of the die and of the hart (04 R161). -/

namespace Sys2Proof.Machine

/-! ### What taking a report leaves (04 R161) -/

theorem State.freeNamed_die {α : Type} {p : Die → α} (h : ∀ x l, p { x with launches := l } = p x) (s : State) (d : Fin 4) :
    (s.freeNamed d).part p = s.part p :=
  State.part_foldl p _ _ (fun _ _ => State.part_onDie p _ (fun x => h x _) _) _

theorem State.freeNamed_rest {α : Type} {q : State → α} (h : ∀ t x, q { t with dies := x } = q t) (s : State) (d : Fin 4) :
    q (s.freeNamed d) = q s :=
  foldl_keeps q _ (fun _ _ => h _ _) _ _

/-- The report that FWAIT returns leaves its die's list, and nothing but launches changes with it. -/
theorem State.takeReport_die {α : Type} {p : Die → α} (h : ∀ x l, p { x with launches := l } = p x) (s : State) (d : Fin 4) (r : Report) :
    (s.takeReport d r).part p = (s.onDie d fun x => { x with reports := x.reports.erase r }).part p := by
  unfold State.takeReport
  dsimp only
  split
  · exact (State.freeNamed_die h _ _).trans (State.part_onLaunch p _ fun x k => h x _)
  · rfl

theorem State.takeReport_rest {α : Type} {q : State → α} (h : ∀ t x, q { t with dies := x } = q t) (s : State) (d : Fin 4) (r : Report) :
    q (s.takeReport d r) = q s := by
  unfold State.takeReport
  dsimp only
  split
  · exact (State.freeNamed_rest h _ _).trans ((h _ _).trans (h _ _))
  · exact h _ _

theorem State.takeReport_reports (s : State) (d : Fin 4) (r : Report) : ((s.takeReport d r).die d).reports = (s.die d).reports.erase r :=
  (congrFun (State.takeReport_die (p := Die.reports) (fun _ _ => rfl) s d r) d).trans (congrArg Die.reports (State.die_onDie ..))

theorem State.takeReport_me (s : State) (r : Report) : (s.takeReport s.focus.ring.die r).me = s.me := by
  have hfocus := s.takeReport_rest (q := State.focus) (fun _ _ => rfl) s.focus.ring.die r
  have hharts := (congrFun (State.takeReport_die (p := Die.harts) (fun _ _ => rfl) s s.focus.ring.die r) s.focus.ring.die).trans
    (State.onDie_keeps Die.harts rfl _)
  simp only [State.part] at hharts
  rw [State.me, State.hart, hfocus, hharts]
  rfl

/-! ### A hart that holds a queue -/

/-- The hart after the event of its watch: MET is set, and the watch and the vigil timer are disarmed. -/
def Hart.meetWatch (h : Hart) : Hart := { h.disarm with arm := false, met := true, watchHit := false }

section Mapped
variable {s : State} {rd : BitVec 5}

theorem State.fwaitMapped_fault {i : Nat} {f : FbEntry}
    (hf : (s.die s.focus.ring.die).oldestFault (FbEntry.owes s.me.qid) = some (i, f)) :
    s.fwaitMapped rd = (s.onDie s.focus.ring.die (Die.delivered i (FbEntry.take s.me.qid))).retireF rd (fevent 6 i 0) := by
  simp only [State.fwaitMapped, hf]

variable (hf : (s.die s.focus.ring.die).oldestFault (FbEntry.owes s.me.qid) = none)
include hf

theorem State.fwaitMapped_report {r : Report} (hr : ((s.die s.focus.ring.die).reports.find? fun r => r.qid == s.me.qid) = some r) :
    s.fwaitMapped rd = (s.takeReport s.focus.ring.die r).retireF rd (fevent 4 r.launch.toNat r.status.toNat) := by
  simp only [State.fwaitMapped, hf, hr]

variable (hr : ((s.die s.focus.ring.die).reports.find? fun r => r.qid == s.me.qid) = none)
include hr

/-- With no fault and no report: the watch, the next packet, the timer, or the hart blocks. -/
theorem State.fwaitMapped_rest :
    s.fwaitMapped rd =
      (let e := s.latch s.me.qid
       if s.me.arm = true ∧ s.me.watchHit = true then (s.onMe Hart.meetWatch).retireF rd (fevent 1 0 0)
       else if s.me.arm = false ∧ e.stop = false ∧ seqAfter e.lseq e.taken = true then
         (s.onMe Hart.disarm).retireF rd ((e.taken + 1).toNat % 2 ^ e.rsize.toNat)
       else if s.me.vigilExpired = true ∧ (s.die s.focus.ring.die).feRunq ≠ 0 then s.retireF rd (fevent 2 0 0)
       else s.blockF (.fwait rd)) := by
  simp only [State.fwaitMapped, hf, hr, Bool.not_eq_eq_eq_not, Bool.not_true]
  rfl

end Mapped

/-- A change of the hart in focus that leaves its pc and registers lets its instruction retire. -/
theorem retires_onMe {s : State} {f : Hart → Hart} (hpc : ∀ y, (f y).pc = y.pc) (hx : ∀ y, (f y).x = y.x) (rd : BitVec 5) (v : Nat) :
    Retires s ((s.onMe f).retireF rd v) rd v :=
  retires_retireF (State.onHart_keeps Hart.pc hpc ..) (State.onHart_keeps Hart.x hx ..) rfl rfl rd v

/-- A part of the hart in focus that retiring leaves is as the change left it. -/
theorem State.retireF_onMe {α : Type} (p : Hart → α) (hp : ∀ y x, p (Hart.advance 4 { y with x := x }) = p y) (s : State) (f : Hart → Hart)
    (rd : BitVec 5) (v : Nat) : p ((s.onMe f).retireF rd v).me = p (f s.me) := by
  rw [State.me_retireF, Hart.retire_keeps p hp]
  exact congrArg p (State.hart_onHart ..)

/-- A change of the die in focus that leaves its harts lets the instruction of the hart in focus retire. -/
theorem retires_onDie {s : State} {f : Die → Die} (h : (f (s.die s.focus.ring.die)).harts = (s.die s.focus.ring.die).harts) (rd : BitVec 5)
    (v : Nat) : Retires s ((s.onDie s.focus.ring.die f).retireF rd v) rd v :=
  retires_retireF (congrArg Hart.pc (State.hart_onDie h ..)) (congrArg Hart.x (State.hart_onDie h ..)) rfl rfl rd v

/-- A part of the dies that does not see the harts stays when an instruction retires. -/
theorem State.retireF_die {α : Type} (p : Die → α) (h : ∀ x l, p { x with harts := l } = p x) (s : State) (rd : BitVec 5) (v : Nat) (d : Fin 4) :
    p ((s.retireF rd v).die d) = p (s.die d) := State.onDie_keeps p (h _ _) d

theorem Die.delivered_harts (i : Nat) (f : FbEntry → FbEntry) (x : Die) : (x.delivered i f).harts = x.harts := by
  unfold Die.delivered
  split <;> rfl

/-! ### FWAIT -/

/-- The die notes the harts that have taken the event of a restart. -/
def Die.noteRestarted (k : Nat) (x : Die) : Die := { x with restarted := if x.restarted.contains k then x.restarted else x.restarted ++ [k] }

theorem Die.mem_noteRestarted (k : Nat) (x : Die) : k ∈ (x.noteRestarted k).restarted := by
  unfold Die.noteRestarted
  dsimp only
  split
  · next h => exact List.contains_iff_mem.1 h
  · exact List.mem_append_right _ (List.mem_singleton.2 rfl)

/-- The die after a hart without a queue has taken the attention of queue `i`, the first of the list. -/
def Die.attended (i : Nat) (rest : List Nat) (x : Die) : Die :=
  { x with attn := rest, latch := tabMod Latch.zero i (fun e => { e with attn := false }) x.latch }

section Fwait
variable {s : State} {rd : BitVec 5}

theorem State.fwait_illegal (h : rd = 0) : s.fwait rd = s.illegal 0x0B := by
  subst h
  rfl

variable (h : rd ≠ 0)
include h

theorem State.fwait_restart (hr : (s.die s.focus.ring.die).feRestart = true) :
    s.fwait rd = (s.onDie s.focus.ring.die (Die.noteRestarted s.focus.hart.val)).retireF rd (fevent 5 0 0) :=
  (if_neg h).trans (if_pos hr)

variable (hr : (s.die s.focus.ring.die).feRestart = false)
include hr

theorem State.fwait_mapped (hm : s.me.mapped = true) : s.fwait rd = s.fwaitMapped rd :=
  (if_neg h).trans ((if_neg (Bool.eq_false_iff.1 hr)).trans (if_pos hm))

variable (hm : s.me.mapped = false)
include hm

theorem State.fwait_attention {i : Nat} {rest : List Nat} (ha : (s.die s.focus.ring.die).attn = i :: rest)
    (hk : (s.die s.focus.ring.die).attends s.focus.hart = true) :
    s.fwait rd = (s.onDie s.focus.ring.die (Die.attended i rest)).retireF rd (fevent 3 (qidOf s.focus.ring.die i).toNat 0) := by
  simp only [State.fwait, h, hr, hm, ha, hk, if_true, if_false, Bool.false_eq_true]
  rfl

theorem State.fwait_blocks (ha : (s.die s.focus.ring.die).attn = [] ∨ (s.die s.focus.ring.die).attends s.focus.hart = false) :
    s.fwait rd = s.blockF (.fwait rd) := by
  simp only [State.fwait, h, hr, hm, if_false, Bool.false_eq_true]
  split
  · next i rest hi =>
    refine if_neg (Bool.eq_false_iff.1 (ha.resolve_left ?_))
    rw [hi]
    exact List.cons_ne_nil _ _
  · rfl

end Fwait

/-- Settles O42: a restart, then the events of the hart's queue, or the attention that a hart without a queue takes. -/
theorem hartsWait : Obligations.HartsWait := by
  intro s rd d x h e gives
  refine ⟨fun h0 => congrArg Host.Outcome.next (State.fwait_illegal h0), fun h0 hr => ?_, fun h0 hr hm => ?_,
    fun h0 hr hm => ⟨fun i rest ha hk => ?_, fun ha => ?_⟩⟩
  · refine ⟨_, congrArg Host.Outcome.next (State.fwait_restart h0 hr), retires_onDie rfl rd _, ?_⟩
    dsimp only
    rw [State.retireF_die Die.restarted (fun _ _ => rfl), State.die_onDie]
    exact Die.mem_noteRestarted _ _
  · have hgo : exec (.fwait rd) s = .next (s.fwaitMapped rd) := congrArg Host.Outcome.next (State.fwait_mapped h0 hr hm)
    refine ⟨fun i f hf => ⟨_, hgo.trans (congrArg Host.Outcome.next (State.fwaitMapped_fault hf)), ?_, ?_⟩,
      fun hf => ⟨fun r hrep => ⟨_, hgo.trans (congrArg Host.Outcome.next (State.fwaitMapped_report hf hrep)), ?_, ?_⟩, fun hnone => ?_⟩⟩
    · exact retires_onDie (Die.delivered_harts ..) rd _
    · exact (State.retireF_die Die.fbuf (fun _ _ => rfl) ..).trans (congrArg Die.fbuf (State.die_onDie ..))
    · exact retires_retireF (congrArg Hart.pc (s.takeReport_me r)) (congrArg Hart.x (s.takeReport_me r)) (State.takeReport_rest (fun _ _ => rfl) ..)
        (State.takeReport_rest (fun _ _ => rfl) ..) rd _
    · exact (State.retireF_die Die.reports (fun _ _ => rfl) ..).trans (s.takeReport_reports d r)
    have heq := hgo.trans (congrArg Host.Outcome.next (State.fwaitMapped_rest hf hnone))
    refine ⟨fun ha hw => ?_, fun ha hstop hseq => ?_, fun hnowatch hnopacket => ?_⟩
    · refine ⟨_, heq.trans (congrArg Host.Outcome.next (if_pos ⟨ha, hw⟩)),
        retires_onMe (f := Hart.meetWatch) (fun _ => rfl) (fun _ => rfl) rd _, ?_⟩
      have hparts := State.retireF_onMe (fun y => (y.arm, y.met, y.vigilArmed)) (fun _ _ => rfl) s Hart.meetWatch rd (fevent 1 0 0)
      simp only [Prod.mk.injEq] at hparts
      exact hparts
    · have hnot : ¬(h.arm = true ∧ h.watchHit = true) := fun hn => absurd (ha.symm.trans hn.1) (by decide)
      exact ⟨_, heq.trans (congrArg Host.Outcome.next ((if_neg hnot).trans (if_pos ⟨ha, hstop, hseq⟩))),
        retires_onMe (f := Hart.disarm) (fun _ => rfl) (fun _ => rfl) rd _, State.retireF_onMe Hart.vigilArmed (fun _ _ => rfl) ..⟩
    · have hlast := heq.trans (congrArg Host.Outcome.next ((if_neg hnowatch).trans (if_neg hnopacket)))
      refine ⟨fun hv hq => ⟨_, hlast.trans (congrArg Host.Outcome.next (if_pos ⟨hv, hq⟩)), retires_self s rd _, trivial⟩,
        fun hidle => hlast.trans (congrArg Host.Outcome.next (if_neg ?_))⟩
      rintro ⟨hv, hq⟩
      exact hidle.elim (fun hn => absurd (hn.symm.trans hv) (by decide)) hq
  · refine ⟨_, congrArg Host.Outcome.next (State.fwait_attention h0 hr hm ha hk), retires_onDie rfl rd _, ?_, ?_⟩
    · rw [State.retireF_die Die.attn (fun _ _ => rfl), State.die_onDie]
      rfl
    · rw [State.retireF_die Die.latch (fun _ _ => rfl), State.die_onDie, Die.attended, tabGet_tabMod]
  · exact congrArg Host.Outcome.next (State.fwait_blocks h0 hr hm ha)

end Sys2Proof.Machine

/-! PROOFS. A packet's completion record: its words, its place in the completion ring, and what keeps it back (04 R136, R150, R154, R164). -/

namespace Sys2Proof.Machine

/-! ### The table of queues -/

theorem State.queue_onQueue (s : State) (q : BitVec 20) (f : Queue → Queue) : (s.onQueue q f).queue q = (s.queue q).map f := by
  simp only [State.queue, State.onQueue, State.die_onDie, tabFind_tabMap, if_true]

theorem State.queue_onLatch (s : State) (q p : BitVec 20) (f : Latch → Latch) : (s.onLatch q f).queue p = s.queue p := by
  simp only [State.queue, State.onLatch, State.onDie_keeps Die.queues]

theorem State.queue_of_dies {s t : State} (h : t.dies = s.dies) (q : BitVec 20) : t.queue q = s.queue q := by
  simp only [State.queue, State.die, h]

theorem State.latch_onQueue (s : State) (q p : BitVec 20) (f : Queue → Queue) : (s.onQueue q f).latch p = s.latch p := State.latch_onDie rfl p

/-! ### Path F does not look at the table of queues -/

section PathF
variable {s : State} {d : Fin 4} (ds : Vector Die 4) (h : ds[d].xlts = (s.die d).xlts) (j : BitVec 20)
include h

theorem State.missVa_withDies (va n : Nat) (w : Bool) : State.missVa { s with dies := ds } d j va n w = s.missVa d j va n w := by
  unfold State.missVa Die.xlate
  rw [show (State.die { s with dies := ds } d).xlts = _ from h]

theorem State.locOf_withDies (va : Nat) (w : Bool) : State.locOf { s with dies := ds } d j va w = s.locOf d j va w := by
  unfold State.locOf Die.xlate
  rw [show (State.die { s with dies := ds } d).xlts = _ from h]
  rfl

theorem State.vaIn_withDies (va n : Nat) (w m : Bool) : State.vaIn { s with dies := ds } d j va n w m = s.vaIn d j va n w m := by
  simp only [State.vaIn, State.locOf_withDies ds h]

theorem State.vaWrite_withDies (k : Key) (va : Nat) (bs : List Byte) :
    State.vaWrite { s with dies := ds } d j k va bs = { s.vaWrite d j k va bs with dies := ds } := by
  induction bs generalizing s va with
  | nil => rfl
  | cons b bs ih =>
    rw [State.vaWrite, State.vaWrite, State.locOf_withDies ds h]
    cases s.locOf d j va true with
    | none => exact ih h _
    | some l =>
      have hput : State.locPut { s with dies := ds } k l b = { s.locPut k l b with dies := ds } := by cases l <;> rfl
      rw [Option.map_some, Option.map_some, Option.getD_some, Option.getD_some, hput]
      exact ih (h.trans (congrArg (fun x : Vector Die 4 => x[d].xlts) (State.dies_locPut s k l b).symm)) _

theorem State.fWrite_withDies (va : Nat) (bs : List Byte) : State.fWrite { s with dies := ds } d j va bs = { s.fWrite d j va bs with dies := ds } := by
  unfold State.fWrite
  rw [show State.fKey { s with dies := ds } = s.fKey from rfl]
  split
  · exact State.vaWrite_withDies ds h ..
  · rw [State.vaIn_withDies ds h]
    split
    · rfl
    · exact State.vaWrite_withDies ds h ..

end PathF

/-! ### A part of a range of HBM -/

theorem State.hbmRead_append (s : State) (k : Key) (a m n : Nat) : s.hbmRead k a (m + n) = s.hbmRead k a m ++ s.hbmRead k (a + m) n := by
  simp only [State.hbmRead, List.range_add, List.map_append, List.map_map, Nat.add_assoc]
  rfl

theorem State.length_hbmRead (s : State) (k : Key) (a n : Nat) : (s.hbmRead k a n).length = n := by
  simp [State.hbmRead]

/-- What was written reads back in part. -/
theorem State.hbmRead_part {s : State} {k : Key} {a : Nat} {x y z : List Byte} (h : Memory.wf s.hbm = true) :
    (s.hbmWrite k a (x ++ (y ++ z))).hbmRead k a x.length = x ∧ (s.hbmWrite k a (x ++ (y ++ z))).hbmRead k (a + x.length) y.length = y := by
  have hall := State.hbmRead_hbmWrite (k := k) (a := a) (x ++ (y ++ z)) h
  rw [List.length_append, List.length_append, State.hbmRead_append, State.hbmRead_append] at hall
  obtain ⟨hx, hyz⟩ := List.append_inj hall (State.length_hbmRead ..)
  exact ⟨hx, (List.append_inj hyz (State.length_hbmRead ..)).1⟩

/-! ### The bytes of a record (04 R150) -/

/-- The bytes of a record whose CSEQ is `c`. -/
def recordBytes (r : Vector Dword 8) (c : BitVec 16) : List Byte :=
  (r.set 0 (.ofNat 64 (r[0].toNat % 2 ^ 48 + c.toNat * 2 ^ 48))).toList.flatMap fun w => natBytes 8 w.toNat

/-- The record of a packet that completes. -/
def OpenPkt.record (p : OpenPkt) (status value : Nat) (qid pasid : BitVec 20) : Vector Dword 8 :=
  completionRec 0 p.type.toNat status p.seq.toNat value qid.toNat pasid.toNat 0

/-- The first word of such a record. -/
def OpenPkt.word (p : OpenPkt) (status : Nat) (c : BitVec 16) : Nat :=
  status % 2 ^ 16 + p.type.toNat * 2 ^ 24 + p.seq.toNat * 2 ^ 32 + c.toNat * 2 ^ 48

section Record
variable (p : OpenPkt) (status value : Nat) (qid pasid : BitVec 20) (c : BitVec 16)

theorem OpenPkt.word_lt : p.word status c < 2 ^ 64 := by
  have h1 := p.type.isLt
  have h2 := p.seq.isLt
  have h3 := c.isLt
  unfold OpenPkt.word
  omega

theorem OpenPkt.record_word :
    BitVec.ofNat 64 ((p.record status value qid pasid)[0].toNat % 2 ^ 48 + c.toNat * 2 ^ 48) = .ofNat 64 (p.word status c) := by
  have hfirst : (p.record status value qid pasid)[0] =
      .ofNat 64 (p.seq.toNat % 65536 * 2 ^ 32 + p.type.toNat % 256 * 2 ^ 24 + 0 % 256 * 2 ^ 16 + status % 65536) := rfl
  have h1 := p.type.isLt
  have h2 := p.seq.isLt
  rw [hfirst, BitVec.toNat_ofNat]
  unfold OpenPkt.word
  congr 1
  omega

/-- A record begins with its first word and VALUE, and 48 bytes follow. -/
theorem OpenPkt.record_bytes :
    ∃ tail, tail.length = 48 ∧
      recordBytes (p.record status value qid pasid) c = natBytes 8 (p.word status c) ++ (natBytes 8 (value % 2 ^ 64) ++ tail) := by
  have hword := p.record_word status value qid pasid c
  have hw : (BitVec.ofNat 64 (p.word status c)).toNat = p.word status c := (BitVec.toNat_ofNat ..).trans (Nat.mod_eq_of_lt (p.word_lt status c))
  have hlist (x : Dword) : ((p.record status value qid pasid).set 0 x).toList =
      x :: .ofNat 64 value :: (p.record status value qid pasid).toList.drop 2 := rfl
  refine ⟨((p.record status value qid pasid).toList.drop 2).flatMap fun w => natBytes 8 w.toNat, ?_, ?_⟩
  · simp [List.length_flatMap]
  · rw [recordBytes, hword, hlist, List.flatMap_cons, List.flatMap_cons, hw, BitVec.toNat_ofNat]

end Record

/-! ### A queue with one record to post (04 R164) -/

/-- Where the next record of a queue goes. -/
def Latch.recordPlace (e : Latch) (q : Queue) : Nat := q.cbase.toNat + 64 * ((e.cpost + 1).toNat % 2 ^ e.csize.toNat)

/-- The completion ring has room for a record. -/
abbrev Latch.HasRoom (e : Latch) : Prop := seqDist e.cpost e.cack < 2 ^ e.csize.toNat

theorem State.fBlock_eq_none {s : State} {d : Fin 4} {j : BitVec 20} {va n : Nat} {w : Bool} {h : Option (Fin 64)} :
    s.fBlock d j va n w h = none ↔ badVa va n = none ∧ s.missVa d j va n w = none := by
  unfold State.fBlock
  split
  · next a ha => simp [ha]
  · next ha => simp [ha]

theorem State.fBlock_miss {s : State} {d : Fin 4} {j : BitVec 20} {va n m : Nat} {w : Bool} {h : Option (Fin 64)} (hbad : badVa va n = none)
    (hmiss : s.missVa d j va n w = some m) : s.fBlock d j va n w h = some (fWalk s d j m w h none) := by
  unfold State.fBlock
  rw [hbad, hmiss]
  rfl

/-- CPOST of a queue's latch entry after a record is posted. -/
def State.advancePost (s : State) (qid : BitVec 20) (c : BitVec 16) : State := s.onLatch qid fun l => { l with cpost := c }

section Post
variable {s : State} {qid : BitVec 20} {q : Queue} {r : Vector Dword 8} {e : Latch} (he : s.latch qid = e)
include he

theorem State.postHead_full (h : ¬e.HasRoom) : s.postHead qid q r = none := by
  subst he
  exact if_pos (Nat.not_lt.1 h)

section Room
variable (h : e.HasRoom)
include h

theorem State.postHead_boot (hb : q.boot (localIx qid) = true) :
    s.postHead qid q r = some ((s.hbmWrite s.devKey (e.recordPlace q) (recordBytes r (e.cpost + 1))).advancePost qid (e.cpost + 1)) := by
  subst he
  exact (if_neg (Nat.not_le.2 h)).trans (if_pos hb)

variable (hb : q.boot (localIx qid) = false)
include hb

/-- On any other queue the record is written under the queue's PASID, once its page can be. -/
theorem State.postHead_virtual :
    s.postHead qid q r =
      if (s.fBlock (homeDie qid) q.pasid (e.recordPlace q) 64 true none).isSome = true then none
      else some ((s.fWrite (homeDie qid) q.pasid (e.recordPlace q) (recordBytes r (e.cpost + 1))).advancePost qid (e.cpost + 1)) := by
  subst he
  exact (if_neg (Nat.not_le.2 h)).trans (if_neg (Bool.eq_false_iff.1 hb))

end Room

variable (hq : s.queue qid = some q)
include hq

omit he in
theorem State.flush_empty (ho : q.outbox = []) (n : Nat) : State.flush n s qid = s := by
  cases n with
  | zero => rfl
  | succ n =>
    rw [State.flush.eq_def]
    simp only [hq, ho]

variable (ho : q.outbox = [r])
include ho

omit he in
/-- The record is posted, and the queue has no other. -/
theorem State.flush_posts {t : State} (hp : s.postHead qid q r = some t) (ht : t.queue qid = some q) (n : Nat) :
    State.flush (n + 1) s qid = t.onQueue qid fun x => { x with outbox := [] } := by
  rw [State.flush.eq_def]
  simp only [hq, ho, hp]
  exact State.flush_empty ((State.queue_onQueue ..).trans (congrArg _ ht)) rfl n

/-- The record waits: for room in the ring, or for its page, which takes a walker. -/
theorem State.flush_waits (hp : s.postHead qid q r = none) (n : Nat) :
    State.flush (n + 1) s qid =
      if e.HasRoom ∧ q.boot (localIx qid) = false then (s.fBlock (homeDie qid) q.pasid (e.recordPlace q) 64 true none).getD s else s := by
  subst he
  rw [State.flush.eq_def]
  simp only [hq, ho, hp, Bool.not_eq_eq_eq_not, Bool.not_true]
  rfl

end Post

theorem Die.walk_keeps {α : Type} {p : Die → α} (h : ∀ x w f, p { x with walks := w, quietFails := f } = p x) (x : Die) (fc : Nat) (j : BitVec 20)
    (v : Nat) (w : Bool) (u : Waiter) : p (x.walk fc j v w u) = p x := by
  unfold Die.walk
  split
  · exact h x _ _
  · dsimp only
    split
    · exact h x _ _
    · exact h x _ _

/-- A walk for the front end changes the walks of its die alone. -/
theorem fWalk_keeps {α : Type} {p : Die → α} (h : ∀ x w f, p { x with walks := w, quietFails := f } = p x) (s : State) (d : Fin 4) (j : BitVec 20)
    (va : Nat) (w : Bool) (k : Option (Fin 64)) (q : Option (BitVec 20 × BitVec 16)) (e : Fin 4) : p ((fWalk s d j va w k q).die e) = p (s.die e) :=
  State.onDie_keeps p (Die.walk_keeps h ..) e

/-! ### A packet that completes (04 R150, R154) -/

/-- A queue of which packet `p` is open no more. -/
def Queue.close (p : OpenPkt) (q : Queue) : Queue := { q with opens := q.opens.filter fun o => o.seq != p.seq }

/-- The queue that has formed the record of the packet. -/
def Queue.formRecord (p : OpenPkt) (status value : Nat) (qid : BitVec 20) (q : Queue) : Queue :=
  { q with outbox := q.outbox ++ [p.record status value qid q.pasid] }

/-- The state in which the packet is closed and its record is formed. -/
def State.recording (s : State) (qid : BitVec 20) (p : OpenPkt) (status value : Nat) : State :=
  (s.onQueue qid (Queue.close p)).onQueue qid (Queue.formRecord p status value qid)

section Recording
variable (s : State) (qid : BitVec 20) (p : OpenPkt) (status value : Nat)

theorem State.recording_latch (k : BitVec 20) : (s.recording qid p status value).latch k = s.latch k :=
  (State.latch_onQueue ..).trans (State.latch_onQueue ..)

theorem State.recording_queue : (s.recording qid p status value).queue qid = (s.queue qid).map fun q => (q.close p).formRecord p status value qid := by
  rw [State.recording, State.queue_onQueue, State.queue_onQueue, Option.map_map]
  rfl

theorem State.recording_xlts (d : Fin 4) : ((s.recording qid p status value).die d).xlts = (s.die d).xlts :=
  (State.onDie_keeps Die.xlts rfl d).trans (State.onDie_keeps Die.xlts rfl d)

/-- Path F reaches from there what it reached before. -/
theorem State.recording_missVa (d : Fin 4) (j : BitVec 20) (va n : Nat) (w : Bool) :
    (s.recording qid p status value).missVa d j va n w = s.missVa d j va n w :=
  State.missVa_withDies (s := s) (s.recording qid p status value).dies (s.recording_xlts qid p status value d) j va n w

theorem State.recording_fWrite (d : Fin 4) (j : BitVec 20) (va : Nat) (bs : List Byte) :
    let t := (s.recording qid p status value).fWrite d j va bs
    t.hbm = (s.fWrite d j va bs).hbm ∧ t.hostMem = (s.fWrite d j va bs).hostMem ∧ t.dies = (s.recording qid p status value).dies := by
  have h : (s.recording qid p status value).fWrite d j va bs = { s.fWrite d j va bs with dies := (s.recording qid p status value).dies } :=
    State.fWrite_withDies (s := s) _ (s.recording_xlts qid p status value d) j va bs
  dsimp only
  rw [h]
  exact ⟨rfl, rfl, rfl⟩

end Recording

section Finish
variable {s : State} {qid : BitVec 20} {q : Queue} {p : OpenPkt} {status value : Nat} {always : Bool} (hq : s.queue qid = some q)
  (hp : (q.opens.find? fun o => o.seq == p.seq) = some p)
include hq hp

theorem State.finish_silent (h : (p.cmpl || always) = false) : s.finish qid p.seq status value always = s.onQueue qid (Queue.close p) := by
  simp only [State.finish, hq, hp, h, Bool.false_eq_true, if_false]
  rfl

variable (h : (p.cmpl || always) = true)
include h

theorem State.finish_records : s.finish qid p.seq status value always = State.flush 64 (s.recording qid p status value) qid := by
  simp only [State.finish, hq, hp, h, if_true]
  rfl

variable (ho : q.outbox = [])
include ho

/-- The record is posted at once. -/
theorem State.finish_posts {t : State}
    (hh : (s.recording qid p status value).postHead qid ((q.close p).formRecord p status value qid) (p.record status value qid q.pasid) = some t)
    (ht : t.queue qid = (s.recording qid p status value).queue qid) :
    s.finish qid p.seq status value always = t.onQueue qid fun x => { x with outbox := [] } := by
  have hy := (s.recording_queue qid p status value).trans (congrArg _ hq)
  rw [State.finish_records hq hp h]
  exact State.flush_posts hy (congrArg (· ++ [_]) ho) hh (ht.trans hy) 63

/-- The record waits, and its page takes a walker while the ring has room. -/
theorem State.finish_waits
    (hh : (s.recording qid p status value).postHead qid ((q.close p).formRecord p status value qid) (p.record status value qid q.pasid) = none) :
    s.finish qid p.seq status value always =
      if (s.latch qid).HasRoom ∧ q.boot (localIx qid) = false then
        ((s.recording qid p status value).fBlock (homeDie qid) q.pasid ((s.latch qid).recordPlace q) 64 true none).getD (s.recording qid p status value)
      else s.recording qid p status value := by
  have hy := (s.recording_queue qid p status value).trans (congrArg _ hq)
  rw [State.finish_records hq hp h]
  exact State.flush_waits (s.recording_latch ..) hy (congrArg (· ++ [_]) ho) hh 63

end Finish

/-- What a queue's entry and its table hold once its record is posted. -/
theorem State.posted_latch {v : State} (qid : BitVec 20) (c : BitVec 16) (f : Queue → Queue) :
    (((v.advancePost qid c).onQueue qid f).latch qid).cpost = c := by
  rw [State.latch_onQueue, State.advancePost, State.latch_onLatch, if_pos rfl]

theorem State.posted_queue {v u : State} (hv : v.dies = u.dies) (qid : BitVec 20) (c : BitVec 16) : (v.advancePost qid c).queue qid = u.queue qid :=
  (State.queue_onLatch ..).trans (State.queue_of_dies hv qid)

theorem State.posted_hbmRead (v : State) (qid : BitVec 20) (c : BitVec 16) (f : Queue → Queue) (k : Key) (a n : Nat) :
    ((v.advancePost qid c).onQueue qid f).hbmRead k a n = v.hbmRead k a n := rfl

/-- A state in which the record waits: CPOST and memory as before, and the record in the outbox of its queue. -/
def State.RecordWaits (s t : State) (qid : BitVec 20) : Prop :=
  (t.latch qid).cpost = (s.latch qid).cpost ∧ t.hbm = s.hbm ∧ ∃ y r, t.queue qid = some y ∧ y.outbox = [r]

theorem State.recording_waits {s : State} {qid : BitVec 20} {q : Queue} (hq : s.queue qid = some q) (ho : q.outbox = []) (p : OpenPkt)
    (status value : Nat) : s.RecordWaits (s.recording qid p status value) qid :=
  ⟨congrArg Latch.cpost (s.recording_latch ..), rfl, _, _, (s.recording_queue qid p status value).trans (congrArg _ hq), congrArg (· ++ [_]) ho⟩

/-- A walk for the front end changes neither the latch nor the table of queues. -/
theorem State.RecordWaits.walk {s t : State} {qid : BitVec 20} (h : s.RecordWaits t qid) (d : Fin 4) (j : BitVec 20) (va : Nat) (w : Bool)
    (k : Option (Fin 64)) (o : Option (BitVec 20 × BitVec 16)) : s.RecordWaits (fWalk t d j va w k o) qid := by
  obtain ⟨hcpost, hhbm, y, r, hy, hr⟩ := h
  refine ⟨?_, hhbm, y, r, ?_, hr⟩
  · rw [← hcpost]
    exact congrArg (fun l => (tabGet Latch.zero (localIx qid) l).cpost) (fWalk_keeps (p := Die.latch) (fun _ _ _ => rfl) ..)
  · rw [← hy]
    exact congrArg (tabFind (localIx qid)) (fWalk_keeps (p := Die.queues) (fun _ _ _ => rfl) ..)

/-- Settles O31: the record is formed in the outbox; then it is written with the next CSEQ, or it waits there. -/
theorem completionRecords : Obligations.CompletionRecords := by
  intro s qid q p status value always e t c a word boot post room hq hp ho hwf
  let u := s.recording qid p status value
  let r := p.record status value qid q.pasid
  have hl : u.latch qid = e := s.recording_latch ..
  obtain ⟨tail, htail, hbytes⟩ := p.record_bytes status value qid q.pasid c
  have hword : bytesNat (natBytes 8 (p.word status c)) = word := (bytesNat_natBytes ..).trans (Nat.mod_eq_of_lt (p.word_lt status c))
  have hvalue : bytesNat (natBytes 8 (value % 2 ^ 64)) = value % 2 ^ 64 := by
    rw [bytesNat_natBytes]
    omega
  have hfull (hpost : post = true) (hno : ¬room) : s.RecordWaits t qid := by
    have ht : t = u := (State.finish_waits hq hp hpost ho (State.postHead_full hl hno)).trans (if_neg fun h => hno h.1)
    rw [ht]
    exact State.recording_waits hq ho p status value
  refine ⟨fun hboot hpost hroom => ?_, fun hboot hpost hroom hfree => ?_, fun hpost hno => hfull hpost (Nat.not_lt.2 hno),
    fun hboot hpost hmiss hbad => ?_, fun hpost => ?_⟩
  · obtain ⟨hfirst, hsecond⟩ := State.hbmRead_part (s := u) (k := s.devKey) (a := a) (x := natBytes 8 (p.word status c))
      (y := natBytes 8 (value % 2 ^ 64)) (z := tail) hwf
    rw [← hbytes, length_natBytes] at hfirst hsecond
    rw [length_natBytes] at hsecond
    have hdies := State.hbmWrite_dies u s.devKey a (recordBytes r c)
    have hhead : u.postHead qid ((q.close p).formRecord p status value qid) r = some ((u.hbmWrite s.devKey a (recordBytes r c)).advancePost qid c) :=
      State.postHead_boot hl hroom hboot
    generalize u.hbmWrite s.devKey a (recordBytes r c) = v at hfirst hsecond hdies hhead
    have ht : t = _ := State.finish_posts hq hp hpost ho hhead (State.posted_queue hdies qid c)
    rw [ht, State.posted_hbmRead, State.posted_hbmRead, hfirst, hsecond]
    exact ⟨State.posted_latch .., hword, hvalue⟩
  · obtain ⟨hbad, hmiss⟩ := State.fBlock_eq_none.1 hfree
    have hu : u.fBlock (homeDie qid) q.pasid a 64 true none = none := State.fBlock_eq_none.2 ⟨hbad, (s.recording_missVa ..).trans hmiss⟩
    obtain ⟨hhbm, hhost, hdies⟩ := s.recording_fWrite qid p status value (homeDie qid) q.pasid a (recordBytes r c)
    have hhead : u.postHead qid ((q.close p).formRecord p status value qid) r =
        some ((u.fWrite (homeDie qid) q.pasid a (recordBytes r c)).advancePost qid c) :=
      (State.postHead_virtual hl hroom hboot).trans (if_neg (Bool.eq_false_iff.1 (congrArg Option.isSome hu)))
    generalize u.fWrite (homeDie qid) q.pasid a (recordBytes r c) = v at hhbm hhost hdies hhead
    have ht : t = _ := State.finish_posts hq hp hpost ho hhead (State.posted_queue hdies qid c)
    refine ⟨recordBytes r c, ?_, ?_, ?_, ?_, (congrArg State.hbm ht).trans hhbm, (congrArg State.hostMem ht).trans hhost⟩
    · rw [hbytes]
      simp [htail]
    · rw [hbytes, List.take_left' (length_natBytes ..), hword]
    · rw [hbytes, List.drop_left' (length_natBytes ..), List.take_left' (length_natBytes ..), hvalue]
    · rw [ht, State.posted_latch]
  · by_cases hroom : room
    · obtain ⟨m, hm⟩ := Option.isSome_iff_exists.1 hmiss
      have hwalk := State.fBlock_miss (h := none) hbad ((s.recording_missVa qid p status value (homeDie qid) q.pasid a 64 true).trans hm)
      have hnone := (State.postHead_virtual (r := r) (q := (q.close p).formRecord p status value qid) hl hroom hboot).trans
        (if_pos (congrArg Option.isSome hwalk))
      have ht := (State.finish_waits hq hp hpost ho hnone).trans (if_pos ⟨hroom, hboot⟩)
      have hgo : t = fWalk u (homeDie qid) q.pasid m true none none := ht.trans (congrArg (Option.getD · u) hwalk)
      rw [hgo]
      exact (State.recording_waits hq ho p status value).walk ..
    · exact hfull hpost hroom
  · have ht : t = s.onQueue qid (Queue.close p) := State.finish_silent hq hp hpost
    rw [ht]
    exact ⟨State.latch_onQueue .., rfl, q.close p, (State.queue_onQueue ..).trans (congrArg _ hq), rfl⟩

end Sys2Proof.Machine

/-! PROOFS. Relay packets, and the packets that make and remove contexts and queues (04 R147, R148; 03 R90). -/

namespace Sys2Proof.Machine

/-! ### Relay packets (04 R147) -/

/-- The header of a controller message that a packet sends: MOP, class 6, TINST and CTX (02 R69). -/
def relayHdr (mop : Nat) (ti : BitVec 8) (c : BitVec 6) : Nat := mop * 2 ^ 24 + 6 * 2 ^ 20 + ti.toNat * 2 ^ 12 + c.toNat * 2 ^ 6

theorem relayHdr_fields {mop : Nat} (hm : mop < 256) (ti : BitVec 8) (c : BitVec 6) :
    let x := (BitVec.ofNat 32 (relayHdr mop ti c)).toNat
    bits x 31 24 = mop ∧ bits x 23 20 = 6 ∧ bits x 19 12 = ti.toNat := by
  have h1 := ti.isLt
  have h2 := c.isLt
  simp only [bits, relayHdr, BitVec.toNat_ofNat, Nat.reduceAdd, Nat.reduceSub, Nat.reducePow]
  omega

/-- The message of a relay packet. -/
def State.relayMsg (s : State) (mop : Nat) (h : PktHead) (ti : BitVec 8) (p : Params) (q : Queue) (c : BitVec 6) : Msg :=
  ⟨s.opCtr, .ofNat 32 (relayHdr mop ti c), p, q.pasid, c, .relay s.focus.queue h.seq, none, none, []⟩

section Relay
variable {s : State} {q : Queue} (hq : s.queue s.focus.queue = some q) (mop : Nat) (h : PktHead) (ti : BitVec 8) (p : Params)
include hq

theorem State.relay_sends {c : BitVec 6} (hc : (s.ring (RingAt.ofNum ti.toNat)).ctxOf q.pasid = some c) :
    s.relay mop h ti p = State.onRing { s with opCtr := s.opCtr + 1 } (RingAt.ofNum ti.toNat)
      fun x => { x with procIn := x.procIn ++ [s.relayMsg mop h ti p q c] } := by
  simp only [State.relay, State.here, hq, hc, Option.isNone_some, Bool.false_eq_true, if_false]
  rfl

theorem State.relay_refused (hc : (s.ring (RingAt.ofNum ti.toNat)).ctxOf q.pasid = none) :
    s.relay mop h ti p = s.refusePkt s.focus.queue h.seq (mop + 2) 0x0204 := by
  simp only [State.relay, State.here, hq, hc, Option.isNone_none, if_true]

end Relay

/-- R147. -/
theorem relayPackets : Claim.RelayPackets := by
  intro s h ti p q qid r hq f hf
  have hform : exec f.1 s = .next (s.relay f.2 h ti p) ∧ f.2 < 256 := by
    fin_cases hf <;> exact ⟨rfl, by simp⟩
  obtain ⟨hexec, hmop⟩ := hform
  refine ⟨fun c hc => ?_, fun hc => hexec.trans (congrArg Host.Outcome.next (State.relay_refused hq f.2 h ti p hc))⟩
  obtain ⟨hfmop, hclass, hinst⟩ := relayHdr_fields hmop ti c
  refine ⟨_, s.relayMsg f.2 h ti p q c, hexec.trans (congrArg Host.Outcome.next (State.relay_sends hq f.2 h ti p hc)), ?_, hfmop, hclass,
    hinst, rfl, rfl, rfl, rfl, rfl, rfl, rfl, fun k hk => ?_⟩
  · rw [State.ring_onRing]
    rfl
  · rw [State.ring_onRing_ne hk]
    rfl

/-! ### CTXNEW (04 R148) -/

/-- The areas of a new context lie in the carve-out, and its save area is of whole blocks. -/
def goodArea (rtbase sabase sasize : Dword) (n : Nat) : Prop :=
  inCarve rtbase.toNat n = true ∧ inCarve sabase.toNat sasize.toNat = true ∧ sabase.toNat % 65536 = 0 ∧ sasize.toNat % 65536 = 0

theorem not_goodArea_iff {rtbase sabase sasize : Dword} {n : Nat} :
    ¬goodArea rtbase sabase sasize n ↔
      (!inCarve rtbase.toNat n) = true ∨ (!inCarve sabase.toNat sasize.toNat) = true ∨ sabase.toNat % 65536 ≠ 0 ∨ sasize.toNat % 65536 ≠ 0 := by
  simp only [goodArea, not_and_or, Bool.not_eq_true, Bool.not_eq_eq_eq_not, Bool.not_true, ne_eq]

theorem cellGet_filter_out {p : Host.Cell → Bool} {a : Nat} (h : ∀ b, p (a, b) = false) (m : List Host.Cell) : cellGet a (m.filter p) = 0 := by
  induction m with
  | nil => rfl
  | cons c m ih =>
    obtain ⟨j, b⟩ := c
    rw [List.filter_cons]
    split
    · next hp =>
      have hj : j ≠ a := fun he => absurd (he ▸ hp) (Bool.eq_false_iff.1 (h b))
      rw [cellGet, if_neg hj, ih]
    · exact ih

/-- A sealed area reads zero. -/
theorem State.sealArea_zero (s : State) {a n c : Nat} (h1 : a ≤ c) (h2 : c < a + n) : cellGet c (s.sealArea a n).hbm = 0 :=
  cellGet_filter_out (fun _ => by simp [Nat.not_lt.2 h1, Nat.not_le.2 h2]) _

/-- The state in which a job has its context. -/
def State.withContext (s : State) (pasid : BitVec 20) (rtcnt : BitVec 16) (rtbase sabase sasize : Dword) : State :=
  let t := s.sealArea rtbase.toNat (64 * (rtcnt.toNat + 1))
  { t with jobs := tabPut pasid.toNat ⟨rtbase, rtcnt, sabase, sasize, [], false⟩ t.jobs, dies := t.dies.map (Die.newJob pasid) }

section Ctxnew
variable {s : State} {h : PktHead} {pasid : BitVec 20} {rtcnt : BitVec 16} {rtbase sabase sasize : Dword}

theorem State.ctxnew_badArea (ha : ¬goodArea rtbase sabase sasize (64 * (rtcnt.toNat + 1))) :
    s.ctxnew h pasid rtcnt rtbase sabase sasize = s.refusePkt s.focus.queue h.seq 0x11 0x0204 := if_pos (not_goodArea_iff.1 ha)

variable (ha : goodArea rtbase sabase sasize (64 * (rtcnt.toNat + 1)))
include ha

theorem State.ctxnew_stands (hj : (tabFind pasid.toNat s.jobs).isSome = true) :
    s.ctxnew h pasid rtcnt rtbase sabase sasize = s.refusePkt s.focus.queue h.seq 0x11 0x0208 :=
  (if_neg fun hn => not_goodArea_iff.2 hn ha).trans (if_pos hj)

theorem State.ctxnew_makes (hj : tabFind pasid.toNat s.jobs = none) :
    s.ctxnew h pasid rtcnt rtbase sabase sasize = (s.withContext pasid rtcnt rtbase sabase sasize).finish s.focus.queue h.seq 0 0 false :=
  (if_neg fun hn => not_goodArea_iff.2 hn ha).trans (if_neg (by rw [hj]; decide))

end Ctxnew

/-! ### CTXFREE (04 R148) -/

/-- The job still has packets on other queues, or launches that are open. -/
def State.jobBusy (s : State) (pasid qid : BitVec 20) : Prop :=
  s.otherPackets pasid qid ≠ 0 ∨ ∃ p ∈ s.allLaunches, p.2.pasid = pasid ∧ p.2.device = false ∧ p.2.state ≠ .free ∧ p.2.state ≠ .done

theorem Launch.open_iff {x : Launch} : x.open_ = true ↔ x.state ≠ .free ∧ x.state ≠ .done := by
  simp only [Launch.open_, Bool.and_eq_true, decide_eq_true_eq]

theorem State.jobBusy_iff {s : State} {pasid qid : BitVec 20} :
    s.jobBusy pasid qid ↔ s.otherPackets pasid qid ≠ 0 ∨ (s.allLaunches.any fun p => p.2.pasid == pasid && p.2.open_ && !p.2.device) = true := by
  simp only [State.jobBusy, List.any_eq_true, Bool.and_eq_true, beq_iff_eq, Launch.open_iff, Bool.not_eq_eq_eq_not, Bool.not_true]
  refine or_congr Iff.rfl (exists_congr fun p => and_congr Iff.rfl ?_)
  tauto

/-- The idle regions of a job. -/
def State.idleRegions (s : State) (pasid : BitVec 20) : List (RingAt × Fin 8) :=
  allRings.flatMap fun r => ((s.ring r).regions.filter fun g => g.pasid == pasid && g.launches.isEmpty).map fun g => (r, g.page)

theorem State.idleRegions_nil {s : State} {pasid : BitVec 20} (h : ∀ r : RingAt, ∀ g ∈ (s.ring r).regions, g.pasid ≠ pasid) :
    s.idleRegions pasid = [] := by
  refine List.flatMap_eq_nil_iff.2 fun r _ => List.map_eq_nil_iff.2 (List.filter_eq_nil_iff.2 fun g hg => ?_)
  simp [h r g hg]

/-- A ring on which a job owns no page. -/
def Ring.disown (pasid : BitVec 20) (x : Ring) : Ring := { x with owners := x.owners.filter fun o => o.2 != pasid }

/-- The state in which a job has no context. -/
def State.withoutContext (s : State) (pasid : BitVec 20) : State :=
  let t := (s.reclaim (s.idleRegions pasid)).onRings allRings fun _ => Ring.disown pasid
  { t with jobs := tabDel pasid.toNat t.jobs }

theorem State.ctxfree_busy {s : State} {h : PktHead} {pasid : BitVec 20} (hb : s.jobBusy pasid s.focus.queue) :
    s.ctxfree h pasid = s.refusePkt s.focus.queue h.seq 0x12 0x0208 := if_pos (State.jobBusy_iff.1 hb)

theorem State.ctxfree_frees {s : State} {h : PktHead} {pasid : BitVec 20} (hb : ¬s.jobBusy pasid s.focus.queue) :
    s.ctxfree h pasid = (s.withoutContext pasid).finish s.focus.queue h.seq 0 0 false := if_neg fun hn => hb (State.jobBusy_iff.2 hn)

theorem State.onRings_ring_out {f : RingAt → Ring → Ring} {rs : List RingAt} {r : RingAt} (hr : r ∉ rs) (s : State) :
    (s.onRings rs f).ring r = s.ring r := by
  induction rs generalizing s with
  | nil => rfl
  | cons q qs ih =>
    obtain ⟨hq, hqs⟩ := not_or.1 (mt List.mem_cons.2 hr)
    exact (ih hqs (s.onRing q (f q))).trans (State.ring_onRing_ne hq ..)

/-- Each ring of a list without repetition is changed once. -/
theorem State.onRings_ring {f : RingAt → Ring → Ring} {rs : List RingAt} (hnd : rs.Nodup) {r : RingAt} (hr : r ∈ rs) (s : State) :
    (s.onRings rs f).ring r = f r (s.ring r) := by
  induction rs generalizing s with
  | nil => cases hr
  | cons q qs ih =>
    obtain ⟨hq, hqs⟩ := List.nodup_cons.1 hnd
    by_cases he : r = q
    · subst he
      exact (State.onRings_ring_out hq (s.onRing r (f r))).trans (State.ring_onRing ..)
    · exact (ih hqs ((List.mem_cons.1 hr).resolve_left he) (s.onRing q (f q))).trans (congrArg (f r) (State.ring_onRing_ne he ..))

theorem allRings_nodup : allRings.Nodup := by decide

theorem State.withoutContext_ring {s : State} {pasid : BitVec 20} (h : ∀ r : RingAt, ∀ g ∈ (s.ring r).regions, g.pasid ≠ pasid) (r : RingAt) :
    (s.withoutContext pasid).ring r = (s.ring r).disown pasid := by
  have hidle : s.reclaim (s.idleRegions pasid) = s := by rw [State.idleRegions_nil h]; rfl
  have hrings : (s.withoutContext pasid).rings = (State.onRings (s.reclaim (s.idleRegions pasid)) allRings fun _ => Ring.disown pasid).rings := rfl
  rw [hidle] at hrings
  rw [State.ring_of_rings hrings, State.onRings_ring allRings_nodup (RingAt.mem_allRings r)]

/-! ### QNEW (04 R148) -/

/-- A queue can be made: there is none under its number, its job has a context, and its rings have at least 16 entries. -/
def State.CanMake (s : State) (b : QnewBody) : Prop :=
  (s.latch b.qid).valid = false ∧ (tabFind b.pasid.toNat s.jobs).isSome = true ∧ 4 ≤ b.rsize.toNat ∧ 4 ≤ b.csize.toNat

theorem State.not_canMake_iff {s : State} {b : QnewBody} :
    ¬s.CanMake b ↔ (s.latch b.qid).valid = true ∨ (tabFind b.pasid.toNat s.jobs).isNone = true ∨ (!decide (4 ≤ b.rsize.toNat)) = true ∨
      (!decide (4 ≤ b.csize.toNat)) = true := by
  simp only [State.CanMake, not_and_or, Bool.not_eq_false, Bool.not_eq_true, Option.isSome_eq_false_iff, Bool.not_eq_eq_eq_not, Bool.not_true,
    decide_eq_false_iff_not]

/-- The queue of a QNEW packet as it begins. -/
def Queue.ofQnew (b : QnewBody) : Queue := ⟨b.pasid, b.kernel, b.rbase, b.cbase, none, [], [], []⟩

theorem State.makeQueue_queue (s : State) (qid : BitVec 20) (q : Queue) (rs cs : BitVec 4) (n c : BitVec 16) :
    (s.makeQueue qid q rs cs n c).queue qid = some q := by
  rw [State.makeQueue, State.queue_onLatch, State.queue, State.die_onDie, tabFind_tabPut]

theorem State.makeQueue_latch (s : State) (qid : BitVec 20) (q : Queue) (rs cs : BitVec 4) (n c : BitVec 16) :
    (s.makeQueue qid q rs cs n c).latch qid =
      { s.latch qid with valid := true, stop := false, rsize := rs, csize := cs, lseq := n - 1, taken := n - 1, cpost := c - 1, cack := c - 1 } := by
  rw [State.makeQueue, State.latch_onLatch, if_pos rfl, State.latch_onDie rfl]

theorem State.qnew_makes {s : State} {h : PktHead} {b : QnewBody} (hb : s.CanMake b) :
    s.qnew h b = (s.makeQueue b.qid (Queue.ofQnew b) b.rsize b.csize b.seq0 b.cseq0).finish s.focus.queue h.seq 0 0 false :=
  if_neg fun hn => State.not_canMake_iff.2 hn hb

theorem State.qnew_refused {s : State} {h : PktHead} {b : QnewBody} (hb : ¬s.CanMake b) : s.qnew h b = s.refusePkt s.focus.queue h.seq 0x13 0x0209 :=
  if_pos (State.not_canMake_iff.1 hb)

/-! ### QFREE (04 R148) -/

/-- A queue has launches that are open. -/
def State.queueUsed (s : State) (q : BitVec 20) : Prop := ∃ p ∈ s.allLaunches, p.2.qid = q ∧ p.2.state ≠ .free ∧ p.2.state ≠ .done

theorem State.queueUsed_iff {s : State} {q : BitVec 20} : s.queueUsed q ↔ (s.allLaunches.any fun p => p.2.qid == q && p.2.open_) = true := by
  simp only [State.queueUsed, List.any_eq_true, Bool.and_eq_true, beq_iff_eq, Launch.open_iff]

/-- The state in which the hart that serves a queue, if one does, has given it up. -/
def State.released (s : State) (q : BitVec 20) : State := if s.served q = true then s.demap q else s

/-- The state in which a queue is no more. -/
def State.withoutQueue (s : State) (q : BitVec 20) : State :=
  ((s.released q).onLatch q fun e => { e with valid := false }).onDie (homeDie q) fun d => { d with queues := tabDel (localIx q) d.queues }

theorem State.qfree_used {s : State} {h : PktHead} {q : BitVec 20} (hu : s.queueUsed q) : s.qfree h q = s.refusePkt s.focus.queue h.seq 0x14 0x0208 :=
  if_pos (State.queueUsed_iff.1 hu)

theorem State.qfree_frees {s : State} {h : PktHead} {q : BitVec 20} (hu : ¬s.queueUsed q) :
    s.qfree h q = (s.finish s.focus.queue h.seq 0 0 false).withoutQueue q := if_neg fun hn => hu (State.queueUsed_iff.2 hn)

theorem State.withoutQueue_latch (s : State) (q : BitVec 20) : (s.withoutQueue q).latch q = { (s.released q).latch q with valid := false } := by
  rw [State.withoutQueue, State.latch_onDie rfl, State.latch_onLatch, if_pos rfl]

theorem State.withoutQueue_queue (s : State) (q : BitVec 20) : (s.withoutQueue q).queue q = none := by
  rw [State.queue, State.withoutQueue, State.die_onDie, tabFind_tabDel, if_pos rfl]

theorem State.released_mapped {s : State} {q : BitVec 20} (h : s.served q = true) : ((s.released q).latch q).mapped = false := by
  rw [State.released, if_pos h, State.latch_demap, if_pos rfl]

/-! ### The claims -/

/-- R148. -/
theorem contextAndQueuePackets : Claim.ContextAndQueuePackets := by
  intro s h pasid qid' rtcnt rtbase sabase sasize b q qid n area busy goodQ used hq
  refine ⟨fun ha hj => ?_, fun ha => congrArg Host.Outcome.next (State.ctxnew_badArea ha),
    fun ha hj => congrArg Host.Outcome.next (State.ctxnew_stands ha hj),
    fun hb => ?_, fun hb => congrArg Host.Outcome.next (State.ctxfree_busy hb), fun hb => ?_,
    fun hb => congrArg Host.Outcome.next (State.qnew_refused hb),
    fun hu => ?_, fun hu => congrArg Host.Outcome.next (State.qfree_used hu)⟩
  · refine ⟨s.withContext pasid rtcnt rtbase sabase sasize, congrArg Host.Outcome.next (State.ctxnew_makes ha hj), ?_,
      fun a h1 h2 => s.sealArea_zero h1 h2⟩
    exact tabFind_tabPut ..
  · refine ⟨s.withoutContext pasid, congrArg Host.Outcome.next (State.ctxfree_frees hb), ?_, fun hnone r => State.withoutContext_ring hnone r⟩
    exact (tabFind_tabDel ..).trans (if_pos rfl)
  · refine ⟨s.makeQueue b.qid (Queue.ofQnew b) b.rsize b.csize b.seq0 b.cseq0, congrArg Host.Outcome.next (State.qnew_makes hb),
      State.makeQueue_queue .., ?_⟩
    rw [State.makeQueue_latch]
    exact ⟨rfl, rfl, rfl, rfl, rfl, rfl, rfl, rfl⟩
  · have hlatch := State.withoutQueue_latch (s.finish qid h.seq 0 0 false) qid'
    refine ⟨_, congrArg Host.Outcome.next (State.qfree_frees hu), congrArg Latch.valid hlatch, State.withoutQueue_queue .., fun hserved => ?_⟩
    exact (congrArg Latch.mapped hlatch).trans (State.released_mapped hserved)

/-- Settles O33: a relay packet is one message on one ring; contexts and queues stand or go with their entries in the tables. -/
theorem relayAndContextPackets : Obligations.RelayAndContextPackets := ⟨relayPackets, contextAndQueuePackets⟩

end Sys2Proof.Machine

/-! PROOFS. Firmware images, the cold reset and BOOTGO (04 R171; 06 R233; 16 R477, R481). -/

namespace Sys2Proof.Machine

/-! ### Images (16 R481; log 16) -/

theorem exec_coldReset (s : State) : exec .coldReset s = .next s.coldReset := rfl
theorem exec_bootgo (s : State) : exec .bootgo s = .next (s.bootgo s.focus.ring.die) := rfl

/-- An image whose vendor key, or whose owner key while one is fused, has another digest than the fuses fails with AUX 1. -/
theorem State.imageFault_keys {s : State} {img : FwImage}
    (h : img.vendorKey ≠ s.vendorDigest ∨ ∃ k, s.ownerDigest = some k ∧ img.ownerKey ≠ k) : s.imageFault img = some 1 := by
  have hkeys : s.keysMatch img = false := by
    rcases h with hv | ⟨k, hk, ho⟩
    · simp [State.keysMatch, hv]
    · simp [State.keysMatch, hk, ho]
  exact if_pos (Or.inl (by rw [hkeys, Bool.not_false]))

/-! ### A restart of the firmware (04 R171, 16 R481) -/

/-- A die on which a restart of the firmware is asked for. -/
def Die.askRestart (x : Die) : Die := { x with feRestart := true, feFwup := false, restarted := x.unowned }

/-- The state in which every die asks for a restart that runs an image. -/
def State.restartWith (s : State) (img : FwImage) : State := { s with fwRunning := some img, fwStaged := none, dies := s.dies.map Die.askRestart }

theorem State.restartWith_die (s : State) (img : FwImage) (d : Fin 4) : (s.restartWith img).die d = (s.die d).askRestart := by
  simp [State.die, State.restartWith]

theorem State.fwrestart_nothing {s : State} (h : s.flash = none ∨ s.recovery = true) (d : Fin 4) : s.fwrestart d = s := by
  have hnone : (s.flash.filter fun _ => !s.recovery) = none := by
    rcases h with h | h
    · rw [h]; rfl
    · simp [h]
  simp only [State.fwrestart, hnone]

section Restart
variable {s : State} {img : FwImage} (hflash : s.flash = some img) (hrec : s.recovery = false)
include hflash hrec

/-- The image in flash is looked at. -/
theorem State.flash_taken : (s.flash.filter fun _ => !s.recovery) = some img := by
  rw [hflash, hrec]
  rfl

theorem State.fwrestart_verified (h : s.imageFault img = none) (d : Fin 4) :
    s.fwrestart d = s.restartWith img := by
  simp only [State.fwrestart, State.flash_taken hflash hrec, h]
  rfl

theorem State.fwrestart_fails {n : Nat} (h : s.imageFault img = some n) (d : Fin 4) :
    s.fwrestart d = s.takeFault d none none 0 ⟨0xA2, 9, 2, n⟩ { FRec.zero with plane := 3 } := by
  simp only [State.fwrestart, State.flash_taken hflash hrec, h]

end Restart

/-! ### A cold reset (16 R477) -/

/-- The state in which an image starts on every die. -/
def State.startImage (s : State) (img : FwImage) : State := { s with fwRunning := some img, fwStaged := none, dies := s.dies.map (Die.startFw img) }

theorem State.startImage_die (s : State) (img : FwImage) (d : Fin 4) : (s.startImage img).die d = (s.die d).startFw img := by
  simp [State.die, State.startImage]

theorem State.coldReset_starts {s : State} {img : FwImage} (hflash : s.flash = some img) (h : s.imageFault img = none) :
    s.coldReset = s.cold.startImage img := by
  have hgood : (s.cold.flash.filter fun i => (s.cold.imageFault i).isNone) = some img := by
    rw [show s.cold.flash = some img from hflash, Option.filter_some]
    exact if_pos (congrArg Option.isNone h)
  simp only [State.coldReset, hgood]
  rfl

theorem State.coldReset_recovers {s : State} (h : (s.flash.all fun i => (s.imageFault i).isSome) = true) :
    s.coldReset = { s.cold with recovery := true } := by
  have hnone : (s.cold.flash.filter fun i => (s.cold.imageFault i).isNone) = none := by
    show (s.flash.filter fun i => (s.imageFault i).isNone) = none
    cases hf : s.flash with
    | none => rfl
    | some i =>
      rw [hf, Option.all_some] at h
      rw [Option.filter_some, if_neg]
      rw [Option.isNone_iff_eq_none]
      exact Option.isSome_iff_ne_none.1 h
  simp only [State.coldReset, hnone]

/-- What the image of a cold reset does not change is as the reset leaves it. -/
theorem State.coldReset_keeps {α : Type} {q : State → α}
    (h : ∀ t r a b ds, q { t with recovery := r, fwRunning := a, fwStaged := b, dies := ds } = q t) (s : State) : q s.coldReset = q s.cold := by
  unfold State.coldReset
  dsimp only
  split
  · exact h s.cold true _ _ _
  · exact h s.cold s.cold.recovery _ _ _

theorem State.cold_ring (s : State) (r : RingAt) : s.cold.ring r = { Ring.reset with skip0 := (s.ring r).skip0, skip1 := (s.ring r).skip1 } := by
  simp [State.ring, State.cold]

theorem State.reset_feFwup (d : Fin 4) : (State.reset.die d).feFwup = false := by
  fin_cases d <;> rfl

/-- R171, R233, R477, R481. -/
theorem firmwareStarts : Claim.FirmwareStarts := by
  intro s img d
  refine ⟨⟨s.stageImage img, rfl, rfl, rfl, rfl, rfl⟩, fun h => congrArg Host.Outcome.next (State.fwrestart_nothing h d), State.imageFault_keys,
    fun hflash => ⟨fun hrec h => ?_, fun n hrec h => ?_, fun h => ?_⟩, fun h => ?_, s.coldReset, exec_coldReset s, ?_⟩
  · refine ⟨_, congrArg Host.Outcome.next (State.fwrestart_verified hflash hrec h d), rfl, rfl, fun k => ?_⟩
    rw [State.restartWith_die]
    exact ⟨rfl, rfl, rfl⟩
  · obtain ⟨k, hw⟩ := State.takeFault_waits s d none none 0 ⟨0xA2, 9, 2, n⟩ { FRec.zero with plane := 3 }
    exact ⟨_, congrArg Host.Outcome.next (State.fwrestart_fails hflash hrec h d), ⟨_, hw, rfl, rfl, rfl⟩, rfl, rfl⟩
  · refine ⟨_, congrArg Host.Outcome.next (State.coldReset_starts hflash h), rfl, rfl, fun k => ?_⟩
    rw [State.startImage_die]
    exact ⟨rfl, rfl, rfl⟩
  · exact ⟨_, congrArg Host.Outcome.next (State.coldReset_recovers h), rfl, State.reset_feFwup⟩
  · have kept := fun {α : Type} (q : State → α)
        (h : ∀ t r a b ds, q { t with recovery := r, fwRunning := a, fwStaged := b, dies := ds } = q t) =>
      State.coldReset_keeps h s
    have hring (r : RingAt) := (kept (State.ring · r) fun _ _ _ _ _ => rfl).trans (s.cold_ring r)
    exact ⟨kept State.fc fun _ _ _ _ _ => rfl, kept State.elems fun _ _ _ _ _ => rfl, kept State.stripes fun _ _ _ _ _ => rfl,
      kept State.hbm fun _ _ _ _ _ => rfl, kept State.jobs fun _ _ _ _ _ => rfl, kept State.hostMem fun _ _ _ _ _ => rfl,
      kept State.keys fun _ _ _ _ _ => rfl, kept State.antiRollback fun _ _ _ _ _ => rfl, kept State.vendorDigest fun _ _ _ _ _ => rfl,
      kept State.ownerDigest fun _ _ _ _ _ => rfl, fun r => by rw [hring]; exact ⟨rfl, rfl, rfl⟩⟩

/-! ### BOOTGO (16 R477) -/

theorem mem_of_tabFind {α : Type} {k : Nat} {x : α} {t : Tab α} (h : tabFind k t = some x) : (k, x) ∈ t := by
  induction t with
  | nil => cases h
  | cons c t ih =>
    obtain ⟨j, y⟩ := c
    rw [tabFind] at h
    split at h
    · next hj =>
      subst hj
      cases h
      exact List.mem_cons_self
    · exact List.mem_cons_of_mem _ (ih h)

/-- With an empty buffer nothing is delivered. -/
theorem State.deliverFrom_empty {s : State} {d : Fin 4} (h : (s.die d).fbuf = []) (n : Nat) (seen : List Nat) : State.deliverFrom n seen s d = s := by
  cases n with
  | zero => rfl
  | succ n =>
    have hnone : (List.range 64).filterMap (fun i => if seen.contains i then none else (tabFind i (s.die d).fbuf).map fun e => (i, e)) = [] := by
      refine List.filterMap_eq_nil_iff.2 fun i _ => ?_
      rw [h]
      exact ite_self _
    rw [State.deliverFrom]
    simp only [hnone]

/-- Without a terminated job no packet fails. -/
theorem State.failPackets_none {s : State} (h : ∀ j ∈ s.jobs, j.2.terminated = false) (d : Fin 4) : s.failPackets d = s := by
  unfold State.failPackets
  refine List.foldl_fixed' (fun p => ?_) _
  have hjob : (tabGet Job.zero p.2.pasid.toNat s.jobs).terminated = false := by
    unfold tabGet
    cases hf : tabFind p.2.pasid.toNat s.jobs with
    | none => rfl
    | some j => exact h _ (mem_of_tabFind hf)
  simp only [hjob, Bool.and_false, Bool.false_and, Bool.false_eq_true, if_false]

theorem State.deliverFaults_idle {s : State} {d : Fin 4} (hbuf : (s.die d).fbuf = []) (hjobs : ∀ j ∈ s.jobs, j.2.terminated = false) :
    s.deliverFaults d = s := by
  unfold State.deliverFaults
  rw [State.deliverFrom_empty hbuf]
  dsimp only
  exact List.foldl_fixed' (fun k => State.failPackets_none hjobs (Fin.ofNat 4 k)) (List.range 4)

/-- Queue 0 of a die as BOOTGO makes it. -/
def Die.bootQueue (x : Die) : Queue := ⟨0, true, .ofNat 64 (x.bootRbase.toNat * 64), .ofNat 64 (x.bootCbase.toNat * 64), none, [], [], []⟩

/-- The state in which queue 0 of a die is made from its boot registers. -/
def State.withBootQueue (s : State) (d : Fin 4) : State :=
  s.makeQueue (qidOf d 0) (s.die d).bootQueue (s.die d).bootRsize (s.die d).bootCsize 0 0

/-- BOOTGO does nothing in recovery, when queue 0 stands, and for sizes below 4. -/
def State.BootIdle (s : State) (d : Fin 4) : Prop :=
  s.recovery = true ∨ (s.latch (qidOf d 0)).valid = true ∨ (s.die d).bootRsize.toNat < 4 ∨ (s.die d).bootCsize.toNat < 4

theorem State.bootgo_idle {s : State} {d : Fin 4} (h : s.BootIdle d) : s.bootgo d = s := if_pos h

theorem State.bootgo_makes {s : State} {d : Fin 4} (h : ¬s.BootIdle d) : s.bootgo d = (s.withBootQueue d).deliverFaults d := if_neg h

/-- A base of 58 bits of a boot register is an address of 64 bytes. -/
theorem boot_base_toNat (b : BitVec 58) : (BitVec.ofNat 64 (b.toNat * 64)).toNat = b.toNat * 64 := by
  have h := b.isLt
  exact (BitVec.toNat_ofNat ..).trans (Nat.mod_eq_of_lt (by omega))

/-- R477. -/
theorem bootQueueStarts : Claim.BootQueueStarts := by
  intro s d x q
  refine ⟨fun hrec hvalid hrs hcs hbuf hjobs => ?_, fun h => congrArg Host.Outcome.next (State.bootgo_idle h)⟩
  have hgo : ¬s.BootIdle d := by
    rintro (h | h | h | h)
    · exact absurd (hrec.symm.trans h) (by decide)
    · exact absurd (hvalid.symm.trans h) (by decide)
    · exact absurd h (Nat.not_lt.2 hrs)
    · exact absurd h (Nat.not_lt.2 hcs)
  have hkept : ((s.withBootQueue d).die d).fbuf = (s.die d).fbuf := (State.onDie_keeps Die.fbuf rfl d).trans (State.onDie_keeps Die.fbuf rfl d)
  have hlatch := s.makeQueue_latch q x.bootQueue x.bootRsize x.bootCsize 0 0
  refine ⟨s.withBootQueue d, x.bootQueue, ?_, s.makeQueue_queue .., rfl, rfl, boot_base_toNat _, boot_base_toNat _, congrArg Latch.valid hlatch,
    congrArg Latch.rsize hlatch, congrArg Latch.csize hlatch⟩
  rw [exec_bootgo, State.bootgo_makes hgo, State.deliverFaults_idle (hkept.trans hbuf) hjobs]

/-- Settles O52: a restart and a cold reset by what the image in flash is found to be; BOOTGO by its conditions, and no fault is there to deliver. -/
theorem firmwareAndBoot : Obligations.FirmwareAndBoot := ⟨firmwareStarts, bootQueueStarts⟩

end Sys2Proof.Machine

/-! PROOFS. The almanac's writes at a frame, and the switch to an intercalary launch and the return from it (05 R208, R210; 08 R306, R308). -/

namespace Sys2Proof.Machine

theorem exec_almanacUpdate (s : State) : exec .almanacUpdate s = .next (s.almanacUpdate s.focus.ring) := by
  simp only [exec, execAlmanacUpdate]
theorem exec_intercalarySwitch (s : State) : exec .intercalarySwitch s = .next (s.icalSwitch s.focus.ring) := by
  simp only [exec, execIntercalarySwitch]
theorem exec_intercalaryReturn (s : State) : exec .intercalaryReturn s = .next (s.icalReturn s.focus.ring) := by
  simp only [exec, execIntercalaryReturn]

/-! ### A PALMW, slot by slot (05 R208) -/

/-- One almanac slot under a PALMW. -/
def palmwWrite (mask : Dword) (v : Option AlmSlot) (t : Tab AlmSlot) (n : Nat) : Tab AlmSlot :=
  if mask.getLsbD n then (match v with | some a => tabPut n a t | none => tabDel n t) else t

theorem tabFind_palmwWrite (mask : Dword) (v : Option AlmSlot) (t : Tab AlmSlot) (k n : Nat) :
    tabFind n (palmwWrite mask v t k) = if n = k ∧ mask.getLsbD n = true then v else tabFind n t := by
  unfold palmwWrite
  by_cases hn : n = k
  · subst hn
    cases hm : mask.getLsbD n with
    | false => simp
    | true => cases v <;> simp [tabFind_tabDel]
  · rw [if_neg fun h : n = k ∧ _ => hn h.1]
    cases mask.getLsbD k with
    | false => rfl
    | true =>
      cases v with
      | some a => exact tabFind_tabPut_ne hn a t
      | none => exact (tabFind_tabDel k n t).trans (if_neg hn)

theorem tabFind_palmwWrites (mask : Dword) (v : Option AlmSlot) (n : Nat) (ks : List Nat) (t : Tab AlmSlot) :
    tabFind n (ks.foldl (palmwWrite mask v) t) = if n ∈ ks ∧ mask.getLsbD n = true then v else tabFind n t := by
  induction ks generalizing t with
  | nil => simp
  | cons k ks ih =>
    rw [List.foldl_cons, ih, tabFind_palmwWrite, ← ite_or]
    exact if_congr (by rw [List.mem_cons, ← or_and_right, or_comm]) rfl rfl

theorem tabFind_applyPalmw (mask : Dword) (v : Option AlmSlot) (t : Tab AlmSlot) {n : Nat} (hn : n < 64) :
    tabFind n (applyPalmw mask v t) = if mask.getLsbD n then v else tabFind n t := by
  refine (tabFind_palmwWrites mask v n (List.range 64) t).trans ?_
  simp [List.mem_range, hn]

/-- The ring's almanac takes the writes that wait, in order. -/
def Ring.takePalmws (y : Ring) : Ring := { y with almanac := y.palmw.foldl (fun t p => applyPalmw p.2.1 p.2.2 t) y.almanac, palmw := [] }

theorem Ring.takePalmws_slot (y : Ring) {n : Nat} (hn : n < 64) :
    tabFind n y.takePalmws.almanac = y.palmw.foldl (fun a w => if w.2.1.getLsbD n then w.2.2 else a) (tabFind n y.almanac) :=
  (List.foldl_hom (tabFind n) fun t w => (tabFind_applyPalmw w.2.1 w.2.2 t hn).symm).symm

section Update
variable {s : State} {r : RingAt}

theorem State.almanacUpdate_idle (h : s.fc % 64 ≠ 0 ∨ (s.ring r).occupied = true) : s.almanacUpdate r = s := by
  refine if_neg fun ⟨hfc, ho⟩ => ?_
  rcases h with h | h
  · exact h hfc
  · simp [h] at ho

theorem State.almanacUpdate_frame (hfc : s.fc % 64 = 0) (ho : (s.ring r).occupied = false) :
    s.almanacUpdate r = (s.ring r).palmw.foldl (fun v w => v.answer w.1 0 0 0) (s.onRing r Ring.takePalmws) :=
  if_pos ⟨hfc, by rw [ho]; rfl⟩

end Update

/-- At a frame the writes are applied and answered; the answers come after every write. -/
theorem almanacUpdates : Claim.AlmanacUpdates := by
  intro s r ws
  refine ⟨fun h => by rw [exec_almanacUpdate, State.almanacUpdate_idle h], fun hfc ho => ?_⟩
  refine ⟨s.onRing r Ring.takePalmws, by rw [exec_almanacUpdate, State.almanacUpdate_frame hfc ho], ?_, rfl, rfl, fun n hn => ?_⟩
  · rw [State.ring_onRing]
    rfl
  · rw [State.ring_onRing]
    exact (s.ring r).takePalmws_slot hn

/-! ### What results and replies leave of a ring -/

/-- A reading of a ring that does not see its holds, its counts of tokens, or the results and replies that wait. -/
structure Ring.Aside {α : Type} (p : Ring → α) : Prop where
  holds : ∀ y h, p { y with fholds := h } = p y
  killdrop : ∀ y n, p { y with elKilldrop := n } = p y
  steered : ∀ y n, p { y with elSteered := n } = p y
  results : ∀ y h, p { y with heldResults := h } = p y
  replies : ∀ y h, p { y with heldReplies := h } = p y

section Aside
variable {α : Type} {p : Ring → α} (hp : Ring.Aside p) (s : State) (q : RingAt)
include hp

theorem State.arrive_ring_keeps {e : ElemAt} {ical : Bool} {c : Fin 8} {k : Token} {ext st : Bool} {t : State} (ht : s.arrive e ical c k ext st = some t) :
    p (t.ring q) = p (s.ring q) := by
  unfold State.arrive at ht
  dsimp only at ht
  split at ht
  · cases ht
  · split at ht
    · cases ht; rfl
    · split at ht
      · cases ht; exact State.elemFault_ring_keeps p hp.holds ..
      · split at ht
        · cases ht
          refine (foldl_keeps (fun v : State => p (v.ring q)) (fun v b => v.enqueue e ical c b) (fun _ _ => rfl) _ _).trans ?_
          exact State.onRing_keeps p s _ (fun y => hp.killdrop y _) q
        · split at ht
          · cases ht; rfl
          · split at ht
            · cases ht; exact State.elemFault_ring_keeps p hp.holds ..
            · cases ht; exact State.onRing_keeps p _ _ (fun y => hp.steered y _) q

theorem State.tryReply_ring_keeps {h : HeldReply} {t : State} (ht : s.tryReply h = some t) : p (t.ring q) = p (s.ring q) := by
  unfold State.tryReply at ht
  dsimp only at ht
  split at ht
  · obtain ⟨u, hu, rfl⟩ := Option.map_eq_some_iff.1 ht
    refine .trans (congrArg p ?_) (State.arrive_ring_keeps hp s q hu)
    rw [State.ring_of_rings (State.paid_rings ..)]
    unfold State.seeEos
    split <;> rfl
  · cases ht

theorem State.sendReply_ring_keeps (h : HeldReply) : p ((s.sendReply h).ring q) = p (s.ring q) := by
  have hheld : p ((s.holdReply h).ring q) = p (s.ring q) := State.onRing_keeps p s _ (fun y => hp.replies y _) q
  cases ht : s.tryReply h with
  | none => rw [State.sendReply_stuck ht, hheld]
  | some t =>
    cases ha : (s.ring (ElemAt.ofKey h.target).at_.ring).heldReplies.any h.follows with
    | true => rw [State.sendReply_behind ha, hheld]
    | false => rw [State.sendReply_sent ha ht, State.tryReply_ring_keeps hp s q ht]

theorem State.retryReplies_ring_keeps (r : RingAt) : p ((s.retryReplies r).ring q) = p (s.ring q) :=
  (foldl_keeps (fun v : State => p (v.ring q)) _ (fun v h => State.sendReply_ring_keeps hp v q h) _ _).trans
    (State.onRing_keeps p s r (fun y => hp.replies y _) q)

theorem State.retryResults_ring_keeps (r : RingAt) : p ((s.retryResults r).ring q) = p (s.ring q) :=
  (foldl_keeps (fun v : State => p (v.ring q)) _ (fun v _ => State.deliver_ring_keeps p hp.results v _ _ _ _ q) _ _).trans
    (State.onRing_keeps p s r (fun y => hp.results y _) q)

end Aside

/-! ### The occupation of a ring (05 R210; 08 R306, R308) -/

/-- Whether a ring is occupied, its intercalary launch, and its regions. -/
def Ring.occupation (y : Ring) : Bool × Option Nat × List Region := (y.occupied, y.icalLaunch, y.regions)

theorem Ring.occupation_aside : Ring.Aside Ring.occupation where
  holds _ _ := rfl
  killdrop _ _ := rfl
  steered _ _ := rfl
  results _ _ := rfl
  replies _ _ := rfl

theorem State.releaseCtx_occupation (s : State) (r : RingAt) (j : BitVec 20) (q : RingAt) :
    ((s.releaseCtx r j).ring q).occupation = (s.ring q).occupation := by
  unfold State.releaseCtx
  dsimp only
  split
  · split
    · rfl
    · exact State.onRing_keeps Ring.occupation _ _ (by intros; rfl) q
  · rfl

theorem State.clearIcalPlanes_rings (s : State) (r : RingAt) : (s.clearIcalPlanes r).rings = s.rings :=
  (State.clearIcalStripes_rings ..).trans (State.onElems_rings ..)

/-- A ring that is cleared is free again, and keeps its regions. -/
theorem State.clearIcal_occupation (s : State) (r : RingAt) : ((s.clearIcal r).ring r).occupation = (false, none, (s.ring r).regions) := by
  rw [State.clearIcal_eq, State.releaseCtx_occupation, State.ring_onRing, State.ring_of_rings (s.clearIcalPlanes_rings r)]
  rfl

/-- The intercalary launch `l` of a ring can take it: its images are loaded and it has been woken. -/
def State.switchDue (s : State) (r : RingAt) (l : Nat) : Prop :=
  (s.ring r).occupied = false ∧ (s.ring r).icalLoaded = (s.launch l).stages ∧ (s.launch l).woken = true ∧ (s.launch l).state = .bound ∧ s.goneLaunch l = false

/-- The intercalary launch `l` of an occupied ring has ended, and no victim that is terminated waits for its records or its engines. -/
def State.returnDue (s : State) (r : RingAt) (l : Nat) : Prop :=
  (s.ring r).occupied = true ∧ ((s.launch l).segs = [] ∨ (s.launch l).ical = false) ∧
    ∀ k ∈ s.terminated r, s.recordWaits (s.launch k).pasid = false ∧ s.enginesOwe k = false

/-- The M-elements of a ring with rows in their arrays. -/
def State.rowsStand (s : State) (r : RingAt) : List ElemAt :=
  (s.ringElems r).filter fun e => isMSlot e.slot.val && !(s.elem e).main.array.isEmpty

/-- The state once the ring has switched to `l`, from the state `s` in which its rows have committed or gone back. -/
def State.occupy (s : State) (r : RingAt) (l : Nat) : State :=
  (s.onRing r fun y => { y with occupied := true }).onLaunch l fun x => { x with state := .running }

theorem State.rowsStand_eq_nil {s : State} {r : RingAt} (h : ∀ e ∈ s.ringElems r, isMSlot e.slot.val = true → (s.elem e).main.array = []) :
    s.rowsStand r = [] := by
  refine List.filter_eq_nil_iff.2 fun e he hrows => ?_
  obtain ⟨hm, harr⟩ := Bool.and_eq_true_iff.1 hrows
  rw [h e he hm] at harr
  cases harr

section Occupation
variable {s : State} {r : RingAt}

theorem State.icalSwitch_none (h : (s.ring r).icalLaunch = none) : s.icalSwitch r = s := by
  unfold State.icalSwitch
  dsimp only
  rw [h]

theorem State.icalReturn_none (h : (s.ring r).icalLaunch = none) : s.icalReturn r = s := by
  unfold State.icalReturn
  dsimp only
  rw [h]

variable {l : Nat}

theorem State.switchDue_iff : s.switchDue r l ↔
    (!(s.ring r).occupied ∧ (s.ring r).icalLoaded = (s.launch l).stages ∧ (s.launch l).woken ∧ (s.launch l).state = .bound ∧ !s.goneLaunch l) := by
  simp only [State.switchDue, Bool.not_eq_true']

theorem State.returnDue_iff : s.returnDue r l ↔
    ((s.ring r).occupied ∧ ((s.launch l).segs.isEmpty ∨ !(s.launch l).ical) ∧
      (s.terminated r).all fun k => !s.recordWaits (s.launch k).pasid && !s.enginesOwe k) := by
  simp [State.returnDue]

variable (hl : (s.ring r).icalLaunch = some l)
include hl

theorem State.icalSwitch_of_not (h : ¬s.switchDue r l) : s.icalSwitch r = s := by
  unfold State.icalSwitch
  dsimp only
  rw [hl]
  exact if_neg (mt State.switchDue_iff.2 h)

theorem State.icalSwitch_due (h : s.switchDue r l) : s.icalSwitch r = ((s.rowsStand r).foldl State.mxFreeze s).occupy r l := by
  unfold State.icalSwitch
  dsimp only
  rw [hl]
  exact if_pos (State.switchDue_iff.1 h)

theorem State.icalReturn_of_not (h : ¬s.returnDue r l) : s.icalReturn r = s := by
  unfold State.icalReturn
  dsimp only
  rw [hl]
  exact if_neg (mt State.returnDue_iff.2 h)

theorem State.icalReturn_ended (h : s.returnDue r l) (hgone : s.terminated r = []) :
    s.icalReturn r = ((s.clearIcal r).retryResults r).retryReplies r := by
  unfold State.icalReturn
  dsimp only
  rw [hl]
  dsimp only
  rw [if_pos (State.returnDue_iff.1 h), hgone, List.foldl_nil]

end Occupation

/-- With no terminated victim to remove, the ring comes back free and with its regions. -/
theorem State.icalReturn_occupation {s : State} {r : RingAt} {l : Nat} (hl : (s.ring r).icalLaunch = some l) (h : s.returnDue r l)
    (hgone : s.terminated r = []) : ((s.icalReturn r).ring r).occupation = (false, none, (s.ring r).regions) := by
  rw [State.icalReturn_ended hl h hgone, State.retryReplies_ring_keeps Ring.occupation_aside, State.retryResults_ring_keeps Ring.occupation_aside,
    State.clearIcal_occupation]

/-- A launch that is due takes its ring, and one that has ended gives it back. -/
theorem intercalarySwitches : Claim.IntercalarySwitches := by
  intro s r y
  refine ⟨fun h => ⟨by rw [exec_intercalarySwitch, State.icalSwitch_none h], by rw [exec_intercalaryReturn, State.icalReturn_none h]⟩, ?_⟩
  intro l hl x due ended
  refine ⟨fun h => ?_, fun h => ?_, fun h => ?_, fun h _ hgone => ?_⟩
  · rw [exec_intercalarySwitch, State.icalSwitch_of_not hl h]
  · refine ⟨_, exec_intercalarySwitch s, ?_⟩
    rw [State.icalSwitch_due hl h]
    refine ⟨?_, congrArg Launch.state (State.launch_onLaunch ..), fun hrows => ?_⟩
    · rw [State.occupy, State.ring_of_rings (State.onLaunch_rings ..), State.ring_onRing]
    · rw [State.rowsStand_eq_nil hrows]
      exact ⟨rfl, rfl⟩
  · rw [exec_intercalaryReturn, State.icalReturn_of_not hl h]
  · have hocc := State.icalReturn_occupation hl h hgone
    simp only [Ring.occupation, Prod.mk.injEq] at hocc
    exact ⟨_, exec_intercalaryReturn s, hocc⟩

/-- Settles O40: the writes of a frame slot by slot; a switch and a return by their conditions, and what a return delivers leaves the ring's occupation. -/
theorem almanacAndIntercalary : Obligations.AlmanacAndIntercalary := ⟨almanacUpdates, intercalarySwitches⟩

end Sys2Proof.Machine

/-! PROOFS. Messages about launches: PCANCEL, PCOUNT, PALMR, PSTAT and PLAUNCH (01 R31, R34; 05 R199, R203, R204, R218). -/

namespace Sys2Proof.Machine

theorem exec_pcancel (s : State) (p : Params) : exec (.pcancel p) s = .next (s.pcancel p) := by
  simp only [exec, execPcancel]
theorem exec_pcount (s : State) (p : Params) : exec (.pcount p) s = .next (s.pcount p) := by
  simp only [exec, execPcount]
theorem exec_palmr (s : State) (p : Params) : exec (.palmr p) s = .next (s.palmr p) := by
  simp only [exec, execPalmr]
theorem exec_pstat (s : State) (p : Params) : exec (.pstat p) s = .next (s.pstat p) := by
  simp only [exec, execPstat]
theorem exec_plaunch (s : State) (p : Params) : exec (.plaunch p) s = .next (s.plaunch p) := by
  simp only [exec, execPlaunch]

/-! ### A cancel marks its launch (05 R204) -/

/-- Whether the entry of a die is marked as cancelled. -/
def Die.marked (k : Nat) (x : Die) : Bool := (tabGet Launch.zero k x.launches).cancelled

theorem Die.marked_tabMap {f : Nat → Launch → Launch} (h : ∀ e y, (f e y).cancelled = y.cancelled) (k : Nat) (x : Die) :
    Die.marked k { x with launches := tabMap f x.launches } = Die.marked k x := tabGet_tabMap_keeps Launch.cancelled h _ _ _

/-- Nothing that an answer, a completion or a fault does marks a launch or takes its mark away. -/
theorem Die.marked_aside (k : Nat) : Die.Aside (Die.marked k) where
  faults _ _ _ := rfl
  stop _ _ := Die.marked_tabMap (fun _ y => by split <;> rfl) k _
  latch _ _ := rfl
  queues _ _ := rfl
  walks _ _ _ := rfl
  owed x e n := tabGet_tabPut_keeps (x := { tabGet Launch.zero e x.launches with owed := n }) Launch.cancelled _ rfl k

section Marked
variable (k : Nat) (s : State)

theorem State.marked_onLaunch (l : Nat) {f : Launch → Launch} (h : ∀ x, (f x).cancelled = x.cancelled) :
    (s.onLaunch l f).part (Die.marked k) = s.part (Die.marked k) :=
  State.part_onLaunch _ s fun _ _ => tabGet_tabPut_keeps Launch.cancelled _ (h _) k

theorem State.marked_sendSlot (d t : Fin 4) (x : Slot) : (s.sendSlot d t x).part (Die.marked k) = s.part (Die.marked k) := by
  unfold State.sendSlot
  split
  · rfl
  · exact State.part_onDie _ s (by intros; rfl) d

theorem State.marked_killIter (l : Nat) (d : Fin 4) (v : BitVec 12) : (s.killIter l d v).part (Die.marked k) = s.part (Die.marked k) :=
  (State.part_foldl _ _ _ (fun t _ => State.marked_sendSlot k t ..) _).trans (State.marked_onLaunch k s l (by intros; rfl))

theorem State.marked_unwait (r : RingAt) (ids : List Nat) : (s.unwait r ids).part (Die.marked k) = s.part (Die.marked k) :=
  State.part_onDie (Die.marked k) s (f := fun x => { x with walks := x.walks.map fun w => { w with waiters := w.waiters.filterMap (Waiter.without ids) } })
    (by intros; rfl) r.die

theorem State.marked_dropOps (r : RingAt) (a w : MemOp → Bool) : (s.dropOps r a w).part (Die.marked k) = s.part (Die.marked k) := by
  unfold State.dropOps
  dsimp only
  refine (State.part_foldl (Die.marked k) _ _ (fun _ _ => ?_) _).trans ?_
  · exact State.part_paid (Die.marked_aside k) _ _ _ _
  · rw [State.marked_unwait, State.part_of_dies _ (State.setRing_dies ..)]

theorem State.marked_dropWatch (r : RingAt) (w : Watch) : (s.dropWatch r w).part (Die.marked k) = s.part (Die.marked k) := by
  unfold State.dropWatch
  exact State.part_paid (Die.marked_aside k) ..

theorem State.marked_withdraw (l : Nat) (g : Seg) : (s.withdraw l g).part (Die.marked k) = s.part (Die.marked k) := by
  unfold State.withdraw
  dsimp only
  rw [State.part_of_dies _ (State.onRing_dies ..), State.part_of_dies _ (State.onElems_dies ..)]
  exact (State.part_foldl _ _ _ (fun t w => State.marked_dropWatch k t _ w) _).trans (State.marked_dropOps k ..)

theorem State.marked_overtake (m : Msg) (st : Nat) : (s.overtake m st).part (Die.marked k) = s.part (Die.marked k) :=
  State.part_answerBy (Die.marked_aside k) ..

theorem State.marked_answerEvicts (l st : Nat) : (s.answerEvicts l st).part (Die.marked k) = s.part (Die.marked k) := by
  unfold State.answerEvicts
  refine State.part_foldl _ _ _ (fun t r => ?_) _
  refine (State.part_foldl _ _ _ (fun u q => ?_) _).trans rfl
  split
  · split
    · exact State.part_refuse (Die.marked_aside k) ..
    · exact State.marked_overtake k ..
  · rfl

end Marked

/-- What the mark itself changes of a launch. -/
def Launch.mark (y : Launch) : Launch := { y with cancelled := true, status := if y.faulted then y.status else 1 }

/-- A launch that has not ended is marked by its cancel. -/
theorem State.cancelLaunch_marks {s : State} {l : Nat} (hf : (s.launch l).state ≠ .free) (hd : (s.launch l).state ≠ .done) :
    ((s.cancelLaunch l).launch l).cancelled = true := by
  cases hc : (s.launch l).cancelled with
  | true => rw [State.cancelLaunch, if_pos (.inr (.inr hc)), hc]
  | false =>
    suffices h : (s.cancelLaunch l).part (Die.marked (l % 4096)) = (s.onLaunch l Launch.mark).part (Die.marked (l % 4096)) from
      (congrFun h (Fin.ofNat 4 (l / 4096))).trans (congrArg Launch.cancelled (State.launch_onLaunch ..))
    unfold State.cancelLaunch
    dsimp only
    rw [if_neg (by simp [hf, hd, hc])]
    -- From the last step back to the mark: the answers, what is forgotten and withdrawn, and the iterations that are killed.
    refine (State.marked_answerEvicts ..).trans ((State.part_foldl _ _ _ (fun t v => State.part_foldl _ _ _ (fun t q => ?_) _) _).trans ?_)
    · split
      · exact State.marked_overtake ..
      · rfl
    refine (State.part_foldl _ _ _ (fun t m => State.marked_overtake _ t m _) _).trans ((State.marked_onLaunch _ _ l (by intros; rfl)).trans ?_)
    refine (State.part_onDies _ _ (by intros; rfl)).trans ?_
    refine (State.part_foldl _ _ _ (fun t g => State.marked_withdraw _ t l g) _).trans ?_
    exact State.part_foldl _ _ _ (fun t v => State.marked_killIter _ t l _ v) _

/-! ### PCANCEL and PCOUNT (01 R31, R34) -/

/-- The launches of a list that have not ended. -/
def State.openOf (s : State) (ls : List Nat) : List Nat := ls.filter fun l => (s.launch l).open_

section Items
variable {s : State} {d : Fin 4} {pasid : BitVec 20} {level id : Nat}

theorem State.cancelItems_unknown (h : s.levelItems d pasid level id = none) : s.cancelItems d pasid level id = (s, 0x0307) := by
  unfold State.cancelItems
  rw [h]

theorem State.countItems_unknown (h : s.levelItems d pasid level id = none) : s.countItems d pasid level id = (0, 0, 0x0307) := by
  unfold State.countItems
  rw [h]

variable {ls : List Nat}

theorem State.cancelItems_known (h : s.levelItems d pasid level id = some ls) : s.cancelItems d pasid level id =
    ((s.openOf ls).foldl State.cancelLaunch s, if s.openOf ls = [] ∧ (level < 4 ∨ s.jobPackets pasid = 0) then 2 else 0) := by
  unfold State.cancelItems
  rw [h]
  show (if (s.openOf ls).isEmpty ∧ (level < 4 ∨ s.jobPackets pasid = 0) then (s, 2) else ((s.openOf ls).foldl State.cancelLaunch s, 0)) = _
  cases s.openOf ls with
  | nil =>
    simp only [List.isEmpty_nil, List.foldl_nil, true_and]
    split <;> rfl
  | cons l k => rfl

theorem State.countItems_launch {l : Nat} (h : s.levelItems d pasid 1 id = some [l]) : s.countItems d pasid 1 id =
    if (s.launch l).open_ then (s.exitsOwed l, if s.writesPending l then 1 else 0, 0) else (0, 0, 0) := by
  unfold State.countItems
  rw [h]
  cases ho : (s.launch l).open_ <;> simp [ho]

theorem State.countItems_graph (h : s.levelItems d pasid 2 id = some ls) : s.countItems d pasid 2 id = ((s.openOf ls).length, 0, 0) := by
  unfold State.countItems
  rw [h]
  rfl

theorem State.countItems_job (h : s.levelItems d pasid 4 id = some ls) : s.countItems d pasid 4 id = (s.jobPackets pasid, 0, 0) := by
  unfold State.countItems
  rw [h]
  rfl

end Items

/-- The parameters that PCANCEL and PCOUNT accept: a launch, graph or job, and for a launch its die. -/
def Msg.namesItem (m : Msg) (p : Params) : Prop :=
  (p.p0.toNat = 1 ∨ p.p0.toNat = 2 ∨ p.p0.toNat = 4) ∧ p.p2 = 0 ∧ p.p3 = 0 ∧
    (p.p0.toNat = 1 → p.p1.toNat / 2 ^ 22 = m.inst / 4 ∧ m.inst % 4 = 0)

theorem bits_low {x k : Nat} (h : x < 2 ^ (k + 1)) : bits x k 0 = x := by
  rw [bits, Nat.pow_zero, Nat.div_one, Nat.sub_zero, Nat.mod_eq_of_lt h]

theorem Msg.namesItem_level {m : Msg} {p : Params} (h : m.namesItem p) : bits p.p0.toNat 2 0 = p.p0.toNat :=
  bits_low (show p.p0.toNat < 8 by rcases h.1 with h | h | h <;> omega)

theorem itemParams_iff {m : Msg} {p : Params} (hi : m.inst < 16) : itemParams m p = true ↔ m.namesItem p := by
  by_cases h8 : p.p0.toNat < 8
  · have hlevel : bits p.p0.toNat 2 0 = p.p0.toNat := bits_low h8
    have htop : bits p.p0.toNat 31 3 = 0 := (Word.bits_top p.p0 (by decide)).2 h8
    have hdie := Msg.namesDie_iff hi p.p1
    simp only [itemParams, Msg.namesItem, hlevel, htop, hi, ← hdie, decide_true, Bool.true_and, Bool.and_true, Bool.and_eq_true, Bool.or_eq_true, beq_iff_eq,
      bne_iff_ne, decide_eq_true_eq, ne_eq, ← imp_iff_not_or]
    tauto
  · have htop : bits p.p0.toNat 31 3 ≠ 0 := mt (Word.bits_top p.p0 (by decide)).1 h8
    refine iff_of_false (by simp [itemParams, htop]) fun h => h8 ?_
    rcases h.1 with h | h | h <;> omega

section ItemMessages
variable {s : State} {p : Params} (hi : s.focus.msg.inst < 16)
include hi

theorem State.pcancel_refused (h : ¬s.focus.msg.namesItem p) : s.pcancel p = s.refuse s.focus.msg 0x0306 := if_neg (mt (itemParams_iff hi).1 h)

theorem State.pcount_refused (h : ¬s.focus.msg.namesItem p) : s.pcount p = s.refuse s.focus.msg 0x0306 := if_neg (mt (itemParams_iff hi).1 h)

variable (h : s.focus.msg.namesItem p)
include h

theorem State.pcancel_items {t : State × Nat} (ht : s.cancelItems s.focus.msg.at_.die s.focus.msg.pasid p.p0.toNat p.p1.toNat = t) :
    s.pcancel p = if t.2 = 0x0307 then t.1.refuse s.focus.msg t.2 else t.1.answer s.focus.msg t.2 0 0 := by
  unfold State.pcancel
  dsimp only
  rw [if_pos ((itemParams_iff hi).2 h), Msg.namesItem_level h, ht]

theorem State.pcount_items {t : Nat × Nat × Nat} (ht : s.countItems s.focus.msg.at_.die s.focus.msg.pasid p.p0.toNat p.p1.toNat = t) :
    s.pcount p = if t.2.2 = 0 then s.answer s.focus.msg 0 t.1 t.2.1 else s.refuse s.focus.msg t.2.2 := by
  unfold State.pcount
  dsimp only
  rw [if_pos ((itemParams_iff hi).2 h), Msg.namesItem_level h, ht]

theorem State.pcancel_known {ls : List Nat} (hls : s.levelItems s.focus.msg.at_.die s.focus.msg.pasid p.p0.toNat p.p1.toNat = some ls) :
    s.pcancel p = ((s.openOf ls).foldl State.cancelLaunch s).answer s.focus.msg
      (if s.openOf ls = [] ∧ (p.p0.toNat < 4 ∨ s.jobPackets s.focus.msg.pasid = 0) then 2 else 0) 0 0 := by
  refine (State.pcancel_items hi h (State.cancelItems_known hls)).trans (if_neg ?_)
  dsimp only
  split <;> decide

theorem State.pcount_answers {n a b : Nat} (hn : p.p0.toNat = n)
    (hc : s.countItems s.focus.msg.at_.die s.focus.msg.pasid n p.p1.toNat = (a, b, 0)) : s.pcount p = s.answer s.focus.msg 0 a b := by
  subst hn
  exact State.pcount_items hi h hc

theorem State.pcount_launch {l : Nat} (h1 : p.p0.toNat = 1)
    (hl : s.levelItems s.focus.msg.at_.die s.focus.msg.pasid p.p0.toNat p.p1.toNat = some [l]) :
    s.pcount p = if (s.launch l).open_ then s.answer s.focus.msg 0 (s.exitsOwed l) (if s.writesPending l then 1 else 0) else s.answer s.focus.msg 0 0 0 := by
  rw [h1] at hl
  have hc := State.countItems_launch hl
  cases ho : (s.launch l).open_ with
  | true => exact State.pcount_answers hi h h1 (hc.trans (if_pos ho))
  | false => exact State.pcount_answers hi h h1 (hc.trans (if_neg (by simp [ho])))

variable {ls : List Nat} (hls : s.levelItems s.focus.msg.at_.die s.focus.msg.pasid p.p0.toNat p.p1.toNat = some ls)
include hls

theorem State.pcount_graph (h2 : p.p0.toNat = 2) : s.pcount p = s.answer s.focus.msg 0 (s.openOf ls).length 0 := by
  rw [h2] at hls
  exact State.pcount_answers hi h h2 (State.countItems_graph hls)

theorem State.pcount_job (h4 : p.p0.toNat = 4) : s.pcount p = s.answer s.focus.msg 0 (s.jobPackets s.focus.msg.pasid) 0 := by
  rw [h4] at hls
  exact State.pcount_answers hi h h4 (State.countItems_job hls)

end ItemMessages

/-! ### PALMR (05 R218) -/

/-- The exclusive almanac slots of a message's job. -/
def State.ownSlots (s : State) (m : Msg) : Tab AlmSlot := (s.ring m.at_).almanac.filter fun a => decide (a.2.pasid = m.pasid) && !a.2.shared

section Palmr
variable {s : State}

theorem State.palmr_refused {p : Params} (h : p ≠ ⟨0, 0, 0, 0⟩) : s.palmr p = s.refuse s.focus.msg 0x0306 := if_pos (.inl h)

theorem State.palmr_answers (hi : s.focus.msg.inst < 16) : s.palmr ⟨0, 0, 0, 0⟩ =
    s.answer s.focus.msg 0 (s.ownSlots s.focus.msg).length (((s.ownSlots s.focus.msg).head?.map Prod.fst).getD 0xFFFFFFFF) := by
  unfold State.palmr
  dsimp only
  rw [if_neg (by simpa using hi)]
  rfl

end Palmr

/-! ### PSTAT (05 R218) -/

/-- The parameters that PSTAT accepts: a launch number of the die that TINST names, and a stage or none. -/
def Msg.namesStage (m : Msg) (p : Params) : Prop :=
  (p.p0.toNat / 2 ^ 22 = m.inst / 4 ∧ m.inst % 4 = 0) ∧ bits p.p1.toNat 30 16 = 0 ∧ p.p2 = 0 ∧ p.p3 = 0

section Pstat
variable {s : State} {p : Params} (hi : s.focus.msg.inst < 16)
include hi

theorem State.pstat_named :
    (bits p.p0.toNat 31 24 ≠ 0 ∨ bits p.p1.toNat 30 16 ≠ 0 ∨ p.p2 ≠ 0 ∨ p.p3 ≠ 0 ∨ !s.focus.msg.namesDie p.p0.toNat) ↔ ¬s.focus.msg.namesStage p := by
  rw [Msg.namesStage, ← Msg.namesDie_iff hi]
  simp only [not_and_or, Bool.not_eq_true, Bool.not_eq_true', ne_eq]
  tauto

theorem State.pstat_refused (h : ¬s.focus.msg.namesStage p) : s.pstat p = s.refuse s.focus.msg 0x0306 := by
  unfold State.pstat
  exact if_pos ((State.pstat_named hi).2 h)

variable (h : s.focus.msg.namesStage p)
include h

theorem State.pstat_unknown (hl : s.jobLaunch s.focus.msg p.p0.toNat = none) : s.pstat p = s.refuse s.focus.msg 0x0307 := by
  unfold State.pstat
  refine (if_neg (not_not.2 h ∘ (State.pstat_named hi).1)).trans ?_
  rw [hl]

theorem State.pstat_known {l : Nat} (hl : s.jobLaunch s.focus.msg p.p0.toNat = some l) :
    s.pstat p =
      if bit p.p1.toNat 31 then
        if (s.launch l).stages ≤ bits p.p1.toNat 15 0 then s.refuse s.focus.msg 0x0306
        else s.answer s.focus.msg 0 (s.regionWord l) ((s.stageHeld l (bits p.p1.toNat 15 0)).getD 0xFFFFFFFF)
      else s.answer s.focus.msg 0 (s.regionWord l) 0 := by
  unfold State.pstat
  refine (if_neg (not_not.2 h ∘ (State.pstat_named hi).1)).trans ?_
  rw [hl]

end Pstat

/-- The top bit of a word. -/
theorem Word.bit_top (x : Word) : bit x.toNat 31 = decide (2 ^ 31 ≤ x.toNat) := by
  have hx := x.isLt
  rw [Bool.eq_iff_iff, bit, beq_iff_eq, decide_eq_true_eq]
  omega

theorem State.regionWord_placed {s : State} {l : Nat} {g : Seg} (hg : (s.launch l).segs = [g]) (hi : (s.launch l).ical = false) :
    s.regionWord l = (s.launch l).state.code * 2 ^ 28 + l / 4096 * 2 ^ 26 + (g.ring.val * 2 ^ 24 + g.page.val * 2 ^ 21 + g.ctx.toNat * 2 ^ 11) +
      (s.launch l).pages * 2 ^ 17 := by
  unfold State.regionWord
  simp only [hg, hi, List.head?_cons, Bool.false_eq_true, if_false]

/-- PCANCEL, PCOUNT, PALMR and PSTAT, each by whether its parameters are in order and what they name. -/
theorem itemMessages : Claim.ItemMessages := by
  intro s p n m level open_ own items good goodStat stage hi
  have hgood : goodStat ↔ m.namesStage p := by rw [Msg.namesStage, and_assoc]
  refine ⟨State.cancelLaunch_marks, fun h => ⟨?_, ?_⟩, fun h hn => ⟨?_, ?_⟩, fun h ls hls => ⟨?_, fun h1 l hl => ?_, fun h2 => ?_, fun h4 => ?_⟩,
    ?palmr, ?palmrBad, ?statBad, ?statUnknown, ?stat⟩
  · rw [exec_pcancel, State.pcancel_refused hi h]
  · rw [exec_pcount, State.pcount_refused hi h]
  · rw [exec_pcancel, State.pcancel_items hi h (State.cancelItems_unknown hn)]
    rfl
  · rw [exec_pcount, State.pcount_items hi h (State.countItems_unknown hn)]
    rfl
  · exact (exec_pcancel s p).trans (congrArg Host.Outcome.next (State.pcancel_known hi h hls))
  · subst hl
    exact (exec_pcount s p).trans (congrArg Host.Outcome.next (State.pcount_launch hi h h1 hls))
  · exact (exec_pcount s p).trans (congrArg Host.Outcome.next (State.pcount_graph hi h hls h2))
  · exact (exec_pcount s p).trans (congrArg Host.Outcome.next (State.pcount_job hi h hls h4))
  case palmr =>
    rintro rfl
    rw [exec_palmr, State.palmr_answers hi]
    rfl
  case palmrBad => exact fun h => by rw [exec_palmr, State.palmr_refused h]
  case statBad => exact fun h => by rw [exec_pstat, State.pstat_refused hi (mt hgood.2 h)]
  case statUnknown => exact fun h hl => by rw [exec_pstat, State.pstat_unknown hi (hgood.1 h) hl]
  case stat =>
    intro h l hl hp
    have heq := State.pstat_known hi (hgood.1 h) (State.jobLaunch_of hl hp)
    rw [Word.bit_top] at heq
    refine ⟨fun hlow => ?_, fun hhigh hst => ?_, fun hhigh hst => ?_, fun g => State.regionWord_placed⟩
    · rw [exec_pstat, heq, if_neg (by simpa using hlow)]
    · rw [exec_pstat, heq, if_pos (by simpa using hhigh), if_neg (Nat.not_le.2 hst)]
    · rw [exec_pstat, heq, if_pos (by simpa using hhigh), if_pos hst]

/-! ### PLAUNCH (05 R199, R203) -/

/-- The launch that a PLAUNCH of a firing of launch `l` presents. -/
def State.childOf (s : State) (m : Msg) (p : Params) (l : Nat) : Present :=
  let x := s.launch l
  { pasid := x.pasid, qid := x.qid, pseq := x.pseq, device := true, parent := some l, graph := x.graph, phase := x.phase,
    prio := .ofNat 8 (bits p.p3.toNat 7 0), rscope := .ofNat 3 (bits p.p3.toNat 10 8), deps := [], parentOps := m.ops,
    iridx := .ofNat 16 (bits p.p0.toNat 31 16), ioff := .ofNat 48 (64 * p.p1.toNat), aridx := .ofNat 16 (bits p.p0.toNat 15 0),
    aoff := .ofNat 48 (64 * p.p2.toNat), void := false }

/-- What the sender of a PLAUNCH is told of its launch. -/
def Accepted.reply (s : State) (m : Msg) : Accepted → State
  | .wait u => u.holdMsg m
  | .fault u => u.refuse m 3
  | .refused st => s.refuse m st
  | .taken u j => u.answer m 0 (launchNumber j (u.launch j)) 0

section Plaunch
variable {s : State} {p : Params} {k l : Nat} {ical : Bool} {islot : Fin 16} {ctx : BitVec 6} {iter : BitVec 12}
  (hm : s.focus.msg.sender = .elem k ical islot l ctx iter)
include hm

theorem Msg.ring_of_elem : s.focus.msg.ring = (ElemAt.ofKey k).at_.ring := by
  unfold Msg.ring Msg.el
  rw [hm]

theorem Msg.launch_of_elem : s.focus.msg.launch = l := by
  unfold Msg.launch
  rw [hm]

theorem State.plaunch_eq : s.plaunch p =
    if p.p3.toNat < 2 ^ 11 ∧ bits p.p3.toNat 10 8 < 6 ∧ s.focus.msg.inst = 4 * (ElemAt.ofKey k).at_.ring.die.val then
      (s.present (ElemAt.ofKey k).at_.ring.die (s.childOf s.focus.msg p l)).reply s s.focus.msg
    else s.refuse s.focus.msg 0x0306 := by
  unfold State.plaunch
  dsimp only
  rw [Msg.ring_of_elem hm, Msg.launch_of_elem hm, hm, ← ite_not]
  dsimp only
  refine if_congr ?_ rfl ?_
  · rw [← Word.bits_top p.p3 (by decide)]
    simp only [not_and_or, Nat.not_lt, ne_eq]
  · show _ = Accepted.reply s s.focus.msg (s.present _ (s.childOf s.focus.msg p l))
    unfold State.childOf Accepted.reply
    rfl

end Plaunch

/-- A PLAUNCH in order is answered by what its launch comes to when it is presented. -/
theorem launchMessages : Claim.LaunchMessages := by
  intro s p k l ical islot ctx iter m x d q good hm
  have heq : exec (.plaunch p) s = .next (if good then (s.present d q).reply s m else s.refuse m 0x0306) :=
    (exec_plaunch s p).trans (congrArg Host.Outcome.next (State.plaunch_eq hm))
  refine ⟨fun h => by rw [heq, if_neg h], fun h => ?_⟩
  rw [heq, if_pos h]
  exact ⟨fun u j hq => by rw [hq]; rfl, fun st hq => by rw [hq]; rfl, fun u hq => by rw [hq]; rfl, fun u hq => by rw [hq]; rfl⟩

/-- Settles O34: each message by its parameters and what they name; a cancel's mark, which nothing that the cancel withdraws or answers takes away; and
PLAUNCH by what its launch comes to when it is presented. -/
theorem itemAndLaunchMessages : Obligations.ItemAndLaunchMessages := ⟨itemMessages, launchMessages⟩

end Sys2Proof.Machine

/-! PROOFS. Reductions: the tree level by level, and its roots over I32 (07 R253; 09 R334). -/

namespace Sys2Proof.Machine

/-! ### Levels of the tree (07 R253) -/

section Tree
variable {op : Nat → Nat → Word → Nat × Word}

theorem reduceLevel_length (xs : List Nat) (l : Word) : (reduceLevel op xs l).1.length = (xs.length + 1) / 2 := by
  induction xs, l using reduceLevel.induct op with
  | case1 l => rfl
  | case2 x l => simp [reduceLevel]
  | case3 x y xs l p ih =>
    simp only [p] at ih
    simp only [reduceLevel, List.length_cons, ih]
    omega

theorem reduceLevel_short {xs : List Nat} (h : xs.length ≤ 1) (l : Word) : reduceLevel op xs l = (xs, l) := by
  match xs, h with
  | [], _ => rfl
  | [x], _ => rfl

theorem treeReduce_length_le {k : Nat} {xs : List Nat} (h : xs.length ≤ 2 ^ k) (l : Word) : (treeReduce op k xs l).1.length ≤ 1 := by
  induction k generalizing xs l with
  | zero => exact h
  | succ k ih => exact ih (by rw [reduceLevel_length]; rw [Nat.pow_succ] at h; omega) _

theorem treeReduce_ne_nil {k : Nat} {xs : List Nat} (h : xs ≠ []) (l : Word) : (treeReduce op k xs l).1 ≠ [] := by
  induction k generalizing xs l with
  | zero => exact h
  | succ k ih =>
    refine ih (List.ne_nil_of_length_pos ?_) _
    have := List.length_pos_of_ne_nil h
    rw [reduceLevel_length]; omega

/-- At most 2^k elements have one root at `k` levels. -/
theorem treeReduce_root {k : Nat} {xs : List Nat} (h0 : xs ≠ []) (h : xs.length ≤ 2 ^ k) (l : Word) : ∃ a, (treeReduce op k xs l).1 = [a] :=
  List.length_eq_one_iff.1 (le_antisymm (treeReduce_length_le h l) (List.length_pos_of_ne_nil (treeReduce_ne_nil h0 l)))

/-- The last level of a tree takes what the levels before it leave. -/
theorem treeReduce_succ (k : Nat) (xs : List Nat) (l : Word) :
    treeReduce op (k + 1) xs l = reduceLevel op (treeReduce op k xs l).1 (treeReduce op k xs l).2 := by
  induction k generalizing xs l with
  | zero => rfl
  | succ k ih => exact ih _ _

/-- A level more passes a root through. -/
theorem treeReduce_passes {k : Nat} {xs : List Nat} (h : xs.length ≤ 2 ^ k) (l : Word) : treeReduce op (k + 1) xs l = treeReduce op k xs l := by
  rw [treeReduce_succ, reduceLevel_short (treeReduce_length_le h l)]

/-- What holds of the elements and is kept by the node holds throughout the tree. -/
theorem treeReduce_forall {P : Nat → Prop} (hop : ∀ a b l, P a → P b → P (op a b l).1) (k : Nat) {xs : List Nat} (h : ∀ x ∈ xs, P x) (l : Word) :
    ∀ x ∈ (treeReduce op k xs l).1, P x := by
  have level : ∀ (xs : List Nat) (l : Word), (∀ x ∈ xs, P x) → ∀ x ∈ (reduceLevel op xs l).1, P x := by
    intro xs l
    induction xs, l using reduceLevel.induct op with
    | case1 l => exact id
    | case2 x l => exact id
    | case3 x y xs l p ih =>
      intro h
      simp only [List.forall_mem_cons] at h
      simp only [reduceLevel, List.forall_mem_cons]
      exact ⟨hop x y l h.1 h.2.1, ih h.2.2⟩
  induction k generalizing xs l with
  | zero => exact h
  | succ k ih => exact ih (level xs l h) _

/-- What holds of an element and passes from either input of a node to its result holds somewhere in every level. -/
theorem treeReduce_exists {P : Nat → Prop} (hop : ∀ a b l, P a ∨ P b → P (op a b l).1) (k : Nat) {xs : List Nat} (h : ∃ x ∈ xs, P x) (l : Word) :
    ∃ x ∈ (treeReduce op k xs l).1, P x := by
  have level : ∀ (xs : List Nat) (l : Word), (∃ x ∈ xs, P x) → ∃ x ∈ (reduceLevel op xs l).1, P x := by
    intro xs l
    induction xs, l using reduceLevel.induct op with
    | case1 l => exact id
    | case2 x l => exact id
    | case3 x y xs l p ih =>
      simp only [reduceLevel, List.exists_mem_cons_iff]
      rintro (hx | hy | h)
      · exact .inl (hop x y l (.inl hx))
      · exact .inl (hop x y l (.inr hy))
      · exact .inr (ih h)
  induction k generalizing xs l with
  | zero => exact h
  | succ k ih => exact ih (level xs l h) _

/-- A quantity that each node adds is the same for every level. -/
theorem treeReduce_sum {M : Type} [AddCommMonoid M] {w : Nat → M} (hop : ∀ a b l, w (op a b l).1 = w a + w b) (k : Nat) (xs : List Nat) (l : Word) :
    ((treeReduce op k xs l).1.map w).sum = (xs.map w).sum := by
  have level : ∀ (xs : List Nat) (l : Word), ((reduceLevel op xs l).1.map w).sum = (xs.map w).sum := by
    intro xs l
    induction xs, l using reduceLevel.induct op with
    | case1 l => rfl
    | case2 x l => rfl
    | case3 x y xs l p ih =>
      simp only [p] at ih
      simp only [reduceLevel, List.map_cons, List.sum_cons, ih, hop, add_assoc]
  induction k generalizing xs l with
  | zero => rfl
  | succ k ih => exact (ih _ _).trans (level xs l)

end Tree

/-! ### A tree whose nodes leave the LFSR -/

section Pure
variable (g : Nat → Nat → Nat)

/-- A node that does not step the LFSR. -/
def pureNode (a b : Nat) (l : Word) : Nat × Word := (g a b, l)

theorem reduceLevel_pure_snd (xs : List Nat) (l : Word) : (reduceLevel (pureNode g) xs l).2 = l := by
  induction xs, l using reduceLevel.induct (pureNode g) with
  | case1 l => rfl
  | case2 x l => rfl
  | case3 x y xs l p ih => exact ih

theorem reduceLevel_pure_append {ys : List Nat} (h : ys.length % 2 = 0) (zs : List Nat) (l : Word) :
    (reduceLevel (pureNode g) (ys ++ zs) l).1 = (reduceLevel (pureNode g) ys l).1 ++ (reduceLevel (pureNode g) zs l).1 := by
  induction ys, l using reduceLevel.induct (pureNode g) with
  | case1 l => rfl
  | case2 x l => cases h
  | case3 x y ys l p ih => exact congrArg _ (ih (by simp only [List.length_cons] at h; omega))

/-- The first half of a tree, when full, has a root of its own. -/
theorem treeReduce_pure_append {k : Nat} {ys : List Nat} (h : ys.length = 2 ^ k) (zs : List Nat) (l : Word) :
    (treeReduce (pureNode g) k (ys ++ zs) l).1 = (treeReduce (pureNode g) k ys l).1 ++ (treeReduce (pureNode g) k zs l).1 := by
  induction k generalizing ys zs l with
  | zero => rfl
  | succ k ih =>
    rw [Nat.pow_succ] at h
    simp only [treeReduce, reduceLevel_pure_snd]
    rw [reduceLevel_pure_append g (by omega)]
    exact ih (by rw [reduceLevel_length]; omega) _ _

/-- A full first half and what lies beyond it: the node over their two roots. -/
theorem treeReduce_pure_halves {k : Nat} {xs : List Nat} (h : 2 ^ k < xs.length) {a b : Nat} {l : Word}
    (ha : (treeReduce (pureNode g) k (xs.take (2 ^ k)) l).1 = [a]) (hb : (treeReduce (pureNode g) k (xs.drop (2 ^ k)) l).1 = [b]) :
    (treeReduce (pureNode g) (k + 1) xs l).1 = [g a b] := by
  have hroots : (treeReduce (pureNode g) k xs l).1 = [a, b] := by
    rw [← List.take_append_drop (2 ^ k) xs, treeReduce_pure_append g (List.length_take_of_le h.le), ha, hb]
    rfl
  rw [treeReduce_succ, hroots]
  rfl

end Pure

/-- The tree by its levels, its LFSR in order, and what its nodes are. -/
theorem reductionTree : Claim.ReductionTree := by
  refine ⟨fun g k xs l => ⟨fun h0 h => treeReduce_root h0 h l, fun a => rfl, fun h => congrArg Prod.fst (treeReduce_passes h l),
    fun h _ a b ha hb => treeReduce_pure_halves g h ha hb⟩, fun op a b c d l => rfl, fun x a b l hf => ?_⟩
  have hi : x.f ≠ .i32 := fun h => by rw [h] at hf; cases hf
  refine ⟨fun h => ?_, fun h => ?_, fun less => if_neg hi⟩
  · rw [sumNode, if_neg hi, roundStep, if_neg h]
  · rw [sumNode, if_neg hi, roundStep, if_pos h, h]

/-! ### Words as I32 elements -/

/-- The word of an I32 element. -/
abbrev word (e : Nat) : Word := BitVec.ofNat 32 e

theorem sval_word (e : Nat) : sval e = (word e).toInt := by
  unfold sval toInt word
  rw [BitVec.toInt_eq_toNat_cond, BitVec.toNat_ofNat]
  split <;> split <;> first | rfl | omega

theorem word_ofInt (z : Int) : word (ofInt 32 z) = BitVec.ofInt 32 z := by
  apply BitVec.eq_of_toNat_eq
  have h0 : (0 : Int) ≤ z % (2 ^ 32 : Nat) := Int.emod_nonneg _ (by decide)
  have h1 : z % (2 ^ 32 : Nat) < (2 ^ 32 : Nat) := Int.emod_lt_of_pos _ (by decide)
  rw [BitVec.toNat_ofNat, BitVec.toNat_ofInt, ofInt, Nat.mod_eq_of_lt (by omega)]

/-! ### Roots over I32 (09 R334) -/

theorem canonElem_i32 (e : Nat) : canonElem .i32 e = e := rfl

/-- A body of one I32 element. -/
theorem mkReg_one (r : Nat) : mkReg .i32 0 [r] = laneReg .i32 0 fun _ => word r := mkReg_i32 .i32 rfl 0 fun _ => r

/-- What RMAX and RMIN make greatest: the signed value of a word, or its negative. -/
def rank (less : Bool) (w : Word) : Int := if less then -w.toInt else w.toInt

theorem rank_inj {less : Bool} {v w : Word} (h : rank less v = rank less w) : v = w := by
  cases less
  · exact BitVec.eq_of_toInt_eq h
  · exact BitVec.eq_of_toInt_eq (by simpa [rank] using h)

theorem rank_pickNode (less : Bool) (a b : Nat) (l : Word) :
    rank less (word (pickNode .i32 less a b l).1) = max (rank less (word a)) (rank less (word b)) := by
  have hfit : ∀ v : Word, BitVec.ofInt 32 v.toInt = v := fun v => BitVec.ofInt_toInt
  rw [pickNode, if_pos rfl, word_ofInt, sval_word, sval_word]
  cases less
  · rcases le_total (word a).toInt (word b).toInt with h | h <;> simp [rank, h]
  · rcases le_total (word a).toInt (word b).toInt with h | h <;> simp [rank, h]

section I32
variable {x : OpIn} (hf : x.f = .i32)
include hf

/-- The leaves of a reduction over I32 are the valid lanes. -/
theorem reduce_i32 (op : Nat → Nat → Word → Nat × Word) : ∃ r,
    (reduce op (canonElem x.f) x).1 = laneReg .i32 0 (fun _ => word r) ∧
      (treeReduce op 5 ((List.range (x.a.vlen.val + 1)).map fun i => (x.a.lane i).toNat) x.lfsr).1 = [r] := by
  have hl : (x.elems x.a x.a.vlen.val).map (canonElem x.f) = (List.range (x.a.vlen.val + 1)).map fun i => (x.a.lane i).toNat := by
    rw [OpIn.elems, hf, validElems_i32, List.map_map]
    rfl
  obtain ⟨r, hr⟩ := treeReduce_root (op := op) (k := 5) (xs := (List.range (x.a.vlen.val + 1)).map fun i => (x.a.lane i).toNat) (by simp)
    (by simp; omega) x.lfsr
  refine ⟨r, ?_, hr⟩
  rw [reduce, hl, hf]
  dsimp only
  rw [hr, mkReg_one]

/-- The root of RSUM is the wrapped sum of the valid lanes. -/
theorem opRsum_i32 : (opRsum x).1 = laneReg .i32 0 fun _ => ((List.range (x.a.vlen.val + 1)).map x.a.lane).foldl (· + ·) 0 := by
  obtain ⟨r, hreg, hroot⟩ := reduce_i32 hf (sumNode x)
  have hnode : ∀ a b l, word (sumNode x a b l).1 = word a + word b := by
    intro a b l
    rw [sumNode, if_pos hf, word_ofInt, sval_word, sval_word, BitVec.ofInt_add, BitVec.ofInt_toInt, BitVec.ofInt_toInt]
  have hsum := treeReduce_sum (w := word) hnode 5 ((List.range (x.a.vlen.val + 1)).map fun i => (x.a.lane i).toNat) x.lfsr
  rw [hroot, List.map_map, List.map_singleton, List.sum_singleton] at hsum
  rw [opRsum, hreg, hsum, ← List.sum_eq_foldl]
  congr 2
  funext _
  congr 2
  funext i
  simp

/-- The root of RMAX and RMIN is the lane of the highest rank. -/
theorem reduce_pick_i32 (less : Bool) {k : Nat} (hk : k ≤ x.a.vlen.val) (h : ∀ i ≤ x.a.vlen.val, rank less (x.a.lane i) ≤ rank less (x.a.lane k)) :
    (reduce (pickNode x.f less) (canonElem x.f) x).1 = laneReg .i32 0 fun _ => x.a.lane k := by
  obtain ⟨r, hreg, hroot⟩ := reduce_i32 hf (pickNode x.f less)
  have hle := treeReduce_forall (P := fun e => rank less (word e) ≤ rank less (x.a.lane k)) (op := pickNode x.f less)
    (fun a b l ha hb => by rw [hf, rank_pickNode]; exact max_le ha hb) 5
    (xs := (List.range (x.a.vlen.val + 1)).map fun i => (x.a.lane i).toNat) (by simpa [Nat.lt_succ_iff] using h) x.lfsr
  have hge := treeReduce_exists (P := fun e => rank less (x.a.lane k) ≤ rank less (word e)) (op := pickNode x.f less)
    (fun a b l h => by rw [hf, rank_pickNode]; exact le_max_iff.2 h) 5
    (xs := (List.range (x.a.vlen.val + 1)).map fun i => (x.a.lane i).toNat)
    ⟨_, List.mem_map.2 ⟨k, List.mem_range.2 (Nat.lt_succ_of_le hk), rfl⟩, by simp⟩ x.lfsr
  rw [hroot] at hle hge
  have hr : word r = x.a.lane k := rank_inj (le_antisymm (by simpa using hle) (by simpa using hge))
  rw [hreg, hr]

end I32

/-- A reduction gives the root of its tree; over I32 the sum, the greatest and the least of the lanes. -/
theorem reductionResults' : Claim.ReductionResults := by
  intro s a d t q x A f es hc ht
  refine ⟨fun hf => ?_, fun hf => ?_⟩
  · have hw : setW f = true := by rw [hf]; rfl
    refine ⟨fire1_gives rfl hw hc ht (opRsum_i32 hf), fun k hk h => ?_, fun k hk h => ?_⟩
    · exact fire1_gives rfl hw hc ht (reduce_pick_i32 hf false hk h)
    · exact fire1_gives rfl hw hc ht (reduce_pick_i32 hf true hk fun i hi => neg_le_neg (h i hi))
  · have hw : setW f = true := by simp [setW, hf]
    exact ⟨fire1_gives rfl hw hc ht rfl, fire1_gives rfl hw hc ht rfl, fire1_gives rfl hw hc ht rfl, fire1_gives (set := setF) rfl hf hc ht rfl⟩

/-- Settles O5: the tree by induction on its levels; over I32 its node adds words, or keeps the higher rank of two. -/
theorem reductionResults : Obligations.ReductionResults := ⟨reductionResults', reductionTree⟩

end Sys2Proof.Machine

/-! PROOFS. What a firing without a fault leaves: its plane, its ring's scale file and its queues (08 R287, R291). -/

namespace Sys2Proof.Machine

/-! ### The rings and queues at the commit -/

theorem State.claim_rings (s : State) (x : Firing) (q : Bool) : (s.claim x q).rings = s.rings := by
  unfold State.claim
  dsimp only
  split
  · rfl
  · split
    · rfl
    · split <;> rfl

theorem Elem.queue_setPlane (e : Elem) (i j : Bool) (p : Plane) (c : Fin 8) : (e.setPlane i p).queue j c = e.queue j c := by
  cases i <;> cases j <;> rfl

theorem State.stage_queue (s : State) (e : ElemAt) (i j : Bool) (c : Fin 8) (t : Token) (n : Fin 8) :
    ((s.stage e i c t).elem e).queue j n = (s.elem e).queue j n := by
  rw [State.stage, State.elem_onElem]
  cases j <;> rfl

theorem State.scl_onScl (s : State) (e : ElemAt) (f : Scl → Scl) : (s.onScl e f).scl e = f (s.scl e) := by
  rw [State.scl, State.onScl, State.ring_onRing, State.scl]

section Commit
variable {s : State} {c : Commit} (ht : s.tagFaults s.firing c.tag c.b (c.results.any fun p => isOut p.1) = []) (hf : c.faults = [])
include ht hf

/-- What else a firing does acts on the rings as they were. -/
theorem State.commit_world : ∃ t : State, s.commit s.firing c = c.world t ∧ t.rings = s.rings := by
  rw [State.commit_ok ht hf]
  refine ⟨_, rfl, ?_⟩
  rw [foldl_keeps State.rings _ (by intros; rfl), State.onElem_rings, State.tagState_rings, State.claim_rings]

/-- The scale file of its ring after a firing: what else the firing does, done to the file as it was. -/
theorem State.commit_scl (P : Scl → Prop) (hw : ∀ t : State, t.scl s.firing.el = s.scl s.firing.el → P ((c.world t).scl s.firing.el)) :
    P ((s.commit s.firing c).scl s.firing.el) := by
  obtain ⟨t, hc, hr⟩ := State.commit_world ht hf
  rw [hc]
  exact hw t (by rw [State.scl, State.scl, State.ring_of_rings hr])

/-- A part of its plane that its results and its beats do not touch is as the firing's own write leaves it. -/
theorem State.commit_plane {α : Type} (g : Plane → α) (hg : ∀ p ds ps bs, g { p with d := ds, p := ps, beat := bs } = g p)
    (hw : ∀ t, (c.world t).elems = t.elems) :
    g (((s.commit s.firing c).elem s.firing.el).plane s.firing.ical) = g (c.plane s.firing.pl) := by
  have hwrite : ∀ (p : Plane) (r : BitVec 5 × Reg), g (p.write r.1 r.2) = g p := by
    intro p r
    unfold Plane.write
    dsimp only
    split
    · exact hg p _ p.p p.beat
    · split
      · exact hg p p.d _ p.beat
      · rfl
  rw [State.commit_ok ht hf, State.commitOk_plane s s.firing c hw]
  exact (hg _ _ _ _).trans (foldl_keeps g _ hwrite _ _)

/-- A firing of one result delivers it. -/
theorem State.commit_delivers {d : BitVec 5} {r : Reg} (hr : c.results = [(d, r)]) (hw : ∀ t, (c.world t).elems = t.elems) :
    Delivered s (s.commit s.firing c) d c.tag r := by
  rw [State.commit_ok ht hf]
  exact State.commitOk_delivers s c d r hr hw

/-- With Q = 1 the queues of its element stay. -/
theorem State.commit_queue (hq : c.q = true) (hw : ∀ t, (c.world t).elems = t.elems) (i : Bool) (n : Fin 8) :
    ((s.commit s.firing c).elem s.firing.el).queue i n = (s.elem s.firing.el).queue i n := by
  rw [State.commit_ok ht hf]
  unfold State.commitOk
  dsimp only
  rw [State.elem_of_elems (hw _), foldl_keeps (fun t : State => (t.elem s.firing.el).queue i n) _ (fun b a => State.stage_queue b _ _ _ _ _ _) _ _,
    State.elem_onElem, Elem.queue_setPlane, State.elem_of_elems (State.tagState_elems _ _ _ _ _), State.claim, if_pos hq]

end Commit

/-- The tags of a firing of one result, or of none. -/
theorem State.tagsFit_one {s : State} {t : BitVec 4} {b : Reg} {d : BitVec 5} (h : s.tagsFit t b (isOut d)) (r : Reg) :
    s.tagFaults s.firing t b (([(d, r)] : List (BitVec 5 × Reg)).any fun p => isOut p.1) = [] := by
  rw [List.any_cons, List.any_nil, Bool.or_false]
  exact h

end Sys2Proof.Machine

/-! PROOFS. AMAX, the LFSR and exits (07 R249, R262, R270; 08 R299; 09 R338, R341). -/

namespace Sys2Proof.Machine

/-! ### What a read of AMAX finds (08 R299) -/

/-- What is given by iterations that are still speculative, or killed, stays held. -/
theorem settle_kept {a : Alloc} {hs : List AmaxHeld} (h : ∀ x ∈ hs, x.fixed = false ∧ (a.isSpec x.iter = true ∨ a.isKilled x.iter = true)) (p : Plane) :
    hs.foldl (AmaxHeld.settle a) p = { p with amaxHeld := p.amaxHeld ++ hs } := by
  induction hs generalizing p with
  | nil => simp
  | cons x xs ih =>
    obtain ⟨hfix, hspec⟩ := h x List.mem_cons_self
    have hkeep : AmaxHeld.settle a p x = { p with amaxHeld := p.amaxHeld ++ [x] } := by
      unfold AmaxHeld.settle
      exact if_pos (by simpa [hfix] using hspec)
    rw [List.foldl_cons, hkeep, ih fun y hy => h y (List.mem_cons_of_mem _ hy)]
    simp

/-- A read of AMAX does not count them. -/
theorem readAmax_kept {a : Alloc} {p : Plane} (h : ∀ x ∈ p.amaxHeld, x.fixed = false ∧ (a.isSpec x.iter = true ∨ a.isKilled x.iter = true)) :
    p.readAmax a = (p.amax, p.amaxNan) := by
  have hnone : (p.amaxHeld.filter fun x => x.fixed && x.desc.isNone) = [] :=
    List.filter_eq_nil_iff.2 fun x hx => by simp [(h x hx).1]
  unfold Plane.readAmax Plane.settleAmax
  rw [settle_kept h]
  dsimp only
  rw [List.nil_append, hnone]
  rfl

/-- What a confirmed iteration gave counts. -/
theorem readAmax_confirmed {a : Alloc} {p : Plane} {x : AmaxHeld} (hp : p.amaxHeld = [x]) (hd : x.desc = none) (hc : x.clear = false)
    (hs : a.isSpec x.iter = false) (hk : a.isKilled x.iter = false) : p.readAmax a = amaxJoin (p.amax, p.amaxNan) (x.amax, x.nan) := by
  have hrel : AmaxHeld.settle a { p with amaxHeld := [] } x = AmaxHeld.release { p with amaxHeld := [] } x := by
    simp [AmaxHeld.settle, hs, hk, hc]
  unfold Plane.readAmax Plane.settleAmax
  rw [hp, List.foldl_cons, List.foldl_nil, hrel]
  simp only [AmaxHeld.release, hd]
  rfl

/-! ### The token of AMAXRD and those of RAND -/

/-- A body of 32-bit elements given by words. -/
theorem mkReg_words {f : Fmt} (hf : f.width = 32) (v : Nat) (g : Nat → Word) :
    mkReg f v ((List.range (v + 1)).map fun i => (g i).toNat) = laneReg f v g :=
  (mkReg_i32 f hf v _).trans (laneReg_congr f v fun _ => BitVec.ofNat_toNat ..)

theorem amaxrd_reg (r : Word × Bool) :
    mkReg .f32 1 [r.1.toNat, if r.2 then 0x3F800000 else 0] = laneReg .f32 1 fun i => if i = 0 then r.1 else if r.2 then 0x3F800000 else 0 := by
  rw [← mkReg_words rfl]
  congr 1
  cases r.2 <;> rfl

theorem lfsrRun_fst (n : Nat) (l : Word) : (lfsrRun n l).1 = (List.range n).map fun i => (lfsrAfter (i + 1) l).toNat := by
  induction n generalizing l with
  | zero => rfl
  | succ n ih =>
    rw [List.range_succ_eq_map, List.map_cons, List.map_map]
    exact congrArg (_ :: ·) (ih _)

theorem lfsrRun_snd (n : Nat) (l : Word) : (lfsrRun n l).2 = lfsrAfter n l := by
  induction n generalizing l with
  | zero => rfl
  | succ n ih => exact ih _

theorem opRand_reg (x : Firing) : (opRand (x.opIn 24 24 24)).1 = laneReg .i32 15 fun i => lfsrAfter (i + 1) x.pl.lfsr := by
  rw [opRand, lfsrRun_fst]
  exact mkReg_words rfl 15 _

/-- AMAXCLR leaves of AMAX what it makes of it. -/
theorem fireAmaxclr_plane {s : State} {t : BitVec 4} (ht : s.tagsFit t Reg.zero false) {α : Type} (g : Plane → α)
    (hg : ∀ p ds ps bs, g { p with d := ds, p := ps, beat := bs } = g p) :
    g (((fireAmaxclr t s).elem s.firing.el).plane s.firing.ical) = g (s.firing.clearAmax t s.firing.pl) := by
  unfold fireAmaxclr
  exact State.commit_plane (by exact ht) rfl g hg fun _ => rfl

/-- AMAX and the LFSR form by form. -/
theorem amaxAndLfsr : Claim.AmaxAndLfsr := by
  intro s a d t q x A p r held
  refine ⟨fun ht => ⟨fireAmaxrd d t s, rfl, ?_⟩, readAmax_kept, fun h => readAmax_confirmed, fun ht hh => ?_, fun ht hh => ?_,
    fun ht => ⟨fireSeed a t q s, rfl, ?_⟩, fun ht => ⟨fireRand d t s, rfl, ?_, ?_⟩⟩
  · unfold fireAmaxrd
    rw [← amaxrd_reg]
    exact State.commit_delivers (by exact State.tagsFit_one ht _) rfl rfl fun _ => rfl
  · have hz : x.clearAmax t x.pl = x.pl.zeroAmax := if_neg (by rw [show x.holdsAmax t = false from hh]; decide)
    have clear := fun {α : Type} (g : Plane → α) hg => (fireAmaxclr_plane ht g hg).trans (congrArg g hz)
    refine ⟨fireAmaxclr t s, rfl, clear Plane.amax fun _ _ _ _ => rfl, clear Plane.amaxNan fun _ _ _ _ => rfl, fun h hm hn => ?_⟩
    have hm : h ∈ x.pl.zeroAmax.amaxHeld := (clear Plane.amaxHeld fun _ _ _ _ => rfl) ▸ hm
    simpa [hn] using (List.mem_filter.1 hm).2
  · have hz : x.clearAmax t x.pl = { x.pl with amaxHeld := x.pl.amaxHeld ++ [⟨x.ctx, x.iter, none, 0, false, true, false⟩] } := if_pos hh
    have clear := fun {α : Type} (g : Plane → α) hg => (fireAmaxclr_plane ht g hg).trans (congrArg g hz)
    exact ⟨fireAmaxclr t s, rfl, clear Plane.amax fun _ _ _ _ => rfl, clear Plane.amaxNan fun _ _ _ _ => rfl,
      clear Plane.amaxHeld fun _ _ _ _ => rfl⟩
  · unfold fireSeed
    exact State.commit_plane (by exact ht) rfl Plane.lfsr (fun _ _ _ _ => rfl) fun _ => rfl
  · unfold fireRand
    rw [← opRand_reg x]
    exact State.commit_delivers (by exact State.tagsFit_one ht _) rfl rfl fun _ => rfl
  · unfold fireRand
    exact (State.commit_plane (by exact State.tagsFit_one ht _) rfl Plane.lfsr (fun _ _ _ _ => rfl) fun _ => rfl).trans (lfsrRun_snd _ _)

/-! ### Exits (09 R338) -/

theorem Plane.exitCount_countExit (p : Plane) (c : BitVec 6) : (p.countExit c).exitCount c = p.exitCount c + 1 := by
  simp [Plane.countExit, Plane.exitCount, tabGet]

/-- EXIT counts its token, or meets its one condition when the count has reached EXITS. -/
theorem exitCounts : Claim.ExitCounts := by
  intro s a d t q x A f hc ht
  have hop : x.elemOperand f a = [] := Firing.elemOperand_nil hc
  refine ⟨fun h => ?_, fun h => ?_⟩
  · have hf : (x.elemOperand f a ++ if Hdr.exits x.pl.hdr < x.pl.exitCount x.ctx + 1 then [fltExit x.el (Hdr.exits x.pl.hdr)] else []) = [] := by
      rw [hop, if_neg (by omega)]; rfl
    refine ⟨fireExit a d t q s, rfl, ?_, ?_⟩ <;> unfold fireExit
    · exact State.commit_delivers (by exact State.tagsFit_one ht _) hf rfl fun _ => rfl
    · exact (State.commit_plane (by exact State.tagsFit_one ht _) hf (fun p => p.exitCount x.ctx) (fun _ _ _ _ => rfl) fun _ => rfl).trans
        (Plane.exitCount_countExit _ _)
  · have hf : (x.elemOperand f a ++ if Hdr.exits x.pl.hdr < x.pl.exitCount x.ctx + 1 then [fltExit x.el (Hdr.exits x.pl.hdr)] else []) =
        [fltExit x.el (Hdr.exits x.pl.hdr)] := by
      rw [hop, if_pos h]; rfl
    show FaultTaken s (.next (fireExit a d t q s)) _ _
    unfold fireExit
    exact State.commit_takes_only (f := fltExit x.el (Hdr.exits x.pl.hdr)) (by exact State.tagsFit_one ht _) hf rfl

/-- Settles O9: AMAX, the LFSR and exits are parts of the firing's plane, which its results and beats leave as its own write makes them. -/
theorem counterAndExitResults : Obligations.CounterAndExitResults := ⟨amaxAndLfsr, exitCounts⟩

end Sys2Proof.Machine

/-! PROOFS. Exact values as rationals: what a comparison of two of them says, and the power of two below one (07 R265, R268). -/

namespace Sys2Proof.Machine

/-- The value of a finite exact value; of the others 0. -/
def Exact.rat : Exact → ℚ
  | .fin s m e _ => if s then -(m * 2 ^ e) else m * 2 ^ e
  | _ => 0

theorem inUnits_rat (s : Bool) (m : Nat) {e q : Int} (st : Bool) (h : q ≤ e) : (inUnits s m e q : ℚ) * 2 ^ q = (Exact.fin s m e st).rat := by
  have hz : (2 : ℚ) ^ (e - q).toNat * 2 ^ q = 2 ^ e := by
    rw [← zpow_natCast, ← zpow_add₀ (by norm_num)]
    congr 1
    omega
  cases s <;> simp [inUnits, Exact.rat, mul_assoc, hz]

section Cmp
variable {s t : Bool} {m n : Nat} {e k : Int} {a b : Bool}

theorem Exact.units_lt {q : Int} (he : q ≤ e) (hk : q ≤ k) : inUnits s m e q < inUnits t n k q ↔ (Exact.fin s m e a).rat < (Exact.fin t n k b).rat := by
  rw [← inUnits_rat s m a he, ← inUnits_rat t n b hk, mul_lt_mul_iff_left₀ (by positivity), Int.cast_lt]

theorem Exact.cmp_lt : (Exact.fin s m e a).cmp (.fin t n k b) = .lt ↔ (Exact.fin s m e a).rat < (Exact.fin t n k b).rat :=
  compare_lt_iff_lt.trans (Exact.units_lt (min_le_left ..) (min_le_right ..))

theorem Exact.cmp_gt : (Exact.fin s m e a).cmp (.fin t n k b) = .gt ↔ (Exact.fin t n k b).rat < (Exact.fin s m e a).rat :=
  compare_gt_iff_gt.trans (Exact.units_lt (min_le_right ..) (min_le_left ..))

theorem Exact.cmp_eq : (Exact.fin s m e a).cmp (.fin t n k b) = .eq ↔ (Exact.fin s m e a).rat = (Exact.fin t n k b).rat := by
  have hlt := Exact.cmp_lt (s := s) (m := m) (e := e) (a := a) (t := t) (n := n) (k := k) (b := b)
  have hgt := Exact.cmp_gt (s := s) (m := m) (e := e) (a := a) (t := t) (n := n) (k := k) (b := b)
  cases h : (Exact.fin s m e a).cmp (.fin t n k b) with
  | lt => exact ⟨nofun, fun hr => absurd hr (hlt.1 h).ne⟩
  | gt => exact ⟨nofun, fun hr => absurd hr (hgt.1 h).ne'⟩
  | eq =>
    refine ⟨fun _ => le_antisymm (not_lt.1 fun hr => ?_) (not_lt.1 fun hr => ?_), fun _ => rfl⟩
    · rw [h] at hgt; exact nomatch hgt.2 hr
    · rw [h] at hlt; exact nomatch hlt.2 hr

end Cmp

@[simp] theorem Exact.rat_mag (m : Nat) (e : Int) (st : Bool) : (Exact.fin false m e st).rat = m * 2 ^ e := rfl

/-- Magnitudes in units of a common power of two. -/
theorem mul_zpow_lt (a b i j : Nat) (p : Int) : (a : ℚ) * 2 ^ (p + i) < b * 2 ^ (p + j) ↔ a * 2 ^ i < b * 2 ^ j := by
  have h : ∀ (c l : Nat), (c : ℚ) * 2 ^ (p + l) = ((c * 2 ^ l : Nat) : ℚ) * 2 ^ p := by
    intro c l
    rw [zpow_add₀ (by norm_num), zpow_natCast]
    push_cast
    ring
  rw [h, h, mul_lt_mul_iff_left₀ (by positivity), Nat.cast_lt]

/-! ### The power of two below a magnitude -/

theorem bitLen_bounds {m : Nat} (h : m ≠ 0) : 2 ^ (bitLen m - 1) ≤ m ∧ m < 2 ^ (bitLen m - 1 + 1) := by
  rw [bitLen, if_neg h, Nat.add_sub_cancel]
  exact ⟨Nat.log2_self_le h, Nat.lt_log2_self⟩

/-- floor(log2) of a nonzero magnitude. -/
theorem log2_bounds {m : Nat} (h : m ≠ 0) (e : Int) :
    (2 : ℚ) ^ (e + (bitLen m - 1 : Nat)) ≤ m * 2 ^ e ∧ (m : ℚ) * 2 ^ e < 2 ^ (e + (bitLen m - 1 : Nat) + 1) := by
  obtain ⟨hlo, hhi⟩ := bitLen_bounds h
  have h1 := mul_zpow_lt m 1 0 (bitLen m - 1) e
  have h2 := mul_zpow_lt m 1 0 (bitLen m - 1 + 1) e
  simp only [Nat.cast_zero, add_zero, Nat.cast_one, one_mul, pow_zero, mul_one] at h1 h2
  exact ⟨not_lt.1 fun hr => absurd (h1.1 hr) (by omega), by rw [add_assoc]; exact h2.2 hhi⟩

/-- There is one power of two below a magnitude whose double is above it. -/
theorem log2_unique {y : ℚ} {i j : Int} (hi : (2 : ℚ) ^ i ≤ y) (hi' : y < 2 ^ (i + 1)) (hj : (2 : ℚ) ^ j ≤ y) (hj' : y < 2 ^ (j + 1)) : i = j := by
  have h1 : i < j + 1 := (zpow_lt_zpow_iff_right₀ (by norm_num)).1 (hi.trans_lt hj')
  have h2 : j < i + 1 := (zpow_lt_zpow_iff_right₀ (by norm_num)).1 (hj.trans_lt hi')
  omega

end Sys2Proof.Machine

/-! PROOFS. The scale-only forms: binding arithmetic, SRENORM, the release of uses and codebook loads (07 R247, R257, R260, R267-R269). -/

namespace Sys2Proof.Machine

/-! ### Entries of the scale file -/

@[simp] theorem tabGet_tabPut {α : Type} (d : α) (k : Nat) (x : α) (t : Tab α) : tabGet d k (tabPut k x t) = x := by simp [tabGet]

theorem Scl.entry_alloc (c : Scl) (e : SclEntry) :
    (c.alloc e).2.2.entry (c.alloc e).1 = { e with bound := true, gen := (c.entry (c.alloc e).1).gen + 1 } := by
  simp [Scl.alloc, Scl.entry]

/-- A use of an entry that has more than one. -/
theorem Scl.use_counts {c : Scl} {n : Nat} (hb : (c.entry n).bound = true) (h : 1 < (c.entry n).refcnt.toNat) :
    (c.use n).entry n = { c.entry n with refcnt := (c.entry n).refcnt - 1 } := by
  unfold Scl.use
  dsimp only
  rw [if_pos hb, if_neg (by omega)]
  exact tabGet_tabPut ..

/-- The last use of an entry frees it. -/
theorem Scl.use_frees {c : Scl} {n : Nat} (hb : (c.entry n).bound = true) (h : (c.entry n).refcnt.toNat = 1) :
    (c.use n).entry n = { c.entry n with bound := false, refcnt := 0 } ∧ (c.use n).freed = c.freed ++ [n] := by
  unfold Scl.use
  dsimp only
  rw [if_pos hb, if_pos (by omega), Scl.release, if_pos hb]
  exact ⟨tabGet_tabPut .., rfl⟩

/-! ### A firing that allocates an entry (07 R255, R260) -/

/-- The commit of a firing that allocates, when an entry is free: the result names the head entry, which holds what the firing gives it. -/
theorem State.commitAlloc_binds {s : State} {c : Scl} {e : SclEntry} {t : BitVec 4} {q : Bool} {reads : List (BitVec 5)} {b : Reg} {d : BitVec 5}
    {body : Reg} {plane : Plane → Plane} {flts : List Flt} (hf : flts = []) (hc : c.canAlloc (s.firing.outCtx t) = true)
    (ht : s.tagsFit t b (isOut d)) :
    let u := s.commitAlloc s.firing c e t q reads b d body plane flts
    ∃ n, c.head = some n ∧ Delivered s u d t { body with bind := .ofNat 11 n, bgen := (c.entry n).gen + 1 } ∧
      (u.scl s.firing.el).entry n =
        { e with bound := true, gen := (c.entry n).gen + 1, ctx := s.firing.outCtx t,
                 oiter := s.firing.outIter t (s.launch s.firing.launch).alloc0.next b, olaunch := .ofNat 12 s.firing.launch } := by
  obtain ⟨n, hn⟩ := Option.isSome_iff_exists.1 (Bool.and_eq_true_iff.1 hc).1
  subst hf
  have hhead : c.head.getD 0 = n := by rw [hn]; rfl
  unfold State.commitAlloc
  dsimp only
  rw [hc, if_neg (by decide)]
  refine ⟨n, hn, ?_, ?_⟩
  · rw [← hhead]
    exact State.commit_delivers (by exact State.tagsFit_one ht _) rfl rfl fun _ => rfl
  · rw [← hhead]
    refine State.commit_scl (by exact State.tagsFit_one ht _) rfl (fun z => z.entry _ = _) fun v _ => ?_
    rw [State.scl_onScl]
    exact Scl.entry_alloc c _

/-- An instruction gives `r` under a new binding, whose entry copies `e` with one use and new scale bytes. -/
def Rebinds (s : State) (i : Instr) (c : Scl) (b : Reg) (d : BitVec 5) (t : BitVec 4) (r : Reg) (e : SclEntry) (bytes : List Nat) : Prop :=
  let x := s.firing
  c.canAlloc (x.outCtx t) = true →
  ∃ u m, c.head = some m ∧ exec i s = .next u ∧ Delivered s u d t { r with bind := .ofNat 11 m, bgen := (c.entry m).gen + 1 } ∧
    (u.scl x.el).entry m =
      { e with bound := true, ctx := x.outCtx t, gen := (c.entry m).gen + 1, refcnt := 1,
               oiter := x.outIter t (s.launch x.launch).alloc0.next b, olaunch := .ofNat 12 x.launch, scale := bytes.map (BitVec.ofNat 8) }

theorem commitAlloc_rebinds {s : State} {i : Instr} {c : Scl} {e : SclEntry} {t : BitVec 4} {q : Bool} {reads : List (BitVec 5)} {b : Reg}
    {d : BitVec 5} {r : Reg} {plane : Plane → Plane} {flts : List Flt} {bytes : List Nat}
    (hi : exec i s = .next (s.commitAlloc s.firing c (e.renew bytes) t q reads b d r plane flts)) (hf : flts = [])
    (ht : s.tagsFit t b (isOut d)) : Rebinds s i c b d t r e bytes := by
  intro hc
  obtain ⟨m, hm, hd, he⟩ := State.commitAlloc_binds (e := e.renew bytes) (q := q) (reads := reads) (body := r) (plane := plane) hf hc ht
  exact ⟨_, m, hm, hi, hd, he⟩

/-! ### The tables of the scale bytes (07 R267) -/

theorem toInt_toNat (w : Word) : toInt 32 w.toNat = w.toInt := (sval_word w.toNat).trans (by rw [word, BitVec.ofNat_toNat, BitVec.setWidth_eq])

/-- A form over the binding of A meets none of its conditions: an operating format of the set, an operand of that format, and a readable binding. -/
theorem Firing.readsScale_nil {x : Firing} {c : Scl} {a : BitVec 5} (hn : setN (x.opFmt (x.src a)) = true) (hc : x.carries (x.opFmt (x.src a)) a)
    (hr : c.read x.ctx (x.src a) = []) : x.inSet setN a ++ x.elemOperand (x.opFmt (x.src a)) a ++ c.read x.ctx (x.src a) = [] := by
  rw [Firing.inSet_nil hn, Firing.elemOperand_nil hc, hr]
  rfl

section Binding
variable {s : State} {a b d : BitVec 5} {t : BitVec 4} {q : Bool} (hn : setN (s.firing.opFmt (s.firing.src a)) = true)
  (hc : s.firing.carries (s.firing.opFmt (s.firing.src a)) a) (hr : (s.scl s.firing.el).read s.firing.ctx (s.firing.src a) = [])
  (ht : s.tagsFit t (s.firing.src b) (isOut d))
include hn hc hr ht

/-- A binding form without a fault, by its table. -/
theorem fireBind_rebinds {i : Instr} (op : BindOp) {g : Nat → Nat} (hi : exec i s = .next (fireBind op a b d t q s))
    (hb : (s.scl s.firing.el).bindFlts op q s.firing.ctx (s.firing.src a) (s.firing.src b) = [])
    (hg : bindByte op (s.firing.src b) ((s.scl s.firing.el).entry (s.firing.src a).bind.toNat).bytes
      ((s.scl s.firing.el).entry (s.firing.src b).bind.toNat).bytes = g) :
    let ea := (s.scl s.firing.el).entry (s.firing.src a).bind.toNat
    Rebinds s i ((s.scl s.firing.el).bindUses op.readsB q (s.firing.src a) (s.firing.src b)) (s.firing.src b) d t
      { s.firing.src a with fmt := s.firing.opFmt (s.firing.src a) } ea ((List.range (bytesInUse ea.fmt ea.blk.toNat)).map g) := by
  subst hg
  exact commitAlloc_rebinds hi (List.append_eq_nil_iff.2 ⟨Firing.readsScale_nil hn hc hr, hb⟩) ht

theorem fireSrenorm_rebinds :
    let ea := (s.scl s.firing.el).entry (s.firing.src a).bind.toNat
    Rebinds s (.srenorm a b d t q) ((s.scl s.firing.el).bindUses false q (s.firing.src a) (s.firing.src b)) (s.firing.src b) d t
      { s.firing.src a with fmt := s.firing.opFmt (s.firing.src a) } ea
      (srenormBytes s.firing.srnd (s.firing.src b) (ea.bytes.take (bytesInUse ea.fmt ea.blk.toNat)) s.firing.pl.lfsr).1 := by
  exact commitAlloc_rebinds rfl (Firing.readsScale_nil hn hc hr) ht

end Binding

/-- B's binding meets no fault: it is read after A's use, and the two agree in their block mode and scale bytes, but for SPROD. -/
theorem Scl.bindFlts_nil {c : Scl} {op : BindOp} {q : Bool} {ctx : BitVec 6} {a b : Reg} (hop : op.readsB = true) (hb : b.fmt.scaled = true)
    (hr : (if q then c else c.use a.bind.toNat).read ctx b = [])
    (he : op ≠ .sprod → (c.entry a.bind.toNat).blk = (c.entry b.bind.toNat).blk ∧
      bytesInUse (c.entry a.bind.toNat).fmt (c.entry a.bind.toNat).blk.toNat = bytesInUse (c.entry b.bind.toNat).fmt (c.entry b.bind.toNat).blk.toNat) :
    c.bindFlts op q ctx a b = [] := by
  unfold Scl.bindFlts
  dsimp only
  rw [if_pos hop, if_pos hb, hr, if_neg fun ⟨h1, h2⟩ => h2.elim (fun h => h (he h1).1) fun h => h (he h1).2]
  rfl

/-- The binding forms by their tables. -/
theorem bindingResults : Claim.BindingResults := by
  intro s a b d t q x A B f c ea eb n sa sb clamp nan2 made hn hc hr ht
  refine ⟨?_, ?_, fireSrenorm_rebinds hn hc hr ht, fun hb hrb => ⟨?_, fun hblk hbytes => ⟨?_, ?_⟩⟩⟩
  · exact fireBind_rebinds hn hc hr ht .sbind rfl rfl rfl
  · refine fireBind_rebinds hn hc hr ht .spow2 rfl rfl (funext fun i => ?_)
    simp only [bindByte, toInt_toNat]
    rfl
  · exact fireBind_rebinds hn hc hr ht .sprod rfl (Scl.bindFlts_nil rfl hb hrb fun h => absurd rfl h) rfl
  · exact fireBind_rebinds hn hc hr ht .sadde rfl (Scl.bindFlts_nil rfl hb hrb fun _ => ⟨hblk, hbytes⟩) rfl
  · exact fireBind_rebinds hn hc hr ht .smax rfl (Scl.bindFlts_nil rfl hb hrb fun _ => ⟨hblk, hbytes⟩) rfl

end Sys2Proof.Machine

namespace Sys2Proof.Machine

/-! ### SRENORM's table (07 R268) -/

section Srenorm
variable {m : Nat} {e : Int}

theorem srenormBytes_fin {srnd : Nat} {b : Reg} {s st : Bool} (ha : decodeFloat Fmt.f32.float (b.lane 0).toNat = .fin s m e st) (hm : m ≠ 0)
    (sa : List Nat) (l : Word) :
    (srenormBytes srnd b sa l).1 = sa.map fun z => if z = 255 then 255 else clampScale ((z : Int) - (srenormD srnd m e l).1) := by
  unfold srenormBytes
  rw [ha]
  dsimp only
  rw [if_neg hm]

/-- The exponent of a, as the table's conditions on it give it. -/
theorem exponent_of_bounds (hm : m ≠ 0) {E : Int} (hlo : ¬(Exact.fin false m e false).cmp (.fin false 1 E false) = .lt)
    (hhi : (Exact.fin false m e false).cmp (.fin false 1 (E + 1) false) = .lt) : E = e + (bitLen m - 1 : Nat) := by
  rw [Exact.cmp_lt, Exact.rat_mag, Exact.rat_mag, Nat.cast_one, one_mul] at hlo hhi
  obtain ⟨h1, h2⟩ := log2_bounds hm e
  exact log2_unique (not_lt.1 hlo) hhi h1 h2

/-- a² below 2^(2E + 1), which is a below √2 · 2^E. -/
theorem square_below (k : Nat) :
    (Exact.fin false (m * m) (2 * e) false).cmp (.fin false 1 (2 * (e + (k : Int)) + 1) false) = .lt ↔ m * m < 2 * 2 ^ (2 * k) := by
  have h := mul_zpow_lt (m * m) 1 0 (2 * k + 1) (2 * e)
  rw [Exact.cmp_lt, Exact.rat_mag, Exact.rat_mag, show 2 * (e + (k : Int)) + 1 = 2 * e + ((2 * k + 1 : Nat) : Int) by push_cast; ring]
  simpa [Nat.pow_succ'] using h

theorem is_power (k : Nat) : (Exact.fin false m e false).cmp (.fin false 1 (e + (k : Int)) false) = .eq ↔ m = 2 ^ k := by
  rw [Exact.cmp_eq, Exact.rat_mag, Exact.rat_mag, Nat.cast_one, one_mul, zpow_add₀ (by norm_num), zpow_natCast, mul_comm,
    mul_right_inj' (by positivity)]
  norm_cast

/-- R249's comparison of the LFSR with the 32 bits below the exponent. -/
theorem draw_above {k : Nat} (hk : 2 ^ k ≤ m) (r : Nat) :
    ¬(Exact.fin false m (e + 32) false).cmp (.fin false (r + 2 ^ 32) (e + (k : Int)) false) = .lt ↔ r ≤ (m - 2 ^ k) * 2 ^ 32 / 2 ^ k := by
  have h := mul_zpow_lt m (r + 2 ^ 32) 32 k e
  rw [Exact.cmp_lt, Exact.rat_mag, Exact.rat_mag, show e + 32 = e + ((32 : Nat) : Int) from rfl, h, not_lt,
    Nat.le_div_iff_mul_le (Nat.two_pow_pos k), Nat.sub_mul, Nat.add_mul, Nat.mul_comm (2 ^ k) (2 ^ 32)]
  have := Nat.mul_le_mul_right (2 ^ 32) hk
  omega

end Srenorm

/-- SRENORM's table: the exponent of a is the only one its conditions allow, and each mode compares as the model does. -/
theorem srenormFollowsTheTable : Claim.SrenormFollowsTheTable := by
  intro srnd b sa l hs _ a o below
  have hof : ∀ z, a = z → decodeFloat Fmt.f32.float (b.lane 0).toNat = z := fun _ => id
  refine ⟨fun ha => ?_, fun s ha => ?_, fun s e ha => ?_, fun s m e E ha hm hlo hhi => ?_⟩
  · show (srenormBytes srnd b sa l).1 = _
    rw [srenormBytes, hof _ ha]
  · show (srenormBytes srnd b sa l).1 = _
    rw [srenormBytes, hof _ ha]
  · show (srenormBytes srnd b sa l).1 = _
    rw [srenormBytes, hof _ ha]
    rfl
  · obtain ⟨hk, -⟩ := bitLen_bounds hm
    obtain rfl := exponent_of_bounds hm hlo hhi
    dsimp only
    refine ⟨(srenormD srnd m e l).1, ⟨?_, ?_, ?_, ?_, ?_⟩, srenormBytes_fin ha hm sa l⟩
    · rintro rfl
      simp only [below, square_below, srenormD]
      split
      case isTrue h => exact .inl ⟨h, rfl⟩
      case isFalse h => exact .inr ⟨h, rfl⟩
    · rintro rfl
      simp only [is_power, srenormD, decide_eq_true_eq]
      split
      case isTrue h => exact .inl ⟨h, rfl⟩
      case isFalse h => exact .inr ⟨not_le.1 fun h' => h (.inl h'), fun h' => h (.inr h'), rfl⟩
    · rintro rfl
      simp only [is_power, srenormD, decide_eq_true_eq]
      split
      case isTrue h => exact .inl ⟨h, rfl⟩
      case isFalse h => exact .inr ⟨h, rfl⟩
    · rintro rfl
      rfl
    · rintro rfl
      simp only [below, draw_above hk, srenormD]
      split
      case isTrue h => exact .inl ⟨h, rfl⟩
      case isFalse h => exact .inr ⟨h, rfl⟩

/-! ### The release of uses (07 R257, R269; 09 R339) -/

/-- The uses that DROP takes, source by source. -/
theorem drop_uses (s : State) (e : ElemAt) (A B : Reg) (b : BitVec 5) :
    ((([A] ++ if b = 24 then [] else [B]).filter fun r => r.fmt.scaled).foldl (fun s r => s.onScl e fun c => c.use r.bind.toNat) s).scl e =
      let c := if A.fmt.scaled then (s.scl e).use A.bind.toNat else s.scl e
      if b ≠ 24 ∧ B.fmt.scaled = true then c.use B.bind.toNat else c := by
  have h24 : (24 : BitVec 5) = 24#5 := rfl
  rw [h24]
  by_cases hb : b = 24#5 <;> cases hA : A.fmt.scaled <;> cases hB : B.fmt.scaled <;> simp [hb, hA, hB, State.scl_onScl]

/-- SREL and DROP release uses of the scale file, and a use counts down or frees. -/
theorem releaseUses : Claim.ReleaseUses := by
  intro s a b t q x A B c n
  refine ⟨fun hn hc hr ht => ⟨fireSrel a t q s, rfl, ?_⟩, fun ht => ⟨fireDrop a b t q s, rfl, ?_⟩, ?_, ?_⟩
  · unfold fireSrel
    refine State.commit_scl (by exact ht) (Firing.readsScale_nil hn hc hr) (· = _) fun u hu => ?_
    dsimp only
    split
    · exact hu
    · rw [State.scl_onScl, hu]
  · unfold fireDrop
    refine State.commit_scl (by exact ht) rfl (· = _) fun u hu => ?_
    dsimp only
    split
    · exact hu
    · exact (drop_uses u x.el A B b).trans (by rw [hu])
  · rintro e rfl hb h
    exact Scl.use_counts hb h
  · rintro e rfl hb h
    exact Scl.use_frees hb h

/-! ### Codebook loads (07 R247, R269) -/

theorem sldcb_values (A : Reg) (j : Nat) (hj : j < 16) :
    ((validElems .b16 A.lanes A.vlen.val).take 16).getD j 0 = if j < validCount .b16 A.vlen.val then Lanes.elem A.lanes 16 j else 0 := by
  split
  case isTrue h =>
    rw [show Lanes.elem A.lanes 16 j = _ from (getD_validElems .b16 A.lanes _ h).symm]
    simp [List.getD_eq_getElem?_getD, hj]
  case isFalse h => exact List.getD_eq_default _ _ (by simp; omega)

/-- SLDCB writes the codebook that B names. -/
theorem sldcbResult : Claim.SldcbResult := by
  intro s a b t q x A B n hf hc ht hb
  refine ⟨fireSldcb a b t q s, rfl, ?_⟩
  unfold fireSldcb
  refine State.commit_scl (by exact ht) ?_ (fun z => tabFind n.toNat z.books = _) fun u _ => ?_
  · have howner : (match (tabFind n.toNat (s.scl x.el).books).map Prod.fst with
        | some c => if c = x.ctx then [] else [sclFlt 0x23 (c.toNat * 2 ^ 8 + n.toNat)] | none => []) = [] := by
      cases h : tabFind n.toNat (s.scl x.el).books with
      | none => rfl
      | some p => exact if_pos (hb p h)
    have hop : x.elemOperand (x.opFmt A) a = [] := Firing.elemOperand_nil (by rw [hf]; exact hc)
    have hset : (if x.opFmt A = .b16 then [] else [elFormat x.el a (x.opFmt A)]) = [] := if_pos hf
    exact List.append_eq_nil_iff.2 ⟨List.append_eq_nil_iff.2 ⟨hset, hop⟩, howner⟩
  · rw [State.scl_onScl]
    refine (tabFind_tabPut ..).trans (congrArg (fun z => some (x.ctx, z)) (List.map_congr_left fun j hj => ?_))
    exact congrArg _ (sldcb_values A j (List.mem_range.1 hj))

/-- Settles O8: a form that allocates copies A's entry under the head of the free list; each form's bytes are its table's. -/
theorem scaleFormResults : Obligations.ScaleFormResults := ⟨bindingResults, srenormFollowsTheTable, releaseUses, sldcbResult⟩

end Sys2Proof.Machine

/-! PROOFS. The values of elements, and the largest magnitude of a list of them (07 R243, R265). -/

namespace Sys2Proof.Machine

/-! ### Values of elements -/

/-- An encoding stands for an exact value. -/
theorem decodeFloat_exact {g : FloatFmt} {x : Nat} {s st : Bool} {m : Nat} {e : Int} (h : decodeFloat g x = .fin s m e st) : st = false := by
  unfold decodeFloat at h
  dsimp only at h
  split at h
  · split at h <;> cases h
  · split at h
    · cases h
    · split at h <;> cases h <;> rfl

theorem valueOf_exact {f : Fmt} {x : Nat} {s st : Bool} {m : Nat} {e : Int} (h : valueOf f x = .fin s m e st) : st = false := by
  cases f with
  | i32 => cases h; rfl
  | i8 => cases h; rfl
  | c4 => cases h; rfl
  | f32 => exact decodeFloat_exact (g := Fmt.f32.float) h
  | b16 => exact decodeFloat_exact (g := Fmt.b16.float) h
  | h16 => exact decodeFloat_exact (g := Fmt.h16.float) h
  | e5 => exact decodeFloat_exact (g := Fmt.e5.float) h
  | e4 => exact decodeFloat_exact (g := Fmt.e4.float) h

/-! ### The largest magnitude of a list -/

/-- The magnitude of a finite value; of the others 0. -/
def Exact.mag : Exact → ℚ
  | .fin _ m e _ => m * 2 ^ e
  | _ => 0

/-- What the largest magnitude so far is, of the values `p`: a magnitude that none exceeds, and one of theirs unless it is 0. -/
def LargestOf (p : Exact → Prop) (x : Exact) : Prop :=
  ∃ m e, x = .fin false m e false ∧ (∀ y, p y → y.mag ≤ m * 2 ^ e) ∧ (m = 0 ∨ ∃ s st, p (.fin s m e st))

theorem largerFin_largest {p : Exact → Prop} {x : Exact} (h : LargestOf p x) (y : Exact) : LargestOf (fun z => p z ∨ z = y) (largerFin x y) := by
  obtain ⟨m, e, rfl, hle, hm⟩ := h
  have hkeep : y.mag ≤ m * 2 ^ e → LargestOf (fun z => p z ∨ z = y) (.fin false m e false) := fun hy =>
    ⟨m, e, rfl, fun z hz => hz.elim (hle z) fun h => h ▸ hy, hm.imp id fun ⟨s, st, h⟩ => ⟨s, st, .inl h⟩⟩
  cases y with
  | nan => exact hkeep (by simp only [Exact.mag]; positivity)
  | inf s => exact hkeep (by simp only [Exact.mag]; positivity)
  | fin s n k st =>
    simp only [largerFin, Exact.abs, beq_iff_eq, Exact.cmp_lt, Exact.rat_mag]
    split
    case isTrue hlt =>
      exact ⟨n, k, rfl, fun z hz => hz.elim (fun h => (hle z h).trans hlt.le) fun h => h ▸ le_refl _, .inr ⟨s, st, .inr rfl⟩⟩
    case isFalse hlt => exact hkeep (not_lt.1 hlt)

theorem maxFin_largest (xs : List Exact) : LargestOf (· ∈ xs) (maxFin xs) := by
  have h : ∀ (xs : List Exact) (p : Exact → Prop) (x : Exact), LargestOf p x → LargestOf (fun z => p z ∨ z ∈ xs) (xs.foldl largerFin x) := by
    intro xs
    induction xs with
    | nil => intro p x hx; simpa using hx
    | cons y ys ih =>
      intro p x hx
      have := ih _ _ (largerFin_largest hx y)
      simpa only [List.mem_cons, or_assoc, List.foldl_cons] using this
  have h0 : LargestOf (fun _ => False) (.fin false 0 0 false) := ⟨0, 0, rfl, fun _ => False.elim, .inl rfl⟩
  simpa only [maxFin, false_or] using h xs _ _ h0

section Largest
variable {xs : List Exact} {v : Nat → Exact} {p : Nat → Prop} (hxs : ∀ x, x ∈ xs ↔ ∃ j, p j ∧ v j = x)
  (hv : ∀ j s m e st, v j = .fin s m e st → st = false)
include hxs hv

/-- The largest magnitude of a list is zero when no finite value but zero stands in it. -/
theorem maxFin_isZero : (maxFin xs).isZero = true ↔ NoMagnitude v p := by
  obtain ⟨m, e, hmax, hle, hm⟩ := maxFin_largest xs
  rw [hmax]
  have hz : (Exact.fin false m e false).isZero = true ↔ m = 0 := by simp [Exact.isZero]
  rw [hz]
  constructor
  · rintro rfl j hj s n k hn
    have := hle _ ((hxs _).2 ⟨j, hj, hn⟩)
    simp only [Exact.mag, Nat.cast_zero, zero_mul] at this
    have h2 : (0 : ℚ) < 2 ^ k := by positivity
    exact Nat.le_zero.1 (by exact_mod_cast nonpos_of_mul_nonpos_left this h2)
  · intro h
    rcases hm with hm | ⟨s, st, hm⟩
    · exact hm
    · obtain ⟨j, hj, hvj⟩ := (hxs _).1 hm
      obtain rfl := hv _ _ _ _ _ hvj
      exact h j hj _ _ _ hvj

/-- Else floor(log2) of it is that of the values. -/
theorem maxFin_topLog (h : ¬NoMagnitude v p) : TopLog v p (floorLog2 (maxFin xs)) := by
  rw [← maxFin_isZero hxs hv] at h
  obtain ⟨m, e, hmax, hle, hm⟩ := maxFin_largest xs
  have hm0 : m ≠ 0 := by rintro rfl; rw [hmax] at h; exact h rfl
  obtain ⟨hlo, hhi⟩ := log2_bounds hm0 e
  have hfl : floorLog2 (maxFin xs) = e + (bitLen m - 1 : Nat) := by
    have : 1 ≤ bitLen m := by rw [bitLen, if_neg hm0]; omega
    rw [hmax]
    simp only [floorLog2]
    omega
  rw [hfl]
  constructor
  · obtain ⟨s, st, hm⟩ := hm.resolve_left hm0
    obtain ⟨j, hj, hvj⟩ := (hxs _).1 hm
    obtain rfl := hv _ _ _ _ _ hvj
    refine ⟨j, s, m, e, hj, hvj, ?_⟩
    rw [ne_eq, Exact.cmp_lt, Exact.rat_mag, Exact.rat_mag, Nat.cast_one, one_mul]
    exact not_lt.2 hlo
  · intro j hj s n k hvj
    rw [Exact.cmp_lt, Exact.rat_mag, Exact.rat_mag, Nat.cast_one, one_mul]
    exact (hle _ ((hxs _).2 ⟨j, hj, hvj⟩)).trans_lt hhi

end Largest

/-- Values have one floor(log2) of a largest magnitude. -/
theorem TopLog.unique {v : Nat → Exact} {p : Nat → Prop} {i j : Int} (hi : TopLog v p i) (hj : TopLog v p j) : i = j := by
  have key : ∀ {i j : Int}, TopLog v p i → TopLog v p j → i ≤ j := by
    rintro i j ⟨⟨n, s, m, e, hn, hvn, hge⟩, -⟩ ⟨-, hlt⟩
    have h := hlt n hn s m e hvn
    rw [ne_eq, Exact.cmp_lt, Exact.rat_mag, Exact.rat_mag, Nat.cast_one, one_mul, not_lt] at hge
    rw [Exact.cmp_lt, Exact.rat_mag, Exact.rat_mag, Nat.cast_one, one_mul] at h
    have : i < j + 1 := (zpow_lt_zpow_iff_right₀ (by norm_num)).1 (hge.trans_lt h)
    omega
  exact le_antisymm (key hi hj) (key hj hi)

theorem TopLog.magnitude {v : Nat → Exact} {p : Nat → Prop} {i : Int} (hi : TopLog v p i) : ¬NoMagnitude v p := by
  obtain ⟨⟨j, s, m, e, hj, hvj, hge⟩, -⟩ := hi
  intro h
  obtain rfl := h j hj s m e hvj
  rw [ne_eq, Exact.cmp_lt, Exact.rat_mag, Exact.rat_mag, Nat.cast_zero, zero_mul] at hge
  exact hge (by positivity)

end Sys2Proof.Machine

/-! PROOFS. The code of a value in a codebook: the best finite entry and the first infinity (07 R265). -/

namespace Sys2Proof.Machine

/-! ### The best finite entry -/

def Exact.Finite (x : Exact) : Prop := ∃ s m e st, x = .fin s m e st

theorem Exact.Finite.cmp_lt {x y : Exact} (hx : x.Finite) (hy : y.Finite) : x.cmp y = .lt ↔ x.rat < y.rat := by
  obtain ⟨s, m, e, st, rfl⟩ := hx
  obtain ⟨t, n, k, tt, rfl⟩ := hy
  exact Exact.cmp_lt

theorem Exact.Finite.cmp_gt {x y : Exact} (hx : x.Finite) (hy : y.Finite) : x.cmp y = .gt ↔ y.rat < x.rat := by
  obtain ⟨s, m, e, st, rfl⟩ := hx
  obtain ⟨t, n, k, tt, rfl⟩ := hy
  exact Exact.cmp_gt

theorem getElem?_concat {xs : List Exact} {x z : Exact} {i : Nat} : (xs ++ [x])[i]? = some z ↔ xs[i]? = some z ∨ i = xs.length ∧ x = z := by
  rcases lt_trichotomy i xs.length with h | rfl | h
  · rw [List.getElem?_append_left h]
    exact ⟨.inl, fun h' => h'.resolve_right fun ⟨hi, _⟩ => h.ne hi⟩
  · simp
  · rw [List.getElem?_eq_none (by simp; omega), List.getElem?_eq_none h.le]
    exact ⟨nofun, fun h' => h'.elim nofun fun ⟨hi, _⟩ => absurd hi h.ne'⟩

/-- What the best so far is, of the entries `pre`, when a lower key is better: none without a finite entry, and else the lowest place of a finite
entry that no other is below. -/
def Best (key : Exact → ℚ) (pre : List Exact) : Option (Nat × Exact) → Prop
  | none => ∀ (i : Nat) (z : Exact), pre[i]? = some z → ¬z.Finite
  | some (k, y) => pre[k]? = some y ∧ y.Finite ∧ ∀ (i : Nat) (z : Exact), pre[i]? = some z → z.Finite → key y ≤ key z ∧ (i < k → key y < key z)

section Best
variable {key : Exact → ℚ} {better : Exact → Exact → Bool} {pre : List Exact} {x : Exact}

theorem Best.skip {acc : Option (Nat × Exact)} (h : Best key pre acc) (hx : ¬x.Finite) : Best key (pre ++ [x]) acc := by
  have hold : ∀ {i : Nat} {z : Exact}, (pre ++ [x])[i]? = some z → z.Finite → pre[i]? = some z := fun hz hf =>
    (getElem?_concat.1 hz).resolve_right fun ⟨_, hxz⟩ => hx (hxz ▸ hf)
  match acc, h with
  | none, h => exact fun i z hz hf => h i z (hold hz hf) hf
  | some (k, y), ⟨hk, hy, h⟩ => exact ⟨getElem?_concat.2 (.inl hk), hy, fun i z hz hf => h i z (hold hz hf) hf⟩

theorem Best.first (h : Best key pre none) (hx : x.Finite) : Best key (pre ++ [x]) (some (pre.length, x)) := by
  refine ⟨getElem?_concat.2 (.inr ⟨rfl, rfl⟩), hx, fun i z hz hf => ?_⟩
  obtain ⟨rfl, rfl⟩ := (getElem?_concat.1 hz).resolve_left fun hz => h i z hz hf
  exact ⟨le_refl _, fun hi => absurd hi (lt_irrefl _)⟩

theorem Best.more {k : Nat} {y : Exact} (hb : ∀ x y, x.Finite → y.Finite → (better x y = true ↔ key x < key y)) (h : Best key pre (some (k, y)))
    (hx : x.Finite) : Best key (pre ++ [x]) (if better x y then some (pre.length, x) else some (k, y)) := by
  obtain ⟨hk, hy, h⟩ := h
  have hklt : k < pre.length := (List.getElem?_eq_some_iff.1 hk).1
  split
  case isTrue hlt =>
    have hlt := (hb x y hx hy).1 hlt
    refine ⟨getElem?_concat.2 (.inr ⟨rfl, rfl⟩), hx, fun i z hz hf => ?_⟩
    rcases getElem?_concat.1 hz with hz | ⟨rfl, rfl⟩
    · have := hlt.trans_le (h i z hz hf).1
      exact ⟨this.le, fun _ => this⟩
    · exact ⟨le_refl _, fun hi => absurd hi (lt_irrefl _)⟩
  case isFalse hge =>
    have hge := not_lt.1 fun hlt => hge ((hb x y hx hy).2 hlt)
    refine ⟨getElem?_concat.2 (.inl hk), hy, fun i z hz hf => ?_⟩
    rcases getElem?_concat.1 hz with hz | ⟨rfl, rfl⟩
    · exact h i z hz hf
    · exact ⟨hge, fun hi => by omega⟩

theorem bestFin_best (hb : ∀ x y, x.Finite → y.Finite → (better x y = true ↔ key x < key y)) (xs : List Exact) :
    Best key xs (bestFin better xs 0 none) := by
  have h : ∀ (xs pre : List Exact) (acc : Option (Nat × Exact)), Best key pre acc → Best key (pre ++ xs) (bestFin better xs pre.length acc) := by
    intro xs
    induction xs with
    | nil => intro pre acc h; simpa [bestFin] using h
    | cons x xs ih =>
      intro pre acc h
      have step : ∀ acc', Best key (pre ++ [x]) acc' → Best key (pre ++ x :: xs) (bestFin better xs (pre.length + 1) acc') := fun acc' h' => by
        simpa using ih (pre ++ [x]) acc' h'
      cases x with
      | nan => exact step acc (h.skip nofun)
      | inf s => exact step acc (h.skip nofun)
      | fin s m e st =>
        have hx : (Exact.fin s m e st).Finite := ⟨s, m, e, st, rfl⟩
        match acc, h with
        | none, h => exact step _ (h.first hx)
        | some (k, y), h => exact step _ (h.more hb hx)
  simpa using h xs [] none fun i z hz => by simp at hz

end Best

/-! ### Distances -/

theorem distFin_finite {x y : Exact} (hx : x.Finite) (hy : y.Finite) : (distFin x y).Finite := by
  obtain ⟨s, m, e, st, rfl⟩ := hx
  obtain ⟨t, n, k, tt, rfl⟩ := hy
  simp only [distFin, Exact.neg, Exact.add]
  split
  · exact ⟨_, _, _, _, rfl⟩
  · exact ⟨_, _, _, _, rfl⟩

/-- The nearer of two finite entries; of a NaN none is. -/
theorem distFin_nearer {y : Exact} (hy : ∀ s, y ≠ .inf s) (x z : Exact) (hx : x.Finite) (hz : z.Finite) :
    ((distFin x y).cmp (distFin z y) == .lt) = true ↔ (distFin x y).rat < (distFin z y).rat := by
  rw [beq_iff_eq]
  cases y with
  | inf s => exact absurd rfl (hy s)
  | fin t n k st => exact (distFin_finite hx ⟨_, _, _, _, rfl⟩).cmp_lt (distFin_finite hz ⟨_, _, _, _, rfl⟩)
  | nan =>
    obtain ⟨s, m, e, st, rfl⟩ := hx
    obtain ⟨t, n, k, tt, rfl⟩ := hz
    exact ⟨nofun, fun h => absurd h (lt_irrefl _)⟩

/-- The outer one of two values on the side of a sign has the lower of these keys. -/
def sideKey (s : Bool) (x : Exact) : ℚ := if s then x.rat else -x.rat

theorem sideKey_outer (s : Bool) (x y : Exact) (hx : x.Finite) (hy : y.Finite) :
    (x.cmp y == (if s then .lt else .gt)) = true ↔ sideKey s x < sideKey s y := by
  rw [beq_iff_eq]
  cases s with
  | true => exact hx.cmp_lt hy
  | false => exact (hx.cmp_gt hy).trans neg_lt_neg_iff.symm

/-! ### The cases of c4_code -/

/-- The entries of a codebook. -/
def bookEntries (cb : List Nat) : List Exact := cb.map (decodeFloat Fmt.b16.float)

def bookEntry (cb : List Nat) (k : Nat) : Exact := decodeFloat Fmt.b16.float (cb.getD k 0)

def nearestEntry (cb : List Nat) (y : Exact) : Option (Nat × Exact) :=
  bestFin (fun a b => (distFin a y).cmp (distFin b y) == .lt) (bookEntries cb) 0 none

def outermostEntry (cb : List Nat) (s : Bool) : Option (Nat × Exact) :=
  bestFin (fun a b => a.cmp b == (if s then .lt else .gt)) (bookEntries cb) 0 none

def infEntry (cb : List Nat) (s : Bool) : Option Nat := firstIdx (fun x => decide (x = .inf s)) (bookEntries cb)

def anyInfEntry (cb : List Nat) : Option Nat := firstIdx Exact.isInf (bookEntries cb)

theorem c4Code_number {cb : List Nat} {y : Exact} (hy : ∀ s, y ≠ .inf s) :
    c4Code cb y = ((nearestEntry cb y).map Prod.fst).getD ((infEntry cb y.sign).getD ((anyInfEntry cb).getD 0)) := by
  have h : ∀ (o : Option (Nat × Exact)) (d : Nat), (match o with | some p => p.1 | none => d) = (o.map Prod.fst).getD d := by
    intro o d; cases o <;> rfl
  cases y with
  | inf s => exact absurd rfl (hy s)
  | nan => exact h (nearestEntry cb .nan) _
  | fin s m e st => exact h (nearestEntry cb (.fin s m e st)) _

theorem c4Code_inf (cb : List Nat) (s : Bool) :
    c4Code cb (.inf s) = (infEntry cb s).getD (((outermostEntry cb s).map Prod.fst).getD ((anyInfEntry cb).getD 0)) := by
  have h : ∀ (i : Option Nat) (o : Option (Nat × Exact)) (d : Nat),
      (match i with | some i => i | none => match o with | some p => p.1 | none => d) = i.getD ((o.map Prod.fst).getD d) := by
    intro i o d
    cases i with
    | some i => rfl
    | none => cases o <;> rfl
  exact h (infEntry cb s) (outermostEntry cb s) _

section Book
variable {cb : List Nat} (hcb : cb.length = 16)
include hcb

theorem bookEntries_get {i : Nat} {z : Exact} : (bookEntries cb)[i]? = some z ↔ i < 16 ∧ bookEntry cb i = z := by
  by_cases hi : i < 16
  · simp [bookEntries, bookEntry, hcb, hi, List.getD_eq_getElem?_getD]
  · rw [List.getElem?_eq_none (by simp [bookEntries]; omega)]
    exact ⟨nofun, fun h => absurd h.1 hi⟩

theorem firstIdx_book {p : Exact → Bool} :
    (∀ i, firstIdx p (bookEntries cb) = some i → i < 16 ∧ p (bookEntry cb i) = true ∧ ∀ j < i, p (bookEntry cb j) = false) ∧
    (firstIdx p (bookEntries cb) = none → ∀ i < 16, p (bookEntry cb i) = false) := by
  have hget : ∀ {i} (hi : i < (bookEntries cb).length), (bookEntries cb)[i] = bookEntry cb i := fun hi =>
    ((bookEntries_get hcb).1 (List.getElem?_eq_getElem hi)).2.symm
  have hlen : (bookEntries cb).length = 16 := by simp [bookEntries, hcb]
  refine ⟨fun i h => ?_, fun h i hi => ?_⟩
  · obtain ⟨hi, hp, hn⟩ := List.findIdx?_eq_some_iff_getElem.1 h
    rw [hget hi] at hp
    refine ⟨hlen ▸ hi, hp, fun j hj => ?_⟩
    simpa [hget (hj.trans hi)] using hn j hj
  · have := List.findIdx?_eq_none_iff.1 h _ (List.getElem_mem (hlen ▸ hi))
    rwa [hget] at this

/-- A finite entry of the codebook, best under a key. -/
def BestEntry (cb : List Nat) (key : Exact → ℚ) (k : Nat) : Prop :=
  (k < 16 ∧ (bookEntry cb k).Finite) ∧
    ∀ i, i < 16 ∧ (bookEntry cb i).Finite → key (bookEntry cb k) ≤ key (bookEntry cb i) ∧ (i < k → key (bookEntry cb k) < key (bookEntry cb i))

theorem bestFin_book {key : Exact → ℚ} {better : Exact → Exact → Bool} (hb : ∀ x y, x.Finite → y.Finite → (better x y = true ↔ key x < key y)) :
    (∀ p, bestFin better (bookEntries cb) 0 none = some p → BestEntry cb key p.1) ∧
    (bestFin better (bookEntries cb) 0 none = none → ∀ i < 16, ¬(bookEntry cb i).Finite) := by
  have hbest := bestFin_best hb (bookEntries cb)
  refine ⟨fun p h => ?_, fun h i hi => ?_⟩
  · obtain ⟨k, y⟩ := p
    rw [h] at hbest
    obtain ⟨hk, hy, hle⟩ := hbest
    obtain ⟨hk16, rfl⟩ := (bookEntries_get hcb).1 hk
    exact ⟨⟨hk16, hy⟩, fun i hi => hle i _ ((bookEntries_get hcb).2 ⟨hi.1, rfl⟩) hi.2⟩
  · rw [h] at hbest
    exact hbest i _ ((bookEntries_get hcb).2 ⟨hi, rfl⟩)

/-- Where an infinity of a sign stands, the first is found. -/
theorem infEntry_first {s : Bool} (h : ∃ i < 16, bookEntry cb i = .inf s) :
    ∃ k, infEntry cb s = some k ∧ bookEntry cb k = .inf s ∧ ∀ i < k, bookEntry cb i ≠ .inf s := by
  obtain ⟨hsome, hnone⟩ := firstIdx_book hcb (p := fun x => decide (x = .inf s))
  obtain ⟨i, hi, hs⟩ := h
  cases hk : infEntry cb s with
  | none => simpa [hs] using hnone hk i hi
  | some k =>
    obtain ⟨-, hp, hn⟩ := hsome k hk
    exact ⟨k, rfl, by simpa using hp, fun i hi => by simpa using hn i hi⟩

theorem infEntry_none {s : Bool} (h : ∀ i < 16, bookEntry cb i ≠ .inf s) : infEntry cb s = none := by
  cases hk : infEntry cb s with
  | none => rfl
  | some k =>
    obtain ⟨hk16, hp, -⟩ := (firstIdx_book hcb).1 k hk
    exact absurd (by simpa using hp) (h k hk16)

/-- Without the infinity of a sign, the first of either is the first of the other. -/
theorem anyInfEntry_first {s : Bool} (h : ∀ i < 16, bookEntry cb i ≠ .inf s) (h' : ∃ i < 16, bookEntry cb i = .inf (!s)) :
    ∃ k, anyInfEntry cb = some k ∧ bookEntry cb k = .inf (!s) ∧ ∀ i < k, bookEntry cb i ≠ .inf (!s) := by
  obtain ⟨hsome, hnone⟩ := firstIdx_book hcb (p := Exact.isInf)
  obtain ⟨i, hi, hs⟩ := h'
  cases hk : anyInfEntry cb with
  | none => simpa [hs, Exact.isInf] using hnone hk i hi
  | some k =>
    obtain ⟨hk16, hp, hn⟩ := hsome k hk
    refine ⟨k, rfl, ?_, fun i hi he => by simpa [he, Exact.isInf] using hn i hi⟩
    have hne := h k hk16
    cases he : bookEntry cb k with
    | nan => simp [he, Exact.isInf] at hp
    | fin t m e st => simp [he, Exact.isInf] at hp
    | inf t =>
      rw [he] at hne
      rw [Bool.eq_not_of_ne fun hts : t = s => hne (hts ▸ rfl)]

theorem anyInfEntry_none (h : ∀ i < 16, bookEntry cb i = .nan) : anyInfEntry cb = none := by
  cases hk : anyInfEntry cb with
  | none => rfl
  | some k =>
    obtain ⟨hk16, hp, -⟩ := (firstIdx_book hcb).1 k hk
    simp [h k hk16, Exact.isInf] at hp

section Key
variable {key : Exact → ℚ} {better : Exact → Exact → Bool} (hb : ∀ x y, x.Finite → y.Finite → (better x y = true ↔ key x < key y))
include hb

theorem bestFin_some (h : ∃ i < 16, (bookEntry cb i).Finite) : ∃ p, bestFin better (bookEntries cb) 0 none = some p ∧ BestEntry cb key p.1 := by
  obtain ⟨hsome, hnone⟩ := bestFin_book hcb hb
  obtain ⟨i, hi, hf⟩ := h
  cases hp : bestFin better (bookEntries cb) 0 none with
  | none => exact absurd hf (hnone hp i hi)
  | some p => exact ⟨p, rfl, hsome p hp⟩

theorem bestFin_none (h : ∀ i < 16, ¬(bookEntry cb i).Finite) : bestFin better (bookEntries cb) 0 none = none := by
  cases hp : bestFin better (bookEntries cb) 0 none with
  | none => rfl
  | some p =>
    obtain ⟨⟨hk, hf⟩, -⟩ := (bestFin_book hcb hb).1 p hp
    exact absurd hf (h p.1 hk)

/-- The place of the best entry, or else a place of the codebook, is one of the codebook. -/
theorem bestFin_lt {d : Nat} (hd : d < 16) : ((bestFin better (bookEntries cb) 0 none).map Prod.fst).getD d < 16 := by
  cases hp : bestFin better (bookEntries cb) 0 none with
  | none => exact hd
  | some p =>
    obtain ⟨⟨hk, -⟩, -⟩ := (bestFin_book hcb hb).1 p hp
    exact hk

end Key

theorem firstIdx_getD_lt (p : Exact → Bool) {d : Nat} (hd : d < 16) : (firstIdx p (bookEntries cb)).getD d < 16 := by
  cases hk : firstIdx p (bookEntries cb) with
  | none => exact hd
  | some k => exact ((firstIdx_book hcb).1 k hk).1

theorem c4Code_lt (y : Exact) : c4Code cb y < 16 := by
  by_cases hy : ∃ s, y = .inf s
  · obtain ⟨s, rfl⟩ := hy
    rw [c4Code_inf]
    exact firstIdx_getD_lt hcb _ (bestFin_lt hcb (sideKey_outer s) (firstIdx_getD_lt hcb _ (by decide)))
  · rw [c4Code_number (not_exists.1 hy)]
    exact bestFin_lt hcb (distFin_nearer (not_exists.1 hy)) (firstIdx_getD_lt hcb _ (firstIdx_getD_lt hcb _ (by decide)))

theorem c4Code_nans (h : ∀ i < 16, bookEntry cb i = .nan) (y : Exact) : c4Code cb y = 0 := by
  have hfin : ∀ i < 16, ¬(bookEntry cb i).Finite := fun i hi => by rw [h i hi]; exact nofun
  have hinf : ∀ s, infEntry cb s = none := fun s => infEntry_none hcb fun i hi => by rw [h i hi]; exact nofun
  by_cases hy : ∃ s, y = .inf s
  · obtain ⟨s, rfl⟩ := hy
    rw [c4Code_inf, hinf, outermostEntry, bestFin_none hcb (sideKey_outer s) hfin, anyInfEntry_none hcb h]
    rfl
  · rw [c4Code_number (not_exists.1 hy), hinf, nearestEntry, bestFin_none hcb (distFin_nearer (not_exists.1 hy)) hfin, anyInfEntry_none hcb h]
    rfl

end Book

/-- The codes of a codebook by its rule. -/
theorem codebookCodes : Claim.CodebookCodes := by
  intro cb y hcb entry finite first k
  have hfinite : ∀ i, finite i ↔ i < 16 ∧ (bookEntry cb i).Finite := fun i =>
    and_congr_right fun _ => ⟨fun ⟨s, m, e, h⟩ => ⟨s, m, e, false, h⟩, fun ⟨s, m, e, st, h⟩ => ⟨s, m, e, decodeFloat_exact h ▸ h⟩⟩
  have hsome : (∃ i, finite i) → ∃ i < 16, (bookEntry cb i).Finite := fun ⟨i, h⟩ => ⟨i, (hfinite i).1 h⟩
  have hnone : (∀ i, ¬finite i) → ∀ i < 16, ¬(bookEntry cb i).Finite := fun h i hi hf => h i ((hfinite i).2 ⟨hi, hf⟩)
  refine ⟨c4Code_lt hcb y, fun h => c4Code_nans hcb h y, ?_, ?_⟩
  · rintro s m e rfl
    have hy : (Exact.fin s m e false).Finite := ⟨s, m, e, false, rfl⟩
    have hcode : k = _ := c4Code_number (cb := cb) (y := .fin s m e false) nofun
    have hnear := distFin_nearer (y := .fin s m e false) nofun
    refine ⟨fun h => ?_, fun h hi => ?_, fun h hi hi' => ?_⟩
    · obtain ⟨p, hp, hbest, hle⟩ := bestFin_some hcb hnear (hsome h)
      have hk : k = p.1 := hcode.trans (by rw [nearestEntry, hp]; rfl)
      rw [hk]
      refine ⟨(hfinite _).2 hbest, fun i hi => ?_⟩
      obtain ⟨hge, hgt⟩ := hle i ((hfinite i).1 hi)
      have hfk := distFin_finite hbest.2 hy
      have hfi := distFin_finite ((hfinite i).1 hi).2 hy
      exact ⟨fun h => absurd ((hfk.cmp_gt hfi).1 h) (not_lt.2 hge), fun h => (hfk.cmp_lt hfi).2 (hgt h)⟩
    · obtain ⟨j, hj, hfirst⟩ := infEntry_first hcb hi
      obtain rfl : k = j := hcode.trans (by rw [nearestEntry, bestFin_none hcb hnear (hnone h), Exact.sign, hj]; rfl)
      exact hfirst
    · obtain ⟨j, hj, hfirst⟩ := anyInfEntry_first hcb hi hi'
      obtain rfl : k = j := hcode.trans (by rw [nearestEntry, bestFin_none hcb hnear (hnone h), Exact.sign, infEntry_none hcb hi, hj]; rfl)
      exact hfirst
  · rintro s rfl
    have hcode : k = _ := c4Code_inf cb s
    refine ⟨fun hi => ?_, fun hi => ⟨fun h => ?_, fun h hi' => ?_⟩⟩
    · obtain ⟨j, hj, hfirst⟩ := infEntry_first hcb hi
      obtain rfl : k = j := hcode.trans (by rw [hj]; rfl)
      exact hfirst
    · obtain ⟨p, hp, hbest, hle⟩ := bestFin_some hcb (sideKey_outer s) (hsome h)
      have hk : k = p.1 := hcode.trans (by rw [infEntry_none hcb hi, outermostEntry, hp]; rfl)
      rw [hk]
      refine ⟨(hfinite _).2 hbest, fun i hi => ?_⟩
      obtain ⟨hge, hgt⟩ := hle i ((hfinite i).1 hi)
      have hfk := hbest.2
      have hfi := ((hfinite i).1 hi).2
      refine ⟨fun h => ?_, fun h => ?_⟩
      · exact absurd ((sideKey_outer s _ _ hfi hfk).1 (beq_iff_eq.2 h)) (not_lt.2 hge)
      · cases s with
        | true => exact (hfi.cmp_gt hfk).2 (hgt h)
        | false => exact (hfi.cmp_lt hfk).2 (neg_lt_neg_iff.1 (hgt h))
    · obtain ⟨j, hj, hfirst⟩ := anyInfEntry_first hcb hi hi'
      obtain rfl : k = j := hcode.trans (by rw [infEntry_none hcb hi, outermostEntry, bestFin_none hcb (sideKey_outer s) (hnone h), hj]; rfl)
      exact hfirst

end Sys2Proof.Machine

/-! PROOFS. QNT's blocks: the scale of each and the element under it (07 R245, R246, R265). -/

namespace Sys2Proof.Machine

/-! ### Rounded elements fit their width -/

theorem roundInt_lt {w : Nat} (hw : 0 < w) (srnd r : Nat) (z : Exact) : roundInt w srnd r z < 2 ^ w := by
  have h2 : 2 ^ w = 2 * 2 ^ (w - 1) := by rw [← Nat.pow_succ']; congr 1; omega
  have h1 : 1 ≤ 2 ^ (w - 1) := Nat.one_le_two_pow
  have hof : ∀ x, ofInt w x < 2 ^ w := fun x => by
    have hlt := Int.emod_lt_of_pos x (b := (2 ^ w : Nat)) (by positivity)
    have hge := Int.emod_nonneg x (b := (2 ^ w : Nat)) (by positivity)
    unfold ofInt
    omega
  cases z with
  | nan => exact Nat.two_pow_pos w
  | inf neg => simp only [roundInt]; split <;> omega
  | fin neg m e st =>
    simp only [roundInt]
    split
    · exact hof _
    · omega

theorem roundTo_fits (f : Fmt) (srnd : Nat) (ssat : Bool) (r : Nat) (z : Exact) : roundTo f srnd ssat r z < 2 ^ f.width := by
  cases f with
  | i32 => exact roundInt_lt (by decide) srnd r z
  | i8 => exact roundInt_lt (by decide) srnd r z
  | c4 => exact Nat.two_pow_pos _
  | f32 => exact roundTo_lt rfl srnd ssat r z
  | b16 => exact roundTo_lt rfl srnd ssat r z
  | h16 => exact roundTo_lt rfl srnd ssat r z
  | e4 => exact roundFloat_lt Fmt.e4.float (by decide) srnd ssat r z
  | e5 => exact roundFloat_lt Fmt.e5.float (by decide) srnd ssat r z

/-! ### Blocks -/

/-- An element of a QNT result under its scale byte, under SRND 0 to 3. -/
def qntElem (f : Fmt) (cb : List Nat) (srnd : Nat) (ssat : Bool) (scale : Nat) (v : Exact) : Nat :=
  let y := v.scale (127 - (scale : Int))
  if scale = 255 then 0 else if f = .c4 then c4Code cb y else roundTo f srnd ssat 0 y

section Blocks
variable {f : Fmt} {cb : List Nat} {srnd : Nat} {ssat : Bool} {blk : Nat}

theorem qntBlock_eq (hs : srnd ≠ 4) (scale : Nat) (xs : List Exact) (l : Word) :
    qntBlock f cb srnd ssat scale xs l = (xs.map (qntElem f cb srnd ssat scale), l) := by
  have hstep : ∀ y, roundStep f srnd ssat l y = (roundTo f srnd ssat 0 y, l) := fun y => if_neg hs
  induction xs with
  | nil => rfl
  | cons x xs ih =>
    simp only [qntBlock, hstep, qntElem, List.map_cons]
    split
    · rw [ih]
    · split
      · rw [ih]
      · rw [ih]

theorem qntBlocks_length (n : Nat) (xs : List Exact) (l : Word) : (qntBlocks f cb srnd ssat blk n xs l).2.1.length = n := by
  induction n generalizing xs l with
  | zero => rfl
  | succ n ih => simp only [qntBlocks, List.length_cons, ih]

/-- The scale of a block is that of its elements. -/
theorem qntBlocks_scale {n i : Nat} (hi : i < n) (xs : List Exact) (l : Word) :
    (qntBlocks f cb srnd ssat blk n xs l).2.1.getD i 0 = qntScale f cb ((xs.drop (blkElems blk * i)).take (blkElems blk)) := by
  induction n generalizing i xs l with
  | zero => omega
  | succ n ih =>
    cases i with
    | zero => simp only [qntBlocks, List.getD_cons_zero, Nat.mul_zero, List.drop_zero]
    | succ i =>
      simp only [qntBlocks, List.getD_cons_succ]
      rw [ih (by omega), List.drop_drop, Nat.mul_succ, Nat.add_comm]

theorem blkElems_pos (blk : Nat) : 0 < blkElems blk := by unfold blkElems; split <;> decide

/-- An element of the blocks is formed under the scale of its own. -/
theorem qntBlocks_elem (hs : srnd ≠ 4) {n j : Nat} {xs : List Exact} (hx : j < xs.length) (hn : j < blkElems blk * n) (l : Word) :
    let r := qntBlocks f cb srnd ssat blk n xs l
    r.1.getD j 0 = qntElem f cb srnd ssat (r.2.1.getD (j / blkElems blk) 0) (xs.getD j .nan) := by
  have hb := blkElems_pos blk
  induction n generalizing j xs l with
  | zero => simp at hn
  | succ n ih =>
    rw [Nat.mul_succ] at hn
    simp only [qntBlocks, qntBlock_eq hs]
    by_cases hj : j < blkElems blk
    · rw [Nat.div_eq_of_lt hj, List.getD_cons_zero, List.getD_append _ _ _ _ (by simp; omega)]
      simp [List.getD_eq_getElem?_getD, hx, hj]
    · have hdiv : j / blkElems blk = (j - blkElems blk) / blkElems blk + 1 := by rw [← Nat.div_eq_sub_div hb (by omega)]
      rw [hdiv, List.getD_cons_succ]
      by_cases hlen : blkElems blk ≤ xs.length
      · rw [List.getD_append_right _ _ _ _ (by simp; omega), List.length_map, List.length_take, min_eq_left hlen,
          ih (by rw [List.length_drop]; omega) (by omega)]
        congr 1
        simp only [List.getD_eq_getElem?_getD, List.getElem?_drop]
        congr 2
        omega
      · omega

end Blocks

/-- The values of a block. -/
theorem mem_block (v : Nat → Exact) (n a b : Nat) (x : Exact) :
    x ∈ (((List.range n).map v).drop a).take b ↔ ∃ j, (a ≤ j ∧ j < a + b ∧ j < n) ∧ v j = x := by
  constructor
  · intro h
    obtain ⟨k, hk, rfl⟩ := List.mem_iff_getElem.1 h
    simp only [List.length_take, List.length_drop, List.length_map, List.length_range] at hk
    exact ⟨a + k, by omega, by simp⟩
  · rintro ⟨j, ⟨h1, h2, h3⟩, rfl⟩
    refine List.mem_iff_getElem.2 ⟨j - a, by simp; omega, ?_⟩
    simp only [List.getElem_take, List.getElem_drop, List.getElem_map, List.getElem_range]
    congr 1
    omega

/-- The values of a codebook. -/
theorem mem_book {cb : List Nat} (h : cb.length = 16) (g : Nat → Exact) (x : Exact) : x ∈ cb.map g ↔ ∃ k, k < 16 ∧ g (cb.getD k 0) = x := by
  rw [List.mem_map]
  constructor
  · rintro ⟨y, hy, rfl⟩
    obtain ⟨k, hk, rfl⟩ := List.mem_iff_getElem.1 hy
    exact ⟨k, by omega, by simp [List.getD_eq_getElem?_getD, hk]⟩
  · rintro ⟨k, hk, rfl⟩
    exact ⟨_, List.getElem_mem (by omega : k < cb.length), by simp [List.getD_eq_getElem?_getD, h ▸ hk]⟩

theorem any_isNan (xs : List Exact) : xs.any Exact.isNan = true ↔ .nan ∈ xs := by
  rw [List.any_eq_true]
  refine ⟨?_, fun h => ⟨_, h, rfl⟩⟩
  rintro ⟨x, hx, hn⟩
  cases x with
  | nan => exact hx
  | inf s => cases hn
  | fin s m e st => cases hn

/-- The emax of a format: that of C4 is the codebook's own. -/
theorem qntEmax_c4 {cb : List Nat} (h : cb.length = 16) :
    let entry := fun k => decodeFloat Fmt.b16.float (cb.getD k 0)
    NoMagnitude entry (· < 16) ∧ qntEmax .c4 cb = 0 ∨ TopLog entry (· < 16) (qntEmax .c4 cb) := by
  intro entry
  have hxs := mem_book h (decodeFloat Fmt.b16.float)
  have hv : ∀ j s m e st, entry j = .fin s m e st → st = false := fun j s m e st => decodeFloat_exact
  by_cases hz : NoMagnitude entry (· < 16)
  · exact .inl ⟨hz, if_pos ((maxFin_isZero hxs hv).2 hz)⟩
  · have he : qntEmax .c4 cb = floorLog2 (maxFin (cb.map (decodeFloat Fmt.b16.float))) := if_neg fun h => hz ((maxFin_isZero hxs hv).1 h)
    rw [he]
    exact .inr (maxFin_topLog hxs hv hz)

section Scale
variable {f : Fmt} {cb : List Nat} {xs : List Exact} {v : Nat → Exact} {p : Nat → Prop} (hxs : ∀ x, x ∈ xs ↔ ∃ j, p j ∧ v j = x)
include hxs

theorem qntScale_nan (hf : f = .i8 ∨ f = .c4) (h : ∃ j, p j ∧ v j = .nan) : qntScale f cb xs = 255 :=
  if_pos ⟨hf, (any_isNan xs).2 ((hxs _).2 h)⟩

theorem qntScale_number (h : ¬((f = .i8 ∨ f = .c4) ∧ ∃ j, p j ∧ v j = .nan)) :
    qntScale f cb xs = if (maxFin xs).isZero then 127 else clampScale (floorLog2 (maxFin xs) - qntEmax f cb + 127) :=
  if_neg fun ⟨hf, hn⟩ => h ⟨hf, (hxs _).1 ((any_isNan xs).1 hn)⟩

end Scale

/-- An element of a QNT result fits its width. -/
theorem qntElem_lt {f : Fmt} {cb : List Nat} (hcb : cb.length = 16) (srnd : Nat) (ssat : Bool) (scale : Nat) (v : Exact) :
    qntElem f cb srnd ssat scale v < 2 ^ f.width := by
  unfold qntElem
  dsimp only
  split
  · exact Nat.two_pow_pos _
  · split
    case isTrue hf => rw [hf]; exact c4Code_lt hcb _
    case isFalse => exact roundTo_fits ..

theorem getD_map_range {α : Type} (g : Nat → α) (d : α) {n j : Nat} (h : j < n) : ((List.range n).map g).getD j d = g j := by
  simp [List.getD_eq_getElem?_getD, List.getElem?_range h]

/-- Value `j` of a source operand. -/
def srcValue (a : Reg) (j : Nat) : Exact := valueOf a.fmt (Lanes.elem a.lanes a.fmt.width j)

theorem validElems_values (a : Reg) :
    (validElems a.fmt a.lanes a.vlen.val).map (valueOf a.fmt) = (List.range (validCount a.fmt a.vlen.val)).map (srcValue a) := List.map_map ..

/-- The scale bytes in use serve every element of a floating token. -/
theorem bytesInUse_cover (f : Fmt) {blk : Nat} (h : blk ≤ 2) : 32 ≤ blkElems blk * bytesInUse f blk := by
  have h128 : ∀ b ≤ 2, 32 ≤ blkElems b * (128 / blkElems b) := by decide
  have h64 : ∀ b ≤ 2, 32 ≤ blkElems b * (64 / blkElems b) := by decide
  unfold bytesInUse
  split
  · exact h128 blk h
  · exact h64 blk h

/-- The blocks of a QNT. -/
def qntOf (blk : Nat) (cb : List Nat) (x : OpIn) : List Nat × List Nat × Word :=
  qntBlocks x.f cb x.srnd x.ssat blk (bytesInUse x.f blk) ((List.range (validCount x.a.fmt x.a.vlen.val)).map (srcValue x.a)) x.lfsr

theorem opQnt_blocks (blk : Nat) (cb : List Nat) (x : OpIn) :
    opQnt blk cb x = (mkReg x.f (vlenFor x.f.width (validCount x.a.fmt x.a.vlen.val)) (qntOf blk cb x).1, (qntOf blk cb x).2) := by
  unfold opQnt qntOf
  dsimp only
  rw [validElems_values, List.length_map, List.length_range]

/-- The VLEN of a result of `n` elements that a token holds. -/
theorem vlenFor_val {w n : Nat} (h : n * w ≤ 512) : (vlenOf (vlenFor w n)).val = (n * w + 31) / 32 - 1 :=
  vlenOf_val (by unfold vlenFor; omega)

/-- QNT by its table. -/
theorem qntFollowsTheTable : Claim.QntFollowsTheTable := by
  intro blk cb x ha hf hblk hcb
  rw [opQnt_blocks]
  intro o n v b scale entry emax
  have hn : n ≤ 32 := (validCount_le x.a.fmt x.a.vlen.isLt).trans (by revert ha; cases x.a.fmt <;> decide)
  have hw : x.f.width ≤ 8 ∧ 64 ≤ x.f.elems := by revert hf; cases x.f <;> decide
  have hv : ∀ j s m e st, v j = .fin s m e st → st = false := fun j s m e st => valueOf_exact
  have hlen : o.2.1.length = bytesInUse x.f blk := qntBlocks_length ..
  have hbytes : 32 ≤ b * bytesInUse x.f blk := bytesInUse_cover x.f hblk
  refine ⟨rfl, vlenFor_val ((Nat.mul_le_mul hn hw.1).trans (by decide)), hlen, fun i hi => ?_, fun j hj hs => ?_⟩
  · intro inBlk nan
    have hscale : scale i = qntScale x.f cb ((((List.range n).map v).drop (b * i)).take b) := qntBlocks_scale (hlen ▸ hi) _ _
    have hmem : ∀ y, y ∈ (((List.range n).map v).drop (b * i)).take b ↔ ∃ j, inBlk j ∧ v j = y := mem_block v n (b * i) b
    refine ⟨fun h => hscale.trans (qntScale_nan hmem h.1 h.2), fun h hz => ?_, fun h top htop => ⟨qntEmax x.f cb, ?_, ?_⟩⟩
    · rw [hscale, qntScale_number hmem h, if_pos ((maxFin_isZero hmem hv).2 hz)]
    · refine ⟨fun h => by rw [h]; rfl, fun h => by rw [h]; rfl, fun h => by rw [h]; rfl, fun h => ?_⟩
      rw [h]
      exact qntEmax_c4 hcb
    · have hz := htop.magnitude
      rw [hscale, qntScale_number hmem h, if_neg fun hz' => hz ((maxFin_isZero hmem hv).1 hz'),
        (maxFin_topLog hmem hv hz).unique htop]
      rfl
  · have helem : (qntOf blk cb x).1.getD j 0 = qntElem x.f cb x.srnd x.ssat (scale (j / b)) (v j) := by
      rw [qntOf, qntBlocks_elem hs.ne (by simpa using hj) (hj.trans_le (hn.trans hbytes)), getD_map_range _ _ hj]
      rfl
    calc Lanes.elem o.1.lanes x.f.width j = (qntOf blk cb x).1.getD j 0 % 2 ^ x.f.width := elem_mkReg _ _ _ (by omega)
      _ = qntElem x.f cb x.srnd x.ssat (scale (j / b)) (v j) := by rw [helem, Nat.mod_eq_of_lt (qntElem_lt hcb ..)]

end Sys2Proof.Machine

/-! PROOFS. CVT, the firing of QNT, and DQNT part by part (07 R262, R264-R266). -/

namespace Sys2Proof.Machine

/-! ### CVT (07 R264) -/

/-- A result of rounded elements. -/
theorem elem_rounded (f : Fmt) (v srnd : Nat) (ssat : Bool) (l : Word) {n j : Nat} (g : Nat → Exact) (hj : j < f.elems) :
    Lanes.elem (mkReg f v (roundList f srnd ssat ((List.range n).map g) l).1).lanes f.width j =
      if j < n then roundTo f srnd ssat (if srnd = 4 then (lfsrAfter (j + 1) l).toNat else 0) (g j) else 0 := by
  rw [elem_mkReg _ _ _ hj]
  split
  case isTrue h =>
    rw [roundList_getD _ _ _ _ _ (by simpa using h), getD_map_range _ _ h, Nat.mod_eq_of_lt (roundTo_fits ..)]
  case isFalse h => rw [List.getD_eq_default _ _ (by rw [roundList_length]; simpa using h), Nat.zero_mod]

/-- How many elements CVT uses. -/
def cvtCount (f : Fmt) (a : Reg) : Nat := if f.width = 32 then min (validCount a.fmt a.vlen.val) 16 else validCount a.fmt a.vlen.val

theorem opCvt_reg (x : OpIn) :
    (opCvt x).1 = mkReg x.f (vlenFor x.f.width (cvtCount x.f x.a))
      (roundList x.f x.srnd x.ssat ((List.range (cvtCount x.f x.a)).map (srcValue x.a)) x.lfsr).1 := by
  have hused : (if x.f.width = 32 then (validElems x.a.fmt x.a.lanes x.a.vlen.val).take 16 else validElems x.a.fmt x.a.lanes x.a.vlen.val) =
      (List.range (cvtCount x.f x.a)).map fun j => Lanes.elem x.a.lanes x.a.fmt.width j := by
    unfold cvtCount validElems
    split
    · rw [← List.map_take, List.take_range, min_comm]
    · rfl
  unfold opCvt
  dsimp only
  rw [hused, List.map_map, List.length_map, List.length_range]
  rfl

theorem cvtCount_fits {f : Fmt} {a : Reg} (hf : setW f = true) (ha : setW a.fmt = true) : cvtCount f a * f.width ≤ 512 := by
  have hn : validCount a.fmt a.vlen.val ≤ 32 := (validCount_le a.fmt a.vlen.isLt).trans (by revert ha; cases a.fmt <;> decide)
  unfold cvtCount
  split
  case isTrue h => rw [h]; omega
  case isFalse h =>
    have : f.width = 16 := by revert hf h; cases f <;> decide
    rw [this]; omega

/-- The plane that CVT leaves. -/
def Firing.cvtPlane (x : Firing) (t : TagAct) (a : Reg) (l : Word) (p : Plane) : Plane :=
  let p := { p with lfsr := l }
  if a.fmt.floating then x.takeAmax t a p else p

/-- Its AMAX takes the elements of a floating A, or they are held for it. -/
theorem Firing.cvtPlane_amax (x : Firing) (t : TagAct) (a : Reg) (l : Word) (p : Plane) :
    let u := x.cvtPlane t a l p
    let kept := a.fmt.floating && (x.holdsAmax t || p.amaxHeld.any AmaxHeld.clear)
    ((u.amax, u.amaxNan) = if a.fmt.floating && !kept then amaxUpdate a (p.amax, p.amaxNan) else (p.amax, p.amaxNan)) ∧
      u.amaxHeld = p.amaxHeld ++
        if kept then [⟨x.ctx, x.iter, none, (amaxUpdate a (0, false)).1, (amaxUpdate a (0, false)).2, false, !x.holdsAmax t⟩] else [] := by
  unfold Firing.cvtPlane
  cases a.fmt.floating with
  | false => exact ⟨rfl, (List.append_nil _).symm⟩
  | true =>
    simp only [Bool.true_and, ↓reduceIte, Firing.takeAmax]
    cases x.holdsAmax t || p.amaxHeld.any AmaxHeld.clear with
    | true => exact ⟨rfl, rfl⟩
    | false => exact ⟨rfl, (List.append_nil _).symm⟩

theorem fireCvt_plane {s : State} {a d : BitVec 5} {t : BitVec 4} {q : Bool} (ha : setW (s.firing.src a).fmt = true)
    (ht : s.tagsFit t Reg.zero (isOut d)) {α : Type} (g : Plane → α) (hg : ∀ p ds ps bs, g { p with d := ds, p := ps, beat := bs } = g p) :
    g (((fireCvt a d t q s).elem s.firing.el).plane s.firing.ical) =
      g (s.firing.cvtPlane t (s.firing.src a) (opCvt (s.firing.opIn a 24 24)).2 s.firing.pl) := by
  unfold fireCvt
  exact State.commit_plane (by exact State.tagsFit_one ht _) (if_pos ha) g hg fun _ => rfl

theorem cvtResult : Claim.CvtResult := by
  intro s a d t q x A f n n' at' hf ha ht
  have plane := fun {α : Type} (g : Plane → α) hg => fireCvt_plane (a := a) (q := q) ha ht g hg
  refine ⟨fireCvt a d t q s, (opCvt (x.opIn a 24 24)).1, rfl, ?_, rfl, ?_, fun j hj => ?_, ?_⟩
  · unfold fireCvt
    exact State.commit_delivers (by exact State.tagsFit_one ht _) (if_pos ha) rfl fun _ => rfl
  · rw [opCvt_reg]
    exact vlenFor_val (cvtCount_fits hf ha)
  · rw [opCvt_reg]
    exact elem_rounded _ _ _ _ _ _ hj
  · intro p held kept
    obtain ⟨hamax, hheld⟩ := x.cvtPlane_amax t A (opCvt (x.opIn a 24 24)).2 x.pl
    exact ⟨(plane (fun p => (p.amax, p.amaxNan)) fun _ _ _ _ => rfl).trans hamax, (plane Plane.amaxHeld fun _ _ _ _ => rfl).trans hheld⟩

/-! ### QNT's firing (07 R255, R265) -/

theorem qntResult : Claim.QntResult := by
  intro s a d t q x A f k7 c book o ha hbook hc ht
  have hflts : (if setF A.fmt then [] else [elFormat x.el a A.fmt]) ++ (if f = .c4 then c.bookUse x.ctx book else []) = [] := by
    rw [if_pos ha, List.nil_append]
    split
    case isTrue h => exact hbook h
    case isFalse => rfl
  obtain ⟨n, hn, hd, he⟩ := State.commitAlloc_binds (s := s) (c := c) (t := t) (q := q) (reads := [a]) (b := Reg.zero) (d := d)
    (e := ⟨true, 0, 0, 1, f, .ofNat 2 (bits k7 13 12), book, 0, 0, scaleBytes o.2.1⟩) (body := o.1)
    (plane := fun p => x.takeAmax t A { p with lfsr := o.2.2 }) hflts hc ht
  refine ⟨fireQnt a d t q s, n, hn, rfl, ?_, ?_⟩
  · unfold fireQnt
    exact hd
  · unfold fireQnt
    exact he

/-! ### DQNT (07 R245, R266) -/

theorem dqntPartsResult : Claim.DqntParts := by
  intro s a d t q x A f c e k last t' ha hr ht
  have hfaults : (if setN A.fmt then c.read x.ctx A else [elFormat x.el a A.fmt]) = [] := (if_pos ha).trans hr
  have hworld : ∀ t : State, (if last && !q then t.onScl x.el fun c => c.use A.bind.toNat else t).elems = t.elems := by
    intro t
    split <;> rfl
  refine ⟨fireDqnt a d t q s, rfl, ?_, ?_, fun hl => ⟨?_, fun ch => ?_⟩⟩
  · unfold fireDqnt
    exact State.commit_delivers (by exact State.tagsFit_one ht _) hfaults rfl hworld
  · unfold fireDqnt
    exact (State.commit_plane (by exact State.tagsFit_one ht _) hfaults (fun p => p.part[x.slot]) (fun _ _ _ _ => rfl) hworld).trans
      (Vector.getElem_set_self _)
  · unfold fireDqnt
    refine State.commit_scl (by exact State.tagsFit_one ht _) hfaults (· = c) fun v hv => ?_
    show (if last && !q then v.onScl x.el _ else v).scl x.el = c
    rw [hl]
    exact hv
  · unfold fireDqnt
    exact State.commit_queue (by exact State.tagsFit_one ht _) hfaults (by show (q || !last) = true; rw [hl]; exact Bool.or_true q) hworld _ _

/-- Value `j` of a part: an element of A under its scale byte. -/
def partValue (k blk : Nat) (scales cb : List Nat) (x : OpIn) (j : Nat) : Exact :=
  scaledValue x.a.fmt cb (scales.getD ((k * x.f.elems + j) / blkElems blk) 0) (Lanes.elem x.a.lanes x.a.fmt.width (k * x.f.elems + j))

/-- How many elements a part takes. -/
def partCount (k : Nat) (x : OpIn) : Nat := min x.f.elems (validCount x.a.fmt x.a.vlen.val - k * x.f.elems)

theorem opDqnt_reg (k blk : Nat) (scales cb : List Nat) (x : OpIn) :
    (opDqnt k blk scales cb x).1 = mkReg x.f (vlenFor x.f.width (partCount k x))
      (roundList x.f x.srnd false ((List.range (partCount k x)).map (partValue k blk scales cb x)) x.lfsr).1 := by
  have hvals : ((((validElems x.a.fmt x.a.lanes x.a.vlen.val).drop (k * x.f.elems)).take x.f.elems).zipIdx.map fun p =>
      scaledValue x.a.fmt cb (scales.getD ((k * x.f.elems + p.2) / blkElems blk) 0) p.1) =
      (List.range (partCount k x)).map (partValue k blk scales cb x) := by
    refine List.ext_getElem (by simp [partCount]) fun j h1 h2 => ?_
    simp [validElems, partValue]
  unfold opDqnt
  dsimp only
  rw [hvals, List.length_map, List.length_range]

theorem roundTo_nan {f : Fmt} (hf : f.floating = true) (srnd : Nat) (ssat : Bool) (r : Nat) : roundTo f srnd ssat r .nan = f.float.nanEnc := by
  cases f <;> simp only [Fmt.floating, Bool.false_eq_true] at hf <;> rfl

/-- DQNT by its table. -/
theorem dqntFollowsTheTable : Claim.DqntFollowsTheTable := by
  intro k blk scales cb x ha hf hs hk
  rw [opDqnt_reg]
  intro o count
  have hfits : count * x.f.width ≤ 512 := by
    have : x.f.elems * x.f.width = 512 := by cases x.f <;> rfl
    exact (Nat.mul_le_mul_right _ (min_le_left _ _)).trans this.le
  refine ⟨rfl, vlenFor_val hfits, fun j hj => ?_⟩
  intro i e code v
  refine (elem_rounded _ _ _ _ _ _ hj).trans ?_
  rw [if_neg hs.ne]
  by_cases hc : count ≤ j
  · rw [if_pos hc]
    exact if_neg (not_lt.2 hc)
  · refine (if_pos (not_le.1 hc)).trans ?_
    rw [if_neg hc, partValue, scaledValue]
    split
    case isTrue => exact roundTo_nan hf ..
    case isFalse => rfl

/-- Settles O7: a rounded element fits its width; QNT's blocks one by one, each under the power of two below its largest magnitude; the code of a value
by the best of the finite entries. -/
theorem conversionResults : Obligations.ConversionResults :=
  ⟨cvtResult, qntResult, qntFollowsTheTable, codebookCodes, dqntPartsResult, dqntFollowsTheTable⟩

end Sys2Proof.Machine

/-! PROOFS. The absorption of KILL tokens (08 R280; 11 R368). -/

namespace Sys2Proof.Machine

/-! ### EOS|KILL tokens on several channels -/

/-- The token that an absorbed KILL token sends on. -/
def Token.sentKill (t : Token) : Token := { t.asKill with eos := true, spec := false }

section StageKills
variable (s : State) (e : ElemAt) (ical : Bool) (t : Token) (outs : List (Fin 8))

theorem State.stage_stripe (c : Fin 8) (u : Token) (p : StripeAt) : (s.stage e ical c u).stripe p = s.stripe p := rfl

/-- Each channel takes one token, and no other channel changes. -/
theorem State.stageKills_out (hn : outs.Nodup) (o : Fin 8) :
    ((s.stageKills e ical t outs).elem e).out[o] =
      (s.elem e).out[o] ++ if o ∈ outs then [⟨t.sentKill, (s.stripe e.at_).parity ical, ical⟩] else [] := by
  induction outs generalizing s with
  | nil => simp [State.stageKills]
  | cons c cs ih =>
    obtain ⟨hc, hcs⟩ := List.nodup_cons.1 hn
    have hrec := ih (s.stage e ical c t.sentKill) hcs
    rw [State.stage_out, State.stage_stripe] at hrec
    refine hrec.trans ?_
    by_cases ho : c = o
    · subst ho
      simp [hc]
    · have ho' : o ≠ c := Ne.symm ho
      simp [Fin.val_ne_of_ne ho, ho', Vector.getElem_set_ne]

theorem State.stageKills_queue (j : Bool) (n : Fin 8) : ((s.stageKills e ical t outs).elem e).queue j n = (s.elem e).queue j n :=
  foldl_keeps (fun u : State => (u.elem e).queue j n) _ (fun u c => State.stage_queue u e ical j c _ n) outs s

theorem State.stageKills_plane (j : Bool) : ((s.stageKills e ical t outs).elem e).plane j = (s.elem e).plane j :=
  foldl_keeps (fun u : State => (u.elem e).plane j) _ (fun u c => State.stage_plane u e ical j c _) outs s

end StageKills

theorem Plane.killOuts_nodup (p : Plane) (j : Bool) (c : Fin 8) : (p.killOuts j c).Nodup := by
  have h8 : (List.range 8).Pairwise fun a b => Fin.ofNat 8 a ≠ Fin.ofNat 8 b := by decide
  unfold Plane.killOuts
  refine List.pairwise_filterMap.2 (h8.imp fun hne b hb b' hb' => ?_)
  obtain ⟨-, hb⟩ := Option.ite_none_right_eq_some.1 hb
  obtain ⟨-, hb'⟩ := Option.ite_none_right_eq_some.1 hb'
  cases hb
  cases hb'
  exact hne

theorem killTokenAbsorbed : Claim.KillTokenAbsorbed := by
  intro s c ical k rest outs hq hk
  have hexec : exec (.killAbsorb c ical) s = .next
      (if k.kill && s.moving c.el.at_ ical && outs.all fun o => decide (1 ≤ s.outFree c.el ical o) then
        State.stageKills (s.setElem c.el ((s.elem c.el).setQueue ical c.chan rest)) c.el ical k outs
      else s) := by
    show Host.Outcome.next (s.absorb c.el ical c.chan) = _
    unfold State.absorb
    dsimp only
    rw [hq]
  have hn : outs.Nodup := by
    unfold outs
    split
    · exact Plane.killOuts_nodup ..
    · exact List.nodup_nil
  refine ⟨fun h => ?_, fun hm hfree => ?_⟩
  · rw [hexec, if_neg]
    intro hgo
    simp only [Bool.and_eq_true, List.all_eq_true, decide_eq_true_eq] at hgo
    obtain ⟨⟨-, hm⟩, hfree⟩ := hgo
    rcases h with h | ⟨o, ho, h⟩
    · rw [h] at hm; cases hm
    · have := hfree o ho; omega
  · rw [if_pos (by simpa [hk, hm] using hfree)] at hexec
    refine ⟨_, hexec, ?_, fun o ho => ?_, fun o ho => ?_⟩
    · rw [State.stageKills_queue, State.elem_setElem, Elem.queue_setQueue]
    · rw [State.stageKills_out _ _ _ _ _ hn, State.elem_setElem, Elem.out_setQueue, if_pos ho]
      exact ⟨_, rfl, rfl, rfl, rfl, rfl, rfl, rfl⟩
    · rw [State.stageKills_out _ _ _ _ _ hn, State.elem_setElem, if_neg ho, List.append_nil, Elem.out_setQueue]

/-! ### The matrix engine's (11 R368) -/

/-- What the absorption of a KILL token leaves, when it sends on `outs`. -/
def State.mxAbsorbed (s : State) (e : ElemAt) (ical : Bool) (k : Token) (rest : List Token) (outs : List Nat) : State :=
  let u := State.stageKills (s.setElem e ((s.elem e).setQueue ical 0 rest)) e ical k (outs.map (Fin.ofNat 8))
  if outs.isEmpty then u else u.onElem e fun x => x.setPlane ical ((x.plane ical).mxExit k.ctx)

/-- The channels on which a KILL token is sent on. -/
def State.mxKillOuts (s : State) (e : ElemAt) (ical : Bool) (k : Token) : List Nat :=
  let m := ((s.elem e).plane ical).m
  ((if k.eos && !k.spec then m.select ((s.stripe e.at_).conf ical).ctx k.ctx else none).map fun d => m.descs[d].drainChans).getD []

theorem State.mxAbsorb_head {s : State} {e : ElemAt} {ical : Bool} {k : Token} {rest : List Token} (hq : (s.elem e).queue ical 0 = k :: rest) :
    s.mxAbsorb e ical =
      if k.kill && s.moving e.at_ ical && (s.mxKillOuts e ical k).all fun q => decide (1 ≤ s.outFree e ical (Fin.ofNat 8 q)) then
        s.mxAbsorbed e ical k rest (s.mxKillOuts e ical k)
      else s := by
  unfold State.mxAbsorb State.mxAbsorbed State.stageKills State.mxKillOuts
  dsimp only
  rw [hq, List.foldl_map]
  dsimp only
  rcases Option.eq_none_or_eq_some (((s.elem e).plane ical).m.select ((s.stripe e.at_).conf ical).ctx k.ctx) with hsel | ⟨d, hsel⟩
  · simp only [hsel, ite_self]
    rfl
  · simp only [hsel]
    cases hs : k.eos && !k.spec with
    | true => rfl
    | false => rfl

theorem State.mxKillOuts_nodup (s : State) (e : ElemAt) (ical : Bool) (k : Token) : ((s.mxKillOuts e ical k).map (Fin.ofNat 8)).Nodup := by
  unfold State.mxKillOuts
  dsimp only
  cases (if k.eos && !k.spec then ((s.elem e).plane ical).m.select ((s.stripe e.at_).conf ical).ctx k.ctx else none) with
  | none => exact List.nodup_nil
  | some d =>
    show ((Desc.drainChans _).map _).Nodup
    unfold Desc.drainChans
    split
    · decide
    · decide

section Absorbed
variable (s : State) (e : ElemAt) (ical : Bool) (k : Token) (rest : List Token) (outs : List Nat)

theorem State.mxAbsorbed_queue : ((s.mxAbsorbed e ical k rest outs).elem e).queue ical 0 = rest := by
  unfold State.mxAbsorbed
  dsimp only
  split
  · rw [State.stageKills_queue, State.elem_setElem, Elem.queue_setQueue]
  · rw [State.elem_onElem, Elem.queue_setPlane, State.stageKills_queue, State.elem_setElem, Elem.queue_setQueue]

theorem State.mxAbsorbed_out (hn : (outs.map (Fin.ofNat 8)).Nodup) {q : Nat} (h : q ∈ outs) :
    ((s.mxAbsorbed e ical k rest outs).elem e).out[Fin.ofNat 8 q] =
      (s.elem e).out[Fin.ofNat 8 q] ++ [⟨k.sentKill, (s.stripe e.at_).parity ical, ical⟩] := by
  unfold State.mxAbsorbed
  dsimp only
  rw [if_neg (by simpa using List.ne_nil_of_mem h), State.elem_onElem, Elem.out_setPlane, State.stageKills_out _ _ _ _ _ hn, State.elem_setElem,
    Elem.out_setQueue, if_pos (List.mem_map_of_mem h)]
  rfl

/-- It is counted as an exit, up to EXITS. -/
theorem State.mxAbsorbed_exits :
    (((s.mxAbsorbed e ical k rest outs).elem e).plane ical).exitCount k.ctx =
      let p := (s.elem e).plane ical
      if outs ≠ [] ∧ p.exitCount k.ctx < Hdr.exits p.hdr then p.exitCount k.ctx + 1 else p.exitCount k.ctx := by
  unfold State.mxAbsorbed
  dsimp only
  split
  case isTrue h => rw [State.stageKills_plane, State.elem_setElem, Elem.plane_setQueue, if_neg fun h' => h'.1 (by simpa using h)]
  case isFalse h =>
    rw [State.elem_onElem, Elem.plane_setPlane, State.stageKills_plane, State.elem_setElem, Elem.plane_setQueue, Plane.mxExit]
    by_cases hlt : ((s.elem e).plane ical).exitCount k.ctx < Hdr.exits ((s.elem e).plane ical).hdr
    · rw [if_pos hlt, if_pos ⟨by simpa using h, hlt⟩, Plane.exitCount_countExit]
    · rw [if_neg hlt, if_neg fun h' => hlt h'.2]

end Absorbed

theorem matrixKillAbsorbed : Claim.MatrixKillAbsorbed := by
  intro s e ical k rest x p sel outs hq hk
  have hexec : exec (.mxKillAbsorb e ical) s = .next (s.mxAbsorb e ical) := rfl
  rw [hexec, State.mxAbsorb_head hq]
  refine ⟨fun h => ?_, fun hm hfree => ?_⟩
  · rw [if_neg]
    intro hgo
    simp only [Bool.and_eq_true, List.all_eq_true, decide_eq_true_eq] at hgo
    obtain ⟨⟨-, hm⟩, hfree⟩ := hgo
    rcases h with h | ⟨o, ho, h⟩
    · rw [h] at hm; cases hm
    · exact absurd (hfree o ho) (by omega)
  · have hfree' : ((s.mxKillOuts e ical k).all fun q => decide (1 ≤ s.outFree e ical (Fin.ofNat 8 q))) = true :=
      List.all_eq_true.2 fun q hq => decide_eq_true (hfree q hq)
    rw [if_pos (by rw [hk, hm, hfree']; rfl)]
    refine ⟨_, rfl, State.mxAbsorbed_queue .., fun q hq => ?_, State.mxAbsorbed_exits ..⟩
    exact ⟨_, State.mxAbsorbed_out _ _ _ _ _ _ (s.mxKillOuts_nodup e ical k) hq, rfl, rfl, rfl, rfl⟩

end Sys2Proof.Machine

/-! PROOFS. What the sweep of a killed iteration leaves of an element (08 R298). -/

namespace Sys2Proof.Machine

/-- A token that a sweep removes: one of the iteration that is no KILL token. -/
def Token.swept (ctx : BitVec 6) (v : BitVec 12) (t : Token) : Bool := t.ctx == ctx && t.iter == v && !t.kill

theorem Token.swept_kill {ctx : BitVec 6} {v : BitVec 12} {t : Token} (h : t.kill = true) : t.swept ctx v = false := by
  rw [Token.swept, h, Bool.not_true, Bool.and_false]

/-- An element holds no token that the sweep removes. -/
structure Elem.Swept (x : Elem) (ical : Bool) (ctx : BitVec 6) (v : BitVec 12) : Prop where
  queue : ∀ c, ∀ k ∈ x.queue ical c, k.swept ctx v = false
  halves : ∀ h ∈ x.halves, h.ical = ical → h.tok.swept ctx v = false
  ready : ∀ p ∈ x.ready, p.ical = ical → p.a.swept ctx v = false ∧ p.b.swept ctx v = false
  out : ∀ c : Fin 8, ∀ k ∈ x.out[c], k.ical = ical → k.tok.swept ctx v = false
  parked : ∀ i a b hs, .parked ical i a b hs ∈ x.isb → a.swept ctx v = false

theorem dropped_kill {a : Alloc} {t k : Token} (h : k ∈ dropped a t) : k.kill = true := by
  unfold dropped at h
  split at h
  · rw [List.mem_singleton.1 h]
    rfl
  · cases h

section Sweep
variable (x : Elem) (ical : Bool) (ctx : BitVec 6) (v : BitVec 12) (a : Alloc)

theorem Elem.sweep_halves : (x.sweep ical ctx v a).halves = x.halves.filter fun h => !(h.ical == ical && h.tok.swept ctx v) := by
  cases ical <;> rfl

theorem Elem.sweep_ready :
    (x.sweep ical ctx v a).ready = x.ready.filter fun p => !(p.ical == ical && (p.a.swept ctx v || p.b.swept ctx v)) := by
  cases ical <;> rfl

theorem Elem.sweep_out :
    (x.sweep ical ctx v a).out =
      x.out.map fun o => o.flatMap fun t => if t.ical == ical && t.tok.swept ctx v then (dropped a t.tok).map fun k => { t with tok := k } else [t] := by
  cases ical <;> rfl

theorem Elem.sweep_isb :
    (x.sweep ical ctx v a).isb = x.isb.filter fun
      | .held op => !(op.ical == ical && op.ctx == ctx && op.iter == v)
      | .parked i _ t _ _ => !(i == ical && t.swept ctx v) := by
  cases ical <;> rfl

theorem Elem.sweep_queue (c : Fin 8) :
    (x.sweep ical ctx v a).queue ical c =
      x.parkedKills ical (Token.swept ctx v) a c ++ x.storeKills ical (Token.swept ctx v) a c ++ x.partners ical (Token.swept ctx v) c ++
        dropFrom (Token.swept ctx v) a (x.queue ical c) := by
  cases ical with
  | true => exact Vector.getElem_ofFn _
  | false => exact Vector.getElem_ofFn _

/-- A token of a swept queue is a KILL token, or one that stays: of the queue, or of a pair. -/
theorem Elem.mem_sweep_queue {c : Fin 8} {k : Token} (h : k ∈ (x.sweep ical ctx v a).queue ical c) :
    k.kill = true ∨ k.swept ctx v = false ∧ (k ∈ x.queue ical c ∨ ∃ p ∈ x.ready, p.ical = ical ∧ (k = p.a ∨ k = p.b)) := by
  rw [Elem.sweep_queue] at h
  simp only [List.mem_append] at h
  rcases h with ((h | h) | h) | h
  · obtain ⟨b, -, h⟩ := List.mem_flatMap.1 h
    cases b with
    | held op => cases h
    | parked i n t u hs =>
      dsimp only at h
      split at h
      · obtain ⟨y, -, h⟩ := List.mem_flatMap.1 h
        exact .inl (dropped_kill h)
      · cases h
  · obtain ⟨y, -, h⟩ := List.mem_flatMap.1 h
    exact .inl (dropped_kill h)
  · obtain ⟨p, hp, h⟩ := List.mem_flatMap.1 h
    obtain ⟨hp, hi⟩ := List.mem_filter.1 hp
    have hi : p.ical = ical := by simpa using hi
    rcases List.mem_append.1 h with h | h
    · split at h
      case isTrue hc =>
        rw [List.mem_singleton.1 h]
        simp only [Bool.and_eq_true, Bool.not_eq_true'] at hc
        exact .inr ⟨hc.1.2, .inr ⟨p, hp, hi, .inl rfl⟩⟩
      case isFalse => cases h
    · split at h
      case isTrue hc =>
        rw [List.mem_singleton.1 h]
        simp only [Bool.and_eq_true, Bool.not_eq_true'] at hc
        exact .inr ⟨hc.1.2, .inr ⟨p, hp, hi, .inr rfl⟩⟩
      case isFalse => cases h
  · obtain ⟨t, ht, h⟩ := List.mem_flatMap.1 h
    split at h
    · exact .inl (dropped_kill h)
    case isFalse hm =>
      rw [List.mem_singleton.1 h]
      exact .inr ⟨by simpa using hm, .inl ht⟩

/-- A token of a swept staging is a KILL token, or one that stays. -/
theorem Elem.mem_sweep_out {c : Fin 8} {k : LinkTok} (h : k ∈ (x.sweep ical ctx v a).out[c]) (hi : k.ical = ical) :
    k.tok.kill = true ∨ k.tok.swept ctx v = false ∧ k ∈ x.out[c] := by
  rw [Elem.sweep_out, Fin.getElem_fin, Vector.getElem_map] at h
  obtain ⟨t, ht, h⟩ := List.mem_flatMap.1 h
  split at h
  case isTrue =>
    obtain ⟨u, hu, rfl⟩ := List.mem_map.1 h
    exact .inl (dropped_kill hu)
  case isFalse hm =>
    obtain rfl := List.mem_singleton.1 h
    rw [hi, beq_self_eq_true, Bool.true_and] at hm
    exact .inr ⟨by simpa using hm, ht⟩

/-- The sweep of an iteration leaves none of its tokens. -/
theorem Elem.swept_sweep : (x.sweep ical ctx v a).Swept ical ctx v where
  queue c k h := (x.mem_sweep_queue ical ctx v a h).elim Token.swept_kill And.left
  halves h hh hi := by
    rw [Elem.sweep_halves] at hh
    simpa [hi] using (List.mem_filter.1 hh).2
  ready p hp hi := by
    rw [Elem.sweep_ready] at hp
    simpa [hi] using (List.mem_filter.1 hp).2
  out c k h hi := (x.mem_sweep_out ical ctx v a h hi).elim Token.swept_kill And.left
  parked i p b hs h := by
    rw [Elem.sweep_isb] at h
    simpa using (List.mem_filter.1 h).2

end Sweep

/-- Every other sweep of its plane keeps an element swept. -/
theorem Elem.Swept.sweep {x : Elem} {ical : Bool} {ctx : BitVec 6} {v : BitVec 12} (hx : x.Swept ical ctx v) (ctx' : BitVec 6) (v' : BitVec 12) (a : Alloc) :
    (x.sweep ical ctx' v' a).Swept ical ctx v where
  queue c k h := by
    rcases x.mem_sweep_queue ical ctx' v' a h with h | ⟨-, h | ⟨p, hp, hi, h⟩⟩
    · exact Token.swept_kill h
    · exact hx.queue c k h
    · obtain ⟨ha, hb⟩ := hx.ready p hp hi
      exact h.elim (fun h => h ▸ ha) fun h => h ▸ hb
  halves h hh hi := by
    rw [Elem.sweep_halves] at hh
    exact hx.halves h (List.mem_filter.1 hh).1 hi
  ready p hp hi := by
    rw [Elem.sweep_ready] at hp
    exact hx.ready p (List.mem_filter.1 hp).1 hi
  out c k h hi := (x.mem_sweep_out ical ctx' v' a h hi).elim Token.swept_kill fun h => hx.out c k h.2 hi
  parked i p b hs h := by
    rw [Elem.sweep_isb] at h
    exact hx.parked i p b hs (List.mem_filter.1 h).1

/-- What an element is owed, and the results that it waits for, are no tokens. -/
theorem Elem.swept_owes (x : Elem) (ical : Bool) (ctx : BitVec 6) (v : BitVec 12) (ps : List Pend) (n m : Nat) :
    ({ x with pend := ps, owed := n, owedI := m } : Elem).Swept ical ctx v = x.Swept ical ctx v :=
  propext ⟨fun h => ⟨h.queue, h.halves, h.ready, h.out, h.parked⟩, fun h => ⟨h.queue, h.halves, h.ready, h.out, h.parked⟩⟩

end Sys2Proof.Machine

/-! PROOFS. What the sweep of a killed iteration leaves of a scale file, and what it keeps of the state (07 R258; 08 R298). -/

namespace Sys2Proof.Machine

/-! ### Releases of a scale file -/

/-- No entry that satisfies `p` is bound. -/
def Scl.Free (c : Scl) (p : SclEntry → Bool) : Prop := ∀ n, (c.entry n).bound = true → p (c.entry n) = false

theorem Scl.entry_release_ne (c : Scl) {n m : Nat} (h : m ≠ n) (leak : Bool) : (c.release n leak).entry m = c.entry m := by
  unfold Scl.release
  dsimp only
  split
  · simp only [Scl.entry, tabGet, tabFind_tabPut_ne h]
  · rfl

theorem Scl.entry_release (c : Scl) (n : Nat) (leak : Bool) : ((c.release n leak).entry n).bound = false := by
  unfold Scl.release
  dsimp only
  split
  case isTrue => simp [Scl.entry]
  case isFalse h => simpa using h

/-- An entry that is bound after a release was not touched by it. -/
theorem Scl.release_bound {c : Scl} {n m : Nat} {leak : Bool} (h : ((c.release n leak).entry m).bound = true) :
    m ≠ n ∧ (c.release n leak).entry m = c.entry m := by
  have hm : m ≠ n := by
    rintro rfl
    rw [Scl.entry_release] at h
    cases h
  exact ⟨hm, c.entry_release_ne hm leak⟩

theorem Scl.releases_bound {ns : List Nat} {c : Scl} {m : Nat} (h : ((ns.foldl (fun c n => c.release n true) c).entry m).bound = true) :
    m ∉ ns ∧ (ns.foldl (fun c n => c.release n true) c).entry m = c.entry m := by
  induction ns generalizing c with
  | nil => exact ⟨List.not_mem_nil, rfl⟩
  | cons n ns ih =>
    obtain ⟨hns, he⟩ := ih h
    rw [List.foldl_cons] at h ⊢
    rw [he] at h ⊢
    obtain ⟨hn, he⟩ := Scl.release_bound h
    exact ⟨fun hm => (List.mem_cons.1 hm).elim hn hns, he⟩

/-- A bound entry is listed. -/
theorem Scl.bound_listed {c : Scl} {n : Nat} (h : (c.entry n).bound = true) : (n, c.entry n) ∈ c.entries := by
  cases hf : tabFind n c.entries with
  | none =>
    rw [Scl.entry, tabGet, hf] at h
    cases h
  | some e =>
    rw [Scl.entry, tabGet, hf]
    exact mem_of_tabFind hf

/-- Of the entries that satisfy `p`, none stays bound. -/
theorem Scl.free_releaseAll (c : Scl) (p : SclEntry → Bool) : (c.releaseAll p).Free p := by
  intro m h
  obtain ⟨hm, he⟩ := Scl.releases_bound h
  unfold Scl.releaseAll at h ⊢
  rw [he] at h ⊢
  refine Bool.eq_false_iff.2 fun hp => hm (List.mem_map.2 ⟨_, List.mem_filter.2 ⟨Scl.bound_listed h, ?_⟩, rfl⟩)
  rw [h, hp]
  rfl

/-- A release binds nothing. -/
theorem Scl.Free.releaseAll {c : Scl} {p : SclEntry → Bool} (h : c.Free p) (q : SclEntry → Bool) : (c.releaseAll q).Free p := by
  intro m hm
  obtain ⟨-, he⟩ := Scl.releases_bound hm
  have := h m
  unfold Scl.releaseAll at hm ⊢
  rw [he] at hm ⊢
  exact this hm

/-! ### What a sweep keeps (08 R298) -/

/-- What a sweep reads of its launch. -/
def Launch.swept (x : Launch) : List Seg × Bool × Nat × Bool := (x.segs, x.ical, x.pages, x.cancelled)

/-- The same of the entry of a die. -/
def Die.swept (k : Nat) (x : Die) : List Seg × Bool × Nat × Bool := (tabGet Launch.zero k x.launches).swept

theorem Die.swept_tabMap {f : Nat → Launch → Launch} (h : ∀ e y, (f e y).swept = y.swept) (k : Nat) (x : Die) :
    Die.swept k { x with launches := tabMap f x.launches } = Die.swept k x := tabGet_tabMap_keeps Launch.swept h _ _ _

/-- Nothing that an answer, a completion or a fault does changes it. -/
theorem Die.swept_aside (k : Nat) : Die.Aside (Die.swept k) where
  faults _ _ _ := rfl
  stop _ _ := Die.swept_tabMap (fun _ y => by split <;> rfl) k _
  latch _ _ := rfl
  queues _ _ := rfl
  walks _ _ _ := rfl
  owed x e n := tabGet_tabPut_keeps (x := { tabGet Launch.zero e x.launches with owed := n }) Launch.swept _ rfl k

/-- An operation that is removed waits for no result and is owed no more. -/
def State.payOp (s : State) (o : MemOp) : State :=
  State.paid (s.onElem (ElemAt.ofKey o.elem) fun e => { e with pend := e.pend.filter fun q => q.op != o.id }) (ElemAt.ofKey o.elem) o.ical o.launch

/-- A ring less the operations that are removed. -/
def Ring.dropOps (y : Ring) (p w : MemOp → Bool) : Ring :=
  { y with
    arriving := y.arriving.filter fun o => !p o, waveBuf := y.waveBuf.filter fun o => !p o, linked := y.linked.filter fun o => !(p o && w o) }

def Ring.gone (y : Ring) (p w : MemOp → Bool) : List MemOp := (y.arriving ++ y.waveBuf).filter p ++ y.linked.filter fun o => p o && w o

theorem State.dropOps_eq (s : State) (r : RingAt) (p w : MemOp → Bool) :
    s.dropOps r p w =
      (((s.ring r).gone p w).filter fun o => !o.watched).foldl State.payOp
        ((s.onRing r fun y => y.dropOps p w).unwait r (((s.ring r).gone p w).map MemOp.id)) := rfl

theorem State.swept_unwait (s : State) (k : Nat) (r : RingAt) (ids : List Nat) : (s.unwait r ids).part (Die.swept k) = s.part (Die.swept k) :=
  State.part_onDie (Die.swept k) s (f := fun x => { x with walks := x.walks.map fun w => { w with waiters := w.waiters.filterMap (Waiter.without ids) } })
    (by intros; rfl) r.die

theorem State.payOp_rings (s : State) (o : MemOp) : (s.payOp o).rings = s.rings := rfl

theorem State.swept_payOp (s : State) (k : Nat) (o : MemOp) : (s.payOp o).part (Die.swept k) = s.part (Die.swept k) := by
  unfold State.payOp
  exact (State.part_paid (Die.swept_aside k) _ _ _ _).trans (State.part_of_dies _ (State.onElem_dies ..))

theorem State.swept_dropOps (s : State) (k : Nat) (r : RingAt) (a w : MemOp → Bool) : (s.dropOps r a w).part (Die.swept k) = s.part (Die.swept k) := by
  rw [State.dropOps_eq]
  refine (State.part_foldl _ _ _ (fun t o => State.swept_payOp t k o) _).trans ?_
  rw [State.swept_unwait, State.part_of_dies _ (State.onRing_dies ..)]

theorem State.launch_swept {s t : State} (h : ∀ k, t.part (Die.swept k) = s.part (Die.swept k)) (l : Nat) : (t.launch l).swept = (s.launch l).swept :=
  congrFun (h (l % 4096)) (Fin.ofNat 4 (l / 4096))

theorem State.dropOps_ring_keeps {α : Type} (p : Ring → α)
    (hops : ∀ y as ws ls, p { y with arriving := as, waveBuf := ws, linked := ls } = p y) (hholds : ∀ y hs, p { y with fholds := hs } = p y)
    (s : State) (r : RingAt) (a w : MemOp → Bool) (q : RingAt) : p ((s.dropOps r a w).ring q) = p (s.ring q) := by
  rw [State.dropOps_eq]
  refine (foldl_keeps (fun t : State => p (t.ring q)) _ (fun t o => congrArg p (State.ring_of_rings (t.payOp_rings o) q)) _ _).trans ?_
  unfold State.unwait
  dsimp only
  refine (State.onRing_keeps p _ r (fun y => hholds y _) q).trans ?_
  exact State.onRing_keeps p s r (fun y => hops y _ _ _) q

/-- What the results that elements wait for and are owed leave of them. -/
theorem State.payOp_elem_keeps {α : Type} (p : Elem → α) (h : ∀ x ps n m, p { x with pend := ps, owed := n, owedI := m } = p x) (s : State) (o : MemOp)
    (e : ElemAt) : p ((s.payOp o).elem e) = p (s.elem e) := by
  unfold State.payOp State.paid
  rw [State.elem_of_elems (State.onLaunch_elems ..)]
  by_cases he : e = ElemAt.ofKey o.elem
  · subst he
    rw [State.elem_onElem, State.elem_onElem]
    cases o.ical
    · exact h (s.elem _) _ _ (s.elem _).owedI
    · exact h (s.elem _) _ (s.elem _).owed _
  · rw [State.elem_onElem_ne he, State.elem_onElem_ne he]

theorem State.dropOps_elem_keeps {α : Type} (p : Elem → α) (h : ∀ x ps n m, p { x with pend := ps, owed := n, owedI := m } = p x) (s : State)
    (r : RingAt) (a w : MemOp → Bool) (e : ElemAt) : p ((s.dropOps r a w).elem e) = p (s.elem e) := by
  rw [State.dropOps_eq]
  exact foldl_keeps (fun t : State => p (t.elem e)) _ (fun t o => State.payOp_elem_keeps p h t o e) _ _

end Sys2Proof.Machine

/-! PROOFS. The sweep of a killed iteration segment by segment (08 R298). -/

namespace Sys2Proof.Machine

/-! ### Elements in turn -/

theorem mem_keys_tabPut {α : Type} {k j : Nat} {x : α} {t : Tab α} (h : j ∈ t.map Prod.fst) : j ∈ (tabPut k x t).map Prod.fst := by
  induction t with
  | nil => cases h
  | cons p r ih =>
    obtain ⟨i, y⟩ := p
    simp only [tabPut]
    split
    · exact List.mem_cons_of_mem _ h
    · split
      case isTrue hik => subst hik; exact h
      case isFalse => exact (List.mem_cons.1 h).elim (fun h => h ▸ List.mem_cons_self) fun h => List.mem_cons_of_mem _ (ih h)

section OnElems
variable {s : State} {es : List ElemAt} {f : ElemAt → Elem → Elem} {e : ElemAt} {P : Elem → Prop} (hf : ∀ a x, P x → P (f a x))
include hf

theorem State.onElems_keeps (h : P (s.elem e)) : P ((s.onElems es f).elem e) := by
  induction es generalizing s with
  | nil => exact h
  | cons a as ih =>
    refine ih (s := s.setElem a (f a (s.elem a))) ?_
    by_cases hea : e = a
    · subst hea
      rw [State.elem_setElem]
      exact hf e _ h
    · rwa [State.elem_setElem_ne hea]

theorem State.onElems_mem (hP : ∀ a x, P (f a x)) (he : e ∈ es) : P ((s.onElems es f).elem e) := by
  induction es generalizing s with
  | nil => cases he
  | cons a as ih =>
    rcases List.mem_cons.1 he with rfl | he
    · refine State.onElems_keeps (s := s.setElem e (f e (s.elem e))) (es := as) hf ?_
      rw [State.elem_setElem]
      exact hP e _
    · exact ih he

end OnElems

/-! ### What a sweep keeps -/

/-- A state in which the sweep of launch `l` finds what it finds in `s`. -/
structure State.SweepsAs (l : Nat) (s t : State) : Prop where
  launch : (t.launch l).swept = (s.launch l).swept
  occupied : ∀ r, (t.ring r).occupied = (s.ring r).occupied
  listed : ∀ k ∈ s.elems.map Prod.fst, k ∈ t.elems.map Prod.fst

section SweepsAs
variable {l : Nat} {s t u : State}

theorem State.SweepsAs.refl : State.SweepsAs l s s := ⟨rfl, fun _ => rfl, fun _ h => h⟩

theorem State.SweepsAs.trans (h : State.SweepsAs l s t) (h' : State.SweepsAs l t u) : State.SweepsAs l s u :=
  ⟨h'.launch.trans h.launch, fun r => (h'.occupied r).trans (h.occupied r), fun k hk => h'.listed k (h.listed k hk)⟩

theorem Launch.swept_parts {x y : Launch} (h : x.swept = y.swept) : x.segs = y.segs ∧ x.ical = y.ical ∧ x.pages = y.pages ∧ x.cancelled = y.cancelled := by
  simpa [Launch.swept] using h

theorem State.SweepsAs.frozenAt (h : State.SweepsAs l s t) (r : RingAt) : t.frozenAt l r = s.frozenAt l r := by
  obtain ⟨-, hical, -, -⟩ := Launch.swept_parts h.launch
  rw [State.frozenAt, hical, h.occupied, State.frozenAt]

theorem State.SweepsAs.launchElems (h : State.SweepsAs l s t) {e : ElemAt} (he : e ∈ s.launchElems l) : e ∈ t.launchElems l := by
  obtain ⟨hsegs, hical, hpages, -⟩ := Launch.swept_parts h.launch
  obtain ⟨g, hg, he⟩ := List.mem_flatMap.1 he
  obtain ⟨he, hpage⟩ := List.mem_filter.1 he
  obtain ⟨he, hring⟩ := List.mem_filter.1 he
  obtain ⟨p, hp, rfl⟩ := List.mem_map.1 he
  obtain ⟨p', hp', hpp⟩ := List.mem_map.1 (h.listed p.1 (List.mem_map_of_mem hp))
  refine List.mem_flatMap.2 ⟨g, hsegs ▸ hg, List.mem_filter.2 ⟨List.mem_filter.2 ⟨List.mem_map.2 ⟨p', hp', by rw [hpp]⟩, hring⟩, ?_⟩⟩
  rw [hical, hpages]
  exact hpage

end SweepsAs

theorem State.onElem_sweepsAs (s : State) (l : Nat) (e : ElemAt) (f : Elem → Elem) : State.SweepsAs l s (s.onElem e f) :=
  ⟨rfl, fun _ => rfl, fun _ h => mem_keys_tabPut h⟩

theorem State.onElems_sweepsAs (s : State) (l : Nat) (es : List ElemAt) (f : ElemAt → Elem → Elem) : State.SweepsAs l s (s.onElems es f) := by
  induction es generalizing s with
  | nil => exact .refl
  | cons a as ih => exact .trans (s.onElem_sweepsAs l a (f a)) (ih _)

theorem State.onRing_sweepsAs (s : State) (l : Nat) (r : RingAt) {f : Ring → Ring} (h : ∀ y, (f y).occupied = y.occupied) :
    State.SweepsAs l s (s.onRing r f) := ⟨rfl, State.onRing_keeps Ring.occupied s r h, fun _ h => h⟩

theorem State.payOp_listed (s : State) (o : MemOp) : ∀ k ∈ s.elems.map Prod.fst, k ∈ (s.payOp o).elems.map Prod.fst :=
  fun _ h => mem_keys_tabPut (mem_keys_tabPut h)

theorem State.dropOps_sweepsAs (s : State) (l : Nat) (r : RingAt) (a w : MemOp → Bool) : State.SweepsAs l s (s.dropOps r a w) where
  launch := State.launch_swept (fun k => s.swept_dropOps k r a w) l
  occupied := State.dropOps_ring_keeps Ring.occupied (fun _ _ _ _ => rfl) (fun _ _ => rfl) s r a w
  listed k hk := by
    rw [State.dropOps_eq]
    have hfold : ∀ (os : List MemOp) (t : State), k ∈ t.elems.map Prod.fst → k ∈ (os.foldl State.payOp t).elems.map Prod.fst := by
      intro os
      induction os with
      | nil => exact fun _ h => h
      | cons o os ih => exact fun t h => ih _ (t.payOp_listed o k h)
    exact hfold _ _ hk

/-! ### One segment -/

/-- Whether a segment is swept of an iteration. -/
def State.sweeps (s : State) (l : Nat) (v : BitVec 12) (g : Seg) : Bool :=
  (g.alloc.isKilled v || (s.launch l).cancelled) && !s.frozenAt l ⟨g.die, g.ring⟩

/-- An entry that a sweep releases. -/
def Seg.binds (g : Seg) (l : Nat) (v : BitVec 12) (e : SclEntry) : Bool := e.ctx == g.ctx && e.oiter == v && e.olaunch == BitVec.ofNat 12 l

section Segment
variable {l : Nat} {v : BitVec 12} {g : Seg} {s : State}

theorem State.sweepSeg_skip (h : s.sweeps l v g = false) : s.sweepSeg l v g = s := if_neg (by rw [State.sweeps] at h; rw [h]; decide)

theorem State.sweepSeg_swept (h : s.sweeps l v g = true) :
    ∃ (n : Ring → BitVec 64) (a w : MemOp → Bool), s.sweepSeg l v g =
      ((s.dropOps ⟨g.die, g.ring⟩ a w).onElems ((s.launchElems l).filter fun e => decide (e.at_.ring = ⟨g.die, g.ring⟩))
        fun _ e => e.sweep (s.launch l).ical g.ctx v g.alloc).onRing ⟨g.die, g.ring⟩ fun y =>
          { y with elKilldrop := n y, scl := y.scl.releaseAll (g.binds l v) } := by
  exact ⟨_, _, _, if_pos h⟩

theorem State.sweepSeg_sweepsAs (s : State) (l : Nat) (v : BitVec 12) (g : Seg) : State.SweepsAs l s (s.sweepSeg l v g) := by
  cases h : s.sweeps l v g with
  | false => rw [State.sweepSeg_skip h]; exact .refl
  | true =>
    obtain ⟨n, a, w, he⟩ := State.sweepSeg_swept h
    rw [he]
    exact .trans (.trans (s.dropOps_sweepsAs l _ a w) (State.onElems_sweepsAs _ l _ _)) (State.onRing_sweepsAs _ l _ fun _ => rfl)

/-- An element of a segment that is swept holds no token of the iteration. -/
theorem State.sweepSeg_elem (h : s.sweeps l v g = true) {e : ElemAt} (he : e ∈ s.launchElems l) (hr : e.at_.ring = ⟨g.die, g.ring⟩) :
    ((s.sweepSeg l v g).elem e).Swept (s.launch l).ical g.ctx v := by
  obtain ⟨n, a, w, hs⟩ := State.sweepSeg_swept h
  rw [hs, State.elem_of_elems (State.onRing_elems ..)]
  exact State.onElems_mem (P := fun x => x.Swept (s.launch l).ical g.ctx v) (fun _ x hx => hx.sweep g.ctx v g.alloc)
    (fun _ x => x.swept_sweep ..) (List.mem_filter.2 ⟨he, decide_eq_true hr⟩)

/-- A sweep of another segment leaves it so. -/
theorem State.sweepSeg_elem_keeps {ctx : BitVec 6} {e : ElemAt} {v' : BitVec 12} (h : (s.elem e).Swept (s.launch l).ical ctx v') :
    ((s.sweepSeg l v g).elem e).Swept (s.launch l).ical ctx v' := by
  cases hs : s.sweeps l v g with
  | false => rwa [State.sweepSeg_skip hs]
  | true =>
    obtain ⟨n, a, w, he⟩ := State.sweepSeg_swept hs
    rw [he, State.elem_of_elems (State.onRing_elems ..)]
    refine State.onElems_keeps (P := fun x => x.Swept (s.launch l).ical ctx v') (fun _ x hx => hx.sweep ..) ?_
    exact (State.dropOps_elem_keeps (fun x => x.Swept (s.launch l).ical ctx v') (fun x ps n m => x.swept_owes ..) s _ a w e).mpr h

theorem State.sweepSeg_scl (h : s.sweeps l v g = true) : ((s.sweepSeg l v g).ring ⟨g.die, g.ring⟩).scl.Free (g.binds l v) := by
  obtain ⟨n, a, w, hs⟩ := State.sweepSeg_swept h
  rw [hs, State.ring_onRing]
  exact Scl.free_releaseAll _ (g.binds l v)

theorem State.sweepSeg_scl_keeps {r : RingAt} {p : SclEntry → Bool} (h : (s.ring r).scl.Free p) : ((s.sweepSeg l v g).ring r).scl.Free p := by
  cases hs : s.sweeps l v g with
  | false => rwa [State.sweepSeg_skip hs]
  | true =>
    obtain ⟨n, a, w, he⟩ := State.sweepSeg_swept hs
    have hkeep : ∀ q, (((s.dropOps ⟨g.die, g.ring⟩ a w).onElems ((s.launchElems l).filter fun e => decide (e.at_.ring = ⟨g.die, g.ring⟩))
        fun _ e => e.sweep (s.launch l).ical g.ctx v g.alloc).ring q).scl = (s.ring q).scl := fun q => by
      rw [State.ring_of_rings (State.onElems_rings ..)]
      exact State.dropOps_ring_keeps Ring.scl (fun _ _ _ _ => rfl) (fun _ _ => rfl) s _ a w q
    rw [he]
    by_cases hr : r = ⟨g.die, g.ring⟩
    · subst hr
      rw [State.ring_onRing]
      dsimp only
      rw [hkeep]
      exact h.releaseAll _
    · rwa [State.ring_onRing_ne hr, hkeep]

end Segment

/-! ### Every segment in turn -/

def State.sweepAll (s : State) (l : Nat) (v : BitVec 12) (gs : List Seg) : State := gs.foldl (fun s g => s.sweepSeg l v g) s

section All
variable {l : Nat} {v : BitVec 12}

theorem State.sweepAll_sweepsAs (s : State) (gs : List Seg) : State.SweepsAs l s (s.sweepAll l v gs) := by
  induction gs generalizing s with
  | nil => exact .refl
  | cons g gs ih => exact .trans (s.sweepSeg_sweepsAs l v g) (ih _)

theorem State.sweepAll_elem_keeps {s : State} {gs : List Seg} {ctx : BitVec 6} {e : ElemAt} {v' : BitVec 12}
    (h : (s.elem e).Swept (s.launch l).ical ctx v') : ((s.sweepAll l v gs).elem e).Swept (s.launch l).ical ctx v' := by
  induction gs generalizing s with
  | nil => exact h
  | cons g gs ih =>
    obtain ⟨-, hical, -, -⟩ := Launch.swept_parts (s.sweepSeg_sweepsAs l v g).launch
    have h := State.sweepSeg_elem_keeps (v := v) (g := g) h
    rw [← hical] at h ⊢
    exact ih h

theorem State.sweepAll_scl_keeps {s : State} {gs : List Seg} {r : RingAt} {p : SclEntry → Bool} (h : (s.ring r).scl.Free p) :
    ((s.sweepAll l v gs).ring r).scl.Free p := by
  induction gs generalizing s with
  | nil => exact h
  | cons g gs ih => exact ih (State.sweepSeg_scl_keeps h)

theorem State.sweepAll_skip {s : State} {gs : List Seg} (h : ∀ g ∈ gs, s.sweeps l v g = false) : s.sweepAll l v gs = s := by
  induction gs with
  | nil => rfl
  | cons g gs ih =>
    rw [State.sweepAll, List.foldl_cons, State.sweepSeg_skip (h g List.mem_cons_self)]
    exact ih fun g hg => h g (List.mem_cons_of_mem _ hg)

/-- A segment that is swept, among the others. -/
theorem State.sweepAll_mem {s : State} {gs : List Seg} {g : Seg} (hg : g ∈ gs) (hs : s.sweeps l v g = true) :
    (∀ e ∈ s.launchElems l, e.at_.ring = ⟨g.die, g.ring⟩ → ((s.sweepAll l v gs).elem e).Swept (s.launch l).ical g.ctx v) ∧
      ((s.sweepAll l v gs).ring ⟨g.die, g.ring⟩).scl.Free (g.binds l v) := by
  obtain ⟨pre, post, rfl⟩ := List.append_of_mem hg
  have hpre : State.SweepsAs l s (s.sweepAll l v pre) := State.sweepAll_sweepsAs ..
  have hfold : s.sweepAll l v (pre ++ g :: post) = ((s.sweepAll l v pre).sweepSeg l v g).sweepAll l v post := List.foldl_append
  obtain ⟨-, hical, -, hcancel⟩ := Launch.swept_parts hpre.launch
  have hs' : (s.sweepAll l v pre).sweeps l v g = true := by rwa [State.sweeps, hcancel, hpre.frozenAt]
  rw [hfold]
  refine ⟨fun e he hr => ?_, State.sweepAll_scl_keeps (State.sweepSeg_scl hs')⟩
  obtain ⟨-, hical', -, -⟩ := Launch.swept_parts ((s.sweepAll l v pre).sweepSeg_sweepsAs l v g).launch
  have h := State.sweepSeg_elem hs' (hpre.launchElems he) hr
  rw [← hical'] at h
  rw [← hical, ← hical']
  exact State.sweepAll_elem_keeps h

end All

/-- What a sweep removes, in the statement's words. -/
theorem Token.not_swept {ctx : BitVec 6} {v : BitVec 12} {k : Token} (h : k.swept ctx v = false) : ¬(k.ctx = ctx ∧ k.iter = v ∧ k.kill = false) := by
  rintro ⟨rfl, rfl, hk⟩
  simp [Token.swept, hk] at h

theorem killedIterationSwept : Claim.KilledIterationSwept := by
  intro s die entry v l ical
  have hexec : exec (.iterKillSweep die entry v) s = .next (s.sweepAll l v (s.launch l).segs) := rfl
  refine ⟨⟨_, hexec, fun g hg hk hf => ?_⟩, fun h => ?_⟩
  · intro mine
    obtain ⟨helem, hscl⟩ := State.sweepAll_mem (v := v) hg (by rw [State.sweeps, hk, hf]; rfl)
    refine ⟨fun e he hr => ?_, fun n => ?_⟩
    · obtain ⟨hq, hh, hp, ho, hi⟩ := helem e he hr
      exact ⟨fun c k h => Token.not_swept (hq c k h), fun y h e => Token.not_swept (hh y h e),
        fun p h e => ⟨Token.not_swept (hp p h e).1, Token.not_swept (hp p h e).2⟩, fun c k h e => Token.not_swept (ho c k h e),
        fun i a b hs h => Token.not_swept (hi i a b hs h)⟩
    · intro y hb ⟨hctx, hiter, hl⟩
      have hfree := hscl n hb
      simp only [Seg.binds, Bool.and_eq_false_iff, beq_eq_false_iff_ne] at hfree
      exact hfree.elim (fun h => h.elim (fun h => h hctx) fun h => h hiter) fun h => h hl
  · rw [hexec, State.sweepAll_skip]
    intro g hg
    rcases h g hg with ⟨hk, hc⟩ | hf
    · rw [State.sweeps, hk, hc]; rfl
    · rw [State.sweeps, hf, Bool.not_true, Bool.and_false]

end Sys2Proof.Machine

/-! PROOFS. The base of a segment passes what has ended (08 R296). -/

namespace Sys2Proof.Machine

/-! ### Passed values -/

/-- The allocator `h` is `g` with its base past `k` values that have ended. -/
structure Alloc.Passed (g h : Alloc) (k : Nat) : Prop where
  base : h.base = g.base + .ofNat 12 k
  span : h.span = g.span - k
  gone : ∀ i < k, Alloc.gone (g.mark (g.base + .ofNat 12 i)) = true
  mark : ∀ v, (∀ i < k, v ≠ g.base + .ofNat 12 i) → h.mark v = g.mark v

theorem Alloc.Passed.refl (g : Alloc) : Alloc.Passed g g 0 := ⟨by simp, rfl, nofun, fun _ _ => rfl⟩

theorem Alloc.mark_pass {a : Alloc} {v : BitVec 12} (h : v ≠ a.base) : a.pass.mark v = a.mark v := by
  have hne : v.toNat ≠ a.base.toNat := fun e => h (BitVec.eq_of_toNat_eq e)
  rw [Alloc.mark, Alloc.pass, tabGet, tabFind_tabDel, if_neg hne]
  rfl

theorem Alloc.Passed.pass {g h : Alloc} {k : Nat} (hp : Alloc.Passed g h k) (hk : k < 4096) (hg : Alloc.gone (h.mark h.base) = true) :
    Alloc.Passed g h.pass (k + 1) := by
  obtain ⟨hbase, hspan, hgone, hmark⟩ := hp
  refine ⟨?_, ?_, fun i hi => ?_, fun v hv => ?_⟩
  · show h.base + 1 = _
    rw [hbase, BitVec.ofNat_add, BitVec.add_assoc]
    rfl
  · show h.span - 1 = _
    omega
  · rcases Nat.lt_succ_iff_lt_or_eq.1 hi with hi | rfl
    · exact hgone i hi
    · rw [hbase, hmark] at hg
      · exact hg
      · intro j hj he
        have := congrArg BitVec.toNat ((BitVec.add_right_inj _).1 he)
        simp only [BitVec.toNat_ofNat] at this
        omega
  · rw [Alloc.mark_pass (hbase ▸ hv k (Nat.lt_succ_self k)), hmark v fun i hi => hv i (Nat.lt_succ_of_lt hi)]

/-! ### One step of the base -/

theorem Launch.seg_onSeg (x : Launch) (d : Fin 4) {f : Seg → Seg} (hf : ∀ g, (f g).die = g.die) : (x.onSeg d f).seg d = (x.seg d).map f := by
  unfold Launch.seg Launch.onSeg
  induction x.segs with
  | nil => rfl
  | cons g gs ih =>
    by_cases hg : g.die = d
    · simp [hg, hf]
    · simpa [hg] using ih

/-- A segment whose base has passed a value. -/
def Seg.pass (g : Seg) : Seg := { g with alloc := g.alloc.pass }

section Base
variable {s : State} {l : Nat} {d : Fin 4} {g : Seg}

theorem State.sendSlot_launch (s : State) (d t : Fin 4) (x : Slot) (l : Nat) : (s.sendSlot d t x).launch l = s.launch l := by
  refine State.launch_of_launches (congrFun ?_) l
  show (s.sendSlot d t x).part Die.launches = s.part Die.launches
  unfold State.sendSlot
  split
  · rfl
  · exact State.part_onDie _ s (by intros; rfl) d

theorem State.sweepBase_sweepsAs (s : State) (l : Nat) (d : Fin 4) : State.SweepsAs l s (s.sweepBase l d) := by
  unfold State.sweepBase
  split
  · exact s.sweepSeg_sweepsAs ..
  · exact .refl

theorem State.sweepBase_seg (s : State) (l : Nat) (d : Fin 4) : ((s.sweepBase l d).launch l).seg d = (s.launch l).seg d := by
  obtain ⟨hsegs, -⟩ := Launch.swept_parts (s.sweepBase_sweepsAs l d).launch
  unfold Launch.seg
  rw [hsegs]

theorem State.launch_of_dies {s t : State} (h : t.dies = s.dies) (l : Nat) : t.launch l = s.launch l :=
  State.launch_of_launches (fun e => by rw [State.die, h, ← State.die]) l

theorem State.onRings_launch (s : State) (rs : List RingAt) (f : RingAt → Ring → Ring) (l : Nat) : (s.onRings rs f).launch l = s.launch l :=
  State.launch_of_dies (s.onRings_dies rs f) l

theorem State.settleIter_launch (s : State) (l : Nat) (d : Fin 4) (v : BitVec 12) (m : Nat) : (s.settleIter l d v).launch m = s.launch m :=
  State.launch_of_dies (State.onElems_dies ..) m

theorem State.passBase_stays (h : (s.sweepBase l d).canPass l d = false) : s.passBase l d = s.sweepBase l d := if_neg (by rw [h]; decide)

theorem State.passBase_seg (h : (s.sweepBase l d).canPass l d = true) :
    ((s.passBase l d).launch l).seg d = ((s.launch l).seg d).map Seg.pass := by
  have hp : s.passBase l d = _ := if_pos h
  rw [hp, State.sendSlot_launch, State.onRings_launch, State.launch_onLaunch, State.settleIter_launch]
  exact (Launch.seg_onSeg _ d (f := Seg.pass) fun _ => rfl).trans (by rw [State.sweepBase_seg])

theorem State.canPass_gone (hc : s.canPass l d = true) (hg : (s.launch l).seg d = some g) : Alloc.gone (g.alloc.mark g.alloc.base) = true := by
  have ha : (s.launch l).alloc d = g.alloc := by rw [Launch.alloc, hg]; rfl
  unfold State.canPass at hc
  simp only [ha, Bool.and_eq_true] at hc
  exact hc.1.1.2

/-- A step of the base passes no value, or one that has ended. -/
theorem State.passBase_passed {g0 : Alloc} {k : Nat} (hg : (s.launch l).seg d = some g) (hp : Alloc.Passed g0 g.alloc k) (hk : k < 4096) :
    ∃ h j, ((s.passBase l d).launch l).seg d = some h ∧ Alloc.Passed g0 h.alloc j ∧ k ≤ j ∧ j ≤ k + 1 ∧
      ((s.sweepBase l d).canPass l d = true → j = k + 1) := by
  have hg' : ((s.sweepBase l d).launch l).seg d = some g := by rw [State.sweepBase_seg, hg]
  cases hc : (s.sweepBase l d).canPass l d with
  | false => exact ⟨g, k, by rw [State.passBase_stays hc, hg'], hp, le_refl k, Nat.le_succ k, nofun⟩
  | true => exact ⟨_, k + 1, by rw [State.passBase_seg hc, hg]; rfl, hp.pass hk (State.canPass_gone hc hg'), Nat.le_succ k, le_refl _, fun _ => rfl⟩

theorem State.passBases_passed {g0 : Alloc} (xs : List Nat) {k : Nat} (hg : (s.launch l).seg d = some g) (hp : Alloc.Passed g0 g.alloc k)
    (hk : k + xs.length < 4096) :
    ∃ h j, ((xs.foldl (fun s _ => s.passBase l d) s).launch l).seg d = some h ∧ Alloc.Passed g0 h.alloc j ∧ k ≤ j ∧ j ≤ k + xs.length := by
  induction xs generalizing s g k with
  | nil => exact ⟨g, k, hg, hp, le_refl k, le_refl k⟩
  | cons x xs ih =>
    rw [List.length_cons] at hk
    obtain ⟨h, j, hh, hj, hkj, hjk, -⟩ := State.passBase_passed hg hp (by omega)
    obtain ⟨h', j', hh', hj', hle, hle'⟩ := ih hh hj (by omega)
    exact ⟨h', j', hh', hj', by omega, by rw [List.length_cons]; omega⟩

theorem State.advanceSeg_eq (s : State) (l : Nat) (d : Fin 4) : s.advanceSeg l d = [1, 2, 3].foldl (fun s _ => s.passBase l d) (s.passBase l d) := by
  rw [State.advanceSeg, show List.range 4 = [0, 1, 2, 3] from rfl, List.foldl_cons]

/-- A base that cannot pass stays, and with it, unless it is killed or its launch cancelled, everything else. -/
theorem State.advanceSeg_stays (hg : (s.launch l).seg d = some g) (hc : s.canPass l d = false) (hk : g.alloc.isKilled g.alloc.base = false)
    (hl : (s.launch l).cancelled = false) : s.advanceSeg l d = s := by
  have hsweep : s.sweepBase l d = s := by
    unfold State.sweepBase
    rw [hg]
    exact State.sweepSeg_skip (by rw [State.sweeps, hk, hl]; rfl)
  have hpass : s.passBase l d = s := by rw [State.passBase_stays (by rw [hsweep, hc]), hsweep]
  exact List.foldl_fixed' (fun _ => hpass) _

end Base

theorem windowAdvances : Claim.WindowAdvances := by
  intro s die entry l g
  have hexec : exec (.windowAdvance die entry) s = execWindowAdvance die entry s := rfl
  refine ⟨hexec, fun hg => ⟨fun hc => ?_, fun hc hk hl => State.advanceSeg_stays hg hc hk hl⟩⟩
  rw [State.advanceSeg_eq]
  obtain ⟨h, j, hh, hp, -, -, hj⟩ := State.passBase_passed hg (.refl g.alloc) (by decide)
  obtain ⟨h', k, hh', ⟨hbase, hspan, hgone, -⟩, hjk, hk4⟩ := State.passBases_passed [1, 2, 3] hh hp (by rw [hj hc]; decide)
  rw [hj hc] at hjk hk4
  exact ⟨h', k, hh', hjk, hk4, hbase, hspan, hgone⟩

/-- Settles O16: an absorbed KILL token goes to each of its channels once; a swept element stays swept through every other sweep, and a released entry
stays free; each step of a base passes one value that has ended, or none. -/
theorem killsAndTheWindow : Obligations.KillsAndTheWindow := ⟨killTokenAbsorbed, matrixKillAbsorbed, killedIterationSwept, windowAdvances⟩

end Sys2Proof.Machine
